-- ==== Sys2Proof/Word.lean ====
section
/-! DEFINITION. The plain word types of the chip set and their plainest arithmetic:
bytes, 32-bit cycle numbers compared by their difference (R121), and the saturating
32-bit counters (R107, R279, R301, R329, R364, R395, R421, R583). -/

namespace Sys2Proof

/-- One byte of a frame, a payload, a register or a memory. -/
abbrev Byte := BitVec 8

/-- A cycle number: 32 bits, wrapping (R34, R109). -/
abbrev Cycle := BitVec 32

/-- A 32-bit register, count or field. -/
abbrev Word := BitVec 32

/-- A binary32 pattern (R244). -/
abbrev F32 := BitVec 32

/-- A binary64 pattern (R208, R298). -/
abbrev F64 := BitVec 64

/-- A GMAC key (R118). -/
abbrev Key := BitVec 128

/-- The difference of two cycle numbers modulo 2^32, read as a signed value (R121). -/
def cycleDiff (a b : Cycle) : Int := (a - b).toInt

/-- A saturating 32-bit increment (R107: all counters are 32 bits and saturating). -/
def satInc (c : Word) : Word := if c = BitVec.allOnes 32 then c else c + 1

/-- A saturating 32-bit addition of `n`. -/
def satAdd (c : Word) (n : Nat) : Word := BitVec.ofNat 32 (min (c.toNat + n) (2 ^ 32 - 1))

end Sys2Proof
end

