-- ==== Sys2Proof/Syntax.lean ====
section
/-! DEFINITION. The commands of the block: one constructor of `Instr` for each row of
spec/opcode_table.json, in the table's order, with the row's operands. An operand carries what
reaches the modelled director or the modelled cell controller from outside: the bits on a line,
a measured arrival, a converter's codes, a register access, the outcome of a hardware check the
spec leaves to physics. What the chips compute themselves is no operand. -/

namespace Sys2Proof

/-- The two links of a cell controller (R27, R95): LA to Side X, LB to Side Y. -/
inductive Link | la | lb
  deriving DecidableEq, Repr

/-- The two sides of a converter (R26). -/
inductive Side | x | y
  deriving DecidableEq, Repr

/-- The two host interfaces (R422, R424). -/
inductive Iface | pcie | spi
  deriving DecidableEq, Repr

/-- Which transmission window of a tree a burst arrived in (R79, R84). -/
inductive BurstWin
  | slot (n : Nat)      -- cell or measurement slot Sn
  | sub (i : Nat)       -- management sub-slot i
  | join                -- the join window
  deriving DecidableEq, Repr

/-- What the tree port's search of one window finds on the fibre (R84, R106). -/
structure BurstSeen where
  /-- arrival error of the delimiter edge in units of 25 ps; none: no edge in the search window -/
  err   : Option Int
  /-- the line bits of the burst body after the short delimiter, as the port's input takes them: still scrambled and stuffed,
  and inverted where the fibre inverts them (R366) -/
  bits  : List Bool
  /-- light on the fibre, from one bit-time of 0.4 ns to another: counted from the start of the slot or sub-slot, or from
  the end of the management window where the join window opens (R82, R106) -/
  light : List (Nat × Nat)
  deriving DecidableEq, Repr

/-- A hardware disturbance of a control-path phase (R54, R55). -/
inductive PhaseFault
  | none
  | uncorrectable (addr : Nat)   -- an uncorrectable ECC error at a freeze-map address (R585)
  | overrun                      -- a phase ends later than planned
  deriving DecidableEq, Repr

/-- A downstream line transmission as a cell link receives it after a delimiter (R75, R110). -/
structure DownSeen where
  /-- the 32 bits after the 24 ones and 8 zeros -/
  typeCode : BitVec 32
  /-- body bits on the line, still scrambled and stuffed, up to the last CRC bit or the next delimiter -/
  bits     : List Bool
  /-- the body was cut off by another delimiter (R77) -/
  cut      : Bool
  /-- arrival of the first delimiter bit, units of 25 ps from the start of the link's current cycle -/
  arrival  : Int
  /-- link-time tick of the last FCS bit, counted from the start of the link's current cycle -/
  fcsTick  : Int
  /-- the difference between this link time and the steering link time, units of 25 ps (R161) -/
  delta    : Int
  /-- levels of DSAT1 to DSAT4 when the checks are complete (R181) -/
  dsat     : BitVec 4
  /-- capacitor voltage when the checks are complete, 1 mV (R181) -/
  vcap     : Int := 0
  deriving DecidableEq, Repr

/-- A PTP timestamp or duration in units of 2^-16 ns (R330). -/
abbrev FracNs := Int

/-- A received Sync with its Follow_Up when two-step (R343). -/
structure SyncMsg where
  domain    : Nat      -- domainNumber
  wellFormed : Bool    -- length, versionPTP 2, reserved fields (R343)
  origin    : FracNs   -- originTimestamp (of the Follow_Up when two-step)
  corr      : FracNs   -- correctionField of Sync and Follow_Up
  t2        : FracNs   -- receive instant in converter time at the port's PCS boundary
  deriving DecidableEq, Repr

/-- A received Announce (R340, R345, R502). -/
structure AnnounceMsg where
  domain     : Nat
  wellFormed : Bool
  gmId       : BitVec 64
  priority1  : BitVec 8
  gmClass    : BitVec 8
  accuracy   : BitVec 8
  variance   : BitVec 16
  priority2  : BitVec 8
  stepsRemoved : BitVec 16
  sender     : BitVec 64   -- sourcePortIdentity of the sender
  utcOffset  : BitVec 16
  utcValid   : Bool
  deriving DecidableEq, Repr

/-- A received Pdelay_Resp with its Follow_Up when two-step (R343). -/
structure PdelayRespMsg where
  wellFormed : Bool
  seqId      : BitVec 16
  t2         : FracNs     -- requestReceiptTimestamp
  t3         : FracNs     -- responseOriginTimestamp, corrections included
  t4         : FracNs     -- receive instant in converter time at the PCS boundary
  deriving DecidableEq, Repr

/-- What happens to a time port's link (R392, R393). -/
inductive LinkEvent
  | anegDone            -- auto-negotiation complete
  | synced              -- 10 ms of synchronised code groups
  | down                -- loss of link
  | badSpeed            -- an SGMII partner signals another speed or half duplex
  deriving DecidableEq, Repr

/-- Why a time-port frame is unacceptable (R394, R340). -/
inductive DiscardCause
  | badFcs | badLength | notPtp | pause | unsupported
  deriving DecidableEq, Repr

/-- A Skeund training frame body (R376). -/
structure TrainFrame where
  crcOk    : Bool
  kind     : BitVec 8      -- TS_KIND
  physLane : BitVec 8
  state    : BitVec 4
  req      : BitVec 8
  rsp      : BitVec 8
  pre      : BitVec 8
  post     : BitVec 8
  index    : BitVec 8
  data     : BitVec 128
  /-- the receiver saw the delimiter inverted: 24 zeros, 8 ones, inverted code (R380) -/
  inverted : Bool
  /-- eye metric of the receiver after this frame (R379) -/
  eye      : Nat
  /-- skew against the earliest lane, in ns (R380) -/
  skewNs   : Nat
  deriving DecidableEq, Repr

/-- Why a Skeund lane is lost (R382, R646). -/
inductive LaneCause | cdr | crc | noDelimiter
  deriving DecidableEq, Repr

/-- The kinds of lane that carry a PRBS checker (R388, R518). -/
inductive LaneKind | tree | skeund | timePort | cellLink
  deriving DecidableEq, Repr

/-- A Skeund frame after descrambling (R368, R369). -/
structure SkFrame where
  typeCode  : BitVec 32
  violation : Bool
  bytes     : List Byte     -- header, payload, tag, CRC-32C, as R369 orders them
  /-- arrival of the frame, units of 25 ps from the receiver's start tick (R354) -/
  arrival   : BitVec 32
  deriving DecidableEq, Repr

/-- A burst-enable output that stays asserted (R103): its link, and for how many bit-times of 0.4 ns. -/
structure BabbleSeen where
  link : Link
  held : Nat
  deriving DecidableEq, Repr

/-- What a memory access of a scrubber finds (R566, R567). -/
inductive EccStatus | clean | correctable | uncorrectable
  deriving DecidableEq, Repr

/-- The kinds of memory an uncorrectable word may lie in (R585). -/
inductive MemKind | controlPath | supervisor | other
  deriving DecidableEq, Repr

/-- The board EEPROM as the cell reads it at load: its bytes by address (R235, R236). -/
structure EepromImage where
  /-- the device answers (an absent or dead device reads no MAGIC) -/
  present : Bool
  /-- the device takes 3-byte addresses (R235) -/
  wide    : Bool := false
  /-- its contents when the board was fitted; what the cell has written since stands in State (R236) -/
  bytes   : List (Nat × Byte)
  deriving DecidableEq, Repr

/-- Commands: one constructor per row of spec/opcode_table.json, in its order. -/
inductive Instr
  | cycleStart
  | aceStep (arm : Nat) (fault : PhaseFault)
  | sort (arm : Nat) (hw : Option (List (BitVec 32)))
  | orderAssembly (port : Nat)
  | orderFrameLaunch (port : Nat) (complete : Bool)
  | repeatCopyLaunch (port : Nat)
  | blockInAssert (pin : Nat) (held : Nat) (tick : Nat)
  | slotBurstReceive (port : Nat) (win : BurstWin) (seen : BurstSeen)
  | quarantine (cell : Nat)
  | cellLost (cell : Nat)
  | initialProving (cell : Nat)
  | provingBlock (cell : Nat)
  | joinBurstReceive (port : Nat) (err : Int) (bits : List Bool)
  | joinKeyDerived (port : Nat)
  | joinExchangeTimeout (port : Nat)
  | quarHoldExpire (cell : Nat)
  | cellParamReadTimeout (cell : Nat)
  | cellPatchSend (cell : Nat)
  | mirrorAccept
  | skeundFrameReceive (lane : Nat) (frame : SkFrame)
  | treeSilenceEnd
  | skeundEpochTimeout
  | twinAliveLost
  | twinAliveHealthy
  | watchdogReset
  | handoverYieldTimeout (arm : Nat)
  | timeMarkSend
  | timeMarkReceive (lane : Nat) (frame : SkFrame)
  | twinServoUpdate
  | ptpSyncReceive (port : Nat) (msg : SyncMsg)
  | ptpAnnounceReceive (port : Nat) (msg : AnnounceMsg)
  | announceTimeout (domain : Nat)
  | pdelayReqSend (port : Nat)
  | pdelayReqReceive (port : Nat) (seqId : BitVec 16) (t2 : FracNs)
  | pdelayRespReceive (port : Nat) (msg : PdelayRespMsg)
  | pdelayTimeout (port : Nat)
  | timePortFrameLaunch (port : Nat) (tick : Nat)
  | timePortLinkChange (port : Nat) (ev : LinkEvent)
  | timeStep
  | holdoverExpire
  | refOffset
  | ppsInEdge (input : Nat) (stamp : FracNs)
  | ppsMiss (input : Nat)
  | ppsOutPulse (rise : Bool) (tick : Nat)
  | rootPllUnlock
  | refLoss
  | refReturn
  | rootPllLock
  | trainingFrameSend (lane : Nat)
  | trainingFrameReceive (lane : Nat) (frame : TrainFrame)
  | laneTrainTimeout (lane : Nat)
  | laneTrainRetry (lane : Nat)
  | laneLost (lane : Nat) (cause : LaneCause)
  | laneStatusSend
  | laneStatusReceive (laneOk : BitVec 4)
  | widthChange
  | laneRetrainDone (lane : Nat)
  | prbsCheckerResync (kind : LaneKind) (index : Nat) (errors : Nat)
  | skeundKeyOfferReceive (payload : List Byte)
  | skeundKeyRetry
  | treeRekeyStart (port : Nat)
  | rekeyDone (port : Nat)
  | sessionKeyRoll
  | recordIntervalWrite (room : Bool)
  | triggerDecide
  | autoTrigger
  | segmentClose
  | recorderRearm
  | tqDataRead (queue : Nat)
  | mbxRing (iface : Iface) (bits : BitVec 4)
  | mbxDoneClear (bits : BitVec 4)
  | ringRejectClear (bits : BitVec 4)
  | mbxWindowWrite (iface : Iface) (offset : Nat) (data : List Byte)
  | evtTailWrite (value : BitVec 32)
  | evtLostRead
  | spiCrcFailRead
  | timeSnapLoRead (iface : Iface) (tick : Nat)
  | registerWriteOther (iface : Iface) (offset : Nat) (value : BitVec 32) (whole : Bool)
  | spiRead (addr : Nat) (len : Nat) (tick : Nat)
  | spiWrite (addr : Nat) (data : List Byte)
  | spiReadCrc (addr : Nat) (len : Nat) (tick : Nat)
  | spiWriteCrc (addr : Nat) (data : List Byte) (crc : Option (BitVec 16))
  | spiUnknownInstruction (code : BitVec 8) (len : Nat)
  | pcieReset
  | mailboxTake (mb : Nat)
  | jobDispatch (core : Nat) (ue : Option Nat)
  | jobRelease (core : Nat) (releases : Bool)
  | eventEntryWrite
  | overflowEntryWrite
  | commandTimeout (mb : Nat)
  | commandApplyResponse (mb : Nat)
  | bakeRecheck
  | bakeApply
  | paramStageConfirmDeadline
  | devEcho (mb : Nat)
  | devInfo (mb : Nat)
  | devStatus (mb : Nat)
  | devReset (mb : Nat)
  | devResetExecute
  | cfgStageWrite (mb : Nat)
  | cfgStageRead (mb : Nat)
  | cfgDiscard (mb : Nat)
  | cfgBake (mb : Nat)
  | cfgBakeStatus (mb : Nat)
  | cfgDigest (mb : Nat)
  | cellState (mb : Nat)
  | cellParamRead (mb : Nat)
  | cellParamWrite (mb : Nat)
  | cellFaultClear (mb : Nat)
  | cellGateEnable (mb : Nat)
  | cellRelease (mb : Nat)
  | cellInject (mb : Nat)
  | cellEepromRead (mb : Nat)
  | armStatus (mb : Nat)
  | armMode (mb : Nat)
  | armManualInput (mb : Nat)
  | armReference (mb : Nat)
  | armInject (mb : Nat)
  | armBlock (mb : Nat) (tick : Nat)
  | armUnblock (mb : Nat)
  | balExclude (mb : Nat)
  | balRankRead (mb : Nat)
  | balCalRead (mb : Nat)
  | balCalReset (mb : Nat)
  | balEdgeReset (mb : Nat)
  | redLeaseMap (mb : Nat)
  | redClaim (mb : Nat)
  | redIsolate (mb : Nat)
  | redHandover (mb : Nat)
  | timeSnapshot (mb : Nat) (tick : Nat)
  | timeDomain (mb : Nat)
  | timeSet (mb : Nat)
  | timeRebase (mb : Nat)
  | recStatus (mb : Nat)
  | recStart (mb : Nat)
  | recStop (mb : Nat)
  | recTrigger (mb : Nat)
  | recRelease (mb : Nat)
  | recHeader (mb : Nat)
  | recExport (mb : Nat) (ue : Bool)
  | recMissLog (mb : Nat)
  | diagCounters (mb : Nat)
  | diagEdge (mb : Nat)
  | diagEdgeRead (mb : Nat)
  | diagEdgeLearned (mb : Nat)
  | diagTx (mb : Nat)
  | diagPrbs (mb : Nat)
  | diagBitslip (mb : Nat) (line : List Bool)
  | diagTrace (mb : Nat)
  | diagFreeze (mb : Nat)
  | diagCellFreeze (mb : Nat)
  | secNonce (mb : Nat)
  | secImageWrite (mb : Nat)
  | secImageVerify (mb : Nat)
  | secImageActivate (mb : Nat)
  | secOwnerUpdate (mb : Nat)
  | secRekey (mb : Nat)
  | secCellPatch (mb : Nat)
  | secLogRead (mb : Nat)
  | evtEnable (mb : Nat)
  | evtVectorMap (mb : Nat)
  | resetAssert
  | resetNRise (side : Side)
  | fuseLoadDone
  | imageLoadDone
  | releaseStepDone (ddrOk : Bool)
  | releaseStepTimeout
  | arbRaise
  | freezeNLow (held : Nat)
  | freezeDrainLimit
  | freezeDrainEnd (drainUs : Nat)
  | frzDataCapture (addr : Option (BitVec 24))
  | glazeWordVisit (addr : Nat) (mem : MemKind) (ecc : EccStatus) (cancelled : Bool)
  | glazePassEnd
  | glazeLate
  | patrolBurst (ecc : EccStatus) (cancelled : Bool)
  | arbiterRecompute
  | grantApplyDone
  | grantWait (block : Nat)
  | thermalSample (t0 t1 t2 t3 : Int)
  | estimatorUpdate (arm : Nat)
  | calTreeRotate (arm : Nat)
  | cellPowerOn
  | cellPowerOff
  | cellFuseLoaded
  | cellEepromLoaded (image : EepromImage)
  | cellNrst
  | frameReceive (link : Link) (seen : DownSeen)
  | urgentBlockReceive (link : Link) (bits : List Bool) (tick : Int)
  | cellCycleStart
  | leaseDecision
  | orderExecute (vcap : Int)
  | trimEdge
  | deadtimeExpire
  | cellCycleEnd
  | holdLimit
  | sampleConversion (quads : List (List Int)) (checks : List Int) (vdd : Nat)
  | averagingSlot (code : Int)
  | housekeepingSlot (code : Int)
  | injectedResult (code : Int) (aperture : Nat)
  | selfCalStart (tick : Int)
  | selfCalEnd (gndCodes : List Int) (refCodes : List Int)
  | slotBurstSend (link : Link)
  | mgmtBurstSend (link : Link) (sub : Nat)
  | joinBurstSend (link : Link)
  | joinAckTimeout (link : Link)
  | joinNakWaitEnd (link : Link)
  | joinExchangeAbandon (link : Link)
  | linkSilenceListen (link : Link)
  | ov1Trip (tick : Nat) (vcap : Int)
  | ov1Rearm
  | ov2Trip (tick : Nat) (vcap : Int)
  | uvChange (vcap : Int)
  | dsatFault (input : Nat) (tick : Nat)
  | gdpgLow (tick : Nat)
  | vstgRise (mv : Nat)
  | vstgFall (mv : Nat) (tick : Nat)
  | lossOfSignal (link : Link) (tick : Int)
  | cellHoldoverExpire (tick : Int)
  | signalReturn (link : Link)
  | clockLock
  | clockLockLost (tick : Int)
  | steeringChange (delta : Int)
  | babbleTrip (seen : BabbleSeen)
  | tsenseEdge (rising : Bool) (at25 : Int)
  | wearEntryWrite
  | eepromWriteDone (readBack : Option (List Byte))
  | cPrbsUpdate (value : BitVec 16)
  | cPrbsErrRead
  | cMemDataCapture (addr : Option (BitVec 20))
  | cMemDataUpdate (addr : Option (BitVec 20)) (value : BitVec 32)
  | gdpgHigh
  | watchdogLapse
  | diagFreezeStart
  | preferredDomainReturn
  | retrainHoldoffEnd (lane : Nat)
  | skeundKeyAge
  | supervisorSramUeReset
  | timePortFrameDiscard (port : Nat) (cause : DiscardCause)
  deriving DecidableEq, Repr

end Sys2Proof
end

