-- ==== Sys2Proof/Decode.lean ====
section
/-! DEFINITION. The table's bits: no row of spec/opcode_table.json gives any, so no word spells a command. -/

namespace Sys2Proof

/-- The command that a word spells by the table's bits (DEDUCED, assumption 1). -/
def decodeTableWord (_nbits _w : Nat) : Option Instr := none

end Sys2Proof
end

