-- ==== Sys2Proof/Config.lean ====
section
/-! DEFINITION. What the spec leaves open, as constants without a body: the results the spec does
not state (free values) and the laws of parts whose formula it does not give.
A statement about one of these holds for every function of its type. -/

namespace Sys2Proof.Config

/-- A free value of 64 bits: the i-th open value of the n-th command of a run (DESIGN CHOICE, assumption 3). -/
opaque freeValue : Nat → Nat → BitVec 64

/-- A free byte: contents of a memory whose layout the spec does not give (DESIGN CHOICE, assumption 3). -/
opaque freeByte : Nat → Nat → Byte

/-- The public key that signs firmware patches (R603), whose bytes the spec does not give. -/
opaque rengauxKey : List Byte

/-- Firmware build that FW_BUILD reports (R460): the FIRMWARE section that carries it is opaque (R541). -/
opaque fwBuild : List Byte → BitVec 32

/-- g_cal in units of 0.01 ppm from the 256 reference conversions (R216); formula not stated. -/
opaque selfCalGain : List Int → List Int → Int

/-- o_cal in µV from the 256 ground conversions (R216); formula not stated. -/
opaque selfCalOffset : List Int → Int

/-- Die temperature in 1/64 °C from the channel 3 code (R221); the sensor's law is not stated. -/
opaque dieTemp : Int → Int

/-- IARM_SAT above IARM that a NaN I_pred gives (R261); no result is stated. -/
opaque nanIarm : BitVec 32 → BitVec 25

/-- Link delay from the last three valid peer-delay results, 2^-16 ns (R343); how they combine is not stated. -/
opaque linkDelay : List Int → Int

/-- Time by which the launch of a peer-delay frame follows its preparation, 2^-16 ns (R342); not stated. -/
opaque launchLead : Nat → Int

/-- MAC address (6 bytes) and sourcePortIdentity (10 bytes) of a time port (R340); not stated. -/
opaque timePortMac : Nat → List Byte
opaque timePortIdentity : Nat → List Byte

end Sys2Proof.Config
end

