-- ==== Sys2Proof/Machine/Bits.lean ====
section
/-! DEFINITION. Bit fields, byte orders and bit strings (R19, R20): big-endian for Xousk, Skeund
and certificates, little-endian for mailbox payloads and BAR registers. -/

namespace Sys2Proof.Machine

/-- Field NAME[hi:lo] of a word (R19). -/
def fld (n hi lo : Nat) : Nat := (n >>> lo) % 2 ^ (hi + 1 - lo)

/-- One bit of a word. -/
def bit (n i : Nat) : Bool := (n >>> i) % 2 = 1

/-- A field of `w` bits read as signed two's complement. -/
def signed (w n : Nat) : Int := if n < 2 ^ (w - 1) then (n : Int) else (n : Int) - 2 ^ w

/-- An integer as `w` bits of two's complement. -/
def unsigned (w : Nat) (i : Int) : Nat := (i % (2 ^ w : Int)).toNat

/-- An integer limited to a range. -/
def clampInt (lo hi i : Int) : Int := if i < lo then lo else if hi < i then hi else i

/-- A Bool as 0 or 1. -/
def b2n (b : Bool) : Nat := if b then 1 else 0

/-- The number that bytes spell big-endian. -/
def beNat (bs : List Byte) : Nat := bs.foldl (fun a b => a * 256 + b.toNat) 0

/-- The number that bytes spell little-endian. -/
def leNat : List Byte → Nat
  | [] => 0
  | b :: r => b.toNat + 256 * leNat r

/-- `k` bytes of a number, little-endian. -/
def toLE : Nat → Nat → List Byte
  | 0, _ => []
  | k + 1, n => BitVec.ofNat 8 n :: toLE k (n / 256)

/-- `k` bytes of a number, big-endian. -/
def toBE (k n : Nat) : List Byte := (toLE k n).reverse

/-- Bytes `a` to `a + n - 1` of a list. -/
def sub (bs : List Byte) (a n : Nat) : List Byte := (bs.drop a).take n

/-- Big-endian field of `n` bytes at `a`. -/
def beAt (bs : List Byte) (a n : Nat) : Nat := beNat (sub bs a n)

/-- Little-endian field of `n` bytes at `a`. -/
def leAt (bs : List Byte) (a n : Nat) : Nat := leNat (sub bs a n)

/-- The byte at `a`, 0 beyond the end. -/
def byteAt (bs : List Byte) (a : Nat) : Nat := (bs.getD a 0).toNat

/-- `n` zero bytes. -/
def zeros (n : Nat) : List Byte := List.replicate n 0

/-- Bytes cut or filled with zeros to `n`. -/
def padTo (n : Nat) (bs : List Byte) : List Byte := (bs ++ zeros n).take n

/-- Every byte is zero. -/
def allZero (bs : List Byte) : Bool := bs.all (· == 0)

/-- The `k` low bits of a number, most significant first. -/
def natBits : Nat → Nat → List Bool
  | 0, _ => []
  | k + 1, n => bit n k :: natBits k n

/-- The number that bits spell, most significant first. -/
def bitsNat (bs : List Bool) : Nat := bs.foldl (fun a b => a * 2 + b2n b) 0

/-- The bits of bytes in line order: ascending bytes, most significant bit first (R108). -/
def bytesBits (bs : List Byte) : List Bool := bs.flatMap fun b => natBits 8 b.toNat

/-- Bytes from bits in line order; a last incomplete byte is dropped. -/
def bitsBytes : Nat → List Bool → List Byte
  | 0, _ => []
  | k + 1, bs => if bs.length < 8 then [] else BitVec.ofNat 8 (bitsNat (bs.take 8)) :: bitsBytes k (bs.drop 8)

/-- floor(a / b + 1/2) for integers, b positive: nearest, halves up. -/
def roundHalfUp (a : Int) (b : Nat) : Int := (2 * a + b) / (2 * b)

/-- floor of a quotient of integers, denominator positive. -/
def floorDiv (a : Int) (b : Nat) : Int := a / (b : Int)

/-- Round up to a whole number. -/
def ceilDiv (a b : Nat) : Nat := (a + b - 1) / b

/-- Update the i-th element of a list. -/
def setAt {α : Type} (l : List α) (i : Nat) (v : α) : List α := l.set i v

/-- The elements with their positions. -/
def withIdx {α : Type} (l : List α) : List (Nat × α) := (List.range l.length).zip l

/-- The numbers below `n` that satisfy `p`. -/
def idxs (n : Nat) (p : Nat → Bool) : List Nat := (List.range n).filter p

/-- Positions of the set bits of a mask below `n`. -/
def maskBits (n m : Nat) : List Nat := idxs n (bit m ·)

/-- The mask with the listed bits set. -/
def maskOf (l : List Nat) : Nat := l.eraseDups.foldl (fun a i => a + 2 ^ i) 0

end Sys2Proof.Machine
end

