-- ==== Sys2Proof/Machine/Crypto.lean ====
section
/-! DEFINITION. The published algorithms that the chip set uses (R15): AES-128 with GCM and GMAC
(NIST SP 800-38D; R118, R129), SHA-256 (FIPS 180-4; R540, R594, R595), and ECDSA and ECDH on P-256
(FIPS 186-5, NIST SP 800-56A; R590 to R600). What the standards leave to chance, a private key or
the number k of a signature, is drawn from free values. -/

namespace Sys2Proof.Machine

/-! AES-128 -/

/-- The S-box, byte 0 first. -/
def sboxWord : Nat :=
  0x637c777bf26b6fc53001672bfed7ab76ca82c97dfa5947f0add4a2af9ca472c0 * 2 ^ 1792
    + 0xb7fd9326363ff7cc34a5e5f171d8311504c723c31896059a071280e2eb27b275 * 2 ^ 1536
    + 0x09832c1a1b6e5aa0523bd6b329e32f8453d100ed20fcb15b6acbbe394a4c58cf * 2 ^ 1280
    + 0xd0efaafb434d338545f9027f503c9fa851a3408f929d38f5bcb6da2110fff3d2 * 2 ^ 1024
    + 0xcd0c13ec5f974417c4a77e3d645d197360814fdc222a908846eeb814de5e0bdb * 2 ^ 768
    + 0xe0323a0a4906245cc2d3ac629195e479e7c8376d8dd54ea96c56f4ea657aae08 * 2 ^ 512
    + 0xba78252e1ca6b4c6e8dd741f4bbd8b8a703eb5664803f60e613557b986c11d9e * 2 ^ 256
    + 0xe1f8981169d98e949b1e87e9ce5528df8ca1890dbfe6426841992d0fb054bb16

def sbox (x : Nat) : Nat := sboxWord >>> (8 * (255 - x)) % 256

/-- Multiply by x in GF(2^8). -/
def xtime (x : Nat) : Nat := if x < 128 then 2 * x else (2 * x) ^^^ 0x11B

/-- A block as 16 numbers, first byte first. -/
def blockBytes (n : Nat) : List Nat := (List.range 16).map fun i => n >>> (8 * (15 - i)) % 256
def blockNat (l : List Nat) : Nat := l.foldl (fun a b => a * 256 + b) 0
def xorEach (a b : List Nat) : List Nat := List.zipWith (· ^^^ ·) a b

/-- Substitute every byte and shift row r by r columns. -/
def subShift (s : List Nat) : List Nat := (List.range 16).map fun i => sbox (s.getD ((i + 4 * (i % 4)) % 16) 0)

/-- Mix the four columns. -/
def mixCols (s : List Nat) : List Nat :=
  (List.range 16).map fun i =>
    let c := i / 4 * 4
    let v (j : Nat) := s.getD (c + j % 4) 0
    v i ^^^ (v 0 ^^^ v 1 ^^^ v 2 ^^^ v 3) ^^^ xtime (v i ^^^ v (i + 1))

/-- The next round key. -/
def nextKey (rc : Nat) (k : List Nat) : List Nat :=
  let b (i : Nat) := k.getD i 0
  let w0 := xorEach (k.take 4) [sbox (b 13) ^^^ rc, sbox (b 14), sbox (b 15), sbox (b 12)]
  let w1 := xorEach ((k.drop 4).take 4) w0
  let w2 := xorEach ((k.drop 8).take 4) w1
  w0 ++ w1 ++ w2 ++ xorEach (k.drop 12) w2

/-- The rounds, one for each round constant; the last one mixes no columns. -/
def aesRounds : List Nat → List Nat → List Nat → List Nat
  | [], _, s => s
  | [rc], k, s => xorEach (subShift s) (nextKey rc k)
  | rc :: r, k, s => let k := nextKey rc k; aesRounds r k (xorEach (mixCols (subShift s)) k)

/-- AES-128 of one block. -/
def aes (key x : Nat) : Nat :=
  let k := blockBytes key
  blockNat (aesRounds [1, 2, 4, 8, 16, 32, 64, 128, 0x1B, 0x36] k (xorEach (blockBytes x) k))

/-! GCM -/

/-- Product in GF(2^128) of GHASH: the bits of `x` from bit `i - 1` down, the sum so far and the shifted operand. -/
def gfMul : Nat → Nat → Nat → Nat → Nat
  | 0, _, z, _ => z
  | i + 1, x, z, v =>
    gfMul i x (if bit x i then z ^^^ v else z) (if v % 2 = 1 then (v / 2) ^^^ (0xE1 * 2 ^ 120) else v / 2)

/-- 16-byte blocks, the last one filled with zeros. -/
def blocks16 (bs : List Byte) : List Nat := (List.range (ceilDiv bs.length 16)).map fun i => beNat (padTo 16 (sub bs (16 * i) 16))

def ghash (h : Nat) (l : List Nat) : Nat := l.foldl (fun y b => gfMul 128 (y ^^^ b) 0 h) 0

/-- The key stream from counter value `2`. -/
def gctr (key : Nat) (iv bs : List Byte) : List Byte :=
  (List.range (ceilDiv bs.length 16)).flatMap fun i =>
    let x := sub bs (16 * i) 16
    List.zipWith (· ^^^ ·) x (toBE 16 (aes key (beNat iv * 2 ^ 32 + 2 + i)))

/-- The GCM tag over additional data and ciphertext under a 96-bit IV. -/
def gcmTag (key : Nat) (iv aad ct : List Byte) : Nat :=
  ghash (aes key 0) (blocks16 aad ++ blocks16 ct ++ [8 * aad.length * 2 ^ 64 + 8 * ct.length]) ^^^ aes key (beNat iv * 2 ^ 32 + 1)

/-- AES-128 GMAC: key, 96-bit IV and additional data (R15, R118). -/
@[irreducible] def gmac (k : Key) (iv aad : List Byte) : BitVec 128 := BitVec.ofNat 128 (gcmTag k.toNat iv aad [])

/-- AES-128 GCM encryption (R129): key, IV, additional data, plaintext; ciphertext and tag. -/
@[irreducible] def gcm (k : Key) (iv aad pt : List Byte) : List Byte × BitVec 128 :=
  let ct := gctr k.toNat iv pt
  (ct, BitVec.ofNat 128 (gcmTag k.toNat iv aad ct))

/-- The plaintext that a GCM ciphertext carries under key and IV (R129). -/
@[irreducible] def gcmPlain (k : Key) (iv ct : List Byte) : List Byte := gctr k.toNat iv ct

/-! SHA-256 -/

/-- The 64 round constants, first one first. -/
def shaK : Nat :=
  0x428a2f9871374491b5c0fbcfe9b5dba53956c25b59f111f1923f82a4ab1c5ed5 * 2 ^ 1792
    + 0xd807aa9812835b01243185be550c7dc372be5d7480deb1fe9bdc06a7c19bf174 * 2 ^ 1536
    + 0xe49b69c1efbe47860fc19dc6240ca1cc2de92c6f4a7484aa5cb0a9dc76f988da * 2 ^ 1280
    + 0x983e5152a831c66db00327c8bf597fc7c6e00bf3d5a7914706ca635114292967 * 2 ^ 1024
    + 0x27b70a852e1b21384d2c6dfc53380d13650a7354766a0abb81c2c92e92722c85 * 2 ^ 768
    + 0xa2bfe8a1a81a664bc24b8b70c76c51a3d192e819d6990624f40e3585106aa070 * 2 ^ 512
    + 0x19a4c1161e376c082748774c34b0bcb5391c0cb34ed8aa4a5b9cca4f682e6ff3 * 2 ^ 256
    + 0x748f82ee78a5636f84c878148cc7020890befffaa4506cebbef9a3f7c67178f2

/-- The initial hash value. -/
def shaInit : Nat :=
  0x6a09e667bb67ae853c6ef372a54ff53a510e527f9b05688c1f83d9ab5be0cd19

def rotr (x n : Nat) : Nat := (x >>> n ||| x <<< (32 - n)) % 2 ^ 32

/-- Extend the message schedule, newest word first. -/
def shaExtend : Nat → List Nat → List Nat
  | 0, w => w
  | n + 1, w =>
    let a := w.getD 14 0
    let b := w.getD 1 0
    let s0 := rotr a 7 ^^^ rotr a 18 ^^^ a >>> 3
    let s1 := rotr b 17 ^^^ rotr b 19 ^^^ b >>> 10
    shaExtend n ((w.getD 15 0 + s0 + w.getD 6 0 + s1) % 2 ^ 32 :: w)

/-- The rounds over the schedule, on the working variables a to h. -/
def shaRounds : Nat → List Nat → Nat × Nat × Nat × Nat × Nat × Nat × Nat × Nat → Nat × Nat × Nat × Nat × Nat × Nat × Nat × Nat
  | _, [], v => v
  | i, x :: r, (a, b, c, d, e, f, g, h) =>
    let s1 := rotr e 6 ^^^ rotr e 11 ^^^ rotr e 25
    let ch := (e &&& f) ^^^ ((2 ^ 32 - 1 - e) &&& g)
    let t1 := h + s1 + ch + shaK >>> (32 * (63 - i)) % 2 ^ 32 + x
    let s0 := rotr a 2 ^^^ rotr a 13 ^^^ rotr a 22
    let maj := (a &&& b) ^^^ (a &&& c) ^^^ (b &&& c)
    shaRounds (i + 1) r ((t1 + s0 + maj) % 2 ^ 32, a, b, c, (d + t1) % 2 ^ 32, e, f, g)

/-- One 64-byte block, as a number, on a hash value. -/
def shaBlock (hv blk : Nat) : Nat :=
  let w := shaExtend 48 ((List.range 16).map fun i => blk >>> (32 * i) % 2 ^ 32)
  let x (i : Nat) := hv >>> (32 * (7 - i)) % 2 ^ 32
  let (a, b, c, d, e, f, g, h) := shaRounds 0 w.reverse (x 0, x 1, x 2, x 3, x 4, x 5, x 6, x 7)
  [(a, 0), (b, 1), (c, 2), (d, 3), (e, 4), (f, 5), (g, 6), (h, 7)].foldl (fun n (v, i) => n * 2 ^ 32 + (v + x i) % 2 ^ 32) 0

/-- SHA-256 of FIPS 180-4 (R15). -/
@[irreducible] def sha256 (bs : List Byte) : BitVec 256 :=
  let z := (119 - bs.length % 64) % 64
  let m := bs ++ 0x80 :: zeros z ++ toBE 8 (8 * bs.length)
  BitVec.ofNat 256 ((List.range (m.length / 64)).foldl (fun h i => shaBlock h (beAt m (64 * i) 64)) shaInit)

/-! P-256 -/

def p256 : Nat := 2 ^ 256 - 2 ^ 224 + 2 ^ 192 + 2 ^ 96 - 1
def n256 : Nat := 0xFFFFFFFF00000000FFFFFFFFFFFFFFFFBCE6FAADA7179E84F3B9CAC2FC632551
def b256 : Nat := 0x5AC635D8AA3A93E7B3EBBD55769886BC651D06B0CC53B0F63BCE3C3E27D2604B
def gx256 : Nat := 0x6B17D1F2E12C4247F8BCE6E563A440F277037D812DEB33A0F4A13945D898C296
def gy256 : Nat := 0x4FE342E2FE1A7F9B8EE7EB4A7C0F9E162BCE33576B315ECECBB6406837BF51F5

/-- b^e modulo m over the low `k` bits of e, from the accumulator. -/
def powMod (m b : Nat) : Nat → Nat → Nat → Nat
  | 0, _, acc => acc
  | k + 1, e, acc => powMod m b k e (if bit e k then acc * acc % m * b % m else acc * acc % m)

def invMod (m x : Nat) : Nat := powMod m x 256 (m - 2) 1
def fieldSub (a b : Nat) : Nat := (a + p256 - b % p256) % p256

/-- A point in Jacobian coordinates; Z = 0 is the point at infinity. -/
structure Jac where
  x : Nat
  y : Nat
  z : Nat
  deriving DecidableEq, Repr

def jacInf : Jac := ⟨1, 1, 0⟩

def jacDouble (p : Jac) : Jac :=
  if p.z = 0 || p.y = 0 then jacInf else
  let zz := p.z * p.z % p256
  let yy := p.y * p.y % p256
  let s := 4 * p.x * yy % p256
  let m := 3 * fieldSub p.x zz * (p.x + zz) % p256
  let x := fieldSub (m * m) (2 * s)
  ⟨x, fieldSub (m * fieldSub s x) (8 * yy * yy), 2 * p.y * p.z % p256⟩

def jacAdd (p q : Jac) : Jac :=
  if p.z = 0 then q else if q.z = 0 then p else
  let zp := p.z * p.z % p256
  let zq := q.z * q.z % p256
  let u1 := p.x * zq % p256
  let u2 := q.x * zp % p256
  let s1 := p.y * zq * q.z % p256
  let s2 := q.y * zp * p.z % p256
  if u1 = u2 then (if s1 = s2 then jacDouble p else jacInf) else
  let h := fieldSub u2 u1
  let r := fieldSub s2 s1
  let hh := h * h % p256
  let h3 := h * hh % p256
  let v := u1 * hh % p256
  let x := fieldSub (r * r) (h3 + 2 * v)
  ⟨x, fieldSub (r * fieldSub v x) (s1 * h3), h * p.z * q.z % p256⟩

/-- The multiple of a point by the low `k` bits of a number, from the accumulator. -/
def jacMul (p : Jac) : Nat → Nat → Jac → Jac
  | 0, _, acc => acc
  | k + 1, e, acc => let d := jacDouble acc; jacMul p k e (if bit e k then jacAdd d p else d)

def pointMul (e : Nat) (p : Jac) : Jac := jacMul p 256 e jacInf
def basePoint : Jac := ⟨gx256, gy256, 1⟩

/-- Affine coordinates; none for the point at infinity. -/
def affine (p : Jac) : Option (Nat × Nat) :=
  if p.z = 0 then none else
  let i := invMod p256 p.z
  let ii := i * i % p256
  some (p.x * ii % p256, p.y * ii * i % p256)

def curveRhs (x : Nat) : Nat := fieldSub (x * x * x + b256) (3 * x)

/-- A public key: a SEC1 compressed point of 33 bytes, or X then Y in 64 bytes. -/
def pointOf (bs : List Byte) : Option Jac :=
  if bs.length = 33 && (byteAt bs 0 = 2 || byteAt bs 0 = 3) then
    let x := beAt bs 1 32
    let y := powMod p256 (curveRhs x) 256 ((p256 + 1) / 4) 1
    if p256 ≤ x || y * y % p256 ≠ curveRhs x then none
    else some ⟨x, if y % 2 = byteAt bs 0 % 2 then y else p256 - y, 1⟩
  else if bs.length = 64 then
    let x := beAt bs 0 32
    let y := beAt bs 32 32
    if p256 ≤ x || p256 ≤ y || y * y % p256 ≠ curveRhs x then none else some ⟨x, y, 1⟩
  else none

/-- The bytes name a point of P-256 (R600); a key that names none is refused like a bad signature (DEDUCED, assumption 80). -/
@[irreducible] def onCurve (bs : List Byte) : Bool := (pointOf bs).isSome

/-- ECDSA P-256 verification of FIPS 186-5: public key bytes, message hash, signature r then s. -/
@[irreducible] def ecdsaVerify (key : List Byte) (h : BitVec 256) (sig : List Byte) : Bool :=
  let r := beAt sig 0 32
  let s := beAt sig 32 32
  if r = 0 || n256 ≤ r || s = 0 || n256 ≤ s || sig.length ≠ 64 then false else
  match pointOf key with
  | none => false
  | some q =>
    let w := invMod n256 s
    match affine (jacAdd (pointMul (h.toNat * w % n256) basePoint) (pointMul (r * w % n256) q)) with
    | some (x, _) => x % n256 = r
    | none => false

/-- ECDSA P-256 signature, r then s, of a message hash under a private key, with the number `k`. -/
@[irreducible] def ecdsaSign (d : BitVec 256) (k : Nat) (h : BitVec 256) : List Byte :=
  let r := ((affine (pointMul k basePoint)).map (·.1)).getD 0 % n256
  toBE 32 r ++ toBE 32 (invMod n256 k * (h.toNat + r * d.toNat) % n256)

/-- A secret number from 1 to n - 1, drawn at random: four free values of a command from index `i` on (R594, R599). -/
def drawScalar (fresh i : Nat) : Nat :=
  ((List.range 4).foldl (fun a j => a * 2 ^ 64 + (Config.freeValue fresh (i + j)).toNat) 0) % (n256 - 1) + 1

/-- SEC1 compressed public key of a private key (R594, R599). -/
@[irreducible] def ecPublic (d : Nat) : List Byte :=
  match affine (pointMul d basePoint) with
  | some (x, y) => BitVec.ofNat 8 (2 + y % 2) :: toBE 32 x
  | none => zeros 33

/-- 32-byte x-coordinate of the ECDH shared point of a private key and a peer's public key (R595); zeros for none. -/
@[irreducible] def ecdhShared (d : Nat) (peer : List Byte) : List Byte :=
  match (pointOf peer).bind fun q => affine (pointMul d q) with
  | some (x, _) => toBE 32 x
  | none => zeros 32

end Sys2Proof.Machine
end

