-- ==== Sys2Proof/Machine/Line.lean ====
section
/-! DEFINITION. The Xousk line code and checks: scrambler and seeds (R70 to R72), bit stuffing
(R73, R74), CRC8 (R117), CRC-16 (R145), CRC-32C (R119), PRBS patterns (R388). -/

namespace Sys2Proof.Machine

/-- The fixed seed 0x5555_5555 of R72, on the 31-bit register. -/
def fixedSeed : BitVec 31 := 0x55555555#31

/-- Seed of R71: bits [30:7] bits [23:0] of the cycle number, bits [6:0] the stream index. -/
def seedOf (cycle : Cycle) (si : Nat) : BitVec 31 :=
  let v : BitVec 31 := BitVec.ofNat 31 (fld cycle.toNat 23 0 * 128 + si % 128)
  if v = 0 then 1 else v

/-- The scrambler's output bit of a register: Q[30] xor Q[27] (R70). -/
def scrBit (q : BitVec 31) : Bool := q.getLsbD 30 ^^ q.getLsbD 27

/-- The register after one data bit (R70). -/
def scrNext (q : BitVec 31) : BitVec 31 := (q <<< 1) ||| (if scrBit q then 1 else 0)

/-- Scramble or descramble data bits; the additive scrambler is its own inverse. -/
def scramble : BitVec 31 → List Bool → List Bool
  | _, [] => []
  | q, d :: r => (d ^^ scrBit q) :: scramble (scrNext q) r

/-- Run state of a transmitter or receiver: the run's bit and its length. -/
abbrev Run := Bool × Nat

/-- Stuffing of R73 from a run that the delimiter left. -/
def stuff : Run → List Bool → List Bool
  | _, [] => []
  | (rb, n), b :: r =>
    let m := if b = rb then n + 1 else 1
    if m = 20 then b :: (!b) :: stuff (!b, 1) r else b :: stuff (b, m) r

/-- Destuffing of R74; none on a line violation. -/
def destuff : Run → List Bool → Option (List Bool)
  | (rb, n), bs =>
    match bs with
    | [] => some []
    | b :: r =>
      if n = 20 then
        if b = rb then none else destuff (b, 1) r
      else
        let m := if b = rb then n + 1 else 1
        (destuff (b, m) r).map (b :: ·)

/-- The trailing run of a downstream type code (R73, R75). -/
def typeRun (code : BitVec 32) : Run :=
  let bs := (natBits 32 code.toNat).reverse
  let b := bs.headD false
  (b, (bs.takeWhile (· == b)).length)

/-- The trailing run of the short delimiter 0xFFF0 (R73, R78). -/
def shortRun : Run := (false, 4)

/-- Type codes of R75. -/
def tcFirst : BitVec 32 := 0x3C5A96C3
def tcRepeat : BitVec 32 := 0xC3A5693C
def tcUrgent : BitVec 32 := 0x6996A55A

/-- The register after `n` data bits (R70). -/
def scrAfter : Nat → BitVec 31 → BitVec 31
  | 0, q => q
  | n + 1, q => scrAfter n (scrNext q)

/-- The run that line data leaves (R73). -/
def runAfter : Run → List Bool → Run
  | r, [] => r
  | (rb, n), b :: r =>
    let m := if b = rb then n + 1 else 1
    if m = 20 then runAfter (!b, 1) r else runAfter (b, m) r

/-- A downstream delimiter: 24 ones, 8 zeros and the type code, unscrambled and unstuffed (R75). -/
def delimiter (code : BitVec 32) : List Bool := List.replicate 24 true ++ List.replicate 8 false ++ natBits 32 code.toNat

/-- The first `n` line bits of idle fill: the scrambler goes on over zero bits, with stuffing (R76). -/
def fillBits (n : Nat) (q : BitVec 31) (run : Run) : List Bool :=
  (stuff run (scramble q (List.replicate n false))).take n

/-- The preamble and short delimiter of a burst (R78); that of a join burst has its preamble four times. -/
def burstHead (join : Bool) : List Bool :=
  (List.replicate (if join then 4 else 1) (natBits 16 0xAAAA)).flatten ++ natBits 16 0xFFF0

/-- One step of a most-significant-bit-first CRC of width `w` and polynomial `p`. -/
def crcStep (w p : Nat) (c : Nat) (b : Bool) : Nat :=
  let t := bit c (w - 1) ^^ b
  let s := (c * 2) % 2 ^ w
  if t then s ^^^ p else s

/-- CRC8 over record bits 63:8: 0x2F, initial and final 0xFF (R117). -/
def crc8 (bits : List Bool) : Nat := bits.foldl (crcStep 8 0x2F) 0xFF ^^^ 0xFF

/-- CRC-16 of bursts and SPI: 0x1021, initial 0xFFFF, no final exclusive-or (R145, R425). -/
def crc16 (bits : List Bool) : Nat := bits.foldl (crcStep 16 0x1021) 0xFFFF

/-- One reflected step of CRC-32C: 0x1EDC_6F41 reflected is 0x82F6_3B78. -/
def crc32cByte (c : Nat) (b : Byte) : Nat :=
  (List.range 8).foldl (fun x _ => if x % 2 = 1 then (x / 2) ^^^ 0x82F63B78 else x / 2) (c ^^^ b.toNat)

/-- CRC-32C as used by iSCSI (R119). -/
def crc32c (bs : List Byte) : Nat := bs.foldl crc32cByte 0xFFFFFFFF ^^^ 0xFFFFFFFF

/-- Degree and second tap of the PRBS pattern numbered as in the table of R388. -/
def prbsTaps : Nat → Nat × Nat
  | 0 => (7, 6)
  | 1 => (15, 14)
  | 2 => (23, 18)
  | _ => (31, 28)

/-- The length of a PRBS pattern in bits (R388). -/
def prbsLength (p : Nat) : Nat := 2 ^ (prbsTaps p).1 - 1

/-- The next bit of a PRBS from its last `degree` bits, newest first (R388). -/
def prbsBit (p : Nat) (hist : List Bool) : Bool :=
  hist.getD ((prbsTaps p).1 - 1) false ^^ hist.getD ((prbsTaps p).2 - 1) false

end Sys2Proof.Machine
end

