-- ==== Sys2Proof/Machine/Store.lean ====
section
/-! DEFINITION. The two containers the state is built from: a table of records by number, held
as a list in ascending order of the number, and a byte memory in one canonical form (addresses
strictly rising, no entry equal to what an unlisted address reads as). -/

namespace Sys2Proof.Machine

/-- A table of records by number, in ascending order; an unlisted number has the default the reader gives. -/
abbrev Table (β : Type) := List (Nat × β)

/-- The record at `k`, or `d` when the table lists none. -/
def tget {β : Type} (d : β) (k : Nat) : Table β → β
  | [] => d
  | (j, v) :: r => if j = k then v else tget d k r

/-- The table with `v` at `k`. -/
def tset {β : Type} (k : Nat) (v : β) : Table β → Table β
  | [] => [(k, v)]
  | (j, w) :: r =>
    if j = k then (k, v) :: r
    else if k < j then (k, v) :: (j, w) :: r
    else (j, w) :: tset k v r

/-- The table with no record at `k`. -/
def tdel {β : Type} (k : Nat) : Table β → Table β
  | [] => []
  | (j, w) :: r => if j = k then r else (j, w) :: tdel k r

/-- The table with the record at `k` changed by `f`. -/
def tmod {β : Type} (d : β) (k : Nat) (f : β → β) (t : Table β) : Table β :=
  tset k (f (tget d k t)) t

/-- A byte memory: the listed bytes, in canonical form for its default byte. -/
abbrev Mem := List Host.Cell

/-- The byte at address `a` of a memory whose unlisted bytes read `d`. -/
def Mem.read (d : Byte) (a : Nat) : Mem → Byte
  | [] => d
  | (b, v) :: r => if b = a then v else Mem.read d a r

/-- Remove the entry at `a`. -/
def Mem.erase (a : Nat) : Mem → Mem
  | [] => []
  | (b, v) :: r => if b = a then r else (b, v) :: Mem.erase a r

/-- List `v` at `a`, keeping the addresses rising. -/
def Mem.insert (a : Nat) (v : Byte) : Mem → Mem
  | [] => [(a, v)]
  | (b, w) :: r =>
    if b = a then (a, v) :: r
    else if a < b then (a, v) :: (b, w) :: r
    else (b, w) :: Mem.insert a v r

/-- Write one byte; writing the default byte removes the entry. -/
def Mem.write (d : Byte) (a : Nat) (v : Byte) (m : Mem) : Mem :=
  if v = d then Mem.erase a m else Mem.insert a v m

/-- Write bytes at ascending addresses from `a`. -/
def Mem.writeList (d : Byte) (a : Nat) : List Byte → Mem → Mem
  | [], m => m
  | v :: vs, m => Mem.writeList d (a + 1) vs (Mem.write d a v m)

/-- `n` bytes from address `a` upward. -/
def Mem.readList (d : Byte) (a : Nat) : Nat → Mem → List Byte
  | 0, _ => []
  | n + 1, m => Mem.read d a m :: Mem.readList d (a + 1) n m

/-- Every entry lies above `lo`, addresses strictly rise, and no entry equals the default. -/
def Mem.wfFrom (d : Byte) (lo : Nat) : Mem → Bool
  | [] => true
  | (a, v) :: r => decide (lo ≤ a) && decide (v ≠ d) && Mem.wfFrom d (a + 1) r

/-- The canonical form of a memory whose unlisted bytes read `d`. -/
def Memory.wf (d : Byte) (m : Mem) : Bool := Mem.wfFrom d 0 m

end Sys2Proof.Machine
end

