-- ==== Sys2Proof/Machine/ArmState.lean ====
section
/-! DEFINITION. The part of a director's state that serves the converter: the six arm slices
(R243 to R301, R320 to R329), the record kept for each cell ID (R84 to R107, R140, R258 to R260,
R292, R298, R556), and the 52 tree ports (R44 to R49, R58, R81 to R106, R597). Every field's
default is its value right after a director reset. -/

namespace Sys2Proof.Machine

/-- Arm modes, in the order of the mode codes (R264, R278). -/
inductive ArmMode | off | precharge | manual | auto | hold | blocked
  deriving DecidableEq, Repr

/-- Roles of a director for an arm (R31), in the order of the role codes (R310). -/
inductive Role | isolated | cold | shadow | authority
  deriving DecidableEq, Repr

/-- Per measured output of an arm (R252 to R255). -/
structure OutState where
  loss   : Nat := 0
  /-- consecutive bitwise identical fresh readings, their value, and ŷ at the run's first (R254) -/
  run    : Nat := 0
  value  : F32 := 0
  yhat0  : F32 := 0
  frozen : Bool := false
  fresh  : Bool := false
  /-- y of the last step (R251), the sample cycle of its data, ν and ŷ -/
  y      : F32 := 0
  stamp  : Cycle := 0
  nu     : F32 := 0
  deriving DecidableEq, Repr

/-- The test generator's settings and its run (R276, R277). -/
structure Injection where
  target : Nat
  index  : Nat
  wave   : Nat
  start  : Cycle
  length : Nat
  amp    : F32
  f0     : F32
  f1     : F32
  hold   : Nat
  /-- cycles since START (R276); the PRBS9 register -/
  j      : Nat := 0
  prbs   : BitVec 9 := BitVec.allOnes 9
  /-- of the cycles passed, those whose step committed nothing and injected nothing (R257, R277) -/
  lost   : Nat := 0
  mb     : Option Nat := none
  deriving DecidableEq, Repr

/-- A pending ARM_MODE or ARM_UNBLOCK (R483, R485, R490). -/
structure PendMode where
  apply   : Cycle
  target  : ArmMode
  unblock : Bool
  force   : Bool
  uMan    : List F32
  /-- mailbox to answer; none for a command forwarded by the twin (R316) -/
  mb      : Option Nat
  deriving DecidableEq, Repr

/-- A pending ARM_MANUAL_INPUT, ARM_REFERENCE or BAL_EXCLUDE (R483, R486, R487, R491). -/
structure PendSet where
  apply  : Cycle
  mask   : Nat
  values : List F32
  slots  : List Nat
  mb     : Option Nat
  deriving DecidableEq, Repr

/-- A pending CELL_INJECT, RED_CLAIM or RED_ISOLATE (R480, R499, R500). -/
structure PendOrder where
  apply : Cycle
  slots : List Nat
  flag  : Bool
  mb    : Option Nat
  /-- records admitted so far (R499), and whether each port of the arm has been assembled -/
  done  : Nat := 0
  ports : List Nat := []
  deriving DecidableEq, Repr

/-- Why an arm's frames of one order cycle carry NOP throughout (R54, R55, R288). -/
inductive NopCause | abandoned | overrun | sortFault
  deriving DecidableEq, Repr

/-- A calibration snapshot (R297, R298): sample cycle, divider reading, I_pred, and for each
slot position σ at S and VINST. -/
structure CalSnap where
  cycle : Cycle
  y     : F32
  i     : F32
  cells : List (Nat × Int × Nat)
  deriving DecidableEq, Repr

/-- The in-service gain estimator of an arm (R297 to R300). -/
structure Estimator where
  tree     : Nat := 0
  updates  : Nat := 0
  theta    : Table (List F64) := []
  cov      : Table (List (List F64)) := []
  snap     : Option CalSnap := none
  /-- the present block of BAL_CAL_DECIM cycles, and whether it has had its qualifying cycle (R297) -/
  block    : Option Nat := none
  took     : Bool := false
  /-- per slot position: the frame cycle of the last CP_SVC_GAIN write -/
  inFlight : Table Cycle := []
  deriving DecidableEq, Repr

/-- Counters of an arm kept once (R279, R301, R329). -/
structure ArmCounters where
  overrun : Word := 0
  abandoned : Word := 0
  fallback : Word := 0
  numeric : Word := 0
  bumpRefused : Word := 0
  outSat : Word := 0
  trimClamp : Word := 0
  iarmSat : Word := 0
  swaps : Word := 0
  redundancy : Word := 0
  sortFault : Word := 0
  calSkip : Word := 0
  calDrop : Word := 0
  mirrorMiss : Word := 0
  roleChanges : Word := 0
  noQuorum : Word := 0
  coldTakeover : Word := 0
  handoverFail : Word := 0
  calPermits : Word := 0
  lost : Table Word := []        -- per output
  stuck : Table Word := []       -- per output
  plausSubst : Table Word := []  -- per output
  uSat : Table Word := []        -- per input
  xiSat : Table Word := []       -- per integrator
  deriving DecidableEq, Repr

/-- The mirrored values of an arm block (R310, R313). -/
structure ArmMirror where
  cycle : Cycle
  mode  : ArmMode
  role  : Role
  full  : Bool
  bytes : List Byte
  deriving DecidableEq, Repr

/-- One arm slice (R31, R32, R243 to R301, R320 to R329). -/
structure Arm where
  mode     : ArmMode := .off
  role     : Role := .isolated
  /-- row of the role table that decided (R322) -/
  row      : Nat := 1
  numeric  : Bool := false
  xhat     : List F32 := []
  rEff     : List F32 := []
  targets  : List F32 := []
  uMan     : List F32 := []
  uHold    : List F32 := []
  uGood    : List F32 := []
  /-- u after saturation and u_applied of the last step (R243, R266) -/
  u        : List F32 := []
  uApplied : List F32 := []
  outs     : Table OutState := []
  /-- e_r and j of a running transfer ramp (R272) -/
  ramp     : Option (List F32 × Nat) := none
  inj      : Option Injection := none
  pMode    : Option PendMode := none
  pManual  : List PendSet := []
  pRef     : List PendSet := []
  pExclude : List PendSet := []
  pInj     : Option Injection := none
  /-- an ARM_INJECT stop: its START cycle and mailbox -/
  pStop    : Option (Cycle × Option Nat) := none
  pInject  : List PendOrder := []
  pClaim   : List PendOrder := []
  pIsolate : List PendOrder := []
  /-- results of the last completed step (R261, R262, R484) -/
  stepped  : Bool := false
  /-- sample cycle of the sequencer's last ACE step, completed or not (R32) -/
  seq      : Cycle := 0
  cycle    : Cycle := 0
  nIns     : Nat := 0
  w        : Nat := 0
  polNeg   : Bool := false
  vbar     : F32 := 0
  a        : Nat := 0
  iPred    : F32 := 0
  iPrev    : F32 := 0
  iarm     : BitVec 24 := 0
  iarmSat  : Bool := false
  injected : F32 := 0
  tAce     : Nat := 0
  /-- availability (R280): the causes of slot positions that are not available -/
  causes   : Table Nat := []
  avail    : List Nat := []
  unavail  : Nat := 0
  redRun   : Nat := 0
  redLow   : Bool := false
  /-- ranking (R285, R288, R492): keys by slot position, order of positions, and the step ranked -/
  keys     : List (BitVec 32) := []
  order    : List Nat := []
  ranked   : Option Cycle := none
  charging : Bool := true
  /-- full-insertion set (R289) and the polarity of the previous step (R286) -/
  inserted : List Nat := []
  prevNeg  : Option Bool := none
  /-- CMD assembled for each slot position (R310 PREV_ORD, R492) -/
  cmds     : Table Nat := []
  /-- PRECHARGE hysteresis: slot positions that receive BYPASS (R264) -/
  preBypass : List Nat := []
  /-- order cycle whose frames carry NOP throughout, and why (R54, R55, R288) -/
  nop      : Option (Cycle × NopCause) := none
  /-- held leases H (R321), and redundancy state (R315, R318, R322, R326) -/
  held     : Nat := 0
  sync     : Bool := false
  slowSeen : List Nat := []
  goodRun  : Nat := 0
  missRun  : Nat := 0
  missed   : Bool := true
  sinceLost : Nat := 0
  mirror   : Option ArmMirror := none
  yielding : Option Cycle := none
  pHandover : Option (Cycle × Option Nat) := none
  isolate  : Bool := false
  noQuorumRun : Bool := false
  excluded : List Nat := []
  /-- probe values and arm bits of the flag word of the last steps, newest first (R278, R397) -/
  probeHist : List (Cycle × List F32) := []
  flagHist : List (Cycle × BitVec 64) := []
  /-- n_ins, A, trim width and negative polarity of the last ranking, for BAL_RANK_READ (R492) -/
  rankOf   : Nat × Nat × Nat × Bool := (0, 0, 0, false)
  est      : Estimator := {}
  /-- shadow bank: the arm section to swap in at phase 1 of the step of this cycle (R50, R273) -/
  pBank    : Option (Cycle × List Byte) := none
  cnt      : ArmCounters := {}
  deriving DecidableEq, Repr

/-- State of a cell on this director's link (R473). -/
inductive CellLink | none_ | listen | joining | proving | proven | quarantined | lost
  deriving DecidableEq, Repr

/-- The values of a cell's latest accepted burst (R133, R473). -/
structure Burst where
  cycle  : Cycle
  vinst  : Nat
  vavg   : Nat
  status : BitVec 16
  edge   : Int
  echo   : Nat
  lease  : BitVec 8
  vchk   : Nat
  /-- measurement node: PRI0 to PRI7, CHK0 to CHK7 and SVALID (R141) -/
  pri    : List Int := []
  chk    : List Int := []
  svalid : BitVec 8 := 0
  /-- the report payload in line order, 16 or 64 bytes (R133, R141) -/
  raw    : List Byte := []
  deriving DecidableEq, Repr

/-- The record sent to a cell for one order cycle (R49, R258, R292). -/
structure SentRec where
  cycle  : Cycle
  cmd    : Nat
  launch : Nat
  duty   : Nat
  seq    : Nat
  flags  : BitVec 8
  /-- transition type of R227; none when the record makes no transition -/
  type   : Option Nat
  /-- CMD of the twin's record for the cycle, once its mirror is loaded (R258, R313) -/
  twin   : Option Nat := none
  deriving DecidableEq, Repr

/-- A learned edge delay (R292). -/
structure Learned where
  lam   : Nat := 0
  count : Nat := 0
  deriving DecidableEq, Repr

/-- Counters kept per cell (R107, R145, R279, R301). -/
structure CellCounters where
  windowMiss : Word := 0
  burstAbsent : Word := 0
  tagFail : Word := 0
  reprove : Word := 0
  quarantine : Word := 0
  lost : Word := 0
  malformed : Word := 0
  missed : Word := 0
  unreported : Word := 0
  edgeReject : Word := 0
  edgeClamp : Word := 0
  edgeRefWrite : Word := 0
  svcWrite : Word := 0
  svcLimit : Word := 0
  deriving DecidableEq, Repr

/-- What the director keeps for one cell ID on its own link. -/
structure CellRec where
  link     : CellLink := .listen
  /-- offsets in use and offsets written but not yet applied (R85, R91) -/
  dnOfs    : Nat := 0
  upOfs    : Nat := 0
  pendOfs  : Option (Cycle × Nat × Nat) := none
  /-- arrival-error sum and count of the running block, and the sum of the last block of 64 (R90, R91) -/
  errSum   : Int := 0
  errCount : Nat := 0
  block    : Option Int := none
  misses   : Nat := 0
  absents  : Nat := 0
  /-- slot granted from this cycle (R96); quarantine hold and entry count (R94) -/
  granted  : Option Cycle := none
  /-- the slot ends at this cycle (R93, R102, R466) -/
  withdrawn : Option Cycle := none
  held     : Bool := false
  heldAt   : Nat := 0
  entries  : Nat := 0
  key      : Option Key := none
  keyConfirmed : Bool := false
  /-- join handle, and FROM of the first TREE_KEY sent to the cell (R96, R122) -/
  handle   : BitVec 16 := 0
  keyedFrom : Option Cycle := none
  cnt      : CellCounters := {}
  /-- slow-item values as last reported and their 32-bit mirrors (R140) -/
  slow     : Table (BitVec 18) := []
  mirrors  : Table Word := []
  last     : Option Burst := none
  /-- the accepted burst before it, which the recorder may still need (R396) -/
  prev     : Option Burst := none
  /-- unusable samples in a row, the unreported mark, and a usable sample seen (R260) -/
  unusable : Nat := 0
  unreported : Bool := true
  everUsable : Bool := false
  vEst     : F32 := 0
  hasEst   : Bool := false
  vHat     : F32 := 0
  /-- records sent, newest first, of the last three order cycles -/
  sent     : List SentRec := []
  learned  : Table Learned := []
  /-- CP_EDGE_REF as last written, and the cycle of the write, per type (R292, R295) -/
  edgeRef  : Table Nat := []
  edgeRefAt : Table Cycle := []
  /-- elapsed cycle starts when 262,143 was first received, when a permit was last sent, and flags (R569, R571) -/
  neverCalAt : Option Nat := none
  permitAt : Option Nat := none
  overdue  : Bool := false
  txDisabled : Bool := false
  gateHold : Bool := false
  /-- configuration of R556: step 1 to 6 (0 not running, 7 configured, 8 left unconfigured) -/
  cfgStep  : Nat := 0
  cfgIndex : Nat := 0
  retries  : Nat := 0
  /-- values that differ in a sealed table and are still to be written, and APPLY of the last of them that was staged (R556 step 3) -/
  diffs    : List (Nat × Nat) := []
  diffAt   : Option Cycle := none
  /-- a PARAM_READ of R556 awaits its answer: INDEX, sends so far, elapsed cycle starts of the last send -/
  reading  : Option (Nat × Nat × Nat) := none
  /-- parameters the director last wrote to the cell (R476, R556) -/
  written  : Table Word := []
  sealed   : Bool := false
  /-- PARAM_STAGE records of R466: first index of each that the cell needs, frames that carried one, and those confirmed -/
  wanted   : List Nat := []
  staging  : List (Cycle × Nat) := []
  confirmed : List Nat := []
  diagMode : Nat := 0
  /-- DELAY_EXCESS has been raised for the cell: once for each cell (R42, R107) -/
  excess   : Bool := false
  deriving DecidableEq, Repr

/-- What follows once a management record has been placed in a frame. -/
inductive MgmtWhy
  | plain
  /-- the command ACTIVE in this mailbox counts on it (R474, R514, R517, R520) -/
  | cmd (mb : Nat)
  /-- it is a step of R556 for its cell -/
  | config
  /-- it is the PARAM_STAGE of this first index, whose delivery R466 confirms -/
  | stage (idx : Nat)
  deriving DecidableEq, Repr

/-- A management record waiting for a frame (R127, R131). -/
structure MgmtRec where
  mtype : Nat
  dest  : Nat
  /-- payload before MTAG -/
  body  : List Byte
  /-- secured records carry an MTAG under the session key of this cell (R129) -/
  secure : Option Nat := none
  /-- frames still to carry it (R93, R466, R517, R597) -/
  copies : Nat := 1
  /-- the cell it is about, and what follows when it leaves -/
  cell   : Option Nat := none
  why    : MgmtWhy := .plain
  /-- offsets in `body` of cycle numbers that the first frame to carry the record fills in, APPLY or FROM (R130) -/
  cycAt  : List Nat := []
  /-- the cycle filled in, once a frame has carried the record (R130) -/
  effect : Option Cycle := none
  /-- sub-slots to assign with it, as a count of cycles with one sub-slot each (R131) -/
  subs   : Nat := 0
  deriving DecidableEq, Repr

/-- A join exchange (R96, R99, R100, R594). -/
structure Exchange where
  cell    : Nat
  variant : Nat
  deviceId : BitVec 64
  nonce   : BitVec 64
  handle  : BitVec 16
  window  : Cycle
  dn      : Nat
  up      : Nat
  myNonce : BitVec 128
  /-- the director's ephemeral private key, and the number k of its signature (R594) -/
  eph     : Nat
  sigK    : Nat := 1
  cert    : List Byte := []
  pub     : List Byte := []
  sig     : List Byte := []
  /-- chunks received, as KIND × 256 + INDEX -/
  chunks  : List Nat := []
  /-- elapsed cycle starts at the beginning of the present step -/
  stepAt  : Nat
  deriving DecidableEq, Repr

/-- A PRBS checker and generator of a lane in test mode (R388 to R391, R518, R519). -/
structure Prbs where
  testMode : Bool := false
  pattern  : Nat := 0
  gen      : Bool := false
  check    : Bool := false
  locked   : Bool := false
  err      : Word := 0
  resync   : Word := 0
  /-- bit slips mod 32 since test mode or manual alignment was entered -/
  slips    : Nat := 0
  manual   : Bool := false
  deriving DecidableEq, Repr

/-- An order frame handed to a tree port (R108, R342). -/
structure OrderFrame where
  cycle  : Cycle
  /-- bytes 0 to 591 without DEPART: header with DEPART 0, records and management area -/
  body   : List Byte
  depart : Int
  phase  : Bool
  /-- the first copy has been launched and took `ticks` on the line; the repeat copy is due -/
  first  : Bool := false
  ticks  : Nat := 1305
  deriving DecidableEq, Repr

/-- One tree port (R44, R58, R81 to R107, R517). -/
structure Port where
  refused  : Word := 0
  crcFail  : Word := 0
  delayExcess : Word := 0
  joinOk   : Word := 0
  joinRefused : Word := 0
  strayLight : Word := 0
  launchLate : Word := 0
  frame    : Option OrderFrame := none
  mgmt     : List MgmtRec := []
  exchange : Option Exchange := none
  nextHandle : BitVec 16 := 1
  /-- sub-slot assignments: cycle × 8 + i, and the cell (R81) -/
  subs     : List (Cycle × Nat × Nat) := []
  /-- the order frame of this cycle opened the join window, with its J0 and JLEN (R82, R132) -/
  joinOpen : Option (Cycle × Nat × Nat) := none
  /-- order cycle of the last frame assembled (R32) -/
  built    : Option Cycle := none
  /-- the downstream stream between frames: scrambler register, and bit and length of the run; none: dark (R68, R76) -/
  stream   : Option (BitVec 31 × Bool × Nat) := none
  /-- cycle whose frame set SLOTS_SUSPENDED (R83, R338) -/
  suspended : List Cycle := []
  prbs     : Prbs := {}
  /-- a rekey of SEC_REKEY awaits its completion by this mailbox (R527) -/
  rekeyMb  : Option Nat := none
  deriving DecidableEq, Repr

end Sys2Proof.Machine
end

