-- ==== Sys2Proof/Machine/CellState.lean ====
section
/-! DEFINITION. The state of one cell controller: its two links (R85, R95 to R105, R120 to R123,
R139, R155 to R165), gate unit and protection (R170 to R193), parameter table (R194 to R198,
R242), measurement (R199 to R230), thermal model and wear (R231 to R240), lease (R302 to R308),
event records (R144, R588), patches and the nonvolatile store's bookkeeping (R602 to R604), and
test access (R638). Every field's default is its value after power-on. -/

namespace Sys2Proof.Machine

/-- Cell states (R185). -/
inductive CellMode
  | unpowered | fuseLoad | eepromLoad | listen | joining | proving | configured
  | ready | active | hold | safeBypass | bypassLatched | frozen
  deriving DecidableEq, Repr

/-- Cell-controller variants (R10, R97). -/
inductive Variant | half | full | node
  deriving DecidableEq, Repr

/-- Gate states (R170). -/
inductive GateState | blocked | bypassed | insPos | insNeg
  deriving DecidableEq, Repr

/-- Link states (R95, R185). -/
inductive LinkMode | listen | joining | proving | proven
  deriving DecidableEq, Repr

/-- Lease holder (R136, R302). -/
inductive Holder | none | x | y
  deriving DecidableEq, Repr

/-- EXEC_SRC of R136. -/
inductive ExecSrc | nothing | holder | fill | safe
  deriving DecidableEq, Repr

/-- A record a link offers for one order cycle, after R124 (R111, R113, R116). -/
structure OrdRec where
  cycle   : Cycle
  cmd     : Nat
  launch  : Nat
  duty    : Nat
  seq     : Nat
  flags   : BitVec 8
  /-- it passed every outcome of R124, so its CAL_PERMIT counts (R214) -/
  clean   : Bool
  /-- ARM_BLOCKED of the frame forces BLOCK in place of `cmd` (R111, R308) -/
  forced  : Bool
  /-- the link that carried it -/
  link    : Link
  /-- IARM of the frame, 1 mA (R109) -/
  iarm    : Int
  /-- link-time tick, counted from the start of `cycle`, at which its checks were complete -/
  checked : Int
  deriving DecidableEq, Repr

/-- What the cell keeps of a frame it accepted for a cycle (R111, R136, R231). -/
structure FrameInfo where
  cycle     : Cycle
  suspended : Bool
  blocked   : Bool
  deriving DecidableEq, Repr

/-- A tree key and the cycle from which it holds (R118, R122). -/
structure CellKey where
  phase : Bool
  start : Cycle
  key   : Key
  /-- cycles of the link time since `start`; none before it -/
  age   : Option Nat := none
  deriving DecidableEq, Repr

/-- A join exchange as the cell runs it (R96, R99, R100, R594). -/
structure CellExchange where
  handle  : BitVec 16
  window  : Cycle
  /-- ephemeral private key, and the secret number of the cell's signature -/
  eph     : Nat
  sigK    : Nat := 1
  /-- the director's chunks as they arrive, by KIND × 256 + INDEX (R594) -/
  chunks  : Table (List Byte) := []
  /-- chunks still to send: KIND, UINDEX, 19 data bytes -/
  out     : List (Nat × Nat × List Byte) := []
  /-- session key derived once everything has arrived and verified -/
  derived : Bool := false
  /-- consecutive cycles without a management record for the handle (R100) -/
  idle    : Nat := 0
  deriving DecidableEq, Repr

/-- The per-link counters of R139, items 24 to 34 and 35 to 45. -/
structure LinkCounters where
  lineViolation : Word := 0
  typeUnknown : Word := 0
  frameAbandoned : Word := 0
  crcFail : Word := 0
  tagFail : Word := 0
  replay : Word := 0
  malformed : Word := 0
  mgmtReject : Word := 0
  recordError : Word := 0
  recordCrc : Word := 0
  babble : Word := 0
  deriving DecidableEq, Repr

/-- An answer waiting for a management sub-slot (R144). -/
inductive Answer
  | param (index count : Nat)
  | eeprom (block offset count : Nat)
  | patchAck (offset : Word) (status : Nat)
  deriving DecidableEq, Repr

/-- One link of the cell (R85, R95 to R105, R118 to R123, R155 to R165). -/
structure CLink where
  mode     : LinkMode := .listen
  /-- CDR locked and signal present (R163, R165) -/
  signal   : Bool := false
  /-- cycle and tick of the link time at which loss of signal was declared (R163) -/
  darkAt   : Option (Cycle × Int) := none
  /-- link time: cycle number, length of the cycle in raw ticks, sub-tick phase (R155) -/
  cyc      : Cycle := 0
  clen     : Nat := 12500
  phase    : Nat := 0
  /-- a frame has placed the link time since the last return to LISTEN -/
  placed   : Bool := false
  qual     : Bool := false
  /-- cycle of the last frame that R156 counts, when qualification is running -/
  first    : Option Cycle := none
  /-- the last accepted or used CYCLE (R121, R122) -/
  last     : Option Cycle := none
  /-- CLEN announced for a later cycle -/
  nextLen  : Option (Cycle × Nat) := none
  /-- a correction of the cycle start waiting for the next cycle start, 25 ps (R157) -/
  adj      : Int := 0
  coast    : Nat := 0
  /-- consecutive cycles in which no frame passed every check (R123) -/
  silent   : Nat := 0
  seen     : Bool := false
  /-- TREE_ID of the tree (R120, R123) -/
  treeId   : Option (BitVec 8) := none
  dnOfs    : Nat := 0
  upOfs    : Nat := 0
  pendOfs  : Option (Cycle × Nat × Nat) := none
  /-- tree keys held or to come, newest FROM first (R122, R148) -/
  keys     : List CellKey := []
  session  : Option Key := none
  handle   : BitVec 16 := 0
  /-- slot granted: slot number, WOPEN, first cycle (R131) -/
  slot     : Option (Nat × Nat × Cycle) := none
  /-- slot given up from this cycle (R647) -/
  giveUp   : Option Cycle := none
  /-- sub-slots granted: SUB_FIRST, SUB_MASK, SUB_CYCLES -/
  subs     : List (Cycle × Nat × Nat) := []
  /-- backoff b, ATTEMPT, and the nonce of the present attempt (R98) -/
  backoff  : Nat := 3
  attempt  : Nat := 0
  nonce    : BitVec 64 := 0
  /-- announced windows still to pass before the chosen one, when a window is being awaited -/
  pick     : Option Nat := none
  /-- the window the last frame opened: cycle, J0, JLEN (R132) -/
  window   : Option (Cycle × Nat × Nat) := none
  /-- the cycle of the join burst while its JOIN_ACK is awaited (R98) -/
  asked    : Option Cycle := none
  /-- cycles still to wait after a JOIN_NAK (R98) -/
  nakWait  : Option Nat := none
  /-- J0 of the last JOIN_WINDOW, which places sub-slots before a slot is granted (R80, R82) -/
  joinJ0   : Nat := 0
  exch     : Option CellExchange := none
  frames   : List FrameInfo := []
  recs     : List OrdRec := []
  /-- cycles of which a copy failed only the deadline test (R125) -/
  late     : List Cycle := []
  /-- babble trips of the last 256 cycles, the latch and the hold (R103 to R105) -/
  trips    : List Cycle := []
  latched  : Bool := false
  txHold   : Bool := false
  /-- burst-enable of the latest burst: twice its slot in bit-times, and the 25 ps units of its cycle at which it is
  asserted and released (R80, R103) -/
  enable   : Option (Nat × Int × Int) := none
  /-- frames accepted since qualification, and δ of the last 16 (R161) -/
  since    : Nat := 0
  deltas   : List (Cycle × Int) := []
  cnt      : LinkCounters := {}
  /-- cycle of the last RECORD_ERROR or RECORD_CRC event (R589) -/
  recEvent : Option Cycle := none
  answers  : List Answer := []
  /-- EVT_SEQs not yet sent in the present rotation (R144) -/
  rotation : List Nat := []
  deriving DecidableEq, Repr

/-- A cell event record (R143, R144, R588). -/
structure CellEvent where
  seq    : Nat
  code   : Nat
  cycle  : Cycle
  tick   : Nat
  detail : BitVec 64
  deriving DecidableEq, Repr

/-- A set of {DUTY width, CP_DEADTIME, CP_MIN_PULSE} of the gate unit (R174). -/
structure GateSet where
  duty     : Nat := 0
  deadtime : Nat := 0
  minPulse : Nat := 0
  deriving DecidableEq, Repr

/-- A scheduled edge of the gate unit, at a tick from the start of the current cycle. -/
inductive GateEdge
  /-- the incoming gate `g` (0 for G1) turns on after its dead time (R171) -/
  | turnOn (tick : Int) (g : Nat)
  /-- a transition of a trim pulse (R172); `lead` for the leading one -/
  | trim (tick : Int) (dest : GateState) (lead : Bool)
  deriving DecidableEq, Repr

/-- Gate unit and local protection (R10, R170 to R182, R188, R189). -/
structure Gates where
  /-- gate state the outputs hold, before faults and safe pattern -/
  state    : GateState := .blocked
  /-- base state: BYPASSED after a trim order (R168) -/
  base     : GateState := .blocked
  /-- levels of G1 to G4 (bit 0 is G1), of BYP, and whether the outputs are driven (R170) -/
  g        : BitVec 4 := 0
  byp      : Bool := false
  driven   : Bool := false
  /-- BYP is driven (R10) -/
  bypDriven : Bool := false
  active   : GateSet := {}
  pending  : GateSet := {}
  /-- parameter commits that no reload has taken, newest first: cycle and tick of completion, and the pending set after it -/
  commits  : List (Cycle × Int × GateSet) := []
  edges    : List GateEdge := []
  blocked  : Bool := false
  /-- pairs off by a desaturation fault (R179) -/
  offA     : Bool := false
  offB     : Bool := false
  dsat     : Bool := false
  ov       : Bool := false
  /-- the guard comparator has tripped and not re-armed (R176) -/
  ovHeld   : Bool := false
  uv       : Bool := false
  latched  : Bool := false
  carry    : Int := 0
  /-- the sign of the carry's order: true TRIM_POS -/
  carryPos : Bool := true
  /-- on-time of each gate in the running cycle, and the tick since which it is on (R231) -/
  onTicks  : List Int := [0, 0, 0, 0]
  onSince  : List (Option Int) := [none, none, none, none]
  /-- tick of the current cycle up to which the DSAT input of each gate is ignored (R179) -/
  blankTo  : List (Option Int) := [none, none, none, none]
  /-- E_sw accumulated per position in the running cycle: transitions of outgoing gates -/
  switched : List Nat := [0, 0, 0, 0]
  deriving DecidableEq, Repr

/-- Outcome of the order cycle that the next burst reports (R135 to R137, R169). -/
structure Report where
  cycle : Cycle := 0
  echo  : Nat := 0
  src   : ExecSrc := .nothing
  late  : Bool := false
  fill  : Bool := false
  la    : Bool := false
  lb    : Bool := false
  /-- EDGE of the executed order; 0x800 for none (R228, R229) -/
  edge  : Int := -2048
  inject : Bool := false
  deriving DecidableEq, Repr

/-- An edge measurement armed for the executed order (R228, R230). -/
structure EdgeArm where
  /-- expected instant, 25 ps from the start of the cycle -/
  te     : Int
  type   : Nat
  rising : Option Bool
  /-- 0 first, 1 second transition of the order -/
  index  : Nat
  cycle  : Cycle
  /-- this edge forms EDGE -/
  main   : Bool
  deriving DecidableEq, Repr

/-- Measurement state (R199 to R225). -/
structure Meas where
  vinst   : Nat := 0
  vavg    : Nat := 0
  vchk    : Nat := 0
  plaus   : Bool := false
  calActive : Bool := false
  /-- node: sub-samples and validity (R141, R223, R225) -/
  pri     : List Int := []
  chk     : List Int := []
  svalid  : BitVec 8 := 0
  /-- CP_MEAS_CFG as the last sample instant took it (R242), and the cycle of that instant -/
  cfg     : Nat := 0xFC
  sampleAt : Cycle := 0
  /-- conversion slots of R203 since then: the last one that ended, and those consumed or skipped (R205) -/
  slot    : Nat := 0
  lostSlots : List Nat := []
  /-- raw codes collected for VAVG since the last sample instant (R211) -/
  codes   : List Int := []
  checks  : List Int := []
  /-- codes of the last quad, and its v_cap and v_rep, binary64 (R208) -/
  quad    : List Int := []
  vcap    : F64 := 0
  vrep    : F64 := 0
  /-- self-calibration: running; the cycle and tick of its start, or at which a permit came that waits (R214 to R218) -/
  calRun  : Bool := false
  calAt   : Option (Cycle × Int) := none
  /-- the next sample instant's quad would have begun before the calibration ended (R219) -/
  standIn : Bool := false
  gCal    : Int := 0
  oCal    : Int := 0
  /-- coefficient set {g_cal, o_cal, CP_SVC_GAIN} in use (R210) -/
  gUse    : Int := 0
  oUse    : Int := 0
  svcUse  : Int := 0
  /-- changes of the set that no sample instant has taken, newest first: cycle and tick of completion, and the set (R210) -/
  sets    : List (Cycle × Int × Int × Int × Int) := []
  /-- cycles since the last accepted self-calibration; none until the first (R139 item 12) -/
  calAge  : Option Nat := none
  /-- injected conversion pending: causes OV1 and INJECT, and the trigger (R205, R206) -/
  injOv   : Bool := false
  injOrd  : Bool := false
  /-- cycle and tick of its aperture, and whether the quad serves it; none where the spec gives only a bound (R205, R218) -/
  injAp   : Option (Cycle × Int × Bool) := none
  injResult : Nat := 0
  /-- channel-select register (R201) and the next housekeeping channel -/
  chan    : Nat := 2
  tempNtc : Int := 0
  tempDie : Int := 0
  gdSupply : Nat := 0
  vdd     : Nat := 0
  aux     : Nat := 0
  refCheck : Int := 0
  gndCheck : Int := 0
  tempWarn : Bool := false
  /-- REF_DRIFT has been raised since |REF_CHECK| was last within limits (R222) -/
  drift   : Bool := false
  deriving DecidableEq, Repr

/-- Thermal model and wear (R231 to R240). -/
structure Thermal where
  /-- z[p][i] -/
  z       : List (List F32) := List.replicate 4 [0, 0, 0, 0]
  tj      : F32 := 0
  iarm    : Int := 0
  /-- turning points, newest first (R233) -/
  stack   : List F32 := []
  /-- last extreme and direction of tj_max while no reversal has been accepted -/
  extreme : Option F32 := none
  rising  : Bool := true
  bins    : List Word := List.replicate 8 0
  damage  : BitVec 64 := 0
  uptime  : Word := 0
  /-- sub-second ticks of uptime -/
  subTicks : Nat := 0
  uptimeTotal : Word := 0
  ovTotal : Nat := 0
  dsatTotal : Nat := 0
  latchTotal : Nat := 0
  powerOns : Nat := 0
  /-- ring: number of slots, next slot, ENTRY_SEQ of the last entry, bad slots, failures in a row -/
  slots   : Nat := 0
  next    : Nat := 0
  seq     : Word := 0
  hasEntry : Bool := false
  bad     : List Nat := []
  fails   : Nat := 0
  stopped : Bool := false
  /-- CP_WEAR_PERIOD as the last entry write left it (R242) -/
  period  : Nat := 3600
  /-- seconds of uptime at the last entry written -/
  lastWrite : Word := 0
  /-- BYPASS_LATCHED was entered, or STAGE0 was reached 60 s after the last write, and no entry has been written for it (R239) -/
  due     : Bool := false
  /-- the first such fall to STAGE0 since the last write has come -/
  fell    : Bool := false
  /-- an entry being written: slot and bytes -/
  writing : Option (Nat × List Byte) := none
  deriving DecidableEq, Repr

/-- Identity and calibration of the board EEPROM as loaded (R236, R237). -/
structure Board where
  idOk     : Bool := false
  calOk    : Bool := false
  addr3    : Bool := false
  sizeCode : Nat := 0
  pageLog2 : Nat := 5
  cellId   : Nat := 0xFFFF
  endurance : Nat := 10000
  /-- channel 0 and 1 divider, offset; NTC; supply scale; node gains and offsets, binary32 (R236) -/
  kDiv0 : F32 := 0x447A0000#32
  ofs0  : F32 := 0
  kDiv1 : F32 := 0x447A0000#32
  ofs1  : F32 := 0
  ntcRnom : F32 := 0x461C4000#32
  ntcB  : F32 := 0x4556B000#32
  ntcRbias : F32 := 0x461C4000#32
  gdScale : F32 := 0x3F800000#32
  priGain : F32 := 0x3F800000#32
  priOfs : F32 := 0
  chkGain : F32 := 0x3F800000#32
  chkOfs : F32 := 0
  deriving DecidableEq, Repr

/-- Counts of the cell as a whole (R139 items 46 to 57). -/
structure CellCounts where
  lateOrder : Word := 0
  hold : Word := 0
  fill : Word := 0
  phaseJump : Word := 0
  plaus : Word := 0
  dsat : Word := 0
  ov : Word := 0
  lateCommit : Word := 0
  leaseChanges : Word := 0
  eventLost : Word := 0
  deriving DecidableEq, Repr

/-- A burst the cell sends (R78 to R80). -/
structure CellTx where
  link  : Link
  kind  : Nat          -- 0 slot burst, 1 management burst, 2 join burst
  index : Nat          -- slot or sub-slot number
  cycle : Cycle
  start : Int          -- units of 25 ps from the start of the cycle on the link's time
  body  : List Byte    -- payload, tag and CRC-16
  line  : List Bool    -- preamble and short delimiter, then the body, scrambled and stuffed
  on    : Int          -- burst-enable asserted and released, as `start`
  off   : Int
  deriving DecidableEq, Repr

/-- The byte memories of the block. -/
inductive MemId
  | flash | ddr | ring | msix | window (mb : Nat) | eeprom | nv
  deriving DecidableEq, Repr

/-- Bytes that a command writes to one of the memories. -/
structure MemWrite where
  dest : MemId
  addr : Nat
  data : List Byte
  deriving DecidableEq, Repr

/-- What an executed order found, for an urgent block that falls on its tick (R59). -/
structure Undo where
  tick  : Int
  mode  : CellMode
  gates : Gates
  meas  : Meas
  cnt   : CellCounts
  events : List CellEvent
  evtSeq : Nat
  lostDue : Bool
  edgeArms : List EdgeArm
  deriving DecidableEq, Repr

/-- One cell controller. -/
structure Cell where
  mode     : CellMode := .unpowered
  fuseA    : BitVec 1024 := 0
  fuseB    : BitVec 1024 := 0
  variant  : Variant := .half
  /-- clock core: locked, running on the bypass oscillator, PLL (0) or DLL (1) mode (R151 to R154) -/
  locked   : Bool := false
  bypass   : Bool := true
  dll      : Bool := false
  /-- cycles spent on the bypass oscillator (R588 code 0x10) -/
  bypassCycles : Word := 0
  /-- steering link and a change waiting for tick 0 (R160) -/
  steer    : Link := .la
  steerNext : Option Link := none
  /-- CP_STEER_PREF as the last cycle start took it (R195) -/
  steerPref : Nat := 0
  /-- changes of "time qualified and not calibrating", newest first, with their cycle and tick (R225) -/
  okLog    : List (Cycle × Int × Bool) := []
  la       : CLink := {}
  lb       : CLink := {}
  gates    : Gates := {}
  stage    : Nat := 0
  gdpg     : Bool := false
  /-- VSTG at or above 0.400 V and at or above 0.800 V as qualified (R183) -/
  vstg4    : Bool := false
  vstg8    : Bool := false
  /-- parameter table by index; unlisted indices hold their reset value (R195, R242) -/
  params   : Table Word := []
  sealed   : Bool := false
  tableCrc : Word := 0
  /-- pending PARAM_STAGE values: index, value, APPLY (R198) -/
  staged   : List (Nat × Word × Cycle) := []
  windowWritten : Bool := false
  /-- lease (R302, R305) -/
  holder   : Holder := .none
  lc       : Nat := 0
  renewed  : Bool := false
  decided  : Bool := false
  /-- holder at the sample instant (R136) -/
  holderS  : Holder := .none
  /-- the record the lease rules selected, its source, and a BLOCK forced without selection -/
  sel      : Option OrdRec := none
  selFill  : Bool := false
  forced   : Option OrdRec := none
  executed : Bool := false
  undo     : Option Undo := none
  /-- an order cycle found a latched fault in SAFE_BYPASS (R190) -/
  withheld : Bool := false
  /-- tick at which protection, an urgent block or safe-state logic decided outputs this cycle (R169, R182) -/
  preempt  : Option Int := none
  holdCount : Nat := 0
  run      : Report := {}
  report   : Report := {}
  edgeArms : List EdgeArm := []
  diagMode : Nat := 0
  diagLost : Nat := 0
  /-- DIAG_DATA waiting for a sub-slot, 160 bits with LOST clear; LOST is set when it is sent -/
  diagOut  : List (BitVec 160) := []
  events   : List CellEvent := []
  evtSeq   : Nat := 0
  /-- records have been overwritten since the last EVENT_LOST record -/
  lostDue  : Bool := false
  /-- live status bits and power stage at the sample instant (R137) -/
  statusS  : Nat := 0
  meas     : Meas := {}
  thermal  : Thermal := {}
  board    : Board := {}
  cnt      : CellCounts := {}
  /-- patch level in force, level committed for the next power-on, the bytes of an object received so far, and
  the firmware bank in use (R602, R603) -/
  patch    : Word := 0
  patchNext : Word := 0
  patchGot : List Byte := []
  patchBank : Nat := 0
  /-- test access (R638) -/
  prbs     : BitVec 16 := 0
  prbsLock : Bool := false
  prbsErr  : Word := 0
  memAddr  : BitVec 20 := 0
  /-- the value last captured into C_PRBS_ERR or C_MEM_DATA -/
  tdo      : BitVec 32 := 0
  tx       : List CellTx := []
  /-- bytes on their way to the board EEPROM and the nonvolatile store; empty between commands -/
  writes   : List MemWrite := []
  deriving DecidableEq, Repr

end Sys2Proof.Machine
end

