-- ==== Sys2Proof/Machine/KudenState.lean ====
section
/-! DEFINITION. The part of a director's state that the host, the boot engine and the security
functions see: boot and fuses (R532 to R551), BAR0 and the mailboxes (R422 to R438), the event
ring (R443 to R449, R645), the work dispatcher (R451 to R454), the staging area and the bake
(R439 to R442, R463 to R472), keys and nonces (R521 to R529, R590 to R601) and the freeze
(R606 to R611). Every field's default is its value right after a director reset. -/

namespace Sys2Proof.Machine

/-- Boot states (R428, R535). `held` is RESET_N low. -/
inductive BootState | held | fuseLoad | imageLoad | released | run | safe | frozen
  deriving DecidableEq, Repr

/-- One image slot of the flash as SEC_IMAGE_WRITE sees it (R523 to R525). -/
structure SlotWrite where
  /-- end of the previous write since the last invalidation; none: no write has begun (R523) -/
  next     : Option Nat := none
  /-- flash sectors already erased since the last invalidation (R523) -/
  erased   : List Nat := []
  /-- SEC_IMAGE_VERIFY has answered RESULT 0 since the last write in this boot (R525) -/
  verified : Bool := false
  deriving DecidableEq, Repr

/-- Boot engine, fuses and flash (R532 to R551). -/
structure Boot where
  state     : BootState := .fuseLoad
  side      : Side := .x
  /-- the two copies of the 4,096-bit OTP map (R536) -/
  fuseA     : BitVec 4096 := 0
  fuseB     : BitVec 4096 := 0
  /-- image slot in use: 0 A, 1 B (R428) -/
  slot      : Nat := 0
  /-- the image in use was booted from the preferred slot (R547) -/
  preferred : Bool := false
  /-- release step in progress, 1 to 5; 0 outside RELEASED (R548) -/
  step      : Nat := 0
  /-- rejected slot and RESULT of a boot from the other slot, until RUN raises it (R546) -/
  fallback  : Option (Nat × Nat) := none
  /-- the flag that records a watchdog reset; only RESET_N clears it (R587) -/
  wdCause   : Bool := false
  /-- WATCHDOG_RESET is still to be raised in RUN (R587) -/
  wdOwed    : Bool := false
  /-- address of the uncorrectable word a supervisor core read, until the reset (R586) -/
  ueCause   : Option Nat := none
  /-- the address after that reset, until RUN raises it (R586) -/
  ueOwed    : Option Nat := none
  /-- boot count of the log entries (R539) -/
  boots     : Word := 0
  /-- size of the quad-SPI NOR flash in MiB (R538); its contents stand in Stores -/
  flashMiB  : Nat := 64
  slotA     : SlotWrite := {}
  slotB     : SlotWrite := {}
  /-- SEQ of the newest log entry and the offset in the log region of the next one (R539) -/
  logSeq    : Word := 0
  logPos    : Nat := 0
  /-- VERSION of the image in use, and its firmware build (R460) -/
  version   : Word := 0
  fwBuild   : Word := 0
  /-- installed DDR4 in MiB as fitted, and as usable after initialisation (R460, R548, R636) -/
  ddrFitted : Nat := 16384
  ddrMiB    : Nat := 0
  /-- raw ticks at which RUN was entered (R547) -/
  runAt     : Nat := 0
  deriving DecidableEq, Repr

/-- Mailbox states (R430). -/
inductive MbxState | idle | pending | active | done
  deriving DecidableEq, Repr

/-- What an ACTIVE command still waits for (R438, R474, R482). -/
inductive Wait
  /-- the command's own row has not run yet -/
  | job
  /-- class A: the step of the cycle it names (R482) -/
  | apply (cycle : Cycle)
  /-- class C: an answer of cell `cell`; `stage` counts the exchanges done so far (R474 to R481) -/
  | cell (cell : Nat) (stage : Nat)
  /-- class T: the twin (R527) -/
  | twin
  /-- a new key that takes effect at its cycle (R527) -/
  | key
  deriving DecidableEq, Repr

/-- A command copied into firmware memory when its mailbox entered ACTIVE (R430, R434). -/
structure Cmd where
  opcode   : BitVec 16
  flags    : BitVec 8
  tag      : BitVec 8
  sequence : Word
  payload  : List Byte
  iface    : Iface
  wait     : Wait := .job
  /-- outcome decided in the step that applies it: status and payload (R482) -/
  outcome  : Option (BitVec 8 × List Byte) := none
  /-- values a class C command has gathered so far (R475 to R481, R528) -/
  got      : List Byte := []
  /-- raw tick of the ring, from which the class limit runs (R438) -/
  rungAt   : Nat := 0
  /-- order cycle of the frame that carried the command's record, and frames it has left in -/
  sentAt   : Option Cycle := none
  sentIn   : Nat := 0
  deriving DecidableEq, Repr

/-- A response as it stands in the response window (R435). -/
structure Rsp where
  opcode   : BitVec 16
  status   : BitVec 8
  tag      : BitVec 8
  sequence : Word
  payload  : List Byte
  deriving DecidableEq, Repr

/-- One mailbox (R429 to R433, R436). -/
structure Mailbox where
  state  : MbxState := .idle
  /-- RING_REJECT bit of MBX_STATUS (R428, R431) -/
  reject : Bool := false
  /-- response window: the last response (R431) -/
  rsp    : Option Rsp := none
  /-- interface that rang the command (R432, R440, R521), and the raw tick of the ring -/
  iface  : Iface := .pcie
  rungAt : Nat := 0
  cmd    : Option Cmd := none
  /-- OPCODE, SEQUENCE and response of the last command completed (R436 step 4) -/
  last   : Option Rsp := none
  deriving DecidableEq, Repr

/-- An event decided but not yet written to the ring (R443 to R445). -/
structure Event where
  source : Nat
  detail : Nat
  /-- TIME96 at which the condition was decided -/
  time   : BitVec 96
  /-- DATA, 12 bytes, unused bytes 0 -/
  data   : List Byte
  /-- EFLAGS (R444) -/
  flags  : Nat := 0
  deriving DecidableEq, Repr

/-- The event ring and its limits (R443 to R448, R645). -/
structure EventRing where
  head      : Nat := 0
  tail      : Nat := 0
  seq       : Word := 0
  lost      : Word := 0
  ovf       : Bool := false
  /-- entries lost since the last overflow entry, and the time of the first (R443) -/
  ovfCount  : Word := 0
  ovfFirst  : BitVec 96 := 0
  /-- events decided and waiting for their ring entry, oldest first (R445) -/
  decided   : List Event := []
  /-- enable mask, bit s for source s (R446, R530) -/
  enable    : BitVec 256 := BitVec.allOnes 256
  /-- vector of source s, or of mailbox n at 256 + n, where remapped (R449, R531) -/
  vectors   : Table Nat := []
  /-- cycle starts elapsed when a counter element's event last fired (R645) -/
  lastFired : Table Nat := []
  /-- per cell-class source: elapsed cycle starts of its entries in the last 1,000 (R448) -/
  window    : Table (List Nat) := []
  /-- per cell-class source: records counted but not written (R448) -/
  held      : Table Word := []
  deriving DecidableEq, Repr

/-- PCI Express and SPI endpoint state (R422 to R428, R449). -/
structure HostIf where
  /-- PCI Bus Master Enable of the configuration space (R422) -/
  busMaster : Bool := false
  /-- pending bits (PBA) and armed state of the 32 vectors (R449) -/
  pba       : BitVec 32 := 0
  armed     : BitVec 32 := BitVec.allOnes 32
  /-- vectors whose condition has occurred in the running command (R449) -/
  trig      : BitVec 32 := 0
  spiCrcFail : Word := 0
  /-- TIME_SNAP_HI shadow of each interface (R23, R427) -/
  shadowPcie : Word := 0
  shadowSpi  : Word := 0
  deriving DecidableEq, Repr

/-- A job of the work dispatcher (R451, R453). -/
structure Job where
  id     : Word
  level  : Nat
  /-- ordered flow and ticket; none for an unordered job -/
  flow   : Option (Nat × BitVec 16)
  /-- the mailbox whose command the job runs; none for firmware work without one -/
  mb     : Option Nat
  deriving DecidableEq, Repr

/-- One ordered flow (R453). -/
structure Flow where
  next     : BitVec 16 := 0
  release  : BitVec 16 := 0
  level    : Nat := 0
  /-- tickets completed out of order, waiting for their turn: core, job and whether it releases anything -/
  finished : Table (Nat × Word × Bool) := []
  deriving DecidableEq, Repr

/-- The work dispatcher (R451 to R454). -/
structure Dispatcher where
  /-- waiting jobs of each level, oldest first, at most 256 -/
  levels  : Table (List Job) := []
  /-- the job each supervisor core runs -/
  cores   : Table (Option Job) := []
  flows   : Table Flow := []
  nextId  : Word := 0
  /-- DISPATCH_FULL per level (R452) -/
  full    : Table Word := []
  /-- trace entries, newest first, at most 4,096; and whether the trace runs (R454) -/
  trace   : List (BitVec 128) := []
  tracing : Bool := true
  deriving DecidableEq, Repr

/-- One entry of a configuration section: PID, ELEM and value bytes (R542). -/
structure CfgEntry where
  pid  : Nat
  elem : Nat
  data : List Byte
  deriving DecidableEq, Repr

/-- The bake report (R470). -/
structure BakeReport where
  rule     : Nat := 0
  cond     : Nat := 0
  section_ : Nat := 0
  instance_ : Nat := 0
  b        : Cycle := 0
  tAce     : List Nat := []
  j1       : BitVec 64 := 0
  segClamp : BitVec 16 := 0
  reserve  : Nat := 0
  deriving DecidableEq, Repr

/-- A bake scheduled for cycle `b` (R441, R442, R466). -/
structure Bake where
  b       : Cycle
  report  : BakeReport
  /-- it changes an index that cells take with PARAM_STAGE (R466) -/
  staged  : Bool
  /-- the contents to apply, by SECTION × 256 + INSTANCE -/
  content : Table (List Byte)
  /-- the cycle period N of the contents (R34) -/
  period  : Nat := 12500
  /-- it is this director's own bake, not one the twin offered (R316); its conditions were checked again (R442) -/
  own     : Bool := true
  checked : Bool := false
  deriving DecidableEq, Repr

/-- Configuration in force, staging session and bake (R439 to R442, R463 to R472). -/
structure CfgState where
  /-- section images in force, by SECTION × 256 + INSTANCE -/
  inForce : Table (List Byte) := []
  /-- the same, parsed into entries (R542) -/
  parsed  : Table (List CfgEntry) := []
  staged  : Table (List Byte) := []
  session : Option Iface := none
  bake    : Option Bake := none
  /-- 0 none, 1 scheduled, 2 applied, 3 abandoned (R471) -/
  status  : Nat := 0
  lastB   : Cycle := 0
  report  : BakeReport := {}
  /-- a configuration with a cycle period has been applied since reset (R456, R461) -/
  baked   : Bool := false
  /-- a bake offered to the twin and not yet staged there (R441 step 2) -/
  offer   : Option Bake := none
  /-- B of a staged bake that was abandoned or discarded: the cells keep the values in force (R466) -/
  undo    : Option Cycle := none
  deriving DecidableEq, Repr

/-- The key of one tree of this director (R118, R597, R598). -/
structure TreeKey where
  phase : Bool := false
  key   : Key := 0
  /-- raw tick and cycle at which the key in use took effect -/
  since : Nat := 0
  sinceCycle : Cycle := 0
  valid : Bool := false
  /-- the next key and its FROM cycle -/
  next  : Option (Key × Cycle) := none
  /-- FROM of the last rekey, until it is reported (R598) -/
  rekeyed : Option Cycle := none
  deriving DecidableEq, Repr

/-- Keys, certificates, nonces and random state (R521, R522, R590 to R601). -/
structure Security where
  /-- outstanding nonce of an interface and the raw tick of its issue (R522) -/
  noncePcie : Option (BitVec 128 × Nat) := none
  nonceSpi  : Option (BitVec 128 × Nat) := none
  /-- the owner hash in force, as the fuses held it at this boot (R537, R600) -/
  ownerHash : Option (BitVec 256) := none
  /-- OWNER_KEY of the image in use and ALT_OWNER_KEY of its CREDENTIALS, 64 bytes each (R593) -/
  ownerKey  : List Byte := []
  altKey    : List Byte := []
  /-- director certificate in force, 112 bytes (R593, R601) -/
  cert      : List Byte := []
  trees     : Table TreeKey := []
  /-- Skeund link key, its age stamps, and the key agreement in progress (R599) -/
  skKey     : Option Key := none
  skSince   : Nat := 0
  skSinceCycle : Cycle := 0
  skNext    : Option (Key × Cycle) := none
  /-- the key in use before the present one took effect -/
  skPrev    : Option Key := none
  /-- the offer sent or received, without its signature, while an agreement runs -/
  skOffer   : Option (List Byte) := none
  /-- the own ephemeral private key of the agreement (R599) -/
  skEph     : Nat := 0
  /-- raw tick before which the offer is not repeated after a failure -/
  skRetryAt : Option Nat := none
  /-- the cycle at which the session keys of the cells were last replaced (R596) -/
  rolledAt : Option Cycle := none
  deriving DecidableEq, Repr

/-- Freeze controller (R428, R606 to R611). -/
structure Freeze where
  cause    : Nat := 0
  draining : Bool := false
  frozen   : Bool := false
  /-- raw tick and boot state at the start of the drain -/
  started  : Nat := 0
  bootAt   : BootState := .run
  /-- DRAIN and SEG of the freeze header (R610) -/
  drain    : Nat := 0
  seg      : Nat := 0xFF
  /-- the freeze header, 128 bytes, written at the end of the drain -/
  header   : List Byte := []
  /-- key of the free values that the memories hold at the freeze (R610) -/
  image    : Nat := 0
  /-- FRZ_ADDR and the last FRZ_DATA capture (R611) -/
  frzAddr  : BitVec 24 := 0
  frzData  : BitVec 32 := 0
  /-- a DIAG_FREEZE was accepted and starts 1 ms later (R520); a DEV_RESET 10 ms later (R462) -/
  armedCmd : Bool := false
  resetDue : Bool := false
  deriving DecidableEq, Repr

end Sys2Proof.Machine
end

