-- ==== Sys2Proof/Machine/LinkState.lean ====
section
/-! DEFINITION. The part of a director's state that serves station time (R330 to R358), clocks
(R359 to R364), the Skeund lanes (R365 to R395), the recorder and telemetry queues (R396 to
R421), background work and the power arbiter (R561 to R583), its pins, and what it transmits.
Every field's default is its value right after a director reset. -/

namespace Sys2Proof.Machine

/-- Converter time states, in the order of the STATE codes of the time mark (R350, R354). -/
inductive TimeMode | unqualified | acquiring | locked | holdover | freeRun
  deriving DecidableEq, Repr

/-- Domain states, in the order of the codes of TIME_DOMAIN (R345, R503). -/
inductive DomMode | disabled | listening | acquiring | locked | suspect
  deriving DecidableEq, Repr

/-- Controlling sources, in the order of the SOURCE codes of TIME_SNAPSHOT (R348, R502). -/
inductive Source | none_ | domA | domB | twin
  deriving DecidableEq, Repr

/-- One PTP domain (R345 to R347). Offsets are in units of 2^-16 ns. -/
structure Domain where
  mode     : DomMode := .disabled
  /-- selected source: 0 TP0, 1 TP1, 2 PPS_IN0, 3 PPS_IN1 (R503) -/
  port     : Option Nat := none
  /-- the last Announce of each time port that the BMCA ranks (R340) -/
  masters  : Table AnnounceMsg := []
  gmId     : Option (BitVec 64) := none
  /-- first offset of a baseline being taken, and the last accepted offset, each with its converter time (R347) -/
  base     : List (Int × Int) := []
  theta    : Option (Int × Int) := none
  /-- the last LOCK_COUNT accepted offsets, newest first -/
  window   : List Int := []
  rejects  : Nat := 0
  /-- consecutive consistent offsets while SUSPECT, newest first, with the converter time of the newest (R345) -/
  regain   : List Int := []
  regainAt : Int := 0
  /-- servo integrator in units of 2^-32 ppb (R346) -/
  integ    : Int := 0
  /-- converter time at which the domain became LOCKED -/
  lockedAt : Option Int := none
  syncRx   : Word := 0
  ofsReject : Word := 0
  /-- rejections since reset, for the limit of their event (R364) -/
  rejected : Nat := 0
  annTimeout : Word := 0
  deriving DecidableEq, Repr

/-- One time port (R340 to R343, R392 to R394). -/
structure TimePort where
  up       : Bool := false
  /-- the Pdelay_Req in flight: its sequence number and t1 (R343) -/
  req      : Option (BitVec 16 × Int) := none
  nextSeq  : BitVec 16 := 0
  unanswered : Nat := 0
  /-- the last three link delays, 2^-16 ns, newest first; empty: no valid link delay -/
  delays   : List Int := []
  /-- (t3, t4) of the last 8 responses, newest first, for neighborRateRatio -/
  ratio    : List (Int × Int) := []
  /-- frames queued to leave: launch time and octets (R342) -/
  queue    : List (Int × List Byte) := []
  pdelayLost : Word := 0
  msgDiscard : Word := 0
  launchLate : Word := 0
  linkDown : Word := 0
  fcsErr   : Word := 0
  rxDiscard : Word := 0
  prbsTest : Bool := false
  deriving DecidableEq, Repr

/-- One PPS input (R352). -/
structure PpsIn where
  lastEdge : Option Int := none
  misses   : Nat := 3
  good     : Bool := false
  devAt    : Option Int := none
  missAt   : Option Int := none
  glitchAt : Option Int := none
  miss     : Word := 0
  glitch   : Word := 0
  deriving DecidableEq, Repr

/-- A pending step of converter time (R338): its cycle, Δ in 2^-16 ns, and the mailbox of a TIME_SET. -/
structure PendStep where
  cycle : Cycle
  delta : Int
  /-- the value of TIME_SET, from which Δ is formed at the start tick -/
  target : Option Int
  mb    : Option Nat
  deriving DecidableEq, Repr

/-- Converter time and cycle numbering (R330 to R357, R549, R550). Converter time is in units of
2^-48 / 5 ns; a raw tick of 0.8 ns is 4 × 2^48 of them (DESIGN CHOICE, assumption 10). -/
structure TimeState where
  mode    : TimeMode := .unqualified
  source  : Source := .none_
  /-- converter time at the start tick of the current cycle -/
  now     : Int := 0
  /-- raw ticks since release at that tick, and cycle starts elapsed (R454, R645) -/
  raw     : Nat := 0
  starts  : Nat := 0
  /-- converter time of the epoch (R34, R549), and whether cycle numbers run -/
  epoch   : Option Int := none
  running : Bool := false
  cycle   : Cycle := 0
  /-- grid point of the current cycle's start -/
  grid    : Int := 0
  /-- raw ticks of the current and of the next cycle (R334, R335) -/
  len     : Nat := 0
  lenNext : Nat := 0
  lenPrev : Nat := 0
  /-- frequency correction in force, fixed for the next cycle, and committed later; 2^-32 ppb -/
  c       : Int := 0
  cNext   : Int := 0
  cPend   : Option Int := none
  /-- proportional term of the controlling servo, 2^-32 ppb (R347) -/
  prop    : Int := 0
  step    : Option PendStep := none
  /-- the cycle of the last step taken: its frames and the next cycle's carry NOP (R338) -/
  stepped : Option Cycle := none
  domA    : Domain := {}
  domB    : Domain := {}
  tp0     : TimePort := {}
  tp1     : TimePort := {}
  pps0    : PpsIn := {}
  pps1    : PpsIn := {}
  /-- converter time at which no source remained (R350) -/
  holdAt  : Option Int := none
  /-- since when the integrator is beyond ±4,500 ppb, and whether REF_OFFSET is raised (R336) -/
  refAt   : Option Int := none
  refSent : Bool := false
  /-- marks by cycle (R354, R355), newest first: departure of the own, arrival and TX of the twin's -/
  marksOwn : List (Cycle × Nat × Option (Nat × Nat)) := []
  /-- 2 ε of the last valid comparisons, newest first, with their cycle (R355) -/
  eps     : List (Cycle × Int) := []
  twinState : TimeMode := .unqualified
  twinStep : Option Nat := none
  /-- a mark of the twin has been received since the link became ACTIVE -/
  twinSeen : Bool := false
  /-- frames have been sent on this epoch; trees silent until this many starts (R550) -/
  sending : Bool := false
  silentTo : Option Nat := none
  /-- the trees are silent since the clocks stopped, until a source is adopted (R361, R362) -/
  treesOff : Bool := false
  /-- the 10 s of R550 have passed without a Skeund link; EPOCH_MISMATCH has been raised -/
  ownEpoch : Bool := false
  /-- raw tick from which those 10 s run: RUN, or the last relock of the root PLL -/
  ownFrom : Nat := 0
  mismatch : Bool := false
  utc     : Option (BitVec 16 × Bool) := none
  /-- root PLL locked, DLLs locked, reference present (R359 to R362) -/
  pllLock : Bool := false
  refOk   : Bool := true
  /-- ROOT_UNLOCK and REF_LOSS still to be raised (R361) -/
  oweUnlock : Bool := false
  oweRefLoss : Bool := false
  steps   : Word := 0
  switches : Word := 0
  limited : Word := 0
  updates : Nat := 0
  limitedAt : Option Nat := none
  twinDiff : Word := 0
  rootUnlock : Word := 0
  refLoss : Word := 0
  deriving DecidableEq, Repr

/-- Skeund lane states, in the order of the STATE codes of R376. -/
inductive LaneMode | detect | equalize | align | ident | active
  deriving DecidableEq, Repr

/-- One Skeund lane, by physical number (R375 to R385). -/
structure Lane where
  mode    : LaneMode := .detect
  /-- waiting 10 ms before DETECT (R375); waiting 10 s before retraining (R385) -/
  holdoff : Bool := false
  holdTen : Bool := false
  /-- raw tick at which the lane rejoined after a retraining (R385) -/
  rejoined : Option Nat := none
  /-- this lane retrains in the background, and runs PRBS31 (R385) -/
  retrain : Bool := false
  prbsRun : Bool := false
  pol     : Bool := false
  eye     : Nat := 0
  /-- transmit taps in use and the status to report (R376 to R378) -/
  pre     : Nat := 0
  post    : Nat := 0
  rsp     : BitVec 8 := 0
  /-- training frames received since EQUALIZE began (R379) -/
  frames  : Nat := 0
  /-- the request this receiver makes on the back channel: field REQ; walking state: 0 post-cursor up,
      1 down, 2 back, 3 pre-cursor up, 4 down, 5 back, 6 done (R379) -/
  req     : BitVec 8 := 0
  walk    : Nat := 0
  best    : Nat := 0
  /-- identity item of the next training frame in IDENT (R381) -/
  sendIdx : Nat := 0
  /-- PHYS_LANE the twin reported on this lane -/
  heard   : Option Nat := none
  twinMode : LaneMode := .detect
  /-- identity items of the twin received (R381) -/
  ident   : Table (BitVec 128) := []
  crcRun  : Nat := 0
  fseq    : Nat := 0
  /-- stuffed bits of the mirror frames of the present step (R374) -/
  stuffed : Nat := 0
  crcFail : Word := 0
  tagFail : Word := 0
  stuffOver : Word := 0
  trainFail : Word := 0
  polFlip : Word := 0
  lockLoss : Word := 0
  retrains : Word := 0
  deriving DecidableEq, Repr

/-- The Skeund link (R309 to R317, R365 to R386). -/
structure Skeund where
  lanes   : Table Lane := []
  /-- the transmitters are on (R361, R533, R548) -/
  lit     : Bool := false
  active  : Bool := false
  reversed : Bool := false
  width   : Nat := 0
  /-- lowest logical lane of the width, and the change that waits for its start tick -/
  base    : Nat := 0
  change  : Bool := false
  /-- the lane map of this training is decided; LANE_MAP has been raised for it (R380) -/
  mapped  : Bool := false
  mapBad  : Bool := false
  /-- LANE_OK of this director's receiver and of the twin's, by logical lane (R383) -/
  ownOk   : BitVec 4 := 0
  twinOk  : BitVec 4 := 0
  /-- the view changed since the last lane status frame; elapsed cycle starts of that frame -/
  statusDue : Bool := false
  statusAt : Nat := 0
  /-- blocks being reassembled: CYCLE × 256 + BLOCK, then lane by lane: WIDTH and payload (R373) -/
  parts   : Table (Table (Nat × List Byte)) := []
  /-- mirror blocks of the twin complete and checked: BLOCK and cycle (R311, R373) -/
  blocks  : Table (Cycle × List Byte) := []
  /-- roles and modes of the latest accepted mirror, full or partial, by arm -/
  twinRole : Table Nat := []
  twinMode : Table Nat := []
  /-- cycle of the latest accepted mirror, full or partial -/
  lastMirror : Option Cycle := none
  slowIndex : Nat := 0
  /-- a bake of the twin staged here: its cycle and contents (R316) -/
  twinBake : Option (Cycle × Table (List Byte)) := none
  /-- frames waiting for a lane, highest priority first (R371) -/
  queue   : List (Nat × List Byte) := []
  identBad : Option Nat := none
  laneRev : Word := 0
  widthChanges : Word := 0
  twinAliveLoss : Word := 0
  /-- TWIN_ALIVE_IN healthy (R318) -/
  twinAlive : Bool := false
  deriving DecidableEq, Repr

/-- Recorder states (R404), in the order of the codes of REC_STATUS. -/
inductive RecMode | stopped | armed | triggered | closing
  deriving DecidableEq, Repr

/-- Segment states (R405), in the order of the codes of REC_STATUS. -/
inductive SegMode | free | armed | triggered | closed | abandoned
  deriving DecidableEq, Repr

/-- A trigger decided on the samples of one cycle (R412 to R414). -/
structure Trigger where
  cause : Nat
  unit  : Nat
  cycle : Cycle
  sub   : Nat
  frac  : Nat
  freeze : Bool
  /-- converter time of the trigger point, in the units of TimeState.now (R412) -/
  time  : Int
  deriving DecidableEq, Repr

/-- What the recorder keeps of one sample cycle until its interval is complete (R397 to R401). -/
structure RecSample where
  cycle : Cycle
  /-- converter time of the start tick -/
  start : Int
  flags : BitVec 64
  /-- converter time not qualified -/
  unqual : Bool
  /-- the raw probe, measurement and cell sections -/
  body  : List Byte
  deriving DecidableEq, Repr

/-- Detector state of a trigger unit (R411). -/
structure TrigUnit where
  /-- state at LEVEL_A and LEVEL_B: none while unknown -/
  hiA    : Option Bool := none
  hiB    : Option Bool := none
  /-- samples since the last positive and negative crossing of LEVEL_A; none: no crossing yet -/
  sincePos : Option Nat := none
  sinceNeg : Option Nat := none
  /-- samples since the last crossing either way, or since the condition started afresh -/
  quiet  : Nat := 0
  /-- LEVEL_B crossed since the last crossing of LEVEL_A, in the positive and the negative sense -/
  bPos   : Bool := false
  bNeg   : Bool := false
  /-- the last present sample with its cycle and sub-sample, and the samples of the slew span, newest first -/
  prev   : Option (F32 × Cycle × Nat) := none
  span   : List (Option F32) := []
  deriving DecidableEq, Repr

/-- The disturbance recorder (R396 to R415). -/
structure Recorder where
  mode    : RecMode := .stopped
  seg     : Option Nat := none
  segs    : Table SegMode := []
  /-- first cycle of the first interval of the segment in use, and the segment chosen to be armed next (R404) -/
  armAt   : Cycle := 0
  nextSeg : Option Nat := none
  /-- intervals stored since arming; capacity, record size and clamp of the segment in use -/
  stored  : Nat := 0
  cap     : Nat := 0
  size    : Nat := 0
  clamp   : Nat := 0
  preLen  : Nat := 0
  postLen : Nat := 0
  /-- the trigger taken, PRE_ACT, FIRST_SLOT, UNITS, and records stored after the trigger interval -/
  trig    : Option Trigger := none
  preAct  : Nat := 0
  firstSlot : Nat := 0
  units   : BitVec 64 := 0
  post    : Nat := 0
  drops   : Word := 0
  dropBefore : Bool := false
  /-- records complete and waiting for staging: first cycle of the interval and the bytes, RFLAGS[1:0] clear -/
  ready   : List (Cycle × List Byte) := []
  /-- the samples of the interval so far, newest first -/
  interval : List RecSample := []
  /-- of the last cycles, newest first: flag word bits other than the arm bits, converter time of the
      start tick, and converter time not qualified (R397, R400) -/
  flagBase : List (Cycle × BitVec 64 × Int × Bool) := []
  /-- the pattern trigger's match in the last cycle, and the last cycle decided (R413, R414) -/
  patPrev : Option Bool := none
  decided : Option Cycle := none
  units64 : Table TrigUnit := []
  /-- a command trigger pending: its cycle and mailbox (R509); auto trigger's count of armed intervals -/
  pCmd    : Option (Cycle × Nat) := none
  autoRun : Nat := 0
  autoPoint : Option Cycle := none
  /-- the cycle of the trigger that a freeze forces (R607) -/
  pFreeze : Option Cycle := none
  missLog : List (BitVec 96 × Nat × Nat × Nat) := []
  stopAfter : Bool := false
  /-- BLOCK_IN assertions and urgent frames since the last start tick (R397) -/
  sawBlock : BitVec 4 := 0
  sawUrgent : Bool := false
  sawDrop : Bool := false
  missed  : Word := 0
  dropCnt : Word := 0
  ddrUe   : Word := 0
  overwrite : Word := 0
  deriving DecidableEq, Repr

/-- One item of a telemetry queue: its bytes, and how many have been read (R417, R419). -/
structure TqItem where
  bytes : List Byte
  read  : Nat := 0
  crumb : Bool := false
  deriving DecidableEq, Repr

/-- One telemetry queue (R416 to R420); `word` is what the last read of its data port returned. -/
structure Tq where
  items : List TqItem := []
  word  : BitVec 128 := 0
  lost  : Word := 0
  deriving DecidableEq, Repr

/-- Background work and the power arbiter (R561 to R583). -/
structure Background where
  /-- credits granted per request id (R576): 0 REC_DRAIN, 1 SC_BOOST, 2 to 5 LANE_SWEEP, 6 REC_EXPORT, 7 GLAZE_FAST, 8 to 13 ACE_IDLE -/
  grants  : Table Nat := []
  /-- grants of a recomputation that wait for the revocations to be confirmed (R578) -/
  toGrant : Option (Table Nat) := none
  reserve : Nat := 0
  budget  : Nat := 160
  hot     : Bool := false
  crit    : Bool := false
  /-- glaze pass: words corrected so far, fast passes owed (R566), raw tick of its start and late already (R563) -/
  corrected : Nat := 0
  fastOwed : Nat := 0
  passAt   : Nat := 0
  passLate : Bool := false
  /-- 64-byte burst the patrol reads next (R567) -/
  patrolAt : Nat := 0
  glazePasses : Word := 0
  glazeLate : Word := 0
  sramCe  : Word := 0
  sramUe  : Word := 0
  patrolPasses : Word := 0
  ddrCe   : Word := 0
  ddrCeAt : Option Int := none
  arbWait : Table Word := []
  /-- per waiting request id: raw tick since which it waits, and its wait is counted (R579) -/
  waitSince : Table (Nat × Bool) := []
  /-- converter time of the last GRANT_WAIT of each block (R579) -/
  waitAt  : Table Int := []
  deriving DecidableEq, Repr

/-- What leaves the director in a command: the port or lane, and the line. -/
inductive Tx
  /-- an order frame copy on a tree port: type code, the line bits from the delimiter's first one on, DEPART (R75, R108, R342) -/
  | tree (port : Nat) (code : BitVec 32) (line : List Bool) (depart : Int)
  /-- an urgent block frame copy from its delimiter on: departure in ticks from the start of the present cycle (R58, R147) -/
  | urgent (port : Nat) (line : List Bool) (tick : Nat)
  /-- from the last bit on, a tree port sends the idle fill of this register and run until its next delimiter (R76) -/
  | fill (port : Nat) (q : BitVec 31) (run : Bool × Nat)
  /-- a tree port goes dark (R68) -/
  | dark (port : Nat)
  /-- a tree port in test mode sends this PRBS pattern in place of its stream (R68, R390) -/
  | prbs (port : Nat) (pattern : Nat)
  /-- a tree port asserts burst-reset from the start of one bit-time to the start of another, counted from the
  start of the cycle in 0.4 ns of director time (R67) -/
  | burstReset (port : Nat) (on off : Nat)
  /-- a Skeund frame on a logical lane: type code, body bytes, and the line bits from the delimiter's first one on (R368 to R372) -/
  | skeund (lane : Nat) (code : BitVec 32) (bytes : List Byte) (line : List Bool)
  /-- a training frame on a physical lane, and its line bits (R368, R370, R376) -/
  | train (lane : Nat) (body : BitVec 192) (crc : BitVec 32) (line : List Bool)
  /-- from the last bit on, a physical Skeund lane sends the idle fill of this register and run (R370) -/
  | laneFill (lane : Nat) (q : BitVec 31) (run : Bool × Nat)
  /-- the four Skeund transmitters go dark (R533, R608) -/
  | lanesDark
  /-- a time-port frame: launch time in 2^-16 ns and octets (R342) -/
  | eth (port : Nat) (lt : Int) (octets : List Byte)
  /-- an MSI-X message: vector, address, data (R449) -/
  | msix (vector : Nat) (addr : BitVec 64) (data : BitVec 32)
  /-- data returned to a host read or on test access -/
  | reply (bytes : List Byte)
  deriving DecidableEq, Repr

/-- Pins of the director. -/
structure Pins where
  /-- RESET_N high -/
  resetN   : Bool := true
  /-- raw tick at which the last valid assertion of BLOCK_IN0 to 3 ends, and ignored pulses (R56; DEDUCED, assumption 33) -/
  blockIn  : Table Nat := []
  ignored  : Table Word := []
  /-- arm mask of each BLOCK_IN pin; an unlisted pin has all six arms (R56) -/
  blockMask : Table Nat := []
  /-- TWIN_ALIVE_OUT runs (R317) -/
  alive    : Bool := false
  /-- the supervisor served its watchdog within the last 1 ms (R317) -/
  served   : Bool := true
  ppsOut   : Bool := false
  deriving DecidableEq, Repr

end Sys2Proof.Machine
end

