-- ==== Sys2Proof/Machine/State.lean ====
section
/-! DEFINITION. The state of the block: one director, one cell controller, their byte memories,
the waiting commands and the model's own counter for free values; the faults and refusals; and
the state right after reset. -/

namespace Sys2Proof.Machine

/-- The byte memories of the block, each in canonical form for its default byte. -/
structure Stores where
  /-- quad-SPI NOR flash of the director; an erased byte reads 0xFF (R538) -/
  flash  : Mem := []
  /-- recorder DDR4 (R402) -/
  ddr    : Mem := []
  /-- BAR4: the event ring, 2,048 entries of 32 bytes (R443) -/
  ring   : Mem := []
  /-- MSI-X table, 32 entries of 16 bytes (R428); PCI Express resets every vector masked -/
  msix   : Mem := (List.range 32).map fun v => (16 * v + 12, 1)
  /-- command windows of the four mailboxes, 4,096 bytes each (R429) -/
  win0   : Mem := []
  win1   : Mem := []
  win2   : Mem := []
  win3   : Mem := []
  /-- board EEPROM of the cell (R235, R236) -/
  eeprom : Mem := []
  /-- 32 KiB nonvolatile store of the cell (R602) -/
  nv     : Mem := []
  deriving DecidableEq, Repr

/-- The fuses of the reference director: VARIANT 0x3072 with every unit enabled and the FACT_CRC
that goes with it; everything else unprogrammed (DESIGN CHOICE, assumption 5). -/
def referenceFuses : BitVec 4096 := BitVec.ofNat 4096 (0x3072FFFF * 2 ^ 1024 + 4283197128 * 2 ^ 1408)

/-- One valve director. -/
structure Director where
  boot  : Boot := { fuseA := referenceFuses, fuseB := referenceFuses }
  host  : HostIf := {}
  /-- mailboxes MB0 to MB3 -/
  mbs   : Table Mailbox := []
  ring  : EventRing := {}
  disp  : Dispatcher := {}
  cfg   : CfgState := {}
  sec   : Security := {}
  frz   : Freeze := {}
  arms  : Table Arm := []
  ports : Table Port := []
  /-- what is kept per cell ID on the own link -/
  cells : Table CellRec := []
  time  : TimeState := {}
  sk    : Skeund := {}
  rcd   : Recorder := {}
  /-- telemetry queues TQ0 to TQ5 -/
  tqs   : Table Tq := []
  bg    : Background := {}
  pins  : Pins := {}
  /-- DIAG_DATA entries of R515: cell ID and 20 bytes, oldest first, and the number dropped -/
  diagBuf : List (Nat × List Byte) := []
  diagLost : Nat := 0
  /-- characterised internal delays of the two chips, which every round trip includes, 25 ps (R87); their value is not stated
  (DESIGN CHOICE, assumption 79) -/
  intDelay : Int := 0
  /-- PRBS generators and checkers of the Skeund lanes (0 to 3) and the time ports (4, 5) (R388 to R391) -/
  prbs  : Table Prbs := []
  /-- cells that have been sent this boot's image patch, and those in progress: cell and next offset (R605) -/
  patched : List Nat := []
  patching : Table Nat := []
  /-- what the last command made the director transmit -/
  tx    : List Tx := []
  /-- bytes on their way to the memories; empty between commands -/
  writes : List MemWrite := []
  deriving DecidableEq, Repr

/-- The block. -/
structure State where
  dir     : Director
  cell    : Cell
  mem     : Stores
  pending : List Instr
  /-- commands executed so far: the key of their free values (DESIGN CHOICE, assumption 3) -/
  fresh   : Nat
  deriving DecidableEq, Repr

/-- Faults: no command of this hardware ends in one; every condition the spec describes is an effect on the state. -/
inductive Fault
  deriving DecidableEq, Repr

/-- Refusals. -/
inductive Refusal
  /-- raised by the arms of exec whose command has no meaning yet (safe: the machine stops) -/
  | notModelled (mnemonic : String)
  /-- raised by a meaning whose operand names a unit that no chip of the family has, such as arm 6
  or mailbox 4 (safe: the machine stops) -/
  | noSuchUnit
  deriving DecidableEq, Repr

/-- The block right after reset. -/
def State.reset : State := { dir := {}, cell := {}, mem := {}, pending := [], fresh := 0 }

end Sys2Proof.Machine
end

