-- ==== Sys2Proof/Machine/Ops.lean ====
section
/-! DEFINITION. The operations over the block's memories, and the two wrappers every meaning is
built from: a command acts on the director or on the cell, and then the bytes it wrote reach
their memory in the canonical form. -/

namespace Sys2Proof.Machine

/-- What an unlisted byte of a memory reads as (DESIGN CHOICE, assumption 4). -/
def memDefault : MemId → Byte
  | .flash => 0xFF
  | .eeprom => 0xFF
  | _ => 0

/-- The listed bytes of a memory. -/
def memGet (m : Stores) : MemId → Mem
  | .flash => m.flash
  | .ddr => m.ddr
  | .ring => m.ring
  | .msix => m.msix
  | .window 0 => m.win0
  | .window 1 => m.win1
  | .window 2 => m.win2
  | .window _ => m.win3
  | .eeprom => m.eeprom
  | .nv => m.nv

/-- The memories with one of them replaced. -/
def memSet (m : Stores) (i : MemId) (x : Mem) : Stores :=
  match i with
  | .flash => { m with flash := x }
  | .ddr => { m with ddr := x }
  | .ring => { m with ring := x }
  | .msix => { m with msix := x }
  | .window 0 => { m with win0 := x }
  | .window 1 => { m with win1 := x }
  | .window 2 => { m with win2 := x }
  | .window _ => { m with win3 := x }
  | .eeprom => { m with eeprom := x }
  | .nv => { m with nv := x }

/-- The byte at an address of a memory. -/
def rdByte (m : Stores) (i : MemId) (a : Nat) : Byte := Mem.read (memDefault i) a (memGet m i)

/-- `n` bytes from an address of a memory. -/
def rdBytes (m : Stores) (i : MemId) (a n : Nat) : List Byte := Mem.readList (memDefault i) a n (memGet m i)

/-- Carry out one write. -/
def applyWrite (m : Stores) (w : MemWrite) : Stores :=
  memSet m w.dest (Mem.writeList (memDefault w.dest) w.addr w.data (memGet m w.dest))

/-- Carry out writes, the oldest (last listed) first. -/
def applyWrites (m : Stores) (ws : List MemWrite) : Stores := ws.foldr (fun w m => applyWrite m w) m

/-- The cell as a command finds it: nothing sent and nothing written yet. -/
def cellStart (c : Cell) : Cell := { c with tx := [], writes := [] }

/-- The director as a command finds it: nothing sent and nothing written yet. -/
def dirStart (d : Director) : Director := { d with tx := [], writes := [] }

/-- A command that acts on the cell controller: its own writes reach the EEPROM and the store. -/
def onCell (s : State) (f : Cell → Cell) : Host.Outcome State Fault Refusal :=
  let c := f (cellStart s.cell)
  .next { s with cell := { c with writes := [] }, mem := applyWrites s.mem c.writes, fresh := s.fresh + 1 }

/-- Vector control word of an MSI-X table entry: bit 0 masks it (R428). -/
def vectorMasked (m : Stores) (v : Nat) : Bool := bit (leNat (rdBytes m .msix (16 * v + 12) 4)) 0

/-- Send one vector's message (R422, R449): a masked one sets its pending bit instead. -/
def sendVector (m : Stores) (d : Director) (v : Nat) : Director :=
  if !d.host.busMaster then d
  else if vectorMasked m v then { d with host := { d.host with pba := d.host.pba ||| BitVec.twoPow 32 v } }
  else { d with
    host := { d.host with pba := d.host.pba &&& ~~~(BitVec.twoPow 32 v) }
    tx := d.tx ++ [.msix v (BitVec.ofNat 64 (leNat (rdBytes m .msix (16 * v) 8)))
      (BitVec.ofNat 32 (leNat (rdBytes m .msix (16 * v + 8) 4)))] }

/-- Armed vectors whose condition occurred send and disarm; pending ones that are unmasked send (R449). -/
def settleVectors (m : Stores) (d : Director) : Director :=
  let go (d : Director) (v : Nat) : Director :=
    if d.host.trig.getLsbD v && d.host.armed.getLsbD v then
      let d := { d with host := { d.host with armed := if d.host.busMaster then d.host.armed &&& ~~~(BitVec.twoPow 32 v) else d.host.armed } }
      sendVector m d v
    else if d.host.pba.getLsbD v && !vectorMasked m v then sendVector m d v
    else d
  if d.host.trig = 0 && d.host.pba = 0 then d else
  let d := (List.range 32).foldl go d
  { d with host := { d.host with trig := 0 } }

/-- A command that acts on the director: its writes reach the memories, and vectors settle. -/
def onDir (s : State) (f : Director → Director) : Host.Outcome State Fault Refusal :=
  let d := f (dirStart s.dir)
  let m := applyWrites s.mem d.writes
  .next { s with dir := settleVectors m { d with writes := [] }, mem := m, fresh := s.fresh + 1 }

/-- A command about a unit that must exist in the family. -/
def ifUnit (p : Bool) (o : Host.Outcome State Fault Refusal) : Host.Outcome State Fault Refusal :=
  if p then o else .refused .noSuchUnit


end Sys2Proof.Machine
end

