-- ==== Sys2Proof/Machine/Float.lean ====
section
/-! DEFINITION. IEEE 754 binary32 and binary64 arithmetic on bit patterns (R15, R208, R232, R244,
R298): every operation computes the exact result and rounds it once, to nearest, ties to even. -/

namespace Sys2Proof.Machine

/-- A floating-point format: precision, exponent field width, and the exponent of its last subnormal bit. -/
structure Fmt where
  p : Nat
  w : Nat
  lsb : Int
  deriving DecidableEq, Repr

def f32 : Fmt := ⟨24, 8, -149⟩
def f64 : Fmt := ⟨53, 11, -1074⟩

/-- A decoded value: finite with sign, significand and exponent of its last bit; infinite; not a number. -/
inductive FV
  | fin (neg : Bool) (m : Nat) (e : Int)
  | inf (neg : Bool)
  | nan
  deriving DecidableEq, Repr

/-- Decode a pattern of a format. -/
def fdec (f : Fmt) (n : Nat) : FV :=
  let s := bit n (f.p - 1 + f.w)
  let ex := fld n (f.p + f.w - 2) (f.p - 1)
  let fr := fld n (f.p - 2) 0
  if ex = 2 ^ f.w - 1 then (if fr = 0 then .inf s else .nan)
  else if ex = 0 then .fin s fr f.lsb
  else .fin s (fr + 2 ^ (f.p - 1)) (f.lsb + (ex : Int) - 1)

/-- The sign bit of a pattern. -/
def fsign (f : Fmt) (s : Bool) : Nat := if s then 2 ^ (f.p - 1 + f.w) else 0

/-- The infinity pattern. -/
def finf (f : Fmt) (s : Bool) : Nat := fsign f s + (2 ^ f.w - 1) * 2 ^ (f.p - 1)

/-- The quiet not-a-number pattern. -/
def fnan (f : Fmt) : Nat := finf f false + 2 ^ (f.p - 2)

/-- n / d times 2^k rounded to the format, to nearest, ties to even; d positive. -/
def fround (f : Fmt) (s : Bool) (n d : Nat) (k : Int) : Nat :=
  if n = 0 then fsign f s else
  let e0 := (Nat.log2 n : Int) - (Nat.log2 d : Int) - (f.p : Int)
  -- the quotient n/d lies between 2^(p-1) and 2^(p+1) units of 2^e0
  let q0 (e : Int) : Nat × Nat :=
    if e < 0 then ((n <<< e.natAbs), d) else (n, d <<< e.toNat)
  let big := let x := q0 e0; x.1 / x.2 ≥ 2 ^ f.p
  let e1 := (if big then e0 + 1 else e0)
  let e := if e1 + k < f.lsb then f.lsb - k else e1
  let x := q0 e
  let q := x.1 / x.2
  let r := x.1 % x.2
  let m := if 2 * r > x.2 || (2 * r = x.2 && q % 2 = 1) then q + 1 else q
  let (m, e) := if m ≥ 2 ^ f.p then (m / 2, e + 1) else (m, e)
  if m < 2 ^ (f.p - 1) then fsign f s + m
  else
    let ex := e + k - f.lsb + 1
    if ex ≥ 2 ^ f.w - 1 then finf f s
    else fsign f s + ex.toNat * 2 ^ (f.p - 1) + (m - 2 ^ (f.p - 1))

/-- An exact integer times 2^k, rounded; `z` is the sign of an exact zero. -/
def fofInt (f : Fmt) (z : Bool) (i : Int) (k : Int) : Nat :=
  if i = 0 then fsign f z else fround f (i < 0) i.natAbs 1 k

/-- A quotient of integers rounded; d positive. -/
def fofRat (f : Fmt) (n : Int) (d : Nat) : Nat := if n = 0 then 0 else fround f (n < 0) n.natAbs d 0

/-- Signed significand. -/
def smant (s : Bool) (m : Nat) : Int := if s then -(m : Int) else m

def faddV (f : Fmt) : FV → FV → Nat
  | .nan, _ => fnan f
  | _, .nan => fnan f
  | .inf a, .inf b => if a = b then finf f a else fnan f
  | .inf a, _ => finf f a
  | _, .inf b => finf f b
  | .fin s m e, .fin t n g =>
    let k := min e g
    let i := smant s m * 2 ^ (e - k).toNat + smant t n * 2 ^ (g - k).toNat
    fofInt f (s && t) i k

def fmulV (f : Fmt) : FV → FV → Nat
  | .nan, _ => fnan f
  | _, .nan => fnan f
  | .inf a, .inf b => finf f (a ^^ b)
  | .inf a, .fin b n _ => if n = 0 then fnan f else finf f (a ^^ b)
  | .fin a m _, .inf b => if m = 0 then fnan f else finf f (a ^^ b)
  | .fin s m e, .fin t n g => if m = 0 || n = 0 then fsign f (s ^^ t) else fround f (s ^^ t) (m * n) 1 (e + g)

def fdivV (f : Fmt) : FV → FV → Nat
  | .nan, _ => fnan f
  | _, .nan => fnan f
  | .inf _, .inf _ => fnan f
  | .inf a, .fin b _ _ => finf f (a ^^ b)
  | .fin a _ _, .inf b => fsign f (a ^^ b)
  | .fin s m e, .fin t n g =>
    if n = 0 then (if m = 0 then fnan f else finf f (s ^^ t))
    else if m = 0 then fsign f (s ^^ t) else fround f (s ^^ t) m n (e - g)

def fnegN (f : Fmt) (n : Nat) : Nat := n ^^^ 2 ^ (f.p - 1 + f.w)

/-- a · b + c with one rounding. -/
def ffmaV (f : Fmt) (a b c : FV) : Nat :=
  match a, b, c with
  | .fin s m e, .fin t n g, .fin u o h =>
    let k := min (e + g) h
    let i := smant (s ^^ t) (m * n) * 2 ^ (e + g - k).toNat + smant u o * 2 ^ (h - k).toNat
    fofInt f ((s ^^ t) && u) i k
  | _, _, _ => faddV f (fdec f (fmulV f a b)) c

/-- Order of two values; none when either is not a number. -/
def fcmpV : FV → FV → Option Ordering
  | .nan, _ => none
  | _, .nan => none
  | .inf a, .inf b => some (compare (b2n (!a)) (b2n (!b)))
  | .inf a, _ => some (if a then .lt else .gt)
  | _, .inf b => some (if b then .gt else .lt)
  | .fin s m e, .fin t n g =>
    let k := min e g
    some (compare (smant s m * 2 ^ (e - k).toNat) (smant t n * 2 ^ (g - k).toNat))

/-- Square root of the exact value, rounded. -/
def fsqrtV (f : Fmt) : FV → Nat
  | .nan => fnan f
  | .inf s => if s then fnan f else finf f false
  | .fin s m e =>
    if m = 0 then fsign f s else if s then fnan f else
    -- scale so that the integer root has p + 2 bits or more, and keep a sticky bit
    let sh := 2 * f.p + 4 + (e % 2).toNat
    let n := m <<< sh
    let r := Nat.sqrt n
    let st := if r * r = n then 0 else 1
    fround f false (2 * r + st) 1 ((e - sh) / 2 - 1)

namespace B32

def dec (x : F32) : FV := fdec f32 x.toNat
def add (a b : F32) : F32 := BitVec.ofNat 32 (faddV f32 (dec a) (dec b))
def mul (a b : F32) : F32 := BitVec.ofNat 32 (fmulV f32 (dec a) (dec b))
def div (a b : F32) : F32 := BitVec.ofNat 32 (fdivV f32 (dec a) (dec b))
def neg (a : F32) : F32 := a ^^^ 0x80000000#32
def sub (a b : F32) : F32 := add a (neg b)
def abs (a : F32) : F32 := a &&& 0x7FFFFFFF#32
def fma (a b c : F32) : F32 := BitVec.ofNat 32 (ffmaV f32 (dec a) (dec b) (dec c))
def ofInt (i : Int) : F32 := BitVec.ofNat 32 (fofInt f32 false i 0)
def ofRat (n : Int) (d : Nat) : F32 := BitVec.ofNat 32 (fofRat f32 n d)
def cmp (a b : F32) : Option Ordering := fcmpV (dec a) (dec b)
def lt (a b : F32) : Bool := cmp a b == some .lt
def le (a b : F32) : Bool := cmp a b == some .lt || cmp a b == some .eq
def finite (a : F32) : Bool := fld a.toNat 30 23 != 255
def isNeg (a : F32) : Bool := lt a 0
/-- Subnormals become zero of their sign (R244). -/
def ftz (a : F32) : F32 := if fld a.toNat 30 23 = 0 then a &&& 0x80000000#32 else a

end B32

namespace B64

def dec (x : F64) : FV := fdec f64 x.toNat
def add (a b : F64) : F64 := BitVec.ofNat 64 (faddV f64 (dec a) (dec b))
def mul (a b : F64) : F64 := BitVec.ofNat 64 (fmulV f64 (dec a) (dec b))
def div (a b : F64) : F64 := BitVec.ofNat 64 (fdivV f64 (dec a) (dec b))
def neg (a : F64) : F64 := a ^^^ 0x8000000000000000#64
def sub (a b : F64) : F64 := add a (neg b)
def abs (a : F64) : F64 := a &&& 0x7FFFFFFFFFFFFFFF#64
def sqrt (a : F64) : F64 := BitVec.ofNat 64 (fsqrtV f64 (dec a))
def ofInt (i : Int) : F64 := BitVec.ofNat 64 (fofInt f64 false i 0)
def ofRat (n : Int) (d : Nat) : F64 := BitVec.ofNat 64 (fofRat f64 n d)
def cmp (a b : F64) : Option Ordering := fcmpV (dec a) (dec b)
def lt (a b : F64) : Bool := cmp a b == some .lt
def le (a b : F64) : Bool := cmp a b == some .lt || cmp a b == some .eq
def finite (a : F64) : Bool := fld a.toNat 62 52 != 2047

end B64

/-- A binary32 pattern as binary64, exactly. -/
def f32to64 (a : F32) : F64 :=
  match B32.dec a with
  | .fin s m e => BitVec.ofNat 64 (if m = 0 then fsign f64 s else fround f64 s m 1 e)
  | .inf s => BitVec.ofNat 64 (finf f64 s)
  | .nan => BitVec.ofNat 64 (fnan f64)

/-- A binary64 pattern rounded to binary32. -/
def f64to32 (a : F64) : F32 :=
  match B64.dec a with
  | .fin s m e => BitVec.ofNat 32 (if m = 0 then fsign f32 s else fround f32 s m 1 e)
  | .inf s => BitVec.ofNat 32 (finf f32 s)
  | .nan => BitVec.ofNat 32 (fnan f32)

/-- A value times n / d as an exact floor; none when it is not finite. -/
def fvFloor (v : FV) (n d : Nat) : Option Int :=
  match v with
  | .fin s m e =>
    let x := smant s (m * n)
    some (if e < 0 then x / ((d * 2 ^ e.natAbs : Nat) : Int) else x * 2 ^ e.toNat / (d : Int))
  | _ => none

/-- A value times n / d rounded to the nearest whole number, halves up; none when it is not finite. -/
def fvRound (v : FV) (n d : Nat) : Option Int :=
  match v with
  | .fin s m e =>
    let x := smant s (m * n)
    some (if e < 0 then roundHalfUp x (d * 2 ^ e.natAbs) else roundHalfUp (x * 2 ^ e.toNat) d)
  | _ => none

end Sys2Proof.Machine
end

