-- ==== Sys2Proof/Machine/Special.lean ====
section
/-! DEFINITION. The exponential of the thermal model (R232), the logarithm of the NTC formula (R221)
and the sine of the test generator (R277): the exact value, taken from its series to 2^-250, and
rounded once to nearest even (DESIGN CHOICE, assumption 11: the spec names no rounding). -/

namespace Sys2Proof.Machine

/-- Scale of the fixed-point numbers of this file: 2^320 stands for 1. -/
def fxOne : Nat := 2 ^ 320

/-- Sum of `n` terms of a series: each term from the last one and its index. -/
def fxSeries (next : Nat → Int → Int) : Nat → Nat → Int → Int
  | 0, _, _ => 0
  | n + 1, i, t => t + fxSeries next n (i + 1) (next (i + 1) t)

/-- Product and quotient of fixed-point numbers. -/
def fxMul (a b : Int) : Int := a * b / fxOne
def fxDiv (a b : Int) : Int := a * fxOne / b

/-- Area tangent: s + s³/3 + s⁵/5 + …, for a quotient of at most 1/3; and the tangent's inverse with alternating signs. -/
def fxAtanh (s : Int) : Int :=
  (List.range 102).foldl (fun (acc : Int × Int) i => (acc.1 + acc.2 / (2 * i + 1 : Nat), fxMul (fxMul acc.2 s) s)) (0, s) |>.1
def fxAtanInv (n : Nat) : Int :=
  (List.range 140).foldl (fun (acc : Int × Int) i => (acc.1 + acc.2 / (2 * i + 1 : Nat), -acc.2 / (n * n : Nat))) (0, (fxOne / n : Nat)) |>.1

/-- ln 2 and π. -/
def fxLn2 : Int := 2 * fxAtanh (fxOne / 3 : Nat)
def fxPi : Int := 4 * (4 * fxAtanInv 5 - fxAtanInv 239)

/-- A finite value in fixed point. -/
def fxOf (s : Bool) (m : Nat) (e : Int) : Int :=
  let x : Nat := if 0 ≤ e + 320 then m * 2 ^ (e + 320).toNat else m / 2 ^ (e + 320).natAbs
  smant s x

/-- A fixed-point number times 2^k, rounded to a format. -/
def fxRound (f : Fmt) (x k : Int) : Nat := if x = 0 then 0 else fround f (x < 0) x.natAbs 1 (k - 320)

/-- binary32 exponential (R232). -/
@[irreducible] def exp32 (x : F32) : F32 :=
  match B32.dec x with
  | .nan => BitVec.ofNat 32 (fnan f32)
  | .inf s => if s then 0 else BitVec.ofNat 32 (finf f32 false)
  | .fin s m e =>
    let v := fxOf s m e
    if 128 * (fxOne : Int) < v then BitVec.ofNat 32 (finf f32 false)
    else if v < -(128 * (fxOne : Int)) then 0
    else
      let k := v / fxLn2
      let t := v - k * fxLn2
      BitVec.ofNat 32 (fxRound f32 (fxSeries (fun i u => fxMul u t / (i : Int)) 80 0 fxOne) k)

/-- binary64 natural logarithm (R221). -/
@[irreducible] def ln64 (x : F64) : F64 :=
  match B64.dec x with
  | .nan => BitVec.ofNat 64 (fnan f64)
  | .inf s => BitVec.ofNat 64 (if s then fnan f64 else finf f64 false)
  | .fin s m e =>
    if m = 0 then BitVec.ofNat 64 (finf f64 true)
    else if s then BitVec.ofNat 64 (fnan f64)
    else
      let l := Nat.log2 m
      let y : Int := m * 2 ^ (320 - l)
      let q := fxDiv (y - fxOne) (y + fxOne)
      BitVec.ofNat 64 (fxRound f64 ((e + l) * fxLn2 + 2 * fxAtanh q) 0)

/-- binary32 sine (R277). -/
@[irreducible] def sin32 (x : F32) : F32 :=
  match B32.dec x with
  | .fin s m e =>
    if m = 0 then x else
    let v := fxOf s m e
    let t := (v + fxPi) % (2 * fxPi) - fxPi
    BitVec.ofNat 32 (fxRound f32 (fxSeries (fun i u => -fxMul (fxMul u t) t / ((2 * i) * (2 * i + 1) : Nat)) 60 0 t) 0)
  | _ => BitVec.ofNat 32 (fnan f32)

end Sys2Proof.Machine
end

