-- ==== Sys2Proof/Machine/Operands.lean ====
section
/-! DEFINITION. What the commands of a director read their operands from: the parameters of the
configuration in force or staged (R542 to R544 and the parameter tables), the topology (R7, R13,
R14, R543) and the cycle plan (R33, R37 to R44). -/

namespace Sys2Proof.Machine

/-- Parsed sections, by SECTION × 256 + INSTANCE. -/
abbrev Cfg := Table (List CfgEntry)

/-- The key of a section instance. -/
def secKey (s i : Nat) : Nat := s * 256 + i

/-- The entries of a section image (R542); none when an entry runs past it or is misplaced. -/
def parseEntries : Nat → List Byte → Option (List CfgEntry)
  | 0, bs => if bs.isEmpty then some [] else none
  | k + 1, bs =>
    if bs.isEmpty then some []
    else if bs.length < 8 then none
    else
      let n := leAt bs 4 4
      if n % 4 ≠ 0 || bs.length < 8 + n then none
      else (parseEntries k (bs.drop (8 + n))).map
        ({ pid := leAt bs 0 2, elem := leAt bs 2 2, data := sub bs 8 n } :: ·)

/-- The bytes of element `e` of a parameter whose elements take `sz` bytes; the last entry that reaches it,
since an earlier one may end in padding (R542). -/
def elemBytes (es : List CfgEntry) (pid e sz : Nat) : Option (List Byte) :=
  (es.filter fun x => x.pid = pid && decide (x.elem ≤ e) && decide ((e - x.elem + 1) * sz ≤ x.data.length)).getLast?.map
    fun x => sub x.data ((e - x.elem) * sz) sz

/-- Element `e` of a 4-byte parameter, or its default. -/
def parm (es : List CfgEntry) (pid e dflt : Nat) : Nat :=
  match elemBytes es pid e 4 with | some b => leNat b | none => dflt

def parmZ (es : List CfgEntry) (pid e : Nat) (dflt : Int) : Int :=
  match elemBytes es pid e 4 with | some b => signed 32 (leNat b) | none => dflt

def parmF (es : List CfgEntry) (pid e : Nat) (dflt : F32) : F32 :=
  match elemBytes es pid e 4 with | some b => BitVec.ofNat 32 (leNat b) | none => dflt

/-- Element of a parameter of `sz` bytes. -/
def parmN (es : List CfgEntry) (sz pid e dflt : Nat) : Nat :=
  match elemBytes es pid e sz with | some b => leNat b | none => dflt

/-! Sections -/

def sect (c : Cfg) (s i : Nat) : List CfgEntry := tget [] (secKey s i) c
def topo (c : Cfg) : List CfgEntry := sect c 0x01 0
def planS (c : Cfg) : List CfgEntry := sect c 0x02 0
def laneS (c : Cfg) : List CfgEntry := sect c 0x03 0
def timeS (c : Cfg) : List CfgEntry := sect c 0x04 0
def recS (c : Cfg) : List CfgEntry := sect c 0x05 0
def powS (c : Cfg) : List CfgEntry := sect c 0x06 0
def armS (c : Cfg) (a : Nat) : List CfgEntry := sect c 0x10 a
def redS (c : Cfg) (a : Nat) : List CfgEntry := sect c 0x11 a

/-- The configuration in force. -/
def cfg (d : Director) : Cfg := d.cfg.parsed

/-- Parse a section image; one that does not parse gives no entries. -/
def parseSection (bs : List Byte) : List CfgEntry := (parseEntries (bs.length + 1) bs).getD []

/-- Parse every section of a configuration. -/
def parseAll (t : Table (List Byte)) : Cfg := t.map fun (k, bs) => (k, parseSection bs)

/-- Put one section in force. -/
def putSection (d : Director) (k : Nat) (bs : List Byte) : Director :=
  { d with cfg := { d.cfg with inForce := tset k bs d.cfg.inForce, parsed := tset k (parseSection bs) d.cfg.parsed } }

/-- Largest size of a section; none for a code or instance that R463 does not list. -/
def sectMax (s i : Nat) : Option Nat :=
  match s with
  | 0x01 => if i = 0 then some 32768 else none
  | 0x02 => if i = 0 then some 64 else none
  | 0x03 => if i = 0 then some 256 else none
  | 0x04 => if i = 0 then some 512 else none
  | 0x05 => if i = 0 then some 8192 else none
  | 0x06 => if i = 0 then some 256 else none
  | 0x10 => if i < 6 then some 32768 else none
  | 0x11 => if i < 6 then some 64 else none
  | 0x20 => if i < 7 then some 8192 else none
  | _ => none

/-- Every section and instance of R463. -/
def sectKeys : List Nat :=
  [1, 2, 3, 4, 5, 6].map (· * 256) ++ (List.range 6).map (0x1000 + ·) ++ (List.range 6).map (0x1100 + ·)
    ++ (List.range 7).map (0x2000 + ·)

/-! Fuses and variant -/

/-- A logical bit reads as 1 when either copy is programmed (R536). -/
def fuses (d : Director) : Nat := (d.boot.fuseA ||| d.boot.fuseB).toNat

/-- Ordering code of the fused variant (R5, R428). -/
def part (d : Director) : Nat := fld (fuses d) 1055 1040

def deviceId (d : Director) : Nat := fld (fuses d) 1151 1088

/-- Trees per arm of a variant (R7). -/
def treesPerArm (p : Nat) : Nat := if p = 0x3072 then 8 else if p = 0x1536 then 4 else 2

/-- The port of arm `a`, tree `t` (R7); none when absent. -/
def portOf (p a t : Nat) : Option Nat :=
  if t < treesPerArm p && a < 6 then some (treesPerArm p * a + t) else none

/-- Tree port `n` exists in the variant (R5, R8). VARIANT[31:16] decides it; which unit each bit of VARIANT[15:0] disables
is not stated, and the model gives those bits no effect (R536; DESIGN CHOICE, assumption 70). -/
def portHere (p n : Nat) : Bool := n < 6 * treesPerArm p || (48 ≤ n && n ≤ 51)

def ports (p : Nat) : List Nat := (List.range 52).filter (portHere p)

/-- The arm and tree of a cell-role port. -/
def armOfPort (p n : Nat) : Option (Nat × Nat) :=
  if n < 6 * treesPerArm p then some (n / treesPerArm p, n % treesPerArm p) else none

/-- A cell ID names a measurement node (R14). -/
def isNode (id : Nat) : Bool := 3072 ≤ id

def cellArm (id : Nat) : Nat := id / 512
def cellPos (id : Nat) : Nat := id % 512
def cellSlot (id : Nat) : Nat := if isNode id then (id - 3072) % 24 else id % 64

/-- The tree port of a cell ID (R7, R13, R14). -/
def cellPort (p id : Nat) : Option Nat :=
  if isNode id then (if id < 3168 then some (48 + (id - 3072) / 24) else none)
  else portOf p (id / 512) (id % 512 / 64)

/-- The cell ID of a slot of a port. -/
def cellOfSlot (p n slot : Nat) : Option Nat :=
  if 48 ≤ n then (if slot < 24 && n ≤ 51 then some (3072 + (n - 48) * 24 + slot) else none)
  else match armOfPort p n with
    | some (a, t) => if slot < 64 then some (a * 512 + t * 64 + slot) else none
    | none => none

/-! Topology (R543) -/

/-- Variant configured for a cell ID: 0 not configured, 1 half, 2 full, 3 node. -/
def cellVar (c : Cfg) (id : Nat) : Nat := parmN (topo c) 1 2 id 0

def configured (c : Cfg) (id : Nat) : Bool := cellVar c id != 0

/-- D_T of a tree port, in ticks (R40). -/
def treeDelay (c : Cfg) (n : Nat) : Nat :=
  match elemBytes (topo c) 1 n 8 with | some b => leAt b 0 2 | none => 1875

def asymRatio (c : Cfg) (n : Nat) : Int :=
  match elemBytes (topo c) 1 n 8 with | some b => signed 16 (leAt b 2 2) | none => 0

def asymFixed (c : Cfg) (n : Nat) : Int :=
  match elemBytes (topo c) 1 n 8 with | some b => signed 16 (leAt b 4 2) | none => 0

/-- Full scale of a measurement channel, node × 2 + CH; none without a CHANNEL entry. -/
def channelFs (c : Cfg) (ch : Nat) : Option F32 := (elemBytes (topo c) 3 ch 4).map fun b => BitVec.ofNat 32 (leNat b)

/-- Node `j` is set in ARM_NODES of the arm. -/
def armNode (c : Cfg) (a j : Nat) : Bool :=
  match elemBytes (topo c) 4 a 16 with | some b => bit (leNat (b.take 12)) j | none => false

/-- Configured power cells of an arm, as slot positions. -/
def armCells (c : Cfg) (a : Nat) : List Nat := (List.range 512).filter fun q => configured c (a * 512 + q)

/-- Slots of a port that the topology configures. -/
def portSlots (c : Cfg) (p n : Nat) : List Nat :=
  (List.range 64).filter fun s => match cellOfSlot p n s with | some id => configured c id | none => false

/-- A configured tree (R40). -/
def treeOn (c : Cfg) (p n : Nat) : Bool := portHere p n && !(portSlots c p n).isEmpty

/-- Measurement trees an arm reads (R40). -/
def armMeas (c : Cfg) (a : Nat) : List Nat :=
  [48, 49, 50, 51].filter fun n => (List.range 24).any fun s =>
    armNode c a ((n - 48) * 24 + s) && configured c (3072 + (n - 48) * 24 + s)

/-- Cell trees of an arm that carry configured cells. -/
def armTrees (c : Cfg) (p a : Nat) : List Nat :=
  (List.range 8).filterMap fun t => match portOf p a t with
    | some n => if treeOn c p n then some n else none
    | none => none

/-- Arms that use a tree port (R83, R367, R390). -/
def armsOfPort (c : Cfg) (p n : Nat) : List Nat :=
  if 48 ≤ n then (List.range 6).filter fun a => (armMeas c a).contains n
  else match armOfPort p n with | some (a, _) => [a] | none => []

/-! The cycle plan (R33, R37 to R44) -/

def planN (c : Cfg) : Nat := parm (planS c) 1 0 12500
def planSmp (c : Cfg) : Nat := parm (planS c) 2 0 0
def planW (c : Cfg) : Nat := parm (planS c) 3 0 625
def planC (c : Cfg) : Nat := parm (planS c) 4 0 7875
def planF (c : Cfg) : Nat := parm (planS c) 5 0 11500
def planM (c : Cfg) : Nat := parm (planS c) 6 0 16250
def planRep (c : Cfg) : Bool := parm (planS c) 7 0 1 = 1

def tRpt : Nat := 250
def tSlot : Nat := 112
def tSlotM : Nat := 320
def tRx : Nat := 80
def tMgmt : Nat := 1250
def tSort : Nat := 1875
def tAsm : Nat := 250
def tFrame : Nat := 1305
def tRepeat : Nat := 1375
def tGuard : Nat := 500
def tEdge : Nat := 125

/-- c − k (R38). -/
def ordOfs (c : Cfg) : Nat := if planM c < planN c then 0 else 1

/-- M_c (R38). -/
def mC (c : Cfg) : Nat := planM c - ordOfs c * planN c

/-- E1 of R44, from the start of the order cycle. -/
def e1 (c : Cfg) : Int := (planF c + tFrame : Int) - ordOfs c * planN c + ordOfs c

/-- J0 of R82. -/
def joinJ0 (c : Cfg) (n : Nat) : Nat := planW c + (if 48 ≤ n then 8930 else 8418)

/-- Condition J1 of R82. -/
def j1Holds (c : Cfg) (n : Nat) : Bool := joinJ0 c n + 2 * treeDelay c n + 160 ≤ planN c + planW c

/-! Arm parameters (R248, R283, R320) -/

def dimN (c : Cfg) (a : Nat) : Nat := parm (armS c a) 2 0 1
def dimM (c : Cfg) (a : Nat) : Nat := parm (armS c a) 3 0 1
def dimP (c : Cfg) (a : Nat) : Nat := parm (armS c a) 4 0 1
def dimR (c : Cfg) (a : Nat) : Nat := parm (armS c a) 5 0 0

/-- Element (i, j) of a matrix parameter with `cols` columns. -/
def matEl (c : Cfg) (a pid cols i j : Nat) : F32 := parmF (armS c a) pid (i * cols + j) 0

/-- Integrator states, ascending (INT_MASK). -/
def intStates (c : Cfg) (a : Nat) : List Nat := maskBits 24 (parm (armS c a) 17 0 0)

def bumpMask (c : Cfg) (a : Nat) : Nat := parm (armS c a) 20 0 0
def ySrc (c : Cfg) (a i : Nat) : Nat := parm (armS c a) 23 i 0
def yReq (c : Cfg) (a : Nat) : List Nat := maskBits 16 (parm (armS c a) 24 0 0)
def uArm (c : Cfg) (a : Nat) : Nat := parm (armS c a) 13 0 0
def fullBridge (c : Cfg) (a : Nat) : Bool :=
  parm (armS c a) 1 0 (if (armCells c a).any (fun q => cellVar c (a * 512 + q) = 2) then 1 else 0) = 1
def armDead (c : Cfg) (a : Nat) : Nat := parm (armS c a) 35 0 1250
def armMinPulse (c : Cfg) (a : Nat) : Nat := parm (armS c a) 36 0 625

/-- −3.0E38 and 3.0E38. -/
def f32Lo : F32 := 0xFF61B1E6
def f32Hi : F32 := 0x7F61B1E6

def leaseCycles (c : Cfg) (a : Nat) : Nat := parm (redS c a) 1 0 4
def quorum (c : Cfg) (a : Nat) : Nat := parm (redS c a) 2 0 ((armCells c a).length / 2 + 1)
def prefSide (c : Cfg) (a : Nat) : Nat := parm (redS c a) 3 0 0
def missMax (c : Cfg) (a : Nat) : Nat := parm (redS c a) 4 0 2

/-- w_max (R262). -/
def wMax (c : Cfg) (a : Nat) : Nat := planN c - 2 * armDead c a - 512

/-- Clocks of the ACE phases summed (R245). -/
def aceClocks (c : Cfg) (a : Nat) : Nat :=
  let n := dimN c a
  let m := dimM c a
  let p := dimP c a
  let r := dimR c a
  96 + ceilDiv p 8 * n + (3 * ceilDiv (armCells c a).length 8 + 32) + (n + r) + 64 + ceilDiv n 8 * (n + m + p) + 48 + 94

/-- T_ACE (R245). -/
def tAce (c : Cfg) (a : Nat) : Nat := 2 * aceClocks c a

/-! Cell parameters in the configuration in force for a cell (R464, R544) -/

/-- The CELL_PARAM instance and element of a cell. -/
def cellParamAt (id : Nat) : Nat × Nat := if isNode id then (6, id - 3072) else (id / 512, id % 512)

/-- Reset value of a cell parameter (R195, R242). -/
def cpReset (i : Nat) : Nat :=
  match i with
  | 0x03 => 2 | 0x04 => 256 | 0x05 => 125000 | 0x07 => 12500 | 0x09 => 625
  | 0x12 => 2 | 0x13 => 4 | 0x1A => 20 | 0x1C => 1250 | 0x1D => 125
  | 0x40 => 0xFC | 0x41 => 10 | 0x42 => 50 | 0x43 => 41943 | 0x45 => 115 | 0x46 => 80
  | 0x5C => 0x3F800000 | 0x5D => 0x3F800000 | 0x5E => 0x3F800000 | 0x5F => 0x3F800000
  | 0x63 => 0x447A0000 | 0x64 => 0x447A0000 | 0x70 => 3600 | 0x71 => 32
  | _ => 0

/-- The value the configuration gives a cell for parameter index `i` (R464, R544). -/
def cellCfg (c : Cfg) (id i : Nat) : Nat :=
  let a := cellArm id
  if i = 0x07 then planN c
  else if i = 0x08 then planSmp c
  else if i = 0x09 then planW c
  else if !isNode id && i = 0x06 then prefSide c a
  else if !isNode id && i = 0x10 then armDead c a
  else if !isNode id && i = 0x11 then armMinPulse c a
  else if !isNode id && i = 0x13 then leaseCycles c a
  else
    let (inst, e) := cellParamAt id
    let es := sect c 0x20 inst
    match es.find? (fun x => x.pid = i && x.elem != 0xFFFF && decide (x.elem ≤ e) && decide ((e - x.elem + 1) * 4 ≤ x.data.length)) with
    | some x => leNat (sub x.data ((e - x.elem) * 4) 4)
    | none => match es.find? (fun x => x.pid = i && x.elem = 0xFFFF) with
      | some x => leNat (x.data.take 4)
      | none => cpReset i

/-! Parameters of the director as a whole -/

def quarHold (c : Cfg) : Nat := parm (laneS c) 7 0 10000
def quarLimit (c : Cfg) : Nat := parm (laneS c) 8 0 3
def arbBudget (c : Cfg) : Nat := parm (powS c) 1 0 160
def arbBlocks (c : Cfg) : Nat := parm (powS c) 2 0 0x3F
def calInterval (c : Cfg) : Nat := parm (powS c) 4 0 600

def recRed (c : Cfg) : Nat := parm (recS c) 2 0 1
def recTrees (c : Cfg) (p : Nat) : Nat := parmN (recS c) 8 3 0 (maskOf (ports p))
def recAces (c : Cfg) : Nat := parm (recS c) 4 0 0x3F
def segCount (c : Cfg) : Nat := parm (recS c) 8 0 1
def segBase (c : Cfg) (i : Nat) : Nat := parm (recS c) 9 i 0
def segLenMiB (c : Cfg) (i : Nat) : Nat := parm (recS c) 10 i 4096
def tqDecim (c : Cfg) : Nat := parm (recS c) 26 0 1023

/-- This director is the follower (R344, R356). -/
def sideNum (d : Director) : Nat := match d.boot.side with | .x => 0 | .y => 1
def follower (d : Director) : Bool := parm (timeS (cfg d)) 1 0 0 != sideNum d

/-- Bytes of a record of one stored interval (R399). -/
def recordSize (c : Cfg) (p : Nat) : Nat :=
  let red := recRed c ≥ 2
  let tr := recTrees c p
  64 + (maskBits 6 (recAces c)).length * (if red then 512 else 128)
    + ([48, 49, 50, 51].filter (bit tr ·)).length * (if red then 768 else 1280)
    + ((List.range 48).filter (bit tr ·)).length * 1024

end Sys2Proof.Machine
end

