-- ==== Sys2Proof/Machine/DirOps.lean ====
section
/-! DEFINITION. Shared operations of the director: its arms, ports, cells and mailboxes, converter
time and TIME96 (R330 to R332), events and their limits (R443 to R446, R645), mailbox answers
(R430, R435), management records (R127 to R131), the flash log (R539). -/

namespace Sys2Proof.Machine

/-! Access -/

def arm (d : Director) (a : Nat) : Arm := tget {} a d.arms
def modArm (d : Director) (a : Nat) (f : Arm → Arm) : Director := { d with arms := tmod {} a f d.arms }
def port (d : Director) (n : Nat) : Port := tget {} n d.ports
def modPort (d : Director) (n : Nat) (f : Port → Port) : Director := { d with ports := tmod {} n f d.ports }
def cellRec (d : Director) (id : Nat) : CellRec := tget {} id d.cells
def modRec (d : Director) (id : Nat) (f : CellRec → CellRec) : Director := { d with cells := tmod {} id f d.cells }
def modCellCnt (d : Director) (id : Nat) (f : CellCounters → CellCounters) : Director :=
  modRec d id fun c => { c with cnt := f c.cnt }
def mbx (d : Director) (n : Nat) : Mailbox := tget {} n d.mbs
def modMbx (d : Director) (n : Nat) (f : Mailbox → Mailbox) : Director := { d with mbs := tmod {} n f d.mbs }
def modTime (d : Director) (f : TimeState → TimeState) : Director := { d with time := f d.time }
def modCntA (d : Director) (a : Nat) (f : ArmCounters → ArmCounters) : Director :=
  modArm d a fun x => { x with cnt := f x.cnt }
def treeKey (d : Director) (n : Nat) : TreeKey := tget {} n d.sec.trees
def lane (d : Director) (n : Nat) : Lane := tget {} n d.sk.lanes
def modLane (d : Director) (n : Nat) (f : Lane → Lane) : Director :=
  { d with sk := { d.sk with lanes := tmod {} n f d.sk.lanes } }
def incTab (k : Nat) (t : Table Word) : Table Word := tmod 0 k satInc t

def inRun (d : Director) : Bool := d.boot.state = .run
/-- The director works: it runs in RUN, is not frozen, and its clocks run (R361). -/
def works (d : Director) : Bool := inRun d && !d.frz.frozen && d.time.pllLock
/-- The director serves the host fully: RUN or SAFE (R534). -/
def hostUp (d : Director) : Bool := d.boot.state = .run || d.boot.state = .safe
/-- The firmware serves jobs, mailboxes and the ring. -/
def serves (d : Director) : Bool := hostUp d && !d.frz.frozen && (d.time.pllLock || d.boot.state = .safe)
def cyc (d : Director) : Cycle := d.time.cycle
def addCyc (c : Cycle) (n : Nat) : Cycle := c + BitVec.ofNat 32 n
def send (d : Director) (t : Tx) : Director := { d with tx := d.tx ++ [t] }
def putMem (d : Director) (w : MemWrite) : Director := { d with writes := w :: d.writes }

/-! Converter time -/

/-- One raw tick of converter time at a correction of 0, in units of 2^-48 / 5 ns. -/
def tickUnit : Int := 4 * 2 ^ 48

/-- What one raw tick adds at correction c (2^-32 ppb): 0.8 ns and the term truncated to 2^-48 ns (R332). -/
def tickInc (c : Int) : Int := tickUnit + 5 * (c * 4 * 2 ^ 48 / (5 * 10 ^ 9 * 2 ^ 32))

/-- Converter time `tick` raw ticks after the current start tick. -/
def timeAt (d : Director) (tick : Int) : Int := d.time.now + tick * tickInc d.time.c

/-- Units to 2^-16 ns, truncated (R332). -/
def toFrac (t : Int) : Int := t / (5 * 2 ^ 32)
def ofFrac (f : Int) : Int := f * (5 * 2 ^ 32)
def nsFrac : Int := 65536
def secFrac : Int := 65536 * 10 ^ 9
def secUnit : Int := 5 * 2 ^ 48 * 10 ^ 9

/-- TIME96 of a converter time (R331). -/
def time96 (t : Int) : BitVec 96 :=
  let f := toFrac t
  let sec := f / secFrac
  let r := f % secFrac
  BitVec.ofNat 96 ((unsigned 48 sec) * 2 ^ 48 + (r / nsFrac).toNat * 65536 + (r % nsFrac).toNat)

/-- Converter time of a TIME96. -/
def ofTime96 (b : Nat) : Int := ofFrac ((fld b 95 48 : Int) * secFrac + (fld b 47 16 : Int) * nsFrac + fld b 15 0)

def time96Le (t : Int) : List Byte := toLE 12 (time96 t).toNat

/-- TIME96 at which conditions of the running command are decided (DESIGN CHOICE, assumption 13). -/
def nowStamp (d : Director) : BitVec 96 := time96 d.time.now

/-- The frequency limit in ppb, as numerator over N (R333): min(FREQ_MAX, 7.5e8 / N), in 2^-32 ppb. -/
def freqLim (d : Director) : Int :=
  let fm : Int := parm (timeS (cfg d)) 9 0 200000 * 2 ^ 32
  if d.cfg.baked then min fm (750000000 * 2 ^ 32 / (planN (cfg d) : Int)) else fm

/-! Events -/

/-- Sources that never fire (R447, R583, R613, R8). -/
def sourceLive (d : Director) (s : Nat) : Bool :=
  if s ≤ 51 then portHere (part d) s
  else !(natIn s 85 95) && !(natIn s 103 127) && !(natIn s 198 207) && !(natIn s 213 255)
where natIn (v lo hi : Nat) : Bool := lo ≤ v && v ≤ hi

/-- Decide an event (R445, R446): it waits for its ring entry. -/
def raise (d : Director) (source detail : Nat) (data : List Byte) : Director :=
  if sourceLive d source && d.ring.enable.getLsbD source then
    { d with ring := { d.ring with decided := d.ring.decided ++ [{ source := source, detail := detail, time := nowStamp d, data := padTo 12 data }] } }
  else d

/-- A limited event (R645): fires when 1,000 cycle starts have passed since the element's last. -/
def raiseLim (d : Director) (key source detail : Nat) (data : List Byte) : Director :=
  let go := match (d.ring.lastFired.find? (·.1 = key)) with
    | some (_, t) => decide (t + 1000 ≤ d.time.starts)
    | none => true
  if go then
    raise { d with ring := { d.ring with lastFired := tset key d.time.starts d.ring.lastFired } } source detail data
  else d

/-- The key of a counter element's limit: source, detail and element. -/
def limKey (source detail el : Nat) : Nat := (source * 256 + detail) * 4096 + el

def b1 (n : Nat) : List Byte := toLE 1 n
def b2 (n : Nat) : List Byte := toLE 2 n
def b4 (n : Nat) : List Byte := toLE 4 n
def b4z (i : Int) : List Byte := toLE 4 (unsigned 32 i)
def b8z (i : Int) : List Byte := toLE 8 (unsigned 64 i)

/-! Mailboxes -/

/-- Vector of a mailbox's completion (R449, R531). -/
def mbxVector (d : Director) (n : Nat) : Nat := tget 0 (256 + n) d.ring.vectors
def srcVector (d : Director) (s : Nat) : Nat := tget (s / 8) s d.ring.vectors

/-- The condition of a vector has occurred in the running command (R449). -/
def trigVector (d : Director) (v : Nat) : Director :=
  { d with host := { d.host with trig := d.host.trig ||| BitVec.twoPow 32 v } }

/-- The response to a command (R435). -/
def rspOf (c : Cmd) (status : Nat) (payload : List Byte) : Rsp :=
  { opcode := c.opcode, status := BitVec.ofNat 8 status, tag := c.tag, sequence := c.sequence, payload := payload }

/-- A mailbox that holds a response is DONE; it is kept for a repeated command (R430, R436). -/
def doneWith (r : Rsp) (m : Mailbox) : Mailbox := { m with state := .done, rsp := some r, last := some r, cmd := none }

/-- Write a response (R430, R435, R436): DONE, the completion vector, and source 209 for AUTH (R601). -/
def respond (d : Director) (n : Nat) (status : Nat) (payload : List Byte) : Director :=
  match (mbx d n).cmd with
  | none => d
  | some c =>
    let d := trigVector (modMbx d n (doneWith (rspOf c status payload))) (mbxVector d n)
    if status = 0x06 then raise d 209 0x01 (b2 c.opcode.toNat) else d

def stOK : Nat := 0
def stBusy : Nat := 1
def stLength : Nat := 2
def stOpcode : Nat := 3
def stState : Nat := 4
def stRange : Nat := 5
def stAuth : Nat := 6
def stLate : Nat := 7
def stNoAuth : Nat := 8
def stBump : Nat := 9
def stResource : Nat := 10
def stTimeout : Nat := 11

def setWait (d : Director) (n : Nat) (w : Wait) : Director :=
  modMbx d n fun m => { m with cmd := m.cmd.map fun c => { c with wait := w } }

def modCmd (d : Director) (n : Nat) (f : Cmd → Cmd) : Director :=
  modMbx d n fun m => { m with cmd := m.cmd.map f }

/-- Decide the outcome of a class A command; COMMAND_APPLY_RESPONSE writes it (R482). -/
def decide_ (d : Director) (mb : Option Nat) (status : Nat) (payload : List Byte) : Director :=
  match mb with
  | none => d
  | some n => modCmd d n fun c => { c with outcome := some (BitVec.ofNat 8 status, payload) }

/-- Run a command's row: it acts while the firmware serves, when its mailbox is ACTIVE with that opcode
and its job has not run. -/
def onCmd (s : State) (mb op : Nat) (f : Director → Cmd → Director) : Host.Outcome State Fault Refusal :=
  ifUnit (mb < 4) (onDir s fun d =>
    match (mbx d mb).cmd with
    | some c => if serves d && (mbx d mb).state = .active && c.opcode.toNat = op && c.wait = .job then f d c else d
    | none => d)

/-- Answer with a status and no payload. -/
def refuse (d : Director) (mb status : Nat) : Director := respond d mb status []

/-- First failing check of a list (R436); each check is its failure and its status. -/
def firstFail : List (Bool × Nat) → Option Nat
  | [] => none
  | (true, st) :: _ => some st
  | (false, _) :: r => firstFail r

/-- Act unless a check of R436 fails; the first that fails gives the status. -/
def guarded (d : Director) (mb : Nat) (l : List (Bool × Nat)) (f : Director → Director) : Director :=
  match firstFail l with
  | some st => refuse d mb st
  | none => f d

/-- APPLY checks of R456: STATE before the first bake, LATE, RANGE. -/
def applyChecks (d : Director) (apply : Nat) : List (Bool × Nat) :=
  let x := cycleDiff (BitVec.ofNat 32 apply) (cyc d)
  [(!d.cfg.baked, stState), (x < 2, stLate), (65536 < x, stRange)]

/-- A finite binary32 field. -/
def finiteAt (p : List Byte) (o : Nat) : Bool := B32.finite (BitVec.ofNat 32 (leAt p o 4))

def f32At (p : List Byte) (o : Nat) : F32 := BitVec.ofNat 32 (leAt p o 4)
def f32sAt (p : List Byte) (o n : Nat) : List F32 := (List.range n).map fun i => f32At p (o + 4 * i)
def f32Le (l : List F32) : List Byte := l.flatMap fun x => toLE 4 x.toNat
def f32Be (l : List F32) : List Byte := l.flatMap fun x => toBE 4 x.toNat

/-! Modes and roles -/

def modeCode : ArmMode → Nat
  | .off => 0 | .precharge => 1 | .manual => 2 | .auto => 3 | .hold => 4 | .blocked => 5
def modeOf : Nat → ArmMode
  | 0 => .off | 1 => .precharge | 2 => .manual | 3 => .auto | 4 => .hold | _ => .blocked
def roleCode : Role → Nat | .isolated => 0 | .cold => 1 | .shadow => 2 | .authority => 3
def roleOf : Nat → Role | 0 => .isolated | 1 => .cold | 2 => .shadow | _ => .authority
/-- MANUAL, AUTO or HOLD. -/
def operating (m : ArmMode) : Bool := m = .manual || m = .auto || m = .hold
def offPre (m : ArmMode) : Bool := m = .off || m = .precharge
def allArms (d : Director) (f : ArmMode → Bool) : Bool := (List.range 6).all fun a => f (arm d a).mode
def holderCode (d : Director) : Nat := match d.boot.side with | .x => 1 | .y => 2

/-- HOLDER field of a LEASE byte (R136). -/
def leaseHolder (l : BitVec 8) : Nat := fld l.toNat 7 6

/-! Management records (R127 to R131) -/

def pushMgmt (d : Director) (n : Nat) (r : MgmtRec) : Director :=
  modPort d n fun p => { p with mgmt := p.mgmt ++ [r] }

/-- Queue a record for a cell's slot. -/
def mgmtTo (d : Director) (id mtype : Nat) (body : List Byte) (r : MgmtRec → MgmtRec) : Director :=
  match cellPort (part d) id with
  | none => d
  | some n => pushMgmt d n (r { mtype := mtype, dest := cellSlot id, body := body, cell := some id })

def secured (id : Nat) (r : MgmtRec) : MgmtRec := { r with secure := some id }

/-- Withdraw a cell's slot in the next two frames (R93, R647). -/
def withdrawSlot (d : Director) (id cause : Nat) : Director :=
  mgmtTo d id 0x05 (zeros 4 ++ b1 cause ++ zeros 3) fun r => { secured id r with copies := 2, cycAt := [0] }

/-! Segments of flash (R538, R539) -/

def flashSize (d : Director) : Nat := d.boot.flashMiB * 1048576
def slotSize (d : Director) : Nat := (flashSize d - 1048576) / 2
def slotBase (d : Director) (i : Nat) : Nat := if i = 0 then 0 else slotSize d
def logBase (d : Director) : Nat := flashSize d - 1048576

/-- Append a log entry (R539); reaching a 64 KiB sector erases it first. -/
def logAppend (d : Director) (kind slot result version : Nat) (data : List Byte) : Director :=
  let seq := d.boot.logSeq + 1
  let body := b4 seq.toNat ++ b4 d.boot.boots.toNat ++ b1 kind ++ b1 slot ++ b1 result ++ [0] ++ b4 version ++ padTo 12 data
  let e := body ++ b4 (crc32c body)
  let pos := d.boot.logPos
  let d := if pos % 65536 = 0 then
      putMem d { dest := .flash, addr := logBase d + pos, data := List.replicate 65536 0xFF } else d
  let d := putMem d { dest := .flash, addr := logBase d + pos, data := e }
  { d with boot := { d.boot with logSeq := seq, logPos := (pos + 32) % 1048576 } }

/-! Skeund frames out (R369 to R372) -/

/-- Queue a control frame (BLOCK and payload), highest priority: lane status first (R371). -/
def queueControl (d : Director) (block : Nat) (payload : List Byte) : Director :=
  let q := d.sk.queue
  { d with sk := { d.sk with queue := if block = 0x23 then (block, payload) :: q else q ++ [(block, payload)] } }

/-- Logical lanes of the width in use, ascending. -/
def lanesInUse (d : Director) : List Nat := (List.range d.sk.width).map (d.sk.base + ·)

/-- Physical lane of a logical lane under the lane map (R380). -/
def physLane (d : Director) (n : Nat) : Nat := if d.sk.reversed then 3 - n else n

def widthCode (w : Nat) : Nat := if w = 4 then 0b100 else if w = 2 then 0b010 else 0b001

/-- The link key for a frame of cycle `c` (R599). -/
def skKeyAt (d : Director) (c : Cycle) : Option Key :=
  match d.sec.skNext with
  | some (k, sw) => if 0 ≤ cycleDiff c sw then some k else d.sec.skKey
  | none => if d.sec.skPrev.isSome && cycleDiff c d.sec.skSinceCycle < 0 then d.sec.skPrev else d.sec.skKey

/-- IV of a mirror or control frame (R369). -/
def skIv (mirror : Bool) (side lg fseq : Nat) (c : Cycle) : List Byte :=
  [if mirror then 0x21 else 0x22, BitVec.ofNat 8 side, BitVec.ofNat 8 lg, BitVec.ofNat 8 fseq] ++ toBE 4 c.toNat ++ zeros 4

/-- Tag of a mirror or control frame over its header and payload (R369). -/
def skTag (k : Key) (iv body : List Byte) : Nat := (gmac k iv body).toNat / 2 ^ 64

/-- A mirror or control frame on a logical lane: header, payload, tag, CRC-32C (R369). -/
def skFrame (d : Director) (mirror : Bool) (lg : Nat) (cycle : Cycle) (block : Nat) (payload : List Byte) : List Byte :=
  let fseq := (lane d (physLane d lg)).fseq
  let hdr := toBE 4 cycle.toNat ++ b1 fseq ++ b1 block ++ toBE 2 (widthCode d.sk.width * 8192 + payload.length)
  let tag := match skKeyAt d cycle with
    | some k => toBE 8 (skTag k (skIv mirror (sideNum d) lg fseq cycle) (hdr ++ payload))
    | none => zeros 8
  let x := hdr ++ payload ++ tag
  x ++ toBE 4 (crc32c x)

def bumpFseq (d : Director) (lg : Nat) : Director :=
  modLane d (physLane d lg) fun l => { l with fseq := l.fseq + 1 }

/-- Seed of a mirror or control frame's body (R370). -/
def skSeed (cycle : Cycle) (lg : Nat) : BitVec 31 := seedOf cycle (104 + lg)

/-- Line bits of a Skeund frame from its delimiter on (R368, R370). -/
def skLine (code : BitVec 32) (seed : BitVec 31) (bytes : List Byte) : List Bool :=
  delimiter code ++ stuff (typeRun code) (scramble seed (bytesBits bytes))

/-- Idle fill of a physical lane after a frame of these bytes (R370). -/
def skFill (p : Nat) (code : BitVec 32) (seed : BitVec 31) (bytes : List Byte) : Tx :=
  .laneFill p (scrAfter (8 * bytes.length) seed) (runAfter (typeRun code) (scramble seed (bytesBits bytes)))

/-- A frame leaves on a logical lane, and idle fill follows it (R368 to R372). -/
def sendSk (d : Director) (lg : Nat) (code : BitVec 32) (seed : BitVec 31) (bytes : List Byte) : Director :=
  send (send d (.skeund lg code bytes (skLine code seed bytes))) (skFill (physLane d lg) code seed bytes)

/-- The Skeund transmitters start idle fill (R548), or go dark (R361, R533, R608). -/
def lightLanes (d : Director) : Director :=
  if d.sk.lit then d else
  [0, 1, 2, 3].foldl (fun d p => send d (.laneFill p fixedSeed (false, 0))) { d with sk := { d.sk with lit := true } }
def darkLanes (d : Director) : Director := if d.sk.lit then send { d with sk := { d.sk with lit := false } } .lanesDark else d

/-- Type code of a mirror frame (R368). -/
def tcMirror : BitVec 32 := 0x5AA53CC3

/-- Bits that stuffing adds to a mirror frame's body (R73, R370). -/
def stuffCount (lg : Nat) (cycle : Cycle) (body : List Byte) : Nat :=
  let xs := scramble (skSeed cycle lg) (bytesBits body)
  (stuff (typeRun tcMirror) xs).length - xs.length

/-- Account a mirror frame's stuffed bits; a step that passes the reserve of 656 is counted once (R374). -/
def countStuff (d : Director) (lg block n : Nat) : Director :=
  let p := physLane d lg
  let old := if block = 0x10 then 0 else (lane d p).stuffed
  let d := modLane d p fun l => { l with stuffed := old + n }
  if old ≤ 656 && 656 < old + n then
    let d := modLane d p fun l => { l with stuffOver := satInc l.stuffOver }
    raiseLim d (limKey (52 + p) 5 0) (52 + p) 0x05 (b4 (lane d p).stuffOver.toNat)
  else d

/-- Send one block of step `k` split over the lanes in use, word i on lane i mod width (R372). -/
def sendBlock (d : Director) (k : Cycle) (block : Nat) (bytes : List Byte) : Director :=
  if !d.sk.active || d.sk.width = 0 || d.sec.skKey.isNone then d else
  let words := (List.range (bytes.length / 4)).map fun i => sub bytes (4 * i) 4
  (List.range d.sk.width).foldl (fun d j =>
    let lg := d.sk.base + j
    let mine := (withIdx words).filterMap fun (i, w) => if i % d.sk.width = j then some w else none
    let f := skFrame d true lg k block mine.flatten
    countStuff (bumpFseq (sendSk d lg tcMirror (skSeed k lg) f) lg) lg block (stuffCount lg k f)) d

/-- A control frame that the link may carry: without a key, only key offers and answers (R599). -/
def mayCarry (d : Director) (x : Nat × List Byte) : Bool :=
  d.sec.skKey.isSome || (x.1 = 0x20 && (byteAt x.2 0 = 1 || byteAt x.2 0 = 2))

/-- Send the first queued control frame on the lowest lane in use (R371): one per command that calls it. -/
def drainControl (d : Director) : Director :=
  match lanesInUse d, d.sk.queue.find? (mayCarry d) with
  | lg :: _, some (b, p) =>
    if !d.sk.active || 254 < (lane d (physLane d lg)).fseq then d else
    let f := skFrame d false lg (cyc d) b p
    bumpFseq (sendSk { d with sk := { d.sk with queue := d.sk.queue.erase (b, p) } } lg 0xA55AC33C (skSeed (cyc d) lg) f) lg
  | _, _ => d

/-- Forward an arm command to the twin (R316): the firmware's own form, here the opcode, the FORCE flag and the payload (DESIGN CHOICE, assumption 22). -/
def forward (d : Director) (c : Cmd) : Director :=
  drainControl (queueControl d 0x20 (b1 0x80 ++ b1 (fld c.flags.toNat 0 0) ++ b2 c.opcode.toNat ++ padTo (ceilDiv c.payload.length 4 * 4) c.payload))

/-! Blocking an arm (R58, R61, R265) -/

/-- The next 64-bit boundary at or after tick `t`, counted from the start of the first of these cycles: every
16 ticks from each start tick, the last interval of a cycle ending at the next start tick (R58). -/
def nextBoundary : List Nat → Nat → Nat
  | [], t => ceilDiv t 16 * 16
  | l :: r, t =>
    if ceilDiv t 16 * 16 < l then ceilDiv t 16 * 16 else if t ≤ l then l else l + nextBoundary r (t - l)

/-- Lengths of the present and the next cycle; none before cycle numbers run. -/
def cycleLens (d : Director) : List Nat := if d.time.len = 0 then [] else [d.time.len, d.time.lenNext]

/-- Departure tick of an urgent frame ready at `t`, from the start of the present cycle (R58). -/
def boundary16 (d : Director) (t : Nat) : Nat := nextBoundary (cycleLens d) t

/-- The cycle in which a tick counted from the start of the present cycle falls. -/
def cycleOfTick (d : Director) (t : Nat) : Cycle :=
  cyc d + (if d.time.len = 0 || t < d.time.len then 0 else if t < d.time.len + d.time.lenNext then 1 else 2)

/-- Phase and tree key in force for a cycle (R118, R597). -/
def keyFor (k : TreeKey) (c : Cycle) : Bool × Key := match k.next with
  | some (key, fr) => if cycleDiff c fr ≥ 0 then (!k.phase, key) else (k.phase, k.key)
  | none => (k.phase, k.key)

/-- The 31 body bits of an urgent block frame that departs in cycle `c` (R147, R148). -/
def urgentBody (d : Director) (n : Nat) (c : Cycle) : List Bool :=
  let id := sideNum d * 128 + n
  let c7 := fld c.toNat 6 0
  let iv := [0x03, BitVec.ofNat 8 id, 0, 0] ++ toBE 4 c.toNat ++ zeros 4
  let tag := fld (gmac (keyFor (treeKey d n) c).2 iv [BitVec.ofNat 8 id, BitVec.ofNat 8 c7]).toNat 127 104
  scramble fixedSeed (natBits 31 (c7 * 2 ^ 24 + tag))

/-- Line bits of an urgent block frame that departs at a tick counted from the start of the present cycle. -/
def urgentLine (d : Director) (n : Nat) (t : Nat) : List Bool :=
  delimiter tcUrgent ++ stuff (typeRun tcUrgent) (urgentBody d n (cycleOfTick d t))

/-- The polarity of a tree's line (LANE parameter 1). -/
def linePolarity (d : Director) (n : Nat) (bits : List Bool) : List Bool :=
  if parm (laneS (cfg d)) 1 n 0 = 1 then bits.map (!·) else bits

/-- A line transmission leaves a tree port, and idle fill follows it until the next delimiter (R76). -/
def sendLine (d : Director) (n : Nat) (x : Tx) (q : BitVec 31) (run : Bool × Nat) : Director :=
  modPort (send (send d x) (.fill n q run)) n fun p => { p with stream := some (q, run) }

/-- The stream of a tree port starts, or starts again: idle fill under the seed 0x5555_5555 (R68, R76). -/
def startStream (d : Director) (n : Nat) : Director :=
  modPort (send d (.fill n fixedSeed (false, 0))) n fun p => { p with stream := some (fixedSeed, false, 0) }

/-- A tree port goes dark (R68). -/
def darken (d : Director) (n : Nat) : Director :=
  if (port d n).stream.isNone then d else modPort (send d (.dark n)) n fun p => { p with stream := none, frame := none }

/-- The port carries its Xousk stream (R68). -/
def streaming (d : Director) (n : Nat) : Bool := works d && (port d n).stream.isSome

/-- The trees may carry their streams: from the root PLL's lock on in RELEASED and RUN, but for the silences of R362
and R550 (R68, R533). -/
def treesLit (d : Director) : Bool :=
  (d.boot.state = .released || inRun d) && !d.frz.frozen && d.time.pllLock && !d.time.treesOff && d.time.silentTo.isNone

/-- Start the stream of every tree port that is dark and may carry one (R68). -/
def lightTrees (d : Director) : Director :=
  ((ports (part d)).filter fun n => treesLit d && (port d n).stream.isNone && !(port d n).prbs.testMode).foldl startStream d

/-- Every tree port goes dark (R68, R361, R533, R550, R608). -/
def darkTrees (d : Director) : Director := (d.ports.map (·.1)).foldl darken d

/-- The record of a cell whose link is back in LISTEN (R123). -/
def listenRec (r : CellRec) : CellRec :=
  { r with
    link := if r.link = .quarantined then r.link else .listen, granted := none, withdrawn := none, pendOfs := none, key := none
    keyConfirmed := false, keyedFrom := none, cfgStep := 0, reading := none, sealed := false, diagMode := 0
    wanted := [], staging := [], confirmed := [] }

/-- What waits on a tree port that loses its cells is dropped. -/
def quietPort (p : Port) : Port :=
  { p with frame := none, exchange := none, mgmt := [], subs := [], joinOpen := none, built := none }

/-! Order records (R112, R117) -/

/-- A record's fields before CRC8 (R112). -/
structure Rec where
  cmd : Nat
  launch : Nat := 0
  duty : Nat := 0
  seq : Nat := 0
  flags : Nat := 0
  type : Option Nat := none
  deriving DecidableEq, Repr

def nopRec : Rec := { cmd := 15 }

/-- The eight bytes of a record with its CRC8 (R112, R117). -/
def recBytes (r : Rec) : List Byte :=
  let hi := r.cmd * 2 ^ 52 + r.launch * 2 ^ 32 + r.duty * 2 ^ 16 + r.seq * 256 + r.flags
  toBE 7 hi ++ [BitVec.ofNat 8 (crc8 (natBits 56 hi))]

/-- A record read back from its bytes. -/
def recOf (bs : List Byte) : Rec :=
  let w := beNat bs
  { cmd := fld w 63 60, launch := fld w 59 40, duty := fld w 39 24, seq := fld w 23 16, flags := fld w 15 8 }

/-- Change what the cells of a port are noted to have been sent for an order cycle (R49, R258). -/
def resent (d : Director) (n : Nat) (oc : Cycle) (f : SentRec → SentRec) : Director :=
  ((portSlots (cfg d) (part d) n).filterMap (cellOfSlot (part d) n)).foldl (fun d id =>
    modRec d id fun r => { r with sent := r.sent.map fun s => if s.cycle = oc then f s else s }) d

/-- The record of a later frame of a blocked arm: BLOCK, but a NOP stays one (R58, R111). -/
def blockRec (bs : List Byte) : List Byte :=
  let r := recOf bs
  if r.cmd = 15 then bs else recBytes { r with cmd := 4, duty := 0, flags := r.flags &&& 0xE0 }

/-- A frame that has been assembled and not launched when its arm blocks carries BLOCK (R58). -/
def blockFrame (f : OrderFrame) : OrderFrame :=
  let w := beAt f.body 4 12
  let w := if bit w 84 then w else w + 2 ^ 84
  { f with body := f.body.take 4 ++ toBE 12 w ++ (List.range 64).flatMap (fun i => blockRec (sub f.body (16 + 8 * i) 8)) ++ f.body.drop 528 }

/-- Tick of a frame's first delimiter bit, from the start of the present cycle. -/
def frameTick (d : Director) (f : OrderFrame) : Int :=
  f.depart / 32 + (if f.cycle = cyc d then 0 else if f.cycle = cyc d + 1 then (d.time.len : Int) else -(d.time.lenPrev : Int))

/-- An urgent block frame that departs at one of these ticks interrupts the frame's copy: the two share the line. -/
def interrupted (d : Director) (f : OrderFrame) (ts : List Nat) : Bool :=
  let meets (at_ : Int) : Bool := ts.any fun t => decide (at_ < (t : Int) + 24) && decide ((t : Int) < at_ + f.ticks)
  meets (frameTick d f) || (f.first && planRep (cfg d) && meets (frameTick d f + tRepeat))

/-- Send the three urgent block frames of a port (R58). A frame that one of them interrupts is abandoned; one that
waits for its launch carries BLOCK (DEDUCED, assumption 81). -/
def urgentPort (d : Director) (n : Nat) (tick : Nat) : Director :=
  let t0 := boundary16 d (tick + 40)
  let ts := [t0, boundary16 d (t0 + 250), boundary16 d (t0 + 500)]
  let d := ts.foldl (fun d t =>
    let body := urgentBody d n (cycleOfTick d t)
    sendLine d n (.urgent n (linePolarity d n (urgentLine d n t)) t) (scrAfter 31 fixedSeed) (runAfter (typeRun tcUrgent) body)) d
  let d := match (port d n).frame with
    | some f =>
      if interrupted d f ts then modPort d n fun p => { p with frame := none }
      else if f.first then d
      else resent (modPort d n fun p => { p with frame := some (blockFrame f) }) n f.cycle fun s =>
        if s.cmd = 15 then s else { s with cmd := 4, duty := 0, flags := s.flags &&& 0xE0 }
    | none => d
  { d with rcd := { d.rcd with sawUrgent := true } }

/-- Urgent block frames on every cell-role port of the arms that carries its stream (R58, R63, R68). -/
def urgentArms (d : Director) (as : List Nat) (tick : Nat) : Director :=
  ((ports (part d)).filter fun n => match armOfPort (part d) n with | some (a, _) => as.contains a && streaming d n | none => false).foldl
    (fun d n => urgentPort d n tick) d

/-- The MODE_CHANGE event (R267, R279): old mode, new mode, cause. -/
def modeEvent (d : Director) (a : Nat) (old new : ArmMode) (cause : Nat) : Director :=
  raise d (56 + a) 0x0B (b1 (modeCode old) ++ b1 (modeCode new) ++ b1 cause)

/-- End an injection with INJECT_END and the steps injected (R257, R277). -/
def endInjection (d : Director) (a : Nat) : Director :=
  match (arm d a).inj with
  | none => d
  | some i => raise (modArm d a fun x => { x with inj := none }) (56 + a) 0x0C (b4 (i.j - i.lost))

/-- Any mode change ends the ramp and the injection (R272, R277). -/
def changeMode (d : Director) (a : Nat) (m : ArmMode) (cause : Nat) : Director :=
  let old := (arm d a).mode
  if old = m then d else
  let d := endInjection d a
  let d := modArm d a fun x => { x with mode := m, ramp := none }
  modeEvent d a old m cause

/-- Enter BLOCKED: loss counts, ramp and injection cleared (R265). Cause 1 BLOCKED, 2 NUMERIC, 3 fallback. -/
def enterBlocked (d : Director) (a cause : Nat) : Director :=
  let d := changeMode d a .blocked cause
  modArm d a fun x => { x with outs := x.outs.map fun (i, o) => (i, { o with loss := 0 }) }

/-- A BLOCK request of an arm (R61) at a tick of the present cycle. -/
def blockRequest (d : Director) (a cause tick : Nat) : Director := urgentArms (enterBlocked d a cause) [a] tick

/-- BLOCK_OUT: asserted while any arm is BLOCKED, and outside RUN as R533 and R608 state. -/
def blockOut (d : Director) : Bool :=
  d.pins.resetN && (!inRun d || d.frz.frozen || (List.range 6).any fun a => (arm d a).mode = .blocked)

/-- The arms in a BLOCK_IN pin's mask (R56). -/
def blockMask (d : Director) (pin : Nat) : List Nat := maskBits 6 (tget 0x3F pin d.pins.blockMask)

end Sys2Proof.Machine
end

