-- ==== Sys2Proof/Machine/Ace.lean ====
section
/-! DEFINITION. The arm control engine: one ACE step (R243 to R279), with roles (R321 to R326),
availability (R280 to R282), the calibration snapshot (R297) and the mirror (R310, R312). -/

namespace Sys2Proof.Machine

/-! Arithmetic of R244: binary32, subnormals to zero -/

def fz (x : F32) : F32 := B32.ftz x
def fAdd (a b : F32) : F32 := fz (B32.add (fz a) (fz b))
def fSub (a b : F32) : F32 := fz (B32.sub (fz a) (fz b))
def fMul (a b : F32) : F32 := fz (B32.mul (fz a) (fz b))
def fDiv (a b : F32) : F32 := fz (B32.div (fz a) (fz b))
def fFma (a b c : F32) : F32 := fz (B32.fma (fz a) (fz b) (fz c))
def f32n (n : Nat) : F32 := B32.ofInt n
/-- Comparisons of R244: their operands are flushed too. -/
def fLt (a b : F32) : Bool := B32.lt (fz a) (fz b)
def fLe (a b : F32) : Bool := B32.le (fz a) (fz b)
def fZero (a : F32) : Bool := fz a &&& 0x7FFFFFFF#32 = 0

/-- One row of a matrix-vector product, accumulated in ascending column index (R244). -/
def rowAcc (acc : F32) : List F32 → List F32 → F32
  | m :: ms, x :: xs => rowAcc (fFma m x acc) ms xs
  | _, _ => acc

def matRow (c : Cfg) (a pid cols i : Nat) : List F32 := (List.range cols).map fun j => matEl c a pid cols i j
def vecEl (l : List F32) (i : Nat) : F32 := l.getD i 0
/-- A vector as it stands, filled with zeros to `n` elements. -/
def vecN (n : Nat) (l : List F32) : List F32 := (List.range n).map (vecEl l)

/-- u_raw = −K·x̂ + F·r (R243). -/
def lawU (c : Cfg) (a : Nat) (x r : List F32) : List F32 :=
  (List.range (dimM c a)).map fun i =>
    rowAcc (rowAcc 0 ((matRow c a 10 (dimN c a) i).map B32.neg) x) (matRow c a 11 (dimR c a) i) r

/-- 250e-6, 0.8e-9 and 2^23 as binary32. -/
def c250u : F32 := B32.ofRat 250 1000000
def cTick : F32 := B32.ofRat 8 10000000000
def c2p23 : F32 := f32n 8388608

def vinstV (v : Nat) : F32 := fMul c250u (f32n v)

/-! Sample cycle of a step, bursts and availability -/

/-- The sample cycle whose step runs now: PLAN_COMPUTE may lie in the next cycle (R37, R243). -/
def stepCycle (d : Director) : Cycle := cyc d - BitVec.ofNat 32 (planC (cfg d) / planN (cfg d))
/-- The order cycle of that step (R38). -/
def stepOrder (d : Director) : Cycle := stepCycle d + BitVec.ofNat 32 (ordOfs (cfg d))

/-- The sample cycle of an arm's sequencer, and its order cycle: those of its last ACE step (R32, R38). -/
def armStep (d : Director) (a : Nat) : Cycle := (arm d a).seq
def armOrder (d : Director) (a : Nat) : Cycle := armStep d a + BitVec.ofNat 32 (ordOfs (cfg d))

/-- The burst of cycle `k` that passed every check. -/
def burstOf (r : CellRec) (k : Cycle) : Option Burst :=
  match r.last with
  | some b => if b.cycle = k then some b else
      match r.prev with | some p => if p.cycle = k then some p else none | none => none
  | none => none

def plausAction (c : Cfg) (a : Nat) : Nat := parm (armS c a) 30 0 1

/-- A cell's sample is usable in step k (R260). -/
def usable (c : Cfg) (a : Nat) (r : CellRec) (k : Cycle) : Bool :=
  match burstOf r k with
  | some b => !b.status.getLsbD 9 || plausAction c a = 0
  | none => false

/-- First cause of R280 for a slot position; `quar` replaces cause 2 for a mirrored mask, `hold` is the side of cause 3. -/
def availCause (d : Director) (a pos : Nat) (quar : Option (Nat → Bool)) (hold : Nat) : Nat :=
  let id := a * 512 + pos
  let r := cellRec d id
  if !configured (cfg d) id then 1
  else if (match quar with | some q => q pos | none => decide (r.link ≠ .proven)) = true then 2
  else match r.last with
    | none => 6
    | some b =>
      if leaseHolder b.lease != hold then 3
      else if b.status.getLsbD 13 || b.status.getLsbD 12 || b.status.getLsbD 14 then 4
      else if fld b.status.toNat 4 3 != 2 || b.status.getLsbD 10 || !b.status.getLsbD 7 then 5
      else if r.unreported then 6
      else if (arm d a).excluded.contains pos then 7
      else 0

/-- QUAR bit of a mirrored arm block (R310). -/
def quarBit (bs : List Byte) (pos : Nat) : Bool := bit (byteAt bs (320 + pos / 8)) (7 - pos % 8)

/-- The mirrored arm block when it comes from the twin as AUTHORITY (R281, R313). -/
def authMirror (x : Arm) : Option (List Byte) :=
  match x.mirror with | some m => if m.full && m.role = .authority then some m.bytes else none | none => none

/-- Classify every slot position at phase 1 (R280, R281). -/
def classify (d : Director) (a : Nat) : Director :=
  let x := arm d a
  let (q, h) := match x.role, authMirror x with
    | .shadow, some bs => (some (quarBit bs), 3 - holderCode d)
    | .cold, some bs => (some (quarBit bs), 3 - holderCode d)
    | _, _ => (none, holderCode d)
  let cs := (armCells (cfg d) a).map fun p => (p, availCause d a p q h)
  modArm d a fun x => { x with
    causes := cs
    avail := cs.filterMap fun (p, v) => if v = 0 then some p else none
    unavail := (cs.filter fun (_, v) => v != 0).length }

/-- Mark cells unreported (R260). -/
def usability (d : Director) (a : Nat) (k : Cycle) : Director :=
  let mm := parm (armS (cfg d) a) 32 0 4
  (armCells (cfg d) a).foldl (fun d p =>
    let id := a * 512 + p
    let r := cellRec d id
    if r.link != .proven then d else
    if usable (cfg d) a r k then modRec d id fun r => { r with unusable := 0, unreported := false, everUsable := true }
    else if !r.everUsable then d
    else
      let n := r.unusable + 1
      let d := modRec d id fun r => { r with unusable := n }
      if n ≥ mm && !r.unreported then
        raise (modRec d id fun r => { r with unreported := true, cnt := { r.cnt with unreported := satInc r.cnt.unreported } })
          (56 + a) 0x0D (b2 id)
      else d) d

/-! Roles (R321, R322) -/

/-- H of step k (R321). -/
def heldCount (d : Director) (a : Nat) (k : Cycle) : Nat :=
  ((armCells (cfg d) a).filter fun p => match burstOf (cellRec d (a * 512 + p)) k with
    | some b => leaseHolder b.lease = holderCode d
    | none => false).length

def anyProven (d : Director) (a : Nat) : Bool :=
  (armCells (cfg d) a).any fun p => (cellRec d (a * 512 + p)).link = .proven

/-- The mirror of step k − 1 is accepted for the arm (R311, R314). -/
def mirrorOk (x : Arm) (k : Cycle) : Bool :=
  !x.missed && (match x.mirror with | some m => m.full && m.cycle + 1 = k | none => false)

def twinAuth (d : Director) (a : Nat) : Bool := tget 0 a d.sk.twinRole = 3

/-- Role and deciding row of R322. -/
def roleRow (d : Director) (a : Nat) (k : Cycle) (h : Nat) : Role × Nat :=
  let x := arm d a
  if x.isolate || !anyProven d a then (.isolated, 1)
  else if h ≥ quorum (cfg d) a && 0 < h then (.authority, 2)
  else if x.sync && mirrorOk x k && twinAuth d a then (.shadow, 3)
  else if x.role = .shadow && x.sync && d.sk.twinAlive && !mirrorOk x k then (.shadow, 4)
  else if x.role = .shadow && !d.sk.twinAlive && x.sinceLost ≤ leaseCycles (cfg d) a + 4 then (.shadow, 5)
  else (.cold, 6)

/-- Response of the arm commands (R485). -/
def armResp (d : Director) (a cause : Nat) (apply : Cycle) : List Byte :=
  b1 a ++ b1 (modeCode (arm d a).mode) ++ b1 cause ++ [0] ++ b4 apply.toNat

def due (apply k : Cycle) : Bool := cycleDiff apply k ≤ 0

/-- Isolation commands, role, yielding, NO_QUORUM and COLD_TAKEOVER of phase 1. -/
def roleSelect (d : Director) (a : Nat) (k : Cycle) : Director :=
  let iso := (arm d a).pIsolate.filter fun p => due p.apply k
  let d := iso.foldl (fun d p => modArm d a fun x => { x with isolate := p.flag }) d
  let h := heldCount d a k
  let old := (arm d a).role
  let lost := if d.sk.twinAlive then 0 else (arm d a).sinceLost + 1
  let d := modArm d a fun x => { x with held := h, sinceLost := lost }
  let (r, row) := roleRow d a k h
  let d := modArm d a fun x => { x with role := r, row := row }
  let d := if r = old then d else
    raise (modCntA d a fun c => { c with roleChanges := satInc c.roleChanges }) (56 + a) 0x1A (b1 (roleCode old) ++ b1 (roleCode r) ++ b1 row)
  let d := iso.foldl (fun d p => decide_ d p.mb stOK (b1 a ++ b1 (roleCode r) ++ zeros 2 ++ b4 p.apply.toNat)) d
  let d := modArm d a fun x => { x with pIsolate := x.pIsolate.filter fun p => !due p.apply k }
  -- hand-over (R326, R501)
  let oc := k + BitVec.ofNat 32 (ordOfs (cfg d))
  let reply (d : Director) (mb : Option Nat) (st : Nat) (hh : Cycle) := decide_ d mb st (b1 a ++ b1 (roleCode r) ++ zeros 2 ++ b4 hh.toNat)
  let d := match (arm d a).yielding, (arm d a).pHandover with
    | some hh, ph =>
      let mb := match ph with | some (_, m) => m | none => none
      if r != .authority then
        reply (modArm d a fun x => { x with yielding := none, pHandover := none }) mb stOK hh
      else if cycleDiff oc (hh + BitVec.ofNat 32 (leaseCycles (cfg d) a + 8)) ≥ 0 then
        let d := modArm d a fun x => { x with yielding := none, pHandover := none }
        let d := modCntA d a fun c => { c with handoverFail := satInc c.handoverFail }
        reply (raise d (56 + a) 0x1D []) mb stTimeout hh
      else d
    | none, some (hh, mb) =>
      if cycleDiff hh oc ≤ 0 then
        let x := arm d a
        if r = .authority && tget 0 a d.sk.twinRole = 2 && (x.mode = .precharge || operating x.mode) then
          modArm d a fun x => { x with yielding := some hh }
        else reply (modArm d a fun x => { x with pHandover := none }) mb stState hh
      else d
    | none, none => d
  let x := arm d a
  let nq := operating x.mode && r = .cold && !twinAuth d a
  let d := if nq then
      let d := modCntA d a fun c => { c with noQuorum := satInc c.noQuorum }
      if x.noQuorumRun then d else raise d (56 + a) 0x1B []
    else d
  let d := modArm d a fun x => { x with noQuorumRun := nq }
  if r = .authority && old = .cold && operating x.mode then
    let d := modCntA d a fun c => { c with coldTakeover := satInc c.coldTakeover }
    blockRequest (raise d (56 + a) 0x1C []) a 1 (planC (cfg d) % planN (cfg d))
  else d

/-- The twin's CMD for an order cycle beside the own record of that cycle, or in its place (R258, R310, R313). -/
def noteTwin (oc : Cycle) (cmd : Nat) (l : List SentRec) : List SentRec :=
  if l.any (·.cycle = oc) then l.map fun s => if s.cycle = oc then { s with twin := some cmd } else s
  else { cycle := oc, cmd := 15, launch := 0, duty := 0, seq := 0, flags := 0, type := none, twin := some cmd } :: l

/-- A SHADOW by row 3 loads the mirrored values (R313). -/
def mirrorLoad (d : Director) (a : Nat) : Director :=
  match (arm d a).mirror with
  | none => d
  | some m =>
    if (arm d a).row ≠ 3 || !m.full then d else
    let bs := m.bytes
    let v (o n : Nat) : List F32 := (List.range n).map fun i => BitVec.ofNat 32 (beAt bs (o + 4 * i) 4)
    let fl := byteAt bs 3
    let c := cfg d
    let d := modArm d a fun x =>
      let um := v 144 8
      { x with
        mode := m.mode
        xhat := v 16 (dimN c a)
        uGood := v 112 (dimM c a)
        uMan := if m.mode = .manual then um.take (dimM c a) else x.uMan
        uHold := if m.mode = .hold then um.take (dimM c a) else x.uHold
        rEff := v 176 (dimR c a)
        numeric := bit fl 0
        ramp := if bit fl 1 then some (v 208 (dimM c a), beAt bs 240 4) else none
        inj := if bit fl 2 then x.inj.map fun i => { i with j := beAt bs 244 4, prbs := BitVec.ofNat 9 (beAt bs 248 2) } else none
        outs := (List.range (dimP c a)).map fun i =>
          let o := tget {} i x.outs
          (i, { o with loss := byteAt bs (264 + 3 * i), run := byteAt bs (265 + 3 * i), frozen := bit (byteAt bs (266 + 3 * i)) 0 }) }
    (armCells c a).foldl (fun d p =>
      let cmd := if p % 2 = 0 then fld (byteAt bs (384 + p / 2)) 7 4 else fld (byteAt bs (384 + p / 2)) 3 0
      modRec d (a * 512 + p) fun r => { r with
        vEst := BitVec.ofNat 32 (beAt bs (640 + 4 * p) 4), hasEst := true
        sent := noteTwin (m.cycle + BitVec.ofNat 32 (ordOfs c)) cmd r.sent }) d

/-! Measured outputs (R250 to R255) -/

/-- Value and freshness of output i in step k (R251 to R253); true third: CHK substituted. -/
def outputY (d : Director) (a i : Nat) (k : Cycle) : F32 × Bool × Bool :=
  let c := cfg d
  let src := ySrc c a i
  let kind := fld src 31 28
  if kind = 1 then
    let node := fld src 27 21
    let sb := fld src 19 16
    match burstOf (cellRec d (3072 + node)) k with
    | none => (0, false, false)
    | some b =>
      let plaus := b.status.getLsbD 9
      let act := plausAction c a
      let ch := fld src 20 20
      let swap := plaus && act = 2 && ch = 0
      let codes := if ch = 1 || swap then b.chk else b.pri
      let fs := (channelFs c (node * 2 + (if ch = 1 || swap then 1 else 0))).getD 0
      let valid := (List.range 8).filter fun j => b.svalid.getLsbD j
      let ok := (if sb = 8 then !valid.isEmpty else b.svalid.getLsbD sb) && !(plaus && act = 1)
      let code := if sb = 8 then B32.ofRat ((valid.map fun j => codes.getD j 0).foldl (· + ·) 0) valid.length
                  else B32.ofInt (codes.getD sb 0)
      (fDiv (fMul code fs) c2p23, ok, swap && ok)
  else
    let b := fld src 23 21
    let cs := armCells c b
    let y := cs.foldl (fun acc p =>
      let r := cellRec d (b * 512 + p)
      match burstOf r k with
      | some x => if usable c b r k then fAdd acc (vinstV x.vinst) else fAdd acc r.vEst
      | none => fAdd acc r.vEst) 0
    let miss := ((arm d b).avail.filter fun p => !usable c b (cellRec d (b * 512 + p)) k).length
    (y, miss ≤ parm (armS c a) 31 0 4, false)

/-- Gather the outputs, ŷ, the stuck test, ν and the loss counts (R243, R252 to R255). -/
def innovate (d : Director) (a : Nat) (k : Cycle) : Director :=
  let c := cfg d
  let n := dimN c a
  let step (d : Director) (i : Nat) : Director :=
    if ySrc c a i = 0 then
      modArm d a fun x => { x with outs := tset i { tget {} i x.outs with y := 0, nu := 0, fresh := false, frozen := false } x.outs }
    else
    let x := arm d a
    let o := tget {} i x.outs
    let (yv, fr, sub) := outputY d a i k
    let y := if fr then yv else o.y
    let yh := rowAcc 0 (matRow c a 8 n i) x.xhat
    let sameRun := fr && 0 < o.run && o.value = y
    let run := if !fr then o.run else if sameRun then o.run + 1 else 1
    let y0 := if fr && !sameRun then yh else o.yhat0
    let moved := fLt (parmF (armS c a) 26 i f32Hi) (B32.abs (fSub yh y0))
    let frozen := if fr && !sameRun then false
                  else o.frozen || (fr && run ≥ parm (armS c a) 25 0 16 && moved)
    let bad := !fr || frozen
    let nu := if bad then 0 else fSub y yh
    let o' : OutState :=
      { loss := if bad then o.loss + 1 else 0
        run := run
        value := if fr then y else o.value
        yhat0 := y0
        frozen := frozen
        fresh := fr
        y := y
        stamp := if fr then k else o.stamp
        nu := nu }
    let d := modArm d a fun x => { x with outs := tset i o' x.outs }
    let d := if sub then modCntA d a fun t => { t with plausSubst := incTab i t.plausSubst } else d
    let d := if frozen && !o.frozen then
        raise (modCntA d a fun t => { t with stuck := incTab i t.stuck }) (56 + a) 0x05 (b1 i) else d
    if bad then
      let d := modCntA d a fun t => { t with lost := incTab i t.lost }
      if o.loss = 0 then raise d (56 + a) 0x04 (b1 i) else d
    else d
  (List.range (dimP c a)).foldl step d

/-- An output counts as good: unassigned, or fresh and not frozen. -/
def outGood (c : Cfg) (a : Nat) (x : Arm) (i : Nat) : Bool :=
  ySrc c a i = 0 || (let o := tget {} i x.outs; o.fresh && !o.frozen)

def reqGood (c : Cfg) (a : Nat) (x : Arm) : Bool := (yReq c a).all (outGood c a x)

/-! The predictor (R258, R259) -/

/-- Gate states of R258. -/
inductive Sig | bypassed | pos | neg | blocked
  deriving DecidableEq, Repr

/-- State changes of one sent record, ticks from the start of cycle k (R172, R258). -/
def recEdges (c : Cfg) (a : Nat) (k : Cycle) (s : SentRec) : List (Int × Sig) :=
  let n : Int := planN c
  -- the twin's record in place of an own NOP, at the launch of a plan without correction
  let t := cycleDiff s.cycle k * n + (if s.cmd = 15 then mC c + tEdge else s.launch : Nat)
  match s.twin.getD s.cmd with
  | 1 => [(t, .bypassed)]
  | 2 => [(t, .pos)]
  | 3 => [(t, .neg)]
  | 4 => [(t, .blocked)]
  | 5 => trim t n .pos
  | 6 => trim t n .neg
  | _ => []
where trim (t n : Int) (g : Sig) : List (Int × Sig) :=
  let w : Int := s.duty * n / 65536
  if w < armDead c a + armMinPulse c a then [(t, .bypassed)]
  else [(t, .bypassed), (t + (n - w) / 2, g), (t + (n - w) / 2 + w, .bypassed)]

/-- σ of a gate state for a sign of the current (R258). -/
def sigma (full pos : Bool) : Sig → Int
  | .bypassed => 0
  | .pos => 1
  | .neg => -1
  | .blocked => if pos then 1 else if full then -1 else 0

/-- Integral of σ from tick `t` to `b`, the state being `g` at `t`. -/
def integ (f : Sig → Int) (b : Int) : Int → Sig → List (Int × Sig) → Int
  | t, g, [] => f g * (b - t)
  | t, g, (u, h) :: r =>
    if b ≤ u then f g * (b - t)
    else if u ≤ t then integ f b t h r
    else f g * (u - t) + integ f b u h r

/-- Edges of the orders a cell's lease holder sent, oldest first. -/
def cellEdges (c : Cfg) (a : Nat) (k : Cycle) (r : CellRec) : List (Int × Sig) :=
  (r.sent.reverse.flatMap (recEdges c a k))

/-- Integral of σ over [x, y], ticks from the start of cycle k. -/
def sigInt (c : Cfg) (a : Nat) (k : Cycle) (r : CellRec) (pos : Bool) (x y : Int) : Int :=
  let f := sigma (fullBridge c a) pos
  let es := cellEdges c a k r
  let before := (es.filter fun e => e.1 ≤ x).getLast?
  integ f y x ((before.map (·.2)).getD .blocked) (es.filter fun e => x < e.1)

/-- The gate state a cell holds at a tick of cycle k. -/
def sigAt (c : Cfg) (a : Nat) (k : Cycle) (r : CellRec) (x : Int) : Sig :=
  (((cellEdges c a k r).filter fun e => e.1 ≤ x).getLast?.map (·.2)).getD .blocked

/-- Ticks at which a list of edges changes the gate state. -/
def changes : Sig → List (Int × Sig) → List Int
  | _, [] => []
  | g, (t, h) :: r => if h = g then changes g r else t :: changes h r

def cCell (c : Cfg) (a p : Nat) : F32 := parmF (armS c a) 34 p (parmF (armS c a) 33 0 (B32.ofRat 1 100))

/-- Phase 3 for every configured cell; v̄ over the available ones (R259). -/
def predict (d : Director) (a : Nat) (k : Cycle) : Director :=
  let c := cfg d
  let x := arm d a
  let s : Int := planSmp c
  let n : Int := planN c
  let nom : Int := ordOfs c * n + mC c + tEdge
  let d := (armCells c a).foldl (fun d p =>
    let id := a * 512 + p
    let r := cellRec d id
    let cc := cCell c a p
    let u := usable c a r k && r.link = .proven
    if !u && !r.hasEst then d else
    let est := match burstOf r k with
      | some b => if u then vinstV b.vinst else
          fAdd r.vEst (fDiv (fMul (fMul x.iPrev cTick) (B32.ofInt (sigInt c a k r (!B32.isNeg x.iPrev) (s - n) s))) cc)
      | none => fAdd r.vEst (fDiv (fMul (fMul x.iPrev cTick) (B32.ofInt (sigInt c a k r (!B32.isNeg x.iPrev) (s - n) s))) cc)
    let qp := sigInt c a k r (!B32.isNeg x.iPred) s nom
    let hat := fAdd est (fDiv (fMul (fMul x.iPred cTick) (B32.ofInt qp)) cc)
    modRec d id fun r => { r with vEst := est, hasEst := true, vHat := hat }) d
  let av := x.avail
  let vb := if av.isEmpty then 0 else fDiv (av.foldl (fun s p => fAdd s (cellRec d (a * 512 + p)).vHat) 0) (f32n av.length)
  modArm d a fun x => { x with vbar := vb, a := av.length }

/-- IARM and IARM_SAT of a predicted current (R109, R261). What a NaN gives is not stated (DESIGN CHOICE, assumption 86). -/
def iarmOf (ip : F32) : BitVec 24 × Bool :=
  match fvRound (B32.dec ip) 1000 1 with
  | some v => let cl := clampInt (-8388608) 8388607 v; (BitVec.ofNat 24 (unsigned 24 cl), cl != v)
  | none =>
    if ip = 0x7F800000 then (0x7FFFFF, true) else if ip = 0xFF800000 then (0x800000, true)
    else let f := Config.nanIarm ip; (f.setWidth 24, f.getLsbD 24)

/-- I_pred and IARM (R261). -/
def predictI (d : Director) (a : Nat) : Director :=
  let c := cfg d
  let x := arm d a
  let i := parm (armS c a) 29 0 0
  let o := tget {} i x.outs
  let ip := if ySrc c a i != 0 && o.fresh then o.y else rowAcc 0 (matRow c a 8 (dimN c a) i) x.xhat
  let (fld_, sat) := iarmOf ip
  let d := modArm d a fun x => { x with iPrev := x.iPred, iPred := ip, iarm := fld_, iarmSat := sat }
  if sat then
    raiseLim (modCntA d a fun t => { t with iarmSat := satInc t.iarmSat }) (limKey (56 + a) 0x12 0) (56 + a) 0x12 []
  else d

/-! Commands of phase 1 (R265, R267, R483) -/

/-- Load X0 into x̂ and zero r_eff (R275). -/
def loadX0 (d : Director) (a : Nat) : Director :=
  let c := cfg d
  modArm d a fun x => { x with
    xhat := (List.range (dimN c a)).map fun i => parmF (armS c a) 12 i 0
    rEff := List.replicate (dimR c a) 0 }

/-- BLOCK_IN asserted on a pin whose mask holds the arm. -/
def blockHeld (d : Director) (a : Nat) : Bool :=
  (List.range 4).any fun p => d.time.raw < tget 0 p d.pins.blockIn && (blockMask d p).contains a

/-- ARM_MODE and ARM_UNBLOCK at their step; a transfer to AUTO waits for phase 5. `prevGood`: every
output of Y_REQ was fresh in the step before. `ovr`: the cause that changed the mode in this step and
overrules the command (R267). -/
def modeCommand (d : Director) (a : Nat) (k : Cycle) (prevGood : Bool) (ovr : Option Nat) : Director :=
  match (arm d a).pMode with
  | none => d
  | some p =>
    if !due p.apply k then d else
    let x := arm d a
    let done (d : Director) (st cause : Nat) : Director :=
      let d := modArm d a fun x => { x with pMode := none }
      decide_ d p.mb st (armResp d a cause p.apply)
    let stop := done d stState (ovr.getD (if x.mode = .blocked then 1 else 0))
    let goto (m : ArmMode) (f : Arm → Arm) : Director := done (changeMode (modArm d a f) a m 0) stOK 0
    if ovr.isSome then stop
    else if p.unblock then
      if x.mode ≠ .blocked || blockHeld d a then stop
      else match p.target with
        | .off => done (changeMode (modArm (loadX0 d a) a fun x => { x with numeric := false }) a .off 0) stOK 0
        | .precharge => done (changeMode (modArm (loadX0 d a) a fun x => { x with numeric := false }) a .precharge 0) stOK 0
        | .manual => if x.numeric || !prevGood then stop else goto .manual fun x => { x with uMan := p.uMan }
        | _ => stop
    else match x.mode, p.target with
      | .off, .precharge => goto .precharge id
      | .precharge, .off => goto .off id
      | .precharge, .manual => if prevGood then goto .manual fun x => { x with uMan := p.uMan } else stop
      | .manual, .hold => goto .hold fun x => { x with uHold := x.u }
      | .auto, .hold => goto .hold fun x => { x with uHold := x.u }
      | .hold, .manual => goto .manual fun x => { x with uMan := x.uHold }
      | .auto, .manual => goto .manual fun x => { x with uMan := x.u }
      | .manual, .auto => d
      | .hold, .auto => d
      | _, _ => stop

/-- ARM_MANUAL_INPUT at its step, after the mode changes of the step (R483, R486). -/
def manualCommands (d : Director) (a : Nat) (k : Cycle) : Director :=
  let d := ((arm d a).pManual.filter fun p => due p.apply k).foldl (fun d p =>
    if (arm d a).mode = .manual then
      decide_ (modArm d a fun x => { x with uMan := p.values }) p.mb stOK (armResp d a 0 p.apply)
    else decide_ d p.mb stState (armResp d a (if (arm d a).mode = .blocked then 1 else 0) p.apply)) d
  modArm d a fun x => { x with pManual := x.pManual.filter fun p => !due p.apply k }

/-- ARM_REFERENCE and BAL_EXCLUDE at their step (R487, R491). -/
def setCommands (d : Director) (a : Nat) (k : Cycle) : Director :=
  let ready (l : List PendSet) := l.filter fun p => due p.apply k
  let x := arm d a
  let d := (ready x.pRef).foldl (fun d p =>
    let ts := (List.range (dimR (cfg d) a)).map fun j =>
      if bit p.mask j then vecEl p.values j else vecEl (arm d a).targets j
    let d := modArm d a fun x => { x with targets := ts }
    decide_ d p.mb stOK (armResp d a 0 p.apply)) d
  let d := (ready x.pExclude).foldl (fun d p =>
    -- more than 64 excluded positions: RESOURCE, also against a command that applied meanwhile (R491)
    let new := if p.mask = 1 then ((arm d a).excluded ++ p.slots).eraseDups else (arm d a).excluded.filter fun s => !p.slots.contains s
    let full := decide (p.mask = 1) && decide (64 < new.length)
    let d := if full then d else modArm d a fun x => { x with excluded := new }
    decide_ d p.mb (if full then stResource else stOK) (b1 a ++ [0] ++ b2 (arm d a).excluded.length ++ b4 p.apply.toNat)) d
  modArm d a fun x => { x with
    pRef := x.pRef.filter fun p => !due p.apply k
    pExclude := x.pExclude.filter fun p => !due p.apply k }

/-- Stop of the test generator at START (R276, R488). -/
def injectStop (d : Director) (a : Nat) (k : Cycle) : Director :=
  match (arm d a).pStop with
  | some (s, mb) => if due s k then
      -- a start that never ran is answered with STATE (DEDUCED, assumption 32)
      let d := match (arm d a).pInj with | some i => decide_ d i.mb stState (armResp d a 0 i.start) | none => d
      let d := modArm (endInjection d a) a fun x => { x with pStop := none, pInj := none }
      decide_ d mb stOK (armResp d a 0 s)
    else d
  | none => d

/-- Modes in which a target takes an injection (R276). -/
def injectable (target : Nat) (m : ArmMode) : Bool := if target = 0 then m = .manual || m = .auto else m = .auto

/-- The mode that a command due in step k gives an arm in MANUAL, AUTO or HOLD (R265, R267). -/
def modeAhead (x : Arm) (k : Cycle) : ArmMode :=
  match x.pMode with
  | some p => if operating x.mode && operating p.target && !p.unblock && due p.apply k then p.target else x.mode
  | none => x.mode

/-- The injection that acts in step k: one that starts in it, or the running one (R276). -/
def injNow (x : Arm) (k : Cycle) : Option Injection :=
  match x.pInj with
  | some i => if due i.start k && injectable i.target (modeAhead x k) then some i else x.inj
  | none => x.inj

/-- Start of the test generator, once the step's mode stands (R276, R488). -/
def injectStart (d : Director) (a : Nat) (k : Cycle) : Director :=
  match (arm d a).pInj with
  | some i => if due i.start k then
      let m := (arm d a).mode
      let ok := injectable i.target m
      let d := modArm d a fun x => { x with pInj := none, inj := if ok then some i else x.inj }
      decide_ d i.mb (if ok then stOK else stState) (armResp d a (if m = .blocked then 1 else 0) i.start)
    else d
  | none => d

/-- s_j of the running injection (R276). -/
def injSample (c : Cfg) (i : Injection) : F32 :=
  match i.wave with
  | 1 =>
    let t := fMul (f32n (i.j * planN c)) cTick
    let td := fMul (f32n (i.length * planN c)) cTick
    let ph := fAdd (fMul i.f0 t) (fDiv (fMul (fSub i.f1 i.f0) (fMul t t)) (fMul (f32n 2) td))
    fMul i.amp (sin32 (fMul (B32.ofRat 6283185307 1000000000) ph))
  | 2 => if i.prbs.getLsbD 8 then i.amp else B32.neg i.amp
  | _ => i.amp

/-- The PRBS9 register after a step (R276). -/
def injNext (i : Injection) : Injection :=
  let adv := i.wave = 2 && (i.j + 1) % (max i.hold 1) = 0
  { i with
    j := i.j + 1
    prbs := if adv then (i.prbs <<< 1) ||| (if i.prbs.getLsbD 8 ^^ i.prbs.getLsbD 4 then 1 else 0) else i.prbs }

/-- A cycle of a running injection has passed; it ends after LENGTH of them (R277). `lost`: its step committed nothing. -/
def injectStep (d : Director) (a : Nat) (lost : Bool) : Director :=
  match (arm d a).inj with
  | some i =>
    let i := injNext i
    let d := modArm d a fun x => { x with inj := some { i with lost := if lost then i.lost + 1 else i.lost } }
    if i.length ≤ i.j then endInjection d a else d
  | none => d

/-- References move toward their targets (R269). -/
def moveRefs (d : Director) (a : Nat) : Director :=
  let c := cfg d
  let x := arm d a
  let rs := (List.range (dimR c a)).map fun j =>
    let t := vecEl x.targets j
    let r := vecEl x.rEff j
    let lim := parmF (armS c a) 37 j 0
    let df := fSub t r
    if fZero lim || fLe (B32.abs df) lim then t
    else if B32.isNeg df then fSub r lim else fAdd r lim
  modArm d a fun x => { x with rEff := rs }

/-! Phases 4 to 8 -/

/-- Clamp a value (R244, R266); true when it was clamped. -/
def clampF (lo hi v : F32) : F32 × Bool := if fLt v lo then (fz lo, true) else if fLt hi v then (fz hi, true) else (fz v, false)

/-- The preset of R271: x̂ with the presets, e_r, and whether a limit was met. -/
def preset (c : Cfg) (a : Nat) (x : List F32) (r uSrc : List F32) : List F32 × List F32 × Bool :=
  let ua := lawU c a x r
  let m := dimM c a
  let e := (List.range m).map fun i => if bit (bumpMask c a) i then fSub (vecEl uSrc i) (vecEl ua i) else 0
  let is := intStates c a
  let ds := (withIdx is).map fun (q, s) =>
    let dv := rowAcc 0 (matRow c a 21 m q) e
    let (v, cl) := clampF (parmF (armS c a) 18 q f32Lo) (parmF (armS c a) 19 q f32Hi) (fAdd (vecEl x s) dv)
    (s, if cl then fAdd (vecEl x s) (fSub v (vecEl x s)) else v, cl)
  let x' := (withIdx x).map fun (i, v) => match ds.find? (·.1 = i) with | some (_, w, _) => w | none => v
  let up := lawU c a x' r
  (x', (List.range m).map fun i => fSub (vecEl uSrc i) (vecEl up i), ds.any (·.2.2))

/-- Reference of step k with the injection added (R276). -/
def injectedRef (c : Cfg) (x : Arm) (k : Cycle) : List F32 :=
  match injNow x k with
  | some i => if i.target = 1 then (withIdx x.rEff).map fun (j, v) => if j = i.index then fAdd v (injSample c i) else v else x.rEff
  | none => x.rEff

/-- What a bake may change only in OFF or BLOCKED (R273). -/
def armDims (c : Cfg) (a : Nat) : List Nat := [dimN c a, dimM c a, dimP c a, dimR c a, parm (armS c a) 17 0 0, uArm c a]

/-- The preset of a bumpless swap to the configuration of `d` would meet an integrator limit (R274). -/
def swapLimited (d : Director) (a : Nat) (k : Cycle) : Bool :=
  let x := arm (moveRefs d a) a
  (preset (cfg d) a (vecN (dimN (cfg d) a) x.xhat) (injectedRef (cfg d) x k) x.u).2.2

/-- The arm presets its integrators at a bake (R274): AUTO, unless a command takes it out in this step. -/
def bumpless (d : Director) (a : Nat) (k : Cycle) : Bool :=
  (arm d a).mode = .auto && modeAhead (arm d a) k = .auto && parm (armS (cfg d) a) 40 0 1 = 1

/-- Load the X0 and clear the targets of new dimensions (R273, R275). -/
def newDims (d : Director) (a : Nat) : Director :=
  modArm (loadX0 d a) a fun x => { x with targets := List.replicate (dimR (cfg d) a) 0 }

/-- A bake that brings BUMP_RAMP down to where a running ramp stands, or below, ends the ramp (R272;
DESIGN CHOICE, assumption 87). -/
def cutRamp (old : Cfg) (d : Director) (a : Nat) : Director :=
  let len (c : Cfg) : Nat := parm (armS c a) 22 0 64
  match (arm d a).ramp with
  | some (_, j) =>
    if len (cfg d) ≤ j && j < len old then raise (modArm d a fun x => { x with ramp := none }) (56 + a) 0x0A [] else d
  | none => d

/-- Swap the banks at phase 1 of the step a bake names (R50, R273, R274, R275); true when phase 5 presets.
A preset that would meet a limit leaves the old bank in force. -/
def swapBank (d : Director) (a : Nat) (k : Cycle) : Director × Bool :=
  match (arm d a).pBank with
  | none => (d, false)
  | some (b, bs) =>
    if cycleDiff k b < 0 then (d, false) else
    let d := modArm d a fun x => { x with pBank := none }
    let n := putSection d (secKey 0x10 a) bs
    if armDims (cfg d) a != armDims (cfg n) a then (newDims n a, false)
    else if !bumpless n a k then (cutRamp (cfg d) n a, false)
    else if swapLimited n a k then
      (raise (modCntA d a fun t => { t with bumpRefused := satInc t.bumpRefused }) (56 + a) 0x09 [], false)
    else (n, true)

/-- The preset of a bumpless swap, u_src being the u of the step before (R274). -/
def presetSwap (d : Director) (a : Nat) (r : List F32) : Director :=
  if (arm d a).mode ≠ .auto then d else
  let x := arm d a
  let (x', er, _) := preset (cfg d) a x.xhat r x.u
  modArm d a fun x => { x with xhat := x', ramp := some (er, 0) }

/-- A pending transfer to AUTO in phase 5 (R271). -/
def transfer (d : Director) (a : Nat) (k : Cycle) (r : List F32) : Director :=
  match (arm d a).pMode with
  | some p =>
    if p.unblock || p.target ≠ .auto || !due p.apply k then d else
    let x := arm d a
    let c := cfg d
    let uSrc := if x.mode = .hold then x.uHold else x.uMan
    let (x', er, lim) := preset c a x.xhat r uSrc
    if lim && !p.force then
      let d := modArm d a fun x => { x with pMode := none }
      let d := modCntA d a fun t => { t with bumpRefused := satInc t.bumpRefused }
      decide_ (raise d (56 + a) 0x09 []) p.mb stBump (armResp d a 0 p.apply)
    else
      let d := changeMode d a .auto 0
      let d := modArm d a fun x => { x with pMode := none, xhat := x', ramp := some (er, 0) }
      decide_ d p.mb stOK (armResp d a 0 p.apply)
  | none => d

/-- The transfer offset of the running ramp (R272). -/
def rampOffset (c : Cfg) (a : Nat) (x : Arm) : List F32 :=
  match x.ramp with
  | some (er, j) =>
    let br := parm (armS c a) 22 0 64
    er.map fun e => fMul e (fSub (f32n 1) (fDiv (f32n j) (f32n br)))
  | none => []

/-- Advance the ramp; the step that adds the last nonzero offset raises BUMP_RAMP_DONE (R272). -/
def rampStep (d : Director) (a : Nat) : Director :=
  match (arm d a).ramp with
  | some (er, j) =>
    let br := parm (armS (cfg d) a) 22 0 64
    let zero := er.all fZero
    let d := if (zero && j = 0) || (!zero && j + 1 = br) then raise d (56 + a) 0x0A [] else d
    modArm d a fun x => { x with ramp := if zero || br ≤ j then none else some (er, j + 1) }
  | none => d

/-- The conversion of R262: n_ins, w, w_real, positive polarity, u_applied[U_ARM], out_sat, clamped. -/
def convert (c : Cfg) (a : Nat) (avail : Nat) (vbar u : F32) : Nat × Nat × Nat × Bool × F32 × Bool × Bool :=
  let cut := fLt u 0 && !fullBridge c a
  let v := if cut then 0 else fz u
  let pos := !fLt v 0
  let n := planN c
  if avail = 0 || fLe vbar 0 then
    (0, 0, 0, pos, 0, cut || !fZero v, false)
  else
    let x := fDiv (B32.abs v) vbar
    let ni := ((fvFloor (B32.dec x) 1 1).getD (avail : Int)).toNat
    let f := fSub x (f32n ni)
    let w := ((fvFloor (B32.dec (fFma f (f32n n) (B32.ofRat 1 2))) 1 1).getD 0).toNat
    let (ni, w) := if w = n then (ni + 1, 0) else (ni, w)
    let (ni, w, os) := if ni ≥ avail then (avail, 0, true) else (ni, w, false)
    let (w, os) := if 0 < w && ni + 1 > avail then (0, true) else (w, os)
    let (w, tc) := if wMax c a < w then (wMax c a, true) else (w, false)
    let wr := if 0 < w && w < armDead c a + armMinPulse c a then 0 else w
    let ap := fMul vbar (fAdd (f32n ni) (fDiv (f32n wr) (f32n n)))
    (ni, w, wr, pos, if pos then ap else B32.neg ap, os || cut, tc)

/-- Phase 5 (R262, R264, R266, R276): u, saturation, conversion, u_applied. `inj` is s_j on u. -/
def select (d : Director) (a : Nat) (raw : List F32) : Director :=
  let c := cfg d
  let m := dimM c a
  let x := arm d a
  let idle := (List.range m).map fun i => parmF (armS c a) 16 i 0
  if !operating x.mode then
    modArm d a fun x => { x with u := idle, uApplied := idle, nIns := 0, w := 0, polNeg := false, injected := 0 }
  else
    let off := rampOffset c a x
    let base := match x.mode with
      | .manual => vecN m x.uMan
      | .hold => vecN m x.uHold
      | _ => (List.range m).map fun i => if x.ramp.isSome then fAdd (vecEl raw i) (vecEl off i) else vecEl raw i
    let s := match x.inj with | some i => injSample c i | none => 0
    let base := match x.inj with
      | some i => if i.target = 0 then (withIdx base).map fun (j, v) => if j = i.index then fAdd v s else v else base
      | none => base
    let cl := (withIdx base).map fun (i, v) => clampF (parmF (armS c a) 14 i f32Lo) (parmF (armS c a) 15 i f32Hi) v
    let u := cl.map (·.1)
    let d := (withIdx cl).foldl (fun d (i, v) => if v.2 then
        raiseLim (modCntA d a fun t => { t with uSat := incTab i t.uSat }) (limKey (56 + a) 0x0E i) (56 + a) 0x0E (b1 i) else d) d
    let (ni, w, _, pos, ap, os, tc) := convert c a x.a x.vbar (vecEl u (uArm c a))
    let d := if os then raiseLim (modCntA d a fun t => { t with outSat := satInc t.outSat }) (limKey (56 + a) 0x10 0) (56 + a) 0x10 [] else d
    let d := if tc then raiseLim (modCntA d a fun t => { t with trimClamp := satInc t.trimClamp }) (limKey (56 + a) 0x11 0) (56 + a) 0x11 [] else d
    modArm d a fun x => { x with
      u := u, nIns := ni, w := w, polNeg := !pos, injected := s
      uGood := if reqGood c a x then u else x.uGood
      uApplied := (withIdx u).map fun (i, v) => if i = uArm c a then ap else v }

/-- Phases 6 and 7: x̂⁺, clamps and the finiteness check (R243, R247, R264, R266). `held` is the x̂ of before phase 5,
which stays when the check fails. -/
def update (d : Director) (a : Nat) (held : List F32) : Director :=
  let c := cfg d
  let x := arm d a
  let n := dimN c a
  let nu := (List.range (dimP c a)).map fun i => (tget {} i x.outs).nu
  let xp := (List.range n).map fun i =>
    rowAcc (rowAcc (rowAcc 0 (matRow c a 6 n i) x.xhat) (matRow c a 7 (dimM c a) i) x.uApplied) (matRow c a 9 (dimP c a) i) nu
  let is := intStates c a
  let qOf (s : Nat) := is.findIdx (· = s)
  let cl := (withIdx xp).map fun (i, v) =>
    if !is.contains i then (v, false) else
    match x.mode with
    | .precharge => (parmF (armS c a) 12 i 0, false)
    | .blocked => (vecEl x.xhat i, false)
    | .off => (v, false)
    | _ => clampF (parmF (armS c a) 18 (qOf i) f32Lo) (parmF (armS c a) 19 (qOf i) f32Hi) v
  let x2 := cl.map (·.1)
  let d := (withIdx cl).foldl (fun d (i, v) => if v.2 then
      raiseLim (modCntA d a fun t => { t with xiSat := incTab (qOf i) t.xiSat }) (limKey (56 + a) 0x0F (qOf i)) (56 + a) 0x0F (b1 (qOf i)) else d) d
  if (x2 ++ x.u ++ [x.vbar]).all B32.finite then modArm d a fun x => { x with xhat := x2 }
  else
    let d := modArm d a fun x => { x with numeric := true, xhat := held }
    let d := raise (modCntA d a fun t => { t with numeric := satInc t.numeric }) (56 + a) 0x08 []
    -- only the AUTHORITY issues the automatic BLOCK request; others change their own arm state (R323)
    let tick := (planC c + tAce c a) % planN c
    if x.role = .authority then blockRequest d a 2 tick else enterBlocked d a 2

/-- Fallback in AUTO (R256). -/
def fallback (d : Director) (a : Nat) : Director :=
  let c := cfg d
  let x := arm d a
  let nl := parm (armS c a) 27 0 8
  if x.mode = .auto && (yReq c a).any (fun i => nl + 1 ≤ (tget {} i x.outs).loss) then
    let d := modCntA d a fun t => { t with fallback := satInc t.fallback }
    if parm (armS c a) 28 0 1 = 0 then
      raise (changeMode (modArm d a fun x => { x with uMan := x.uGood }) a .manual 3) (56 + a) 0x06 []
    else
      let d := raise d (56 + a) 0x07 []
      if x.role = .authority then blockRequest d a 3 (planC c % planN c) else enterBlocked d a 3
  else d

/-- Redundancy count (R282). -/
def redundancy (d : Director) (a : Nat) : Director :=
  let c := cfg d
  let x := arm d a
  let lim := parm (armS c a) 44 0 4
  if !operating x.mode then modArm d a fun x => { x with redRun := 0, redLow := lim ≤ x.unavail && x.redLow } else
  let d := if lim ≤ x.unavail && !x.redLow then raise d (56 + a) 0x15 (b2 x.unavail) else d
  let run := if lim < x.unavail then x.redRun + 1 else 0
  let d := modArm d a fun x => { x with redLow := decide (lim ≤ x.unavail), redRun := run }
  if parm (armS c a) 45 0 2 ≤ run then
    -- only the AUTHORITY issues the request, and counts it (R301, R323)
    if x.role = .authority then
      let d := raise (modCntA d a fun t => { t with redundancy := satInc t.redundancy }) (56 + a) 0x14 (b2 x.unavail)
      blockRequest d a 1 (planC c % planN c)
    else enterBlocked d a 1
  else d

/-- Probe values of phase 8 (R278). -/
def probeValue (d : Director) (a sel : Nat) (r : List F32) (off : F32) : F32 :=
  let x := arm d a
  let i := fld sel 11 0
  match fld sel 15 12 with
  | 1 => vecEl x.xhat i
  | 2 => vecEl x.u i
  | 3 => vecEl x.uApplied i
  | 4 => (tget {} i x.outs).y
  | 5 => (tget {} i x.outs).nu
  | 6 => vecEl r i
  | 7 => x.injected
  | 8 => match i with
    | 0 => f32n x.nIns | 1 => f32n x.w | 2 => x.vbar | 3 => f32n x.a | 4 => x.iPred
    | 5 => f32n (modeCode x.mode) | _ => off
  | 9 => (cellRec d (a * 512 + i)).vHat
  | _ => 0

/-- Arm bits of the flag word (R397). -/
def armFlags (d : Director) (a : Nat) (k : Cycle) : BitVec 64 :=
  let c := cfg d
  let x := arm d a
  let b (on : Bool) (i : Nat) : Nat := if on then 2 ^ i else 0
  let fill := (armCells c a).any fun p => match burstOf (cellRec d (a * 512 + p)) k with
    | some v => fld v.lease.toNat 5 4 = 2 | none => false
  BitVec.ofNat 64 (b (mirrorOk x k) (56 + a) + b (!reqGood c a x) (50 + a) + b fill (44 + a) + b x.sync (38 + a)
    + roleCode x.role * 2 ^ (26 + 2 * a) + modeCode x.mode * 2 ^ (8 + 3 * a))

/-! The calibration snapshot (R297) -/

/-- The block of BAL_CAL_DECIM cycles that holds cycle k; the one it follows counts CAL_SKIP if it had no qualifying cycle. -/
def calBlock (d : Director) (a : Nat) (k : Cycle) : Director :=
  let x := arm d a
  let set (d : Director) (b : Option Nat) : Director := modArm d a fun x => { x with est := { x.est with block := b, took := false } }
  if parm (armS (cfg d) a) 50 0 0 = 0 || x.role ≠ .authority then set d none else
  let b := k.toNat / parm (armS (cfg d) a) 53 0 64
  if x.est.block = some b then d else
  set (if x.est.block.isSome && !x.est.took then modCntA d a fun t => { t with calSkip := satInc t.calSkip } else d) (some b)

/-- Copy a qualifying cycle; a snapshot not taken counts CAL_DROP. -/
def calSnapshot (d : Director) (a : Nat) (k : Cycle) : Director :=
  let d := calBlock d a k
  let c := cfg d
  let x := arm d a
  if x.est.block.isNone then d else
  let took := x.est.took
  let src := parm (armS c a) 51 0 0
  let node := fld src 27 21
  let s : Int := planSmp c
  let g : Int := parm (armS c a) 52 0 625
  let cells := armCells c a
  let div := burstOf (cellRec d (3072 + node)) k
  let okDiv := match div with | some b => !b.status.getLsbD 9 && b.svalid.getLsbD 7 | none => false
  let same (y : Nat) : Bool := fld y 31 28 = 1 && fld y 27 20 = fld src 27 20
  let okOut := (List.range (dimP c a)).all fun i => !same (ySrc c a i) || outGood c a x i
  let okCells := cells.all fun p =>
    let r := cellRec d (a * 512 + p)
    usable c a r k && (sigma (fullBridge c a) (!B32.isNeg x.iPred) (sigAt c a k r s) = 0 || match burstOf r k with | some b => !b.status.getLsbD 8 | none => false)
      && (changes .blocked (cellEdges c a k r)).all (fun e => e < s - g || s + g < e)
  let okFly := x.est.inFlight.all fun (p, f) => p / 64 != x.est.tree || cycleDiff k (f + 4) > 0
  let d := if !took && operating x.mode && okDiv && okOut && okCells && okFly then
      let codes := match div with | some b => if fld src 20 20 = 1 then b.chk else b.pri | none => []
      let y := fDiv (fMul (B32.ofInt (codes.getD 7 0)) ((channelFs c (node * 2 + fld src 20 20)).getD 0)) c2p23
      let full := fullBridge c a
      let snap : CalSnap := { cycle := k, y := y, i := x.iPred, cells := cells.map fun p =>
        let r := cellRec d (a * 512 + p)
        (p, sigma full (!B32.isNeg x.iPred) (sigAt c a k r s), match burstOf r k with | some b => b.vinst | none => 0) }
      let d := if x.est.snap.isSome then
          raiseLim (modCntA d a fun t => { t with calDrop := satInc t.calDrop }) (limKey (56 + a) 0x17 0) (56 + a) 0x17 [] else d
      modArm d a fun x => { x with est := { x.est with snap := some snap, took := true } }
    else modArm d a fun x => { x with est := { x.est with took := took } }
  d

/-! Words of the mirror (R310) -/

/-- CMD of the records of the order cycle, 4 bits per position (R310). -/
def nibbles (f : Nat → Nat) : List Byte := (List.range 256).map fun i => BitVec.ofNat 8 (f (2 * i) * 16 + f (2 * i + 1))

/-- Learned delays of a cell as eight 32-bit words (R310, R516). -/
def learnedWords (r : CellRec) : List Nat :=
  (List.range 8).map fun t => let l := tget {} t r.learned; l.lam * 4096 + min l.count 4095

/-! The step -/

/-- A step that commits nothing: one lost cycle for every output (R54, R55, R257). -/
def lostStep (d : Director) (a : Nat) : Director :=
  (List.range (dimP (cfg d) a)).foldl (fun d i =>
    if ySrc (cfg d) a i = 0 then d else
    let first := (tget {} i (arm d a).outs).loss = 0
    let d := modArm d a fun x => { x with outs := tmod {} i (fun o => { o with loss := o.loss + 1, fresh := false, nu := 0 }) x.outs }
    let d := modCntA d a fun t => { t with lost := incTab i t.lost }
    if first then raise d (56 + a) 0x04 (b1 i) else d) d

/-- The memory integrity event of R585: address and detail. -/
def sramUe (d : Director) (addr detail : Nat) : Director :=
  raise { d with bg := { d.bg with sramUe := satInc d.bg.sramUe } } 102 detail (b4 addr ++ b1 detail)

/-- Phase 1 after the role and the mirror (R267 to R276, R281): the pending sets, the bank swap, a mode command of an arm
that is not in AUTO, loads of X0, reference moves, the mask. AUTO waits: fallback, found in phase 2, goes before a command.
The second value: phase 5 presets for a bank swap. -/
def gather (d : Director) (a : Nat) (k : Cycle) (prevGood : Bool) (ovr : Option Nat) : Director × Bool :=
  let d := injectStop (setCommands d a k) a k
  let (d, pre) := swapBank d a k
  let d := if (arm d a).mode = .auto then d else modeCommand d a k prevGood ovr
  let c := cfg d
  let d := if (arm d a).mode = .precharge then
      modArm d a fun x => { x with xhat := (withIdx (vecN (dimN c a) x.xhat)).map fun (i, v) =>
        if (intStates c a).contains i then parmF (armS c a) 12 i 0 else v }
    else d
  (classify (usability (moveRefs d a) a k) a, pre)

/-- Phase 2 and the automatic changes it finds (R255, R256, R282); then the mode command of an arm in AUTO, or the refusal of
one that an automatic change overrules. The second value: the cause of an automatic change, the first of R267's list. -/
def innovation (d : Director) (a : Nat) (k : Cycle) (prevGood : Bool) (ovr : Option Nat) : Director × Option Nat :=
  let d := innovate d a k
  let m0 := (arm d a).mode
  let d := redundancy d a
  let m1 := (arm d a).mode
  let d := fallback d a
  let ovr := if m1 ≠ m0 then some 1 else if ovr.isSome then ovr else if (arm d a).mode ≠ m1 then some 3 else none
  (if ovr.isSome || m0 = .auto then modeCommand d a k prevGood ovr else d, ovr)

/-- Phases 3 to 7 (R245). -/
def evaluate (d : Director) (a : Nat) (k : Cycle) (pre : Bool) : Director :=
  let r := injectedRef (cfg d) (arm d a) k
  let d := predict (predictI d a) a k
  let held := (arm d a).xhat
  let d := manualCommands (transfer d a k r) a k
  let d := if pre then presetSwap d a r else d
  let d := injectStart d a k
  let off := vecEl (rampOffset (cfg d) a (arm d a)) (uArm (cfg d) a)
  let d := select d a (lawU (cfg d) a (arm d a).xhat r)
  let pr (d : Director) : List F32 := (List.range 32).map fun i => probeValue d a (parmN (armS (cfg d) a) 2 41 i 0) r off
  let d := if operating (arm d a).mode then rampStep d a else d
  let d := injectStep (update d a held) a false
  modArm d a fun x => { x with probeHist := (k, pr d) :: x.probeHist.take 1 }

/-- One MODE_CHANGE event for a step, with the cause that decided (R267): `n` events stood before the step, in mode `m`. -/
def oneModeEvent (d : Director) (a n : Nat) (m : ArmMode) (cause : Nat) : Director :=
  let evs := d.ring.decided
  let mine (e : Event) : Bool := e.source = 56 + a && e.detail = 0x0B
  if ((evs.drop n).filter mine).length < 2 then d else
  let d := { d with ring := { d.ring with decided := evs.take n ++ (evs.drop n).filter fun e => !mine e } }
  if (arm d a).mode = m then d else modeEvent d a m (arm d a).mode cause

/-- The end of a completed step: a mode command that an automatic change overruled after it acted is answered with STATE, and one
event names the cause that decided (R267). `pos` and `m`: events and mode before the step; `cmd`: the command due in it. -/
def settleModes (d : Director) (a pos : Nat) (m : ArmMode) (cmd : Option PendMode) (cause : Option Nat) : Director :=
  match cause with
  | none => d
  | some x =>
    let d := match cmd with | some p => decide_ d p.mb stState (armResp d a x p.apply) | none => d
    oneModeEvent d a pos m x

/-- A step that commits nothing (R54, R55, R256, R257): frames with NOP, one lost cycle, fallback, and one cycle of a running injection. -/
def lostRun (d : Director) (a : Nat) (k oc : Cycle) (why : NopCause) : Director :=
  let d := modArm d a fun x => { x with nop := some (oc, why), probeHist := (k, []) :: x.probeHist.take 1 }
  injectStep (calBlock (fallback (lostStep d a) a) a k) a true

/-- One ACE step (R243 to R247). -/
def aceRun (d : Director) (a : Nat) (fault : PhaseFault) : Director :=
  let k := stepCycle d
  let oc := stepOrder d
  match fault with
  | .uncorrectable addr =>
    let d := raise (modCntA d a fun t => { t with abandoned := satInc t.abandoned }) (56 + a) 0x02 []
    lostRun (sramUe d addr 0x01) a k oc .abandoned
  | .overrun =>
    lostRun (raise (modCntA d a fun t => { t with overrun := satInc t.overrun }) (56 + a) 0x01 []) a k oc .overrun
  | .none =>
    let prevGood := (arm d a).stepped && (yReq (cfg d) a).all fun i => (tget {} i (arm d a).outs).fresh
    let pos := d.ring.decided.length
    let cmd := (arm d a).pMode.filter fun p => due p.apply k
    let m0 := (arm d a).mode
    let d := roleSelect d a k
    let ovr := if (arm d a).mode ≠ m0 then some 1 else none
    let d := mirrorLoad d a
    let m := (arm d a).mode
    let (d, pre) := gather d a k prevGood ovr
    let (d, ovr) := innovation d a k prevGood ovr
    let m7 := (arm d a).mode
    let d := evaluate d a k pre
    let d := settleModes d a pos m cmd (if ovr.isSome then ovr else if (arm d a).mode = .blocked && m7 ≠ .blocked then some 2 else none)
    let d := modArm d a fun x => { x with stepped := true, cycle := k, tAce := tAce (cfg d) a
                                          flagHist := (k, armFlags d a k) :: x.flagHist.take 1 }
    calSnapshot d a k

/-- A command waits for a step of the arm. -/
def awaited (x : Arm) : Bool :=
  x.pMode.isSome || !x.pManual.isEmpty || !x.pRef.isEmpty || !x.pExclude.isEmpty || x.pInj.isSome || x.pStop.isSome
    || !x.pIsolate.isEmpty || x.pHandover.isSome || x.yielding.isSome

end Sys2Proof.Machine
end

