-- ==== Sys2Proof/Machine/CellOps.lean ====
section
/-! DEFINITION. Shared operations of the cell controller: parameters (R194 to R198, R242), events
(R144, R588), link access, steering (R160), gate transitions (R170, R171, R182), cell states
(R185, R186), keys and IVs (R118, R596). -/

namespace Sys2Proof.Machine

/-! Links -/

def getLink (c : Cell) : Link → CLink
  | .la => c.la
  | .lb => c.lb

def setLink (c : Cell) (l : Link) (x : CLink) : Cell :=
  match l with
  | .la => { c with la := x }
  | .lb => { c with lb := x }

def modLink (c : Cell) (l : Link) (f : CLink → CLink) : Cell := setLink c l (f (getLink c l))

def otherLink : Link → Link
  | .la => .lb
  | .lb => .la

/-- Side X is reached on LA, Side Y on LB (R27, R95). -/
def holderOf : Link → Holder
  | .la => .x
  | .lb => .y

def holderLink : Holder → Option Link
  | .none => none
  | .x => some .la
  | .y => some .lb

def modCnt (l : CLink) (f : LinkCounters → LinkCounters) : CLink := { l with cnt := f l.cnt }

/-- A 32-bit counter of the cell advances and wraps (R140). -/
def wrapInc (w : Word) : Word := w + 1

/-! Parameters (R195, R242) -/

/-- Reset value of a parameter index (R195, R242). -/
def paramReset (i : Nat) : Nat :=
  match i with
  | 0x03 => 2 | 0x04 => 256 | 0x05 => 125000 | 0x07 => 12500 | 0x09 => 625
  | 0x12 => 2 | 0x13 => 4 | 0x1A => 20 | 0x1C => 1250 | 0x1D => 125
  | 0x40 => 0xFC | 0x41 => 10 | 0x42 => 50 | 0x43 => 41943 | 0x45 => 115 | 0x46 => 80
  | 0x5C => 0x3F800000 | 0x5D => 0x3F800000 | 0x5E => 0x3F800000 | 0x5F => 0x3F800000
  | 0x63 => 0x447A0000 | 0x64 => 0x447A0000 | 0x70 => 3600 | 0x71 => 32
  | _ => 0

/-- The value a parameter holds. -/
def cp (c : Cell) (i : Nat) : Nat := (tget (BitVec.ofNat 32 (paramReset i)) i c.params).toNat

/-- CP_CYCLE. -/
def cpN (c : Cell) : Nat := cp c 0x07

/-- Access class of an index (R195, R242). -/
inductive Access | undef | ro | rw | wo
  deriving DecidableEq, Repr

def accessOf (i : Nat) : Access :=
  if i ≤ 1 then .ro
  else if i = 0x15 then .wo
  else if (2 ≤ i && i ≤ 9) || (0x10 ≤ i && i ≤ 0x14) || (0x18 ≤ i && i ≤ 0x1D) || i = 0x3F
      || (0x40 ≤ i && i ≤ 0x46) || (0x48 ≤ i && i ≤ 0x50) || (0x58 ≤ i && i ≤ 0x64)
      || (0x68 ≤ i && i ≤ 0x71) then .rw
  else .undef

/-- The indices marked "unsealed" (R195, R198). -/
def unsealedIdx (i : Nat) : Bool := i = 7 || i = 8 || i = 9 || i = 0x13

/-- A binary32 value is finite and within two bounds. -/
def f32In (v lo hi : Nat) : Bool :=
  let x : F32 := BitVec.ofNat 32 v
  B32.finite x && B32.le (BitVec.ofNat 32 lo) x && B32.le x (BitVec.ofNat 32 hi)

def natIn (v lo hi : Nat) : Bool := lo ≤ v && v ≤ hi

/-- The range of a writable parameter, for the CP_CYCLE `n` that goes with it (R195, R242). -/
def paramInRange (n i v : Nat) : Bool :=
  match i with
  | 0x02 => v < 4
  | 0x03 => natIn v 2 40
  | 0x04 => natIn v 64 4096
  | 0x05 => v ≤ 125000
  | 0x06 => v ≤ 1
  | 0x07 => natIn v 12500 125000 && v % 125 = 0
  | 0x08 => v ≤ n - 1
  | 0x09 => v ≤ n - 1
  | 0x10 => natIn v 1 16383
  | 0x11 => natIn v 1 16383
  | 0x12 => natIn v 1 8
  | 0x13 => natIn v 2 16
  | 0x14 => v ≤ 1
  | 0x15 => v < 4
  | 0x18 => natIn v 100 4095
  | 0x19 => natIn v 100 4095
  | 0x1A => natIn v 1 255
  | 0x1B => v ≤ 4095
  | 0x1C => v ≤ 4095
  | 0x1D => v ≤ 255
  | 0x40 => v < 256
  | 0x41 => natIn v 1 255
  | 0x42 => v ≤ 1000
  | 0x43 => v ≤ 8388607
  | 0x44 => let s := signed 32 v; -10000 ≤ s && s ≤ 10000
  | 0x45 => natIn v 60 150
  | 0x46 => natIn v 20 150
  | 0x50 => v < 4
  | 0x60 => f32In v 0 0x41200000
  | 0x61 => f32In v 0 0x3F800000
  | 0x62 => f32In v 0 0x42C80000
  | 0x63 => f32In v 0x3F800000 0x461C4000
  | 0x64 => f32In v 0x3F800000 0x457FF000
  | 0x70 => natIn v 60 86400
  | 0x71 => natIn v 8 640
  | _ =>
    if natIn i 0x48 0x4F then v ≤ 1048575
    else if natIn i 0x58 0x5B then f32In v 0 0x41200000
    else if natIn i 0x5C 0x5F then f32In v 0x3727C5AC 0x461C4000
    else true

/-- The variant's code (R97, R195). -/
def variantCode : Variant → Nat
  | .half => 1
  | .full => 2
  | .node => 3

/-- What PARAM_READ returns for an index (R194, R195, R197). -/
def paramRead (c : Cell) (i : Nat) : Nat :=
  match accessOf i with
  | .undef => 0
  | .wo => 0
  | .ro => if i = 0 then 1 else variantCode c.variant
  | .rw => if i = 0x3F then (if c.sealed then c.tableCrc.toNat else 0) else cp c i

/-- Indices counted as 0 in the seal CRC (R197). -/
def sealZero (i : Nat) : Bool := i = 0x14 || i = 0x15 || i = 0x44 || natIn i 0x48 0x4F

/-- The value of an index as the seal CRC takes it (R197). -/
def sealValue (c : Cell) (i : Nat) : Nat :=
  if accessOf i != .rw || sealZero i then 0
  else if i = 2 then fld (cp c 2) 1 1
  else cp c i

/-- The CRC of R197 over indices 0x0002 to 0x003E and 0x0040 to 0x007F. -/
def sealCrc (c : Cell) : Nat :=
  crc32c (((List.range 128).filter fun i => 2 ≤ i && i != 0x3F).flatMap fun i => toBE 4 (sealValue c i))

/-- The seal conditions 2 to 4 of R197; 0 when all hold, else the first that fails. -/
def sealFail (c : Cell) : Nat :=
  if c.variant = .node then 0
  else if cp c 0x10 = 0 || cp c 0x11 = 0 || cp c 0x18 = 0 then 2
  else if !(cp c 0x19 > cp c 0x18 + cp c 0x1A) then 3
  else if !(3 * cp c 0x10 + cp c 0x11 + 512 ≤ cpN c) then 4
  else 0

/-! Time -/

/-- The link whose time the timebase follows. -/
def steerLink (c : Cell) : CLink := getLink c c.steer

/-- The current cycle of the timebase. -/
def cellCyc (c : Cell) : Cycle := (steerLink c).cyc

/-- TIME_QUAL (R48, R160, R164). -/
def timeQual (c : Cell) : Bool := (steerLink c).qual && !c.bypass

/-- The choice of R160; a link without signal yields to a qualified one that has it (R163). -/
def steerChoice (c : Cell) : Link :=
  let pref : Link := if c.steerPref = 1 then .lb else .la
  let q (l : Link) : Bool := (getLink c l).qual
  let byPref : Link := if q pref then pref else if q (otherLink pref) then otherLink pref else pref
  let l := match holderLink c.holder with
    | some l => if q l then l else byPref
    | none => byPref
  let o := otherLink l
  if !(getLink c l).signal && q o && (getLink c o).signal then o else l

/-- Make the choice of R160 afresh; it takes effect at the next tick 0 of the new link's time. -/
def resteer (c : Cell) : Cell :=
  let l := steerChoice c
  { c with steerNext := if l = c.steer then none else some l }

/-! Events (R144, R588) -/

/-- Raise a cell event record; a ninth overwrites the oldest (R144). -/
def cellEvent (c : Cell) (code : Nat) (tick : Int) (detail : Nat) : Cell :=
  let e : CellEvent := { seq := c.evtSeq, code := code, cycle := cellCyc c, tick := tick.toNat, detail := BitVec.ofNat 64 detail }
  let full := c.events.length ≥ 8
  let evs := (if full then c.events.drop 1 else c.events) ++ [e]
  { c with
    events := evs
    evtSeq := (c.evtSeq + 1) % 256
    lostDue := c.lostDue || full
    cnt := if full then { c.cnt with eventLost := wrapInc c.cnt.eventLost } else c.cnt }

/-- Time qualified, and no self-calibration runs: what a node's sub-samples need (R225). -/
def sampleOk (c : Cell) : Bool := timeQual c && !c.meas.calRun

/-- Apply a change of state that happens at a tick of the current cycle, and note what it does to `sampleOk`. -/
def noteOk (tick : Int) (f : Cell → Cell) (c : Cell) : Cell :=
  let d := f c
  if sampleOk d = sampleOk c then d else { d with okLog := ((cellCyc d, tick, sampleOk d) :: d.okLog).take 16 }

/-- `sampleOk` as it stood at a tick of the current cycle, by the changes noted. -/
def okAt (c : Cell) (tick : Int) : Bool :=
  let rel (e : Cycle × Int × Bool) : Int := e.2.1 - cycleDiff (cellCyc c) e.1 * (steerLink c).clen
  match c.okLog.find? fun e => rel e ≤ tick with
  | some e => e.2.2
  | none => match c.okLog.getLast? with
    | some e => !e.2.2
    | none => sampleOk c

/-- TEMP_WARN (R222): set above either threshold, cleared when each is 5 °C below its own. -/
def tempWarn (c : Cell) : Cell :=
  let d : Int := cp c 0x45
  let n : Int := cp c 0x46
  let m := c.meas
  let hot := m.tempDie > d * 64 || m.tempNtc > n * 64
  let cool := m.tempDie ≤ (d - 5) * 64 && m.tempNtc ≤ (n - 5) * 64
  { c with meas := { m with tempWarn := if hot then true else if cool then false else m.tempWarn } }

/-- A change of {g_cal, o_cal, CP_SVC_GAIN} completes at a tick of the current cycle of a link (R210). -/
def changeSet (c : Cell) (cycle : Cycle) (tick : Int) : Cell :=
  { c with meas := { c.meas with sets := ((cycle, tick, c.meas.gCal, c.meas.oCal, signed 32 (cp c 0x44)) :: c.meas.sets).take 8 } }

/-! Gate unit -/

/-- Levels of G1 (bit 0) to G4 of a gate state (R170). -/
def gatePattern (v : Variant) : GateState → BitVec 4
  | .blocked => 0
  | .bypassed => match v with | .half => 0b0010#4 | .full => 0b1010#4 | .node => 0
  | .insPos => match v with | .half => 0b0001#4 | .full => 0b1001#4 | .node => 0
  | .insNeg => match v with | .full => 0b0110#4 | _ => 0

/-- The gates of a pair as a mask: A is G1 and G2, B is G3 and G4 (R170). -/
def pairMask (b : Bool) : BitVec 4 := if b then 0b1100#4 else 0b0011#4

/-- Gates that faulted pairs keep low (R179, R182). -/
def faultMask (g : Gates) : BitVec 4 :=
  (if g.offA then pairMask false else 0) ||| (if g.offB then pairMask true else 0)

/-- Gates whose turn-on is scheduled. -/
def pendingOn (g : Gates) : BitVec 4 :=
  g.edges.foldl (fun m e => match e with | .turnOn _ i => m ||| (1#4 <<< i) | _ => m) 0

/-- Note the levels that change at a tick in the on-times and transition counts of R231, and the end of the
blanking that a turn-on starts (R179). -/
def noteLevels (blank : Nat) (g : Gates) (new : BitVec 4) (tick : Int) : Gates :=
  let off i := g.g.getLsbD i && !new.getLsbD i
  let on i := !g.g.getLsbD i && new.getLsbD i
  { g with
    g := new
    onTicks := withIdx g.onTicks |>.map fun (i, t) =>
      if off i then t + (tick - ((g.onSince.getD i none).getD tick)) else t
    onSince := withIdx g.onSince |>.map fun (i, t) =>
      if off i then none else if on i then some tick else t
    blankTo := withIdx g.blankTo |>.map fun (i, t) => if on i then some (tick + blank) else t
    switched := withIdx g.switched |>.map fun (i, n) => if off i then n + 1 else n }

/-- Dead time in ticks: of the active set, or R164's on the bypass oscillator (31.25 ticks a period). -/
def deadTicks (c : Cell) : Nat :=
  if c.bypass then ceilDiv (ceilDiv (c.gates.active.deadtime * 88) 2500 * 125) 4 else c.gates.active.deadtime

/-- All gates low at once with no dead time, and every scheduled edge cancelled (R168). -/
def gatesOff (c : Cell) (tick : Int) : Cell :=
  { c with gates := { noteLevels (cp c 0x1C) c.gates 0 tick with state := .blocked, edges := [] } }

/-- The fused safe pattern within 2 ticks, bypassing dead time (R175, R182, R184). -/
def safePattern (c : Cell) (tick : Int) : Cell :=
  let f := fld (c.fuseA ||| c.fuseB).toNat 278 275
  { c with gates := { noteLevels (cp c 0x1C) c.gates (BitVec.ofNat 4 f) tick with state := .blocked, base := .blocked, edges := [] } }

/-- A transition of R171 to a gate state at a tick: outgoing gates low, incoming ones after the dead time. -/
def gateTo (c : Cell) (dest : GateState) (tick : Int) : Cell :=
  if dest = .blocked then gatesOff c tick else
  let g := c.gates
  let want := gatePattern c.variant dest &&& ~~~(faultMask g)
  let goal := (g.g ||| pendingOn g)
  let moved b := (goal &&& pairMask b) != (want &&& pairMask b)
  let mask := (if moved false then pairMask false else 0) ||| (if moved true then pairMask true else 0)
  -- pairs that move: outgoing gates go low, scheduled turn-ons of the pair are dropped
  let keep := g.edges.filter fun e => match e with | .turnOn _ i => !mask.getLsbD i | _ => true
  let now := g.g &&& (~~~mask ||| want)
  let ups := (List.range 4).filter fun i => mask.getLsbD i && want.getLsbD i && !now.getLsbD i
  let d := deadTicks c
  { c with gates := { noteLevels (cp c 0x1C) g now tick with
      state := dest, edges := keep ++ ups.map fun i => GateEdge.turnOn (tick + d) i } }

/-- Drop the transitions of a running trim pulse (R176). -/
def cutTrim (c : Cell) : Cell :=
  { c with gates := { c.gates with edges := c.gates.edges.filter fun e => match e with | .trim .. => false | _ => true } }

/-- Latched fault of R190, R193: a desaturation or over-voltage fault. -/
def faulted (c : Cell) : Bool := c.gates.dsat || c.gates.ov

/-- States in which orders and protection move the outputs (R185). -/
def outputsLive (c : Cell) : Bool :=
  c.mode = .ready || c.mode = .active || c.mode = .hold || c.mode = .safeBypass

/-- States in which the cell receives frames (R185, R553). -/
def receives (c : Cell) : Bool :=
  !(c.mode = .unpowered || c.mode = .fuseLoad || c.mode = .eepromLoad || c.mode = .frozen)

/-- STAGE2 and gate enable as R166 asks of a power cell; a node needs neither (R187). -/
def stageOk (c : Cell) : Bool := c.variant = .node || (c.stage = 2 && cp c 0x14 = 1)

/-- CONFIGURED from PROVING, and READY from CONFIGURED, when their conditions hold at a tick (R185, R186, R187); a
node's outputs keep the fused safe pattern (R10). -/
def settle (tick : Int) (c : Cell) : Cell :=
  let provenLink := c.la.mode = .proven || c.lb.mode = .proven
  let c := if c.mode = .proving && provenLink && c.sealed then { c with mode := .configured } else c
  if c.mode = .configured && timeQual c && stageOk c && !faulted c then
    if c.variant = .node then { c with mode := .ready } else
    let c := gatesOff c tick
    { c with mode := .ready, gates := { c.gates with base := .blocked } }
  else c

/-- The lease ends; a change of HOLDER counts (R302, R308). -/
def dropLease (c : Cell) : Cell :=
  { c with
    holder := .none, lc := 0
    cnt := if c.holder = .none then c.cnt else { c.cnt with leaseChanges := wrapInc c.cnt.leaseChanges } }

/-- Enter SAFE_BYPASS from READY, ACTIVE or HOLD (R186). -/
def toSafeBypass (c : Cell) : Cell :=
  if c.mode = .ready || c.mode = .active || c.mode = .hold then { c with mode := .safeBypass } else c

/-- Every link back in LISTEN returns JOINING and PROVING to LISTEN (R186) and drops staged values (R198). -/
def allListen (c : Cell) : Cell :=
  if c.la.mode = .listen && c.lb.mode = .listen then
    { c with
      mode := if c.mode = .joining || c.mode = .proving then .listen else c.mode
      staged := [] }
  else c

/-- A link returns to LISTEN: keys erased, offsets 0, qualification lost (R85, R122, R123). -/
def linkToListen (c : Cell) (l : Link) : Cell :=
  resteer (allListen (modLink c l fun x =>
    { x with
      mode := .listen, qual := false, first := none, last := none, placed := false, adj := 0
      dnOfs := 0, upOfs := 0, pendOfs := none, keys := [], session := none, handle := 0
      slot := none, giveUp := none, subs := [], asked := none, exch := none, pick := none
      window := none, recs := [], late := [], since := 0, deltas := [], treeId := none
      coast := 0, silent := 0, answers := [] }))

/-- The clock core leaves for the bypass oscillator (R153, R164, R188, R189). -/
def goBypass (c : Cell) (cause : Nat) (tick : Int) : Cell :=
  if c.bypass then c else
  let c := { c with bypass := true, locked := false, bypassCycles := 0 }
  let c := modLink c c.steer fun x => { x with qual := false, first := none }
  let c := cellEvent c 0x10 tick (cause * 2 ^ 56)
  let c := if outputsLive c && !c.gates.blocked && c.variant != .node then
      { gateTo (cutTrim c) .bypassed tick with preempt := some tick } else c
  resteer (if c.variant = .node then c else toSafeBypass c)

/-! Keys (R118, R595, R596) -/

/-- The 96-bit IV of R118. -/
def iv (b0 treeId b2 b3 : Nat) (cycle : Cycle) : List Byte :=
  [BitVec.ofNat 8 b0, BitVec.ofNat 8 treeId, BitVec.ofNat 8 b2, BitVec.ofNat 8 b3] ++ toBE 4 cycle.toNat ++ zeros 4

/-- The leftmost `w` bits of a 128-bit tag. -/
def leftTag (w : Nat) (t : BitVec 128) : Nat := t.toNat >>> (128 - w)

/-- P_K of R596: the largest power of two, at most 2^30, for which P_K · N · 0.8 ns ≤ 86,400 s. -/
def rollPeriod (n : Nat) : Nat :=
  (List.range 31).foldl (fun p i => if 2 ^ i * n * 8 ≤ 86400 * 10 ^ 10 then 2 ^ i else p) 1

/-- ASCII bytes of a label. -/
def ascii (s : String) : List Byte := s.toList.map fun ch => BitVec.ofNat 8 ch.toNat

/-- The leftmost 128 bits of a hash. -/
def left128 (h : BitVec 256) : Key := BitVec.ofNat 128 (h.toNat >>> 128)

/-- The 32 bytes of a hash. -/
def hashBytes (h : BitVec 256) : List Byte := toBE 32 h.toNat

/-- The session key that follows `k` at a cycle (R596). -/
def nextSession (k : Key) (cycle : Cycle) : Key :=
  left128 (sha256 ([0, 0, 0, 1] ++ toBE 16 k.toNat ++ ascii "QZ-NEXT" ++ toBE 4 cycle.toNat))

/-- The one-step key derivation of R595 with its label. -/
def deriveKey (z : List Byte) (label : String) (transcriptHash : BitVec 256) : Key :=
  left128 (sha256 ([0, 0, 0, 1] ++ z ++ ascii label ++ hashBytes transcriptHash))

/-- The key in force at `at_`, from the key in force at `cur`, when at most one boundary lies between. -/
def keyAt (k : Key) (n : Nat) (cur at_ : Cycle) : Key :=
  if cycleDiff at_ cur ≤ 0 then k
  else if at_.toNat % rollPeriod n = 0 then nextSession k at_
  else if at_.toNat / rollPeriod n ≠ cur.toNat / rollPeriod n then
    nextSession k (BitVec.ofNat 32 (at_.toNat / rollPeriod n * rollPeriod n))
  else k

/-- The first 32-bit cycle difference test: `c` has been reached at `cur`. -/
def reached (cur c : Cycle) : Bool := 0 ≤ cycleDiff cur c

/-- APPLY or FROM lies from CYCLE + 2 to CYCLE + 65,536 (R130). -/
def applyOk (cycle apply : Cycle) : Bool := let d := (apply - cycle).toNat; 2 ≤ d && d ≤ 65536

end Sys2Proof.Machine
end

