-- ==== Sys2Proof/Machine/CellMgmt.lean ====
section
/-! DEFINITION. What a cell does on each downstream management record (R127 to R132, R194, R198,
R230, R241, R594, R595, R603, R604, R612, R647). -/

namespace Sys2Proof.Machine

/-- What the handlers know of the frame that carries a record. -/
structure FrameCtx where
  link   : Link
  cycle  : Cycle
  treeId : BitVec 8
  /-- link-time tick, from the start of the current cycle, at which the checks are complete -/
  done   : Int
  /-- TIME_QUAL-independent: DSAT levels when the checks are complete (R181) -/
  dsat   : BitVec 4
  /-- capacitor voltage at that tick, 1 mV (R181) -/
  vcap   : Int
  iarm   : Int
  /-- the frame set JOIN_OPEN, and the link holds the tree key -/
  joinOpen : Bool
  keyed  : Bool

/-- One parsed management record: offset in MGMT, MTYPE, DEST, LEN, payload. -/
structure MRec where
  ofs   : Nat
  mtype : Nat
  dest  : Nat
  len   : Nat
  res   : Nat
  body  : List Byte

/-- Parse the management area; the Bool says a record ran past the end (R128). -/
def parseMgmt : Nat → Nat → List Byte → List MRec × Bool
  | 0, _, _ => ([], false)
  | f + 1, ofs, bs =>
    match bs with
    | [] => ([], false)
    | t :: _ =>
      if t = 0 then ([], false)
      else if bs.length < 4 then ([], true)
      else
        let n := byteAt bs 2
        if bs.length < 4 + n then ([], true)
        else
          let r : MRec := { ofs := ofs, mtype := t.toNat, dest := byteAt bs 1, len := n, res := byteAt bs 3, body := sub bs 4 n }
          let (rs, e) := parseMgmt f (ofs + 4 + n) (bs.drop (4 + n))
          (r :: rs, e)

/-- LEN that the table of R131 gives a record type; a COUNT beyond the range the table gives makes the length wrong
(DEDUCED, assumption 71). -/
def lenOk (r : MRec) : Bool :=
  let h := r.dest = 0x40
  let slot := r.dest < 64
  match r.mtype with
  | 0x01 => r.len = 24
  | 0x02 => r.len = 10
  | 0x03 => natIn r.len 4 58
  | 0x04 => r.len = 14
  | 0x05 => r.len = 12
  | 0x06 => r.len = 12
  | 0x07 => if h then r.len = 10 else r.len = 8
  | 0x08 => if h then r.len = 30 else r.len = 28
  | 0x09 => r.len = 4
  | 0x0A => r.len = 4
  | 0x0B => let n := byteAt r.body 2; natIn n 1 12 && r.len = 8 + 4 * n
  | 0x0C => r.len = 4 && natIn (byteAt r.body 2) 1 4
  | 0x0D => r.len = 4
  | 0x0E => natIn r.len 12 56
  | 0x0F => r.len = 4 && natIn (byteAt r.body 3) 1 20
  | 0x10 => r.len = 8
  | 0x11 => r.len = 4
  | 0x12 => r.len = 8
  | 0x13 => let n := byteAt r.body 2; natIn n 1 3 && r.len = 12 + 4 * n
  | _ => slot && false

/-- Secured record types (R131). -/
def securedType (t : Nat) : Bool :=
  t = 0x04 || t = 0x05 || t = 0x06 || t = 0x08 || t = 0x09 || t = 0x0A || t = 0x0B || t = 0x0E || t = 0x10 || t = 0x13

/-- The session key in force at the frame's cycle (R596). -/
def sessionAt (c : Cell) (f : FrameCtx) : Option Key :=
  let x := getLink c f.link
  x.session.map fun k => keyAt k (cpN c) x.cyc f.cycle

/-- IV of a secured record (R118). -/
def recIv (f : FrameCtx) (r : MRec) : List Byte := iv 0x04 f.treeId.toNat r.dest r.ofs f.cycle

/-- Header of a record as it stands in the area (R127). -/
def recHead (r : MRec) : List Byte := [BitVec.ofNat 8 r.mtype, BitVec.ofNat 8 r.dest, BitVec.ofNat 8 r.len, BitVec.ofNat 8 r.res]

/-- The MTAG of a secured record verifies (R129). -/
def mtagOk (c : Cell) (f : FrameCtx) (r : MRec) : Bool :=
  match sessionAt c f with
  | none => false
  | some k =>
    let tag := beAt r.body (r.len - 4) 4
    let pre := r.body.take (r.len - 4)
    if r.mtype = 0x08 then
      let aad := recHead r ++ pre.take (pre.length - 16)
      let ct := pre.drop (pre.length - 16)
      let out := gcm k (recIv f r) aad (gcmPlain k (recIv f r) ct)
      decide (out.1 = ct) && leftTag 32 out.2 = tag
    else leftTag 32 (gmac k (recIv f r) (recHead r ++ pre)) = tag

/-- MGMT_REJECT increments once (R128). -/
def mgmtReject (c : Cell) (l : Link) : Cell := modLink c l fun x => modCnt x fun n => { n with mgmtReject := wrapInc n.mgmtReject }

/-! Parameter writes (R194, R197, R174, R175, R181, R210) -/

/-- The writes of a record: index and value. -/
def paramList (r : MRec) (first count base : Nat) : List (Nat × Nat) :=
  (List.range count).map fun j => (first + j, beAt r.body (base + 4 * j) 4)

/-- The table with values written to it. -/
def withValues (c : Cell) (ws : List (Nat × Nat)) : Cell :=
  { c with params := ws.foldl (fun t w => if w.1 = 0x3F || w.1 = 0x15 then t else tset w.1 (BitVec.ofNat 32 w.2) t) c.params }

/-- Reason code for which an index refuses a PARAM_WRITE; 0 for none (R194, R588). -/
def writeReason (c : Cell) (after : Cell) (w : Nat × Nat) : Nat :=
  if accessOf w.1 = .undef || accessOf w.1 = .ro then 0x01
  else if !paramInRange (cpN after) w.1 w.2 then 0x02
  else if c.sealed && unsealedIdx w.1 then 0x03
  else if c.sealed && sealFail after != 0 && (w.1 = 0x10 || w.1 = 0x11 || natIn w.1 0x18 0x1A) then 0x04
  else if w.1 = 0x3F && w.2 = 0 && !(c.mode = .proving || c.mode = .configured || c.mode = .ready) then 0x05
  else 0

/-- CP_FAULT_CLEAR (R181): bits whose condition persists leave their fault set and raise FAULT_PERSISTS. The outputs do
not change, a blocked cell's among them, whose BYPASSED gates then wait for the next cause (DEDUCED, assumption 74). -/
def faultClear (c : Cell) (v : Nat) (dsat : BitVec 4) (vcap tick : Int) : Cell :=
  let d := bit v 0 && c.gates.dsat
  let o := bit v 1 && c.gates.ov
  let dOk := d && dsat = 0
  let oOk := o && vcap < ((cp c 0x18 : Int) - cp c 0x1A) * 1000
  let c := { c with gates := { c.gates with
    dsat := c.gates.dsat && !dOk
    offA := c.gates.offA && !dOk
    offB := c.gates.offB && !dOk
    ov := c.gates.ov && !oOk } }
  let left := b2n (o && !oOk) * 2 ^ 63 + b2n (d && !dOk) * 2 ^ 62
  if left = 0 then c else cellEvent c 0x04 tick left

/-- A seal asked for by a nonzero CP_TABLE_CRC, judged after the whole record (R197). -/
def trySeal (c : Cell) (v : Nat) (tick : Int) : Cell :=
  if v = 0 then
    let c := if c.mode = .ready && c.variant != .node then safePattern c tick else c
    -- the lease runs from CONFIGURED onward (R302)
    let c := dropLease c
    { c with sealed := false, tableCrc := 0
             mode := if c.mode = .configured || c.mode = .ready then .proving else c.mode }
  else if v ≠ sealCrc c then cellEvent c 0x61 tick (1 * 2 ^ 56)
  else if sealFail c ≠ 0 then cellEvent c 0x61 tick (sealFail c * 2 ^ 56)
  else { c with sealed := true, tableCrc := BitVec.ofNat 32 v }

/-- The effects of one applied value beyond the table. -/
def applyValue (f : FrameCtx) (c : Cell) (w : Nat × Nat) : Cell :=
  let power := c.variant != .node
  match w.1 with
  | 0x02 =>
    -- bit [0], the mode in use, is read-only; the mode written is recorded in the identity block (R151)
    let v := fld w.2 1 1
    { c with params := tset 0x02 (BitVec.ofNat 32 (v * 2 + b2n c.dll)) c.params
             writes := ⟨.eeprom, 248, [BitVec.ofNat 8 v, ~~~ BitVec.ofNat 8 v]⟩ :: c.writes }
  | 0x09 => { c with windowWritten := true }
  | 0x14 =>
    -- BYPASS_LATCHED ranks above the safe pattern (R182)
    if power && w.2 = 0 && !c.gates.latched then
      let c := safePattern c f.done
      { c with mode := if outputsLive c then .configured else c.mode }
    else c
  | 0x15 => if power then faultClear c w.2 f.dsat f.vcap f.done else c
  | 0x44 => changeSet c (getLink c f.link).cyc f.done
  | 0x45 => tempWarn c
  | 0x46 => tempWarn c
  | 0x3F => trySeal c w.2 f.done
  | _ => c

/-- The pending set of the gate unit takes CP_DEADTIME and CP_MIN_PULSE of the table as one commit (R174). -/
def commitGates (c : Cell) (cycle : Cycle) (tick : Int) : Cell :=
  let p : GateSet := { c.gates.pending with deadtime := cp c 0x10, minPulse := cp c 0x11 }
  { c with gates := { c.gates with pending := p, commits := ((cycle, tick, p) :: c.gates.commits).take 8 } }

/-- PARAM_WRITE (R194): refused whole with its first offending index, or applied as one unit. -/
def paramWrite (f : FrameCtx) (c : Cell) (ws : List (Nat × Nat)) : Cell :=
  let after := withValues c ws
  match ws.find? (fun w => writeReason c after w != 0) with
  | some w => cellEvent c 0x60 f.done (w.1 * 2 ^ 48 + writeReason c after w * 2 ^ 40)
  | none =>
    let c' := ws.foldl (applyValue f) after
    let c' := if c.variant != .node && ws.any (fun w => w.1 = 0x10 || w.1 = 0x11) then
        commitGates c' (getLink c f.link).cyc f.done else c'
    let c' := if c.sealed && c'.sealed && !(ws.any fun w => w.1 = 0x3F) && ws.any (fun w => !sealZero w.1) then
        { c' with tableCrc := BitVec.ofNat 32 (sealCrc c') } else c'
    settle f.done c'

/-- Values that will be in force at a cycle, for R198's judgement: staged ones up to it, then the record's. -/
def stagedBy (c : Cell) (apply : Cycle) (ws : List (Nat × Nat)) : Cell :=
  let due := c.staged.filter fun p => reached apply p.2.2 && !(ws.any fun w => w.1 = p.1)
  withValues c (due.map (fun p => (p.1, p.2.1.toNat)) ++ ws)

/-- Reason code for which an index refuses a PARAM_STAGE; 0 for none (R198). -/
def stageReason (c after : Cell) (w : Nat × Nat) : Nat :=
  if accessOf w.1 = .undef || accessOf w.1 = .ro then 0x01
  else if !(natIn w.1 7 9 || w.1 = 0x13) then 0x03
  else if !paramInRange (cpN after) w.1 w.2 then 0x02
  else if c.sealed && sealFail after != 0 then 0x04
  else 0

/-- PARAM_STAGE (R198). -/
def paramStage (f : FrameCtx) (c : Cell) (ws : List (Nat × Nat)) (apply : Cycle) : Cell :=
  let after := stagedBy c apply ws
  match ws.find? (fun w => stageReason c after w != 0) with
  | some w => cellEvent c 0x60 f.done (w.1 * 2 ^ 48 + stageReason c after w * 2 ^ 40)
  | none =>
    let old := c.staged.filter fun p => !(ws.any fun w => w.1 = p.1)
    { c with staged := old ++ ws.map fun w => (w.1, BitVec.ofNat 32 w.2, apply) }

/-- Staged values whose APPLY is the cycle that starts are written as one unit (R198). -/
def applyStaged (c : Cell) (cycle : Cycle) : Cell :=
  let due := c.staged.filter fun p => reached cycle p.2.2
  if due.isEmpty then c else
  let c := withValues c (due.map fun p => (p.1, p.2.1.toNat))
  let c := { c with staged := c.staged.filter (fun p => !reached cycle p.2.2)
                    windowWritten := c.windowWritten || due.any (fun p => p.1 = 9) }
  if c.sealed then { c with tableCrc := BitVec.ofNat 32 (sealCrc c) } else c

/-! Credentials and patches (R602 to R604) -/

/-- Byte addresses of the credential copies and patch banks (R602). -/
def credCopy (i : Nat) : Nat := i * 0x100
def patchBankAt (b : Nat) : Nat := if b = 0 then 0x400 else 0x4200

/-- The credential area: OWNER_KEY0 64, OWNER_KEY1 64, CERT 112, LEVEL 4, CRC 4 (R602). -/
def credArea (m : Stores) : List Byte :=
  let a := rdBytes m .nv (credCopy 0) 248
  let b := rdBytes m .nv (credCopy 1) 248
  if beAt a 244 4 = crc32c (a.take 244) then a
  else if beAt b 244 4 = crc32c (b.take 244) then b
  else zeros 248

/-- Both credential copies are empty: neither holds an area whose CRC verifies (R602, R638). -/
def credEmpty (m : Stores) : Bool :=
  let bad (a : Nat) : Bool := let x := rdBytes m .nv a 248; beAt x 244 4 != crc32c (x.take 244)
  bad (credCopy 0) && bad (credCopy 1)

def credKey0 (m : Stores) : List Byte := (credArea m).take 64
def credKey1 (m : Stores) : List Byte := sub (credArea m) 64 64
def credCert (m : Stores) : List Byte := sub (credArea m) 128 112

/-- A public key of the area verifies a signature; an empty key verifies none (R602). -/
def keyVerifies (key : List Byte) (h : BitVec 256) (sig : List Byte) : Bool := !allZero key && ecdsaVerify key h sig

/-- The key that signs firmware patches (R603): Rengaux's, whose bytes the spec does not give. -/
def rengauxKey : List Byte := Config.rengauxKey

/-- The check of a whole cell object: STATUS of R604. -/
def objectStatus (c : Cell) (m : Stores) (o : List Byte) : Nat :=
  let size := beAt o 12 4
  let cred := byteAt o 4 = 2
  let h := sha256 (o.take (size - 64))
  let sig := o.drop (size - 64)
  let sigOk := if cred then keyVerifies (credKey0 m) h sig || keyVerifies (credKey1 m) h sig else ecdsaVerify rengauxKey h sig
  let level := beAt o 8 4
  let devId := fld (c.fuseA ||| c.fuseB).toNat 351 288
  if !(if cred then size = 328 else natIn size 96 15872) then 2
  else if beAt o 0 4 ≠ 0x515A5054 || !sigOk then 3
  else if cred && (byteAt o 5 ≠ 0 || beAt o 16 8 ≠ devId) then 4
  else if !cred && (byteAt o 5 ≠ variantCode c.variant || beAt o 16 8 ≠ 0) then 4
  else if level ≤ (if cred then beAt (credArea m) 240 4 else c.patch.toNat) then 5
  else 0

/-- PATCH_DATA (R603): bytes in order into the bank not in use; the last one checks and commits. -/
def patchData (m : Stores) (f : FrameCtx) (c : Cell) (ofs : Nat) (d : List Byte) : Cell :=
  let ack c st := modLink c f.link fun x => { x with answers := x.answers ++ [.patchAck (BitVec.ofNat 32 ofs) st] }
  let got := if ofs = 0 then [] else c.patchGot
  if ofs ≠ got.length then ack c 1 else
  let got := got ++ d
  let c := { c with patchGot := got, writes := ⟨.nv, patchBankAt (1 - c.patchBank) + ofs, d⟩ :: c.writes }
  let size := beAt got 12 4
  if got.length < 24 then ack c 0
  else if !(if byteAt got 4 = 2 then size = 328 else natIn size 96 15872) then ack { c with patchGot := [] } 2
  else if got.length < size then ack c 0
  else
    let o := got.take size
    let st := objectStatus c m o
    let level := beAt o 8 4
    let c := { c with patchGot := [] }
    let c :=
      if st ≠ 0 then c
      else if byteAt o 4 = 2 then
        let area := sub o 24 240 ++ toBE 4 level
        let whole := area ++ toBE 4 (crc32c area)
        { c with writes := ⟨.nv, credCopy 1, whole⟩ :: ⟨.nv, credCopy 0, whole⟩ :: c.writes }
      else { c with patchNext := BitVec.ofNat 32 level }
    cellEvent (ack c st) 0x81 f.done (st * 2 ^ 56 + level * 2 ^ 24)

/-! Joining (R96 to R101, R592, R594, R595) -/

/-- The bytes of a KIND received in order of INDEX. -/
def kindBytes (t : Table (List Byte)) (kind : Nat) : List Byte :=
  (t.filter fun p => p.1 / 256 = kind).flatMap (·.2)

/-- 19-byte upstream chunks of a KIND, the last padded with zeros (R594). -/
def chunksOf : Nat → Nat → Nat → List Byte → List (Nat × Nat × List Byte)
  | 0, _, _, _ => []
  | n + 1, kind, i, bs => (kind, i, padTo 19 bs) :: chunksOf n kind (i + 1) (bs.drop 19)

/-- The transcript of R594. -/
def transcript (cellDev dirDev : Nat) (nonce : BitVec 64) (dirNonce cellKey dirKey : List Byte) (cellId : Nat) (window : Cycle) : List Byte :=
  toBE 8 cellDev ++ toBE 8 dirDev ++ toBE 8 nonce.toNat ++ dirNonce ++ cellKey ++ dirKey ++ toBE 2 cellId ++ toBE 4 window.toNat

/-- The director's certificate as the cell accepts it (R591, R592). -/
def dirCertOk (m : Stores) (l : Link) (cert : List Byte) : Bool :=
  let h := sha256 (cert.take 48)
  let sig := cert.drop 48
  byteAt cert 0 = 1 && byteAt cert 1 = 2 && beAt cert 2 2 = (match l with | .la => 0x8000 | .lb => 0x8001)
    && [0x3072, 0x1536, 0x0768].contains (beAt cert 12 2) && byteAt cert 14 = 0
    && (keyVerifies (credKey0 m) h sig || keyVerifies (credKey1 m) h sig)

/-- Private key and identity of the cell (R552). -/
def cellDevKey (c : Cell) : BitVec 256 := BitVec.ofNat 256 (fld (c.fuseA ||| c.fuseB).toNat 607 352)
def cellDevId (c : Cell) : Nat := fld (c.fuseA ||| c.fuseB).toNat 351 288

/-- A chunk of the director's data; when all has come, verify it and derive the session key (R594, R595). -/
def joinData (m : Stores) (f : FrameCtx) (c : Cell) (kind index : Nat) (d : List Byte) : Cell :=
  let x := getLink c f.link
  match x.exch with
  | none => c
  | some e =>
    let e := { e with chunks := tset (kind * 256 + index) d e.chunks, idle := 0 }
    let cert := kindBytes e.chunks 1
    let key := kindBytes e.chunks 2
    let sig := kindBytes e.chunks 3
    let nonce := key.take 16
    let pub := sub key 16 33
    let tr := transcript (cellDevId c) (beAt cert 4 8) x.nonce nonce (ecPublic e.eph) pub c.board.cellId e.window
    -- the cell's own signature can be sent once the director's nonce, key and identity are known
    let e := if key.length ≥ 49 && cert.length ≥ 112 && !(e.out.any fun o => o.1 = 3) && !e.derived && !(e.chunks.any fun p => p.1 = 0x400) then
        { e with out := e.out ++ chunksOf 4 3 0 (ecdsaSign (cellDevKey c) e.sigK (sha256 (0x43 :: tr)))
                 chunks := tset 0x400 [] e.chunks } else e
    if cert.length ≥ 112 && key.length ≥ 49 && sig.length ≥ 64 && !e.derived then
      let certOk := dirCertOk m f.link (cert.take 112)
      let sigOk := ecdsaVerify (sub cert 15 33) (sha256 (0x44 :: tr)) (sig.take 64) && onCurve pub
      if certOk && sigOk then
        let k := deriveKey (ecdhShared e.eph pub) "QZ-SESSION" (sha256 tr)
        modLink c f.link fun x => { x with exch := some { e with derived := true }, session := some k }
      else
        let c := linkToListen c f.link
        let c := modLink c f.link fun x => { x with nakWait := some 1024 }
        cellEvent c 0x93 f.done (b2n (f.link = .lb) * 2 ^ 55 + (if certOk then 2 else 1) * 2 ^ 40)
    else modLink c f.link fun x => { x with exch := some e }

/-- JOIN_ACK for the cell's nonce (R131, R96 step 5). -/
def joinAck (m : Stores) (fresh : Nat) (f : FrameCtx) (c : Cell) (r : MRec) : Cell :=
  let x := getLink c f.link
  let b := r.body
  match x.asked with
  | none => c
  | some w =>
    let d := drawScalar fresh 2
    let e : CellExchange := { handle := BitVec.ofNat 16 (beAt b 8 2), window := w, eph := d, sigK := drawScalar fresh 6
                              out := chunksOf 6 1 0 (credCert m) ++ chunksOf 2 2 0 (ecPublic d) }
    setLink c f.link { x with
      asked := none, mode := .joining, handle := e.handle, exch := some e
      pendOfs := some (BitVec.ofNat 32 (beAt b 14 4), beAt b 10 2, beAt b 12 2)
      subs := [(BitVec.ofNat 32 (beAt b 18 4), byteAt b 22, byteAt b 23)] }

/-- SLOT_GRANT (R80, R131): the slot and W from FROM; the join has succeeded (R98). -/
def slotGrant (f : FrameCtx) (c : Cell) (b : List Byte) : Cell :=
  let c := modLink c f.link fun x =>
    { x with slot := some (byteAt b 2, beAt b 3 3, BitVec.ofNat 32 (beAt b 6 4)), mode := .proving, backoff := 3, exch := none }
  { c with mode := if c.mode = .joining then .proving else c.mode }

/-- A JOIN_WINDOW record of a frame that sets JOIN_OPEN (R96 step 2, R132). -/
def joinWindow (fresh : Nat) (f : FrameCtx) (c : Cell) (b : List Byte) : Cell :=
  let j0 := beAt b 0 4
  let jl := beAt b 4 2
  if !f.joinOpen then c
  else if jl < 160 then mgmtReject c f.link
  else
    let x := getLink c f.link
    if !(x.mode = .listen || x.mode = .joining) then c else
    let x := { x with joinJ0 := j0, window := some (f.cycle, j0, jl) }
    let pick := match x.pick with
      | some (n + 1) => some n
      | some 0 => some ((Config.freeValue fresh 1).toNat % 2 ^ x.backoff)
      | none => some ((Config.freeValue fresh 1).toNat % 2 ^ x.backoff)
    setLink c f.link { x with pick := if x.mode = .listen then pick else x.pick }

/-- EEPROM_READ (R241): answered with EEPROM_DATA; a bad BLOCK or range with COUNT 0. -/
def eepromRead (f : FrameCtx) (c : Cell) (block ofs count : Nat) : Cell :=
  let size := match block with | 0 => 256 | 1 => 256 | _ => (8192 <<< c.board.sizeCode) - 512
  let bad := block > 2 || ofs + count > size
  let c := if bad then mgmtReject c f.link else c
  let as : List Answer :=
    if bad then [.eeprom block ofs 0]
    else if count > 15 then [.eeprom block ofs 15, .eeprom block (ofs + 15) (count - 15)]
    else [.eeprom block ofs count]
  modLink c f.link fun x => { x with answers := x.answers ++ as }

/-- EDGE_DIAG (R230). -/
def edgeDiag (f : FrameCtx) (c : Cell) (mode : Nat) : Cell :=
  if mode > 2 then mgmtReject c f.link
  else if mode = 1 && !(c.gates.state = .blocked) then cellEvent c 0x80 f.done (mode * 2 ^ 56)
  else { c with diagMode := mode, diagLost := 0, diagOut := if mode = 0 then [] else c.diagOut }

/-- EVENT_ACK (R144): the matching record goes from both links. -/
def eventAck (f : FrameCtx) (c : Cell) (seq : Nat) : Cell :=
  let hit := c.events.any fun e => e.seq = seq
  let c := { c with events := c.events.filter (fun e => e.seq != seq)
                    la := { c.la with rotation := c.la.rotation.filter (· != seq) }
                    lb := { c.lb with rotation := c.lb.rotation.filter (· != seq) } }
  if hit && c.lostDue then { cellEvent c 0x90 f.done (c.cnt.eventLost.toNat * 2 ^ 32) with lostDue := false } else c

/-- FREEZE (R612): safe pattern, then core, converters and transmitters stop. -/
def cellFreeze (f : FrameCtx) (c : Cell) : Cell :=
  let c := if c.gates.latched then c else safePattern c (f.done + 2)
  { c with mode := .frozen }

/-- The record addresses this cell on this link (R127). -/
def addressed (c : Cell) (f : FrameCtx) (r : MRec) : Bool :=
  let x := getLink c f.link
  if r.dest < 64 then
    (x.slot.any fun g => g.1 = r.dest) && f.keyed
  else if r.dest = 0x40 then
    (r.mtype = 0x03 || r.mtype = 0x04 || r.mtype = 0x07 || r.mtype = 0x08)
      && ((x.exch.any fun e => e.handle.toNat = beAt r.body 0 2) || (x.mode = .proving && x.handle.toNat = beAt r.body 0 2))
  else if r.dest = 0x41 then
    -- the answer to a join burst, or a refusal later in its exchange (R101)
    x.nonce.toNat = beAt r.body 0 8
      && ((r.mtype = 0x01 && x.asked.isSome) || (r.mtype = 0x02 && (x.mode = .joining || x.mode = .proving)))
  else if r.dest = 0xFF then r.mtype = 0x12 || (f.keyed && x.mode = .proven)
  else false

/-- A record addressed to the handle restarts the 80 cycles of R100. -/
def touchExchange (c : Cell) (f : FrameCtx) (r : MRec) : Cell :=
  if r.dest = 0x40 then modLink c f.link fun x => { x with exch := x.exch.map fun e => { e with idle := 0 } } else c

/-- What APPLY or FROM a record names, for R130. -/
def applyOf (r : MRec) : Option Cycle :=
  let h := if r.dest = 0x40 then 2 else 0
  match r.mtype with
  | 0x01 => some (BitVec.ofNat 32 (beAt r.body 14 4))
  | 0x04 => some (BitVec.ofNat 32 (beAt r.body 6 4))
  | 0x05 => some (BitVec.ofNat 32 (beAt r.body 0 4))
  | 0x06 => some (BitVec.ofNat 32 (beAt r.body 4 4))
  | 0x08 => some (BitVec.ofNat 32 (beAt r.body (h + 4) 4))
  | 0x13 => some (BitVec.ofNat 32 (beAt r.body 4 4))
  | _ => none

/-- Act on one well-formed, authenticated record addressed to the cell. -/
def actRecord (m : Stores) (fresh : Nat) (f : FrameCtx) (c : Cell) (r : MRec) : Cell :=
  let b := r.body
  let h := if r.dest = 0x40 then 2 else 0
  match r.mtype with
  | 0x01 => joinAck m fresh f c r
  | 0x02 =>
    -- an attempt refused before its JOIN_ACK received none (R98)
    let unanswered := (getLink c f.link).asked.isSome
    modLink (linkToListen c f.link) f.link fun x =>
      { x with nakWait := some 1024, backoff := if unanswered then min 10 (x.backoff + 1) else x.backoff }
  | 0x03 => joinData m f c (byteAt b 2) (byteAt b 3) (b.drop 4)
  | 0x04 => slotGrant f c b
  | 0x05 => modLink c f.link fun x => { x with giveUp := some (BitVec.ofNat 32 (beAt b 0 4)) }
  | 0x06 => settle f.done (modLink c f.link fun x =>
      { x with pendOfs := some (BitVec.ofNat 32 (beAt b 4 4), beAt b 0 2, beAt b 2 2)
               mode := if x.mode = .proving then .proven else x.mode })
  | 0x07 => modLink c f.link fun x => { x with subs := x.subs ++ [(BitVec.ofNat 32 (beAt b h 4), byteAt b (h + 4), byteAt b (h + 5))] }
  | 0x08 =>
    match sessionAt c f with
    | none => c
    | some k =>
      let key : Key := BitVec.ofNat 128 (beNat (gcmPlain k (recIv f r) (sub b (h + 8) 16)))
      let e : CellKey := { phase := bit (byteAt b h) 0, start := BitVec.ofNat 32 (beAt b (h + 4) 4), key := key }
      modLink c f.link fun x => { x with keys := if x.keys.any (fun q => q.start = e.start) then x.keys else newestKeys (insertKey e x.keys) }
  | 0x09 => modLink c f.link fun x => { x with txHold := true }
  -- the trips that led to the latch go with it (DESIGN CHOICE, assumption 69)
  | 0x0A => modLink c f.link fun x => { x with txHold := false, latched := false, trips := [] }
  | 0x0B => paramWrite f c (paramList r (beAt b 0 2) (byteAt b 2) 4)
  | 0x0C => modLink c f.link fun x => { x with answers := x.answers ++ [.param (beAt b 0 2) (byteAt b 2)] }
  | 0x0D => eventAck f c (byteAt b 0)
  | 0x0E => patchData m f c (beAt b 0 4) (sub b 8 (r.len - 12))
  | 0x0F => eepromRead f c (byteAt b 0) (beAt b 1 2) (byteAt b 3)
  | 0x10 => cellFreeze f c
  | 0x11 => edgeDiag f c (byteAt b 0)
  | 0x12 => joinWindow fresh f c b
  | 0x13 => paramStage f c (paramList r (beAt b 0 2) (byteAt b 2) 8) (BitVec.ofNat 32 (beAt b 4 4))
  | _ => c
where
  /-- in the order of FROM, latest first; keys already held come last -/
  insertKey (e : CellKey) (l : List CellKey) : List CellKey :=
    let later (q : CellKey) : Bool := q.age.isNone && 0 < cycleDiff q.start e.start
    l.filter later ++ e :: l.filter (!later ·)
  /-- a link keeps the key in use, the one before it and the one to come (R148, R597) -/
  newestKeys (l : List CellKey) : List CellKey := l.take 3

/-- One record of the area: checks of R128, then its action. -/
def mgmtRecord (m : Stores) (fresh : Nat) (f : FrameCtx) (c : Cell) (r : MRec) : Cell :=
  if !lenOk r || r.res ≠ 0 then mgmtReject c f.link
  else if !addressed c f r then c
  else if securedType r.mtype && !mtagOk c f r then mgmtReject c f.link
  else if !((applyOf r).all fun a => applyOk f.cycle a) then mgmtReject c f.link
  else actRecord m fresh f (touchExchange c f r) r

/-- The whole area of an accepted frame (R127, R128, R132). -/
def mgmtArea (m : Stores) (fresh : Nat) (f : FrameCtx) (c : Cell) (present : Bool) (bs : List Byte) : Cell :=
  let (rs, ran) := if present then parseMgmt 64 0 bs else ([], false)
  let noWindow := f.joinOpen && !(rs.any fun r => r.mtype = 0x12)
  let c := rs.foldl (mgmtRecord m fresh f) c
  let c := if ran then mgmtReject c f.link else c
  if noWindow then mgmtReject c f.link else c

end Sys2Proof.Machine
end

