-- ==== Sys2Proof/Machine/Orders.lean ====
section
/-! DEFINITION. From the ranking to the launched frame: the sort (R284 to R289), record assembly
(R290, R291, R293, R294, R327, R559), calibration permits (R568 to R571), admission (R44, R45),
the management area (R127 to R132, R556) and the launch of both copies (R108 to R119, R342). -/

namespace Sys2Proof.Machine

/-! Sort -/

/-- Nearest integer of a value, ties to even; `big` when it is not finite. -/
def roundEven (x : F32) (big : Int) : Int :=
  match fvFloor (B32.dec x) 2 1 with
  | some t => -- t is the floor of twice the value
    let q := t / 2
    if t % 2 = 0 then q
    else
      let tie := match fvFloor (B32.dec x) 4 1 with | some f => decide (f = 2 * t) && exactHalf x | none => false
      if tie then (if q % 2 = 0 then q else q + 1) else q + 1
  | none => big
where
  /-- twice the value is a whole number -/
  exactHalf (x : F32) : Bool := match B32.dec x with
    | .fin _ m e => if e < -1 then m % 2 ^ ((-1 - e).toNat) = 0 else true
    | _ => false

/-- CHARGING (R284). -/
def chargingNow (x : Arm) : Bool := let n := B32.isNeg x.iPred; if x.polNeg then n else !n

/-- CMD the lease holder sent a cell for the order cycle before `oc` (R258, R286). -/
def prevCmd (r : CellRec) (oc : Cycle) : Nat :=
  match r.sent.find? (·.cycle + 1 = oc) with | some s => s.twin.getD s.cmd | none => 15

/-- Latest WEAR_INDEX of a cell (R287). -/
def wearOf (r : CellRec) : Option Nat := (r.slow.find? (·.1 = 13)).map (·.2.toNat)

/-- The 512 keys (R285 to R287). -/
def sortKeys (d : Director) (a : Nat) : List (BitVec 32) :=
  let c := cfg d
  let x := arm d a
  let chg := chargingNow x
  let band := fMul (f32n (parm (armS c a) 42 0 2000)) (B32.ofRat 1 1000)
  let gain := parmF (armS c a) 43 0 0
  let wear := x.avail.filterMap fun p => wearOf (cellRec d (a * 512 + p))
  let wmin := wear.foldl min (wear.headD 0)
  let keepOk := x.prevNeg = some x.polNeg
  let oc := x.cycle + BitVec.ofNat 32 (ordOfs c)
  (List.range 512).map fun p =>
    if !x.avail.contains p then BitVec.ofNat 32 (0xFFFFFE00 + p) else
    let r := cellRec d (a * 512 + p)
    let df := fSub r.vHat x.vbar
    let df := if chg then df else B32.neg df
    let beta := fDiv (fMul gain (f32n (((wearOf r).getD wmin) - wmin))) (f32n 262144)
    let keep := keepOk && prevCmd r oc = (if x.polNeg then 3 else 2)
    let t := fSub (fAdd df beta) (if keep then band else 0)
    let v := clampInt 0 4194303 (2097152 + roundEven (fMul (f32n 1000) t) (if B32.isNeg t then -4194304 else 4194304))
    BitVec.ofNat 32 (v.toNat * 512 + p)

/-- Insert into an ascending list. -/
def insertKey (k : BitVec 32) : List (BitVec 32) → List (BitVec 32)
  | [] => [k]
  | x :: r => if k ≤ x then k :: x :: r else x :: insertKey k r

/-- The full-insertion set of a ranking, and SWAPS for every cell that enters or leaves it (R289). -/
def countSwaps (d : Director) (a : Nat) (order : List Nat) : Director :=
  let x := arm d a
  let set := if operating x.mode then order.take x.nIns else []
  let moved := (set.filter fun p => !x.inserted.contains p).length + (x.inserted.filter fun p => !set.contains p).length
  modCntA (modArm d a fun x => { x with inserted := set }) a fun t => { t with swaps := satAdd t.swaps moved }

/-- SORT (R284 to R289): rank, then check the sorter's output; `hw` is what the network delivers when it is faulty. -/
def sortRun (d : Director) (a : Nat) (hw : Option (List (BitVec 32))) : Director :=
  let keys := sortKeys d a
  let sorted := keys.foldr insertKey []
  let out := hw.getD sorted
  let x := arm d a
  if out = sorted then
    let order := out.map fun k => fld k.toNat 8 0
    modArm (countSwaps d a order) a fun x => { x with
      keys := keys, order := order, ranked := some (armOrder d a), charging := chargingNow x
      prevNeg := some x.polNeg, rankOf := (x.nIns, x.a, x.w, x.polNeg) }
  else
    let d := modArm d a fun y => { y with nop := some (armOrder d a, .sortFault), prevNeg := some x.polNeg }
    raise (modCntA d a fun t => { t with sortFault := satInc t.sortFault }) (62 + a) 0x01 []

def execSort (arm_ : Nat) (hw : Option (List (BitVec 32))) (s : State) : Host.Outcome State Fault Refusal :=
  ifUnit (arm_ < 6) (onDir s fun d => if works d && d.time.running && (arm d arm_).stepped then sortRun d arm_ hw else d)

/-! Records -/

/-- SEQ of an order cycle (R115). -/
def seqOf (c : Cycle) : Nat := c.toNat % 255 + 1

/-- Nearest whole number of i / n, halves away from zero (R292 to R294). -/
def roundAway (i : Int) (n : Nat) : Int :=
  if i < 0 then -((2 * i.natAbs + n) / (2 * n) : Nat) else ((2 * i.natAbs + n) / (2 * n) : Nat)

/-- CMD by mode, ranking and availability, before the role (R264, R280, R289). -/
def assembledCmd (d : Director) (a p : Nat) : Nat :=
  let x := arm d a
  let cause := tget 1 p x.causes
  if cause = 1 || cause = 2 then 15
  else match x.mode with
    | .off => 15
    | .blocked => 4
    | .precharge => if (cellRec d (a * 512 + p)).unreported then 1 else if x.preBypass.contains p then 1 else 4
    | _ =>
      if cause != 0 then 1 else
      let rank := x.order.findIdx (· = p)
      if rank < x.nIns then (if x.polNeg then 3 else 2)
      else if rank = x.nIns && 0 < x.w then (if x.polNeg then 6 else 5)
      else 1

/-- PRECHARGE hysteresis of R264 for a position. -/
def preHyst (d : Director) (a p : Nat) : Director :=
  let c := cfg d
  let v := (cellRec d (a * 512 + p)).vHat
  let vmax := f32n (parm (armS c a) 38 0 0)
  let low := fSub vmax (f32n (parm (armS c a) 39 0 20))
  modArm d a fun x =>
    let l := if B32.le vmax v then (if x.preBypass.contains p then x.preBypass else p :: x.preBypass)
      else if B32.lt v low then x.preBypass.filter (· != p) else x.preBypass
    { x with preBypass := l }

/-- Flags and command by role (R307, R325, R327, R559): CMD, FLAGS. -/
def roleCmd (d : Director) (a p cmd : Nat) : Nat × Nat :=
  let x := arm d a
  let r := cellRec d (a * 512 + p)
  let held := match r.last with | some b => leaseHolder b.lease = holderCode d | none => false
  let released := x.mode = .precharge && x.role != .authority && !twinAuth d a && prefSide (cfg d) a != sideNum d && held
    && (match r.last with | some b => b.lease.getLsbD (prefSide (cfg d) a) | none => false)
  let claim := 0x40
  let shadow := 0x20
  let fill := 0x80
  let own := if held then (if twinAuth d a then 15 else if operating x.mode then (if cmd = 15 then 15 else 1) else cmd) else cmd
  let (cm, fl) := match x.role with
    | .isolated => (15, 0)
    | .authority => if x.yielding.isSome then (15, 0) else (cmd, claim)
    | .shadow =>
      if x.row = 5 then (own, shadow + fill + claim) else (if held then 15 else cmd, shadow + fill + claim)
    | .cold => (if held then own else if operating x.mode && cmd != 15 then 1 else cmd, shadow + claim)
  let cm := if released then 15 else cm
  if cm = 15 then (15, 0) else (cm, fl)

/-- Gate state after a command, for the transition it makes (R227, R291). -/
def destOf : Nat → Option (Sig × Nat)
  | 1 => some (.bypassed, 0)
  | 2 => some (.pos, 1)
  | 3 => some (.neg, 2)
  | 4 => some (.blocked, 3)
  | 5 => some (.pos, 1)
  | 6 => some (.neg, 2)
  | _ => none

/-- The state a cell holds before the record of order cycle `oc` acts. -/
def presentState (c : Cfg) (a : Nat) (r : CellRec) (oc : Cycle) : Sig :=
  ((((r.sent.filter fun s => cycleDiff s.cycle oc < 0).reverse.flatMap (recEdges c a oc)).getLast?).map (·.2)).getD .blocked

/-- A type is learned (R292), and its λ. -/
def learnedLam (c : Cfg) (a : Nat) (r : CellRec) (t : Nat) : Option Nat :=
  let l := tget {} t r.learned
  if parm (armS c a) 46 0 1 = 1 && parm (armS c a) 48 0 16 ≤ l.count then some l.lam else none

/-- corr of R293 for a type, and whether it was clamped. -/
def corrOf (c : Cfg) (a : Nat) (r : CellRec) (t : Nat) : Int × Bool :=
  match learnedLam c a r t with
  | none => (0, false)
  | some l =>
    let v := roundAway ((parm (armS c a) 49 t 0 : Int) - l) 32
    (clampInt (-125) 125 v, v < -125 || 125 < v)

/-- Fill LAUNCH, DUTY and the transition type of a record (R290, R291, R294). -/
def fillRec (d : Director) (a p cmd flags : Nat) (oc : Cycle) : Rec × Bool :=
  let c := cfg d
  let x := arm d a
  let r := cellRec d (a * 512 + p)
  let s := if x.iarm.getLsbD 23 then 0 else 4
  let st := presentState c a r oc
  let trim := cmd = 5 || cmd = 6
  let type := match destOf cmd with
    | some (g, n) => if trim || g != st then some (s + n) else none
    | none => none
  let (corr, cl) := match type with | some t => corrOf c a r t | none => (0, false)
  let w' := match type with
    | some t => match learnedLam c a r t, learnedLam c a r s with
      | some l, some m => (clampInt 0 (wMax c a) ((x.w : Int) + roundAway ((l : Int) - m) 32)).toNat
      | _, _ => x.w
    | none => x.w
  ({ cmd := cmd, launch := ((mC c + tEdge : Int) + corr).toNat, duty := if trim then ceilDiv (w' * 65536) (planN c) else 0,
     seq := seqOf oc, flags := flags, type := type }, cl)

/-- D_cell in whole ticks (R44). -/
def cellDelay (r : CellRec) : Nat := ceilDiv (max r.dnOfs r.upOfs) 32

/-- The admission test of R44. -/
def admitted (c : Cfg) (r : CellRec) (x : Rec) : Bool :=
  x.launch ≤ planN c - 2 && e1 c + cellDelay r + tGuard ≤ (x.launch : Int)

/-! Calibration permits -/

def calAge (r : CellRec) : Option Nat := (r.slow.find? (·.1 = 12)).map (·.2.toNat)

/-- CAL_AGE in units against CAL_INTERVAL × `f` seconds (R569, R571). -/
def ageOver (c : Cfg) (age f : Nat) : Bool := f * calInterval c * 1250000000 ≤ age * 1024 * planN c

/-- A cell is due (R569). -/
def calDue (d : Director) (a p : Nat) : Bool :=
  let c := cfg d
  let r := cellRec d (a * 512 + p)
  let av := if (arm d a).mode = .precharge then r.link = .proven && !r.unreported else tget 1 p (arm d a).causes = 0
  let wait := match r.permitAt with | some t => d.time.starts < t + ceilDiv 800000 (planN c) | none => false
  match calAge r with
  | none => false
  | some g => av && !wait && (g = 262143 || ageOver c g 1)

/-- The cell of a tree that receives CAL_PERMIT (R220, R568 to R570), as a slot position. -/
def permitCell (d : Director) (a t : Nat) (recs : Nat → Rec) : Option Nat :=
  let c := cfg d
  let x := arm d a
  let ps := (List.range 64).map (t * 64 + ·) |>.filter fun p => configured c (a * 512 + p)
  let busy := (ps.filter fun p =>
    let r := cellRec d (a * 512 + p)
    (match r.last with | some b => b.status.getLsbD 8 | none => false)
      || (match r.permitAt with | some s => d.time.starts ≤ s + 2 | none => false)).length
  let okTree := !(parm (armS c a) 50 0 0 != 0 && x.est.tree = t)
  if x.role = .authority && (x.mode = .precharge || operating x.mode) && busy < 2 && okTree then
    let cs := ps.filter fun p => calDue d a p && (recs p).cmd != 15 && (recs p).cmd != 5 && (recs p).cmd != 6
      && !bit (recs p).flags 3
    cs.foldl (fun best p => match best with
      | none => some p
      | some q => if (calAge (cellRec d (a * 512 + q))).getD 0 < (calAge (cellRec d (a * 512 + p))).getD 0 then some p else best) none
  else none

/-- CAL_OVERDUE (R571). -/
def calOverdue (d : Director) (id : Nat) : Director :=
  let c := cfg d
  let r := cellRec d id
  match calAge r with
  | none => d
  | some g =>
    let since := match r.neverCalAt with | some t => d.time.starts - t | none => 0
    let late := if g = 262143 then 2 * calInterval c * 1250000000 < since * planN c else (ageOver c g 2 && 2 * calInterval c * 1250000000 < g * 1024 * planN c)
    if late && !r.overdue then raise (modRec d id fun r => { r with overdue := true }) 84 0x01 (b2 id)
    else if !late then modRec d id fun r => { r with overdue := false }
    else d

/-! Configuration of a proven cell (R556) -/

/-- Runs of consecutive RW indices that step 4 writes (R195, R242, R464, R556). -/
def cfgRuns (node : Bool) : List (Nat × Nat) :=
  (if node then [(2, 4), (7, 3), (0x12, 1)] else [(2, 8), (0x10, 4)])
    ++ [(0x18, 6), (0x40, 7), (0x48, 9), (0x58, 12), (0x64, 1), (0x68, 10)]

/-- The value step 4 gives an index: CP_SVC_GAIN and CP_EDGE_REF keep what the director last wrote (R556). -/
def cfgValue (d : Director) (id i : Nat) : Nat :=
  if i = 0x44 || (0x48 ≤ i && i ≤ 0x4F) then
    match (cellRec d id).written.find? (·.1 = i) with | some (_, v) => v.toNat | none => cellCfg (cfg d) id i
  else cellCfg (cfg d) id i

/-- The seal CRC of the configuration in force for a cell (R197, R464). -/
def cfgCrc (c : Cfg) (id : Nat) : Nat :=
  let rw (i : Nat) : Bool := (2 ≤ i && i ≤ 9) || (0x10 ≤ i && i ≤ 0x13) || (0x18 ≤ i && i ≤ 0x1D)
    || (0x40 ≤ i && i ≤ 0x43) || i = 0x45 || i = 0x46 || i = 0x50 || (0x58 ≤ i && i ≤ 0x64) || (0x68 ≤ i && i ≤ 0x71)
  let val (i : Nat) : Nat := if !rw i then 0 else if i = 2 then fld (cellCfg c id 2) 1 1 else cellCfg c id i
  crc32c (((List.range 128).filter fun i => 2 ≤ i && i != 0x3F).flatMap fun i => toBE 4 (val i))

def writeBody (i : Nat) (vs : List Nat) : List Byte := toBE 2 i ++ b1 vs.length ++ [0] ++ vs.flatMap (toBE 4)
def readBody (i n : Nat) : List Byte := toBE 2 i ++ b1 n ++ [0]

/-- Leave a cell unconfigured and raise CONFIG_FAIL (R556, R646). -/
def cfgFail (d : Director) (id step : Nat) : Director :=
  let d := modRec d id fun r => { r with cfgStep := 8, reading := none }
  match cellPort (part d) id with | some n => raise d n 0x0A (b2 id ++ b1 step) | none => d

/-- Indices marked "unsealed" that PARAM_STAGE takes (R198, R465). -/
def stagedIndex (i : Nat) : Bool := i = 7 || i = 8 || i = 9 || i = 0x13

/-- The cell holds its tree key at a cycle: FROM of the first TREE_KEY has come (R122). -/
def keyedBy (r : CellRec) (c : Cycle) : Bool := match r.keyedFrom with | some f => 0 ≤ cycleDiff c f | none => false

/-- The first TREE_KEY of a cell, which holds no tree key yet: by its handle (R122, R131, R556 step 1). -/
def firstTreeKey (d : Director) (n id : Nat) : MgmtRec :=
  { mtype := 0x08, dest := 0x40, secure := some id, cell := some id, cycAt := [6], why := .config
    body := toBE 2 (cellRec d id).handle.toNat ++ b1 (b2n (treeKey d n).phase) ++ zeros 7 ++ toBE 16 (treeKey d n).key.toNat }

/-- The next configuration record of a cell, and the state after it leaves. Sub-steps 20, 310, 320, 330 and 510 await a
PARAM_READ; 32 reads and compares run by run, and 34 writes what differs. The seal is read again once the values staged
have taken effect (DEDUCED, assumption 65). -/
def cfgNext (d : Director) (id : Nat) : Option (MgmtRec × (CellRec → CellRec)) :=
  let r := cellRec d id
  let base : MgmtRec := { mtype := 0x0B, dest := cellSlot id, body := [], cell := some id, why := .config }
  let read (i n step : Nat) : Option (MgmtRec × (CellRec → CellRec)) :=
    some ({ base with mtype := 0x0C, body := readBody i n, subs := 1 },
      fun r => { r with cfgStep := step, reading := some (i, 1, d.time.starts) })
  let write (i : Nat) (vs : List Nat) (f : CellRec → CellRec) : Option (MgmtRec × (CellRec → CellRec)) :=
    some ({ base with body := writeBody i vs, secure := some id },
      fun r => f { r with written := (withIdx vs).foldl (fun t (j, v) => tset (i + j) (BitVec.ofNat 32 v) t) r.written })
  if r.reading.isSome || (r.cfgStep != 1 && !keyedBy r (cyc d)) then none else
  match r.cfgStep with
  | 1 => match cellPort (part d) id with
    | some n => some (firstTreeKey d n id, fun r => { r with cfgStep := 2 })
    | none => none
  | 2 => read 0x3F 1 20
  | 3 => write 0x3F [0] fun r => { r with cfgStep := 31 }
  | 31 => read 0x3F 1 310
  | 32 => match (cfgRuns (isNode id))[r.cfgIndex / 4]? with
    | some (i, n) =>
      let o := 4 * (r.cfgIndex % 4)
      if o < n then read (i + o) (min 4 (n - o)) 320 else none
    | none => none
  | 34 => match r.diffs with
    | (i, v) :: rest =>
      if stagedIndex i then
        some ({ base with mtype := 0x13, body := toBE 2 i ++ b1 1 ++ [0] ++ zeros 4 ++ toBE 4 v, secure := some id, cycAt := [4] },
          fun r => { r with diffs := rest })
      else write i [v] fun r => { r with diffs := rest }
    | [] => match r.diffAt with
      | some a => if cycleDiff (cyc d) a < 0 then none else read 0x3F 1 330
      | none => read 0x3F 1 330
  | 4 => match (cfgRuns (isNode id))[r.cfgIndex]? with
    | some (i, n) => write i ((List.range n).map fun j => cfgValue d id (i + j)) fun r => { r with cfgIndex := r.cfgIndex + 1 }
    | none => none
  | 5 => write 0x3F [cfgCrc (cfg d) id] fun r => { r with cfgStep := 51 }
  | 51 => read 0x3F 1 510
  | 6 => write 0x14 [if r.gateHold then 0 else 1] fun r => { r with cfgStep := 7 }
  | _ => none

/-- Steps that need no record: the end of the runs of steps 4 and 32. Values that a sealed table takes are written first. -/
def cfgSkip (d : Director) (id : Nat) : Director :=
  let r := cellRec d id
  let runs := cfgRuns (isNode id)
  if r.cfgStep = 4 && runs.length ≤ r.cfgIndex then modRec d id fun r => { r with cfgStep := 5 }
  else if r.cfgStep = 32 && r.reading.isNone then
    match runs[r.cfgIndex / 4]? with
    | some (_, n) => if n ≤ 4 * (r.cfgIndex % 4) then modRec d id fun r => { r with cfgIndex := (r.cfgIndex / 4 + 1) * 4 } else d
    | none => modRec d id fun r => { r with
        cfgStep := 34, diffs := (r.diffs.filter fun x => !stagedIndex x.1) ++ r.diffs.filter fun x => stagedIndex x.1 }
  else d

/-- Put the next configuration record of one cell of the port at the end of its queue (R556: one a frame). -/
def cfgQueue (d : Director) (n : Nat) : Director :=
  if (port d n).mgmt.any (fun r => r.why = .config) then d else
  let ids := (portSlots (cfg d) (part d) n).filterMap (cellOfSlot (part d) n)
  let ids := ids.filter fun id => (cellRec d id).link = .proven && (cellRec d id).cfgStep != 0 && !(cellRec d id).cfgStep = 7 && !(cellRec d id).cfgStep = 8
  let d := ids.foldl cfgSkip d
  match ids.findSome? fun id => (cfgNext d id).map fun x => (id, x) with
  | some (id, r, f) => modRec (pushMgmt d n r) id f
  | none => d

/-! The management area -/

/-- A record as it stands in the area at an offset: header, payload, MTAG (R127, R129). -/
def mgmtBytes (d : Director) (n : Nat) (r : MgmtRec) (off : Nat) (cycle : Cycle) : List Byte :=
  let hdr (len : Nat) : List Byte := b1 r.mtype ++ b1 r.dest ++ b1 len ++ [0]
  match r.secure with
  | none => hdr r.body.length ++ r.body
  | some id =>
    let key := keyAt (((cellRec d id).key).getD 0) (planN (cfg d)) (cyc d) cycle
    let iv := [0x04, BitVec.ofNat 8 (sideNum d * 128 + n), BitVec.ofNat 8 r.dest, BitVec.ofNat 8 off] ++ toBE 4 cycle.toNat ++ zeros 4
    let h := hdr (r.body.length + 4)
    if r.mtype = 0x08 then
      let m := r.body.length - 16
      let aad := h ++ r.body.take m
      let (ct, tag) := gcm key iv aad (r.body.drop m)
      aad ++ padTo 16 ct ++ toBE 4 (tag.toNat / 2 ^ 96)
    else h ++ r.body ++ toBE 4 ((gmac key iv (h ++ r.body)).toNat / 2 ^ 96)

/-- Ask for one sub-slot for a cell in a coming frame (R131); the placement chooses cycle and sub-slot. -/
def wantSub (d : Director) (n id : Nat) : Director :=
  if (port d n).mgmt.any (fun r => r.mtype = 0x07 && r.cell = some id) then d
  else pushMgmt d n { mtype := 0x07, dest := cellSlot id, body := zeros 10, cell := some id }

/-- One sub-slot in every cycle for each cell of the port in an edge diagnostic (R514). -/
def diagSubs (d : Director) (n : Nat) : Director :=
  ((portSlots (cfg d) (part d) n).filterMap (cellOfSlot (part d) n)).foldl
    (fun d id => if (cellRec d id).diagMode != 0 && (cellRec d id).link = .proven then wantSub d n id else d) d

/-- Length of a record in the area. -/
def mgmtLen (r : MgmtRec) : Nat := 4 + r.body.length + (if r.secure.isSome then 4 else 0)

/-- The APPLY or FROM of a record in the frame of a cycle: that of its first frame, four cycles on for PARAM_STAGE,
or a later one where a delayed copy would come too late for it (R130, R556). -/
def effectIn (r : MgmtRec) (cycle : Cycle) : Cycle :=
  match r.effect with
  | some c => if cycleDiff c cycle < 2 then addCyc cycle (r.copies + 1) else c
  | none => addCyc cycle (if r.mtype = 0x13 then 4 else r.copies + 1)

/-- Fill in the cycle numbers of a record for the frame of a cycle (R130). -/
def fillCycles (r : MgmtRec) (cycle : Cycle) : MgmtRec :=
  let at_ := effectIn r cycle
  { r with body := r.cycAt.foldl (fun b o => b.take o ++ toBE 4 at_.toNat ++ b.drop (o + 4)) r.body
           effect := if r.cycAt.isEmpty then r.effect else some at_ }

/-- Parameters as last written to a cell, and its CP_EDGE_REF values with the cycle of the write (R292, R556). -/
def noteWrite (d : Director) (id : Nat) (body : List Byte) (cycle : Cycle) : Director :=
  let i := beAt body 0 2
  (List.range (byteAt body 2)).foldl (fun d j =>
    let v := beAt body (4 + 4 * j) 4
    let d := if i + j = 0x44 && !isNode id then
        modArm d (cellArm id) fun x => { x with est := { x.est with inFlight := tset (cellPos id) cycle x.est.inFlight } } else d
    modRec d id fun r =>
      let edge := 0x48 ≤ i + j && i + j ≤ 0x4F
      { r with written := tset (i + j) (BitVec.ofNat 32 v) r.written
               edgeRef := if edge then tset (i + j - 0x48) v r.edgeRef else r.edgeRef
               edgeRefAt := if edge then tset (i + j - 0x48) cycle r.edgeRefAt else r.edgeRefAt }) d

/-- What placing a record changes in the director (R80, R85, R93, R131, R474). -/
def notePlaced (d : Director) (r : MgmtRec) (cycle : Cycle) : Director :=
  let at_ := effectIn r cycle
  let first := r.effect != some at_
  let d := match r.cell with
    | some id =>
      if !first then d else
      match r.mtype with
      | 0x01 => match cellPort (part d) id with
        | some n => modPort d n fun p => { p with subs := p.subs ++ (List.range 3).flatMap fun j => [4, 5, 6, 7].map fun i => (addCyc at_ j, i, id) }
        | none => d
      | 0x04 => modRec d id fun c => { c with granted := some at_ }
      | 0x05 => modRec d id fun c => { c with withdrawn := some at_ }
      | 0x06 => modRec d id fun c => { c with pendOfs := some (at_, beAt r.body 0 2, beAt r.body 2 2), errSum := 0, errCount := 0, block := none }
      | 0x08 => modRec d id fun c => { c with keyedFrom := if c.keyedFrom.isNone then some at_ else c.keyedFrom }
      | 0x09 => modRec d id fun c => { c with txDisabled := true }
      | 0x0A => modRec d id fun c => { c with txDisabled := false }
      | 0x0B => noteWrite d id r.body cycle
      | 0x11 => modRec d id fun c => { c with diagMode := byteAt r.body 0 }
      | _ => d
    | none => d
  match r.why with
  | .cmd mb => modCmd d mb fun c => { c with sentAt := some cycle, sentIn := c.sentIn + 1 }
  | .config => match r.cell with
    | some id => modRec d id fun c => { c with
        reading := c.reading.map fun (i, n, _) => (i, n, d.time.starts)
        diffAt := if r.mtype = 0x13 then some at_ else c.diffAt }
    | none => d
  | .stage i => match r.cell with
    | some id => modRec d id fun c => { c with staging := (cycle, i) :: c.staging.take 7 }
    | none => d
  | _ => d

/-- The lowest of sub-slots 0 to 3 free in a cycle of a port; 4 to 7 are kept for a join exchange (DESIGN CHOICE, assumption 23). -/
def freeSub (p : Port) (c : Cycle) : Option Nat :=
  (List.range 4).find? fun i => !p.subs.any fun (cc, j, _) => cc = c && j = i

/-- A SUBSLOT_ASSIGN for one sub-slot in one later cycle (R81, R131). -/
def assignSub (d : Director) (n id : Nat) (cycle : Cycle) : Director × Option MgmtRec :=
  let at_ := addCyc cycle 2
  match freeSub (port d n) at_ with
  | some i =>
    (modPort d n fun p => { p with subs := p.subs ++ [(at_, i, id)] },
     some (let body := toBE 4 at_.toNat ++ b1 (2 ^ i) ++ b1 1 ++ zeros 2
           if keyedBy (cellRec d id) cycle then { mtype := 0x07, dest := cellSlot id, body := body, cell := some id }
           else { mtype := 0x07, dest := 0x40, body := toBE 2 (cellRec d id).handle.toNat ++ body, cell := some id }))
  | none => (d, none)

/-- Pack queued records from `off` while they fit (R127); those that remain wait for a later frame. -/
def packArea : Nat → Director → Nat → Cycle → List MgmtRec → Nat → List Byte → List MgmtRec → Director × List Byte × List MgmtRec
  | 0, d, _, _, q, _, acc, keep => (d, acc, keep ++ q)
  | _ + 1, d, _, _, [], _, acc, keep => (d, acc, keep)
  | k + 1, d, n, cycle, r :: q, off, acc, keep =>
    if 64 < off + mgmtLen r then packArea k d n cycle q off acc (keep ++ [r]) else
    if r.mtype = 0x07 then
      match r.cell.map fun id => assignSub d n id cycle with
      | some (d, some sr) => packArea k d n cycle q (off + mgmtLen sr) (acc ++ mgmtBytes d n sr off cycle) keep
      | _ => packArea k d n cycle q off acc keep
    else
    let d := notePlaced d r cycle
    let r := fillCycles r cycle
    let bs := mgmtBytes d n r off cycle
    let keep := if 1 < r.copies then keep ++ [{ r with copies := r.copies - 1 }] else keep
    match r.cell with
    | some id =>
      if 0 < r.subs && off + mgmtLen r + 14 ≤ 64 then
        match assignSub d n id cycle with
        | (d, some sr) =>
          let o2 := off + mgmtLen r
          packArea k d n cycle q (o2 + mgmtLen sr) (acc ++ bs ++ mgmtBytes d n sr o2 cycle) keep
        | (d, none) => packArea k d n cycle q (off + mgmtLen r) (acc ++ bs) keep
      else packArea k d n cycle q (off + mgmtLen r) (acc ++ bs) keep
    | none => packArea k d n cycle q (off + mgmtLen r) (acc ++ bs) keep

def exchanges (d : Director) : Nat := (d.ports.filter fun (_, p) => p.exchange.isSome).length

/-- The records that the next frame would carry from `off` on include one longer than 52 bytes (R127, R132). -/
def carriesLong : Nat → List MgmtRec → Bool
  | _, [] => false
  | off, r :: q =>
    if 64 < off + mgmtLen r then carriesLong off q
    else 52 < mgmtLen r || carriesLong (off + mgmtLen r) q

/-- The tree fails J1 and the cycle is the one in 16 that leaves its slots unassigned, while every arm that reads it
is in OFF or PRECHARGE (R83). That this is a cycle whose number is a multiple of 16 is the model's choice
(DESIGN CHOICE, assumption 66). -/
def extendedCycle (d : Director) (n : Nat) (cycle : Cycle) : Bool :=
  treeOn (cfg d) (part d) n && !j1Holds (cfg d) n
    && ((armsOfPort (cfg d) (part d) n).all fun a => offPre (arm d a).mode) && cycle.toNat % 16 = 0

/-- Whether the frame of a cycle opens the join window, and its J0 and JLEN (R82, R83, R132). The length of an extended
window is the model's choice: N ticks (DESIGN CHOICE, assumption 66). -/
def openWindow (d : Director) (n : Nat) (cycle : Cycle) : Option (Nat × Nat) :=
  let c := cfg d
  let len := 2 * treeDelay c n + 160
  if extendedCycle d n cycle then some (joinJ0 c n, max len (min 65535 (planN c)))
  else if treeOn c (part d) n && j1Holds c n && (port d n).exchange.isNone && exchanges d < 8 && !carriesLong 0 (port d n).mgmt then
    some (joinJ0 c n, len)
  else none

/-- Slots of a cycle are suspended: a step (R338), or an extended join window (R83). -/
def slotsSuspended (d : Director) (n : Nat) (cycle : Cycle) : Bool :=
  stepCycles d cycle || extendedCycle d n cycle
where
  /-- the cycle is s or s + 1 of a step (R338) -/
  stepCycles (d : Director) (c : Cycle) : Bool :=
    (match d.time.step with | some s => c = s.cycle || c = s.cycle + 1 | none => false)
      || (match d.time.stepped with | some s => c = s || c = s + 1 | none => false)

/-- Raw length of a cycle near the present one (R335). -/
def lenOf (d : Director) (k : Cycle) : Nat :=
  if k = cyc d then d.time.len else if k + 1 = cyc d then d.time.lenPrev else d.time.lenNext

/-- DEPART of a position of cycle k, counted from the start of the order cycle, 25 ps (R109, R335). -/
def departOf (d : Director) (k : Cycle) (pos : Nat) : Int :=
  ((pos : Int) - (if ordOfs (cfg d) = 0 then 0 else lenOf d k)) * 32

/-- One record of a slot, with its effects on the director (R44, R45, R290, R327, R480, R499). -/
def slotRecord (d : Director) (a p n : Nat) (oc : Cycle) (allNop : Bool) : Director × Rec :=
  let id := a * 512 + p
  let d := if (arm d a).mode = .precharge then preHyst d a p else d
  let (cmd, fl) := roleCmd d a p (assembledCmd d a p)
  let x := arm d a
  let claimed := offPre x.mode && x.role != Role.isolated && x.pClaim.any fun q => q.apply = oc && q.slots.contains p
  let injected := x.role == Role.authority && tget 1 p x.causes = 0 && x.pInject.any fun q => q.apply = oc && q.slots.contains p
  let (cmd, fl) := if claimed then
      (7, 0x40 + (if x.role = Role.authority then 0 else 0x20) + (if x.role = Role.shadow then 0x80 else 0))
    else if injected && cmd != 15 then (cmd, fl + 8) else (cmd, fl)
  if cmd = 15 || allNop then (d, nopRec) else
  let (r, cl) := fillRec d a p cmd fl oc
  let d := if cl then
      raiseLim (modCellCnt d id fun t => { t with edgeClamp := satInc t.edgeClamp }) (limKey (56 + a) 0x16 p) (56 + a) 0x16 (b2 id) else d
  if admitted (cfg d) (cellRec d id) r then (d, r)
  else
    let d := modPort d n fun q => { q with refused := satInc q.refused }
    let d := modCellCnt d id fun t => { t with missed := satInc t.missed }
    (raiseLim d (limKey (56 + a) 0x03 p) (56 + a) 0x03 (b2 id), nopRec)

/-- The records of a cell-role port, before CAL_PERMIT. -/
def portRecords (d : Director) (a t n : Nat) (oc : Cycle) (allNop : Bool) : Director × List Rec :=
  (List.range 64).foldl (fun (d, l) s =>
    let (d, r) := slotRecord d a (t * 64 + s) n oc allNop
    (d, l ++ [r])) (d, [])

/-- A record that puts a cell's gates in a state (R258). -/
def sentActs (s : SentRec) : Bool := let c := s.twin.getD s.cmd; 1 ≤ c && c ≤ 6

/-- The orders kept of a cell: those of the last three order cycles, and the last older one that acted (R258). -/
def keepSent (s : SentRec) (l : List SentRec) : List SentRec :=
  let l := { s with twin := (l.find? (·.cycle = s.cycle)).bind (·.twin) } :: l.filter (·.cycle != s.cycle)
  l.take 3 ++ ((l.drop 3).find? sentActs).toList

/-- Bookkeeping of the records a port sends (R49, R258, R310, R480, R499). -/
def noteRecords (d : Director) (a t n : Nat) (oc : Cycle) (recs : List Rec) : Director :=
  let d := (withIdx recs).foldl (fun d (s, r) =>
    let p := t * 64 + s
    let id := a * 512 + p
    if !configured (cfg d) id then modArm d a fun x => { x with cmds := tset p 15 x.cmds } else
    let d := modRec d id fun c => { c with sent := keepSent { cycle := oc, cmd := r.cmd, launch := r.launch, duty := r.duty, seq := r.seq,
                                                              flags := BitVec.ofNat 8 r.flags, type := r.type } c.sent }
    modArm d a fun x => { x with cmds := tset p r.cmd x.cmds }) d
  -- CELL_INJECT answers (R480)
  let here (q : PendOrder) : Bool := q.apply = oc && q.slots.any fun p => p / 64 = t
  let d := ((arm d a).pInject.filter here).foldl (fun d q =>
    let ok := q.slots.all fun p => bit (recs.getD (p % 64) nopRec).flags 3
    decide_ d q.mb (if ok then stOK else stState) []) d
  let past (q : PendOrder) : Bool := cycleDiff q.apply oc < 0
  let d := ((arm d a).pInject.filter past).foldl (fun d q => decide_ d q.mb stState []) d
  let d := modArm d a fun x => { x with pInject := x.pInject.filter fun q => !here q && !past q }
  -- RED_CLAIM counts what the ports admit (R499)
  let held := (arm d a).pClaim
  let d := modArm d a fun x => { x with pClaim := [] }
  held.foldl (fun d q =>
    let keep (q : PendOrder) : Director := modArm d a fun x => { x with pClaim := x.pClaim ++ [q] }
    let answer (q : PendOrder) (st : Nat) : Director := decide_ d q.mb st (b1 a ++ [0] ++ b2 q.done ++ b4 q.apply.toNat)
    if past q then answer q stState
    else if q.apply != oc then keep q else
    let k := (q.slots.filter fun p => p / 64 = t && (recs.getD (p % 64) nopRec).cmd = 7).length
    let q := { q with done := q.done + k, ports := n :: q.ports }
    let all := (List.range (treesPerArm (part d))).all fun t => match portOf (part d) a t with
      | some m => !treeOn (cfg d) (part d) m || q.ports.contains m | none => true
    if all then answer q (if offPre (arm d a).mode && (arm d a).role != .isolated then stOK else stState) else keep q) d

/-- Header without DEPART (R109). -/
def frameHeader (d : Director) (n : Nat) (oc : Cycle) (blocked susp join mgmt : Bool) (iarm : Nat) (sat : Bool) (clen : Nat) : List Byte :=
  let b (x : Bool) (i : Nat) : Nat := if x then 2 ^ i else 0
  let phase := (keyFor (treeKey d n) oc).1
  toBE 4 oc.toNat ++ toBE 12 (b (sideNum d = 1) 95 + n * 2 ^ 88 + b join 87 + b mgmt 86 + b phase 85 + b blocked 84 + b susp 83 + b sat 82
    + iarm * 2 ^ 56 + clen % 2 ^ 18 * 64)

/-- The sample cycle whose frame an assembly builds now (R32, R40). An arm's tree follows its sequencer; any other tree,
and an arm whose sequencer ran no step that a frame still waits for, goes by the plan, with assembly T_ASM before the launch
(DEDUCED, assumption 67). -/
def frameCycle (d : Director) (n : Nat) : Cycle :=
  let c := cfg d
  let plan := cyc d - BitVec.ofNat 32 ((planF c - tAsm) / planN c)
  match armOfPort (part d) n with
  | some (a, _) =>
    let s := armStep d a
    if !(armCells c a).isEmpty && (s = cyc d || (s + 1 = cyc d && planN c ≤ planF c)) && (port d n).built != some (armOrder d a) then s else plan
  | none => plan

/-- The order cycle of that frame (R38). -/
def frameOrder (d : Director) (n : Nat) : Cycle := frameCycle d n + BitVec.ofNat 32 (ordOfs (cfg d))

/-- ORDER_ASSEMBLY of one port (R44, R108, R109, R127 to R132, R290). -/
def assemble (d : Director) (n : Nat) : Director :=
  let c := cfg d
  let k := frameCycle d n
  let oc := frameOrder d n
  let clen := lenOf d oc
  let susp := slotsSuspended d n oc
  let stepNop := slotsSuspended.stepCycles d oc
  let (d, recs, blocked, iarm, sat) : Director × List Rec × Bool × Nat × Bool :=
    match armOfPort (part d) n with
    | some (a, t) =>
      let x := arm d a
      let nop := stepNop || (match x.nop with | some (o, _) => o = oc | none => false) || (armCells c a).isEmpty || x.cycle != k
      let (d, recs) := portRecords d a t n oc nop
      let (d, recs) := match permitCell d a t (fun p => recs.getD (p % 64) nopRec) with
        | some p =>
          let d := modRec d (a * 512 + p) fun r => { r with permitAt := some d.time.starts }
          (modCntA d a fun t => { t with calPermits := satInc t.calPermits },
           recs.set (p % 64) (let r := recs.getD (p % 64) nopRec; { r with flags := r.flags + 16 }))
        | none => (d, recs)
      let d := noteRecords d a t n oc recs
      let d := ((armCells c a).filter fun p => p / 64 = t).foldl (fun d p => calOverdue d (a * 512 + p)) d
      (d, recs, x.mode = .blocked, x.iarm.toNat, x.iarmSat)
    | none => (d, List.replicate 64 nopRec, false, 0, false)
  let d := diagSubs (cfgQueue d n) n
  let jw := openWindow d n oc
  let jb := match jw with
    | some (j0, jl) => [0x12, 0xFF, 8, 0] ++ toBE 4 j0 ++ toBE 2 jl ++ zeros 2
    | none => []
  let q := (port d n).mgmt
  let (d, area, keep) := packArea (q.length + 1) d n oc q jb.length jb []
  let d := modPort d n fun p => { p with mgmt := keep, joinOpen := match jw with | some (j0, jl) => some (oc, j0, jl) | none => p.joinOpen
                                         built := some oc
                                         suspended := if susp then oc :: p.suspended.take 3 else p.suspended
                                         subs := p.subs.filter fun s => cycleDiff s.1 (cyc d) ≥ -2 }
  let hdr := frameHeader d n oc blocked susp jw.isSome (!area.isEmpty) iarm sat clen
  let body := hdr ++ recs.flatMap recBytes ++ padTo 64 area
  let fr : OrderFrame := { cycle := oc, body := body, depart := departOf d k (planF c), phase := (keyFor (treeKey d n) oc).1 }
  modPort d n fun p => { p with frame := some fr }

/-- Order frames leave from cycle 2 of the epoch, while the trees are not silent (R362, R549, R550). -/
def framesOn (d : Director) (oc : Cycle) : Bool :=
  works d && d.time.running && (d.time.sending || (2 ≤ oc.toNat && (d.time.ownEpoch || (d.sk.active && d.time.twinSeen)))) && treesLit d

def execOrderAssembly (port_ : Nat) (s : State) : Host.Outcome State Fault Refusal :=
  ifUnit (port_ < 52) (onDir s fun d =>
    if portHere (part d) port_ && framesOn d (frameOrder d port_) && streaming d port_ && (port d port_).built != some (frameOrder d port_) then assemble d port_ else d)

/-! The mirror and the step (R243, R310, R312) -/

/-- CMD of each position's record for the order cycle of the step just committed: the sort and the record
assembly run on its results (R310; DEDUCED, assumption 62). -/
def ordersAhead (d : Director) (a : Nat) : Nat → Nat :=
  let oc := stepOrder d
  let e := sortRun d a none
  let nop := slotsSuspended.stepCycles d oc || (match (arm d a).nop with | some (o, _) => o = oc | none => false)
  fun p => if !configured (cfg d) (a * 512 + p) then 15 else
    match portOf (part d) a (p / 64) with
    | some n => (slotRecord e a p n oc nop).2.cmd
    | none => 15

/-- A full mirror fits at the width in use (R311). -/
def mirrorFits (d : Director) : Bool :=
  let t := if d.sk.width = 4 then 4138 else if d.sk.width = 2 then 8275 else 16550
  3450 + t ≤ planN (cfg d)

/-- Role and row of the twin's view of an arm in step k: that of its step, or the one that phase 1 will give an arm whose step
of this cycle has not begun (R310, R322). -/
def roleIn (d : Director) (a : Nat) (k : Cycle) : Arm := if (arm d a).seq = k then arm d a else arm (roleSelect d a k) a

/-- The converter block (R310). -/
def converterBlock (d : Director) (k : Cycle) : List Byte :=
  let free := (List.range 6).any fun a => (roleIn d a k).row = 5
  toBE 4 k.toNat ++ b1 (sideNum d) ++ b1 d.sk.width ++ (List.range 6).flatMap (fun a => b1 (roleCode (roleIn d a k).role))
    ++ toBE 2 d.sk.slowIndex ++ b1 (b2n (mirrorFits d) + 2 * b2n free) ++ zeros 49
    ++ (List.range 6).flatMap fun i => (learnedWords (cellRec d (6 * d.sk.slowIndex + i))).flatMap (toBE 4)

/-- One arm block: its header, and for an AUTHORITY the values of the step (R310). -/
def armBlock (d : Director) (a : Nat) : List Byte :=
  let x := arm d a
  let auth := x.role = .authority
  let hdr := b1 a ++ b1 (modeCode x.mode) ++ b1 (roleCode x.role)
    ++ b1 (b2n x.numeric + 2 * b2n x.ramp.isSome + 4 * b2n x.inj.isSome + 8 * b2n x.yielding.isSome)
    ++ toBE 2 x.held ++ toBE 2 x.unavail ++ zeros 8
  if !auth then padTo 2688 hdr else
  let v (l : List F32) (n : Nat) := f32Be (vecN n l)
  let um := if x.mode = .manual then x.uMan else if x.mode = .hold then x.uHold else []
  let (er, j) := x.ramp.getD ([], 0)
  let quar := (List.range 64).map fun i => BitVec.ofNat 8 (maskOf ((List.range 8).filterMap fun b =>
    if (tget 1 (8 * i + b) x.causes) = 2 then some (7 - b) else none))
  padTo 264 (hdr ++ v x.xhat 24 ++ v x.uGood 8 ++ v um 8 ++ v x.rEff 8 ++ v er 8 ++ toBE 4 j
      ++ toBE 4 ((x.inj.map (·.j)).getD 0) ++ toBE 2 ((x.inj.map (·.prbs.toNat)).getD 0))
    ++ padTo 56 ((List.range 16).flatMap fun i => let o := tget {} i x.outs
        b1 (min o.loss 255) ++ b1 (min o.run 255) ++ b1 (b2n o.frozen))
    ++ quar ++ nibbles (ordersAhead d a)
    ++ (List.range 512).flatMap fun p => if configured (cfg d) (a * 512 + p) then toBE 4 (cellRec d (a * 512 + p)).vEst.toNat else zeros 4

/-- The converter block of step k leaves first, with the first configured arm, whatever that arm's step commits (R310);
an arm without cells has its block sent with it. -/
def converterSend (d : Director) (a : Nat) (k : Cycle) : Director :=
  let empty (b : Nat) : Bool := (armCells (cfg d) b).isEmpty
  if !d.sk.active || a ≠ (((List.range 6).find? fun b => !empty b).getD 0) then d else
  let d := sendBlock d k 0x10 (converterBlock d k)
  let d := ((List.range 6).filter fun b => b ≠ a && empty b).foldl (fun d b =>
    sendBlock d k b (if mirrorFits d then armBlock d b else (armBlock d b).take 16)) d
  { d with sk := { d.sk with slowIndex := (d.sk.slowIndex + 1) % 512 } }

/-- Phase 8 sends the arm's block (R310, R312). -/
def armSend (d : Director) (a : Nat) (k : Cycle) : Director :=
  if !d.sk.active then d else
  let b := armBlock d a
  sendBlock d k a (if mirrorFits d then b else b.take 16)

/-- ACE_STEP (R243): runs while the director runs with a baked plan and cycle numbers; an arm without cells
steps while a command waits for it. -/
def execAceStep (arm_ : Nat) (fault : PhaseFault) (s : State) : Host.Outcome State Fault Refusal :=
  ifUnit (arm_ < 6) (onDir s fun d =>
    if works d && d.time.running && (!(armCells (cfg d) arm_).isEmpty || awaited (arm d arm_)) then
      let k := stepCycle d
      let d := modArm d arm_ fun x => { x with seq := k }
      let d := aceRun d arm_ fault
      let d := converterSend d arm_ k
      if fault = .none then armSend d arm_ k else d
    else d)

/-! Launch -/

/-- Bytes 0 to 611 of a copy: DEPART in place, TAG and FCS (R118, R119). -/
def frameBytes (d : Director) (n : Nat) (f : OrderFrame) (repeat_ : Bool) (depart : Int) : List Byte :=
  let w := beAt f.body 4 12 + unsigned 32 depart * 2 ^ 24
  let x := f.body.take 4 ++ toBE 12 w ++ f.body.drop 16
  let iv := [if repeat_ then 0x02 else 0x01, BitVec.ofNat 8 (sideNum d * 128 + n), if repeat_ then 97 else 96, 0] ++ toBE 4 f.cycle.toNat ++ zeros 4
  let key := (keyFor (treeKey d n) f.cycle).2
  let y := x ++ toBE 16 (gmac key iv x).toNat
  y ++ toBE 4 (crc32c y)

/-- Stream index of a copy (R71). -/
def copyIndex (repeat_ : Bool) : Nat := if repeat_ then 97 else 96

/-- The scrambled body of a copy: its cycle-number field under the fixed seed, the rest under the seed of R71 (R72). -/
def orderBits (cycle : Cycle) (si : Nat) (bits : List Bool) : List Bool :=
  scramble fixedSeed (bits.take 32) ++ scramble (seedOf cycle si) (bits.drop 32)

/-- Line bits of a copy from the first one of its delimiter on (R70 to R75). -/
def copyLine (d : Director) (n : Nat) (f : OrderFrame) (repeat_ : Bool) (depart : Int) : List Bool :=
  let code := if repeat_ then tcRepeat else tcFirst
  delimiter code ++ stuff (typeRun code) (orderBits f.cycle (copyIndex repeat_) (bytesBits (frameBytes d n f repeat_ depart)))

/-- Send a copy on the line; idle fill goes on under its scrambler (R70 to R76). -/
def sendCopy (d : Director) (n : Nat) (f : OrderFrame) (repeat_ : Bool) (depart : Int) : Director :=
  let code := if repeat_ then tcRepeat else tcFirst
  let body := orderBits f.cycle (copyIndex repeat_) (bytesBits (frameBytes d n f repeat_ depart))
  sendLine d n (.tree n code (linePolarity d n (copyLine d n f repeat_ depart)) depart)
    (scrAfter (8 * 612 - 32) (seedOf f.cycle (copyIndex repeat_))) (runAfter (typeRun code) body)

/-- A record of a frame sent with NOP throughout was never sent (R49, R55). -/
def nopSent (s : SentRec) : SentRec := { s with cmd := 15, launch := 0, duty := 0, seq := 0, flags := 0, type := none }

/-- The frame with NOP in every record (R55, R342). -/
def nopFrame (f : OrderFrame) : OrderFrame :=
  { f with body := f.body.take 16 ++ (List.replicate 64 (recBytes nopRec)).flatten ++ f.body.drop 528 }

/-- DIAG_TX and DIAG_CELL_FREEZE are answered once their second frame has left (R517, R520). -/
def answerLaunched (d : Director) (n : Nat) : Director :=
  [0, 1, 2, 3].foldl (fun d mb =>
    match (mbx d mb).cmd with
    | some c => match c.wait with
      | .cell id _ =>
        if (c.opcode = 0x0904 || c.opcode = 0x0909) && 2 ≤ c.sentIn && cellPort (part d) id = some n then respond d mb stOK (b2 id ++ zeros 2)
        else d
      | _ => d
    | none => d) d

/-- ORDER_FRAME_LAUNCH (R55, R110, R342). -/
def execOrderFrameLaunch (port_ : Nat) (complete : Bool) (s : State) : Host.Outcome State Fault Refusal :=
  ifUnit (port_ < 52) (onDir s fun d =>
    match (port d port_).frame with
    | some f =>
      if !framesOn d f.cycle || (port d port_).prbs.testMode || f.first then d else
      let d := if complete then d else
        let d := modPort d port_ fun p => { p with launchLate := satInc p.launchLate }
        let d := raise d port_ 0x09 (b4 f.cycle.toNat)
        match armOfPort (part d) port_ with
        | some (a, _) => raise (modCntA d a fun t => { t with overrun := satInc t.overrun }) (56 + a) 0x01 []
        | none => d
      let f := if complete then f else nopFrame f
      let d := if complete then d else resent d port_ f.cycle nopSent
      let ticks := ceilDiv (copyLine d port_ f false f.depart).length 4
      let d := sendCopy d port_ f false f.depart
      let d := modTime d fun t => { t with sending := true }
      let d := answerLaunched d port_
      modPort d port_ fun p => { p with frame := some { f with first := true, ticks := ticks } }
    | none => d)

/-- REPEAT_COPY_LAUNCH (R47, R126): T_REPEAT after the first copy, in the cycle that then runs. -/
def execRepeatCopyLaunch (port_ : Nat) (s : State) : Host.Outcome State Fault Refusal :=
  ifUnit (port_ < 52) (onDir s fun d =>
    match (port d port_).frame with
    | some f =>
      if !framesOn d f.cycle || (port d port_).prbs.testMode || !f.first || !planRep (cfg d) then d else
      modPort (sendCopy d port_ f true (f.depart + tRepeat * 32)) port_ fun p => { p with frame := none }
    | none => d)

/-- BLOCK_IN_ASSERT (R56, R58, R62, R63): a pulse under 125 ticks is ignored and counted. -/
def execBlockInAssert (pin held tick : Nat) (s : State) : Host.Outcome State Fault Refusal :=
  ifUnit (pin < 4) (onDir s fun d =>
    if !d.pins.resetN then d
    else if held < 125 then { d with pins := { d.pins with ignored := incTab pin d.pins.ignored } }
    else
      let d := { d with pins := { d.pins with blockIn := tset pin (d.time.raw + tick + held) d.pins.blockIn }
                        rcd := { d.rcd with sawBlock := d.rcd.sawBlock ||| BitVec.twoPow 4 pin } }
      let d := if !inRun d || d.frz.frozen then d else
        let as := blockMask d pin
        urgentArms (as.foldl (fun d a => enterBlocked d a 1) d) as (tick + 125)
      raise d (192 + pin) 0x00 [])

end Sys2Proof.Machine
end

