-- ==== Sys2Proof/Machine/Trees.lean ====
section
/-! DEFINITION. The upstream side of the tree ports: telemetry queues (R416 to R420), the burst
checks (R84, R145, R146), the execution check (R49), edge learning (R292, R295), the slow channel
(R140), management answers (R143, R144, R474 to R481, R514, R528, R556), cell events (R448),
proving (R87 to R93), loss (R102) and stray light (R106). -/

namespace Sys2Proof.Machine

/-! Telemetry queues -/

def tq (d : Director) (q : Nat) : Tq := tget {} q d.tqs
def modTq (d : Director) (q : Nat) (f : Tq → Tq) : Director := { d with tqs := tmod {} q f d.tqs }

/-- Unread bytes of a queue. -/
def tqUsed (l : List TqItem) : Nat := l.foldl (fun n i => n + (i.bytes.length - i.read)) 0

/-- A crumb (R417, R420): first and last lost cycle, TRUNC and the count. -/
def crumb (first last : Nat) (trunc : Bool) (n : Nat) : TqItem :=
  { bytes := b2 0x3010 ++ b2 0xFFFF ++ b4 first ++ b4 last ++ b4 (b2n trunc * 2 ^ 31 + min n (2 ^ 31 - 1)), crumb := true }

/-- Discard the oldest items until `room` bytes fit with 16 to spare; the rest and the lost, oldest first. -/
def tqDiscard (room : Nat) : List TqItem → List TqItem → List TqItem × List TqItem
  | [], lost => ([], lost)
  | i :: r, lost => if tqUsed (i :: r) + room + 16 ≤ 65536 then (i :: r, lost) else tqDiscard room r (lost ++ [i])

/-- Write an item into a queue (R417, R420). -/
def tqPush (d : Director) (q : Nat) (item : List Byte) : Director :=
  let t := tq d q
  if tqUsed t.items + item.length ≤ 65536 then modTq d q fun t => { t with items := t.items ++ [{ bytes := item }] }
  else
    let (old, rest) := match t.items with
      | c :: r => if c.crumb then (some c, r) else (none, t.items)
      | [] => (none, [])
    let (keep, lost) := tqDiscard item.length rest []
    let cyc_ (i : TqItem) := leAt i.bytes 4 4
    let firstLost := (lost.head?.map cyc_).getD 0
    let lastLost := (lost.getLast?.map cyc_).getD 0
    let cut := lost.any fun i => 0 < i.read
    let cr := match old with
      | some c => crumb (leAt c.bytes 4 4) (if lost.isEmpty then leAt c.bytes 8 4 else lastLost)
          (cut || bit (leAt c.bytes 12 4) 31 || decide (0 < c.read)) (fld (leAt c.bytes 12 4) 30 0 + lost.length)
      | none => crumb firstLost lastLost cut lost.length
    let d := modTq d q fun t => { t with items := cr :: keep ++ [{ bytes := item }], lost := satAdd t.lost lost.length }
    raiseLim d (limKey 78 0 q) 78 0 (b1 q)

/-- An item's 8-byte header (R417). -/
def tqHead (type len id : Nat) (k : Cycle) : List Byte := b2 (type * 4096 + len) ++ b2 id ++ b4 k.toNat

/-- The queue of a port's items: its arm's, or the one TQ_MEAS_ASSIGN names (R416). -/
def tqOfPort (d : Director) (n : Nat) : Nat :=
  if 48 ≤ n then parm (recS (cfg d)) 28 (n - 48) (n - 48) % 6
  else match armOfPort (part d) n with | some (a, _) => a | none => 0

/-! Burst bodies -/

/-- The line bits that a tree port's receiver takes, under its configured inversion (R366, R367). -/
def rxLine (d : Director) (n : Nat) (bits : List Bool) : List Bool :=
  if parm (laneS (cfg d)) 2 n 0 = 1 then bits.map (!·) else bits

/-- Bytes of a burst body; none on a line violation (R74, R145). -/
def burstBytes (k : Cycle) (si n : Nat) (bits : List Bool) : Option (List Byte) :=
  (destuff shortRun bits).map fun b => bitsBytes n (scramble (seedOf k si) (b.take (8 * n)))

/-- CRC-16 of a body of `n` bytes (R145). -/
def crc16Ok (bs : List Byte) (n : Nat) : Bool := bs.length = n && crc16 (bytesBits (bs.take (n - 2))) = beAt bs (n - 2) 2

/-- Key check of a burst: the leftmost 32 bits of its GMAC (R118, R145). -/
def burstTagOk (d : Director) (n id first si : Nat) (k : Cycle) (pay : List Byte) (tag : Nat) : Bool :=
  match (cellRec d id).key with
  | some key =>
    let iv := [BitVec.ofNat 8 first, BitVec.ofNat 8 (sideNum d * 128 + n), BitVec.ofNat 8 si, 0] ++ toBE 4 k.toNat ++ zeros 4
    (gmac key iv pay).toNat / 2 ^ 96 = tag
  | none => false

/-- Reserved encodings of a report: POWER_STAGE twice and HOLDER (R145 step 4). -/
def reportOk (status lease : Nat) : Bool := fld status 4 3 != 3 && fld lease 3 2 != 3 && fld lease 7 6 != 3

/-- Reserved bits and UTYPE of a management burst (R143, R145 step 4). -/
def mgmtOk (p : List Byte) : Bool :=
  match byteAt p 0 with
  | 0 => allZero (p.drop 4)
  | 1 => true
  | 2 => byteAt p 7 = 0 && natOk (byteAt p 6)
  | 3 => allZero (p.drop 21)
  | 4 => byteAt p 8 = 0
  | 5 => allZero (p.drop 9)
  | 6 => true
  | _ => false
where natOk (n : Nat) : Bool := 1 ≤ n && n ≤ 4

/-- Values of a report burst (R133) or of a node's burst (R141). -/
def parseBurst (k : Cycle) (node : Bool) (p : List Byte) : Burst × Nat × Nat :=
  let w := beNat p
  if node then
    ({ cycle := k, vinst := 0, vavg := 0, status := BitVec.ofNat 16 (fld w 127 112), edge := -2048, echo := fld w 87 80,
       lease := BitVec.ofNat 8 (fld w 79 72), vchk := 0
       pri := (List.range 8).map fun j => signed 24 (fld w (511 - 24 * j) (488 - 24 * j))
       chk := (List.range 8).map fun j => signed 24 (fld w (319 - 24 * j) (296 - 24 * j))
       svalid := BitVec.ofNat 8 (fld w 71 64), raw := p }, fld w 111 106, fld w 105 88)
  else
    ({ cycle := k, vinst := fld w 127 104, vavg := fld w 103 80, status := BitVec.ofNat 16 (fld w 79 64),
       edge := signed 12 (fld w 39 28), echo := fld w 27 20, lease := BitVec.ofNat 8 (fld w 19 12), vchk := fld w 11 0, raw := p },
     fld w 63 58, fld w 57 40)

/-! Execution check and edge learning -/

/-- The record sent to a cell for order cycle k − 1. -/
def sentBefore (r : CellRec) (k : Cycle) : Option SentRec := r.sent.find? fun s => s.cycle + 1 = k

/-- R49: the burst of cycle k against the record of k − 1; none: missing or failed. -/
def execCheck (d : Director) (n id : Nat) (k : Cycle) (b : Option Burst) : Director :=
  match sentBefore (cellRec d id) k with
  | none => d
  | some s =>
    if s.cmd = 15 then d else
    let ev (d : Director) (why : Nat) := raise d n 0x08 (b2 id ++ b1 why ++ b1 s.seq ++ b4 s.cycle.toNat)
    match b with
    | none => ev d 3
    | some x =>
      let d := if x.echo != s.seq then ev d 1 else d
      if x.status.getLsbD 6 then ev d 2 else d

/-- CP_EDGE_REF of a type as last written, or as configured (R292, R556). -/
def edgeRefOf (c : Cfg) (id : Nat) (r : CellRec) (t : Nat) : Nat := tget (cellCfg c id (0x48 + t)) t r.edgeRef

/-- The edge sample of a burst (R283, R292) and the write of CP_EDGE_REF (R295). -/
def learnEdge (d : Director) (n id : Nat) (k : Cycle) (b : Burst) : Director :=
  let c := cfg d
  let a := cellArm id
  let r := cellRec d id
  let src := fld b.lease.toNat 5 4
  let no := modCellCnt d id fun t => { t with edgeReject := satInc t.edgeReject }
  if parm (armS c a) 46 0 1 = 0 then d else
  match sentBefore r k with
  | none => no
  | some s =>
    match s.type with
    | none => no
    | some t =>
      let straddle := match r.edgeRefAt.find? (·.1 = t) with
        | some (_, w) => decide (1 ≤ cycleDiff s.cycle w) && decide (cycleDiff s.cycle w ≤ 4)
        | none => false
      if b.edge = -2048 || b.edge = -2047 || b.edge = 2047 || b.echo != s.seq || s.cmd = 15 || !(src = 1 || src = 2) || straddle then no else
      let ref_ := edgeRefOf c id r t
      let sample : Int := ref_ + 4 * b.edge
      let l := tget {} t r.learned
      let v := if l.count = 0 then sample else l.lam + roundAway (sample - l.lam) (2 ^ parm (armS c a) 47 0 4)
      let lam := (clampInt 0 1048575 v).toNat
      let d := modRec d id fun r => { r with learned := tset t { lam := lam, count := l.count + 1 } r.learned }
      let far := 4096 < ((lam : Int) - ref_).natAbs
      let queued := (port d n).mgmt.any fun m => m.mtype = 0x0B && m.cell = some id && beAt m.body 0 2 = 0x48 + t
      if far && !queued then
        let d := modCellCnt d id fun t => { t with edgeRefWrite := satInc t.edgeRefWrite }
        mgmtTo d id 0x0B (writeBody (0x48 + t) [lam]) (secured id)
      else d

/-! Slow channel -/

/-- Items whose 18-bit value a 32-bit mirror extends (R140). -/
def countItem (i : Nat) : Bool := (14 ≤ i && i ≤ 21) || (24 ≤ i && i ≤ 52) || (54 ≤ i && i ≤ 57)

/-- A slow item of an accepted burst (R138, R140, R417, R571). -/
def onSlow (d : Director) (n id : Nat) (k : Cycle) (i v : Nat) : Director :=
  let d := modRec d id fun r =>
    let old := (tget 0 i r.slow).toNat
    { r with
      slow := tset i (BitVec.ofNat 18 v) r.slow
      mirrors := if countItem i then tset i (satAdd (tget 0 i r.mirrors) ((v + 2 ^ 18 - old) % 2 ^ 18)) r.mirrors else r.mirrors
      neverCalAt := if i != 12 then r.neverCalAt else if v = 262143 then (if r.neverCalAt.isSome then r.neverCalAt else some d.time.starts) else none }
  let d := if i = 12 && !isNode id then calOverdue d id else d
  let pos := (if 48 ≤ n then (n - 48) * 64 else match armOfPort (part d) n with | some (_, t) => t * 64 | none => 0) + cellSlot id
  if (k.toNat + pos) % tqDecim (cfg d) = 0 then
    tqPush d (tqOfPort d n) (tqHead 2 12 id k ++ b4 (i * 2 ^ 18 + v))
  else d

/-! Joining: refusals -/

/-- Count a refusal and raise its event (R101): causes 5 and 6 on source 208 alone (R107; DEDUCED, assumption 73). -/
def countRefusal (d : Director) (n id cause : Nat) : Director :=
  let d := modPort d n fun p => { p with joinRefused := satInc p.joinRefused }
  if cause = 5 || cause = 6 then raise d 208 cause (b2 id ++ b1 cause) else raise d n 0x05 (b2 id ++ b1 cause)

/-- JOIN_NAK to a nonce (R101, R131). -/
def joinNak (d : Director) (n id : Nat) (nonce : BitVec 64) (cause : Nat) : Director :=
  countRefusal (pushMgmt d n { mtype := 0x02, dest := 0x41, body := toBE 8 nonce.toNat ++ b1 cause ++ [0] }) n id cause

/-- Close the exchange of a port and put its cell back to LISTEN. -/
def closeExchange (d : Director) (n : Nat) : Director :=
  match (port d n).exchange with
  | some e =>
    let d := modPort d n fun p => { p with exchange := none, mgmt := p.mgmt.filter (fun m => !(m.dest = 0x40 && (m.cell = none || m.cell = some e.cell))), subs := p.subs.filter fun s => s.2.2 != e.cell }
    modRec d e.cell fun r => { r with link := .listen, granted := none, withdrawn := none, key := none, keyConfirmed := false, pendOfs := none }
  | none => d

/-! Management answers -/

/-- Cells that wait in a mailbox: the command's mailbox number and the command, for a cell and an opcode. -/
def waiting (d : Director) (id op : Nat) : Option (Nat × Cmd × Nat) :=
  [0, 1, 2, 3].findSome? fun mb => match (mbx d mb).cmd with
    | some c => match c.wait with
      | .cell i st => if i = id && c.opcode.toNat = op then some (mb, c, st) else none
      | _ => none
    | none => none

/-- Values a configuration PARAM_READ of a sub-step asks for (R556). -/
def readCount (id : Nat) (r : CellRec) : Nat :=
  if r.cfgStep = 320 then
    match (cfgRuns (isNode id))[r.cfgIndex / 4]? with
    | some (_, n) => min 4 (n - 4 * (r.cfgIndex % 4))
    | none => 1
  else 1

/-- A PARAM_VALUE answer to the configuration of R556. -/
def cfgAnswer (d : Director) (id : Nat) (vals : List Nat) : Director :=
  let r := cellRec d id
  let want := cfgCrc (cfg d) id
  let v := vals.headD 0
  let go (s : Nat) : Director := modRec d id fun r => { r with cfgStep := s, cfgIndex := 0, retries := 0, diffs := [], diffAt := none, reading := none, sealed := r.sealed || decide (s = 6) }
  match r.cfgStep with
  | 20 => if v = want then go 6 else if v = 0 then go 4 else go 3
  | 310 => if v = 0 then go 4 else go 32
  | 330 => if v = want then go 6 else cfgFail d id 3
  | 510 =>
    if v = want then go 6
    else
      let k := (cfgRuns (isNode id)).length + 1
      if r.retries = k then cfgFail d id 5 else modRec d id fun r => { r with cfgStep := 5, retries := k, reading := none }
  | 320 =>
    let i0 := match r.reading with | some (i, _, _) => i | none => 0
    -- of CP_PLL_MODE only bit 1 is written (R195)
    let same (i x w : Nat) : Bool := if i = 2 then fld x 1 1 = fld w 1 1 else x = w
    let more := (withIdx vals).filterMap fun (j, x) =>
      let w := cfgValue d id (i0 + j)
      if same (i0 + j) x w then none else some (i0 + j, w)
    modRec d id fun r => { r with cfgStep := 32, cfgIndex := r.cfgIndex + 1, diffs := r.diffs ++ more, reading := none }
  | _ => d

/-- A parameter record of R556 was refused: it is retried once, then the cell stays unconfigured. `retries` holds one more than
the record retried last: its run in step 4, its index in step 3. -/
def cfgRefused (d : Director) (id idx : Nat) : Director :=
  let r := cellRec d id
  if r.cfgStep = 4 || r.cfgStep = 5 || (idx != 0x3F && (r.cfgStep = 51 || r.cfgStep = 510)) then
    let runs := cfgRuns (isNode id)
    let at_ := runs.findIdx fun (i, n) => i ≤ idx && decide (idx < i + n)
    if r.retries = at_ + 1 then cfgFail d id 4
    else modRec d id fun r => { r with cfgStep := 4, cfgIndex := min at_ r.cfgIndex, retries := at_ + 1, reading := none }
  else if r.cfgStep = 34 || r.cfgStep = 330 then
    if r.retries = idx + 1 then cfgFail d id 3
    else modRec d id fun r => { r with cfgStep := 34, diffs := r.diffs ++ [(idx, cfgValue d id idx)], retries := idx + 1, reading := none }
  else if r.cfgStep = 7 && idx = 0x14 then
    if 1 ≤ r.retries then cfgFail d id 6 else modRec d id fun r => { r with cfgStep := 6, retries := 1 }
  else d

def paramReply (id idx : Nat) (vals : List Nat) : List Byte := b2 id ++ b2 idx ++ b1 vals.length ++ zeros 3 ++ vals.flatMap b4

/-- PARAM_READ for a command. -/
def cmdRead (d : Director) (id mb idx n : Nat) : Director :=
  mgmtTo d id 0x0C (readBody idx n) fun r => { r with why := .cmd mb, subs := 1 }

/-- A PARAM_VALUE answer (R475, R476, R556). -/
def onParamValue (d : Director) (id : Nat) (p : List Byte) : Director :=
  let idx := beAt p 4 2
  let cnt := byteAt p 6
  let vals := (List.range cnt).map fun j => beAt p (8 + 4 * j) 4
  let r := cellRec d id
  if (match r.reading with | some (i, _, _) => decide (i = idx) && decide (cnt = readCount id r) | none => false) then cfgAnswer d id vals else
  match waiting d id 0x0301 with
  | some (mb, c, _) =>
    if leAt c.payload 2 2 = idx && byteAt c.payload 4 = cnt then respond d mb stOK (paramReply id idx vals) else d
  | none =>
    match waiting d id 0x0302 with
    | some (mb, c, st) =>
      let i0 := leAt c.payload 2 2
      let total := byteAt c.payload 4
      if idx != i0 + st || cnt != min 4 (total - st) then d else
      let got := c.got ++ vals.flatMap b4
      if st + cnt < total then
        let d := modCmd d mb fun c => { c with got := got, wait := .cell id (st + cnt) }
        cmdRead d id mb (i0 + st + cnt) (min 4 (total - st - cnt))
      else if got = c.payload.drop 8 then respond d mb stOK (b2 id ++ b2 i0 ++ b1 total ++ zeros 3 ++ got)
      else respond d mb stRange []
    | none => d

/-- An EEPROM_READ record of up to 20 bytes for a command (R481). -/
def cmdEeprom (d : Director) (id mb block ofs n : Nat) : Director :=
  mgmtTo d id 0x0F (b1 block ++ toBE 2 ofs ++ b1 n) fun r => { r with why := .cmd mb, subs := 1 }

/-- An EEPROM_DATA answer (R241, R481). -/
def onEepromData (d : Director) (n id : Nat) (p : List Byte) : Director :=
  match waiting d id 0x0307 with
  | some (mb, c, st) =>
    let block := byteAt c.payload 2
    let ofs := leAt c.payload 4 2
    let total := leAt c.payload 6 2
    let cnt := byteAt p 7
    if byteAt p 4 != block then d
    else if cnt = 0 then respond d mb stRange []
    else if beAt p 5 2 != ofs + st then d
    else
      let got := c.got ++ sub p 9 (min cnt 15)
      let st := st + min cnt 15
      if total ≤ st then respond d mb stOK (c.payload.take 8 ++ got.take total)
      else
        let d := modCmd d mb fun c => { c with got := got, wait := .cell id st }
        if st % 20 = 0 then cmdEeprom d id mb block (ofs + st) (min 20 (total - st)) else wantSub d n id
  | none => d

/-! Cell patches of the image (R541, R603 to R605) -/

/-- A section of the image in use: its address in flash and its size (R541). -/
def imageSection (m : Stores) (d : Director) (type inst : Nat) : Option (Nat × Nat) :=
  let base := slotBase d d.boot.slot
  let n := (rdByte m .flash (base + 5)).toNat
  (List.range n).findSome? fun i =>
    let e := rdBytes m .flash (base + 128 + 16 * i) 16
    if byteAt e 0 = type && byteAt e 1 = inst then some (base + leAt e 4 4, leAt e 8 4) else none

/-- PATCH_DATA at an offset of an object. -/
def patchRecord (d : Director) (id ofs : Nat) (data : List Byte) (why : MgmtWhy) : Director :=
  mgmtTo d id 0x0E (toBE 4 ofs ++ zeros 4 ++ data) fun r => { secured id r with why := why, subs := 1 }

/-- The next PATCH_DATA of the image's patch for a cell (R605). -/
def patchNext (m : Stores) (d : Director) (id ofs : Nat) : Director :=
  match imageSection m d 0x83 (cellVar (cfg d) id) with
  | some (at_, size) =>
    if ofs < size then
      patchRecord { d with patching := tset id ofs d.patching } id ofs (rdBytes m .flash (at_ + ofs) (min 44 (size - ofs))) .plain
    else { d with patching := tdel id d.patching }
  | none => d

/-- A PATCH_ACK (R528, R604, R605). -/
def onPatchAck (m : Stores) (d : Director) (id : Nat) (p : List Byte) : Director :=
  let ofs := beAt p 4 4
  let st := byteAt p 8
  let d := if st != 0 then raise d 211 0x02 (b2 id ++ b1 st) else d
  match waiting d id 0x0A06 with
  | some (mb, c, s) =>
    let o := leAt c.payload 4 4 + s
    let data := c.payload.drop 8
    if ofs != o then d else
    let next := s + 44
    if st != 0 || data.length ≤ next then respond d mb stOK (b2 id ++ b1 st ++ [0] ++ b4 o)
    else
      let d := modCmd d mb fun c => { c with wait := .cell id next }
      patchRecord d id (o + 44) ((data.drop next).take 44) (.cmd mb)
  | none =>
    match d.patching.find? (·.1 = id) with
    | some (_, o) => if ofs != o then d else if st = 0 then patchNext m d id (o + 44) else { d with patching := tdel id d.patching }
    | none => d

/-! Cell events (R448, R588) -/

/-- The source of a cell event's class. -/
def classSource (d : Director) (id code : Nat) : Nat :=
  if isNode id then 188 + ((cellPort (part d) id).getD 48 - 48)
  else 128 + 10 * cellArm id + min (code / 16) 9

/-- Write one entry for a cell event record, within 64 entries of its source in any 1,000 cycles. -/
def cellClassEvent (d : Director) (id code seq : Nat) (detail : BitVec 64) : Director :=
  let src := classSource d id code
  let recent := (tget [] src d.ring.window).filter fun t => d.time.starts < t + 1000
  if !d.ring.enable.getLsbD src then d
  else if 64 ≤ recent.length then
    { d with ring := { d.ring with window := tset src recent d.ring.window, held := tmod 0 src satInc d.ring.held } }
  else
    let held := (tget 0 src d.ring.held).toNat
    let dt := if held = 0 then toLE 8 detail.toNat else toLE 4 detail.toNat ++ toLE 4 held
    -- DATA bytes 8 to 11 hold the suppressed count in place of DETAIL[63:32]
    let e : Event := { source := src, detail := code, time := nowStamp d, data := b2 id ++ b1 code ++ b1 seq ++ dt, flags := if held = 0 then 0 else 2 }
    { d with ring := { d.ring with window := tset src (d.time.starts :: recent) d.ring.window, held := tset src 0 d.ring.held, decided := d.ring.decided ++ [e] } }

/-- A CELL_EVENT burst: its entry, its acknowledgement, and what the director reacts to (R124, R144, R448, R556). -/
def onCellEvent (d : Director) (id : Nat) (p : List Byte) : Director :=
  let seq := byteAt p 4
  let code := byteAt p 5
  let detail := BitVec.ofNat 64 (beAt p 13 8)
  let d := cellClassEvent d id code seq detail
  let d := mgmtTo d id 0x0D (b1 seq ++ zeros 3) fun r => r
  let d := if code = 0x92 && !isNode id then raise d (56 + cellArm id) 0x13 (b2 id) else d
  if code = 0x60 then cfgRefused d id (fld detail.toNat 63 48) else d

/-! JOIN_DATA -/

/-- Put a 19-byte chunk into its place. -/
def putChunk (bs : List Byte) (i : Nat) (x : List Byte) : List Byte := padTo (19 * i) bs ++ padTo 19 x ++ bs.drop (19 * i + 19)

def dirDevKey (d : Director) : BitVec 256 := BitVec.ofNat 256 (fld (fuses d) 1407 1152)

/-- The transcript of an exchange (R99, R594). -/
def exTranscript (d : Director) (e : Exchange) : List Byte :=
  transcript e.deviceId.toNat (deviceId d) e.nonce (toBE 16 e.myNonce.toNat) (e.pub.take 33) (ecPublic e.eph) e.cell e.window

/-- Every chunk of a KIND has arrived. -/
def kindDone (e : Exchange) (k : Nat) : Bool := (List.range (if k = 1 then 6 else if k = 2 then 2 else 4)).all fun i => e.chunks.contains (k * 256 + i)

/-- Downstream JOIN_DATA records of a KIND (R131, R594): at most 54 data bytes each. -/
def sendJoinData (d : Director) (n : Nat) (e : Exchange) (kind : Nat) (bs : List Byte) : Director :=
  (List.range (ceilDiv bs.length 54)).foldl (fun d i =>
    pushMgmt d n { mtype := 0x03, dest := 0x40, body := toBE 2 e.handle.toNat ++ b1 kind ++ b1 i ++ (bs.drop (54 * i)).take 54 }) d

/-- A chunk of the cell's data; a completed KIND completes a step (R100), and the director signs once it has the cell's key. -/
def onJoinData (d : Director) (n : Nat) (p : List Byte) : Director :=
  match (port d n).exchange with
  | none => d
  | some e =>
    let kind := byteAt p 4
    let i := byteAt p 1
    let x := p.drop 5
    if beAt p 2 2 != e.handle.toNat || !(kind = 1 || kind = 2 || kind = 3) || e.chunks.contains (kind * 256 + i) then d else
    let e := { e with
      chunks := (kind * 256 + i) :: e.chunks
      cert := if kind = 1 then putChunk e.cert i x else e.cert
      pub := if kind = 2 then putChunk e.pub i x else e.pub
      sig := if kind = 3 then putChunk e.sig i x else e.sig }
    let done := kindDone e kind
    let e := if done then { e with stepAt := d.time.starts } else e
    let d := modPort d n fun p => { p with exchange := some e }
    if done && kind = 2 then sendJoinData d n e 3 (ecdsaSign (dirDevKey d) e.sigK (sha256 (0x44 :: exTranscript d e))) else d

/-- An accepted management burst (R143, R144, R416). -/
def onMgmt (m : Stores) (d : Director) (n i id : Nat) (k : Cycle) (p : List Byte) : Director :=
  let d := tqPush d (tqOfPort d n) (tqHead 1 36 id k ++ b1 n ++ b1 i ++ zeros 2 ++ p)
  match byteAt p 0 with
  | 1 => onJoinData d n p
  | 2 => onParamValue d id p
  | 3 => onCellEvent d id p
  | 4 => onEepromData d n id p
  | 5 => onPatchAck m d id p
  | 6 =>
    if d.diagBuf.length < 256 then { d with diagBuf := d.diagBuf ++ [(id, p.drop 4)] }
    else { d with diagLost := min 65535 (d.diagLost + 1) }
  | _ => d

/-! Bursts -/

/-- Slot n of a port is assigned in cycle k to the cell (R80, R93, R96, R111). -/
def slotAssigned (d : Director) (n id : Nat) (k : Cycle) : Bool :=
  let r := cellRec d id
  (match r.granted with | some g => decide (0 ≤ cycleDiff k g) | none => false)
    && (match r.withdrawn with | some w => decide (cycleDiff k w < 0) | none => true)
    && !(port d n).suspended.contains k

/-- A miss (R84, R93): it restarts the average of initial proving (R90). -/
def onMiss (d : Director) (id : Nat) : Director :=
  modRec d id fun r => { r with
    misses := r.misses + 1
    absents := 0
    errSum := if r.link = .proving then 0 else r.errSum
    errCount := if r.link = .proving then 0 else r.errCount
    block := if r.link = .proving then none else r.block
    cnt := { r.cnt with windowMiss := satInc r.cnt.windowMiss } }

/-- The first tagged burst in the slot confirms the key and ends the exchange (R96 step 7, R99). -/
def confirmKey (d : Director) (n id : Nat) : Director :=
  if (cellRec d id).keyConfirmed then d else
  let d := modRec d id fun r => { r with keyConfirmed := true }
  match (port d n).exchange with
  | some e => if e.cell = id then modPort d n fun p => { p with exchange := none } else d
  | none => d

/-- The key confirmation tag fails: cause 0x6 (R101). -/
def confirmFails (d : Director) (n id : Nat) : Director :=
  match (port d n).exchange with
  | some e => if e.cell = id then closeExchange (joinNak d n id e.nonce 6) n else d
  | none => d

/-- The link of this side shows the frame of order cycle k − 1 as accepted (R136). -/
def linkOk (d : Director) (b : Burst) : Bool := b.lease.getLsbD (sideNum d)

/-- What a report confirms to the director: staged records and commands waiting on it (R466, R477, R478, R514). -/
def confirmations (d : Director) (id : Nat) (k : Cycle) (b : Burst) : Director :=
  let ok := linkOk d b
  let done := ((cellRec d id).staging.filter fun x => ok && x.1 + 1 = k).map (·.2)
  let d := if done.isEmpty then d else modRec d id fun r => { r with confirmed := (r.confirmed ++ done).eraseDups }
  let status (d : Director) (op : Nat) : Director := match waiting d id op with
    | some (mb, c, _) => match c.sentAt with
      | some f => if 2 ≤ cycleDiff k f then respond d mb stOK (b2 id ++ b2 b.status.toNat) else d
      | none => d
    | none => d
  let d := status (status d 0x0303) 0x0304
  match waiting d id 0x0901 with
  | some (mb, c, _) => match c.sentAt with
    | some f => if ok && f + 1 = k then respond d mb stOK (b2 id ++ zeros 2) else d
    | none => d
  | none => d

/-- The arrival error of an accepted burst in its block of 64 (R90, R91): the 64th completes the block, and initial
proving takes no burst after it. -/
def takeError (r : CellRec) (err : Int) : CellRec :=
  if r.link = .proving && r.block.isSome then r
  else if r.errCount + 1 = 64 then { r with errSum := 0, errCount := 0, block := some (r.errSum + err) }
  else { r with errSum := r.errSum + err, errCount := r.errCount + 1 }

/-- A burst in a cell's or node's slot that passed every check. -/
def onReport (d : Director) (n id : Nat) (k : Cycle) (err : Int) (p : List Byte) : Director :=
  let (b, si, sv) := parseBurst k (isNode id) p
  let d := confirmKey d n id
  let pend := (cellRec d id).pendOfs.isSome || (port d n).mgmt.any fun m => m.mtype = 0x06 && m.cell = some id
  let d := modRec d id fun r => { (if pend then r else takeError r err) with prev := r.last, last := some b }
  let d := execCheck d n id k (some b)
  let d := if isNode id then d else learnEdge d n id k b
  let d := onSlow d n id k si sv
  let d := confirmations d id k b
  if b.status.getLsbD 0 && (cellRec d id).link = .proven then wantSub d n id else d

/-- The checks of R145 on an accepted burst; the payload when all pass. `mgmt`: a management sub-slot. -/
def checkBurst (d : Director) (n id : Nat) (k : Cycle) (si len : Nat) (mgmt : Bool) (bits : List Bool) : Director × Option (List Byte) :=
  match burstBytes k si (len + 6) (rxLine d n bits) with
  | none => (modPort d n fun p => { p with crcFail := satInc p.crcFail }, none)
  | some bs =>
    if !crc16Ok bs (len + 6) then (modPort d n fun p => { p with crcFail := satInc p.crcFail }, none) else
    let pay := bs.take len
    let skip := mgmt && !(cellRec d id).keyConfirmed
    if !skip && !burstTagOk d n id (if mgmt then 0x13 else 0x11) si k pay (beAt bs len 4) then
      let d := modCellCnt d id fun t => { t with tagFail := satInc t.tagFail }
      let d := raiseLim d (limKey n 7 id) n 0x07 (b2 id ++ zeros 2 ++ b4 (cellRec d id).cnt.tagFail.toNat)
      (if !mgmt && !(cellRec d id).keyConfirmed then confirmFails d n id else d, none)
    else
      let ok := if mgmt then mgmtOk pay
        else if isNode id then (let w := beNat pay; reportOk (fld w 127 112) (fld w 79 72) && fld w 63 0 = 0)
        else (let w := beNat pay; reportOk (fld w 79 64) (fld w 19 12))
      if ok then (d, some pay) else (modCellCnt d id fun t => { t with malformed := satInc t.malformed }, none)

/-- Light where nothing is assigned (R106). -/
def stray (d : Director) (n : Nat) : Director :=
  let d := modPort d n fun p => { p with strayLight := satInc p.strayLight }
  raiseLim d (limKey n 6 0) n 0x06 (b4 (port d n).strayLight.toNat)

/-- Class a burst of an assigned slot or sub-slot (R84, R93, R102) and check it. -/
def receive (m : Stores) (d : Director) (n id : Nat) (k : Cycle) (sub_ : Option Nat) (seen : BurstSeen) : Director :=
  let miss (d : Director) : Director := if sub_.isNone then execCheck d n id k none else d
  -- an edge beyond ±8 bit-times (128 units) lies outside the search window; the chips' own delays are taken out (R87)
  match (seen.err.map (· - d.intDelay)).filter (fun e => e.natAbs ≤ 128) with
  | none =>
    let d := modRec d id fun r => { r with
      absents := if sub_.isNone then r.absents + 1 else r.absents
      cnt := { r.cnt with burstAbsent := satInc r.cnt.burstAbsent } }
    miss d
  | some e =>
    if 80 < e.natAbs then miss (onMiss d id)
    else
      let d := modRec d id fun r => { r with misses := 0, absents := 0 }
      match sub_ with
      | some i =>
        match checkBurst d n id k (64 + i) 24 true seen.bits with
        | (d, some p) => onMgmt m d n i id k p
        | (d, none) => d
      | none =>
        match checkBurst d n id k (cellSlot id) (if isNode id then 64 else 16) false seen.bits with
        | (d, some p) => onReport d n id k e p
        | (d, none) => miss d

/-- Some of the light falls between two bit-times (R106). -/
def lightIn (l : List (Nat × Nat)) (lo hi : Nat) : Bool := l.any fun (a, b) => decide (max a lo < min b hi)

/-- Start of a window in ticks of the cycle (R80 to R82). -/
def windowStart (c : Cfg) (n : Nat) : BurstWin → Nat
  | .slot i => planW c + i * (if 48 ≤ n then tSlotM else tSlot)
  | .sub i => planW c + (if 48 ≤ n then 7680 else 7168) + i * 152
  | .join => joinJ0 c n

/-- Burst-reset is asserted for guard bit-times 13 to 15 of every slot, sub-slot and join window (R67). -/
def burstReset (d : Director) (n : Nat) (w : BurstWin) : Director :=
  let t := 2 * windowStart (cfg d) n w
  let opens : Bool := match w with
    | .join => (port d n).joinOpen.any fun j => decide (j.1 = cyc d)
    | _ => true
  if opens then send d (.burstReset n (t + 13) (t + 16)) else d

/-- SLOT_BURST_RECEIVE (R67, R84, R106): one window of the cycle that now runs. -/
def execSlotBurstReceive (port_ : Nat) (win : BurstWin) (seen : BurstSeen) (s : State) : Host.Outcome State Fault Refusal :=
  ifUnit (port_ < 52) (onDir s fun d =>
    let k := cyc d
    if !portHere (part d) port_ || !works d || !d.time.running || (port d port_).prbs.testMode then d else
    -- light from bit-time `lo` to `hi` of the window (R106)
    let dark (d : Director) (lo hi : Nat) := if lightIn seen.light lo hi then stray d port_ else d
    let d := burstReset d port_ win
    match win with
    | .slot n =>
      let dark (d : Director) := if extendedCycle d port_ k then d else dark d 14 (if 48 ≤ port_ then 640 else 224)
      match cellOfSlot (part d) port_ n with
      | some id => if configured (cfg d) id && slotAssigned d port_ id k then receive s.mem d port_ id k none seen else dark d
      | none => dark d
    | .sub i =>
      match (port d port_).subs.find? fun x => x.1 = k && x.2.1 = i with
      | some (_, _, id) => receive s.mem d port_ id k (some i) seen
      | none => dark d 14 304
    | .join =>
      let open_ := match (port d port_).joinOpen with | some (w, _, l) => if w = k then 2 * l else 0 | none => 0
      dark d open_ (2 * (planN (cfg d) + planW (cfg d) - joinJ0 (cfg d) port_)))

/-! Proving -/

/-- DN_OFS and UP_OFS of a round trip (R87): RTT in whole units, rounded half up. -/
def offsetsOf (c : Cfg) (n : Nat) (rtt : Int) : Nat × Nat :=
  let x := rtt * (1000000 - asymRatio c n) - asymFixed c n * 1000000
  let dn := roundHalfUp x 2000000
  ((clampInt 0 65535 dn).toNat, (clampInt 0 65535 (rtt - dn)).toNat)

/-- R92: the larger offset exceeds 32 × D_T. -/
def tooFar (c : Cfg) (n : Nat) (o : Nat × Nat) : Bool := 32 * treeDelay c n < max o.1 o.2

/-- Count DELAY_EXCESS; its event comes once for each cell (R42). -/
def delayExcess (d : Director) (n id : Nat) (o : Nat × Nat) : Director :=
  let d := modPort d n fun p => { p with delayExcess := satInc p.delayExcess }
  if (cellRec d id).excess then d else
  raise (modRec d id fun r => { r with excess := true }) n 0x03 (b2 id ++ zeros 2 ++ b4 (max o.1 o.2) ++ b4 (treeDelay (cfg d) n))

/-- OFFSETS with APPLY two cycles after its frame (R85, R131). -/
def writeOffsets (d : Director) (id : Nat) (o : Nat × Nat) : Director :=
  mgmtTo d id 0x06 (toBE 2 o.1 ++ toBE 2 o.2 ++ zeros 4) fun r => { secured id r with cycAt := [4] }

/-- Withdraw a slot and leave the cell with a link state. -/
def dropCell (d : Director) (id cause : Nat) (l : CellLink) : Director :=
  modRec (withdrawSlot d id cause) id fun r => { r with link := l, misses := 0, absents := 0, errSum := 0, errCount := 0, block := none, cfgStep := 0, reading := none, diagMode := 0, sealed := false }

/-- Excess delay on a write after slot grant (R92). -/
def refuseDelay (d : Director) (n id : Nat) (o : Nat × Nat) : Director := dropCell (delayExcess d n id o) id 3 .listen

/-- INITIAL_PROVING (R90, R556). -/
def execInitialProving (cell : Nat) (s : State) : Host.Outcome State Fault Refusal :=
  ifUnit (cell < 3168) (onDir s fun d =>
    let r := cellRec d cell
    match cellPort (part d) cell with
    | none => d
    | some n =>
      match r.block with
      | none => d
      | some sum =>
      if !works d || r.link ≠ .proving then d else
      let o := offsetsOf (cfg d) n (r.dnOfs + r.upOfs + roundHalfUp sum 64)
      if tooFar (cfg d) n o then refuseDelay d n cell o else
      let d := modRec d cell fun r => { r with
        link := .proven, errSum := 0, errCount := 0, block := none, unreported := true, everUsable := false, unusable := 0
        cfgStep := if r.keyedFrom.isSome then 2 else 1, cfgIndex := 0, retries := 0, reading := none }
      let d := writeOffsets d cell o
      let d := modPort d n fun p => { p with joinOk := satInc p.joinOk }
      raise d n 0x04 (b2 cell ++ b2 o.1 ++ b2 o.2))

/-- PROVING_BLOCK (R91, R92). -/
def execProvingBlock (cell : Nat) (s : State) : Host.Outcome State Fault Refusal :=
  ifUnit (cell < 3168) (onDir s fun d =>
    let r := cellRec d cell
    match cellPort (part d) cell with
    | none => d
    | some n =>
      match r.block with
      | none => d
      | some sum =>
      if !works d || r.link ≠ .proven then d else
      let d := modRec d cell fun r => { r with block := none }
      if sum.natAbs ≤ 8 * 64 then d else
      let o := offsetsOf (cfg d) n (r.dnOfs + r.upOfs + roundHalfUp sum 64)
      let near (old new : Nat) : Nat := (clampInt ((old : Int) - 80) (old + 80) new).toNat
      let o := (near r.dnOfs o.1, near r.upOfs o.2)
      if tooFar (cfg d) n o then refuseDelay d n cell o else
      modCellCnt (writeOffsets d cell o) cell fun t => { t with reprove := satInc t.reprove })

/-- The cell holds a slot on the link. -/
def holdsSlot (r : CellRec) : Bool := r.link = .proving || r.link = .proven

/-- QUARANTINE (R93, R94). -/
def execQuarantine (cell : Nat) (s : State) : Host.Outcome State Fault Refusal :=
  ifUnit (cell < 3168) (onDir s fun d =>
    let r := cellRec d cell
    match cellPort (part d) cell with
    | none => d
    | some n =>
      if !works d || !(holdsSlot r || r.link = .joining) || r.misses < 8 then d else
      -- a joining cell has no slot yet: its exchange ends
      let d := match (port d n).exchange with | some e => if e.cell = cell then closeExchange d n else d | none => d
      let d := dropCell d cell 1 .quarantined
      let d := modRec d cell fun r => { r with
        held := true, heldAt := d.time.starts, entries := r.entries + 1, cnt := { r.cnt with quarantine := satInc r.cnt.quarantine } }
      raise d n 0x01 (b2 cell ++ zeros 2 ++ b4 (cellRec d cell).cnt.windowMiss.toNat))

/-- CELL_LOST (R102). -/
def execCellLost (cell : Nat) (s : State) : Host.Outcome State Fault Refusal :=
  ifUnit (cell < 3168) (onDir s fun d =>
    let r := cellRec d cell
    match cellPort (part d) cell with
    | none => d
    | some n =>
      if !works d || !holdsSlot r || r.absents < 64 then d else
      let d := dropCell d cell 2 .lost
      raise (modCellCnt d cell fun t => { t with lost := satInc t.lost }) n 0x02 (b2 cell))

/-- QUAR_HOLD_EXPIRE (R94). -/
def execQuarHoldExpire (cell : Nat) (s : State) : Host.Outcome State Fault Refusal :=
  ifUnit (cell < 3168) (onDir s fun d =>
    let r := cellRec d cell
    if works d && r.held && r.heldAt + quarHold (cfg d) ≤ d.time.starts then modRec d cell fun r => { r with held := false } else d)

/-! Joining -/

/-- The first cause that refuses a join burst (R97, R101, R94). -/
def joinCause (d : Director) (n id variant link : Nat) (o : Nat × Nat) : Option Nat :=
  let c := cfg d
  let r := cellRec d id
  if 3168 ≤ id || !configured c id || cellPort (part d) id != some n || link != sideNum d then some 1
  else if cellVar c id != variant then some 2
  else if r.link = .proven then some 4
  else if r.held || quarLimit c ≤ r.entries then some 8
  else if tooFar c n o then some 7
  else none

/-- JOIN_BURST_RECEIVE (R96, R97, R100, R101); RTT is the arrival error against J0 + 46 ticks (R87). While the tree or the
director is busy a burst has no effect, whatever cause it would be refused for (R100; DEDUCED, assumption 72). -/
def joinBurstIn (d : Director) (fresh n : Nat) (err : Int) (bits : List Bool) : Director :=
  match (port d n).joinOpen with
  | none => d
  | some (w, _, len) =>
    -- the search covers the join window and nothing more (R84)
    if !(w = cyc d || w + 1 = cyc d) || err < -(46 * 32) || (len : Int) * 32 < err + 46 * 32 then d else
    let d := burstReset d n .join
    let bad := modPort d n fun p => { p with crcFail := satInc p.crcFail }
    match burstBytes w 72 26 (rxLine d n bits) with
    | none => bad
    | some bs =>
      if !crc16Ok bs 26 then bad else
      let x := beNat (bs.take 24)
      if fld x 106 104 != 0 || fld x 31 0 != 0 then modPort d n fun p => { p with joinRefused := satInc p.joinRefused } else
      if (port d n).exchange.isSome || 8 ≤ exchanges d then d else
      let id := fld x 127 112
      let nonce := BitVec.ofNat 64 (fld x 95 32)
      let o := offsetsOf (cfg d) n (err - d.intDelay)
      match joinCause d n id (fld x 111 108) (fld x 107 107) o with
      | some cause =>
        let d := if cause = 7 then delayExcess d n id o else d
        joinNak d n (if 3168 ≤ id then 0xFFFF else id) nonce cause
      | none =>
        let p := port d n
        let my := (Config.freeValue fresh 0).toNat * 2 ^ 64 + (Config.freeValue fresh 1).toNat
        let e : Exchange := { cell := id, variant := fld x 111 108, deviceId := BitVec.ofNat 64 (fld x 191 128), nonce := nonce, handle := p.nextHandle
                              window := w, dn := o.1, up := o.2, myNonce := BitVec.ofNat 128 my, eph := drawScalar fresh 2, sigK := drawScalar fresh 6, stepAt := d.time.starts }
        let d := modPort d n fun p => { p with exchange := some e, nextHandle := if p.nextHandle = 0xFFFF then 1 else p.nextHandle + 1 }
        let d := modRec d id fun r => { r with link := .joining, dnOfs := o.1, upOfs := o.2, pendOfs := none, granted := none, withdrawn := none, key := none, keyConfirmed := false, handle := e.handle, keyedFrom := none, misses := 0, absents := 0 }
        let d := pushMgmt d n { mtype := 0x01, dest := 0x41, cell := some id, cycAt := [14, 18]
                                body := toBE 8 nonce.toNat ++ toBE 2 e.handle.toNat ++ toBE 2 o.1 ++ toBE 2 o.2 ++ zeros 8 ++ b1 0xF0 ++ b1 3 }
        let d := sendJoinData d n e 1 (padTo 112 d.sec.cert)
        sendJoinData d n e 2 (toBE 16 e.myNonce.toNat ++ ecPublic e.eph)

def execJoinBurstReceive (port_ : Nat) (err : Int) (bits : List Bool) (s : State) : Host.Outcome State Fault Refusal :=
  ifUnit (port_ < 52) (onDir s fun d =>
    if portHere (part d) port_ && works d && d.time.running then joinBurstIn d s.fresh port_ err bits else d)

/-- The cell's certificate (R591 to R593). -/
def cellCertOk (d : Director) (e : Exchange) : Bool :=
  let h := sha256 (e.cert.take 48)
  let sig := sub e.cert 48 64
  byteAt e.cert 0 = 1 && byteAt e.cert 1 = 1 && beAt e.cert 2 2 = e.cell && beAt e.cert 4 8 = e.deviceId.toNat
    && beAt e.cert 12 2 = e.variant && byteAt e.cert 14 = 0 && (keyVerifies d.sec.ownerKey h sig || keyVerifies d.sec.altKey h sig)

/-- JOIN_KEY_DERIVED (R96 steps 6 and 7, R592, R594, R595). -/
def execJoinKeyDerived (port_ : Nat) (s : State) : Host.Outcome State Fault Refusal :=
  ifUnit (port_ < 52) (onDir s fun d =>
    match (port d port_).exchange with
    | none => d
    | some e =>
      if !works d || (cellRec d e.cell).link ≠ .joining || !(kindDone e 1 && kindDone e 2 && kindDone e 3) then d
      else if !cellCertOk d e then closeExchange (joinNak d port_ e.cell e.nonce 5) port_
      else
        let tr := exTranscript d e
        if !ecdsaVerify (sub e.cert 15 33) (sha256 (0x43 :: tr)) (e.sig.take 64) || !onCurve (e.pub.take 33) then
          closeExchange (joinNak d port_ e.cell e.nonce 6) port_
        else
          let k := deriveKey (ecdhShared e.eph (e.pub.take 33)) "QZ-SESSION" (sha256 tr)
          let d := modRec d e.cell fun r => { r with
            link := .proving, key := some k, keyConfirmed := false, misses := 0, absents := 0, errSum := 0, errCount := 0, block := none
            last := none, prev := none, sent := [], slow := r.slow.filter (fun p => countItem p.1), learned := r.learned, edgeRef := r.edgeRef, edgeRefAt := r.edgeRefAt
            wanted := [], staging := [], confirmed := [], hasEst := false, unreported := true, everUsable := false, unusable := 0, txDisabled := false }
          let d := modPort d port_ fun p => { p with exchange := some { e with stepAt := d.time.starts } }
          let d := pushMgmt d port_ { mtype := 0x04, dest := 0x40, cell := some e.cell, secure := some e.cell, cycAt := [6]
                                      body := toBE 2 e.handle.toNat ++ b1 (cellSlot e.cell) ++ toBE 3 (planW (cfg d)) ++ zeros 4 }
          pushMgmt d port_ { firstTreeKey d port_ e.cell with why := .plain })

/-- JOIN_EXCHANGE_TIMEOUT (R100). -/
def execJoinExchangeTimeout (port_ : Nat) (s : State) : Host.Outcome State Fault Refusal :=
  ifUnit (port_ < 52) (onDir s fun d =>
    match (port d port_).exchange with
    | some e => if works d && e.stepAt + 64 ≤ d.time.starts then closeExchange (countRefusal d port_ e.cell 0x10) port_ else d
    | none => d)

/-! Configuration time-outs and cell patches -/

/-- A PARAM_READ of the configuration of a cell still waits for its frame (R127, R556). -/
def readUnsent (d : Director) (id : Nat) : Bool :=
  match cellPort (part d) id with
  | some n => (port d n).mgmt.any fun r => r.why = .config && r.cell = some id && r.mtype = 0x0C
  | none => false

/-- CELL_PARAM_READ_TIMEOUT (R556). -/
def execCellParamReadTimeout (cell : Nat) (s : State) : Host.Outcome State Fault Refusal :=
  ifUnit (cell < 3168) (onDir s fun d =>
    let r := cellRec d cell
    match r.reading with
    | some (i, n, t) =>
      if !works d || readUnsent d cell || d.time.starts < t + 16 then d
      else if 3 ≤ n then cfgFail d cell (if r.cfgStep = 20 then 2 else if r.cfgStep = 510 then 5 else 3)
      else
        let d := modRec d cell fun r => { r with reading := some (i, n + 1, d.time.starts) }
        mgmtTo d cell 0x0C (readBody i (readCount cell r)) fun m => { m with why := .config, subs := 1 }
    | none => d)

/-- The arms that hold or read a cell: its own, or those that read the node. -/
def armsOfCell (c : Cfg) (id : Nat) : List Nat :=
  if isNode id then (List.range 6).filter fun a => armNode c a (id - 3072) else [cellArm id]

/-- CELL_PATCH_SEND (R605): once per boot, in OFF or PRECHARGE, from the preferred side. -/
def execCellPatchSend (cell : Nat) (s : State) : Host.Outcome State Fault Refusal :=
  ifUnit (cell < 3168) (onDir s fun d =>
    let c := cfg d
    let r := cellRec d cell
    match imageSection s.mem d 0x83 (cellVar c cell), r.slow.find? (·.1 = 1) with
    | some (at_, _), some (_, level) =>
      let pref := if isNode cell then cpReset 6 else prefSide c (cellArm cell)
      if works d && r.link = .proven && !d.patched.contains cell && pref = sideNum d
          && (armsOfCell c cell).all (fun a => offPre (arm d a).mode)
          && level.toNat < beNat (rdBytes s.mem .flash (at_ + 8) 4) then
        let d := { d with patched := cell :: d.patched }
        patchNext s.mem (raise d 211 0x01 (b2 cell)) cell 0
      else d
    | _, _ => d)

end Sys2Proof.Machine
end

