-- ==== Sys2Proof/Machine/Time.lean ====
section
/-! DEFINITION. Station time: domains and servos (R343 to R351), steps (R337 to R339), PPS (R352,
R353), the twin time comparison (R354 to R357), epochs (R549, R550) and the time ports (R340 to
R342, R392 to R394). -/

namespace Sys2Proof.Machine

/-! Parameters and access -/

def tp (d : Director) (pid e dflt : Nat) : Nat := parm (timeS (cfg d)) pid e dflt
def dom (d : Director) (i : Nat) : Domain := if i = 0 then d.time.domA else d.time.domB
def modDom (d : Director) (i : Nat) (f : Domain → Domain) : Director :=
  modTime d fun t => if i = 0 then { t with domA := f t.domA } else { t with domB := f t.domB }
def tport (d : Director) (p : Nat) : TimePort := if p = 0 then d.time.tp0 else d.time.tp1
def modTport (d : Director) (p : Nat) (f : TimePort → TimePort) : Director :=
  modTime d fun t => if p = 0 then { t with tp0 := f t.tp0 } else { t with tp1 := f t.tp1 }
def pps (d : Director) (i : Nat) : PpsIn := if i = 0 then d.time.pps0 else d.time.pps1
def modPps (d : Director) (i : Nat) (f : PpsIn → PpsIn) : Director :=
  modTime d fun t => if i = 0 then { t with pps0 := f t.pps0 } else { t with pps1 := f t.pps1 }

def domNum (d : Director) (i : Nat) : Nat := tp d (3 + i) 0 i
def domSrc (d : Director) (i : Nat) : Nat := tp d (5 + i) 0 (if i = 0 then 3 else 0)
/-- Domain i may take Sync from time port p. -/
def boundTo (d : Director) (i p : Nat) : Bool := domSrc d i = p + 1 || domSrc d i = 3
def kp (d : Director) : F32 := parmF (timeS (cfg d)) 7 0 0x3F333333
def ki (d : Director) : F32 := parmF (timeS (cfg d)) 8 0 0x3E99999A
/-- Units of 25 ps as 2^-16 ns. -/
def psFrac (u : Int) : Int := u * 8192 / 5
/-- A parameter in ns as 2^-16 ns. -/
def nsParm (d : Director) (pid dflt : Nat) : Int := tp d pid 0 dflt * 65536
/-- 1 ppb in the units of c. -/
def ppb : Int := 2 ^ 32

/-- A binary32 value times an integer times n / den, toward zero. -/
def mulF (x : F32) (i : Int) (n den : Nat) : Int :=
  let v := (fvFloor (B32.dec x) (i.natAbs * n) den).getD 0
  if i < 0 then -v else v

def domCode : DomMode → Nat | .disabled => 0 | .listening => 1 | .acquiring => 2 | .locked => 3 | .suspect => 4
def timeCode : TimeMode → Nat | .unqualified => 0 | .acquiring => 1 | .locked => 2 | .holdover => 3 | .freeRun => 4
def timeOf : Nat → TimeMode | 0 => .unqualified | 1 => .acquiring | 2 => .locked | 3 => .holdover | _ => .freeRun
def srcCode_ : Source → Nat | .none_ => 0 | .domA => 1 | .domB => 2 | .twin => 3
def srcOf (i : Nat) : Source := if i = 0 then .domA else .domB
def srcDom : Source → Option Nat | .domA => some 0 | .domB => some 1 | _ => none

/-! The twin's lead (R355) -/

/-- The valid comparisons of the last 16 cycles, as 2 ε in 25 ps. -/
def leadSum (d : Director) : Int × Nat := (d.time.eps.foldl (fun s e => s + e.2) 0, d.time.eps.length)
/-- A valid comparison has arrived in the last 16 cycles: that of cycle c arrives in cycle c + 1. -/
def compared (d : Director) : Bool := match d.time.eps with | (c, _) :: _ => cycleDiff (cyc d) c ≤ 16 | [] => false
/-- |D| ≤ 2 ns. -/
def leadSmall (d : Director) : Bool := let (s, n) := leadSum d; s.natAbs ≤ 160 * n
/-- The comparison reports a difference beyond ±2 ns (R314, R355). -/
def twinDiffers (d : Director) : Bool := !compared d || !leadSmall d
/-- D in units of 25 ps, to nearest. -/
def leadD (d : Director) : Int := let (s, n) := leadSum d; if n = 0 then 0 else roundHalfUp s (2 * n)

/-! States and sources -/

def setDomMode (d : Director) (i : Nat) (m : DomMode) : Director :=
  let old := (dom d i).mode
  if old = m then d else
  raise (modDom d i fun x => { x with mode := m }) (69 + i) 0x01 (b1 (domCode old) ++ b1 (domCode m))

/-- The epoch is the first whole second after converter time leaves UNQUALIFIED (R34, R549). -/
def setEpoch (t : TimeState) : TimeState := if t.epoch.isSome then t else { t with epoch := some ((t.now / secUnit + 1) * secUnit) }

def setTimeMode (d : Director) (m : TimeMode) : Director :=
  let old := d.time.mode
  if old = m then d else
  let d := modTime d fun t => let t := { t with mode := m }; if old = .unqualified then setEpoch { t with treesOff := false } else t
  let d := lightTrees d
  raise d 68 0x06 (b1 (timeCode old) ++ b1 (timeCode m))

/-- The follower may follow its twin (R356). -/
def twinUsable (d : Director) : Bool :=
  follower d && d.sk.active && (d.time.twinState = .locked || d.time.twinState = .holdover) && compared d

/-- The controlling source of R348; `at_` is the present converter time. -/
def chooseSource (d : Director) (at_ : Int) : Source :=
  let p := tp d 2 0 0
  let o := 1 - p
  let x := dom d p
  let now := d.time.source
  if twinUsable d then .twin
  else if x.mode = .locked && (now = srcOf p || now != srcOf o || (match x.lockedAt with | some t => decide (t + 60 * secUnit ≤ at_) | none => false)) then srcOf p
  else if (dom d o).mode = .locked then srcOf o
  else match srcDom now with
    | some i => if (dom d i).mode = .acquiring then now else .none_
    | none => .none_

/-- The state of converter time for its source (R350). -/
def sourceState (d : Director) : TimeMode :=
  match d.time.source with
  | .none_ => if d.time.mode = .unqualified || d.time.mode = .freeRun then d.time.mode else .holdover
  | .twin => if leadSmall d && compared d then .locked else .acquiring
  | s => match srcDom s with
    | some i => if (dom d i).mode = .locked then .locked else .acquiring
    | none => .acquiring

/-- Set the integrator of the controlling servo; the other servo keeps the same (R346). -/
def setI (d : Director) (i : Int) : Director :=
  modTime d fun t => { t with domA := { t.domA with integ := i }, domB := { t.domB with integ := i } }

/-- Re-evaluate the controlling source (R348 to R350). -/
def reSource (d : Director) (at_ : Int) : Director :=
  let d :=
    if d.time.mode = .unqualified then d else
    let s := chooseSource d at_
    let old := d.time.source
    if s = old then d
    else if s = .none_ then
      modTime d fun t => { t with source := .none_, holdAt := some at_, cNext := t.domA.integ, cPend := none, prop := 0 }
    else
      let th := match srcDom s with | some i => (match (dom d i).theta with | some (v, _) => v | none => 0) | none => 0
      let d := setI d d.time.c
      let d := modTime d fun t => { t with source := s, prop := 0, holdAt := none, switches := satInc t.switches }
      raise d 68 0x03 (b1 (srcCode_ old) ++ b1 (srcCode_ s) ++ zeros 2 ++ b8z th)
  setTimeMode d (sourceState d)

/-! Lengths and steps -/

/-- Raw ticks from a converter time to a grid point at correction c: the nearest, a tie to the later tick (R335). -/
def ticksTo (now grid c : Int) : Nat := (roundHalfUp (grid - now) (tickInc c).toNat).toNat

/-- N in units of converter time. -/
def planUnits (d : Director) : Int := planN (cfg d) * tickUnit

/-- Length of the present and of the next cycle, fixed at the start tick (R334, R335). -/
def fixLengths (d : Director) : Director :=
  let u := planUnits d
  let nc := cyc d + 1
  -- the period of the next cycle: a bake scheduled for it changes N there (R34)
  let u' := match d.cfg.bake with | some b => if b.b = nc then b.period * tickUnit else u | none => u
  modTime d fun t =>
    let len := ticksTo t.now (t.grid + u) t.c
    let then_ := t.now + len * tickInc t.c
    -- a step pending for the next cycle moves converter time at its start (R338)
    let after := match t.step with
      | some p => if p.cycle = nc then (match p.target with | some v => ofFrac v | none => then_ + ofFrac p.delta) else then_
      | none => then_
    let g := t.grid + u
    let g' := if after = then_ then g + u' else g + roundHalfUp (after + u' - g) u'.toNat * u'
    { t with len := len, lenNext := ticksTo after g' t.cNext }

/-- A step of Δ moves every instant and offset the director keeps, so that spans stay as they are (R347). -/
def rebase (t : TimeState) (delta : Int) : TimeState :=
  let far : Int := ofFrac delta
  let dom (x : Domain) : Domain := { x with
    theta := x.theta.map fun (v, a) => (v + delta, a + far), base := x.base.map fun (v, a) => (v + delta, a + far), window := x.window.map (· + delta)
    regain := x.regain.map (· + delta), regainAt := x.regainAt + far, lockedAt := x.lockedAt.map (· + far) }
  let tp (x : TimePort) : TimePort := { x with
    req := x.req.map fun (q, t1) => (q, t1 + delta), ratio := x.ratio.map fun (a, b) => (a, b + delta) }
  let pps (x : PpsIn) : PpsIn := { x with
    lastEdge := x.lastEdge.map (· + delta), devAt := x.devAt.map (· + delta), missAt := x.missAt.map (· + delta)
    glitchAt := x.glitchAt.map (· + delta) }
  { t with domA := dom t.domA, domB := dom t.domB, tp0 := tp t.tp0, tp1 := tp t.tp1, pps0 := pps t.pps0, pps1 := pps t.pps1
           holdAt := t.holdAt.map (· + far), refAt := t.refAt.map (· + far) }

/-- Converter time jumps by Δ at the present start tick; the next cycle starts at the grid point nearest N ticks later (R338). -/
def jump (d : Director) (delta : Int) : Director :=
  let u := planUnits d
  let d := modTime d fun t =>
    let now := t.now + ofFrac delta
    let g := t.grid + roundHalfUp (now + u - t.grid) u.toNat * u
    rebase { t with now := now, grid := g - u } delta
  fixLengths d

def stepAllowed (d : Director) : Bool := allArms d offPre

/-- Name a step two cycles ahead (R337, R338); before cycle numbers run it takes effect at once (R351). -/
def askStep (d : Director) (delta : Int) : Director :=
  if !d.time.running then modTime d fun t => rebase { t with now := t.now + ofFrac delta } delta
  else if d.time.step.isSome then d
  else modTime d fun t => { t with step := some { cycle := t.cycle + 2, delta := delta, target := none, mb := none } }

/-! Servo -/

/-- Commit a correction (R334). -/
def commitC (d : Director) (c : Int) : Director := modTime d fun t => { t with cPend := some c }

/-- Note whether the integrator is beyond ±4,500 ppb (R336). -/
def noteRef (d : Director) (at_ : Int) : Director :=
  modTime d fun t =>
    if 4500 * ppb < t.domA.integ.natAbs then { t with refAt := some (t.refAt.getD at_) } else { t with refAt := none, refSent := false }

/-- One run of the servo of R346 on an accepted offset; dt in units of converter time. -/
def servo (d : Director) (theta dt at_ : Int) : Director :=
  let lim := freqLim d
  let sl := tp d 10 0 10000 * ppb
  let p := clampInt (-sl) sl (-(mulF (kp d) theta (2 ^ 16) 1))
  let i := (dom d 0).integ
  let ii := i - mulF (ki d) (theta * dt) (2 ^ 16) (5 * 2 ^ 48 * 10 ^ 9)
  let i' := if (ii + p).natAbs ≤ lim.natAbs then ii else i
  let d := setI d i'
  let d := modTime d fun t => { t with prop := p, updates := t.updates + 1 }
  let d := commitC d (clampInt (-lim) lim (i' + p))
  let d := if lim.natAbs < (i' + p).natAbs then
      let go := match d.time.limitedAt with | some u => decide (u + 1000 ≤ d.time.updates) | none => true
      let d := modTime d fun t => { t with limited := satInc t.limited, limitedAt := if go then some t.updates else t.limitedAt }
      if go then raise d 68 0x04 (b4 d.time.limited.toNat) else d
    else d
  noteRef d at_

/-! Offsets -/

/-- |θ − (θ_a + p_ctl × T_a)| within the allowance of R347. -/
def plausible (d : Director) (theta prev dt : Int) (p : Int) : Bool :=
  let ex := prev + p * dt / (2 ^ 16 * secUnit)
  (theta - ex).natAbs ≤ (nsParm d 14 1000 + tp d 15 0 1000 * dt * 65536 / secUnit).natAbs

def lockNs (d : Director) : Int := nsParm d 12 100
def lockCount (d : Director) : Nat := tp d 13 0 8

/-- Every offset of a window lies within `w` of its mean. -/
def within (w : Int) (l : List Int) : Bool :=
  let s := l.foldl (· + ·) 0
  l.all fun x => (x * l.length - s).natAbs ≤ (w * l.length).natAbs

/-- An accepted offset (R345, R346, R337, R351). -/
def acceptOffset (d : Director) (i : Nat) (theta at_ : Int) : Director :=
  let x := dom d i
  let dt := match x.theta with | some (_, a) => at_ - a | none => 0
  let win := (theta :: x.window).take (lockCount d)
  let d := modDom d i fun x => { x with theta := some (theta, at_), rejects := 0, window := win }
  let ctl (d : Director) := d.time.source = srcOf i
  let d := match x.mode with
    | .acquiring =>
      if lockCount d ≤ win.length && within (lockNs d) win && (!ctl d || theta.natAbs ≤ (lockNs d).natAbs) then
        setDomMode (modDom d i fun x => { x with lockedAt := some at_ }) i .locked
      else d
    | .locked =>
      let s := win.foldl (· + ·) 0
      if (4 * lockNs d * win.length).natAbs < (theta * win.length - s).natAbs then setDomMode d i .acquiring else d
    | _ => d
  let d := if d.time.mode = .unqualified then
      let d := askStep d (-theta)
      let d := setI d 0
      setTimeMode (modTime d fun t => { t with source := srcOf i, holdAt := none }) .acquiring
    else if ctl d then
      if nsParm d 11 100000 < theta.natAbs && stepAllowed d then askStep d (-theta)
      else if dt = 0 then d else servo d theta dt at_
    else d
  reSource d at_

/-- An offset of a domain: baseline, plausibility, state (R345, R347). -/
def offsetIn (d : Director) (i : Nat) (theta at_ : Int) : Director :=
  let x := dom d i
  match x.mode with
  | .disabled => d
  | .listening => d
  | .suspect =>
    let okPrev := match x.regain with | p :: _ => plausible d theta p (at_ - x.regainAt) 0 | [] => true
    let l := if okPrev then theta :: x.regain else [theta]
    if lockCount d ≤ l.length && d.time.source != srcOf i then
      reSource (setDomMode (modDom d i fun x => { x with theta := some (theta, at_), window := [theta], rejects := 0, regain := [], base := [] }) i .acquiring) at_
    else modDom d i fun x => { x with regain := l, regainAt := at_ }
  | _ =>
    match x.theta with
    | none =>
      match x.base with
      | b :: _ =>
        if (theta - b.1).natAbs ≤ (nsParm d 14 1000).natAbs then
          acceptOffset (modDom d i fun x => { x with base := [], window := [b.1], theta := some b }) i theta at_
        else modDom d i fun x => { x with base := [(theta, at_)] }
      | [] => modDom d i fun x => { x with base := [(theta, at_)] }
    | some (v, a) =>
      if plausible d theta v (at_ - a) d.time.prop then acceptOffset d i theta at_
      else
        -- the first rejection in each 1,000 (DEDUCED, assumption 63)
        let d := modDom d i fun x => { x with rejects := x.rejects + 1, ofsReject := satInc x.ofsReject, rejected := x.rejected + 1 }
        let d := if (dom d i).rejected % 1000 = 1 then raise d (69 + i) 0x02 (b4 (dom d i).ofsReject.toNat) else d
        if tp d 16 0 4 ≤ (dom d i).rejects then reSource (setDomMode (modDom d i fun x => { x with regain := [] }) i .suspect) at_ else d

/-- Back to LISTENING (R345). -/
def toListening (d : Director) (i : Nat) : Director :=
  if (dom d i).mode = .disabled || (dom d i).mode = .listening then d else
  reSource (setDomMode (modDom d i fun x => { x with theta := none, base := [], window := [], rejects := 0, regain := [] }) i .listening) d.time.now

/-- To ACQUIRING with a new baseline (R345). -/
def newBaseline (d : Director) (i : Nat) : Director :=
  reSource (setDomMode (modDom d i fun x => { x with theta := none, base := [], window := [], rejects := 0, regain := [] }) i .acquiring) d.time.now

/-- The data set comparison of the default BMCA: x is better than y. -/
def betterMaster (x y : AnnounceMsg) : Bool :=
  let key (a : AnnounceMsg) : List Nat :=
    [a.priority1.toNat, a.gmClass.toNat, a.accuracy.toNat, a.variance.toNat, a.priority2.toNat, a.gmId.toNat, a.stepsRemoved.toNat, a.sender.toNat]
  less (key x) (key y)
where
  less : List Nat → List Nat → Bool
    | a :: r, b :: q => decide (a < b) || (decide (a = b) && less r q)
    | _, _ => false

/-- Best master of a domain over its ports. -/
def bestPort (x : Domain) : Option (Nat × AnnounceMsg) :=
  x.masters.foldl (fun b m => match b with | none => some m | some y => if betterMaster m.2 y.2 then some m else some y) none

/-- The best of the masters that remain once a port has none (R340, R345). -/
def dropMaster (d : Director) (i p : Nat) : Director :=
  let was := (dom d i).port = some p
  let d := modDom d i fun x => { x with masters := tdel p x.masters }
  if !was then d else
  let d := toListening d i
  modDom d i fun x => { x with port := (bestPort x).map (·.1), gmId := (bestPort x).map (·.2.gmId) }

/-- A LISTENING domain with a master and a valid link delay on its port acquires (R345). -/
def tryAcquire (d : Director) (i : Nat) : Director :=
  match (dom d i).mode, (dom d i).port with
  | .listening, some p =>
    if p < 2 && (tport d p).up && !(tport d p).delays.isEmpty && (dom d i).gmId.isSome then newBaseline d i else d
  | _, _ => d

/-! PTP rows -/

def discardMsg (d : Director) (p : Nat) : Director := modTport d p fun t => { t with msgDiscard := satInc t.msgDiscard }

/-- A receive instant less TP_RX_LAT (R341). -/
def rxStamp (d : Director) (p : Nat) (t : FracNs) : Int := t - psFrac (tp d 18 p 0)

/-- PTP_SYNC_RECEIVE (R343). -/
def execPtpSyncReceive (port_ : Nat) (msg : SyncMsg) (s : State) : Host.Outcome State Fault Refusal :=
  ifUnit (port_ < 2) (onDir s fun d =>
    if !works d || !(tport d port_).up || (tport d port_).prbsTest then d else
    let is := [0, 1].filter fun i => boundTo d i port_ && domNum d i = msg.domain
    if !msg.wellFormed || is.isEmpty then discardMsg d port_ else
    let t := tport d port_
    is.foldl (fun d i =>
      if (dom d i).port = some port_ && !t.delays.isEmpty && (dom d i).mode != .disabled && (dom d i).mode != .listening then
        let t2 := rxStamp d port_ msg.t2
        let theta := t2 - (msg.origin + msg.corr + Config.linkDelay t.delays + psFrac (parmZ (timeS (cfg d)) 20 port_ 0))
        offsetIn (modDom d i fun x => { x with syncRx := satInc x.syncRx }) i theta (ofFrac t2)
      else d) d)

/-- PTP_ANNOUNCE_RECEIVE (R330, R340, R345). -/
def execPtpAnnounceReceive (port_ : Nat) (msg : AnnounceMsg) (s : State) : Host.Outcome State Fault Refusal :=
  ifUnit (port_ < 2) (onDir s fun d =>
    if !works d || !(tport d port_).up || (tport d port_).prbsTest then d else
    let is := [0, 1].filter fun i => boundTo d i port_ && domNum d i = msg.domain
    if !msg.wellFormed || is.isEmpty then discardMsg d port_ else
    is.foldl (fun d i =>
      let d := modDom d i fun x => { x with masters := tset port_ msg x.masters }
      match bestPort (dom d i) with
      | some (p, m) =>
        let changed := match (dom d i).gmId with | some g => g != m.gmId | none => false
        let d := modDom d i fun x => { x with port := some p, gmId := some m.gmId }
        let d := if d.time.source = srcOf i then modTime d fun t => { t with utc := some (m.utcOffset, m.utcValid) } else d
        if changed && ((dom d i).mode = .acquiring || (dom d i).mode = .locked || (dom d i).mode = .suspect) then newBaseline d i
        else tryAcquire d i
      | none => d) d)

/-- ANNOUNCE_TIMEOUT (R345). -/
def execAnnounceTimeout (domain : Nat) (s : State) : Host.Outcome State Fault Refusal :=
  ifUnit (domain < 2) (onDir s fun d =>
    match (dom d domain).port with
    | some p =>
      if !works d || 2 ≤ p || (dom d domain).mode = .disabled || (dom d domain).mode = .listening then d else
      let d := modDom d domain fun x => { x with annTimeout := satInc x.annTimeout }
      tryAcquire (dropMaster (raise d (69 + domain) 0x03 (b1 p)) domain p) domain
    | none => d)

/-- The IEEE 1588 header and body of a peer-delay message in its Ethernet frame (R340). -/
def pdelayFrame (d : Director) (p type seq : Nat) (corr : Int) (body : List Byte) : List Byte :=
  let pcp := tp d 22 p 4
  let tag : List Byte := if pcp = 0 then [] else [0x81, 0x00] ++ toBE 2 (pcp * 8192)
  let ptp := b1 type ++ [0x02] ++ toBE 2 54 ++ b1 (domNum d 0) ++ [0] ++ toBE 2 0 ++ toBE 8 (unsigned 64 corr) ++ zeros 4
    ++ padTo 10 (Config.timePortIdentity p) ++ toBE 2 seq ++ b1 5 ++ [0x7F]
  [0x01, 0x80, 0xC2, 0x00, 0x00, 0x0E] ++ padTo 6 (Config.timePortMac p) ++ tag ++ [0x88, 0xF7] ++ ptp ++ padTo 20 body

def queueEth (d : Director) (p : Nat) (lt : Int) (o : List Byte) : Director := modTport d p fun t => { t with queue := t.queue ++ [(lt, o)] }

/-- Now, in 2^-16 ns, with the lead of the launch instant (R342). -/
def launchAt (d : Director) (fresh : Nat) : Int := toFrac d.time.now + Config.launchLead fresh

/-- PDELAY_REQ_SEND (R340): t1 is the launch instant plus TP_TX_LAT (R341). -/
def execPdelayReqSend (port_ : Nat) (s : State) : Host.Outcome State Fault Refusal :=
  ifUnit (port_ < 2) (onDir s fun d =>
    let t := tport d port_
    if !works d || !t.up || t.prbsTest then d else
    let lt := launchAt d s.fresh
    let d := queueEth d port_ lt (pdelayFrame d port_ 2 t.nextSeq.toNat 0 [])
    modTport d port_ fun t => { t with req := some (t.nextSeq, lt + psFrac (tp d 19 port_ 0)), nextSeq := t.nextSeq + 1 })

/-- PDELAY_REQ_RECEIVE (R340, R342). -/
def execPdelayReqReceive (port_ : Nat) (seqId : BitVec 16) (t2 : FracNs) (s : State) : Host.Outcome State Fault Refusal :=
  ifUnit (port_ < 2) (onDir s fun d =>
    let t := tport d port_
    if !works d || !t.up || t.prbsTest then d else
    let rx := rxStamp d port_ t2
    let lt := launchAt d s.fresh
    let t3 := lt + psFrac (tp d 19 port_ 0)
    let stamp (x : Int) : List Byte := toBE 6 (unsigned 48 (x / secFrac)) ++ toBE 4 (x % secFrac / nsFrac).toNat
    if tp d 21 port_ 1 = 1 then queueEth d port_ lt (pdelayFrame d port_ 3 seqId.toNat (t3 - rx) [])
    else
      let d := queueEth d port_ lt (pdelayFrame d port_ 3 seqId.toNat 0 (stamp rx))
      queueEth d port_ lt (pdelayFrame d port_ 0x0A seqId.toNat 0 (stamp t3)))

/-- PDELAY_RESP_RECEIVE (R343). -/
def execPdelayRespReceive (port_ : Nat) (msg : PdelayRespMsg) (s : State) : Host.Outcome State Fault Refusal :=
  ifUnit (port_ < 2) (onDir s fun d =>
    let t := tport d port_
    if !works d || !t.up || t.prbsTest then d
    else if !msg.wellFormed then discardMsg d port_
    else match t.req with
      | some (q, t1) =>
        let t4 := rxStamp d port_ msg.t4
        if q != msg.seqId || secFrac < t4 - t1 then d else
        let ratio := ((msg.t3, t4) :: t.ratio).take 8
        let (rn, rd) : Int × Int := match ratio.getLast? with
          | some (a, b) => if t4 - b = 0 then (1, 1) else (msg.t3 - a, t4 - b)
          | none => (1, 1)
        let del := ((t4 - t1) * rn / rd - (msg.t3 - msg.t2)) / 2
        let d := modTport d port_ fun t => { t with req := none, unanswered := 0, delays := (del :: t.delays).take 3, ratio := ratio }
        [0, 1].foldl (fun d i => if (dom d i).port = some port_ then tryAcquire d i else d) d
      | none => d)

/-- PDELAY_TIMEOUT (R343, R345). -/
def execPdelayTimeout (port_ : Nat) (s : State) : Host.Outcome State Fault Refusal :=
  ifUnit (port_ < 2) (onDir s fun d =>
    let t := tport d port_
    if !works d || t.req.isNone then d else
    let d := modTport d port_ fun t => { t with req := none, unanswered := t.unanswered + 1, pdelayLost := satInc t.pdelayLost }
    if t.unanswered + 1 = 3 then
      let d := modTport d port_ fun t => { t with delays := [], ratio := [] }
      [0, 1].foldl (fun d i =>
        if boundTo d i port_ then
          let d := raise d (69 + i) 0x04 (b1 port_)
          if (dom d i).port = some port_ then toListening d i else d
        else d) d
    else d)

/-- TIME_PORT_FRAME_LAUNCH (R342): the head of the queue, at a raw tick of the present cycle. -/
def execTimePortFrameLaunch (port_ tick : Nat) (s : State) : Host.Outcome State Fault Refusal :=
  ifUnit (port_ < 2) (onDir s fun d =>
    match (tport d port_).queue with
    | (lt, o) :: r =>
      if !works d || !(tport d port_).up then d else
      let d := modTport d port_ fun t => { t with queue := r }
      if lt - toFrac (timeAt d tick) < 2000 * nsFrac then
        raise (modTport d port_ fun t => { t with launchLate := satInc t.launchLate }) 71 0x01 (b1 port_)
      else send d (.eth port_ lt o)
    | [] => d)

def tpSgmii (d : Director) (p : Nat) : Bool := parm (laneS (cfg d)) 5 p 0 = 1
def tpAneg (d : Director) (p : Nat) : Bool := parm (laneS (cfg d)) 6 p 1 = 1

/-- Loss of a time port's link, or a restart of it (R345, R367). -/
def portDown (d : Director) (p : Nat) : Director :=
  let d := modTport d p fun t => { t with up := false, delays := [], ratio := [], req := none, unanswered := 0, queue := [] }
  [0, 1].foldl (fun d i => tryAcquire (dropMaster d i p) i) d

/-- TIME_PORT_LINK_CHANGE (R392, R393). -/
def execTimePortLinkChange (port_ : Nat) (ev : LinkEvent) (s : State) : Host.Outcome State Fault Refusal :=
  ifUnit (port_ < 2) (onDir s fun d =>
    if !works d then d else
    match ev with
    | .anegDone => if tpAneg d port_ then modTport d port_ fun t => { t with up := true } else d
    | .synced => if tpAneg d port_ then d else modTport d port_ fun t => { t with up := true }
    | .down =>
      if !(tport d port_).up then d else
      raise (portDown (modTport d port_ fun t => { t with linkDown := satInc t.linkDown }) port_) 71 0x08 (b1 port_)
    | .badSpeed => if tpSgmii d port_ && !(tport d port_).up then raise d 71 0x09 (b1 port_) else d)

/-- TIME_PORT_FRAME_DISCARD (R340, R394). -/
def execTimePortFrameDiscard (port_ : Nat) (cause : DiscardCause) (s : State) : Host.Outcome State Fault Refusal :=
  ifUnit (port_ < 2) (onDir s fun d =>
    if !works d || !(tport d port_).up then d else
    match cause with
    | .badFcs => modTport d port_ fun t => { t with fcsErr := satInc t.fcsErr }
    | .unsupported => discardMsg d port_
    | _ => modTport d port_ fun t => { t with rxDiscard := satInc t.rxDiscard })

/-! Steps, holdover, PPS -/

/-- TIME_STEP (R338, R339, R504): at the start tick of the step's cycle. -/
def execTimeStep (s : State) : Host.Outcome State Fault Refusal := onDir s fun d =>
  match d.time.step with
  | none => d
  | some p =>
    if !works d || !d.time.running || p.cycle ≠ cyc d then d
    else if !stepAllowed d then
      let d := raise (modTime d fun t => { t with step := none }) 68 0x02 (b4 p.cycle.toNat)
      decide_ d p.mb stState []
    else
      let delta := match p.target with | some v => v - toFrac d.time.now | none => p.delta
      let d := jump d delta
      let d := modTime d fun t => { t with step := none, stepped := some p.cycle, steps := satInc t.steps }
      let d := raise d 68 0x01 (b4 p.cycle.toNat ++ b8z (delta / nsFrac))
      decide_ d p.mb stOK (b4 p.cycle.toNat ++ b8z (delta / nsFrac))

/-- HOLDOVER_EXPIRE (R25, R350). -/
def execHoldoverExpire (s : State) : Host.Outcome State Fault Refusal := onDir s fun d =>
  match d.time.holdAt with
  | some h => if d.time.mode = .holdover && h + tp d 17 0 600 * secUnit < d.time.now then setTimeMode d .freeRun else d
  | none => d

/-- REF_OFFSET (R336): I in units of 1/256 ppb. -/
def execRefOffset (s : State) : Host.Outcome State Fault Refusal := onDir s fun d =>
  match d.time.refAt with
  | some t =>
    if d.time.refSent || d.time.now < t + 60 * secUnit then d else
    raise (modTime d fun t => { t with refSent := true }) 68 0x05 (b4z (d.time.domA.integ / 2 ^ 24))
  | none => d

/-- Once in each minute of converter time. -/
def minutePast (last : Option Int) (now : Int) : Bool := match last with | some t => decide (t + 60 * secFrac ≤ now) | none => true

/-- Domain bound to a PPS input. -/
def ppsDom (d : Director) (i : Nat) : List Nat := [0, 1].filter fun k => domSrc d k = 4 + i

/-- PPS_IN_EDGE (R352). -/
def execPpsInEdge (input : Nat) (stamp : FracNs) (s : State) : Host.Outcome State Fault Refusal :=
  ifUnit (input < 2) (onDir s fun d =>
    if !works d then d else
    let x := pps d input
    let t := stamp - psFrac (parmZ (timeS (cfg d)) 23 input 0)
    if (match x.lastEdge with | some l => decide (t - l < 900000000 * nsFrac) | none => false) then
      let ev := minutePast x.glitchAt t
      let d := modPps d input fun x => { x with glitch := satInc x.glitch, glitchAt := if ev then some t else x.glitchAt }
      if ev then raise d 71 0x04 (b1 input) else d
    else
      let dev := t - roundHalfUp t secFrac.toNat * secFrac
      let good := match x.lastEdge with | some l => decide ((t - l - secFrac).natAbs ≤ 1000000 * 65536) | none => false
      let d := modPps d input fun x => { x with lastEdge := some t, misses := 0, good := x.good || good }
      let big := decide (1000 * 65536 < dev.natAbs) && minutePast x.devAt t
      let d := if big then raise (modPps d input fun x => { x with devAt := some t }) 71 0x05 (b1 input ++ zeros 3 ++ b4z (dev / nsFrac)) else d
      (ppsDom d input).foldl (fun d i =>
        let d := modDom d i fun x => { x with port := some (2 + input) }
        if (dom d i).mode = .listening then (if good then newBaseline d i else d) else
        -- T = 1 s: the offset before is taken as one second old
        let d := modDom d i fun x => { x with theta := x.theta.map fun (v, _) => (v, ofFrac t - secUnit) }
        offsetIn (modDom d i fun x => { x with syncRx := satInc x.syncRx }) i dev (ofFrac t)) d)

/-- PPS_MISS (R352). -/
def execPpsMiss (input : Nat) (s : State) : Host.Outcome State Fault Refusal :=
  ifUnit (input < 2) (onDir s fun d =>
    if !works d then d else
    let now := toFrac d.time.now
    let x := pps d input
    let ev := minutePast x.missAt now
    let d := modPps d input fun x => { x with
      miss := satInc x.miss, misses := x.misses + 1, good := x.good && x.misses + 1 < 3, missAt := if ev then some now else x.missAt }
    let d := if ev then raise d 71 0x03 (b1 input) else d
    if 3 ≤ (pps d input).misses then (ppsDom d input).foldl toListening d else d)

/-- PPS_OUT_PULSE (R353). -/
def execPpsOutPulse (rise : Bool) (tick : Nat) (s : State) : Host.Outcome State Fault Refusal := onDir s fun d =>
  if !d.time.pllLock || !(inRun d || d.boot.state = .released) then { d with pins := { d.pins with ppsOut := false } } else
  let t := timeAt d tick - parmZ (timeS (cfg d)) 24 0 0 * tickUnit
  let dev := t - roundHalfUp t secUnit.toNat * secUnit
  if !rise then { d with pins := { d.pins with ppsOut := false } }
  else if 2 * dev.natAbs ≤ (tickInc d.time.c).natAbs then { d with pins := { d.pins with ppsOut := true } }
  else d

/-! Twin time comparison -/

def markTx : Nat := 64000

/-- Tag of a time mark (R369). -/
def markTag (d : Director) (side lg : Nat) (c : Cycle) (body : List Byte) : Option Nat :=
  (skKeyAt d c).map fun k =>
    (gmac k ([0x23, BitVec.ofNat 8 side, BitVec.ofNat 8 lg, 0xFF] ++ toBE 4 c.toNat ++ zeros 4) body).toNat / 2 ^ 64

/-- TIME_MARK_SEND (R354, R369, R371). -/
def execTimeMarkSend (s : State) : Host.Outcome State Fault Refusal := onDir s fun d =>
  match lanesInUse d with
  | lg :: _ =>
    if !works d || !d.sk.active || !d.time.running then d else
    let prev := match d.time.marksOwn.find? (·.1 + 1 = cyc d) with | some (_, _, some (r, _)) => r | _ => 0xFFFFFFFF
    let (sp, sc) := match d.time.step with | some p => (1, fld p.cycle.toNat 27 0) | none => (0, 0)
    let body := toBE 4 (cyc d).toNat ++ toBE 4 markTx ++ toBE 4 prev ++ toBE 4 (timeCode d.time.mode * 2 ^ 29 + sp * 2 ^ 28 + sc)
    match markTag d (sideNum d) lg (cyc d) body with
    | some t =>
      let x := body ++ toBE 8 t
      let has := d.time.marksOwn.any (·.1 = cyc d)
      let d := if has then d else modTime d fun t => { t with marksOwn := ((cyc d, markTx, none) :: t.marksOwn).take 4 }
      sendSk d lg 0x96695AA5 fixedSeed (x ++ toBE 4 (crc32c x))
    | none => d
  | [] => d

/-- Take the twin's numbering (R550): cycle numbers continue from the mark's. -/
def adoptEpoch (d : Director) (c : Cycle) : Director :=
  let d := modTime d fun t =>
    let g := if t.running then t.grid else t.now
    { t with cycle := c, running := true, grid := g, epoch := some (g - c.toNat * (planN (cfg d) * tickUnit)), eps := [], marksOwn := [] }
  fixLengths d

/-- The trees fall silent, and their cells return to LISTEN (R550, R123). -/
def silenceTrees (d : Director) : Director :=
  let d := darkTrees d
  { d with cells := d.cells.map fun (i, r) => (i, listenRec r), ports := d.ports.map fun (n, p) => (n, quietPort p) }

/-- What the twin's numbering makes of a mark (R550). -/
def epochCheck (d : Director) (c : Cycle) : Director :=
  if !d.cfg.baked then d
  else if !d.time.sending then (if d.time.running && cyc d = c then d else adoptEpoch d c)
  else if cyc d = c then modTime d fun t => { t with mismatch := false }
  else if follower d && allArms d (· = .off) then
    let d := silenceTrees (adoptEpoch d c)
    modTime d fun t => { t with silentTo := some (t.starts + 64), mismatch := false }
  else if d.time.mismatch then d
  else raise (modTime d fun t => { t with mismatch := true }) 68 0x07 (b4 (cyc d).toNat ++ b4 c.toNat)

/-- A valid mark of the twin: lead, twin state, steps and epoch (R351, R355 to R357). -/
def markIn (d : Director) (fresh : Nat) (body : List Byte) (arrival : Nat) : Director :=
  let c := BitVec.ofNat 32 (beAt body 0 4)
  let w := beAt body 12 4
  let twinRx := beAt body 8 4
  let st := timeOf (fld w 31 29)
  let d := modTime d fun t => { t with twinState := st, twinStep := if bit w 28 then some (fld w 27 0) else none, twinSeen := true }
  -- initial time from the twin (R351, R357); the mark carries no absolute time, so the value is free
  let d := if d.time.mode = .unqualified && st != .unqualified then
      let d := modTime d fun t =>
        let now := ofFrac ((Config.freeValue fresh 0).toNat * 65536)
        let t := rebase { t with now := now } (toFrac (now - t.now))
        { t with source := if follower d then .twin else .none_, holdAt := if follower d then none else some now }
      setTimeMode d .acquiring
    else d
  let d := epochCheck d c
  let d := modTime d fun t => { t with marksOwn := if t.marksOwn.any (·.1 = c) then t.marksOwn.map fun (k, x, r) => if k = c then (k, x, some (arrival, beAt body 4 4)) else (k, x, r)
                                                    else ((c, markTx, some (arrival, beAt body 4 4)) :: t.marksOwn).take 4 }
  let d := match d.time.marksOwn.find? (·.1 + 1 = c) with
    | some (k, tx, some (rx, twinTx)) =>
      if twinRx = 0xFFFFFFFF then d else
      let sk := parmZ (timeS (cfg d)) 26 0 0
      let e2 : Int := ((rx : Int) - twinTx) - ((twinRx : Int) - tx) + (if sideNum d = 0 then sk else -sk)
      modTime d fun t => { t with eps := ((k, e2) :: t.eps).take 16 }
    | _ => d
  -- a step announced by the lead (R356)
  let d := match d.time.twinStep with
    | some lo =>
      let k := (List.range 64).find? fun j => fld (addCyc (cyc d) j).toNat 27 0 = lo
      match k with
      | some j =>
        if d.time.source = .twin && 1 ≤ j && d.time.step.isNone then
          modTime d fun t => { t with step := some { cycle := addCyc t.cycle j, delta := signed 64 (Config.freeValue fresh 1).toNat, target := none, mb := none } }
        else d
      | none => d
    | none => d
  reSource d d.time.now

/-- TIME_MARK_RECEIVE (R354, R355): `lane_` is the physical lane. -/
def execTimeMarkReceive (lane_ : Nat) (frame : SkFrame) (s : State) : Host.Outcome State Fault Refusal :=
  ifUnit (lane_ < 4) (onDir s fun d =>
    let lg := physLane d lane_
    let bs := frame.bytes
    if !works d || !d.sk.active || frame.typeCode ≠ 0x96695AA5 || !d.sk.ownOk.getLsbD lg then d
    else if frame.violation || bs.length ≠ 28 || crc32c (bs.take 24) ≠ beAt bs 24 4 then
      modLane d lane_ fun l => { l with crcFail := satInc l.crcFail, crcRun := l.crcRun + 1 }
    else
      let d := modLane d lane_ fun l => { l with crcRun := 0 }
      let body := bs.take 16
      let c := BitVec.ofNat 32 (beAt body 0 4)
      if markTag d (1 - sideNum d) lg c body = some (beAt bs 16 8) then
        if (lanesInUse d).head? = some lg then markIn d s.fresh body frame.arrival.toNat else d
      else
        let d := modLane d lane_ fun l => { l with tagFail := satInc l.tagFail }
        if d.sec.skKey.isNone then d else
        raiseLim d (limKey (52 + lane_) 4 0) (52 + lane_) 0x04 (b4 (lane d lane_).tagFail.toNat))

/-- TWIN_SERVO_UPDATE (R356). -/
def execTwinServoUpdate (s : State) : Host.Outcome State Fault Refusal := onDir s fun d =>
  let (sum, n) := leadSum d
  if !works d || d.time.source ≠ .twin || !twinUsable d || n = 0 then reSource d d.time.now
  else if 80000 * n < sum.natAbs && stepAllowed d then askStep d (-(sum * 4096 / (5 * n)))
  else
    let x := sum * 1953125 * 2 ^ 31 / (n * planN (cfg d))
    let i := (dom d 0).integ - x / 8
    let sl := tp d 10 0 10000 * ppb
    let lim := freqLim d
    let p := -clampInt (-sl) sl (x / 2)
    let d := modTime d fun t => { t with prop := p }
    let d := commitC (setI d i) (clampInt (-lim) lim (i + p))
    reSource (noteRef d d.time.now) d.time.now

/-- PREFERRED_DOMAIN_RETURN (R348). -/
def execPreferredDomainReturn (s : State) : Host.Outcome State Fault Refusal := onDir s fun d => if works d then reSource d d.time.now else d

/-- TREE_SILENCE_END (R550). -/
def execTreeSilenceEnd (s : State) : Host.Outcome State Fault Refusal := onDir s fun d =>
  match d.time.silentTo with
  | some t => if t ≤ d.time.starts then lightTrees (modTime d fun t => { t with silentTo := none }) else d
  | none => d

/-- SKEUND_EPOCH_TIMEOUT (R25, R550): 10 s of 1.25e9 raw ticks after RUN. -/
def execSkeundEpochTimeout (s : State) : Host.Outcome State Fault Refusal := onDir s fun d =>
  if works d && !d.sk.active && !d.time.sending && d.time.ownFrom + 12500000000 < d.time.raw then modTime d fun t => { t with ownEpoch := true } else d

end Sys2Proof.Machine
end

