-- ==== Sys2Proof/Machine/Lanes.lean ====
section
/-! DEFINITION. The Skeund lanes: training (R375 to R381), loss, width and retraining (R382 to
R386), the key agreement of the link (R599), PRBS checkers (R389), and the keys of the trees and
of the cells' links (R596 to R598). -/

namespace Sys2Proof.Machine

def skPreset (d : Director) : Nat := parm (laneS (cfg d)) 3 0 0
def skEyeMin (d : Director) : Nat := parm (laneS (cfg d)) 4 0 96

/-- FIR presets (R378). -/
def firPreset : Nat → Nat × Nat
  | 0 => (0, 0) | 1 => (0, 4) | 2 => (0, 8) | 3 => (2, 8) | 4 => (4, 8) | 5 => (4, 12) | 6 => (6, 16) | _ => (8, 20)

def laneCode : LaneMode → Nat | .detect => 0 | .equalize => 1 | .align => 2 | .ident => 3 | .active => 4

/-- Logical lane of a physical lane under the lane map. -/
def logLane (d : Director) (p : Nat) : Nat := physLane d p

def modSk (d : Director) (f : Skeund → Skeund) : Director := { d with sk := f d.sk }
def skPrbs (d : Director) (p : Nat) : Prbs := tget {} p d.prbs

/-! Identity (R381, R472) -/

def topoDigest (d : Director) : BitVec 256 := sha256 (tget [] (secKey 0x01 0) d.cfg.inForce)
def redDigest (d : Director) : BitVec 256 :=
  sha256 ((List.range 6).flatMap fun a => tget [] (secKey 0x11 a) d.cfg.inForce)

/-- An identity item of this director, or as the twin must send it. -/
def identItem (d : Director) (own : Bool) (i : Nat) : BitVec 128 :=
  let side := if own then sideNum d else 1 - sideNum d
  BitVec.ofNat 128 (match i with
    | 0 => part d * 2 ^ 96 + 0x0B * 2 ^ 88 + side * 2 ^ 80 + d.boot.fwBuild.toNat * 2 ^ 48 + 0x0302 * 2 ^ 32
    | 1 => (topoDigest d).toNat / 2 ^ 128
    | 2 => (topoDigest d).toNat
    | 3 => (redDigest d).toNat / 2 ^ 128
    | 4 => (redDigest d).toNat
    | _ => tp d 1 0 0 * 2 ^ 120 + unsigned 16 (parmZ (timeS (cfg d)) 26 0 0) * 2 ^ 104)

/-! The link key (R599) -/

/-- P-256 key and identity of this director (R536, R590). -/
def devKey (d : Director) : BitVec 256 := BitVec.ofNat 256 (fld (fuses d) 1407 1152)

/-- A director certificate that the twin may show (R591 to R593). -/
def twinCertOk (d : Director) (cert : List Byte) : Bool :=
  let h := sha256 (cert.take 48)
  let sig := sub cert 48 64
  byteAt cert 0 = 1 && byteAt cert 1 = 2 && beAt cert 2 2 = 0x8001 - sideNum d && beAt cert 12 2 = part d && byteAt cert 14 = 0
    && (keyVerifies d.sec.ownerKey h sig || keyVerifies d.sec.altKey h sig)

/-- An offer or answer before its signature: 176 bytes (R599). -/
def keyMsg (d : Director) (msg : Nat) (switch : Cycle) (nonce eph : Nat) : List Byte :=
  b1 msg ++ zeros 3 ++ toBE 4 switch.toNat ++ toBE 16 nonce ++ padTo 33 (ecPublic eph) ++ zeros 7 ++ padTo 112 d.sec.cert

/-- The signature of an offer or answer; the answer's covers the offer too. -/
def keySig (d : Director) (fresh : Nat) (signed_ : List Byte) : List Byte :=
  padTo 64 (ecdsaSign (devKey d) (drawScalar fresh 6) (sha256 signed_))

def nonce128 (fresh i : Nat) : Nat := (Config.freeValue fresh i).toNat * 2 ^ 64 + (Config.freeValue fresh (i + 1)).toNat

/-- 10 s in raw ticks. -/
def tenSeconds : Nat := 12500000000

/-- Side X sends an offer (R599). SWITCH: 0 without a key, else 4,096 cycles ahead. -/
def sendOffer (d : Director) (fresh : Nat) : Director :=
  if sideNum d ≠ 0 || !d.sk.active then d else
  let sw : Cycle := if d.sec.skKey.isNone then 0 else addCyc (cyc d) 4096
  let e := drawScalar fresh 2
  let m := keyMsg d 1 sw (nonce128 fresh 0) e
  let d := { d with sec := { d.sec with skOffer := some m, skEph := e, skRetryAt := some (d.time.raw + tenSeconds) } }
  drainControl (queueControl d 0x20 (m ++ keySig d fresh m))

/-- The key comes into force: at once on entry to ACTIVE, else from cycle SWITCH. -/
def installSkKey (d : Director) (k : Key) (sw : Cycle) : Director :=
  let sec := { d.sec with skOffer := none, skRetryAt := none }
  if d.sec.skKey.isNone || sw = 0 then
    { d with sec := { sec with skKey := some k, skPrev := none, skSince := d.time.raw, skSinceCycle := cyc d, skNext := none } }
  else { d with sec := { sec with skNext := some (k, sw) } }

/-- The mailbox that waits for the twin's part of a rekey (R527). -/
def twinWaiters (d : Director) : List Nat :=
  [0, 1, 2, 3].filter fun mb => match (mbx d mb).cmd with | some c => c.wait = .twin && c.opcode = 0x0A05 | none => false

/-- The agreement is complete: a command answers when the key is in use (R527). -/
def keyAgreed (d : Director) : Director :=
  if d.sec.skNext.isSome then (twinWaiters d).foldl (fun d mb => setWait d mb .key) d else
  (twinWaiters d).foldl (fun d mb => match (mbx d mb).cmd with | some c => respond d mb stOK (c.payload.take 4) | none => d) d

def twinAuthFail (d : Director) : Director :=
  raise { d with sec := { d.sec with skOffer := none, skRetryAt := some (d.time.raw + tenSeconds) } } 210 0x03 []

/-- Key from the shared point and the hash of offer and answer without their signatures. -/
def skeundKey (eph : Nat) (peer offer answer : List Byte) : Key :=
  deriveKey (ecdhShared eph peer) "QZ-SKEUND" (sha256 (offer ++ answer))

/-- An offer or answer (R592, R599). -/
def keyIn (d : Director) (fresh : Nat) (p : List Byte) : Director :=
  let m := p.take 176
  let cert := sub p 64 112
  let peer := sub p 24 33
  let good (signed_ : List Byte) : Bool := allZero (sub p 1 3) && allZero (sub p 57 7) && twinCertOk d cert
    && ecdsaVerify (sub cert 15 33) (sha256 signed_) (sub p 176 64) && onCurve peer
  if p.length ≠ 240 then d
  else if byteAt p 0 = 1 && sideNum d = 1 then
    if !good m then twinAuthFail d else
    let sw := BitVec.ofNat 32 (beAt p 4 4)
    let e := drawScalar fresh 2
    let ans := keyMsg d 2 sw (nonce128 fresh 0) e
    let d := drainControl (queueControl d 0x20 (ans ++ keySig d fresh (m ++ ans)))
    keyAgreed (installSkKey d (skeundKey e peer m ans) sw)
  else if byteAt p 0 = 2 && sideNum d = 0 then
    match d.sec.skOffer with
    | none => d
    | some o =>
      if !good (o ++ m) then twinAuthFail d else
      keyAgreed (installSkKey d (skeundKey d.sec.skEph peer o m) (BitVec.ofNat 32 (beAt o 4 4)))
  else d

def execSkeundKeyOfferReceive (payload : List Byte) (s : State) : Host.Outcome State Fault Refusal := onDir s fun d =>
  if works d && d.sk.active then keyIn d s.fresh payload else d

/-- SKEUND_KEY_RETRY (R599). -/
def execSkeundKeyRetry (s : State) : Host.Outcome State Fault Refusal := onDir s fun d =>
  match d.sec.skRetryAt with
  | some t => if works d && t < d.time.raw then sendOffer { d with sec := { d.sec with skRetryAt := none } } s.fresh else d
  | none => d

/-- A key has reached the age of R597. -/
def keyAged (d : Director) (since : Nat) (cycle : Cycle) : Bool :=
  since + 108000000000000 ≤ d.time.raw || 2 ^ 32 - 2 ^ 24 ≤ (cyc d - cycle).toNat

/-- SKEUND_KEY_AGE (R599). -/
def execSkeundKeyAge (s : State) : Host.Outcome State Fault Refusal := onDir s fun d =>
  if works d && d.sk.active && d.sec.skKey.isSome && d.sec.skNext.isNone && d.sec.skOffer.isNone && keyAged d d.sec.skSince d.sec.skSinceCycle
  then sendOffer d s.fresh else d

/-! Width -/

/-- A logical lane is healthy: both receivers see it, and it is ACTIVE here (R382, R383). -/
def laneHealthy (d : Director) (lg : Nat) : Bool :=
  d.sk.ownOk.getLsbD lg && d.sk.twinOk.getLsbD lg && (lane d (physLane d lg)).mode = .active

/-- Width and lowest lane of the widest healthy contiguous set (R383). -/
def bestWidth (d : Director) : Nat × Nat :=
  let h := laneHealthy d
  if h 0 && h 1 && h 2 && h 3 then (4, 0)
  else if h 0 && h 1 then (2, 0)
  else if h 2 && h 3 then (2, 2)
  else match [0, 1, 2, 3].find? h with | some l => (1, l) | none => (0, 0)

/-- The link leaves ACTIVE: every lane restarts from DETECT (R386). -/
def linkDown (d : Director) : Director :=
  -- a rekey of the link whose new key was still to come cannot complete (R527)
  let d := [0, 1, 2, 3].foldl (fun d mb => match (mbx d mb).cmd with
    | some c => if c.wait = .key && byteAt c.payload 0 = 2 then refuse d mb stTimeout else d
    | none => d) d
  let d := modSk d fun k => { k with
    active := false, width := 0, base := 0, change := false, mapped := false, mapBad := false, reversed := false, ownOk := 0, twinOk := 0
    statusDue := false, parts := [], blocks := [], twinBake := none, queue := [], identBad := none
    lanes := k.lanes.map fun (p, l) => (p, { l with mode := .detect, retrain := false, prbsRun := false, holdTen := false, heard := none, ident := [], crcRun := 0, rejoined := none, req := 0, rsp := 0 }) }
  let d := { d with sec := { d.sec with skKey := none, skNext := none, skPrev := none, skOffer := none, skRetryAt := none } }
  reSource (modTime d fun t => { t with twinSeen := false, eps := [], marksOwn := [] }) d.time.now

/-- The link leaves ACTIVE when no lane is healthy (R386). -/
def checkLink (d : Director) : Director := if d.sk.active && (bestWidth d).1 = 0 then linkDown d else d

/-- A lane begins background retraining (R385). -/
def startRetrain (d : Director) (p : Nat) (wait : Bool) : Director :=
  modLane d p fun l => { l with mode := if wait then .detect else .equalize, holdTen := wait, retrain := true, prbsRun := false, frames := 0, walk := 0, best := 0, eye := 0, req := 0, rsp := 0, heard := none }

/-- It failed again within 60 s of rejoining. -/
def soonAgain (d : Director) (p : Nat) : Bool := match (lane d p).rejoined with | some t => decide (d.time.raw < t + 75000000000) | none => false

/-- What the twin's receiver sees (R383). -/
def laneStatusIn (d : Director) (ok : BitVec 4) : Director :=
  if ok = d.sk.twinOk then d else
  let lost := (List.range 4).filter fun lg => d.sk.twinOk.getLsbD lg && !ok.getLsbD lg && (lane d (physLane d lg)).mode = .active
  let d := modSk d fun k => { k with twinOk := ok, change := true }
  let d := lost.foldl (fun d lg => startRetrain d (physLane d lg) (soonAgain d (physLane d lg))) d
  checkLink d

/-- LANE_STATUS_RECEIVE (R383). -/
def execLaneStatusReceive (laneOk : BitVec 4) (s : State) : Host.Outcome State Fault Refusal := onDir s fun d =>
  if works d && d.sk.active then laneStatusIn d laneOk else d

/-- LANE_STATUS_SEND (R383). -/
def execLaneStatusSend (s : State) : Host.Outcome State Fault Refusal := onDir s fun d =>
  if !works d || !d.sk.active || !(d.sk.statusDue || d.sk.statusAt + 1024 ≤ d.time.starts) then d else
  let d := modSk d fun k => { k with statusDue := false, statusAt := d.time.starts }
  drainControl (queueControl d 0x23 (toBE 4 d.sk.ownOk.toNat))

/-- WIDTH_CHANGE (R384): at the start tick that the rule names. -/
def execWidthChange (s : State) : Host.Outcome State Fault Refusal := onDir s fun d =>
  if !works d || !d.sk.active || !d.sk.change then d else
  let (w, b) := bestWidth d
  let old := d.sk.width
  let same := w = old && b = d.sk.base
  let d := modSk d fun k => { k with change := false, width := w, base := b }
  if same || w = 0 then d else
  raise (modSk d fun k => { k with widthChanges := satInc k.widthChanges }) 52 0x12 (b1 old ++ b1 w)

/-- LANE_LOST (R382, R385, R386). -/
def execLaneLost (lane_ : Nat) (cause : LaneCause) (s : State) : Host.Outcome State Fault Refusal :=
  ifUnit (lane_ < 4) (onDir s fun d =>
    let l := lane d lane_
    if !works d || l.mode ≠ .active || (cause = .crc && l.crcRun < 4) then d else
    let d := modLane d lane_ fun l => { l with lockLoss := satInc l.lockLoss, crcRun := 0 }
    let d := raise d (52 + lane_) 0x02 (b1 (match cause with | .cdr => 1 | .crc => 2 | .noDelimiter => 3))
    let d := startRetrain d lane_ (soonAgain d lane_)
    let d := modSk d fun k => { k with ownOk := k.ownOk &&& ~~~(BitVec.twoPow 4 (logLane d lane_)), statusDue := true, change := true }
    checkLink d)

/-- LANE_RETRAIN_DONE (R385): 1 s of PRBS31 without a checker error. -/
def execLaneRetrainDone (lane_ : Nat) (s : State) : Host.Outcome State Fault Refusal :=
  ifUnit (lane_ < 4) (onDir s fun d =>
    if !works d || !d.sk.active || !(lane d lane_).retrain || !(lane d lane_).prbsRun || tget 0 (2 + lane_) d.bg.grants = 0 then d else
    let d := modLane d lane_ fun l => { l with mode := .active, retrain := false, prbsRun := false, rejoined := some d.time.raw, retrains := satInc l.retrains }
    let d := modSk d fun k => { k with ownOk := k.ownOk ||| BitVec.twoPow 4 (logLane d lane_), statusDue := true, change := true }
    raise d (52 + lane_) 0x03 [])

/-- RETRAIN_HOLDOFF_END (R385). -/
def execRetrainHoldoffEnd (lane_ : Nat) (s : State) : Host.Outcome State Fault Refusal :=
  ifUnit (lane_ < 4) (onDir s fun d => if works d && (lane d lane_).holdTen then startRetrain d lane_ false else d)

/-! Training -/

/-- A background retraining has its LANE_SWEEP credits; without them the lane holds in its state (R579). -/
def sweeps (d : Director) (p : Nat) : Bool := !(lane d p).retrain || tget 0 (2 + p) d.bg.grants != 0

/-- A lane trains: it is not ACTIVE, not in test mode and not running PRBS31. -/
def trains (d : Director) (p : Nat) : Bool :=
  works d && sweeps d p && (lane d p).mode != .active && !(lane d p).prbsRun && !(skPrbs d p).testMode

/-- Type code of a training frame (R368). -/
def tcTraining : BitVec 32 := 0x3CC39669

/-- TRAINING_FRAME_SEND (R368, R370, R376, R378, R381). -/
def execTrainingFrameSend (lane_ : Nat) (s : State) : Host.Outcome State Fault Refusal :=
  ifUnit (lane_ < 4) (onDir s fun d =>
    if !trains d lane_ then d else
    let d := if (lane d lane_).mode = .detect then
        modLane d lane_ fun l => { l with pre := (firPreset (skPreset d)).1, post := (firPreset (skPreset d)).2 } else d
    let l := lane d lane_
    let id := l.mode = .ident
    let body := b1 (if id then 2 else 1) ++ b1 lane_ ++ b1 (laneCode l.mode * 16) ++ b1 l.req.toNat ++ b1 l.rsp.toNat ++ b1 l.pre ++ b1 l.post
      ++ b1 (if id then l.sendIdx else 0) ++ toBE 16 (if id then (identItem d true l.sendIdx).toNat else 0)
    let d := modLane d lane_ fun l => { l with sendIdx := if id then (l.sendIdx + 1) % 6 else 0 }
    let x := body ++ toBE 4 (crc32c body)
    send (send d (.train lane_ (BitVec.ofNat 192 (beNat body)) (BitVec.ofNat 32 (crc32c body)) (skLine tcTraining fixedSeed x)))
      (skFill lane_ tcTraining fixedSeed x))

/-- One tap's request: the new tap and its status (R376 to R378). -/
def tapStep (tap top req rsp : Nat) : Nat × Nat :=
  if req = 0 then (tap, 0)
  else if rsp != 0 then (tap, rsp)
  else if req = 1 then (if top ≤ tap then (tap, 3) else (tap + 1, 1))
  else if req = 2 then (if tap = 0 then (tap, 2) else (tap - 1, 1))
  else (tap, 0)

/-- The twin's request on the back channel (R377, R378). -/
def applyRequest (d : Director) (p : Nat) (req : Nat) : Director :=
  modLane d p fun l =>
    if bit req 3 then let (a, b) := firPreset (skPreset d); { l with pre := a, post := b, rsp := 0x50 }
    else if bit req 2 then { l with pre := 0, post := 0, rsp := 0x50 }
    else
      let (pre, ra) := tapStep l.pre 12 (fld req 7 6) (fld l.rsp.toNat 7 6)
      let (post, rb) := tapStep l.post 24 (fld req 5 4) (fld l.rsp.toNat 5 4)
      { l with pre := pre, post := post, rsp := BitVec.ofNat 8 (ra * 64 + rb * 16) }

/-- The walk toward the largest eye metric (R379): a request is held until its status arrives, then
returned to hold; the direction turns when the metric falls. -/
def walkFir (d : Director) (p : Nat) (f : TrainFrame) : Director :=
  modLane d p fun l =>
    let l := { l with frames := l.frames + 1, best := max l.best f.eye }
    if l.frames < 1000 then { l with eye := f.eye } else
    let st := if l.walk < 3 then fld f.rsp.toNat 5 4 else fld f.rsp.toNat 7 6
    if l.req != 0 then
      if st = 0 then l else
      let up := l.walk % 3 = 0
      let w :=
        if up then (if f.eye ≤ l.eye || st = 3 then l.walk + 1 else l.walk)
        else if l.walk % 3 = 1 then (if st = 2 then l.walk + 2 else if f.eye < l.eye then l.walk + 1 else l.walk)
        else l.walk + 1
      { l with req := 0, walk := w, eye := f.eye }
    else if 6 ≤ l.walk || st != 0 then { l with eye := f.eye }
    else
      let r := if l.walk % 3 = 1 then 2 else 1
      { l with req := BitVec.ofNat 8 (r * (if l.walk < 3 then 16 else 64)), eye := f.eye }

/-- Lanes whose PHYS_LANE is known, in ALIGN or beyond. -/
def heardLanes (d : Director) : List (Nat × Nat) :=
  [0, 1, 2, 3].filterMap fun p =>
    let l := lane d p
    if l.mode = .align || l.mode = .ident || l.mode = .active then l.heard.map fun h => (p, h) else none

/-- ALIGN: lane order and skew (R380). -/
def alignLane (d : Director) (p : Nat) (f : TrainFrame) : Director :=
  let d := modLane d p fun l => { l with heard := some f.physLane.toNat }
  if 20 < f.skewNs then modLane d p fun l => { l with mode := .detect, heard := none }
  else
    let hs := heardLanes d
    let idn := hs.all fun (a, b) => b = a
    let rev := hs.all fun (a, b) => b = 3 - a
    let ok := if d.sk.mapped then f.physLane.toNat = physLane d p else idn || rev
    if !ok then
      if d.sk.mapBad then d else
      raise (modSk d fun k => { k with mapBad := true }) 52 0x10 ((List.range 4).flatMap fun q => b1 ((lane d q).heard.getD 0xFF))
    else
      let d := if d.sk.mapped then d else
        modSk d fun k => { k with mapped := true, reversed := !idn, laneRev := if idn then k.laneRev else satInc k.laneRev }
      if (lane d p).retrain then modLane d p fun l => { l with prbsRun := true }
      else modLane d p fun l => { l with mode := .ident, ident := [], sendIdx := 0 }

/-- The link enters ACTIVE, or a lane joins it (R315, R375, R383, R599). -/
def laneActive (d : Director) (fresh : Nat) (ps : List Nat) : Director :=
  let first := !d.sk.active
  let d := ps.foldl (fun d p => modLane d p fun l => { l with mode := .active, crcRun := 0, rejoined := none }) d
  let bits := ps.foldl (fun b p => b ||| BitVec.twoPow 4 (logLane d p)) (0 : BitVec 4)
  let d := modSk d fun k => { k with active := true, ownOk := k.ownOk ||| bits, twinOk := k.twinOk ||| bits, statusDue := true, change := true }
  if !first then d else
  let (w, b) := bestWidth d
  let d := modSk d fun k => { k with width := w, base := b, change := false, parts := [], blocks := [], queue := [] }
  let d := (List.range 6).foldl (fun d a => modArm d a fun x => { x with sync := false, slowSeen := [], goodRun := 0, missRun := 0 }) d
  let d := { d with sec := { d.sec with skKey := none, skNext := none, skPrev := none, skOffer := none, skRetryAt := none } }
  sendOffer (modTime d fun t => { t with twinSeen := false, eps := [], marksOwn := [] }) fresh

/-- IDENT_EXCHANGE (R381). -/
def identLane (d : Director) (fresh p : Nat) (f : TrainFrame) : Director :=
  let i := f.index.toNat
  if f.kind ≠ 2 || 5 < i then d else
  let d := modLane d p fun l => { l with ident := tset i f.data l.ident }
  if f.data ≠ identItem d false i then
    if d.sk.identBad = some i then d else raise (modSk d fun k => { k with identBad := some i }) 52 0x11 (b1 i)
  else
    let have_ := (lane d p).ident
    if (List.range 6).all fun j => (have_.find? (·.1 = j)).map (·.2) = some (identItem d false j) then
      let d := modSk d fun k => { k with identBad := none }
      laneActive d fresh ([0, 1, 2, 3].filter fun q => (lane d q).mode = .ident)
    else d

/-- TRAINING_FRAME_RECEIVE (R375 to R381): `lane_` is the physical lane. -/
def execTrainingFrameReceive (lane_ : Nat) (frame : TrainFrame) (s : State) : Host.Outcome State Fault Refusal :=
  ifUnit (lane_ < 4) (onDir s fun d =>
    let l := lane d lane_
    if !trains d lane_ || l.holdoff || l.holdTen || (skPrbs d lane_).manual || (frame.inverted && l.mode ≠ .detect) then d
    else if !frame.crcOk || !(frame.kind = 1 || frame.kind = 2) then d
    else
      let d := modLane d lane_ fun l => { l with twinMode := match frame.state.toNat with
        | 0 => .detect | 1 => .equalize | 2 => .align | 3 => .ident | 4 => .active | _ => l.twinMode }
      match l.mode with
      | .detect =>
        modLane d lane_ fun l => { l with
          mode := .equalize, frames := 0, walk := 0, best := 0, eye := frame.eye, req := 0, rsp := 0
          pol := l.pol ^^ frame.inverted, polFlip := if frame.inverted then satInc l.polFlip else l.polFlip }
      | .equalize =>
        let d := walkFir (applyRequest d lane_ frame.req.toNat) lane_ frame
        if skEyeMin d ≤ frame.eye then modLane d lane_ fun l => { l with mode := .align, req := 0x02, heard := none } else d
      | .align => alignLane (applyRequest d lane_ frame.req.toNat) lane_ frame
      | .ident => identLane d s.fresh lane_ frame
      | .active => d)

/-- LANE_TRAIN_TIMEOUT (R375, R379). -/
def execLaneTrainTimeout (lane_ : Nat) (s : State) : Host.Outcome State Fault Refusal :=
  ifUnit (lane_ < 4) (onDir s fun d =>
    let l := lane d lane_
    if !trains d lane_ || l.mode = .detect then d
    else if l.mode = .equalize && 48 ≤ l.best then modLane d lane_ fun l => { l with mode := .align, eye := l.best, req := 0x02, heard := none }
    else if l.mode = .ident && d.sk.identBad.isSome then d
    else
      let d := raise d (52 + lane_) 0x01 (b1 (laneCode l.mode))
      let d := if l.mode = .align then modSk d fun k => { k with mapBad := false } else d
      modLane d lane_ fun l => { l with mode := .detect, holdoff := true, heard := none, req := 0, rsp := 0, trainFail := satInc l.trainFail })

/-- LANE_TRAIN_RETRY (R375): the 10 ms have passed. -/
def execLaneTrainRetry (lane_ : Nat) (s : State) : Host.Outcome State Fault Refusal :=
  ifUnit (lane_ < 4) (onDir s fun d => if works d then modLane d lane_ fun l => { l with holdoff := false } else d)

/-! PRBS checkers -/

/-- A checker's 1,024 bits: errors counted while locked; 256 or more lose lock and lock again (R389). -/
def prbsWindow (errors : Nat) (p : Prbs) : Prbs :=
  if !p.check then p else
  let p := { p with err := if p.locked then satAdd p.err errors else p.err }
  if 256 ≤ errors then { p with resync := if p.locked then satInc p.resync else p.resync, locked := true } else { p with locked := true }

/-- PRBS_CHECKER_RESYNC (R389). -/
def execPrbsCheckerResync (kind : LaneKind) (index errors : Nat) (s : State) : Host.Outcome State Fault Refusal :=
  match kind with
  | .tree => ifUnit (index < 52) (onDir s fun d => if works d then modPort d index fun p => { p with prbs := prbsWindow errors p.prbs } else d)
  | .skeund => ifUnit (index < 4) (onDir s fun d => if works d then { d with prbs := tmod {} index (prbsWindow errors) d.prbs } else d)
  | .timePort => ifUnit (index < 2) (onDir s fun d => if works d then { d with prbs := tmod {} (4 + index) (prbsWindow errors) d.prbs } else d)
  | .cellLink => ifUnit (index < 2) (onCell s fun c =>
    if c.mode = .unpowered || !c.prbs.getLsbD 11 || c.prbs.getLsbD 15 != decide (index = 1) then c
    else { c with prbsErr := if c.prbsLock then satAdd c.prbsErr errors else c.prbsErr, prbsLock := true })

/-! Tree and session keys -/

def provenOn (d : Director) (n : Nat) : List Nat :=
  ((portSlots (cfg d) (part d) n).filterMap (cellOfSlot (part d) n)).filter fun id => (cellRec d id).link = .proven

/-- Draw the next key of a tree and send TREE_KEY twice to every proven cell (R597). -/
def startRekey (d : Director) (fresh n : Nat) : Director :=
  let k := treeKey d n
  if k.next.isSome then d else
  let key : Key := BitVec.ofNat 128 (nonce128 fresh (2 * n))
  let fr := addCyc (cyc d) 4097
  let d := { d with sec := { d.sec with trees := tset n { k with next := some (key, fr) } d.sec.trees } }
  (provenOn d n).foldl (fun d id =>
    mgmtTo d id 0x08 (b1 (b2n (!k.phase)) ++ zeros 3 ++ toBE 4 fr.toNat ++ toBE 16 key.toNat) fun r => { secured id r with copies := 2 }) d

/-- TREE_REKEY_START (R597). -/
def execTreeRekeyStart (port_ : Nat) (s : State) : Host.Outcome State Fault Refusal :=
  ifUnit (port_ < 52) (onDir s fun d =>
    let k := treeKey d port_
    if works d && portHere (part d) port_ && d.time.running && k.valid && keyAged d k.since k.sinceCycle then startRekey d s.fresh port_ else d)

/-- The frame of cycle c was accepted on this director's link, as a burst shows (LA_OK or LB_OK). -/
def frameSeen (d : Director) (b : Burst) : Bool := b.lease.getLsbD (sideNum d)

/-- REKEY_DONE (R598): DATA is the port and a mask of the slots whose cells saw the frame. -/
def execRekeyDone (port_ : Nat) (s : State) : Host.Outcome State Fault Refusal :=
  ifUnit (port_ < 52) (onDir s fun d =>
    let k := treeKey d port_
    match k.rekeyed with
    | none => d
    | some fr =>
      if !works d || cycleDiff (cyc d) (fr + 2) < 0 then d else
      let d := { d with sec := { d.sec with trees := tset port_ { k with rekeyed := none } d.sec.trees } }
      let ids := provenOn d port_
      let seen := ids.filter fun id => match burstOf (cellRec d id) (fr + 1) with | some b => frameSeen d b | none => false
      let d := raise d 210 0x01 (b1 port_ ++ zeros 3 ++ toLE 8 (maskOf (seen.map cellSlot)))
      if seen.length < ids.length then raise d 210 0x02 (b1 port_ ++ zeros 1 ++ b2 (ids.length - seen.length)) else d)

/-- SESSION_KEY_ROLL (R596): the director's end, once at each multiple of P_K; a cell rolls its end at its own cycle start. -/
def execSessionKeyRoll (s : State) : Host.Outcome State Fault Refusal := onDir s fun d =>
  if !works d || !d.time.running || (cyc d).toNat % rollPeriod (planN (cfg d)) ≠ 0 || d.sec.rolledAt = some (cyc d) then d else
  { d with
    sec := { d.sec with rolledAt := some (cyc d) }
    cells := d.cells.map fun (id, r) => (id, { r with key := r.key.map fun k => nextSession k (cyc d) }) }

end Sys2Proof.Machine
end

