-- ==== Sys2Proof/Machine/Twin.lean ====
section
/-! DEFINITION. The twin: acceptance of its mirror and SYNC (R311 to R315, R323), TWIN_ALIVE (R317
to R319), and the end of a yield (R326). -/

namespace Sys2Proof.Machine

/-- Sample cycle of the twin's step whose mirror the next own step uses: the deadline lies 1,250 ticks before that step (R311). -/
def mirrorCycle (d : Director) : Cycle :=
  if planC (cfg d) % planN (cfg d) < 1250 then stepCycle d else stepCycle d - 1

/-- A complete block of step k from the twin. -/
def twinBlock (d : Director) (b : Nat) (k : Cycle) : Option (List Byte) :=
  match d.sk.blocks.find? (·.1 = b) with
  | some (_, c, bs) => if c = k then some bs else none
  | none => none

/-- Learned delays of six cells, where the twin is AUTHORITY and this director is not (R310, R313). -/
def takeSlow (d : Director) (conv : List Byte) : Director :=
  let idx := beAt conv 12 2
  (List.range 6).foldl (fun d i =>
    let id := 6 * idx + i
    let a := cellArm id
    if 512 ≤ idx || isNode id || (arm d a).role = .authority || !twinAuth d a then d else
    (List.range 8).foldl (fun d t =>
      let w := beAt conv (64 + 32 * i + 4 * t) 4
      modRec d id fun r => { r with learned := tset t { lam := w / 4096, count := w % 4096 } r.learned }) d) d

/-- A SHADOW or COLD director keeps the mode of the latest accepted mirror, full or partial, and its settings: u_man or u_hold
and r_eff, which an AUTHORITY's full arm block holds (R310, R323). -/
def followMirror (d : Director) (a : Nat) (x : ArmMirror) : Director :=
  let d := if x.mode = .blocked then (if (arm d a).mode = .blocked then d else enterBlocked d a 4) else changeMode d a x.mode 4
  if !x.full || x.role != .authority then d else
  let c := cfg d
  let v (o n : Nat) : List F32 := (List.range n).map fun i => BitVec.ofNat 32 (beAt x.bytes (o + 4 * i) 4)
  modArm d a fun y => { y with
    uMan := if x.mode = .manual then v 144 (dimM c a) else y.uMan
    uHold := if x.mode = .hold then v 144 (dimM c a) else y.uHold
    rEff := v 176 (dimR c a) }

/-- SYNC is set once every SLOW_INDEX has arrived and the last two mirrors were accepted (R315). -/
def setSync (d : Director) (a : Nat) : Director :=
  let x := arm d a
  if !x.sync && 2 ≤ x.goodRun && 512 ≤ x.slowSeen.length then
    raise (modArm d a fun y => { y with sync := true, slowSeen := [] }) (56 + a) 0x1E []
  else d

/-- One arm at the deadline (R312, R314, R315, R319, R323). -/
def mirrorArm (d : Director) (a : Nat) (k : Cycle) (conv : Option (List Byte)) : Director :=
  let blk := twinBlock d a k
  let m : Option ArmMirror := match conv, blk with
    | some cv, some b =>
      if byteAt b 0 != a || 5 < byteAt b 1 || 3 < byteAt b 2 then none else
      some { cycle := k, mode := modeOf (byteAt b 1), role := roleOf (byteAt b 2), full := bit (byteAt cv 14) 0 && b.length = 2688, bytes := b }
    | _, _ => none
  let full := match m with | some x => x.full | none => false
  let missed := !full || twinDiffers d
  -- SYNC counts the accepted mirrors, a partial one too (R312, R315)
  let accepted := m.isSome
  let idx := match conv with | some cv => beAt cv 12 2 | none => 0
  let d := match m with
    | some x =>
      let d := modArm d a fun y => { y with mirror := some x }
      let d := modSk d fun s => { s with twinRole := tset a (roleCode x.role) s.twinRole, twinMode := tset a (modeCode x.mode) s.twinMode }
      if (arm d a).role = .shadow || (arm d a).role = .cold then followMirror d a x else d
    | none => d
  let d := modArm d a fun y => { y with
    missed := missed, goodRun := if accepted then y.goodRun + 1 else 0
    slowSeen := if !accepted || y.sync || y.slowSeen.contains idx || 512 ≤ idx then y.slowSeen else idx :: y.slowSeen }
  if missed then
    if !d.sk.twinAlive then setSync d a else
    let d := modCntA d a fun t => { t with mirrorMiss := satInc t.mirrorMiss }
    let d := raiseLim d (limKey (56 + a) 0x19 0) (56 + a) 0x19 (b4 (arm d a).cnt.mirrorMiss.toNat)
    let run := (arm d a).missRun + 1
    if missMax (cfg d) a ≤ run then modArm d a fun y => { y with missRun := run, sync := false, slowSeen := [] }
    else setSync (modArm d a fun y => { y with missRun := run }) a
  else setSync (modArm d a fun y => { y with missRun := 0 }) a

/-- MIRROR_ACCEPT (R311, R314). -/
def execMirrorAccept (s : State) : Host.Outcome State Fault Refusal := onDir s fun d =>
  if !works d || !d.time.running then d else
  let k := mirrorCycle d
  let conv := twinBlock d 0x10 k
  let d := (List.range 6).foldl (fun d a => mirrorArm d a k conv) d
  match conv with
  | some cv => takeSlow (modSk d fun s => { s with lastMirror := some k }) cv
  | none => d

/-- TWIN_ALIVE_LOST (R318, R319). -/
def execTwinAliveLost (s : State) : Host.Outcome State Fault Refusal := onDir s fun d =>
  if !d.pins.resetN || d.frz.frozen || !d.sk.twinAlive then d else
  let d := modSk d fun k => { k with twinAlive := false, twinAliveLoss := satInc k.twinAliveLoss }
  let d := (List.range 6).foldl (fun d a => modArm d a fun x => { x with missRun := 0, sinceLost := 0 }) d
  raise d 196 0x00 []

/-- TWIN_ALIVE_HEALTHY (R318). -/
def execTwinAliveHealthy (s : State) : Host.Outcome State Fault Refusal := onDir s fun d =>
  if !d.pins.resetN || d.frz.frozen then d else modSk d fun k => { k with twinAlive := true }

/-- HANDOVER_YIELD_TIMEOUT (R326, R501). -/
def execHandoverYieldTimeout (arm_ : Nat) (s : State) : Host.Outcome State Fault Refusal :=
  ifUnit (arm_ < 6) (onDir s fun d =>
    let x := arm d arm_
    match x.yielding with
    | none => d
    | some hh =>
      if !works d || x.role ≠ .authority || cycleDiff (stepOrder d) (hh + BitVec.ofNat 32 (leaseCycles (cfg d) arm_ + 8)) < 0 then d else
      let mb := match x.pHandover with | some (_, m) => m | none => none
      let d := modArm d arm_ fun x => { x with yielding := none, pHandover := none }
      let d := modCntA d arm_ fun c => { c with handoverFail := satInc c.handoverFail }
      decide_ (raise d (56 + arm_) 0x1D []) mb stTimeout (b1 arm_ ++ b1 (roleCode x.role) ++ zeros 2 ++ b4 hh.toNat))

/-- WATCHDOG_LAPSE (R317): TWIN_ALIVE_OUT is held low. -/
def execWatchdogLapse (s : State) : Host.Outcome State Fault Refusal := onDir s fun d =>
  if !d.pins.resetN || d.frz.frozen then d else { d with pins := { d.pins with served := false, alive := false } }

end Sys2Proof.Machine
end

