-- ==== Sys2Proof/Machine/Recorder.lean ====
section
/-! DEFINITION. The disturbance recorder: samples and records (R396 to R401), segments (R402 to
R408), triggers (R409 to R414), what a freeze does to it and the start of a freeze (R606, R607);
and the firmware's port on a telemetry queue (R418 to R420). -/

namespace Sys2Proof.Machine

def modRcd (d : Director) (f : Recorder → Recorder) : Director := { d with rcd := f d.rcd }
def rp (d : Director) (pid e dflt : Nat) : Nat := parm (recS (cfg d)) pid e dflt
def recCode : RecMode → Nat | .stopped => 0 | .armed => 1 | .triggered => 2 | .closing => 3
def segCode : SegMode → Nat | .free => 0 | .armed => 1 | .triggered => 2 | .closed => 3 | .abandoned => 4
def segMode (d : Director) (i : Nat) : SegMode := tget .free i d.rcd.segs
def setSeg (d : Director) (i : Nat) (m : SegMode) : Director := modRcd d fun r => { r with segs := tset i m r.segs }

/-! Segments -/

def mib : Nat := 1048576
def segStart (d : Director) (i : Nat) : Nat := segBase (cfg d) i * mib
/-- Length of a segment after the clamp of R402. -/
def segLen (d : Director) (i : Nat) : Nat :=
  min (segBase (cfg d) i + segLenMiB (cfg d) i) d.boot.ddrMiB * mib - segStart d i
def segClamped (d : Director) (i : Nat) : Bool := d.boot.ddrMiB < segBase (cfg d) i + segLenMiB (cfg d) i
/-- C of R402. -/
def segCap (d : Director) (i : Nat) : Nat := (segLen d i - 4096) / recordSize (cfg d) (part d)

/-- The segment that R404 arms next after segment `i`, and whether it is a CLOSED one. -/
def nextAfter (d : Director) (i : Nat) : Option Nat :=
  let n := segCount (cfg d)
  let ok (j : Nat) : Bool := 0 < segCap d j
  let free (j : Nat) : Bool := ok j && (segMode d j = .free || segMode d j = .abandoned)
  match rp d 1 0 1 with
  | 0 => none
  | 1 => ((List.range n).filter (i < ·)).find? free
  | _ => (((List.range n).filter (i < ·)) ++ (List.range n).filter (· ≤ i)).find? ok

/-- The segment a start command arms: the lowest-numbered FREE one with C > 0 (R404). -/
def firstFree (d : Director) : Option Nat :=
  (List.range (segCount (cfg d))).find? fun j => 0 < segCap d j && (segMode d j = .free || segMode d j = .abandoned)

/-- First multiple of REC_RED_CYCLES at or after a cycle (R399). -/
def boundaryAt (d : Director) (c : Cycle) : Cycle :=
  let r := max 1 (recRed (cfg d))
  let m := c.toNat % r
  if m = 0 then c else addCyc c (r - m)

/-- Arm a segment whose first interval begins at a cycle (R402, R404, R407). -/
def armSeg (d : Director) (i : Nat) (at_ : Cycle) : Director :=
  let over_ := segMode d i = .closed
  let d := if over_ then raise (modRcd d fun r => { r with overwrite := satInc r.overwrite }) 79 0x01 (b1 i) else d
  let cap := segCap d i
  let pre := rp d 5 0 1000
  let post := rp d 6 0 1000
  let (pl, ql, cl) := if cap < post + 1 then (0, cap - 1, 4 + 2 * b2n (pre != 0)) else if cap < pre + 1 + post then (cap - 1 - post, post, 2) else (pre, post, 0)
  let d := if cl != 0 then raise d 72 0x02 (b1 i) else d
  let d := putMem d { dest := .ddr, addr := segStart d i, data := zeros 4 }
  setSeg (modRcd d fun r => { r with
    mode := .armed, seg := some i, armAt := at_, nextSeg := none, stored := 0, cap := cap, size := recordSize (cfg d) (part d)
    clamp := b2n (segClamped d i) + cl, preLen := pl, postLen := ql, trig := none, preAct := 0, firstSlot := 0, units := 0, post := 0
    drops := 0, dropBefore := false, ready := [], interval := [], autoRun := 0, autoPoint := none }) i .armed

/-- STOPPED raises source 79 (R404). -/
def recStopped (d : Director) : Director :=
  if d.rcd.mode = .stopped then d else
  raise (modRcd d fun r => { r with mode := .stopped, nextSeg := none, stopAfter := false, ready := [], interval := [], autoRun := 0, autoPoint := none }) 79 0x02 []

/-- Close at once, as a stop command does in TRIGGERED (R405, R607). -/
def closeNow (d : Director) : Director := modRcd d fun r => { r with mode := .closing, clamp := r.clamp ||| 8, ready := [], interval := [] }

/-! Freeze start (R606, R607) -/

/-- Start a freeze; `own` says it comes from the trigger just taken. CAUSE codes of FREEZE_STAT. -/
def startFreeze (d : Director) (cause : Nat) (own : Bool) : Director :=
  let live := d.boot.state = .released || d.boot.state = .run || d.boot.state = .safe
  if d.frz.cause != 0 || d.frz.frozen || !live then d else
  let code := if !d.time.pllLock then 3 else if d.rcd.mode = .stopped then 2 else 0
  let d := { d with frz := { d.frz with cause := cause, draining := true, started := d.time.raw, bootAt := d.boot.state, drain := code, armedCmd := false } }
  let d := if cause = 1 then raise d 197 0x00 [] else raise d 212 0x01 (b1 cause)
  if !d.time.pllLock then d else
  match d.rcd.mode with
  | .armed => modRcd d fun r => { r with pFreeze := some (cyc d) }
  | .triggered => if own then d else closeNow d
  | _ => d

/-! Samples -/

def recording (d : Director) : Bool := d.rcd.mode = .armed || d.rcd.mode = .triggered

/-- Flag word bits that take their value at a start tick, for the cycle that ends there (R397). -/
def baseFlags (d : Director) : BitVec 64 :=
  let b (on : Bool) (i : Nat) : Nat := if on then 2 ^ i else 0
  BitVec.ofNat 64 (b d.rcd.sawUrgent 63 + b d.rcd.sawDrop 62 + b d.sk.active 7 + b (d.time.mode = .locked || d.time.mode = .holdover) 6
    + b d.sk.twinAlive 5 + b (blockOut d) 4 + d.rcd.sawBlock.toNat)

def baseOf (d : Director) (k : Cycle) : Option (BitVec 64 × Int × Bool) := (d.rcd.flagBase.find? (·.1 = k)).map (·.2)

/-- The flag word of a cycle (R397). -/
def flagWord (d : Director) (k : Cycle) : BitVec 64 :=
  let arms := (List.range 6).foldl (fun w a => match (arm d a).flagHist.find? (·.1 = k) with | some (_, f) => w ||| f | none => w) (0 : BitVec 64)
  match baseOf d k with | some (f, _, _) => f ||| arms | none => arms

/-- Probe values of an arm's step; none when missing. -/
def probesOf (d : Director) (a : Nat) (k : Cycle) : List (Option F32) :=
  match (arm d a).probeHist.find? (·.1 = k) with
  | some (_, l) => if l.isEmpty then List.replicate 32 none else (List.range 32).map fun i => some (l.getD i 0)
  | none => List.replicate 32 none

def missingF : F32 := 0x7FC00001

/-- Raw cell entry (R401). -/
def rawCell (d : Director) (n slot : Nat) (k : Cycle) : List Byte :=
  let none_ := toLE 16 (0xFF * 4096)
  match cellOfSlot (part d) n slot with
  | some id => if !configured (cfg d) id then none_ else
    match burstOf (cellRec d id) k with | some b => (padTo 16 b.raw).reverse | none => none_
  | none => none_

/-- Raw measurement entry of a node (R401). -/
def rawNode (d : Director) (id : Nat) (k : Cycle) : List Byte :=
  match burstOf (cellRec d id) k with
  | some b =>
    let v (l : List Int) := (List.range 8).flatMap fun j => toLE 3 (unsigned 24 (l.getD j 0))
    v b.pri ++ v b.chk ++ b2 b.status.toNat ++ b1 b.svalid.toNat ++ [1]
  | none => zeros 52

/-- The raw sections of a cycle (R399). -/
def rawBody (d : Director) (k : Cycle) : List Byte :=
  let c := cfg d
  let tr := recTrees c (part d)
  ((maskBits 6 (recAces c)).flatMap fun a => (probesOf d a k).flatMap fun v => b4 (v.getD missingF).toNat)
    ++ (([48, 49, 50, 51].filter (bit tr ·)).flatMap fun n => ((List.range 24).flatMap fun s => rawNode d (3072 + (n - 48) * 24 + s) k) ++ zeros 32)
    ++ (((List.range 48).filter (bit tr ·)).flatMap fun n => (List.range 64).flatMap fun s => rawCell d n s k)

/-! Reduction (R401) -/

def minN (l : List Nat) : Nat := l.foldl min (l.headD 0)
def maxN (l : List Nat) : Nat := l.foldl max 0
def minI (l : List Int) : Int := l.foldl min (l.headD 0)
def maxI (l : List Int) : Int := l.foldl max (l.headD 0)
/-- Sum divided by count, halves away from zero. -/
def meanI (l : List Int) : Int := if l.isEmpty then 0 else roundAway (l.foldl (· + ·) 0) l.length

/-- Reduced cell entry from the raw entries of an interval, oldest first. -/
def redCell (es : List (List Byte)) : List Byte :=
  let ws := (es.map leNat).filter fun w => fld w 19 12 != 0xFF
  if ws.isEmpty then zeros 16 else
  let v := ws.map fun w => fld w 127 104
  let mean := (meanI (ws.map fun w => (fld w 103 80 : Int))).toNat
  let any := ws.foldl (fun s w => s ||| fld w 79 64) 0
  let last := ws.getLastD 0
  toLE 16 (minN v * 2 ^ 104 + maxN v * 2 ^ 80 + mean * 2 ^ 56 + fld last 127 104 * 2 ^ 32 + any * 65536 + fld last 19 12 * 256 + min 255 ws.length)

/-- Reduced measurement entry of a node. -/
def redNode (es : List (List Byte)) : List Byte :=
  let es := es.filter fun e => byteAt e 51 = 1
  let vals (o : Nat) : List Int := es.flatMap fun e => ((List.range 8).filter fun j => bit (byteAt e 50) j).map fun j => signed 24 (leAt e (o + 3 * j) 3)
  let four (l : List Int) : List Byte := [minI l, maxI l, meanI l, l.getLastD 0].flatMap fun x => toLE 3 (unsigned 24 x)
  let n := (vals 0).length
  if n = 0 then zeros 24 ++ b2 (es.foldl (fun s e => s ||| leAt e 48 2) 0) ++ zeros 6 else
  four (vals 0) ++ four (vals 24) ++ b2 (es.foldl (fun s e => s ||| leAt e 48 2) 0) ++ b2 (min n 65535) ++ zeros 4

/-- Reduced probe entry: MEAN in binary64, rounded to binary32. -/
def redProbe (es : List F32) : List Byte :=
  let vs := es.filter (· != missingF)
  match vs with
  | [] => (List.replicate 4 (b4 missingF.toNat)).flatten
  | v :: _ =>
    let lo := vs.foldl (fun m x => if B32.lt x m then x else m) v
    let hi := vs.foldl (fun m x => if B32.lt m x then x else m) v
    let sum := vs.foldl (fun s x => B64.add s (f32to64 x)) 0
    let mean := f64to32 (B64.div sum (B64.ofInt vs.length))
    [lo, hi, mean, vs.getLastD 0].flatMap fun x => b4 x.toNat

/-- Reduced sections from the raw ones of an interval, oldest first (R399, R401). -/
def redBody (d : Director) (bs : List (List Byte)) : List Byte :=
  let c := cfg d
  let tr := recTrees c (part d)
  let na := (maskBits 6 (recAces c)).length
  let nm := ([48, 49, 50, 51].filter (bit tr ·)).length
  let nc := ((List.range 48).filter (bit tr ·)).length
  let at_ (o n : Nat) : List (List Byte) := bs.map fun b => sub b o n
  ((List.range (32 * na)).flatMap fun i => redProbe ((at_ (4 * i) 4).map fun e => BitVec.ofNat 32 (leNat e)))
    ++ ((List.range nm).flatMap fun t => (List.range 24).flatMap fun s => redNode (at_ (128 * na + 1280 * t + 52 * s) 52))
    ++ ((List.range (64 * nc)).flatMap fun s => redCell (at_ (128 * na + 1280 * nm + 16 * s) 16))

/-- The record of an interval from its samples, oldest first, RFLAGS[1:0] clear (R400). -/
def makeRecord (d : Director) (ss : List RecSample) : Cycle × List Byte :=
  let first := ss.head?
  let c0 := (first.map (·.cycle)).getD 0
  let unq := ss.any (·.unqual)
  let last := ((ss.getLast?).map (·.flags)).getD 0
  let any := ss.foldl (fun w s => w ||| s.flags) (0 : BitVec 64)
  let red := recRed (cfg d)
  let hdr := b4 c0.toNat ++ time96Le ((first.map (·.start)).getD 0) ++ b2 red ++ b2 (4 * b2n unq) ++ zeros 12 ++ toLE 8 last.toNat ++ toLE 8 any.toNat ++ zeros 16
  (c0, hdr ++ (if red = 1 then ((first.map (·.body)).getD []) else redBody d (ss.map (·.body))))

/-- At the start tick of cycle k + 2 the samples of cycle k are captured (R396, R413's interval count). -/
def recSample (d : Director) (k : Cycle) : Director :=
  if !recording d || cycleDiff k d.rcd.armAt < 0 then d else
  let (st, unq) := match baseOf d k with | some (_, t, u) => (t, u) | none => (d.time.now, false)
  let x : RecSample := { cycle := k, start := st, flags := flagWord d k, unqual := unq, body := rawBody d k }
  let l := x :: d.rcd.interval
  if (k.toNat + 1) % max 1 (recRed (cfg d)) = 0 then
    let rec_ := makeRecord d l.reverse
    modRcd d fun r => { r with interval := [], ready := r.ready ++ [rec_], autoRun := if r.mode = .armed then r.autoRun + 1 else r.autoRun }
  else modRcd d fun r => { r with interval := l }

/-- Index of the interval that holds a cycle, counted from arming. -/
def intervalOf (d : Director) (c : Cycle) : Nat := (cycleDiff c d.rcd.armAt).toNat / max 1 (recRed (cfg d))

def slotAddr (d : Director) (i : Nat) : Nat :=
  match d.rcd.seg with | some s => segStart d s + 4096 + (i % max 1 d.rcd.cap) * d.rcd.size | none => 0

/-- RECORD_INTERVAL_WRITE (R399, R404, R408): `room` says that staging can accept the record. -/
def execRecordIntervalWrite (room : Bool) (s : State) : Host.Outcome State Fault Refusal := onDir s fun d =>
  match d.rcd.ready with
  | [] => d
  | (c0, bs) :: rest =>
    if !works d || !recording d then d else
    let i := intervalOf d c0
    let ti := match d.rcd.trig with | some t => some (intervalOf d t.cycle) | none => none
    let d := modRcd d fun r => { r with ready := rest }
    let d := if room then
        let fl := byteAt bs 18 + b2n (ti = some i) + 2 * b2n d.rcd.dropBefore
        let d := putMem d { dest := .ddr, addr := slotAddr d i, data := bs.take 18 ++ b1 fl ++ bs.drop 19 }
        modRcd d fun r => { r with stored := r.stored + 1, dropBefore := false }
      else
        let d := modRcd d fun r => { r with drops := satInc r.drops, dropCnt := satInc r.dropCnt, dropBefore := true, sawDrop := true }
        raiseLim d (limKey 76 0 0) 76 0 (b4 d.rcd.dropCnt.toNat)
    match ti with
    | some t =>
      let d := if t < i then modRcd d fun r => { r with post := i - t } else d
      if t + d.rcd.postLen ≤ i then modRcd d fun r => { r with mode := .closing, ready := [], interval := [] } else d
    | none => d

/-! Trigger units (R410 to R412) -/

/-- The samples of a channel in a cycle: value and sub-sample, in order; none where missing. -/
def channelSamples (d : Director) (src : Nat) (k : Cycle) : List (Option F32) :=
  match fld src 31 28 with
  | 1 => [(burstOf (cellRec d (fld src 27 16)) k).map fun b => vinstV b.vinst]
  | 2 => [(burstOf (cellRec d (fld src 27 16)) k).map fun b => vinstV b.vavg]
  | 3 =>
    let node := fld src 27 21
    let ch := fld src 20 20
    (List.range 8).map fun j => match burstOf (cellRec d (3072 + node)) k, channelFs (cfg d) (node * 2 + ch) with
      | some b, some fs => if b.svalid.getLsbD j then some (fDiv (fMul (B32.ofInt ((if ch = 1 then b.chk else b.pri).getD j 0)) fs) c2p23) else none
      | _, _ => none
  | 4 => [((probesOf d (fld src 27 25) k).getD (fld src 24 20) none)]
  | _ => [none]

/-- A crossing of a level at a sample: new state, positive crossing, negative crossing (R411). -/
def cross (hi : Option Bool) (lvl hyst : F32) : Option F32 → Option Bool × Bool × Bool
  | none => (none, false, false)
  | some x => match hi with
    | none => (some (B32.le lvl x), false, false)
    | some false => if B32.le lvl x then (some true, true, false) else (some false, false, false)
    | some true => if B32.lt x (fSub lvl hyst) then (some false, false, true) else (some true, false, false)

/-- An exact multiple of 2^-149. -/
def exactF (x : F32) : Int := (fvFloor (B32.dec x) (2 ^ 149) 1).getD 0

/-- Fields of a trigger unit. -/
structure TuCfg where
  cond : Nat
  slope : Nat
  a : F32
  b : F32
  hyst : F32
  wMin : Nat
  wMax : Nat
  slew : F32

def tuCfg (d : Director) (i : Nat) : TuCfg :=
  let f (p : Nat) : F32 := parmF (recS (cfg d)) p i 0
  { cond := rp d 13 i 0, slope := rp d 14 i 0, a := f 15, b := f 16, hyst := f 17, wMin := rp d 18 i 1, wMax := rp d 19 i 1, slew := f 20 }

/-- One sample of a unit: its new state, and the point when it fires: cycle, sub-sample, FRAC (R411, R412). -/
def tuStep (t : TuCfg) (u : TrigUnit) (x : Option F32) (k : Cycle) (j : Nat) : TrigUnit × Option (Cycle × Nat × Nat) :=
  let (ha, pos, neg) := cross u.hiA t.a t.hyst x
  let (hb, posB, negB) := cross u.hiB t.b t.hyst x
  let inc (o : Option Nat) : Option Nat := o.map (· + 1)
  let sp := inc u.sincePos
  let sn := inc u.sinceNeg
  let quiet := if pos || neg then 0 else u.quiet + 1
  let up := t.slope != 1
  let down := t.slope != 0
  let inW (o : Option Nat) : Bool := match o with | some w => t.wMin ≤ w && w ≤ t.wMax | none => false
  let seenB := u.bPos || posB
  let seenNB := u.bNeg || negB
  let slewOk : Bool := match x, u.span.getD (t.wMin - 1) none with
    | some v, some o => (up && B32.le t.slew (fSub v o)) || (down && B32.le t.slew (fSub o v))
    | _, _ => false
  let fires : Bool := match t.cond with
    | 1 => (up && neg && inW sp) || (down && pos && inW sn)
    | 2 => (up && neg && sp.isSome && !seenB) || (down && pos && sn.isSome && !seenNB)
    | 3 => match x with
      | some v => t.wMax < quiet && ((up && B32.le t.a v) || (down && B32.lt v t.a))
      | none => false
    | _ => slewOk
  let point : Cycle × Nat × Nat :=
    if t.cond = 1 || t.cond = 2 then
      match u.prev, x with
      | some (p, pk, pj), some v =>
        let num := (exactF p - exactF t.a) * 256
        let den := exactF p - exactF v
        let f := if den = 0 then 0 else if den < 0 then (-num) / (-den) else num / den
        (pk, pj, (clampInt 0 255 f).toNat)
      | _, _ => (k, j, 0)
    else (k, j, 0)
  let prev := match x with | some v => some (v, k, j) | none => u.prev
  if fires then
    ({ hiA := ha, hiB := hb, prev := prev }, some point)
  else
    ({ hiA := ha, hiB := hb, prev := prev, quiet := quiet
       -- a pulse ends at the next crossing back
       sincePos := if pos then some 0 else if neg && t.cond = 1 then none else sp
       sinceNeg := if neg then some 0 else if pos && t.cond = 1 then none else sn
       bPos := if pos then posB else seenB, bNeg := if neg then negB else seenNB
       span := if t.cond = 4 then (x :: u.span).take t.wMin else [] }, none)

/-- Position of a sample from its cycle's start, in ticks (R142, R412), and the spacing. -/
def samplePos (d : Director) (meas : Bool) (sub_ : Nat) : Int × Nat :=
  let n := planN (cfg d)
  if meas then ((planSmp (cfg d) : Int) - (7 - sub_) * (n / 8 : Nat), n / 8) else (planSmp (cfg d), n)

/-- A trigger with its time (R412). -/
def mkTrigger (d : Director) (cause unit : Nat) (meas : Bool) (c : Cycle) (sub_ frac : Nat) (freeze : Bool) : Trigger :=
  let (pos, sp) := samplePos d meas sub_
  let st := match baseOf d c with | some (_, t, _) => t | none => d.time.now
  { cause := cause, unit := unit, cycle := c, sub := sub_, frac := frac, freeze := freeze, time := st + pos * tickUnit + (frac * sp : Nat) * tickUnit / 256 }

/-- Every unit runs over the samples of a cycle; the triggers that fire, in ascending unit number. -/
def runUnits (d : Director) (k : Cycle) : Director × List Trigger :=
  (List.range 64).foldl (fun (d, l) i =>
    if rp d 11 i 0 = 0 then (d, l) else
    let t := tuCfg d i
    let src := rp d 12 i 0
    let meas := fld src 31 28 = 3
    let (u, fired) := (withIdx (channelSamples d src k)).foldl (fun (u, f) (j, x) =>
      match tuStep t u x k j with
      | (u, some p) => (u, f ++ [p])
      | (u, none) => (u, f)) (tget {} i d.rcd.units64, [])
    let d := modRcd d fun r => { r with units64 := tset i u r.units64 }
    (d, l ++ fired.map fun (c, s, fr) => mkTrigger d 0 i meas c s fr (rp d 21 i 0 = 1))) (d, [])

/-- The pattern trigger (R413). -/
def patternFires (d : Director) (k : Cycle) : Director × Bool :=
  let care := parmN (recS (cfg d)) 8 24 0 0
  let hit := (flagWord d k).toNat &&& care = parmN (recS (cfg d)) 8 23 0 0 &&& care
  let was := d.rcd.patPrev
  let go := match rp d 22 0 0 with
    | 1 => hit && was = some false
    | 2 => !hit && was = some true
    | 3 => hit
    | _ => false
  (modRcd d fun r => { r with patPrev := some hit }, go)

/-- Count a miss and log it (R409). -/
def missTrigger (d : Director) (t : Trigger) : Director :=
  let e := (time96 t.time, t.cause, if t.cause = 0 then t.unit else 0xFF, recCode d.rcd.mode)
  let d := modRcd d fun r => { r with missed := satInc r.missed, missLog := (e :: r.missLog).take 8 }
  raiseLim d (limKey 75 0 0) 75 0 (b4 d.rcd.missed.toNat)

/-- The earliest trigger; the first of equals (R414). -/
def earliest : List Trigger → Option Trigger
  | [] => none
  | t :: r => match earliest r with
    | some x => if x.time < t.time then some x else some t
    | none => some t

/-- Answer of REC_TRIGGER (R509). -/
def answerTrigger (d : Director) (mb : Option Nat) (seg taken : Nat) (c : Cycle) : Director :=
  decide_ d mb stOK (b1 seg ++ b1 taken ++ zeros 2 ++ b4 c.toNat)

/-- Take a trigger (R406, R414, R607). -/
def takeTrigger (d : Director) (t : Trigger) (others : List Trigger) (forced : Bool) : Director :=
  let i := intervalOf d t.cycle
  let pre := min d.rcd.preLen i
  let cap := max 1 d.rcd.cap
  let units := (t :: others).foldl (fun u x => if x.cause = 0 && x.cycle = t.cycle then u ||| BitVec.twoPow 64 x.unit else u) (0 : BitVec 64)
  let sg := d.rcd.seg.getD 0
  let d := modRcd d fun r => { r with
    mode := .triggered, trig := some t, preAct := pre, firstSlot := (i + cap - pre % cap) % cap, units := units, autoPoint := none
    postLen := if forced then 0 else r.postLen, clamp := if forced then r.clamp ||| 8 else r.clamp }
  -- the trigger interval may already stand in the segment: its RFLAGS[0] is set there
  setSeg (raise d 73 0x00 (b1 sg ++ b1 t.cause ++ zeros 2 ++ b4 t.cycle.toNat)) sg .triggered

/-- A trigger unit whose point falls in the cycle of the trigger already taken (R403, R414).
R414 takes it out of R409's misses also when it is decided in a later cycle (DEDUCED, assumption 88). -/
def inTrigCycle (d : Director) (x : Trigger) : Bool :=
  d.rcd.mode = .triggered && x.cause = 0 && (match d.rcd.trig with | some t => t.cycle = x.cycle | none => false)

def addUnit (d : Director) (u : Nat) : Director := modRcd d fun r => { r with units := r.units ||| BitVec.twoPow 64 u }

/-- TRIGGER_DECIDE (R409, R411 to R414): the triggers on the samples of the cycle before the last. -/
def triggerDecide (m : Stores) (d : Director) : Director :=
  let k := cyc d - 2
  if d.rcd.decided = some k || (baseOf d k).isNone then d else
  let d := modRcd d fun r => { r with decided := some k }
  let (d, us) := runUnits d k
  let (d, pat) := patternFires d k
  let ps := if pat then [mkTrigger d 1 0 false k 0 0 (rp d 25 0 0 = 1)] else []
  let autos := if d.rcd.autoPoint = some k then [mkTrigger d 2 0 false k 0 0 false] else []
  let d := if d.rcd.autoPoint = some k then modRcd d fun r => { r with autoPoint := none } else d
  let cmd := match d.rcd.pCmd with | some (c, mb) => if c = k then some mb else none | none => none
  let d := if cmd.isSome then modRcd d fun r => { r with pCmd := none } else d
  let frz := d.rcd.pFreeze = some k
  let d := if frz then modRcd d fun r => { r with pFreeze := none } else d
  let cs := (if cmd.isSome then [mkTrigger d 3 0 false k 0 0 false] else [])
  let fs := (if frz then [mkTrigger d 3 1 false k 0 0 false] else [])
  let all := us ++ ps ++ autos ++ cs ++ fs
  let autosLose := us.length + ps.length + cs.length ≠ 0
  let can := d.rcd.mode = .armed
  -- a point before the first interval lies in no record
  let cand := (if autosLose then us ++ ps ++ cs ++ fs else all).filter fun t => 0 ≤ cycleDiff t.cycle d.rcd.armAt
  match (if can then earliest cand else none) with
  | some t =>
    let rest := (us ++ ps ++ autos).erase t
    let forced := d.frz.draining
    let d := takeTrigger d t rest forced
    let i := intervalOf d t.cycle
    let done := cycleDiff (addCyc d.rcd.armAt ((i + 1) * max 1 (recRed (cfg d)))) (k + 1) ≤ 0 && !d.rcd.ready.any (fun x => intervalOf d x.1 = i)
    let d := if done then
        let a := slotAddr d i + 18
        putMem d { dest := .ddr, addr := a, data := [rdByte m .ddr a ||| 1] } else d
    let d := rest.foldl (fun d x => if x.cause = 0 && x.cycle = t.cycle then d else missTrigger d x) d
    let d := answerTrigger d cmd (d.rcd.seg.getD 0xFF) (if t.cause = 3 then 1 else 2) t.cycle
    if t.freeze then startFreeze d 3 true
    else if rest.any (·.freeze) then startFreeze d 3 false else d
  | none =>
    let lost := us ++ ps ++ cs
    let d := lost.foldl (fun d x => if inTrigCycle d x then addUnit d x.unit else missTrigger d x) d
    let d := answerTrigger d cmd (d.rcd.seg.getD 0xFF) 0 k
    if lost.any (·.freeze) then startFreeze d 3 false else d

def execTriggerDecide (s : State) : Host.Outcome State Fault Refusal := onDir s fun d =>
  if works d && d.time.running then triggerDecide s.mem d else d

/-- AUTO_TRIGGER (R413): the point is the first cycle of the next interval. -/
def execAutoTrigger (s : State) : Host.Outcome State Fault Refusal := onDir s fun d =>
  let n := rp d 7 0 0
  if works d && d.rcd.mode = .armed && n != 0 && n ≤ d.rcd.autoRun && d.rcd.autoPoint.isNone then
    modRcd d fun r => { r with autoPoint := some (addCyc r.armAt (r.autoRun * max 1 (recRed (cfg d)))) }
  else d

/-! Closing -/

/-- The segment header (R403). -/
def segHeader (d : Director) (i : Nat) : List Byte :=
  let c := cfg d
  let r := d.rcd
  let t : Trigger := r.trig.getD { cause := 3, unit := 0, cycle := 0, sub := 0, frac := 0, freeze := false, time := 0 }
  let x := [0x51, 0x5A, 0x52, 0x53] ++ b1 1 ++ b1 i ++ b1 (b2n (2 ≤ recRed c)) ++ b1 r.clamp ++ b2 (recRed c) ++ zeros 2 ++ b4 r.size
    ++ toLE 8 (fld (recTrees c (part d)) 51 0) ++ b1 (recAces c) ++ b1 t.cause ++ b1 (if t.cause = 0 then t.unit else 0xFF) ++ b1 t.frac
    ++ b4 t.cycle.toNat ++ b1 t.sub ++ zeros 3 ++ time96Le t.time ++ b4 (rp d 5 0 1000) ++ b4 r.preAct ++ b4 r.post ++ b4 r.firstSlot
    ++ b4 r.cap ++ b4 r.drops.toNat ++ toLE 8 r.units.toNat ++ b4 r.missed.toNat ++ b4 (planN c) ++ zeros 36
  x ++ b4 (crc32c x)

/-- SEGMENT_CLOSE (R403, R404, R607); with a segment to arm next, `armAt` keeps the cycle CLOSING ended in. -/
def execSegmentClose (s : State) : Host.Outcome State Fault Refusal := onDir s fun d =>
  match d.rcd.seg with
  | none => d
  | some i =>
    if !works d || d.rcd.mode ≠ .closing || d.rcd.nextSeg.isSome then d else
    let d := putMem d { dest := .ddr, addr := segStart d i, data := segHeader d i }
    let d := raise (setSeg d i .closed) 74 0x00 (b1 i)
    let d := if d.frz.draining then { d with frz := { d.frz with seg := i } } else d
    if d.rcd.stopAfter || d.frz.draining then recStopped d else
    match nextAfter d i with
    | some j => modRcd d fun r => { r with nextSeg := some j, armAt := cyc d }
    | none => recStopped d

/-- RECORDER_REARM (R404, R407): at the first interval boundary after CLOSING ended. -/
def execRecorderRearm (s : State) : Host.Outcome State Fault Refusal := onDir s fun d =>
  match d.rcd.nextSeg with
  | some j => if works d && d.time.running && d.rcd.mode = .closing && boundaryAt d (cyc d) = cyc d && 0 < cycleDiff (cyc d) d.rcd.armAt then armSeg d j (cyc d) else d
  | none => d

/-! Telemetry queues: the firmware's port -/

/-- The next `n` unread bytes of a queue, and the items that then remain; items read to their end leave. -/
def tqTake (n : Nat) : List TqItem → List Byte × List TqItem
  | [] => ([], [])
  | i :: r =>
    let left := i.bytes.drop i.read
    if n = 0 then ([], i :: r)
    else if left.length ≤ n then
      let (bs, l) := tqTake (n - left.length) r
      (left ++ bs, l)
    else (left.take n, { i with read := i.read + n } :: r)

/-- TQ_COUNT (R418): an item arrives whole with its command, so CUT is 0 (DEDUCED, assumption 89). -/
def tqCount (t : Tq) : Nat :=
  let n := tqUsed t.items
  let pend := match t.items with | i :: _ => i.crumb | [] => false
  (if pend then 2 ^ 31 else 0) + n % 16 * 65536 + n / 16

/-- TQ_DATA_READ (R419): the next word; a tail word is filled with zeros, and later halfwords go to the next word. -/
def execTqDataRead (queue : Nat) (s : State) : Host.Outcome State Fault Refusal :=
  ifUnit (queue < 6) (onDir s fun d =>
    if !works d then d else
    let t := tq d queue
    if tqUsed t.items = 0 then modTq d queue fun t => { t with word := 0 } else
    let (bs, rest) := tqTake 16 t.items
    modTq d queue fun t => { t with items := rest, word := BitVec.ofNat 128 (leNat bs) })

end Sys2Proof.Machine
end

