-- ==== Sys2Proof/Machine/Staging.lean ====
section
/-! DEFINITION. PARAM_STAGE records of a bake that changes CP_CYCLE, CP_SAMPLE_OFS, CP_WINDOW_OPEN or
CP_LEASE_CYCLES (R465, R466). -/

namespace Sys2Proof.Machine

/-- The PARAM_STAGE records that bring a cell from one configuration to another: first index and values (R131, R198). -/
def stageRuns (old new : Cfg) (id : Nat) : List (Nat × List Nat) :=
  let differs (i : Nat) : Bool := cellCfg old id i != cellCfg new id i
  (if [7, 8, 9].any differs then [(7, [7, 8, 9].map (cellCfg new id))] else [])
    ++ (if !isNode id && differs 0x13 then [(0x13, [cellCfg new id 0x13])] else [])

/-- Send them with APPLY = B, in two frames each. -/
def stageCell (d : Director) (id : Nat) (b : Cycle) (runs : List (Nat × List Nat)) : Director :=
  if runs.isEmpty then d else
  let d := modRec d id fun r => { r with wanted := runs.map (·.1), staging := [], confirmed := [] }
  runs.foldl (fun d (i, vs) =>
    mgmtTo d id 0x13 (toBE 2 i ++ b1 vs.length ++ [0] ++ toBE 4 b.toNat ++ vs.flatMap (toBE 4)) fun r =>
      { secured id r with copies := 2, why := .stage i }) d

/-- Proven cells of this director's trees. -/
def provenCells (d : Director) : List Nat := (d.cells.filter fun (id, r) => r.link = .proven && configured (cfg d) id).map (·.1)

/-- Stage a bake at every cell that needs it (R466). -/
def stageAll (d : Director) (b : Cycle) (new : Cfg) : Director :=
  (provenCells d).foldl (fun d id => stageCell d id b (stageRuns (cfg d) new id)) d

/-- Forget PARAM_STAGE records that have not left. -/
def dropStages (d : Director) : Director :=
  { d with ports := d.ports.map fun (n, p) => (n, { p with mgmt := p.mgmt.filter fun r => match r.why with | .stage _ => false | _ => true }) }

/-- Replace the pending values of the cells by those in force (R466). -/
def unstageAll (d : Director) (b : Cycle) (new : Cfg) : Director :=
  let d := dropStages d
  let ids := (provenCells d).filter fun id => !(cellRec d id).wanted.isEmpty
  let d := ids.foldl (fun d id => stageCell d id b ((stageRuns (cfg d) new id).map fun (i, vs) =>
    (i, (List.range vs.length).map fun j => cellCfg (cfg d) id (i + j)))) d
  { d with cfg := { d.cfg with undo := some b } }

/-- Nothing is staged at any cell any more. -/
def clearStages (d : Director) : Director :=
  let d := dropStages d
  { d with cfg := { d.cfg with undo := none }
           cells := d.cells.map fun (i, r) => (i, { r with wanted := [], staging := [], confirmed := [] }) }

/-- At a start tick: cells configured since the sending receive their records; a past replacement is done with (R466). -/
def stageDue (d : Director) : Director :=
  match d.cfg.bake with
  | some b =>
    if !b.staged || cycleDiff b.b (cyc d) < 0 then d else
    let new := parseAll b.content
    ((provenCells d).filter fun id => (cellRec d id).wanted.isEmpty && 7 ≤ (cellRec d id).cfgStep && (cellRec d id).cfgStep ≤ 8).foldl
      (fun d id => stageCell d id b.b (stageRuns (cfg d) new id)) d
  | none => match d.cfg.undo with
    | some b => if 0 ≤ cycleDiff (cyc d) b then clearStages d else d
    | none => d

/-- A cell needs values that no confirmed record brought (R466). -/
def unconfirmed (d : Director) (new : Cfg) (id : Nat) : Bool :=
  ((stageRuns (cfg d) new id).map (·.1)).any fun i => !(cellRec d id).confirmed.contains i

/-- Withdraw a slot from a stated cycle on (R466, R647 cause 4). -/
def withdrawAt (d : Director) (id : Nat) (b : Cycle) : Director :=
  let d := modRec d id fun r => { r with withdrawn := some b }
  mgmtTo d id 0x05 (toBE 4 b.toNat ++ b1 4 ++ zeros 3) fun r => { secured id r with copies := 2 }

/-- PARAM_STAGE_CONFIRM_DEADLINE (R466): at cycle B − 64. -/
def execParamStageConfirmDeadline (s : State) : Host.Outcome State Fault Refusal := onDir s fun d =>
  if !works d || !d.time.running then d else
  let at_ (b : Cycle) : Bool := cycleDiff (cyc d) (b - 64) ≥ 0 && cycleDiff (cyc d) b < 0
  let open_ (id : Nat) : Bool := (cellRec d id).withdrawn.isNone
  match d.cfg.bake with
  | some b =>
    if !b.staged || !at_ b.b then d else
    ((provenCells d).filter fun id => open_ id && unconfirmed d (parseAll b.content) id).foldl (fun d id => withdrawAt d id b.b) d
  | none => match d.cfg.undo with
    | some b =>
      if !at_ b then d else
      ((provenCells d).filter fun id => open_ id && (cellRec d id).wanted.any fun i => !(cellRec d id).confirmed.contains i).foldl
        (fun d id => withdrawAt d id b) d
    | none => d

end Sys2Proof.Machine
end

