-- ==== Sys2Proof/Machine/Cycle.lean ====
section
/-! DEFINITION. The cycle start (R34, R332 to R335, R549), what takes effect at a start tick (R85, R93,
R597, R599), and the loss and return of the director's clocks (R359 to R362). -/

namespace Sys2Proof.Machine

/-! What takes effect at a start tick -/

/-- Offsets whose cycle has come, and slots that end (R85, R93, R466). -/
def applyCells (d : Director) : Director :=
  let reached (c : Cycle) : Bool := 0 ≤ cycleDiff (cyc d) c
  let one (r : CellRec) : CellRec :=
    let r := match r.pendOfs with
      | some (c, dn, up) => if reached c then { r with dnOfs := dn, upOfs := up, pendOfs := none } else r
      | none => r
    match r.withdrawn with
    | some c =>
      if reached c then
        let r := { r with granted := none, withdrawn := none }
        if holdsSlot r then { r with link := .listen, key := none, keyConfirmed := false, cfgStep := 0, reading := none, sealed := false } else r
      else r
    | none => r
  { d with cells := d.cells.map fun (i, r) => (i, one r) }

/-- Answer the SEC_REKEY of a port once no other port still counts on it (R527). -/
def rekeyAnswer (d : Director) (n : Nat) : Director :=
  match (port d n).rekeyMb with
  | none => d
  | some mb =>
    let d := modPort d n fun p => { p with rekeyMb := none }
    if d.ports.any fun (_, p) => p.rekeyMb = some mb then d else
    match (mbx d mb).cmd with
    | some c => respond d mb stOK (c.payload.take 4)
    | none => d

/-- Tree keys whose FROM has come (R597). -/
def applyTreeKeys (d : Director) : Director :=
  (ports (part d)).foldl (fun d n =>
    match (treeKey d n).next with
    | some (k, c) =>
      if cycleDiff (cyc d) c < 0 then d else
      let t : TreeKey := { phase := !(treeKey d n).phase, key := k, since := d.time.raw, sinceCycle := c, valid := true, next := none, rekeyed := some c }
      rekeyAnswer { d with sec := { d.sec with trees := tset n t d.sec.trees } } n
    | none => d) d

/-- The Skeund link key whose SWITCH has come (R599, R527). -/
def applySkKey (d : Director) : Director :=
  match d.sec.skNext with
  | some (k, c) =>
    if cycleDiff (cyc d) c < 0 then d else
    let d := { d with sec := { d.sec with skKey := some k, skPrev := d.sec.skKey, skSince := d.time.raw, skSinceCycle := c, skNext := none } }
    [0, 1, 2, 3].foldl (fun d mb => match (mbx d mb).cmd with
      | some x => if x.wait = .key && byteAt x.payload 0 = 2 then respond d mb stOK (x.payload.take 4) else d
      | none => d) d
  | none => d

/-- TWIN_DIFF (R355, R364). -/
def countTwinDiff (d : Director) : Director :=
  if twinDiffers d then
    raiseLim (modTime d fun t => { t with twinDiff := satInc t.twinDiff }) (limKey 71 2 0) 71 0x02 (b4z (leadD d))
  else d

/-! The cycle start -/

/-- Keep the flag word bits of the cycle that ends (R397). -/
def keepFlags (d : Director) : Director :=
  if !d.time.running then d else
  let q := d.time.mode = .locked || d.time.mode = .holdover
  modRcd d fun r => { r with
    flagBase := ((cyc d, baseFlags d, d.time.now, !q) :: r.flagBase).take 4
    sawBlock := 0, sawUrgent := false, sawDrop := false }

/-- Converter time `n` raw ticks on. -/
def elapse (t : TimeState) (n : Nat) : TimeState := { t with raw := t.raw + n, now := t.now + n * tickInc t.c }

/-- Corrections move up by one start tick (R334). -/
def shiftC (t : TimeState) : TimeState := { t with c := t.cNext, cNext := t.cPend.getD t.cNext, cPend := none }

/-- Before cycle numbers run, one period passes, or the time up to the next cycle start once an epoch
stands (R34, R549; DEDUCED, assumption 14). -/
def advanceIdle (d : Director) : Director :=
  let u := planUnits d
  let n := planN (cfg d)
  let t := d.time
  match (if d.cfg.baked then t.epoch else none) with
  | some e =>
    let m : Int := if t.now < e then 0 else (t.now - e) / u + 1
    if m ≤ 0 && t.now + n * tickInc t.c < e then modTime d fun t => shiftC (elapse t n)
    else modTime d fun t =>
      let g := e + m * u
      let t := shiftC (elapse t (ticksTo t.now g t.c))
      { t with running := true, cycle := BitVec.ofInt 32 m, grid := g, starts := t.starts + 1, lenPrev := n }
  | none => modTime d fun t => shiftC (elapse t n)

/-- From one start tick to the next (R34, R335). -/
def advanceCycle (d : Director) : Director :=
  let u := planUnits d
  modTime d fun t =>
    let len := t.len
    let t := shiftC (elapse t len)
    { t with cycle := t.cycle + 1, grid := t.grid + u, starts := t.starts + 1, lenPrev := len }

/-- Waiting control frames leave in the cycle that begins (R371). -/
def drainAll (d : Director) : Director := (List.range (min 255 d.sk.queue.length)).foldl (fun d _ => drainControl d) d

/-- CYCLE_START (R34, R35, R332 to R335, R549). -/
def execCycleStart (s : State) : Host.Outcome State Fault Refusal := onDir s fun d =>
  if !works d then d else
  let d := keepFlags d
  let d := if d.time.running then advanceCycle d else advanceIdle d
  if !d.time.running then d else
  let d := fixLengths d
  let d := applySkKey (applyTreeKeys (applyCells d))
  let d := modSk d fun k => { k with lanes := k.lanes.map fun (p, l) => (p, { l with fseq := 0 }) }
  let d := drainAll (stageDue d)
  recSample (countTwinDiff d) (cyc d - 2)

/-! Clocks -/

/-- The recorder stops without closing; the segment in progress is ABANDONED (R405). -/
def abandonSeg (d : Director) : Director :=
  if d.rcd.mode = .stopped then d else
  let d := match d.rcd.seg with | some i => setSeg d i .abandoned | none => d
  recStopped d

/-- The outputs of the root PLL stop: the trees, lanes and time ports fall silent (R361, R68, R317). -/
def clocksStop (d : Director) : Director :=
  let d := darkLanes (darkTrees (abandonSeg (modTime d fun t => { t with pllLock := false, treesOff := true })))
  { d with
    pins := { d.pins with alive := false, ppsOut := false }
    ports := d.ports.map fun (n, p) => (n, { p with frame := none, subs := [], joinOpen := none }) }

/-- ROOT_PLL_UNLOCK (R361). -/
def execRootPllUnlock (s : State) : Host.Outcome State Fault Refusal := onDir s fun d =>
  if !d.time.pllLock then d else
  clocksStop (modTime d fun t => { t with oweUnlock := true, rootUnlock := satInc t.rootUnlock })

/-- REF_LOSS (R361). -/
def execRefLoss (s : State) : Host.Outcome State Fault Refusal := onDir s fun d =>
  if !d.time.refOk then d else
  let d := modTime d fun t => { t with refOk := false, oweRefLoss := true, refLoss := satInc t.refLoss }
  if d.time.pllLock then clocksStop d else d

/-- REF_RETURN (R362). -/
def execRefReturn (s : State) : Host.Outcome State Fault Refusal := onDir s fun d =>
  modTime d fun t => { t with refOk := true }

/-- Converter time after a relock: UNQUALIFIED, from the coarse count of 40 ns (R361, R362). How long the
clocks stood is a free value; cycle numbers go on with the grid (R34; DEDUCED, assumption 25). -/
def relockTime (d : Director) (fresh : Nat) : Director :=
  let d := [0, 1].foldl toListening ([0, 1].foldl portDown d)
  let d := modTime d fun t => { t with
    now := t.now + ofFrac (((Config.freeValue fresh 0).toNat : Int) * 40 * nsFrac)
    source := .none_, holdAt := none, step := none, stepped := none, prop := 0, c := 0, cNext := 0, cPend := none
    epoch := if t.running then some (t.grid - t.cycle.toNat * planUnits d) else t.epoch
    running := false, sending := false, ownEpoch := false, ownFrom := t.raw, silentTo := none, mismatch := false
    marksOwn := [], eps := [], twinSeen := false, twinStep := none
    pps0 := { t.pps0 with lastEdge := none, good := false }, pps1 := { t.pps1 with lastEdge := none, good := false } }
  setTimeMode d .unqualified

/-- The cells of a silent tree are back in LISTEN (R123, R362). -/
def relockCells (d : Director) : Director :=
  { d with
    cells := d.cells.map fun (i, r) => (i, listenRec r)
    ports := d.ports.map fun (n, p) => (n, quietPort p) }

/-- ROOT_PLL_LOCK (R362): the director resumes. A lock lost in RELEASED, whose first lock is step 1 of R548, comes back
with nothing to resume. -/
def execRootPllLock (s : State) : Host.Outcome State Fault Refusal := onDir s fun d =>
  if d.time.pllLock || !d.time.refOk || d.frz.frozen then d else
  if d.boot.state = .released && 2 ≤ d.boot.step then lightLanes (modTime d fun t => { t with pllLock := true })
  else if !inRun d then d else
  let d := lightLanes (modTime d fun t => { t with pllLock := true })
  let d := linkDown d
  let d := relockTime d s.fresh
  let d := (List.range 6).foldl (fun d a =>
    modArm (changeMode d a .off 5) a fun x => { x with mirror := none, missed := true, sync := false, goodRun := 0, held := 0 }) d
  let d := relockCells d
  let d := modSk d fun k => { k with lastMirror := none, twinRole := [], twinMode := [] }
  let d := modRcd d fun r => { r with segs := r.segs.map fun (i, m) => (i, if m = .abandoned then .free else m) }
  let d := { d with
    pins := { d.pins with alive := d.pins.served }
    bg := { d.bg with patrolAt := 0 } }
  let d := if d.time.oweUnlock then raise d 71 0x06 [] else d
  let d := if d.time.oweRefLoss then raise d 71 0x07 [] else d
  modTime d fun t => { t with oweUnlock := false, oweRefLoss := false }

end Sys2Proof.Machine
end

