-- ==== Sys2Proof/Machine/Flags.lean ====
section
/-! DEFINITION. The status words of BAR0 (R428) and the ATTN_N pin (R450), as they read. -/

namespace Sys2Proof.Machine

/-- Silicon revision of DEV_ID: Rev. B (R428). -/
def devRev : Nat := 0x0B

/-- DEV_ID. -/
def devIdWord (d : Director) : Nat := part d * 65536 + devRev * 256 + sideNum d

/-- STATE codes of BOOT_STATE. -/
def bootCode : BootState → Nat
  | .held => 1 | .fuseLoad => 1 | .imageLoad => 2 | .released => 3 | .run => 4 | .safe => 5 | .frozen => 6

/-- KUDEN of BOOT_STATE. -/
def kudenWord (d : Director) : Nat := match d.boot.state with | .run => 0x0302 | .safe => 0x8302 | _ => 0

/-- BOOT_STATE. -/
def bootWord (d : Director) : Nat :=
  kudenWord d * 65536 + (if d.boot.state = .run then d.boot.slot else 0) * 256 + bootCode d.boot.state

/-- Two-bit STATE codes of MBX_STATUS. -/
def mbxCode : MbxState → Nat | .idle => 0 | .pending => 1 | .active => 2 | .done => 3

/-- MBX_STATUS. -/
def mbxStatusWord (d : Director) : Nat :=
  [0, 1, 2, 3].foldl (fun v n =>
    v + b2n (mbx d n).reject * 2 ^ (24 + n) + b2n ((mbx d n).state = .done) * 2 ^ (16 + n) + mbxCode (mbx d n).state * 4 ^ n) 0

/-- EVT_HEAD. -/
def evtHeadWord (d : Director) : Nat := b2n d.ring.ovf * 2 ^ 31 + d.ring.head % 2048

/-- FREEZE_STAT. -/
def freezeStatWord (d : Director) : Nat := d.frz.cause * 256 + b2n d.frz.draining * 2 + b2n d.frz.frozen

/-- Credits granted to background blocks. -/
def grantedSum (d : Director) : Nat := d.bg.grants.foldl (fun n g => n + g.2) 0

/-- ARB_BUDGET_STAT. -/
def arbStatWord (d : Director) : Nat := d.bg.budget * 2 ^ 24 + d.bg.reserve * 65536 + grantedSum d * 256

/-- Unread entries of the event ring (R443). -/
def unread (d : Director) : Nat := (d.ring.head + 2048 - d.ring.tail) % 2048

/-- ATTN_N: low while an entry is unread or a mailbox is DONE, in RUN and SAFE; high impedance or high before (R450, R533). -/
def attnN (d : Director) : Bool := !(hostUp d && (d.ring.head != d.ring.tail || [0, 1, 2, 3].any fun n => (mbx d n).state = .done))

end Sys2Proof.Machine
end

