-- ==== Sys2Proof/Machine/HostIf.lean ====
section
/-! DEFINITION. The host interfaces: BAR0 (R426 to R428), the mailbox windows (R429, R431), the
doorbell, DONE and TAIL writes (R430, R431, R444, R449), the SPI target (R424, R425), the freeze
readout (R610) and the resets of the PCI Express link (R423). -/

namespace Sys2Proof.Machine

def modHost (d : Director) (f : HostIf → HostIf) : Director := { d with host := f d.host }
def modRing (d : Director) (f : EventRing → EventRing) : Director := { d with ring := f d.ring }

/-- The register block takes writes: RESET_N high and not frozen. -/
def regsUp (d : Director) : Bool := d.pins.resetN && d.boot.state != .held && !d.frz.frozen

/-- An interface reaches the director: PCI Express only in RUN and SAFE (R534). -/
def ifaceUp (d : Director) (i : Iface) : Bool := regsUp d && (i = .spi || hostUp d)

/-! Reads -/

/-- The interface's shadow of the seconds (R23, R427). -/
def shadow (d : Director) (i : Iface) : Word := match i with | .pcie => d.host.shadowPcie | .spi => d.host.shadowSpi

def setShadow (d : Director) (i : Iface) (v : Word) : Director :=
  modHost d fun h => match i with | .pcie => { h with shadowPcie := v } | .spi => { h with shadowSpi := v }

/-- Read an aligned word of BAR0 through an interface, at a raw tick of the present cycle: its value
and the read's effect (R427, R428). In FROZEN all but three words read 0 (R610). -/
def regRead (m : Stores) (d : Director) (i : Iface) (off tick : Nat) : Director × Nat :=
  if d.frz.frozen && !(off = 0x000 || off = 0x004 || off = 0x040) then (d, 0) else
  if 0x800 ≤ off && off < 0xA00 then (d, leNat (rdBytes m .msix (off - 0x800) 4)) else
  match off with
  | 0x000 => (d, devIdWord d)
  | 0x004 => (d, bootWord d)
  | 0x014 => (d, mbxStatusWord d)
  | 0x020 => (d, evtHeadWord d)
  | 0x024 => (d, d.ring.tail % 2048)
  | 0x028 => (modRing d fun r => { r with lost := 0 }, d.ring.lost.toNat)
  | 0x030 =>
    let t := time96 (timeAt d tick)
    (setShadow d i (BitVec.ofNat 32 (fld t.toNat 79 48)), fld t.toNat 45 16)
  | 0x034 => (d, (shadow d i).toNat)
  | 0x040 => (d, freezeStatWord d)
  | 0x044 => (d, arbStatWord d)
  | 0x050 => (modHost d fun h => { h with spiCrcFail := 0 }, d.host.spiCrcFail.toNat)
  | 0xA00 => (d, d.host.pba.toNat)
  | _ => (d, 0)

/-- The response window of a mailbox: header, payload, zeros (R435). -/
def rspWindow (x : Mailbox) : List Byte :=
  match x.rsp with
  | some r => padTo 4096 (b2 r.opcode.toNat ++ b1 r.status.toNat ++ b1 r.tag.toNat ++ b2 r.payload.length ++ b4 r.sequence.toNat ++ zeros 6 ++ r.payload)
  | none => zeros 4096

/-- A byte of BAR2 (R429); zeros until RUN or SAFE (R534). -/
def winByte (m : Stores) (d : Director) (off : Nat) : Byte :=
  if !hostUp d || 0x8000 ≤ off then 0
  else if (off / 4096) % 2 = 0 then rdByte m (.window (off / 8192)) (off % 4096)
  else (rspWindow (mbx d (off / 8192))).getD (off % 4096) 0

/-- A byte of the freeze readout map (R610): the freeze header, and memory words, whose contents are
free values of the freeze; the key store reads as zeros (DESIGN CHOICE, assumption 26). -/
def frozenByte (d : Director) (addr : Nat) : Byte :=
  if 0x010000 ≤ addr && addr < 0x010080 then d.frz.header.getD (addr - 0x010000) 0
  else if (0x010100 ≤ addr && addr < 0x020000) || (0x100000 ≤ addr && addr < 0xF00000) then Config.freeByte d.frz.image addr
  else 0

/-- Bytes an SPI read returns from an address on, with the effects of the registers it touches: a word is
read where the transaction first touches it (R424, R20). -/
def spiBytes (m : Stores) (d : Director) (addr tick : Nat) : Nat → Nat → Director → Nat → List Byte → Director × List Byte
  | 0, _, d', _, acc => (d', acc)
  | n + 1, i, d', w, acc =>
    let a := addr + i
    if a < 0x1000 then
      let fresh := i = 0 || a % 4 = 0
      let (d', w) := if fresh then regRead m d' .spi (a / 4 * 4) tick else (d', w)
      spiBytes m d addr tick n (i + 1) d' w (acc ++ [BitVec.ofNat 8 (fld w (8 * (a % 4) + 7) (8 * (a % 4)))])
    else
      let v : Byte :=
        if d'.frz.frozen then frozenByte d' a
        else if 0x10000 ≤ a && a < 0x20000 then winByte m d' (a - 0x10000)
        else if 0x20000 ≤ a && a < 0x30000 then (if hostUp d' then rdByte m .ring (a - 0x20000) else 0)
        else 0
      spiBytes m d addr tick n (i + 1) d' w (acc ++ [v])

/-- The data of an SPI read. -/
def spiData (m : Stores) (d : Director) (addr len tick : Nat) : Director × List Byte := spiBytes m d addr tick len 0 d 0 []

/-! Writes -/

/-- Vectors that have something to report: an unread entry of one of their sources, or a mailbox in DONE (R449). -/
def waitingVectors (m : Stores) (d : Director) : BitVec 32 :=
  let ev := (List.range (unread d)).foldl (fun (v : BitVec 32) i =>
    v ||| BitVec.twoPow 32 (srcVector d (rdByte m .ring (32 * ((d.ring.tail + i) % 2048) + 4)).toNat)) 0
  [0, 1, 2, 3].foldl (fun v n => if (mbx d n).state = .done then v ||| BitVec.twoPow 32 (mbxVector d n) else v) ev

/-- Rearm every vector; one that was disarmed and has something to report sends again at once (R449). -/
def rearm (m : Stores) (d : Director) : Director :=
  let w := waitingVectors m d &&& ~~~d.host.armed
  modHost d fun h => { h with armed := BitVec.allOnes 32, trig := h.trig ||| w }

/-- A condition of source 97; it carries no DATA (R447). -/
def hostEvent (d : Director) (detail : Nat) : Director := raise d 97 detail []

/-- Ring mailboxes through an interface (R430, R431). -/
def ringBits (d : Director) (i : Iface) (bits : BitVec 4) : Director :=
  (maskBits 4 bits.toNat).foldl (fun d n =>
    if (mbx d n).state = .idle then modMbx d n fun x => { x with state := .pending, iface := i, rungAt := d.time.raw }
    else hostEvent (modMbx d n fun x => { x with reject := true }) 0x02) d

/-- Clear DONE bits (R430, R431, R449). -/
def doneBits (m : Stores) (d : Director) (bits : BitVec 4) : Director :=
  let ns := (maskBits 4 bits.toNat).filter fun n => (mbx d n).state = .done
  let d := ns.foldl (fun d n => modMbx d n fun x => { x with state := .idle }) d
  if ns.isEmpty then d else rearm m d

def rejectBits (d : Director) (bits : BitVec 4) : Director :=
  (maskBits 4 bits.toNat).foldl (fun d n => modMbx d n fun x => { x with reject := false }) d

/-- Write EVT_TAIL (R444, R449): ignored when it would add unread entries. -/
def tailWrite (m : Stores) (d : Director) (v : Nat) : Director :=
  let t := v % 2048
  let d' := modRing d fun r => { r with tail := t }
  if unread d < unread d' then hostEvent d 0x03 else rearm m d'

/-- Write a whole word of BAR0 through an interface (R21, R426, R428). -/
def regWrite (m : Stores) (d : Director) (i : Iface) (off v : Nat) : Director :=
  if 0x800 ≤ off && off < 0xA00 then putMem d { dest := .msix, addr := off - 0x800, data := b4 v } else
  match off with
  | 0x010 => ringBits d i (BitVec.ofNat 4 v)
  | 0x014 => doneBits m (rejectBits d (BitVec.ofNat 4 (fld v 27 24))) (BitVec.ofNat 4 (fld v 19 16))
  | 0x024 => tailWrite m d v
  | _ => d

/-- The command window of mailbox n is locked (R431). -/
def locked (d : Director) (n : Nat) : Bool := (mbx d n).state = .pending || (mbx d n).state = .active

/-- Write bytes into BAR2 (R429, R431): locked windows are reported once for the write. -/
def windowWrite (d : Director) (off : Nat) (data : List Byte) : Director :=
  if !hostUp d then d else
  [0, 1, 2, 3].foldl (fun d n =>
    let base := 8192 * n
    let lo := max off base
    let hi := min (off + data.length) (base + 4096)
    if hi ≤ lo then d
    else if locked d n then hostEvent d 0x01
    else putMem d { dest := .window n, addr := lo - base, data := sub data (lo - off) (hi - lo) }) d

/-- An SPI write (R424, R426): whole words of BAR0 are written, partly covered ones ignored and reported. -/
def spiStore (m : Stores) (d : Director) (addr : Nat) (data : List Byte) : Director :=
  let fin := addr + data.length
  let d := if addr < 0x1000 then
      let w0 := addr / 4
      let w1 := ceilDiv (min fin 0x1000) 4
      (List.range (w1 - w0)).foldl (fun d j =>
        let a := 4 * (w0 + j)
        if addr ≤ a && a + 4 ≤ fin then regWrite m d .spi a (leAt data (a - addr) 4) else hostEvent d 0x05) d
    else d
  let lo := max addr 0x10000
  let hi := min fin 0x20000
  if lo < hi then windowWrite d (lo - 0x10000) (sub data (lo - addr) (hi - lo)) else d

/-! Rows -/

/-- MBX_RING (R430, R431). -/
def execMbxRing (iface : Iface) (bits : BitVec 4) (s : State) : Host.Outcome State Fault Refusal := onDir s fun d =>
  if ifaceUp d iface then ringBits d iface bits else d

/-- MBX_DONE_CLEAR (R430, R431, R449). -/
def execMbxDoneClear (bits : BitVec 4) (s : State) : Host.Outcome State Fault Refusal := onDir s fun d =>
  if regsUp d then doneBits s.mem d bits else d

/-- RING_REJECT_CLEAR (R428). -/
def execRingRejectClear (bits : BitVec 4) (s : State) : Host.Outcome State Fault Refusal := onDir s fun d =>
  if regsUp d then rejectBits d bits else d

/-- MBX_WINDOW_WRITE (R429, R431): an offset in BAR2. -/
def execMbxWindowWrite (iface : Iface) (offset : Nat) (data : List Byte) (s : State) : Host.Outcome State Fault Refusal := onDir s fun d =>
  if ifaceUp d iface then windowWrite d offset data else d

/-- EVT_TAIL_WRITE (R444, R449). -/
def execEvtTailWrite (value : BitVec 32) (s : State) : Host.Outcome State Fault Refusal := onDir s fun d =>
  if regsUp d then tailWrite s.mem d value.toNat else d

/-- A register read that replies with its word. -/
def replyWord (x : Director × Nat) : Director := send x.1 (.reply (b4 x.2))

/-- EVT_LOST_READ (R428). -/
def execEvtLostRead (s : State) : Host.Outcome State Fault Refusal := onDir s fun d =>
  if d.pins.resetN then replyWord (regRead s.mem d .pcie 0x028 0) else d

/-- SPI_CRC_FAIL_READ (R425, R428). -/
def execSpiCrcFailRead (s : State) : Host.Outcome State Fault Refusal := onDir s fun d =>
  if d.pins.resetN then replyWord (regRead s.mem d .spi 0x050 0) else d

/-- TIME_SNAP_LO_READ (R427). -/
def execTimeSnapLoRead (iface : Iface) (tick : Nat) (s : State) : Host.Outcome State Fault Refusal := onDir s fun d =>
  if d.pins.resetN then replyWord (regRead s.mem d iface 0x030 tick) else d

/-- Offset, past BAR0, at which the model writes the Command register of the PCI configuration space
(bit 2: Bus Master Enable, R422; PRESUMED, assumption 27). -/
def pciCommand : Nat := 0x1004

/-- REGISTER_WRITE_OTHER (R21, R426, R428). -/
def execRegisterWriteOther (iface : Iface) (offset : Nat) (value : BitVec 32) (whole : Bool) (s : State) :
    Host.Outcome State Fault Refusal := onDir s fun d =>
  if !ifaceUp d iface then d
  else if offset = pciCommand then (if iface = .pcie then modHost d fun h => { h with busMaster := value.getLsbD 2 } else d)
  else if 0x1000 ≤ offset then d
  else if !whole || offset % 4 ≠ 0 then hostEvent d 0x05
  else regWrite s.mem d iface offset value.toNat

/-- SPI_READ (R424). -/
def execSpiRead (addr len tick : Nat) (s : State) : Host.Outcome State Fault Refusal := onDir s fun d =>
  if !d.pins.resetN then d else
  let (d, bs) := spiData s.mem d addr len tick
  send d (.reply bs)

/-- SPI_WRITE (R424, R426). -/
def execSpiWrite (addr : Nat) (data : List Byte) (s : State) : Host.Outcome State Fault Refusal := onDir s fun d =>
  if regsUp d then spiStore s.mem d addr data else d

/-- CRC-16 of an SPI transaction: instruction, address and data, in line order (R425). -/
def spiCrc (code addr : Nat) (data : List Byte) : Nat := crc16 (bytesBits (b1 code ++ toBE 3 addr ++ data))

/-- SPI_READ_CRC (R424, R425). -/
def execSpiReadCrc (addr len tick : Nat) (s : State) : Host.Outcome State Fault Refusal := onDir s fun d =>
  if !d.pins.resetN then d else
  let (d, bs) := spiData s.mem d addr len tick
  send d (.reply (bs ++ toBE 2 (spiCrc 0x0B addr bs)))

/-- SPI_WRITE_CRC (R424, R425): `crc` none when CS_N rises before it is complete. -/
def execSpiWriteCrc (addr : Nat) (data : List Byte) (crc : Option (BitVec 16)) (s : State) : Host.Outcome State Fault Refusal := onDir s fun d =>
  if !regsUp d then d
  else if 1 ≤ data.length && data.length ≤ 256 && crc = some (BitVec.ofNat 16 (spiCrc 0x0A addr data)) then spiStore s.mem d addr data
  else hostEvent (modHost d fun h => { h with spiCrcFail := satInc h.spiCrcFail }) 0x04

/-- SPI_UNKNOWN_INSTRUCTION (R424): zeros until CS_N rises. -/
def execSpiUnknownInstruction (_code : BitVec 8) (len : Nat) (s : State) : Host.Outcome State Fault Refusal := onDir s fun d =>
  if d.pins.resetN then send d (.reply (zeros len)) else d

/-- PCIE_RESET (R423): the configuration space and the MSI-X table, whose vectors PCI Express resets masked. -/
def execPcieReset (s : State) : Host.Outcome State Fault Refusal := onDir s fun d =>
  if !d.pins.resetN then d else
  let d := modHost d fun h => { h with busMaster := false, pba := 0 }
  putMem d { dest := .msix, addr := 0, data := ((List.range 32).map fun _ => zeros 12 ++ b4 1).flatten }

end Sys2Proof.Machine
end

