-- ==== Sys2Proof/Machine/Mailbox.lean ====
section
/-! DEFINITION. The command table and the checks of R436 (R430 to R438, R458, R497), the work
dispatcher (R451 to R454), and the event ring (R443 to R446). -/

namespace Sys2Proof.Machine

/-! The command table -/

/-- Classes of R438. -/
inductive CmdClass | q | s | a | b | c | t | l
  deriving DecidableEq, Repr

/-- A row of the command tables: class, accepted LENGTH, available in SAFE (R458, R497). -/
structure CmdRow where
  cls  : CmdClass
  len  : Nat → List Byte → Bool
  safe : Bool := false

def lenIs (n : Nat) (l : Nat) (_ : List Byte) : Bool := l = n
def lenIn (lo hi : Nat) (l : Nat) (_ : List Byte) : Bool := lo ≤ l && l ≤ hi
def lenEven (lo hi : Nat) (l : Nat) (_ : List Byte) : Bool := lo ≤ l && l ≤ hi && l % 2 = 0
def len8or40 (l : Nat) (_ : List Byte) : Bool := l = 8 || l = 40

/-- The rows of R458 and R497. -/
def cmdRow (op : Nat) : Option CmdRow :=
  match op with
  | 0x0100 => some { cls := .q, len := lenIn 0 4080, safe := true }
  | 0x0101 => some { cls := .q, len := lenIs 0, safe := true }
  | 0x0102 => some { cls := .q, len := lenIs 0, safe := true }
  | 0x0103 => some { cls := .q, len := lenIs 8, safe := true }
  | 0x0200 => some { cls := .s, len := lenIn 13 4080 }
  | 0x0201 => some { cls := .q, len := lenIs 12 }
  | 0x0202 => some { cls := .s, len := lenIs 0 }
  | 0x0203 => some { cls := .b, len := lenIs 8 }
  | 0x0204 => some { cls := .q, len := lenIs 0 }
  | 0x0205 => some { cls := .q, len := lenIs 0 }
  | 0x0300 => some { cls := .q, len := lenIs 4 }
  | 0x0301 => some { cls := .c, len := lenIs 8 }
  | 0x0302 => some { cls := .c, len := fun l p => l = 8 + 4 * byteAt p 4 }
  | 0x0303 => some { cls := .c, len := lenIs 4 }
  | 0x0304 => some { cls := .c, len := lenIs 4 }
  | 0x0305 => some { cls := .q, len := lenIs 4 }
  | 0x0306 => some { cls := .a, len := lenIs 8 }
  | 0x0307 => some { cls := .c, len := lenIs 8 }
  | 0x0400 => some { cls := .q, len := lenIs 4 }
  | 0x0401 => some { cls := .a, len := len8or40 }
  | 0x0402 => some { cls := .a, len := lenIs 40 }
  | 0x0403 => some { cls := .a, len := lenIs 40 }
  | 0x0404 => some { cls := .a, len := lenIs 28 }
  | 0x0405 => some { cls := .q, len := lenIs 4 }
  | 0x0406 => some { cls := .a, len := fun l p => l = (if byteAt p 1 = 2 then 40 else 8) }
  | 0x0500 => some { cls := .a, len := lenEven 10 136 }
  | 0x0501 => some { cls := .q, len := lenIs 4 }
  | 0x0502 => some { cls := .q, len := lenIs 4 }
  | 0x0503 => some { cls := .q, len := lenIs 4 }
  | 0x0504 => some { cls := .q, len := lenIs 4 }
  | 0x0600 => some { cls := .q, len := lenIs 4 }
  | 0x0601 => some { cls := .a, len := lenEven 10 136 }
  | 0x0602 => some { cls := .a, len := lenIs 8 }
  | 0x0603 => some { cls := .a, len := lenIs 8 }
  | 0x0700 => some { cls := .q, len := lenIs 0 }
  | 0x0701 => some { cls := .q, len := lenIs 4 }
  | 0x0702 => some { cls := .a, len := lenIs 20 }
  | 0x0703 => some { cls := .q, len := lenIs 4 }
  | 0x0800 => some { cls := .q, len := lenIs 0 }
  | 0x0801 => some { cls := .q, len := lenIs 0 }
  | 0x0802 => some { cls := .q, len := lenIs 0 }
  | 0x0803 => some { cls := .a, len := lenIs 4 }
  | 0x0804 => some { cls := .q, len := lenIs 4 }
  | 0x0805 => some { cls := .q, len := lenIs 4 }
  | 0x0806 => some { cls := .l, len := lenIs 16 }
  | 0x0807 => some { cls := .q, len := lenIs 4 }
  | 0x0900 => some { cls := .q, len := lenIs 8 }
  | 0x0901 => some { cls := .c, len := lenIs 4 }
  | 0x0902 => some { cls := .q, len := lenIs 4 }
  | 0x0903 => some { cls := .q, len := lenIs 4 }
  | 0x0904 => some { cls := .c, len := lenIs 4 }
  | 0x0905 => some { cls := .q, len := lenIs 8 }
  | 0x0906 => some { cls := .q, len := lenIs 8 }
  | 0x0907 => some { cls := .q, len := lenIs 8 }
  | 0x0908 => some { cls := .q, len := lenIs 8, safe := true }
  | 0x0909 => some { cls := .c, len := lenIs 4 }
  | 0x0A00 => some { cls := .q, len := lenIs 0, safe := true }
  | 0x0A01 => some { cls := .l, len := lenIn 9 4076, safe := true }
  | 0x0A02 => some { cls := .l, len := lenIs 4, safe := true }
  | 0x0A03 => some { cls := .l, len := lenIs 84, safe := true }
  | 0x0A04 => some { cls := .l, len := fun l p => 85 ≤ l && l ≤ 4080 && l = 84 + leAt p 2 2, safe := true }
  | 0x0A05 => some { cls := .t, len := lenIs 4 }
  | 0x0A06 => some { cls := .l, len := lenIn 9 4080 }
  | 0x0A07 => some { cls := .l, len := lenIs 8, safe := true }
  | 0x0B00 => some { cls := .q, len := lenIs 36, safe := true }
  | 0x0B01 => some { cls := .q, len := fun l p => l = (if byteAt p 4 = 1 then 8 + leAt p 2 2 else 8), safe := true }
  | _ => none

/-! The work dispatcher -/

def modDisp (d : Director) (f : Dispatcher → Dispatcher) : Director := { d with disp := f d.disp }
def levelQ (d : Director) (l : Nat) : List Job := tget [] l d.disp.levels
def flowOf (d : Director) (f : Nat) : Flow := tget {} f d.disp.flows
def coreJob (d : Director) (c : Nat) : Option Job := tget none c d.disp.cores

/-- A trace entry (R454). -/
def traceOf (d : Director) (kind core level : Nat) (flow : Option (Nat × BitVec 16)) (id : Word) : BitVec 128 :=
  let (o, f, t) := match flow with | some (f, t) => (1, f, t.toNat) | none => (0, 0, 0)
  BitVec.ofNat 128 ((d.time.raw % 2 ^ 48) * 2 ^ 80 + kind * 2 ^ 76 + core * 2 ^ 74 + level * 2 ^ 71 + f * 2 ^ 61 + o * 2 ^ 60 + t * 2 ^ 32 + id.toNat)

def trace (d : Director) (kind core level : Nat) (flow : Option (Nat × BitVec 16)) (id : Word) : Director :=
  if d.disp.tracing then modDisp d fun x => { x with trace := (traceOf d kind core level flow id :: x.trace).take 4096 } else d

/-- Submit a job to a level and a flow (R452, R453); false: refused and counted. -/
def submit (d : Director) (level : Nat) (flow : Option Nat) (mb : Option Nat) : Director × Bool :=
  let held := match flow with
    | some f => (flowOf d f).next != (flowOf d f).release && (flowOf d f).level != level
    | none => false
  if 256 ≤ (levelQ d level).length || held then
    let d := trace d 5 0 level (flow.map fun f => (f, 0)) d.disp.nextId
    let d := modDisp d fun x => { x with full := incTab level x.full }
    (raiseLim d (limKey 99 1 level) 99 0x01 (b1 level), false)
  else
    let tk := flow.map fun f => (f, (flowOf d f).next)
    let j : Job := { id := d.disp.nextId, level := level, flow := tk, mb := mb }
    let d := modDisp d fun x => { x with
      levels := tset level (tget [] level x.levels ++ [j]) x.levels, nextId := x.nextId + 1
      flows := match flow with | some f => tmod {} f (fun w => { w with next := w.next + 1, level := level }) x.flows | none => x.flows }
    (trace d 1 0 level tk j.id, true)

/-- JOB_DISPATCH (R451): the oldest job of the highest level that holds one. A core that reads an
uncorrectable word stops the job (R585, R586). -/
def dispatchJob (d : Director) (core : Nat) (ue : Option Nat) : Director :=
  if (coreJob d core).isSome then d else
  match [7, 6, 5, 4, 3, 2, 1, 0].find? fun l => !(levelQ d l).isEmpty with
  | none => d
  | some l =>
    match levelQ d l with
    | [] => d
    | j :: r =>
      let d := modDisp d fun x => { x with levels := tset l r x.levels, cores := tset core (some j) x.cores }
      let d := trace d 2 core l j.flow j.id
      match ue with
      | some a =>
        let d := modDisp d fun x => { x with cores := tset core none x.cores }
        { d with bg := { d.bg with sramUe := satInc d.bg.sramUe }, boot := { d.boot with ueCause := some a } }
      | none => d

/-- Release the flow's ticket and the completed ones that follow it (R453). -/
def releaseFrom : Nat → Director → Nat → Director
  | 0, d, _ => d
  | n + 1, d, f =>
    let w := flowOf d f
    match w.finished.find? (·.1 = w.release.toNat) with
    | some (t, core, id, rel) =>
      let d := modDisp d fun x => { x with flows := tset f { w with release := w.release + 1, finished := tdel t w.finished } x.flows }
      releaseFrom n (if rel then trace d 4 core w.level (some (f, BitVec.ofNat 16 t)) id else d) f
    | none => d

/-- The supervisor serves its watchdog, and TWIN_ALIVE_OUT runs where nothing else holds it low (R317). A core that
asks for work serves it; no row says so by itself (DESIGN CHOICE, assumption 84). -/
def serveWatchdog (d : Director) : Director := { d with pins := { d.pins with served := true, alive := works d } }

/-- JOB_DISPATCH (R317, R451). -/
def execJobDispatch (core : Nat) (ue : Option Nat) (s : State) : Host.Outcome State Fault Refusal :=
  ifUnit (core < 4) (onDir s fun d => if serves d then dispatchJob (serveWatchdog d) core ue else d)

/-- JOB_RELEASE (R453, R454): the core's job completes. -/
def execJobRelease (core : Nat) (releases : Bool) (s : State) : Host.Outcome State Fault Refusal :=
  ifUnit (core < 4) (onDir s fun d =>
    match coreJob d core with
    | none => d
    | some j =>
      if !serves d then d else
      let d := modDisp d fun x => { x with cores := tset core none x.cores }
      let d := trace d 3 core j.level j.flow j.id
      match j.flow with
      | none => d
      | some (f, t) =>
        let d := modDisp d fun x => { x with flows := tmod {} f (fun w => { w with finished := tset t.toNat (core, j.id, releases) w.finished }) x.flows }
        releaseFrom (flowOf d f).finished.length d f)

/-! Taking a command -/

/-- Dispatcher level of a mailbox (R451). -/
def mbxLevel (n : Nat) : Nat := 5 - n

/-- Steps 1 to 3 of R436: the status of the first that fails. -/
def headFails (safe : Bool) (hdr : List Byte) : Option Nat :=
  firstFail [
    (decide (4080 < leAt hdr 4 2), stLength),
    (fld (byteAt hdr 2) 7 1 != 0 || !allZero (sub hdr 10 6), stRange),
    ((match cmdRow (leAt hdr 0 2) with | some r => safe && !r.safe | none => true), stOpcode)]

/-- Step 5 of R436: the command accepts the LENGTH. -/
def lenFits (op len : Nat) (payload : List Byte) : Bool := match cmdRow op with | some r => r.len len payload | none => false

/-- The nonce outstanding on an interface, and its end (R521, R522). -/
def nonceOf (d : Director) (i : Iface) : Option (BitVec 128 × Nat) :=
  match i with | .pcie => d.sec.noncePcie | .spi => d.sec.nonceSpi
def dropNonce (d : Director) (i : Iface) : Director :=
  { d with sec := match i with | .pcie => { d.sec with noncePcie := none } | .spi => { d.sec with nonceSpi := none } }

/-- An auth command refused before its own row consumes its nonce too (R521). -/
def spendNonce (d : Director) (c : Cmd) : Director :=
  if c.opcode = 0x0A03 || c.opcode = 0x0A04 then dropNonce d c.iface else d

/-- Take a command into ACTIVE and check it (R430, R433, R434, R436). -/
def takeCommand (m : Stores) (d : Director) (n : Nat) : Director :=
  let hdr := rdBytes m (.window n) 0 16
  let len := leAt hdr 4 2
  let payload := if len ≤ 4080 then rdBytes m (.window n) 16 len else []
  let x := mbx d n
  let c : Cmd := { opcode := BitVec.ofNat 16 (leAt hdr 0 2), flags := BitVec.ofNat 8 (byteAt hdr 2), tag := BitVec.ofNat 8 (byteAt hdr 3)
                   sequence := BitVec.ofNat 32 (leAt hdr 6 4), payload := payload, iface := x.iface, rungAt := x.rungAt }
  let d := modMbx d n fun x => { x with state := .active, rsp := none, cmd := some c }
  match headFails (d.boot.state = .safe) hdr with
  | some st => refuse (spendNonce d c) n st
  | none =>
    if (match x.last with | some r => r.opcode = c.opcode && r.sequence = c.sequence | none => false) then
      -- step 4: the stored response again
      let d := modMbx d n fun x => { x with state := .done, rsp := x.last, cmd := none }
      modHost d fun h => { h with trig := h.trig ||| BitVec.twoPow 32 (mbxVector d n) }
    else if lenFits c.opcode.toNat len payload then d
    else refuse (spendNonce d c) n stLength

/-- MAILBOX_TAKE (R433, R436, R607): in the order MB0 to MB3, while the level's queue has room. -/
def execMailboxTake (mb : Nat) (s : State) : Host.Outcome State Fault Refusal :=
  ifUnit (mb < 4) (onDir s fun d =>
    let first := (List.range mb).all fun k => (mbx d k).state != .pending || decide (256 ≤ (levelQ d (mbxLevel k)).length)
    if !serves d || d.frz.draining || (mbx d mb).state != .pending || !first then d else
    let (d, ok) := submit d (mbxLevel mb) (some mb) (some mb)
    if ok then takeCommand s.mem d mb else d)

/-- The class limit of a waiting command in raw ticks (R438). -/
def classLimit (d : Director) (op : Nat) : Nat :=
  match cmdRow op with
  | some r => match r.cls with
    | .c => 1250000 + 64 * planN (cfg d)
    | .t => 6250000
    | .l => 2500000000
    | .b => 62500000
    | _ => 1250000
  | none => 1250000

/-- COMMAND_TIMEOUT (R25, R438, R474, R527): a command that waits on a cell or on the twin past its limit. -/
def execCommandTimeout (mb : Nat) (s : State) : Host.Outcome State Fault Refusal :=
  ifUnit (mb < 4) (onDir s fun d =>
    match (mbx d mb).cmd with
    | none => d
    | some c =>
      let waits := match c.wait with | .cell _ _ => true | .twin => true | _ => false
      if !serves d || !waits || d.time.raw ≤ c.rungAt + classLimit d c.opcode.toNat then d else
      let d := { d with
        ports := d.ports.map fun (n, p) => (n, { p with mgmt := p.mgmt.filter fun r => r.why != .cmd mb })
        sec := if c.wait = .twin && c.opcode = 0x0A05 then { d.sec with skOffer := none } else d.sec
        cfg := if c.wait = .twin && c.opcode = 0x0203 then { d.cfg with offer := none } else d.cfg }
      refuse d mb stTimeout)

/-- COMMAND_APPLY_RESPONSE (R482, R496): the outcome decided in the step. -/
def execCommandApplyResponse (mb : Nat) (s : State) : Host.Outcome State Fault Refusal :=
  ifUnit (mb < 4) (onDir s fun d =>
    match (mbx d mb).cmd with
    | some c => match c.outcome with
      | some (st, p) => if serves d then respond d mb st.toNat p else d
      | none => d
    | none => d)

/-! The event ring -/

/-- The 32 bytes of an entry (R444). -/
def entryBytes (seq : Word) (e : Event) : List Byte :=
  b4 seq.toNat ++ b1 e.source ++ b1 e.detail ++ b2 e.flags ++ toLE 12 e.time.toNat ++ padTo 12 e.data

/-- Write an entry at HEAD (R443, R449). -/
def writeEntry (d : Director) (e : Event) : Director :=
  let d := putMem d { dest := .ring, addr := 32 * (d.ring.head % 2048), data := entryBytes d.ring.seq e }
  let d := modRing d fun r => { r with head := (r.head + 1) % 2048, seq := r.seq + 1 }
  modHost d fun h => { h with trig := h.trig ||| BitVec.twoPow 32 (srcVector d e.source) }

/-- EVENT_ENTRY_WRITE (R443, R445): the oldest decided event. -/
def execEventEntryWrite (s : State) : Host.Outcome State Fault Refusal := onDir s fun d =>
  match d.ring.decided with
  | [] => d
  | e :: r =>
    if !serves d then d else
    let d := modRing d fun x => { x with decided := r }
    if unread d < 2047 then writeEntry d e
    else modRing d fun x => { x with
      lost := satInc x.lost, ovf := true, ovfCount := satInc x.ovfCount, ovfFirst := if x.ovf then x.ovfFirst else e.time }

/-- OVERFLOW_ENTRY_WRITE (R443): TIME is that of the first entry lost; DATA the number lost and the low
8 bytes of that TIME96, for which 12 bytes leave room (DEDUCED, assumption 28). -/
def execOverflowEntryWrite (s : State) : Host.Outcome State Fault Refusal := onDir s fun d =>
  if !serves d || !d.ring.ovf || 2045 < unread d then d else
  let e : Event := { source := 96, detail := 1, time := d.ring.ovfFirst, flags := 1
                     data := b4 d.ring.ovfCount.toNat ++ toLE 8 (d.ring.ovfFirst.toNat % 2 ^ 64) }
  let d := modRing d fun x => { x with ovf := false, ovfCount := 0 }
  if d.ring.enable.getLsbD 96 then writeEntry d e else d

end Sys2Proof.Machine
end

