-- ==== Sys2Proof/Machine/Power.lean ====
section
/-! DEFINITION. Background work: glaze passes and the DDR4 patrol (R563 to R567), the power arbiter
(R573 to R580), and the in-service gain estimator (R298, R299). -/

namespace Sys2Proof.Machine

def modBg (d : Director) (f : Background → Background) : Director := { d with bg := f d.bg }

/-! Scrubbing -/

/-- The scrub engines run: RUN or SAFE, not frozen. -/
def scrubs (d : Director) : Bool := hostUp d && !d.frz.frozen

/-- Detail of R585. -/
def memDetail : MemKind → Nat | .controlPath => 1 | .supervisor => 2 | .other => 3

/-- GLAZE_WORD_VISIT (R563 to R566, R585): a functional write in between cancels the write-back and its count. -/
def execGlazeWordVisit (addr : Nat) (mem : MemKind) (ecc : EccStatus) (cancelled : Bool) (s : State) : Host.Outcome State Fault Refusal :=
  onDir s fun d =>
    if !scrubs d then d else
    match ecc with
    | .clean => d
    | .uncorrectable => sramUe d addr (memDetail mem)
    | .correctable =>
      if cancelled then d else
      raiseLim (modBg d fun b => { b with sramCe := satInc b.sramCe, corrected := b.corrected + 1 }) (limKey 82 1 0) 82 0x01 []

/-- GLAZE_PASS_END (R563, R566, R583): the next pass begins. -/
def execGlazePassEnd (s : State) : Host.Outcome State Fault Refusal := onDir s fun d =>
  if !scrubs d then d else
  modBg d fun b => { b with
    glazePasses := satInc b.glazePasses, corrected := 0, passAt := d.time.raw, passLate := false
    fastOwed := if 0 < b.corrected then parm (powS (cfg d)) 5 0 1 else b.fastOwed - 1 }

/-- GLAZE_LATE (R25, R563): once for a pass that has not ended after 10 s. -/
def execGlazeLate (s : State) : Host.Outcome State Fault Refusal := onDir s fun d =>
  if !scrubs d || d.bg.passLate || d.time.raw ≤ d.bg.passAt + tenSeconds then d else
  raise (modBg d fun b => { b with passLate := true, glazeLate := satInc b.glazeLate }) 82 0x02 []

/-- One minute of converter time. -/
def minuteUnits : Int := 60 * secUnit

/-- A correctable DDR4 error: event 83 first in each minute (R583). -/
def ddrCorrected (d : Director) : Director :=
  let d := modBg d fun b => { b with ddrCe := satInc b.ddrCe }
  let quiet := match d.bg.ddrCeAt with | some t => decide (d.time.now < t + minuteUnits) | none => false
  if quiet then d else raise (modBg d fun b => { b with ddrCeAt := some d.time.now }) 83 0x01 []

/-- An uncorrectable DDR4 error (R415, R567). -/
def ddrUncorrected (d : Director) : Director :=
  raise (modRcd d fun r => { r with ddrUe := satInc r.ddrUe }) 77 0x01 []

/-- PATROL_BURST (R567): the next 64-byte burst of the installed memory. -/
def execPatrolBurst (ecc : EccStatus) (cancelled : Bool) (s : State) : Host.Outcome State Fault Refusal := onDir s fun d =>
  if !scrubs d || !d.time.pllLock || d.boot.ddrMiB = 0 then d else
  let at_ := d.bg.patrolAt
  let d := match ecc with
    | .clean => d
    | .correctable => if cancelled then d else ddrCorrected d
    | .uncorrectable => ddrUncorrected d
  if at_ + 1 < d.boot.ddrMiB * 16384 then modBg d fun b => { b with patrolAt := at_ + 1 }
  else modBg d fun b => { b with patrolAt := 0, patrolPasses := satInc b.patrolPasses }

/-! The arbiter -/

/-- Time ports that a domain source names (R344, R573). -/
def timePortsNamed (c : Cfg) : Nat :=
  let src (e : Nat) : Nat := parm (timeS c) (5 + e) 0 (if e = 0 then 3 else 0)
  let has (p : Nat) : Bool := [0, 1].any fun e => src e = p + 1 || src e = 3
  ([0, 1].filter has).length

/-- RESERVE of R573, in credits of 0.1 W, rounded up. -/
def reserveOf (c : Cfg) (p ddrMiB : Nat) : Nat :=
  let n := planN c
  let arms := (List.range 6).filter fun a => !(armCells c a).isEmpty
  let fixed := 2800 + 800 + 40 * ((ports p).filter (treeOn c p)).length + 150 * arms.length + 900
    + 150 * timePortsNamed c + (if ddrMiB = 0 then 0 else 600)
  let perN := (arms.map fun a => 1500 * (tAce c a + tSort + tAsm)).sum + 600 * 12500
  ceilDiv (fixed * n + perN) (100 * n)

/-- Credits of REC_DRAIN (R576). -/
def drainCredits (c : Cfg) (p : Nat) : Nat := max 1 (ceilDiv (5 * recordSize c p) (2 * max 1 (recRed c) * planN c))

/-- The block of a request id (R576). -/
def blockOf (id : Nat) : Nat :=
  if id < 2 then id else if id < 6 then 2 else if id = 6 then 3 else if id = 7 then 4 else 5

/-- A REC_EXPORT command runs (R576). -/
def exporting (d : Director) : Bool :=
  [0, 1, 2, 3].any fun n => match (mbx d n).cmd with | some c => c.opcode = 0x0806 | none => false

/-- The requests in grant order: id and credits (R576). -/
def requests (d : Director) : List (Nat × Nat) :=
  let on (b : Bool) (id n : Nat) : List (Nat × Nat) := if b then [(id, n)] else []
  let all := on (recording d) 0 (drainCredits (cfg d) (part d)) ++ [(1, 8)]
    ++ [0, 1, 2, 3].flatMap (fun l => on ((lane d l).retrain && !(lane d l).holdTen) (2 + l) 3)
    ++ on (exporting d) 6 2 ++ on (0 < d.bg.fastOwed) 7 2 ++ (List.range 6).map fun a => (8 + a, 1)
  all.filter fun x => bit (arbBlocks (cfg d)) (blockOf x.1)

/-- Walk the requests: each in full where it fits in what remains (R577). -/
def walkGrants : Nat → List (Nat × Nat) → List (Nat × Nat)
  | _, [] => []
  | left, (i, n) :: r => if n ≤ left then (i, n) :: walkGrants (left - n) r else walkGrants left r

/-- The grants of a recomputation; while hot only a REC_DRAIN grant stays (R577, R580). -/
def newGrants (d : Director) : List (Nat × Nat) :=
  if d.bg.hot then (requests d).filter fun x => x.1 = 0 && d.bg.grants.contains x
  else walkGrants (d.bg.budget - d.bg.reserve) (requests d)

/-- Recompute: revocations at once, grants when the revoked blocks have confirmed (R578). -/
def recompute (d : Director) : Director :=
  let new := newGrants d
  let kept := d.bg.grants.filter new.contains
  let waiting := (requests d).filter fun x => !new.contains x
  modBg d fun b => { b with
    grants := kept
    toGrant := if new = kept then none else some new
    waitSince := waiting.map fun x => (x.1, tget (d.time.raw, false) x.1 b.waitSince) }

/-- ARBITER_RECOMPUTE (R577, R578). -/
def execArbiterRecompute (s : State) : Host.Outcome State Fault Refusal := onDir s fun d => if works d then recompute d else d

/-- GRANT_APPLY_DONE (R578, R579): a retraining lane that had waited starts again at EQUALIZE. -/
def execGrantApplyDone (s : State) : Host.Outcome State Fault Refusal := onDir s fun d =>
  match d.bg.toGrant with
  | none => d
  | some new =>
    if !works d then d else
    let fresh := [0, 1, 2, 3].filter fun l => tget 0 (2 + l) d.bg.grants = 0 && tget 0 (2 + l) new != 0
    let d := modBg d fun b => { b with grants := new, toGrant := none }
    fresh.foldl (fun d l => if (lane d l).retrain then startRetrain d l false else d) d

/-- GRANT_WAIT (R25, R579): requests of the block that have waited 1 s. -/
def execGrantWait (block : Nat) (s : State) : Host.Outcome State Fault Refusal :=
  ifUnit (block < 6) (onDir s fun d =>
    let late (w : Nat × Nat × Bool) : Bool := blockOf w.1 = block && !w.2.2 && w.2.1 + 1250000000 < d.time.raw
    let n := (d.bg.waitSince.filter late).length
    if !works d || n = 0 then d else
    let d := modBg d fun b => { b with
      arbWait := tset block (satAdd (tget 0 block b.arbWait) n) b.arbWait
      waitSince := b.waitSince.map fun w => if late w then (w.1, w.2.1, true) else w }
    let quiet := match d.bg.waitAt.find? (·.1 = block) with | some (_, t) => decide (d.time.now < t + minuteUnits) | none => false
    if quiet then d else raise (modBg d fun b => { b with waitAt := tset block d.time.now b.waitAt }) 80 0x01 (b1 block))

def thermWarn (d : Director) : Int := parm (powS (cfg d)) 3 0 105

/-- THERMAL_SAMPLE (R580), in whole °C. An excursion ends when every sensor reads below 115 °C (DEDUCED, assumption 29). -/
def execThermalSample (t0 t1 t2 t3 : Int) (s : State) : Host.Outcome State Fault Refusal := onDir s fun d =>
  if !works d then d else
  let m := max (max t0 t1) (max t2 t3)
  let d :=
    if !d.bg.hot && thermWarn d ≤ m then recompute (raise (modBg d fun b => { b with hot := true }) 81 0x01 [])
    else if d.bg.hot && m ≤ thermWarn d - 5 then recompute (raise (modBg d fun b => { b with hot := false }) 81 0x02 [])
    else d
  if 115 ≤ m then
    if d.bg.crit then d else raise (modBg d fun b => { b with crit := true }) 81 0x03 []
  else modBg d fun b => { b with crit := false }

/-! The gain estimator -/

def d1e7 : F64 := B64.ofRat 1 10000000
def vec64 (l : List F64) (i : Nat) : F64 := l.getD i 0
/-- Sum in ascending order, every operation rounded (DEDUCED, assumption 30). -/
def sum64 (l : List F64) : F64 := l.foldl B64.add 0
def dot64 (a b : List F64) : F64 := sum64 (List.zipWith B64.mul a b)

def theta0 : List F64 := List.replicate 66 0
/-- The covariance a tree starts with (R298). -/
def cov0 : List (List F64) := (List.range 66).map fun i => (List.range 66).map fun j =>
  if i ≠ j then 0 else if i < 64 then B64.ofRat 1 1000000 else B64.ofInt 100

def thetaOf (e : Estimator) (t : Nat) : List F64 := tget theta0 t e.theta
def covOf (e : Estimator) (t : Nat) : List (List F64) := tget cov0 t e.cov

/-- One recursive least-squares update on the snapshot (R298). -/
def estUpdate (c : Cfg) (a : Nat) (e : Estimator) (sn : CalSnap) : Estimator :=
  let th := thetaOf e e.tree
  let p := covOf e e.tree
  let sv (x : Nat × Int × Nat) : F64 := B64.mul (B64.ofInt x.2.1) (B64.mul (B64.ofRat 250 1000000) (B64.ofInt x.2.2))
  let cells := sn.cells.map fun x => (x.1, sv x)
  let i := f32to64 sn.i
  let sgn : F64 := if B64.lt 0 i then B64.ofInt 1 else if B64.lt i 0 then B64.ofInt (-1) else 0
  let model := sum64 (cells.map fun x => B64.mul x.2 (B64.add (B64.ofInt 1) (vec64 (thetaOf e (x.1 / 64)) (x.1 % 64))))
  let err := B64.sub (B64.sub (B64.sub (f32to64 sn.y) model) (B64.mul (vec64 th 64) i)) (B64.mul (vec64 th 65) sgn)
  let phi := ((List.range 64).map fun j => match cells.find? (·.1 = 64 * e.tree + j) with | some x => x.2 | none => 0) ++ [i, sgn]
  let f := parm (armS c a) 54 0 16
  let lam := B64.ofRat (2 ^ f - 1) (2 ^ f)
  let pp := p.map fun row => dot64 row phi
  let den := B64.add lam (dot64 phi pp)
  let g := pp.map fun x => B64.div x den
  let fp := (List.range 66).map fun j => sum64 (List.zipWith (fun x row => B64.mul x (vec64 row j)) phi p)
  let p' := List.zipWith (fun gi row => List.zipWith (fun x y => B64.div (B64.sub x (B64.mul gi y)) lam) row fp) g p
  { e with
    theta := tset e.tree (List.zipWith (fun x gi => B64.add x (B64.mul gi err)) th g) e.theta
    cov := tset e.tree p' e.cov, updates := e.updates + 1, snap := none }

/-- The estimator runs: AUTHORITY and BAL_CAL_MODE not 0 (R297). -/
def estRuns (d : Director) (a : Nat) : Bool := works d && (arm d a).role = .authority && parm (armS (cfg d) a) 50 0 0 != 0

/-- ESTIMATOR_UPDATE (R298). -/
def execEstimatorUpdate (arm_ : Nat) (s : State) : Host.Outcome State Fault Refusal :=
  ifUnit (arm_ < 6) (onDir s fun d =>
    match (arm d arm_).est.snap with
    | some sn => if estRuns d arm_ then modArm d arm_ fun x => { x with est := estUpdate (cfg d) arm_ x.est sn } else d
    | none => d)

/-- Nearest whole number of a binary64, halves away from zero. -/
def round64 (x : F64) : Int :=
  if B64.lt x 0 then -((fvRound (B64.dec (B64.neg x)) 1 1).getD 0) else (fvRound (B64.dec x) 1 1).getD 0

/-- CP_SVC_GAIN of a cell as the director last wrote it, 0.1 ppm. -/
def svcGain (d : Director) (id : Nat) : Int := signed 32 (cfgValue d id 0x44)

/-- g_tot of a slot position (R299). -/
def gTot (d : Director) (a p : Nat) : F64 :=
  B64.add (B64.mul (B64.ofInt (svcGain d (a * 512 + p))) d1e7) (vec64 (thetaOf (arm d a).est (p / 64)) (p % 64))

/-- P_jj ≤ BAL_CAL_PMAX. -/
def converged (d : Director) (a p : Nat) : Bool :=
  B64.le (vec64 ((covOf (arm d a).est (p / 64)).getD (p % 64) []) (p % 64)) (f32to64 (parmF (armS (cfg d) a) 56 0 (B32.ofRat 1 1000000000000)))

/-- One cell's correction (R299). -/
def correctCell (d : Director) (a p : Nat) (g : F64) : Director :=
  let id := a * 512 + p
  let old := svcGain d id
  let dv := round64 (B64.mul g (B64.ofInt 10000000)) - old
  if dv.natAbs < parm (armS (cfg d) a) 57 0 5 then d else
  let d1 := clampInt (-50) 50 dv
  let new := clampInt (-10000) 10000 (old + d1)
  let d := mgmtTo d id 0x0B (writeBody 0x44 [unsigned 32 new]) (secured id)
  let d := modRec d id fun r => { r with written := tset 0x44 (BitVec.ofInt 32 new) r.written }
  let d := modCellCnt d id fun t => { t with svcWrite := satInc t.svcWrite }
  let t := p / 64
  let d := modArm d a fun x =>
    let th := thetaOf x.est t
    { x with est := { x.est with theta := tset t (th.set (p % 64) (B64.sub (vec64 th (p % 64)) (B64.mul (B64.ofInt (new - old)) d1e7))) x.est.theta } }
  if d1 != dv || new != old + d1 then
    raise (modCellCnt d id fun t => { t with svcLimit := satInc t.svcLimit }) (56 + a) 0x18 (b2 id)
  else d

/-- The next configured tree of the arm, wrapping (R299). -/
def nextTree (d : Director) (a t : Nat) : Nat :=
  let on (u : Nat) : Bool := match portOf (part d) a u with | some n => treeOn (cfg d) (part d) n | none => false
  ((((List.range 8).filter (t < ·)) ++ List.range 8).find? on).getD t

/-- Hand the state of a tree to the twin in background transfers of seven rows: θ, then P (R300, R309, R370; the
firmware's own form; DESIGN CHOICE, assumption 22). -/
def sendEstimator (d : Director) (a t : Nat) : Director :=
  if !d.sk.active then d else
  let rows := thetaOf (arm d a).est t :: covOf (arm d a).est t
  (List.range 10).foldl (fun d i =>
    let rs := (rows.drop (7 * i)).take 7
    queueControl d 0x22 (b1 a ++ b1 t ++ b1 (7 * i) ++ b1 rs.length ++ rs.flatMap fun r => r.flatMap fun x => toBE 8 x.toNat)) d

/-- CAL_TREE_ROTATE (R299). -/
def execCalTreeRotate (arm_ : Nat) (s : State) : Host.Outcome State Fault Refusal :=
  ifUnit (arm_ < 6) (onDir s fun d =>
    let c := cfg d
    let t := (arm d arm_).est.tree
    if !estRuns d arm_ || (arm d arm_).est.updates < parm (armS c arm_) 55 0 4096 then d else
    let conv := (armCells c arm_).filter (converged d arm_)
    let mean := B64.div (sum64 (conv.map (gTot d arm_))) (B64.ofInt conv.length)
    let props := (conv.filter fun p => p / 64 = t).map fun p =>
      (p, if parm (armS c arm_) 50 0 0 = 1 then B64.sub (gTot d arm_ p) mean else gTot d arm_ p)
    let d := props.foldl (fun d (p, g) => correctCell d arm_ p g) d
    let d := drainControl (sendEstimator d arm_ t)
    modArm d arm_ fun x => { x with est := { x.est with tree := nextTree d arm_ t, updates := 0 } })

/-- Estimator rows that the twin sends while it is AUTHORITY (R300). -/
def takeEstimator (d : Director) (p : List Byte) : Director :=
  let a := byteAt p 0
  let t := byteAt p 1
  let i0 := byteAt p 2
  let n := byteAt p 3
  if 5 < a || 7 < t || (arm d a).role = .authority || p.length ≠ 4 + 528 * n || 67 < i0 + n then d else
  (List.range n).foldl (fun d j =>
    let row := (List.range 66).map fun k => (BitVec.ofNat 64 (beAt p (4 + 528 * j + 8 * k) 8) : F64)
    modArm d a fun x =>
      let e := x.est
      { x with est := if i0 + j = 0 then { e with theta := tset t row e.theta }
                      else { e with cov := tset t ((covOf e t).set (i0 + j - 1) row) e.cov } }) d

end Sys2Proof.Machine
end

