-- ==== Sys2Proof/Machine/BakeRules.lean ====
section
/-! DEFINITION. The bake rules (R441 step 1): the ranges of every configuration section (R33, R37,
R88, R94, R248 to R250, R270, R278, R283, R320, R344, R367, R398, R410, R413, R416, R464, R543,
R544, R572), admissibility (R40), the conditions on modes and the recorder (R36, R273, R320, R367,
R398), the bumpless preview (R274) and the power fit (R574). -/

namespace Sys2Proof.Machine

/-- A failed bake rule: status, and the fields of the report that name it (R470). -/
structure BakeFail where
  status : Nat
  rule   : Nat
  cond   : Nat := 0
  sec    : Nat := 0
  inst   : Nat := 0
  deriving DecidableEq, Repr

/-- A parameter: element size, number of elements, the rule that an index beyond them breaks, the rule
that a value of element `e` breaks (0: none), and whether one entry must carry every element (R542). -/
structure PSpec where
  size  : Nat := 4
  count : Nat := 1
  rule  : Nat
  chk   : Nat → List Byte → Nat
  whole : Bool := false

/-- A value within a range breaks nothing. -/
def need (ok : Bool) (rule : Nat) : Nat := if ok then 0 else rule

/-- The first broken rule of a list. -/
def firstRule : List Nat → Nat
  | [] => 0
  | 0 :: r => firstRule r
  | n :: _ => n

def pNat (rule lo hi : Nat) (count : Nat := 1) : PSpec :=
  { rule := rule, count := count, chk := fun _ b => need (natIn (leNat b) lo hi) rule }
def pInt (rule : Nat) (lo hi : Int) (count : Nat := 1) : PSpec :=
  { rule := rule, count := count, chk := fun _ b => let v := signed 32 (leNat b); need (lo ≤ v && v ≤ hi) rule }
def pF32 (rule : Nat) (ok : F32 → Bool) (count : Nat := 1) (whole : Bool := false) : PSpec :=
  { rule := rule, count := count, whole := whole
    chk := fun _ b => let v : F32 := BitVec.ofNat 32 (leNat b); need (B32.finite v && ok v) rule }
def pAny (rule : Nat) (size : Nat := 4) : PSpec := { rule := rule, size := size, chk := fun _ _ => 0 }

def fIn (lo hi : F32) (v : F32) : Bool := B32.le lo v && B32.le v hi
def anyF (_ : F32) : Bool := true

/-- A configured variant fits its cell ID, and its tree is present (R543, R9). -/
def cellsRule (p id v : Nat) : Nat :=
  firstRule [need (v ≤ 3 && (v = 0 || isNode id == decide (v = 3))) 543, need (v = 0 || (cellPort p id).isSome) 9]

def fullScaleOk (v : F32) : Bool := B32.finite v && v &&& 0x7FFFFFFF#32 != 0

/-- TOPOLOGY (R40, R88, R543, R9). -/
def topoSpec (p : Nat) : Nat → Option PSpec
  | 1 => some { rule := 543, size := 8, count := 52, chk := fun n b => firstRule [need (portHere p n) 9, need (leAt b 0 2 ≤ 1875) 40,
      need ((signed 16 (leAt b 2 2)).natAbs ≤ 2000) 88, need ((signed 16 (leAt b 4 2)).natAbs ≤ 400) 88, need (leAt b 6 2 = 0) 542] }
  | 2 => some { rule := 542, size := 1, count := 3168, chk := fun id b => cellsRule p id (leNat b) }
  | 3 => some { rule := 543, count := 192, chk := fun _ b => need (fullScaleOk (BitVec.ofNat 32 (leNat b))) 543 }
  | 4 => some { rule := 543, size := 16, count := 6, chk := fun _ b => need (allZero (b.drop 12)) 543 }
  | _ => none

/-- PLAN (R37); PLAN_CYCLE is condition A1 of R40. -/
def planSpec (c : Cfg) : Nat → Option PSpec
  | 1 => some { rule := 40, chk := fun _ b => need (natIn (leNat b) 12500 125000 && leNat b % 125 = 0) 40 }
  | 2 => some (pNat 37 0 (planN c - 1))
  | 3 => some (pNat 37 0 (planN c - 1))
  | 4 => some (pNat 37 0 (2 * planN c - 1))
  | 5 => some (pNat 37 0 (2 * planN c - 1))
  | 6 => some (pNat 37 1 (2 * planN c - 2))
  | 7 => some (pNat 37 0 1)
  | _ => none

/-- LANE (R367, R94). -/
def laneSpec : Nat → Option PSpec
  | 1 => some (pNat 367 0 1 52)
  | 2 => some (pNat 367 0 1 52)
  | 3 => some (pNat 367 0 7)
  | 4 => some (pNat 367 16 255)
  | 5 => some (pNat 367 0 1 2)
  | 6 => some (pNat 367 0 1 2)
  | 7 => some (pNat 94 0 65535)
  | 8 => some (pNat 94 1 15)
  | _ => none

/-- TIME (R344). -/
def timeSpec : Nat → Option PSpec
  | 1 => some (pNat 344 0 1)
  | 2 => some (pNat 344 0 1)
  | 3 => some (pNat 344 0 127)
  | 4 => some (pNat 344 0 127)
  | 5 => some (pNat 344 0 5)
  | 6 => some (pNat 344 0 5)
  | 7 => some (pF32 344 (fIn 0 0x40800000))
  | 8 => some (pF32 344 (fIn 0 0x40800000))
  | 9 => some (pNat 344 1000 200000)
  | 10 => some (pNat 344 100 10000)
  | 11 => some (pNat 344 1000 1000000000)
  | 12 => some (pNat 344 10 10000)
  | 13 => some (pNat 344 2 64)
  | 14 => some (pNat 344 100 1000000)
  | 15 => some (pNat 344 0 100000)
  | 16 => some (pNat 344 1 16)
  | 17 => some (pNat 344 1 86400)
  | 18 => some (pNat 344 0 65535 2)
  | 19 => some (pNat 344 0 65535 2)
  | 20 => some (pInt 344 (-4000) 4000 2)
  | 21 => some (pNat 344 0 1 2)
  | 22 => some (pNat 344 0 7 2)
  | 23 => some (pInt 344 (-400000) 400000 2)
  | 24 => some (pInt 344 (-625000000) 625000000)
  | 25 => some (pNat 344 1250 625000000)
  | 26 => some (pInt 344 (-400) 400)
  | _ => none

def tuOn (c : Cfg) (e : Nat) : Bool := parm (recS c) 11 e 0 = 1

/-- A field of a trigger unit: not checked while the unit is disabled (R410). -/
def pTu (c : Cfg) (ok : Nat → Bool) : PSpec :=
  { rule := 410, count := 64, chk := fun e b => need (!tuOn c e || ok (leNat b)) 410 }
def fTu (ok : F32 → Bool) (v : Nat) : Bool := B32.finite (BitVec.ofNat 32 v) && ok (BitVec.ofNat 32 v)

/-- RECORDER (R398, R410, R413, R416). -/
def recSpec (c : Cfg) (p : Nat) : Nat → Option PSpec
  | 1 => some (pNat 398 0 2)
  | 2 => some (pNat 398 1 65535)
  | 3 => some { rule := 398, size := 8, chk := fun _ b => need ((maskBits 64 (leNat b)).all (portHere p)) 398 }
  | 4 => some (pNat 398 0 0x3F)
  | 5 => some (pAny 398)
  | 6 => some (pNat 398 1 (2 ^ 32 - 1))
  | 7 => some (pAny 398)
  | 8 => some (pNat 398 1 16)
  | 9 => some (pNat 398 0 16383 16)
  | 10 => some (pNat 398 1 16384 16)
  | 11 => some (pNat 410 0 1 64)
  | 12 => some (pTu c fun _ => true)
  | 13 => some (pTu c (natIn · 1 4))
  | 14 => some (pTu c (· ≤ 2))
  | 15 => some (pTu c (fTu anyF))
  | 16 => some (pTu c (fTu anyF))
  | 17 => some (pTu c (fTu (B32.le 0)))
  | 18 => some (pTu c (natIn · 1 16777216))
  | 19 => some (pTu c (natIn · 1 16777216))
  | 20 => some (pTu c (fTu (B32.lt 0)))
  | 21 => some (pTu c (· ≤ 1))
  | 22 => some (pNat 413 0 3)
  | 23 => some (pAny 413 8)
  | 24 => some (pAny 413 8)
  | 25 => some (pNat 413 0 1)
  | 26 => some { rule := 416, chk := fun _ b => need (natIn (leNat b) 1 65535 && leNat b % 2 = 1) 416 }
  | 27 => some { rule := 416, chk := fun _ b => need (natIn (leNat b) 16 256 && leNat b % 2 = 0) 416 }
  | 28 => some (pNat 416 0 5 4)
  | _ => none

/-- POWER (R572). -/
def powSpec : Nat → Option PSpec
  | 1 => some (pNat 572 100 200)
  | 2 => some (pNat 572 0 0x3F)
  | 3 => some (pNat 572 85 110)
  | 4 => some (pNat 572 10 86400)
  | 5 => some (pNat 572 0 16)
  | 6 => some (pNat 572 1 168)
  | _ => none

/-- A probe descriptor (R278). -/
def probeOk (c : Cfg) (a sel : Nat) : Bool :=
  let i := fld sel 11 0
  match fld sel 15 12 with
  | 0 => i = 0 | 1 => i < dimN c a | 2 => i < dimM c a | 3 => i < dimM c a | 4 => i < dimP c a | 5 => i < dimP c a
  | 6 => i < dimR c a | 7 => i = 0 | 8 => i ≤ 6 | 9 => i < 512 | _ => false

/-- A source descriptor of R250: 0, or the rule it breaks. -/
def srcRule (c : Cfg) (a y : Nat) : Nat :=
  if y = 0 then 0 else
  let node := fld y 27 21
  match fld y 31 28 with
  | 1 => firstRule [need (fld y 19 16 ≤ 8 && node < 96 && configured c (3072 + node)) 250,
      need (channelFs c (node * 2 + fld y 20 20)).isSome 543, need (armNode c a node) 543]
  | 2 => need (fld y 23 21 ≤ 5) 250
  | _ => 250

/-- ARM (R248 to R250, R278, R283). -/
def armSpec (c : Cfg) (a : Nat) (pid : Nat) : Option PSpec :=
  let n := dimN c a
  let m := dimM c a
  let p := dimP c a
  let r := dimR c a
  let q := (intStates c a).length
  let mat (k : Nat) : Option PSpec := some (pF32 248 anyF k true)
  let cap : F32 → Bool := fIn (B32.ofRat 1 10000) 0x3F800000
  match pid with
  | 1 => some (pNat 248 0 1)
  | 2 => some (pNat 248 1 24)
  | 3 => some (pNat 248 1 8)
  | 4 => some (pNat 248 1 16)
  | 5 => some (pNat 248 0 8)
  | 6 => mat (n * n)
  | 7 => mat (n * m)
  | 8 => mat (p * n)
  | 9 => mat (n * p)
  | 10 => mat (m * n)
  | 11 => mat (m * r)
  | 12 => some (pF32 248 anyF n)
  | 13 => some (pNat 248 0 (m - 1))
  | 14 => some (pF32 248 anyF m)
  | 15 => some (pF32 248 anyF m)
  | 16 => some (pF32 248 anyF m)
  | 17 => some { rule := 248, chk := fun _ b => need (leNat b < 2 ^ n && (maskBits 24 (leNat b)).length ≤ 8) 248 }
  | 18 => some (pF32 248 anyF q)
  | 19 => some (pF32 248 anyF q)
  | 20 => some (pNat 248 0 (2 ^ m - 1))
  | 21 => mat (q * m)
  | 22 => some (pNat 248 1 4096)
  | 23 => some { rule := 248, count := p, chk := fun _ _ => 0 }
  | 24 => some (pNat 248 0 (2 ^ p - 1))
  | 25 => some (pNat 248 2 255)
  | 26 => some (pF32 248 (B32.lt 0) p)
  | 27 => some (pNat 248 1 64)
  | 28 => some (pNat 248 0 1)
  | 29 => some (pNat 248 0 (p - 1))
  | 30 => some (pNat 248 0 2)
  | 31 => some (pNat 248 0 64)
  | 32 => some (pNat 248 1 16)
  | 33 => some (pF32 248 cap)
  | 34 => some (pF32 248 cap 512)
  | 35 => some (pNat 248 1 16383)
  | 36 => some (pNat 248 1 16383)
  | 37 => some (pF32 248 (B32.le 0) r)
  | 38 => some (pNat 248 0 4095)
  | 39 => some (pNat 248 1 255)
  | 40 => some (pNat 248 0 1)
  | 41 => some { rule := 248, size := 2, count := 32, chk := fun _ b => need (probeOk c a (leNat b)) 278 }
  | 42 => some (pNat 283 0 100000)
  | 43 => some (pF32 283 (fIn 0 0x42C80000))
  | 44 => some (pNat 283 0 64)
  | 45 => some (pNat 283 1 64)
  | 46 => some (pNat 283 0 1)
  | 47 => some (pNat 283 1 8)
  | 48 => some (pNat 283 1 1024)
  | 49 => some (pNat 283 0 8000 8)
  | 50 => some (pNat 283 0 2)
  | 51 => some (pAny 283)
  | 52 => some (pNat 283 0 6250)
  | 53 => some (pNat 283 1 4096)
  | 54 => some (pNat 283 8 30)
  | 55 => some (pNat 283 64 65536)
  | 56 => some (pF32 283 (B32.lt 0))
  | 57 => some (pNat 283 1 50)
  | _ => none

/-- REDUNDANCY (R320). -/
def redSpec (c : Cfg) (a : Nat) : Nat → Option PSpec
  | 1 => some (pNat 320 2 16)
  | 2 => let n := (armCells c a).length; some (pNat 320 (n / 2 + 1) n)
  | 3 => some (pNat 320 0 1)
  | 4 => some (pNat 320 2 8)
  | _ => none

/-- CELL_PARAM: indices the section may set, and their ranges (R464, R544). -/
def cellSpec (c : Cfg) (i pid : Nat) : Option PSpec :=
  if pid < 128 && accessOf pid == .rw && !([6, 7, 8, 9, 0x10, 0x11, 0x13, 0x14, 0x15, 0x3F].contains pid) then
    some { rule := 544, count := if i = 6 then 96 else 512, chk := fun _ b => need (paramInRange (planN c) pid (leNat b)) 544 }
  else none

/-- The parameter a PID names in a section; none: no such parameter. -/
def specOf (c : Cfg) (p s i pid : Nat) : Option PSpec :=
  match s with
  | 0x01 => topoSpec p pid
  | 0x02 => planSpec c pid
  | 0x03 => laneSpec pid
  | 0x04 => timeSpec pid
  | 0x05 => recSpec c p pid
  | 0x06 => powSpec pid
  | 0x10 => armSpec c i pid
  | 0x11 => redSpec c i pid
  | 0x20 => cellSpec c i pid
  | _ => none

/-- Elements of an entry; trailing zero bytes that complete four are padding (R542). -/
def entryCount (sp : PSpec) (x : CfgEntry) : Nat × Nat :=
  let n := x.data.length / sp.size
  if sp.size = 2 && 0 < n && allZero (sub x.data (2 * (n - 1)) 2) then (n - 1, n) else (n, n)

/-- The rule that one entry of a section breaks (R542). -/
def entryRule (c : Cfg) (p s i : Nat) (x : CfgEntry) : Nat :=
  match specOf c p s i x.pid with
  | none => if s = 0x20 then 464 else 542
  | some sp =>
    let (lo, hi) := entryCount sp x
    let e0 := if s = 0x20 && x.elem = 0xFFFF then 0 else x.elem
    let fits := if s = 0x20 && x.elem = 0xFFFF then x.data.length = 4 else decide (x.elem + lo ≤ sp.count)
    firstRule ([need (x.data.length % sp.size = 0) 542, need fits sp.rule,
        need (!sp.whole || (x.elem = 0 && hi = sp.count)) 249]
      ++ (List.range (min hi (sp.count - e0))).map fun j => sp.chk (e0 + j) (sub x.data (j * sp.size) sp.size))

/-- Entries stand in order and do not cover an element twice (R542). -/
def orderRule (c : Cfg) (p s i : Nat) : List CfgEntry → Nat
  | x :: y :: r =>
    let w := match specOf c p s i x.pid with | some sp => (entryCount sp x).1 | none => 0
    if y.pid < x.pid || (y.pid = x.pid && (y.elem ≤ x.elem || y.elem < x.elem + (if x.elem = 0xFFFF then 0 else w))) then 542
    else orderRule c p s i (y :: r)
  | _ => 0

/-- The rule that the contents of a section break by themselves. -/
def sectionRule (c : Cfg) (p s i : Nat) (bs : List Byte) : Nat :=
  match parseEntries (bs.length + 1) bs with
  | none => 542
  | some es => firstRule (orderRule c p s i es :: es.map (entryRule c p s i))

/-! Rules across parameters -/

/-- Highest configured slot of a port, plus one. -/
def slotsTo (c : Cfg) (p n : Nat) : Nat := (portSlots c p n).foldl (fun m s => max m (s + 1)) 0

/-- The first failing condition A2 to A8 of R40. -/
def planCond (c : Cfg) (p : Nat) : Nat :=
  let trees := (ports p).filter (treeOn c p)
  let cellTrees := trees.filter (· < 48)
  let arms := List.range 6
  let m : Int := mC c
  let a5 (e : Int) : Bool := cellTrees.all fun n => e + treeDelay c n + tGuard ≤ m
  let reads (a : Nat) : List Nat := armTrees c p a ++ armMeas c a
  let a3 : Bool := arms.all fun a => (reads a).all fun n =>
    planW c + slotsTo c p n * (if 48 ≤ n then tSlotM else tSlot) + tRx ≤ planC c
  firstRule [
    need (trees.all fun n => planSmp c + tRpt + treeDelay c n ≤ planW c) 2,
    need a3 3,
    need (arms.all fun a => planC c + tAce c a + tSort + tAsm ≤ planF c) 4,
    need (a5 (e1 c)) 5,
    need (!planRep c || a5 (e1 c + tRepeat)) 6,
    need (m + 2 * tEdge ≤ (planN c : Int) - 2) 7,
    need (2680 ≤ planN c - 1) 8]

/-- Defined segments do not overlap (R398). -/
def segsApart (c : Cfg) : Bool :=
  let is := List.range (segCount c)
  is.all fun i => is.all fun j => i ≥ j || decide (segBase c i + segLenMiB c i ≤ segBase c j) || decide (segBase c j + segLenMiB c j ≤ segBase c i)

/-- A trigger unit in use (R410, R543). -/
def tuRule (c : Cfg) (p e : Nat) : Nat :=
  if !tuOn c e then 0 else
  let g (pid d : Nat) : Nat := parm (recS c) pid e d
  let src := g 12 0
  let cond := g 13 0
  let srcOk := match fld src 31 28 with
    | 1 => need (fld src 15 0 = 0 && !isNode (fld src 27 16) && (cellPort p (fld src 27 16)).isSome) 410
    | 2 => need (fld src 15 0 = 0 && !isNode (fld src 27 16) && (cellPort p (fld src 27 16)).isSome) 410
    | 3 => firstRule [need (fld src 19 0 = 0 && fld src 27 21 < 96) 410, need (channelFs c (fld src 27 21 * 2 + fld src 20 20)).isSome 543]
    | 4 => need (fld src 19 0 = 0 && fld src 27 25 < 6) 410
    | _ => 410
  firstRule [srcOk, need (natIn cond 1 4) 410, need (g 18 1 ≤ g 19 1) 410,
    need (cond != 2 || B32.lt (parmF (recS c) 15 e 0) (parmF (recS c) 16 e 0)) 410,
    need (cond != 4 || B32.lt 0 (parmF (recS c) 20 e 0)) 410]

/-- A binary32 times 2^149, exactly. -/
def scaled (x : F32) : Int := match B32.dec x with | .fin s m e => smant s m * 2 ^ (e + 149).toNat | _ => 0

/-- |G_ij − δ_ij| ≤ 10^−4 for every row i and every column j in BUMP_MASK (R270). -/
def presetOk (c : Cfg) (a : Nat) : Bool :=
  let m := dimM c a
  let one : Int := 2 ^ 298
  let is := intStates c a
  (List.range m).all fun i => (maskBits m (bumpMask c a)).all fun j =>
    let g := (withIdx is).foldl (fun t (q, st) => t - scaled (matEl c a 10 (dimN c a) i st) * scaled (matEl c a 21 m q j)) 0
    decide ((g - (if i = j then one else 0)).natAbs * 10000 ≤ one.natAbs)

/-- Lower limits do not exceed upper ones. -/
def limitsOk (c : Cfg) (a lo hi n : Nat) : Bool :=
  (List.range n).all fun i => B32.le (parmF (armS c a) lo i f32Lo) (parmF (armS c a) hi i f32Hi)

/-- BAL_CAL_SRC (R283): a node channel at SUB 7 that an output of the arm reads. -/
def calSrcRule (c : Cfg) (a : Nat) : Nat :=
  let y := parm (armS c a) 51 0 0
  if y = 0 then need (parm (armS c a) 50 0 0 = 0) 283 else
  firstRule [need (fld y 31 28 = 1 && fld y 19 16 = 7) 283, srcRule c a y,
    need ((List.range (dimP c a)).any fun i => fld (ySrc c a i) 31 28 = 1 && fld (ySrc c a i) 27 20 = fld y 27 20) 283]

/-- Rules across the parameters of an arm section (R248 to R250, R270, R283). -/
def armRule (c : Cfg) (a : Nat) : Nat :=
  let bridge := if fullBridge c a then 2 else 1
  firstRule ([
    need (limitsOk c a 14 15 (dimM c a)) 248,
    need (limitsOk c a 18 19 (intStates c a).length) 248,
    need ((armCells c a).all fun q => cellVar c (a * 512 + q) = bridge) 249,
    need (3 * armDead c a + armMinPulse c a + 512 ≤ planN c) 249,
    need ((yReq c a).all fun i => ySrc c a i != 0) 250]
    ++ (List.range (dimP c a)).map (fun i => srcRule c a (ySrc c a i))
    ++ [calSrcRule c a, need (presetOk c a) 270])

/-- The seal conditions of R197 for the values that a configuration gives a cell. -/
def sealOk (c : Cfg) (id : Nat) : Bool :=
  let v := cellCfg c id
  isNode id || (v 0x10 != 0 && v 0x11 != 0 && v 0x18 != 0 && decide (v 0x18 + v 0x1A < v 0x19) && decide (3 * v 0x10 + v 0x11 + 512 ≤ v 7))

/-- Cells of a CELL_PARAM instance. -/
def instCells (c : Cfg) (i : Nat) : List Nat :=
  if i = 6 then ((List.range 96).map (3072 + ·)).filter (configured c) else (armCells c i).map (i * 512 + ·)

/-- Rules across the parameters of a section. -/
def crossFail (c : Cfg) (p s i : Nat) : Option BakeFail :=
  let fail (r : Nat) : Option BakeFail := if r = 0 then none else some { status := stRange, rule := r, sec := s, inst := i }
  match s with
  | 0x02 => let k := planCond c p; if k = 0 then none else some { status := stRange, rule := 40, cond := k, sec := 2 }
  | 0x05 => fail (firstRule (need (segsApart c) 398 :: (List.range 64).map (tuRule c p)))
  | 0x10 => match armRule c i with
    | 543 => some { status := stRange, rule := 543, sec := 1 }
    | r => fail r
  | 0x20 => fail (need ((instCells c i).all (sealOk c)) 544)
  | _ => none

/-- The first rule of contents that a configuration breaks: every section in the order of R463. -/
def rangeFail (raw : Table (List Byte)) (p : Nat) : Option BakeFail :=
  let c := parseAll raw
  sectKeys.findSome? fun k =>
    let s := k / 256
    let i := k % 256
    match sectionRule c p s i (tget [] k raw) with
    | 0 => crossFail c p s i
    | r => some { status := stRange, rule := r, cond := if r = 40 && s = 2 then 1 else 0, sec := s, inst := i }

/-! Conditions on the state -/

/-- Recorder parameters other than the trigger and queue settings (R398). -/
def recFixed (c : Cfg) (p : Nat) : List Nat :=
  [parm (recS c) 1 0 1, recRed c, recTrees c p, recAces c, parm (recS c) 5 0 1000, parm (recS c) 6 0 1000, parm (recS c) 7 0 0, segCount c]
    ++ (List.range 16).map (segBase c) ++ (List.range 16).map (segLenMiB c)

def planVals (c : Cfg) : List Nat := [planN c, planSmp c, planW c, planC c, planF c, planM c, b2n (planRep c)]

/-- Line inversions of a tree port (R367). -/
def lineInv (c : Cfg) (n : Nat) : List Nat := [parm (laneS c) 1 n 0, parm (laneS c) 2 n 0]

/-- Ports whose inversion changes while an arm that uses them is not in OFF. -/
def invBlocked (d : Director) (new : Cfg) : Bool :=
  (List.range 52).any fun n => lineInv (cfg d) n != lineInv new n
    && ((armsOfPort (cfg d) (part d) n ++ armsOfPort new (part d) n).any fun a => (arm d a).mode ≠ .off)

/-- The first condition on arm modes and the recorder that the change to `new` breaks (R36, R273, R320, R367, R398). -/
def stateFail (d : Director) (new : Cfg) : Option BakeFail :=
  let old := cfg d
  let f (bad : Bool) (r s i : Nat) : Option BakeFail := if bad then some { status := stState, rule := r, sec := s, inst := i } else none
  let arms := List.range 6
  ([f (planVals old != planVals new && !allArms d offPre) 36 2 0, f (invBlocked d new) 367 3 0,
      f (recFixed old (part d) != recFixed new (part d) && d.rcd.mode ≠ .stopped) 398 5 0]
    ++ arms.map (fun a => f (armDims old a != armDims new a && !((arm d a).mode = .off || (arm d a).mode = .blocked)) 273 0x10 a)
    ++ arms.map fun a => f (leaseCycles old a != leaseCycles new a && (arm d a).mode ≠ .off) 320 0x11 a).findSome? id

/-- The staged configuration, a section that does not parse standing as it is in force. -/
def soundCfg (d : Director) (raw : Table (List Byte)) : Cfg :=
  raw.map fun (k, bs) => (k, (parseEntries (bs.length + 1) bs).getD (tget [] k (cfg d)))

/-- An arm in AUTO whose bumpless preset would meet a limit (R274). -/
def bumpFail (d : Director) (raw : Table (List Byte)) : Option BakeFail :=
  (List.range 6).findSome? fun a =>
    let k := secKey 0x10 a
    let n := putSection d k (tget [] k raw)
    if tget [] k raw != tget [] k d.cfg.inForce && armDims (cfg d) a = armDims (cfg n) a && bumpless n a (arm d a).cycle && swapLimited n a (arm d a).cycle then
      some { status := stBump, rule := 274, sec := 0x10, inst := a }
    else none

/-- The power fit (R574). -/
def powerFail (raw : Table (List Byte)) (p ddr : Nat) : Option BakeFail :=
  let c := parseAll raw
  if arbBudget c < reserveOf c p ddr then some { status := stResource, rule := 574, sec := 6 } else none

/-- Step 1 of R441, in the order of the checks of R436: state, then values, then resources. -/
def bakeFail (d : Director) (raw : Table (List Byte)) : Option BakeFail :=
  match stateFail d (soundCfg d raw) with
  | some f => some f
  | none => match rangeFail raw (part d) with
    | some f => some f
    | none => match bumpFail d raw with
      | some f => some f
      | none => powerFail raw (part d) d.boot.ddrFitted

/-- The configuration of an image passes every bake rule (R545 step 6). -/
def imageCfgOk (raw : Table (List Byte)) (p ddr : Nat) : Bool := (rangeFail raw p).isNone && (powerFail raw p ddr).isNone

/-! The report -/

/-- What the report states of a configuration (R470). -/
def baseReport (d : Director) (c : Cfg) : BakeReport :=
  let p := part d
  { tAce := (List.range 6).map (tAce c)
    j1 := BitVec.ofNat 64 (maskOf ((ports p).filter fun n => treeOn c p n && !j1Holds c n))
    segClamp := BitVec.ofNat 16 (maskOf ((List.range (segCount c)).filter fun i => d.boot.ddrMiB < segBase c i + segLenMiB c i))
    reserve := reserveOf c p d.boot.ddrFitted }

/-- The 40 bytes of the report. -/
def reportBytes (r : BakeReport) : List Byte :=
  b2 r.rule ++ b1 r.cond ++ b1 r.section_ ++ b1 r.instance_ ++ zeros 3 ++ b4 r.b.toNat ++ (List.range 6).flatMap (fun a => b2 (r.tAce.getD a 0))
    ++ toLE 8 r.j1.toNat ++ b2 r.segClamp.toNat ++ b2 r.reserve ++ zeros 4

end Sys2Proof.Machine
end

