-- ==== Sys2Proof/Machine/Bake.lean ====
section
/-! DEFINITION. Staging and baking a configuration (R439 to R442, R463 to R472), the bake's way
over the Skeund link (R316), and what changes at cycle B (R34, R36, R273, R298, R315, R333, R344,
R367, R398, R402, R465, R466, R572). -/

namespace Sys2Proof.Machine

def modCfg (d : Director) (f : CfgState → CfgState) : Director := { d with cfg := f d.cfg }

/-- The staging area: the configuration in force plus the staged changes (R439). -/
def stagedImage (d : Director) : Table (List Byte) := if d.cfg.session.isSome then d.cfg.staged else d.cfg.inForce

/-- The other interface holds the session, or a bake is scheduled or being offered (R440, R442). -/
def stagingBusy (d : Director) (i : Iface) : Bool :=
  d.cfg.bake.isSome || d.cfg.offer.isSome || (match d.cfg.session with | some j => i ≠ j | none => false)

/-! Staging commands -/

/-- A section brought to a length, truncated or extended with zero bytes (R467). -/
def resize (n : Nat) (bs : List Byte) : List Byte := if n = 0 then bs else padTo n (bs.take n)

/-- CFG_STAGE_WRITE (R467). -/
def execCfgStageWrite (mb : Nat) (s : State) : Host.Outcome State Fault Refusal :=
  onCmd s mb 0x0200 fun d c =>
    let p := c.payload
    let sec := byteAt p 0
    let inst := byteAt p 1
    let size := leAt p 4 4
    let ofs := leAt p 8 4
    let data := p.drop 12
    let cur := resize size (tget [] (secKey sec inst) (stagedImage d))
    let bad := match sectMax sec inst with
      | none => true
      | some m => leAt p 2 2 != 0 || decide (m < size) || decide (cur.length < ofs + data.length)
    guarded d mb [(bad, stRange), (stagingBusy d c.iface, stBusy)] fun d =>
      let new := cur.take ofs ++ data ++ cur.drop (ofs + data.length)
      let d := modCfg d fun x => { x with staged := tset (secKey sec inst) new (stagedImage d), session := some c.iface }
      respond d mb stOK (b1 sec ++ b1 inst ++ zeros 2 ++ b4 new.length ++ b4 (crc32c new))

/-- CFG_STAGE_READ (R468). -/
def execCfgStageRead (mb : Nat) (s : State) : Host.Outcome State Fault Refusal :=
  onCmd s mb 0x0201 fun d c =>
    let p := c.payload
    let sec := byteAt p 0
    let inst := byteAt p 1
    let ofs := leAt p 4 4
    let n := leAt p 8 2
    let bs := tget [] (secKey sec inst) (if byteAt p 2 = 0 then stagedImage d else d.cfg.inForce)
    let bad := (sectMax sec inst).isNone || 1 < byteAt p 2 || byteAt p 3 != 0 || leAt p 10 2 != 0 || n = 0 || 4068 < n
      || decide (bs.length < ofs + n)
    guarded d mb [(bad, stRange)] fun d =>
      respond d mb stOK (b4 bs.length ++ b4 (crc32c bs) ++ zeros 4 ++ sub bs ofs n)

/-! The bake over the Skeund link (R316, R370): the firmware's own form (DESIGN CHOICE, assumption 22) -/

/-- Bytes of a section in one control frame. -/
def bakeChunk : Nat := 4080

/-- Tell the twin about the bake of cycle B: 0x82 staged, 0x83 not staged, 0x84 end of the contents, 0x85 discarded, 0x86 abandoned. -/
def bakeNote (d : Director) (kind rule : Nat) (b : Cycle) : Director :=
  if d.sk.active then drainControl (queueControl d 0x21 (b1 kind ++ [0] ++ toBE 2 rule ++ toBE 4 b.toNat)) else d

/-- Offer the changed sections to the twin (R441 step 2). -/
def offerBake (d : Director) (b : Cycle) (raw : Table (List Byte)) : Director :=
  let changed := sectKeys.filter fun k => tget [] k raw != tget [] k d.cfg.inForce
  let d := changed.foldl (fun d k =>
    let bs := tget [] k raw
    (List.range (max 1 (ceilDiv bs.length bakeChunk))).foldl (fun d j =>
      let part := sub bs (j * bakeChunk) (min bakeChunk (bs.length - j * bakeChunk))
      queueControl d 0x21 ([0x81] ++ b1 (k / 256) ++ b1 (k % 256) ++ [0] ++ toBE 4 bs.length ++ toBE 4 (j * bakeChunk)
        ++ padTo (ceilDiv part.length 4 * 4) part)) d) d
  bakeNote d 0x84 0 b

/-! Scheduling -/

/-- The bake changes an index that cells take with PARAM_STAGE (R466). -/
def needsStage (d : Director) (new : Cfg) : Bool :=
  let old := cfg d
  let ids := (List.range 6).flatMap (fun a => (armCells new a).map (a * 512 + ·)) ++ instCells new 6
  ids.any fun id => !(stageRuns old new id).isEmpty

/-- Why B is not accepted now: status and rule (R441 step 3, R466). -/
def bFail (d : Director) (b : Cycle) (staged : Bool) : Option (Nat × Nat) :=
  let x := cycleDiff b (cyc d)
  if x < 2 then some (stLate, 441)
  else if staged && x < 1024 then some (stLate, 466)
  else if 65536 < x then some (stRange, 441)
  else none

/-- Schedule a bake and send the PARAM_STAGE records it needs (R441, R466). -/
def scheduleBake (d : Director) (k : Bake) : Director :=
  let d := modCfg d fun x => { x with bake := some k, offer := none, status := 1, lastB := k.b }
  if k.staged then stageAll d k.b (parseAll k.content) else d

/-- Answer CFG_BAKE with a report (R470). -/
def answerBake (d : Director) (mb status : Nat) (r : BakeReport) : Director :=
  respond (modCfg d fun x => { x with report := r }) mb status (reportBytes r)

/-- Step 3 of R441. -/
def finishBake (d : Director) (mb : Nat) (k : Bake) (offered : Bool) : Director :=
  match bFail d k.b k.staged with
  | some (st, rule) =>
    let d := modCfg d fun x => { x with offer := none }
    let d := if offered then bakeNote d 0x85 0 k.b else d
    answerBake d mb st { k.report with rule := rule }
  | none =>
    let r := { k.report with b := k.b }
    answerBake (scheduleBake d { k with report := r }) mb stOK r

/-- No twin is there: the link is not ACTIVE and TWIN_ALIVE_IN is lost (R26, R318). -/
def twinAbsent (d : Director) : Bool := !d.sk.active && !d.sk.twinAlive

/-- Steps 1 and 2 of R441. -/
def startBake (d : Director) (mb : Nat) (b : Cycle) (validate : Bool) : Director :=
  let raw := stagedImage d
  let new := parseAll raw
  let r := baseReport d new
  match bakeFail d raw with
  | some f => answerBake d mb f.status { r with rule := f.rule, cond := f.cond, section_ := f.sec, instance_ := f.inst }
  | none =>
    if validate then answerBake d mb stOK r else
    let k : Bake := { b := b, report := r, staged := needsStage d new, content := raw, period := planN new }
    if twinAbsent d then finishBake d mb k false
    else if !d.sk.active then answerBake d mb stLate { r with rule := 316 }
    else match bFail d b k.staged with
      | some (st, rule) => answerBake d mb st { r with rule := rule }
      | none => setWait (offerBake (modCfg d fun x => { x with offer := some k }) b raw) mb .twin

/-- CFG_BAKE (R441, R442, R470). Before cycle numbers run there is no present cycle, and the answer is STATE (DEDUCED, assumption 31). -/
def execCfgBake (mb : Nat) (s : State) : Host.Outcome State Fault Refusal :=
  onCmd s mb 0x0203 fun d c =>
    let p := c.payload
    let validate := byteAt p 4 = 1
    guarded d mb [(d.cfg.session.isNone, stState), (!validate && !d.time.running, stState), (1 < byteAt p 4 || !allZero (sub p 5 3), stRange),
        (stagingBusy d c.iface, stBusy)] fun d => startBake d mb (BitVec.ofNat 32 (leAt p 0 4)) validate

/-- Take the scheduled bake back; cells that hold its pending values get those in force (R442, R466). -/
def dropBake (d : Director) (status : Nat) : Director :=
  match d.cfg.bake with
  | none => d
  | some k =>
    let d := if k.staged then unstageAll d k.b (parseAll k.content) else d
    let d := modCfg d fun x => { x with bake := none, status := status }
    if d.time.running then fixLengths d else d

/-- CFG_DISCARD (R442, R466, R469). -/
def execCfgDiscard (mb : Nat) (s : State) : Host.Outcome State Fault Refusal :=
  onCmd s mb 0x0202 fun d c =>
    match d.cfg.session with
    | none => respond d mb stOK []
    | some i =>
      let own := match d.cfg.bake with | some k => if k.own then some k else none | none => none
      let late := match own with | some k => k.staged && 0 < cycleDiff (cyc d) (k.b - 256) | none => false
      guarded d mb [(i = c.iface && late, stState), (i ≠ c.iface || d.cfg.offer.isSome, stBusy)] fun d =>
        let d := match own with | some k => bakeNote (dropBake d 0) 0x85 0 k.b | none => d
        respond (modCfg d fun x => { x with session := none, staged := [] }) mb stOK []

/-- CFG_BAKE_STATUS (R471). -/
def execCfgBakeStatus (mb : Nat) (s : State) : Host.Outcome State Fault Refusal :=
  onCmd s mb 0x0204 fun d _ =>
    let ses := match d.cfg.session with | none => 0 | some .pcie => 1 | some .spi => 2
    respond d mb stOK (b1 d.cfg.status ++ b1 ses ++ zeros 2 ++ b4 d.cfg.lastB.toNat ++ reportBytes d.cfg.report)

/-- CFG_DIGEST (R381, R472). -/
def execCfgDigest (mb : Nat) (s : State) : Host.Outcome State Fault Refusal :=
  onCmd s mb 0x0205 fun d _ => respond d mb stOK (toBE 32 (topoDigest d).toNat ++ toBE 32 (redDigest d).toNat)

/-! What the twin sends (R316) -/

/-- The mailbox whose CFG_BAKE waits for the twin. -/
def bakeWaiter (d : Director) : Option Nat :=
  [0, 1, 2, 3].find? fun n => match (mbx d n).cmd with | some c => c.wait = .twin && c.opcode = 0x0203 | none => false

/-- One section chunk of the twin's bake. -/
def bakeChunkIn (d : Director) (p : List Byte) : Director :=
  let k := secKey (byteAt p 1) (byteAt p 2)
  let size := beAt p 4 4
  let ofs := beAt p 8 4
  if !sectKeys.contains k || 32768 < size || size < ofs then d else
  let t := match d.sk.twinBake with | some (_, t) => t | none => d.cfg.inForce
  let cur := padTo size ((tget [] k t).take size)
  let data := (p.drop 12).take (min bakeChunk (size - ofs))
  let new := cur.take ofs ++ data ++ cur.drop (ofs + data.length)
  modSk d fun x => { x with twinBake := some (0, tset k new t) }

/-- The twin's bake is complete: stage it when it passes, and answer. -/
def bakeEndIn (d : Director) (b : Cycle) : Director :=
  let raw := match d.sk.twinBake with | some (_, t) => t | none => d.cfg.inForce
  let d := modSk d fun x => { x with twinBake := none }
  let new := parseAll raw
  if d.cfg.bake.isSome || d.cfg.offer.isSome || !d.time.running || (bakeFail d raw).isSome || cycleDiff b (cyc d) < 2 then bakeNote d 0x83 0 b
  else
    let k : Bake := { b := b, report := { baseReport d new with b := b }, staged := needsStage d new, content := raw, period := planN new, own := false }
    bakeNote (scheduleBake (modCfg d fun x => { x with report := k.report }) k) 0x82 0 b

/-- Abandon the scheduled bake with the failing rule (R442, R471). -/
def abandonBake (d : Director) (rule : Nat) : Director :=
  let d := raise d 98 0x02 (b2 rule)
  modCfg (dropBake d 3) fun x => { x with report := { x.report with rule := rule } }

/-- A bake control frame of the twin (R316, R370). -/
def bakeIn (d : Director) (p : List Byte) : Director :=
  let b : Cycle := BitVec.ofNat 32 (beAt p 4 4)
  let same : Bool := match d.cfg.bake with | some k => k.b = b | none => false
  match byteAt p 0, d.cfg.offer, bakeWaiter d with
  | 0x81, _, _ => bakeChunkIn d p
  | 0x84, _, _ => bakeEndIn d b
  | 0x82, some k, some mb => if k.b = b then finishBake d mb k true else d
  | 0x83, some k, some mb =>
    if k.b = b then answerBake (modCfg d fun x => { x with offer := none }) mb stLate { k.report with rule := 316 } else d
  | 0x82, none, _ => if same then d else bakeNote d 0x85 0 b
  | 0x85, _, _ => if same then dropBake d 0 else d
  | 0x86, _, _ => if same then abandonBake d (beAt p 2 2) else d
  | _, _, _ => d

/-! The recheck and the application -/

/-- BAKE_RECHECK (R442, R466): at the start tick of B − 1, or of B − 256 for a staged bake. -/
def execBakeRecheck (s : State) : Host.Outcome State Fault Refusal := onDir s fun d =>
  match d.cfg.bake with
  | none => d
  | some k =>
    let x := cycleDiff k.b (cyc d)
    if !works d || !d.time.running || k.checked || x < 1 || (if k.staged then 256 else 1) < x then d else
    match stateFail d (parseAll k.content) with
    | some f => bakeNote (abandonBake d f.rule) 0x86 f.rule k.b
    | none => modCfg d fun c => { c with bake := some { k with checked := true } }

/-- Runs of at most 12 consecutive indices. -/
def indexRuns : List Nat → List (List Nat)
  | [] => []
  | i :: r => match indexRuns r with
    | (j :: t) :: rest => if j = i + 1 && t.length < 11 then (i :: j :: t) :: rest else [i] :: (j :: t) :: rest
    | rest => [i] :: rest

/-- Changed parameters that a sealed table accepts (R465). -/
def sealedChanges (old new : Cfg) (id : Nat) : List Nat :=
  (List.range 128).filter fun i => accessOf i == .rw && !([7, 8, 9, 0x13, 0x14, 0x15, 0x3F].contains i)
    && !(isNode id && (i = 6 || i = 0x10 || i = 0x11)) && cellCfg old id i != cellCfg new id i

/-- Write a cell's changed parameters (R465). -/
def writeChanges (old : Cfg) (d : Director) (id : Nat) : Director :=
  (indexRuns (sealedChanges old (cfg d) id)).foldl (fun d run =>
    mgmtTo d id 0x0B (writeBody (run.headD 0) (run.map (cellCfg (cfg d) id))) (secured id)) d

/-- A domain as its source names it: DISABLED without one, else LISTENING (R345). -/
def restartDomain (d : Director) (i : Nat) : Director :=
  let d := modDom d i fun x => { x with masters := [], port := none, gmId := none, theta := none, base := [], window := [], rejects := 0, regain := [] }
  reSource (setDomMode d i (if domSrc d i = 0 then .disabled else .listening)) d.time.now

/-- What a changed TIME or LANE section restarts (R344, R367). -/
def applyTimeLane (old : Cfg) (d : Director) : Director :=
  let d := [0, 1].foldl (fun d i =>
    if (parm (timeS old) (3 + i) 0 i, parm (timeS old) (5 + i) 0 (if i = 0 then 3 else 0)) != (domNum d i, domSrc d i) then restartDomain d i else d) d
  [0, 1].foldl (fun d p =>
    if (parm (laneS old) 5 p 0, parm (laneS old) 6 p 1) != (parm (laneS (cfg d)) 5 p 0, parm (laneS (cfg d)) 6 p 1) then portDown d p else d) d

/-- The limit of R333 at the new period. -/
def clampFreq (d : Director) : Director :=
  let l := freqLim d
  let cl (x : Int) : Int := max (-l) (min l x)
  modTime d fun t => { t with c := cl t.c, cNext := cl t.cNext, cPend := t.cPend.map cl }

/-- What a changed RECORDER section restarts, and the clamps it brings (R402, R410). -/
def applyRecorder (old : Cfg) (d : Director) : Director :=
  if recS old = recS (cfg d) then d else
  let unit (c : Cfg) (e : Nat) : List Nat := (List.range 11).map fun j => parm (recS c) (11 + j) e 0
  let d := modRcd d fun r => { r with units64 := r.units64.filter fun (e, _) => unit old e = unit (cfg d) e }
  ((List.range (segCount (cfg d))).filter (segClamped d)).foldl (fun d i => raise d 72 0x01 (b1 i)) d

/-- The topology of an arm: its cells, the measurement nodes it reads, and the longest delay of its trees (R28). -/
def armTopology (c : Cfg) (p a : Nat) : List Nat :=
  (armTrees c p a ++ armMeas c a).map (treeDelay c) ++ (List.range 512).map (fun q => cellVar c (a * 512 + q)) ++ (List.range 96).map fun j => if armNode c a j then cellVar c (3072 + j) + 1 else 0

/-- A changed topology clears SYNC and the estimator of the arm, and exclusions of positions it no longer has (R298, R315, R491). -/
def applyTopology (old : Cfg) (d : Director) (a : Nat) : Director :=
  if armTopology old (part d) a = armTopology (cfg d) (part d) a then d else
  modArm d a fun x => { x with
    sync := false, slowSeen := [], est := { tree := nextTree d a 8 }
    excluded := x.excluded.filter fun q => configured (cfg d) (a * 512 + q) }

/-- Put the contents in force; the section of an arm with cells waits for its step (R50, R273). -/
def installSections (d : Director) (k : Bake) : Director :=
  let c := parseAll k.content
  sectKeys.foldl (fun d key =>
    let bs := tget [] key k.content
    let a := key % 256
    if bs = tget [] key d.cfg.inForce then d
    else if key / 256 = 0x10 && !(armCells c a).isEmpty then modArm d a fun x => { x with pBank := some (k.b, bs) }
    else
      let n := putSection d key bs
      if key / 256 = 0x10 && armDims (cfg d) a != armDims (cfg n) a then newDims n a else n) d

/-- BAKE_APPLY (R34, R442): at the start tick of B. -/
def execBakeApply (s : State) : Host.Outcome State Fault Refusal := onDir s fun d =>
  match d.cfg.bake with
  | none => d
  | some k =>
    if !works d || !d.time.running || !k.checked || cycleDiff (cyc d) k.b < 0 then d else
    let old := cfg d
    let d := installSections d k
    let d := modCfg d fun c => { c with
      bake := none, status := 2, baked := true
      session := if k.own then none else c.session
      staged := if k.own then [] else c.staged }
    let d := fixLengths (clampFreq d)
    let d := applyRecorder old (applyTimeLane old d)
    let d := (List.range 6).foldl (applyTopology old) d
    let d := modBg d fun b => { b with budget := arbBudget (cfg d), reserve := reserveOf (cfg d) (part d) d.boot.ddrFitted }
    let d := recompute d
    let d := clearStages d
    let d := (provenCells d).foldl (writeChanges old) d
    raise d 98 0x01 (b4 k.b.toNat)

/-! Commands that a scheduled bake or a pending step bars -/

/-- An APPLY from B − 2 to B whose effect on the modes would break a condition of the bake (R442). -/
def bakeBars (d : Director) (apply : Nat) (effect : Director → Director) : Bool :=
  match d.cfg.bake with
  | some k =>
    let x := cycleDiff (BitVec.ofNat 32 apply) k.b
    decide (-2 ≤ x) && decide (x ≤ 0) && (stateFail (effect d) (parseAll k.content)).isSome
  | none => false

/-- A pending step bars an arm from leaving OFF or PRECHARGE with APPLY in its cycles s to s + 2 (R339). -/
def stepBars (d : Director) (a apply : Nat) (target : ArmMode) : Bool :=
  match d.time.step with
  | some p =>
    let x := cycleDiff (BitVec.ofNat 32 apply) p.cycle
    decide (0 ≤ x) && decide (x ≤ 2) && offPre (arm d a).mode && !offPre target
  | none => false

/-- A lane in test mode that the arm uses bars it from leaving OFF (R518); every arm uses the Skeund lanes (R390). -/
def testBars (d : Director) (a : Nat) (target : ArmMode) : Bool :=
  let inTest := ((armTrees (cfg d) (part d) a ++ armMeas (cfg d) a).any fun n => (port d n).prbs.testMode)
    || (List.range 4).any fun p => (skPrbs d p).testMode
  decide ((arm d a).mode = .off) && target ≠ .off && inTest

end Sys2Proof.Machine
end

