-- ==== Sys2Proof/Machine/CmdDev.lean ====
section
/-! DEFINITION. The commands of the device group (R459 to R462), the cells group (R473 to R481) and
the events group (R530, R531). -/

namespace Sys2Proof.Machine

/-! Device group -/

/-- DEV_ECHO (R459). -/
def execDevEcho (mb : Nat) (s : State) : Host.Outcome State Fault Refusal :=
  onCmd s mb 0x0100 fun d c => respond d mb stOK c.payload

/-- The number of consecutive ones of a fuse map from a bit on. -/
def onesFrom (n : Nat) : Nat → Nat → Nat
  | 0, _ => 0
  | k + 1, i => if bit n i then 1 + onesFrom n k (i + 1) else 0

/-- The anti-rollback counter (R536). -/
def arbCounter (d : Director) : Nat := onesFrom (fuses d) 512 2464

/-- DEV_INFO (R460). -/
def execDevInfo (mb : Nat) (s : State) : Host.Outcome State Fault Refusal :=
  onCmd s mb 0x0101 fun d _ =>
    respond d mb stOK (b2 (part d) ++ b1 devRev ++ b1 (sideNum d) ++ b2 (kudenWord d) ++ b1 (bootCode d.boot.state) ++ b1 d.boot.slot
      ++ b4 d.boot.fwBuild.toNat ++ b4 d.boot.version.toNat ++ b4 (arbCounter d) ++ toLE 8 (deviceId d) ++ toLE 8 (maskOf (ports (part d)))
      ++ b4 d.boot.ddrMiB ++ zeros 24)

def sessionCode (d : Director) : Nat := match d.cfg.session with | none => 0 | some .pcie => 1 | some .spi => 2

/-- DEV_STATUS (R461). -/
def execDevStatus (mb : Nat) (s : State) : Host.Outcome State Fault Refusal :=
  onCmd s mb 0x0102 fun d _ =>
    let arms := List.range 6
    respond d mb stOK (b4 (if d.cfg.baked then (cyc d).toNat else 0xFFFFFFFF) ++ b4 (if d.cfg.baked then planN (cfg d) else 0)
      ++ b1 (timeCode d.time.mode) ++ b1 (if d.sk.active then d.sk.width else 0) ++ b1 (b2n d.sk.twinAlive) ++ zeros 1
      ++ arms.flatMap (fun a => b1 (modeCode (arm d a).mode)) ++ arms.flatMap (fun a => b1 (roleCode (arm d a).role))
      ++ b1 (sessionCode d) ++ b1 (b2n d.cfg.bake.isSome) ++ zeros 2 ++ b4 ((d.cfg.bake.map (·.b.toNat)).getD 0))

/-- DEV_RESET (R462): the reset itself follows 10 ms later. -/
def execDevReset (mb : Nat) (s : State) : Host.Outcome State Fault Refusal :=
  onCmd s mb 0x0103 fun d c =>
    let p := c.payload
    let holds := (List.range 6).any fun a => (arm d a).role = .authority && operating (arm d a).mode
    guarded d mb [(byteAt p 4 = 0 && holds, stState), (leAt p 0 4 != 0x51554E5A || 1 < byteAt p 4 || !allZero (sub p 5 3), stRange)] fun d =>
      respond { d with frz := { d.frz with resetDue := true } } mb stOK []

/-! Cells group -/

/-- A cell ID that the topology in force configures (R455). -/
def cellValid (d : Director) (id : Nat) : Bool := id ≤ 3167 && configured (cfg d) id

/-- The conditions of R474, and the range of CELL_ID. -/
def cellChecks (d : Director) (id : Nat) (write : Bool) : List (Bool × Nat) :=
  let v := cellValid d id
  let x := arm d (cellArm id)
  [(v && (cellRec d id).link != .proven, stState),
   (write && v && !isNode id && !(x.role = .authority || offPre x.mode), stNoAuth),
   (!v, stRange)]

/-- LINK codes of R473. -/
def linkCode (d : Director) (id : Nat) : Nat :=
  let r := cellRec d id
  if !configured (cfg d) id then 0 else
  match r.link with
  | .none_ => 1 | .listen => 1 | .joining => 2 | .proving => 3 | .proven => 4 | .lost => 6
  | .quarantined => if r.held || quarLimit (cfg d) ≤ r.entries then 7 else 5

/-- AVAIL of R473: bits for a power cell's availability, and the two marks every cell has. -/
def availByte (d : Director) (id : Nat) : Nat :=
  let r := cellRec d id
  let cause := if isNode id || !configured (cfg d) id then (if configured (cfg d) id then 0 else 1) else tget 2 (cellPos id) (arm d (cellArm id)).causes
  b2n (cause = 0) + cause * 2 + b2n r.unreported * 16 + b2n r.txDisabled * 32

/-- A cell state entry (R473). -/
def cellEntry (d : Director) (id : Nat) : List Byte :=
  let head := b2 id ++ b1 (linkCode d id) ++ b1 (availByte d id)
  match (cellRec d id).last with
  | some b =>
    let v := if isNode id then unsigned 24 (b.pri.getD 7 0) else b.vinst
    head ++ b2 b.status.toNat ++ b1 b.lease.toNat ++ b1 b.echo ++ b4 b.cycle.toNat ++ toLE 3 v ++ [0]
  | none => head ++ zeros 4 ++ b4 0xFFFFFFFF ++ zeros 4

/-- CELL_STATE (R473). -/
def execCellState (mb : Nat) (s : State) : Host.Outcome State Fault Refusal :=
  onCmd s mb 0x0300 fun d c =>
    let id := leAt c.payload 0 2
    let n := leAt c.payload 2 2
    guarded d mb [(n = 0 || 255 < n || 3168 < id + n, stRange)] fun d =>
      respond d mb stOK ((List.range n).flatMap fun j => cellEntry d (id + j))

/-- Wait for a cell's answer (R474). -/
def awaitCell (d : Director) (mb id : Nat) : Director := setWait d mb (.cell id 0)

/-- CELL_PARAM_READ (R475). -/
def execCellParamRead (mb : Nat) (s : State) : Host.Outcome State Fault Refusal :=
  onCmd s mb 0x0301 fun d c =>
    let p := c.payload
    let id := leAt p 0 2
    let n := byteAt p 4
    guarded d mb (cellChecks d id false ++ [(n = 0 || 4 < n || !allZero (sub p 5 3), stRange)]) fun d =>
      awaitCell (cmdRead d id mb (leAt p 2 2) n) mb id

/-- Indices that CELL_PARAM_WRITE refuses (R464, R476). -/
def writeBarred (d : Director) (id i : Nat) : Bool :=
  let a := cellArm id
  [6, 7, 8, 9, 0x10, 0x11, 0x13, 0x14, 0x15, 0x3F].contains i
    || (!isNode id && i = 0x44 && parm (armS (cfg d) a) 50 0 0 != 0)
    || (!isNode id && 0x48 ≤ i && i ≤ 0x4F && parm (armS (cfg d) a) 46 0 1 = 1)

/-- CELL_PARAM_WRITE (R476): PARAM_WRITE, then PARAM_READ over the same range. -/
def execCellParamWrite (mb : Nat) (s : State) : Host.Outcome State Fault Refusal :=
  onCmd s mb 0x0302 fun d c =>
    let p := c.payload
    let id := leAt p 0 2
    let i := leAt p 2 2
    let n := byteAt p 4
    guarded d mb (cellChecks d id true ++ [(n = 0 || 12 < n || !allZero (sub p 5 3) || (List.range n).any fun j => writeBarred d id (i + j), stRange)]) fun d =>
      let vs := (List.range n).map fun j => leAt p (8 + 4 * j) 4
      let d := mgmtTo d id 0x0B (writeBody i vs) fun r => { secured id r with why := .cmd mb }
      awaitCell (cmdRead d id mb i (min 4 n)) mb id

/-- CELL_FAULT_CLEAR (R477). -/
def execCellFaultClear (mb : Nat) (s : State) : Host.Outcome State Fault Refusal :=
  onCmd s mb 0x0303 fun d c =>
    let p := c.payload
    let id := leAt p 0 2
    let m := byteAt p 2
    guarded d mb (cellChecks d id true ++ [(m = 0 || 3 < m || byteAt p 3 != 0, stRange)]) fun d =>
      awaitCell (mgmtTo d id 0x0B (writeBody 0x15 [m]) fun r => { secured id r with why := .cmd mb }) mb id

/-- CELL_GATE_ENABLE (R478). -/
def execCellGateEnable (mb : Nat) (s : State) : Host.Outcome State Fault Refusal :=
  onCmd s mb 0x0304 fun d c =>
    let p := c.payload
    let id := leAt p 0 2
    let e := byteAt p 2
    let unsealed := cellValid d id && e = 1 && !(cellRec d id).sealed
    guarded d mb ((unsealed, stState) :: cellChecks d id true ++ [(1 < e || byteAt p 3 != 0, stRange)]) fun d =>
      let d := modRec d id fun r => { r with gateHold := decide (e = 0) }
      awaitCell (mgmtTo d id 0x0B (writeBody 0x14 [e]) fun r => { secured id r with why := .cmd mb }) mb id

/-- CELL_RELEASE (R479). -/
def execCellRelease (mb : Nat) (s : State) : Host.Outcome State Fault Refusal :=
  onCmd s mb 0x0305 fun d c =>
    let id := leAt c.payload 0 2
    guarded d mb [(!cellValid d id || leAt c.payload 2 2 != 0, stRange)] fun d =>
      respond (modRec d id fun r => if r.held || r.link = .quarantined then { r with held := false, entries := 0 } else r) mb stOK []

/-- CELL_INJECT (R480): pending until the record for APPLY is assembled. -/
def execCellInject (mb : Nat) (s : State) : Host.Outcome State Fault Refusal :=
  onCmd s mb 0x0306 fun d c =>
    let p := c.payload
    let id := leAt p 0 2
    let ap := leAt p 4 4
    let a := cellArm id
    guarded d mb ([(!d.cfg.baked, stState), (!cellValid d id || isNode id || leAt p 2 2 != 0, stRange)] ++ applyChecks d ap
        ++ [(decide (8 ≤ (arm d a).pInject.length), stResource)]) fun d =>
      let q : PendOrder := { apply := BitVec.ofNat 32 ap, slots := [cellPos id], flag := true, mb := some mb }
      setWait (modArm d a fun x => { x with pInject := x.pInject ++ [q] }) mb (.apply (BitVec.ofNat 32 ap))

/-- CELL_EEPROM_READ (R481). -/
def execCellEepromRead (mb : Nat) (s : State) : Host.Outcome State Fault Refusal :=
  onCmd s mb 0x0307 fun d c =>
    let p := c.payload
    let id := leAt p 0 2
    let n := leAt p 6 2
    guarded d mb (cellChecks d id false ++ [(2 < byteAt p 2 || byteAt p 3 != 0 || n = 0 || 60 < n, stRange)]) fun d =>
      awaitCell (cmdEeprom d id mb (byteAt p 2) (leAt p 4 2) (min 20 n)) mb id

/-! Events group -/

/-- The reserved sources 198 to 207 (R530). -/
def reservedSources : BitVec 256 := BitVec.ofNat 256 ((2 ^ 10 - 1) * 2 ^ 198)

/-- EVT_ENABLE (R446, R530). -/
def execEvtEnable (mb : Nat) (s : State) : Host.Outcome State Fault Refusal :=
  onCmd s mb 0x0B00 fun d c =>
    let p := c.payload
    let op := byteAt p 0
    let m := BitVec.ofNat 256 (leAt p 4 32)
    guarded d mb [(3 < op || !allZero (sub p 1 3), stRange)] fun d =>
      let old := d.ring.enable
      let new := match op with
        | 1 => m &&& (~~~reservedSources ||| old)
        | 2 => old ||| (m &&& ~~~reservedSources)
        | 3 => old &&& ~~~m
        | _ => old
      respond (modRing d fun r => { r with enable := new }) mb stOK (toLE 32 new.toNat)

/-- The vector of an index of EVT_VECTOR_MAP (R449, R531). -/
def mapIndex (d : Director) (i : Nat) : Nat := if i < 256 then srcVector d i else mbxVector d (i - 256)

/-- EVT_VECTOR_MAP (R531). -/
def execEvtVectorMap (mb : Nat) (s : State) : Host.Outcome State Fault Refusal :=
  onCmd s mb 0x0B01 fun d c =>
    let p := c.payload
    let first := leAt p 0 2
    let n := leAt p 2 2
    let op := byteAt p 4
    let vs := p.drop 8
    guarded d mb [(1 < op || !allZero (sub p 5 3) || 260 < first + n || (op = 1 && vs.any fun v => 31 < v.toNat), stRange)] fun d =>
      let d := if op = 1 then
          modRing d fun r => { r with vectors := (withIdx vs).foldl (fun t (j, v) => tset (first + j) v.toNat t) r.vectors }
        else d
      respond d mb stOK (b2 first ++ b2 n ++ zeros 4 ++ (List.range n).flatMap fun j => b1 (mapIndex d (first + j)))

end Sys2Proof.Machine
end

