-- ==== Sys2Proof/Machine/Image.lean ====
section
/-! DEFINITION. The Zuoft image in a flash slot: its header and section table (R540, R541), its
credentials (R593) and the checks of R545; the owner hash (R537) and the flash log (R539). -/

namespace Sys2Proof.Machine

/-! Fuses -/

/-- OWNER_HASHn (R536). -/
def ownerHashN (d : Director) (n : Nat) : BitVec 256 := BitVec.ofNat 256 (fld (fuses d) (1695 + 256 * n) (1440 + 256 * n))

/-- The owner hash that the fuses put in force: the highest-numbered one that is not all zeros (R537). -/
def fusedOwnerHash (d : Director) : Option (BitVec 256) :=
  ([3, 2, 1, 0].map (ownerHashN d)).find? (· ≠ 0)

/-! The image -/

/-- An entry of the section table (R541). -/
structure ImgSec where
  type : Nat
  inst : Nat
  ofs  : Nat
  size : Nat
  /-- its reserved fields are 0 -/
  clean : Bool
  deriving DecidableEq, Repr

def imgSec (e : List Byte) : ImgSec :=
  { type := byteAt e 0, inst := byteAt e 1, ofs := leAt e 4 4, size := leAt e 8 4, clean := leAt e 2 2 = 0 && leAt e 12 4 = 0 }

/-- The header of the image in a slot: bytes 0 to 127. -/
def imgHeader (m : Stores) (d : Director) (slot : Nat) : List Byte := rdBytes m .flash (slotBase d slot) 128

/-- The section table of the image in a slot. -/
def imgTable (m : Stores) (d : Director) (slot : Nat) : List ImgSec :=
  (List.range (byteAt (imgHeader m d slot) 5)).map fun i => imgSec (rdBytes m .flash (slotBase d slot + 128 + 16 * i) 16)

/-- The bytes of a section of the image in a slot; none when it has none. -/
def imgBytes (m : Stores) (d : Director) (slot type inst : Nat) : Option (List Byte) :=
  ((imgTable m d slot).find? fun x => x.type = type && x.inst = inst).map fun x =>
    rdBytes m .flash (slotBase d slot + x.ofs) x.size

/-- The fixed fields of a header (R540). -/
def headerOk (d : Director) (h : List Byte) : Bool :=
  beAt h 0 4 = 0x515A494D && byteAt h 4 = 1 && 5 ≤ byteAt h 5 && byteAt h 5 ≤ 32 && leAt h 6 2 = 0
    && leAt h 12 4 % 16 = 0 && 256 ≤ leAt h 12 4 && leAt h 12 4 + 64 ≤ slotSize d
    && leAt h 16 2 = part d && byteAt h 18 ≤ devRev && byteAt h 19 = 0 && leAt h 20 2 = 0x0302
    && allZero (sub h 22 10) && allZero (sub h 96 32)

/-- Size of an image section's TYPE and INSTANCE (R463, R541, R593). -/
def imgSizeOk (x : ImgSec) : Bool :=
  match x.type with
  | 0x80 => x.inst = 0
  | 0x81 => x.inst = 0
  | 0x82 => x.inst = 0 && x.size = 256
  | 0x83 => 1 ≤ x.inst && x.inst ≤ 3
  | _ => match sectMax x.type x.inst with | some n => decide (x.size ≤ n) | none => false

/-- Two sections share a byte, or a TYPE and INSTANCE. -/
def imgClash (a b : ImgSec) : Bool :=
  (a.type = b.type && a.inst = b.inst) || (a.ofs < b.ofs + b.size && b.ofs < a.ofs + a.size)

def noClash : List ImgSec → Bool
  | [] => true
  | x :: r => !r.any (imgClash x) && noClash r

/-- The section table (R541). -/
def tableOk (h : List Byte) (t : List ImgSec) : Bool :=
  t.all (fun x => x.clean && x.ofs % 16 = 0 && 128 + 16 * t.length ≤ x.ofs && x.ofs + x.size ≤ leAt h 12 4 && imgSizeOk x)
    && noClash t && [0x01, 0x02, 0x80, 0x81, 0x82].all fun k => t.any fun x => x.type = k && x.inst = 0

/-- A director certificate names this director (R592, R593). -/
def certNames (d : Director) (cert : List Byte) : Bool :=
  byteAt cert 0 = 1 && byteAt cert 1 = 2 && beAt cert 2 2 = 0x8000 + sideNum d && beAt cert 4 8 = deviceId d
    && beAt cert 12 2 = part d && byteAt cert 14 = 0

/-- The CREDENTIALS section (R593). -/
def credOk (d : Director) (b : List Byte) : Bool := certNames d b && allZero (b.drop 176)

/-- The configuration that the image of a slot carries. -/
def imgConfig (m : Stores) (d : Director) (slot : Nat) : Table (List Byte) :=
  sectKeys.filterMap fun k => (imgBytes m d slot (k / 256) (k % 256)).map fun b => (k, b)

/-- VERSION and IMAGE_SIZE as they stand in a slot. -/
def imgVersion (m : Stores) (d : Director) (slot : Nat) : Word := BitVec.ofNat 32 (leAt (imgHeader m d slot) 8 4)
def imgSize (m : Stores) (d : Director) (slot : Nat) : Nat := leAt (imgHeader m d slot) 12 4

/-- The hash of a signed region and its signature (R540). -/
def imgSigned (m : Stores) (d : Director) (slot : Nat) : Bool :=
  let n := imgSize m d slot
  let b := slotBase d slot
  ecdsaVerify (sub (imgHeader m d slot) 32 64) (sha256 (rdBytes m .flash b n)) (rdBytes m .flash (b + n) 64)

/-- RESULT of the checks of R545 on a slot: 0 valid, else that of the first check that fails. -/
def imageResult (m : Stores) (d : Director) (slot : Nat) : Nat :=
  let h := imgHeader m d slot
  if beAt h 0 4 = 0xFFFFFFFF then 4
  else if !headerOk d h then 1
  else if !(tableOk h (imgTable m d slot) && credOk d ((imgBytes m d slot 0x82 0).getD [])) then 1
  else if d.sec.ownerHash ≠ some (sha256 (sub h 32 64)) then 2
  else if !imgSigned m d slot then 2
  else if fld (leAt h 8 4) 31 23 < arbCounter d then 3
  else if !imageCfgOk (imgConfig m d slot) (part d) d.boot.ddrFitted then 1
  else 0

/-- The owner key in force (R537, R593): that of the image in use; without one, the OWNER_KEY of a slot whose hash is in force. -/
def ownerKeyInForce (m : Stores) (d : Director) : List Byte :=
  if !allZero d.sec.ownerKey then d.sec.ownerKey
  else (([0, 1].map fun s => sub (imgHeader m d s) 32 64).find? fun k => d.sec.ownerHash = some (sha256 k)).getD []

/-! The log as a boot finds it (R539) -/

/-- Positions of the log region that hold a byte other than erased ones; an erased entry's CRC fails. -/
def logSpots (m : Stores) (d : Director) : List Nat :=
  ((m.flash.filterMap fun x => if logBase d ≤ x.1 then some ((x.1 - logBase d) / 32) else none).eraseDups).filter (· < 32768)

def logEntry (m : Stores) (d : Director) (i : Nat) : List Byte := rdBytes m .flash (logBase d + 32 * i) 32

/-- The valid entries with their positions. -/
def logValid (m : Stores) (d : Director) : List (Nat × List Byte) :=
  ((logSpots m d).map fun i => (i, logEntry m d i)).filter fun x => leAt x.2 28 4 = crc32c (x.2.take 28)

/-- The newest of some entries: the highest SEQ, compared modulo 2^32. -/
def newest : List (Nat × List Byte) → Option (Nat × List Byte)
  | [] => none
  | x :: r => match newest r with
    | none => some x
    | some y => if 0 < cycleDiff (BitVec.ofNat 32 (leAt x.2 0 4)) (BitVec.ofNat 32 (leAt y.2 0 4)) then some x else some y

/-- Take up the log where its newest entry ends; the boot count goes on from it. -/
def openLog (m : Stores) (d : Director) : Director :=
  let b := match newest (logValid m d) with
    | some (i, e) => { d.boot with logSeq := BitVec.ofNat 32 (leAt e 0 4), boots := BitVec.ofNat 32 (leAt e 4 4) + 1, logPos := 32 * (i + 1) % 1048576 }
    | none => { d.boot with logSeq := 0, boots := 1, logPos := 0 }
  { d with boot := b }

/-- The preferred slot: SLOT of the newest KIND 0x02 entry, else A (R539). -/
def preferredSlot (m : Stores) (d : Director) : Nat :=
  match newest ((logValid m d).filter fun x => byteAt x.2 8 = 2) with
  | some (_, e) => byteAt e 9
  | none => 0

end Sys2Proof.Machine
end

