-- ==== Sys2Proof/Machine/CmdSec.lean ====
section
/-! DEFINITION. The commands of the security group (R521 to R529), with the effects of R597 to R601
and R603. -/

namespace Sys2Proof.Machine

def modSec (d : Director) (f : Security → Security) : Director := { d with sec := f d.sec }

/-! Nonces and the authorisation block -/

/-- 60 s in raw ticks. -/
def nonceLife : Nat := 75000000000

/-- SEC_NONCE (R522). -/
def execSecNonce (mb : Nat) (s : State) : Host.Outcome State Fault Refusal :=
  onCmd s mb 0x0A00 fun d c =>
    let n := nonce128 s.fresh 0
    let v := some (BitVec.ofNat 128 n, d.time.raw)
    let d := modSec d fun k => match c.iface with | .pcie => { k with noncePcie := v } | .spi => { k with nonceSpi := v }
    respond d mb stOK (toBE 16 n ++ toLE 8 (deviceId d))

/-- What an authorisation block signs (R521). -/
def authHash (d : Director) (c : Cmd) : BitVec 256 :=
  let n := c.payload.length - 80
  sha256 (b2 c.opcode.toNat ++ toLE 8 (deviceId d) ++ sub c.payload n 16 ++ c.payload.take n)

/-- The block holds the outstanding nonce and a signature under `key` (R521, R522). -/
def authOk (d : Director) (c : Cmd) (key : List Byte) : Bool :=
  let n := c.payload.length - 80
  (match nonceOf d c.iface with
    | some (v, t) => decide (v.toNat = beAt c.payload n 16) && d.time.raw ≤ t + nonceLife
    | none => false)
    && keyVerifies key (authHash d c) (c.payload.drop (n + 16))

/-- An auth command: the block is checked and its nonce consumed; then the other checks. -/
def authorised (d : Director) (mb : Nat) (c : Cmd) (key : List Byte) (l : List (Bool × Nat)) (f : Director → Director) : Director :=
  guarded (dropNonce d c.iface) mb ((!authOk d c key, stAuth) :: l) f

/-! Images -/

def slotWrite (d : Director) (i : Nat) : SlotWrite := if i = 0 then d.boot.slotA else d.boot.slotB
def setSlotWrite (d : Director) (i : Nat) (w : SlotWrite) : Director :=
  { d with boot := if i = 0 then { d.boot with slotA := w } else { d.boot with slotB := w } }

/-- Sectors of 64 KiB that a write reaches. -/
def sectorsOf (ofs len : Nat) : List Nat :=
  (List.range ((ofs + len - 1) / 65536 + 1 - ofs / 65536)).map (ofs / 65536 + ·)

/-- Write image data: erase the sectors first reached, then program (R523). -/
def writeSlot (d : Director) (i ofs : Nat) (data : List Byte) : Director :=
  let w := if ofs = 0 then {} else slotWrite d i
  let new := (sectorsOf ofs data.length).filter fun k => !w.erased.contains k
  let d := new.foldl (fun d k => putMem d { dest := .flash, addr := slotBase d i + 65536 * k, data := List.replicate 65536 0xFF }) d
  let d := putMem d { dest := .flash, addr := slotBase d i + ofs, data := data }
  setSlotWrite d i { next := some (ofs + data.length), erased := w.erased ++ new, verified := false }

/-- SEC_IMAGE_WRITE (R523). -/
def execSecImageWrite (mb : Nat) (s : State) : Host.Outcome State Fault Refusal :=
  onCmd s mb 0x0A01 fun d c =>
    let p := c.payload
    let i := byteAt p 0
    let ofs := leAt p 4 4
    let data := p.drop 8
    guarded d mb
      [(inRun d && i = d.boot.slot, stState),
       (1 < i || !allZero (sub p 1 3) || (ofs != 0 && (slotWrite d i).next ≠ some ofs) || slotSize d < ofs + data.length, stRange)] fun d =>
      respond (writeSlot d i ofs data) mb stOK (b1 i ++ zeros 3 ++ b4 ofs ++ b4 (crc32c data))

/-- SEC_IMAGE_VERIFY (R524, R545). -/
def execSecImageVerify (mb : Nat) (s : State) : Host.Outcome State Fault Refusal :=
  onCmd s mb 0x0A02 fun d c =>
    let p := c.payload
    let i := byteAt p 0
    guarded d mb [(1 < i || !allZero (sub p 1 3), stRange)] fun d =>
      let r := imageResult s.mem d i
      let d := setSlotWrite d i { slotWrite d i with verified := decide (r = 0) || (slotWrite d i).verified }
      respond d mb stOK (b1 i ++ b1 r ++ zeros 2 ++ b4 (imgVersion s.mem d i).toNat ++ b4 (imgSize s.mem d i) ++ zeros 4)

/-- SEC_IMAGE_ACTIVATE (R525, R539). -/
def execSecImageActivate (mb : Nat) (s : State) : Host.Outcome State Fault Refusal :=
  onCmd s mb 0x0A03 fun d c =>
    let p := c.payload
    let i := byteAt p 0
    authorised d mb c (ownerKeyInForce s.mem d)
      [(i ≤ 1 && !(slotWrite d i).verified, stState), (1 < i || !allZero (sub p 1 3), stRange)] fun d =>
      respond (logAppend d 2 i 0 (imgVersion s.mem d i).toNat []) mb stOK (b1 i ++ zeros 3)

/-! Owner keys and credentials -/

/-- Set fuse bits in both copies (R536). -/
def burn (d : Director) (bits : Nat) : Director :=
  let v := BitVec.ofNat 4096 bits
  { d with boot := { d.boot with fuseA := d.boot.fuseA ||| v, fuseB := d.boot.fuseB ||| v } }

/-- The lowest owner hash that is all zeros (R600). -/
def freeHash (d : Director) : Option Nat := [0, 1, 2, 3].find? fun n => ownerHashN d n = 0

/-- A director certificate for this director: its fields, and its signature under an accepted key (R591 to R593). -/
def certGood (m : Stores) (d : Director) (cert : List Byte) : Bool :=
  let h := sha256 (cert.take 48)
  let sig := sub cert 48 64
  certNames d cert && (keyVerifies (ownerKeyInForce m d) h sig || keyVerifies d.sec.altKey h sig)

/-- The leftmost 12 bytes of a SHA-256. -/
def hash12 (b : List Byte) : List Byte := toBE 12 ((sha256 b).toNat / 2 ^ 160)

/-- Install a public key's hash in OWNER_HASHn (R600). -/
def installOwner (d : Director) (n : Nat) (key : List Byte) : Director :=
  let d := burn d ((sha256 key).toNat * 2 ^ (1440 + 256 * n))
  raise (logAppend d 4 0xFF 0 d.boot.version.toNat []) 209 0x02 []

/-- Replace the certificate in force (R601). -/
def installCert (d : Director) (cert : List Byte) : Director :=
  raise (logAppend (modSec d fun k => { k with cert := cert }) 4 0xFF 0 d.boot.version.toNat (hash12 cert)) 209 0x03 []

/-- SEC_OWNER_UPDATE (R526, R600, R601). -/
def execSecOwnerUpdate (mb : Nat) (s : State) : Host.Outcome State Fault Refusal :=
  onCmd s mb 0x0A04 fun d c =>
    let p := c.payload
    let o := byteAt p 0
    let size := leAt p 2 2
    let obj := sub p 4 size
    let key := if o = 1 && (fusedOwnerHash d).isNone then obj else ownerKeyInForce s.mem d
    let fits := if o = 1 then size = 64 && onCurve obj else o = 2 && size = 112 && certGood s.mem d obj
    authorised d mb c key
      [(byteAt p 1 ≠ 0 || !fits, stRange), (o = 1 && (freeHash d).isNone, stResource)] fun d =>
      let d := if o = 1 then (match freeHash d with | some n => installOwner d n obj | none => d) else installCert d obj
      respond d mb stOK (b1 o ++ zeros 3)

/-! Keys -/

/-- Start a new key on a port; the mailbox waits for it (R527, R597). -/
def rekeyPort (fresh mb : Nat) (d : Director) (n : Nat) : Director :=
  modPort (startRekey d fresh n) n fun p => { p with rekeyMb := some mb }

/-- Ask for a new link key: Side X offers it; Side Y asks Side X (R599; the request is the firmware's own form; DESIGN CHOICE, assumption 22). -/
def rekeyLink (d : Director) (fresh mb : Nat) : Director :=
  if d.sec.skNext.isSome then setWait d mb .key
  else
    let d := setWait d mb .twin
    if d.sec.skOffer.isSome then d
    else if sideNum d = 0 then sendOffer d fresh
    else drainControl (queueControl d 0x20 (b1 0x81 ++ zeros 3))

/-- SEC_REKEY (R527). -/
def execSecRekey (mb : Nat) (s : State) : Host.Outcome State Fault Refusal :=
  onCmd s mb 0x0A05 fun d c =>
    let p := c.payload
    let sc := byteAt p 0
    let i := byteAt p 1
    let ns := if sc = 0 then ports (part d) else if sc = 1 then [i] else []
    guarded d mb
      [(sc ≤ 1 && !d.time.running, stState),
       (2 < sc || leAt p 2 2 ≠ 0 || (sc = 1 && !portHere (part d) i), stRange),
       (ns.any fun n => (port d n).rekeyMb.isSome, stBusy)] fun d =>
      if sc = 2 then rekeyLink d s.fresh mb
      else ns.foldl (rekeyPort s.fresh mb) (setWait d mb .key)

/-- SEC_CELL_PATCH (R528, R603): the first PATCH_DATA record. -/
def execSecCellPatch (mb : Nat) (s : State) : Host.Outcome State Fault Refusal :=
  onCmd s mb 0x0A06 fun d c =>
    let p := c.payload
    let id := leAt p 0 2
    guarded d mb (cellChecks d id true ++ [(leAt p 2 2 != 0, stRange)]) fun d =>
      awaitCell (patchRecord d id (leAt p 4 4) ((p.drop 8).take 44) (.cmd mb)) mb id

/-! The log -/

/-- SEC_LOG_READ (R529). -/
def execSecLogRead (mb : Nat) (s : State) : Host.Outcome State Fault Refusal :=
  onCmd s mb 0x0A07 fun d c =>
    let p := c.payload
    let ofs := leAt p 0 4
    let n := leAt p 4 2
    guarded d mb [(n = 0 || 4072 < n || leAt p 6 2 ≠ 0 || 1048576 < ofs + n, stRange)] fun d =>
      respond d mb stOK (b4 ofs ++ b2 n ++ zeros 2 ++ rdBytes s.mem .flash (logBase d + ofs) n)

end Sys2Proof.Machine
end

