-- ==== Sys2Proof/Machine/Boot.lean ====
section
/-! DEFINITION. Reset, boot and release of a director (R532 to R549), the anti-rollback raise
(R547), and the resets that the director performs itself (R317, R462, R586, R587). -/

namespace Sys2Proof.Machine

/-! Reset -/

/-- A director after a reset, in FUSE_LOAD (R535): fuses, strap, flash size, characterised delays and reset causes stay, and the
reference is as it was; everything else is at its reset value. PCI Express resets with it, its vectors masked. -/
def directorReset (d : Director) : Director :=
  let b := d.boot
  putMem
    { tx := (darkLanes (darkTrees d)).tx
      boot := { fuseA := b.fuseA, fuseB := b.fuseB, side := b.side, flashMiB := b.flashMiB, ddrFitted := b.ddrFitted
                wdCause := b.wdCause, wdOwed := b.wdOwed, ueOwed := b.ueOwed }
      time := { refOk := d.time.refOk }
      pins := { resetN := d.pins.resetN }
      intDelay := d.intDelay
      writes := d.writes }
    { dest := .msix, addr := 0, data := ((List.range 32).map fun _ => zeros 12 ++ b4 1).flatten }

/-- RESET_ASSERT (R532, R533, R626): RESET_N low or a rail out of range; RESET_N clears the reset causes (R587). -/
def execResetAssert (s : State) : Host.Outcome State Fault Refusal := onDir s fun d =>
  let d := directorReset d
  { d with
    boot := { d.boot with state := .held, wdCause := false, wdOwed := false, ueOwed := none }
    pins := { d.pins with resetN := false } }

/-- RESET_N_RISE (R532, R535): samples SIDE and starts FUSE_LOAD. -/
def execResetNRise (side : Side) (s : State) : Host.Outcome State Fault Refusal := onDir s fun d =>
  if d.boot.state ≠ .held then d else
  { d with boot := { d.boot with state := .fuseLoad, side := side }, pins := { d.pins with resetN := true } }

/-- DEV_RESET_EXECUTE (R462): 10 ms after the command. -/
def execDevResetExecute (s : State) : Host.Outcome State Fault Refusal := onDir s fun d =>
  if d.frz.resetDue && !d.frz.frozen then directorReset d else d

/-- WATCHDOG_RESET (R587): the watchdog has gone unserved for 100 ms. -/
def execWatchdogReset (s : State) : Host.Outcome State Fault Refusal := onDir s fun d =>
  if !d.pins.resetN || d.frz.frozen || d.pins.served then d else
  let d := directorReset d
  { d with boot := { d.boot with wdCause := true, wdOwed := true } }

/-- SUPERVISOR_SRAM_UE_RESET (R586): the log entry, then the reset. -/
def execSupervisorSramUeReset (s : State) : Host.Outcome State Fault Refusal := onDir s fun d =>
  match d.boot.ueCause with
  | some a =>
    if !serves d then d else
    let d := directorReset (logAppend d 5 (if inRun d then d.boot.slot else 0xFF) 0 d.boot.version.toNat (b4 a))
    { d with boot := { d.boot with ueOwed := some a } }
  | none => d

/-! Fuses and image -/

/-- FACT_CRC is correct (R536): CRC-32C over bits 1407:0, from bit 1407 downward. -/
def factCrcOk (d : Director) : Bool := crc32c (toBE 176 (fld (fuses d) 1407 0)) = fld (fuses d) 1439 1408

/-- FUSE_LOAD_DONE (R535 to R537). -/
def execFuseLoadDone (s : State) : Host.Outcome State Fault Refusal := onDir s fun d =>
  if d.boot.state ≠ .fuseLoad || !factCrcOk d then d else
  modSec { d with boot := { d.boot with state := .imageLoad } } fun k => { k with ownerHash := fusedOwnerHash d }

/-- Enter SAFE with a KIND 0x05 entry (R546, R548). -/
def enterSafe (d : Director) (slot : Nat) : Director :=
  let d := logAppend d 5 slot 0 d.boot.version.toNat []
  darkLanes (darkTrees { d with boot := { d.boot with state := .safe, step := 0 } })

/-- Take an accepted image into use (R535, R593). -/
def takeImage (m : Stores) (d : Director) (slot : Nat) (preferred : Bool) (fallback : Option (Nat × Nat)) : Director :=
  let cred := (imgBytes m d slot 0x82 0).getD []
  { d with
    boot := { d.boot with state := .released, step := 1, slot := slot, preferred := preferred, fallback := fallback
                          version := imgVersion m d slot, fwBuild := Config.fwBuild ((imgBytes m d slot 0x80 0).getD []) }
    sec := { d.sec with ownerKey := sub (imgHeader m d slot) 32 64, altKey := sub cred 112 64, cert := cred.take 112 } }

/-- The log entry of a boot attempt (R545). -/
def logAttempt (m : Stores) (d : Director) (slot result : Nat) : Director := logAppend d 1 slot result (imgVersion m d slot).toNat []

/-- Try the preferred slot, then the other (R545, R546). -/
def imageLoad (m : Stores) (d : Director) : Director :=
  let d := openLog m d
  let p := if preferredSlot m d = 1 then 1 else 0
  let r := imageResult m d p
  let d := logAttempt m d p r
  if r = 0 then takeImage m d p true none else
  let q := 1 - p
  let r2 := imageResult m d q
  let d := logAttempt m d q r2
  if r2 = 0 then takeImage m d q false (some (p, r)) else enterSafe d 0xFF

/-- IMAGE_LOAD_DONE (R545, R546). -/
def execImageLoadDone (s : State) : Host.Outcome State Fault Refusal := onDir s fun d =>
  if d.boot.state = .imageLoad then imageLoad s.mem d else d

/-! Release -/

/-- Step 3 (R548, R609, R636): training overwrites the last 4 KiB of installed memory with values of its own. -/
def ddrTrained (d : Director) (fresh : Nat) (ok : Bool) : Director :=
  let d := { d with boot := { d.boot with step := 4, ddrMiB := if ok then d.boot.ddrFitted else 0 } }
  if d.boot.ddrMiB = 0 then raise d 72 0x03 []
  else putMem d { dest := .ddr, addr := d.boot.ddrMiB * mib - 4096, data := (List.range 4096).map (Config.freeByte fresh) }

/-- A segment header in DDR4 is valid (R403, R609). -/
def headerValid (m : Stores) (a : Nat) : Bool :=
  let h := rdBytes m .ddr a 128
  beAt h 0 4 = 0x515A5253 && leAt h 124 4 = crc32c (h.take 124)

/-- Segments that survived keep their data: CLOSED, every other one FREE (R609). -/
def findSegments (m : Stores) (d : Director) : Director :=
  let ok (i : Nat) : Bool := 4096 ≤ segLen d i && headerValid m (segStart d i)
  modRcd d fun r => { r with segs := ((List.range (segCount (cfg d))).filter ok).map fun i => (i, .closed) }

/-- Step 4 (R548): the image's configuration comes into force, every arm in OFF with x̂ at X0. -/
def imageInForce (m : Stores) (d : Director) : Director :=
  let raw := imgConfig m d d.boot.slot
  let d := raw.foldl (fun d (k, b) => putSection d k b) d
  let d := { d with cfg := { d.cfg with baked := true }, arms := [] }
  let d := (List.range 6).foldl loadX0 d
  let d := modBg d fun b => { b with budget := arbBudget (cfg d), reserve := reserveOf (cfg d) (part d) d.boot.ddrFitted }
  let d := findSegments m d
  if d.boot.ddrMiB = 0 then d
  else ((List.range (segCount (cfg d))).filter (segClamped d)).foldl (fun d i => raise d 72 0x01 (b1 i)) d

/-- A tree key drawn from the random generator (R597). -/
def drawKey (fresh : Nat) (d : Director) (n : Nat) : Director :=
  let k : TreeKey := { key := BitVec.ofNat 128 (nonce128 fresh (2 * n)), valid := true, since := d.time.raw, sinceCycle := cyc d }
  { d with sec := { d.sec with trees := tset n k d.sec.trees } }

/-- What RUN raises of the boot (R546, R586, R587). -/
def bootEvents (d : Director) : Director :=
  let d := match d.boot.fallback with | some (s, r) => raise d 100 0x01 (b1 s ++ b1 r) | none => d
  let d := if d.boot.wdOwed then raise d 101 0x01 [] else d
  let d := match d.boot.ueOwed with | some a => raise d 102 0x02 (b4 a ++ b1 2) | none => d
  { d with boot := { d.boot with fallback := none, wdOwed := false, ueOwed := none } }

/-- Step 5 (R548): RUN. TWIN_ALIVE_OUT starts, lanes train from DETECT, time ports and domains start (R317, R345). -/
def enterRun (d : Director) (fresh : Nat) : Director :=
  let d := { d with
    boot := { d.boot with state := .run, step := 0, runAt := d.time.raw }
    pins := { d.pins with alive := d.pins.served && d.time.pllLock } }
  let d := modTime d fun t => { t with ownFrom := t.raw }
  let d := (ports (part d)).foldl (drawKey fresh) d
  let d := [0, 1].foldl restartDomain d
  recompute (bootEvents d)

/-- A release step that completes (R548). -/
def stepDone (m : Stores) (fresh : Nat) (d : Director) (ddrOk : Bool) : Director :=
  match d.boot.step with
  | 1 => lightLanes <| lightTrees (modTime { d with boot := { d.boot with step := 2 } } fun t => { t with pllLock := true })
  | 2 => { d with boot := { d.boot with step := 3 } }
  | 3 => ddrTrained d fresh ddrOk
  | 4 => enterRun (imageInForce m d) fresh
  | _ => d

/-- RELEASE_STEP_DONE (R548): `ddrOk` is the outcome of step 3. -/
def execReleaseStepDone (ddrOk : Bool) (s : State) : Host.Outcome State Fault Refusal := onDir s fun d =>
  if d.boot.state = .released then stepDone s.mem s.fresh d ddrOk else d

/-- RELEASE_STEP_TIMEOUT (R548): step 3 goes on without memory; steps without a bound have none to exceed. -/
def execReleaseStepTimeout (s : State) : Host.Outcome State Fault Refusal := onDir s fun d =>
  if d.boot.state ≠ .released then d else
  match d.boot.step with
  | 1 => enterSafe d d.boot.slot
  | 3 => ddrTrained d s.fresh false
  | 4 => enterSafe d d.boot.slot
  | _ => d

/-! Anti-rollback -/

/-- ARB_RAISE (R547): after 600 s in RUN, to the rollback level of an image booted from the preferred slot. -/
def execArbRaise (s : State) : Host.Outcome State Fault Refusal := onDir s fun d =>
  let level := fld d.boot.version.toNat 31 23
  if !works d || !d.boot.preferred || d.time.raw < d.boot.runAt + 750000000000 || level ≤ arbCounter d then d else
  let d := burn d ((2 ^ level - 1) * 2 ^ 2464)
  raise (logAppend d 3 d.boot.slot 0 level []) 100 0x02 []

end Sys2Proof.Machine
end

