-- ==== Sys2Proof/Machine/CellFrames.lean ====
section
/-! DEFINITION. Reception at the cell: order frames (R74 to R77, R108 to R128, R155 to R161) and
urgent block frames (R147 to R149, R189 to R191). -/

namespace Sys2Proof.Machine

/-- Header fields of an order frame (R109). -/
structure Header where
  cycle     : Cycle
  treeId    : BitVec 8
  port      : Nat
  joinOpen  : Bool
  mgmt      : Bool
  keyPhase  : Bool
  blocked   : Bool
  suspended : Bool
  iarmSat   : Bool
  iarm      : Int
  depart    : Int
  clen      : Nat
  reserved  : Bool
  deriving DecidableEq, Repr

/-- Read the header from the first 16 bytes (R109). -/
def parseHeader (bs : List Byte) : Header :=
  let n := beAt bs 0 16
  { cycle := BitVec.ofNat 32 (fld n 127 96)
    treeId := BitVec.ofNat 8 (fld n 95 88)
    port := fld n 93 88
    joinOpen := bit n 87, mgmt := bit n 86, keyPhase := bit n 85, blocked := bit n 84
    suspended := bit n 83, iarmSat := bit n 82
    iarm := signed 24 (fld n 79 56), depart := signed 32 (fld n 55 24), clen := fld n 23 6
    reserved := bit n 94 || fld n 81 80 != 0 || fld n 5 0 != 0 }

/-- Descramble an order frame's body: the first 32 bits under the fixed seed, the rest under the
seed of the cycle they spell (R71, R72). -/
def descrambleFrame (repeatCopy : Bool) (bits : List Bool) : List Byte :=
  let a := scramble fixedSeed (bits.take 32)
  let cyc : Cycle := BitVec.ofNat 32 (bitsNat a)
  bitsBytes 612 (a ++ scramble (seedOf cyc (if repeatCopy then 97 else 96)) (bits.drop 32))

/-- The FROM of a key is reached by a cycle near the link time; the age keeps its order beyond 2^31 cycles (R597). -/
def fromReached (x : CLink) (cycle : Cycle) (k : CellKey) : Bool :=
  match k.age with
  | some n => 0 ≤ (n : Int) + cycleDiff cycle x.cyc
  | none => reached cycle k.start

/-- The tree keys in force at a cycle, the one in use first (R122, R597). -/
def heldKeys (x : CLink) (cycle : Cycle) : List CellKey := x.keys.filter (fromReached x cycle)

/-- The key of a frame: the one in use at its CYCLE, when KEY_PHASE names it (R118, R597). -/
def frameKey (x : CLink) (cycle : Cycle) (phase : Bool) : Option Key :=
  ((heldKeys x cycle).head?.filter fun k => k.phase = phase).map (·.key)

/-- The link time is in a cycle: the ages of the keys follow. -/
def setCyc (x : CLink) (cyc : Cycle) : CLink :=
  let aged (k : CellKey) : CellKey :=
    let n : Int := match k.age with
      | some n => n + cycleDiff cyc x.cyc
      | none => cycleDiff cyc k.start
    { k with age := if 0 ≤ n then some n.toNat else none }
  { x with cyc := cyc, keys := x.keys.map aged }

/-- Count an outcome on a link. -/
def bump (c : Cell) (l : Link) (f : LinkCounters → LinkCounters) : Cell := modLink c l fun x => modCnt x f

/-- Raise RECORD_ERROR or RECORD_CRC, at most one per link per cycle (R588, R589). -/
def recordEvent (c : Cell) (l : Link) (code reason : Nat) (cycle : Cycle) (tick : Int) : Cell :=
  let x := getLink c l
  if x.recEvent = some x.cyc then c else
  let c := cellEvent c code tick (reason * 2 ^ 56 + b2n (l = .lb) * 2 ^ 55 + cycle.toNat * 2 ^ 16)
  modLink c l fun x => { x with recEvent := some x.cyc }

/-- Command codes that a variant treats as reserved (R113). -/
def cmdReserved (v : Variant) (cmd : Nat) : Bool :=
  natIn cmd 8 14 || (cmd = 3 && v != .full) || (cmd = 6 && v = .half)

/-- The own record of an accepted frame, in the order of R124; commands a node does not execute are NOP to it (R10,
R113). A record that R113 or R116 turns into HOLD takes the LAUNCH and deadline tests like any other and is then executable
(DEDUCED, assumption 77). Where ARM_BLOCKED is set, a NOP counts as a record that is not BLOCK and is no order for the
lease; its BLOCK goes out as soon as a decision can take it (R111, R306; DEDUCED, assumption 61). -/
def ownRecord (c : Cell) (f : FrameCtx) (h : Header) (rec : List Byte) (fcsTick : Int) : Cell :=
  let l := f.link
  let n := beNat rec
  let cmd := fld n 63 60
  let launch := fld n 59 40
  let flags := fld n 15 8
  let x := getLink c l
  -- ticks from the start of the frame's cycle
  let rel (t : Int) : Int := t - cycleDiff h.cycle x.cyc * x.clen
  let err c r := recordEvent (bump c l fun k => { k with recordError := wrapInc k.recordError }) l 0x91 r h.cycle f.done
  let nodeNop := c.variant = .node && (cmd ≤ 7 && cmd != 3 && cmd != 4)
  if fld n 7 0 ≠ crc8 (natBits 64 n |>.take 56) then
    recordEvent (bump c l fun k => { k with recordCrc := wrapInc k.recordCrc }) l 0x92 0 h.cycle f.done
  else
    let put (c : Cell) (r : OrdRec) : Cell :=
        if x.qual then modLink c l fun x => { x with recs := r :: (x.recs.filter fun q => q.cycle != r.cycle) |>.take 3 } else c
    let mk (ok : Bool) (cm at_ : Nat) : OrdRec :=
        { cycle := h.cycle, cmd := cm, clean := ok, launch := at_, duty := fld n 39 24, seq := fld n 23 16
          flags := BitVec.ofNat 8 flags, forced := h.blocked, link := l, iarm := h.iarm, checked := rel f.done }
    if cmd = 0xF then
      if h.blocked then put (err c 4) { mk false cmd (rel f.done + 340).toNat with duty := 0, seq := 0, flags := 0 } else c
    else if nodeNop && !h.blocked then put c (mk (fld flags 2 0 = 0) cmd launch)
    else
      let res := cmdReserved c.variant cmd
      let odd := fld flags 2 0 ≠ 0
      let c := if h.blocked && cmd ≠ 4 then err c 4 else if res then err c 1 else c
      let c := if odd && (h.blocked || !res) then err c 2 else c
      if launch > cpN c - 2 then (if res || odd then c else err c 3)
      else if rel fcsTick > (launch : Int) - 500 then
        modLink c l fun x => { x with late := (h.cycle :: x.late).take 3 }
      else put c (mk (!res && !odd) (if res || odd then 0 else cmd) launch)

/-- Place or qualify the link time from an accepted frame (R155 to R158, R165). The Bool says the
frame's records may be executed. -/
def linkTime (c : Cell) (f : FrameCtx) (h : Header) (seen : DownSeen) : Cell :=
  let l := f.link
  let x := getLink c l
  let start : Int := seen.arrival - x.dnOfs - h.depart
  let diff := cycleDiff h.cycle x.cyc
  let pred : Int := if diff ≤ 0 then 0 else (x.clen : Int) * 32 * diff + x.adj
  let d := start - pred
  let small := -16 ≤ d && d ≤ 16
  let lens (x : CLink) : CLink :=
    if h.cycle = x.cyc then { x with clen := h.clen } else { x with nextLen := some (h.cycle, h.clen) }
  -- a first frame sets the link time to its measured start
  let place (x : CLink) : CLink :=
    let cyc := if start > seen.fcsTick * 32 then h.cycle - 1 else h.cycle
    let x := setCyc x cyc
    lens { x with placed := true, first := some h.cycle, adj := 0, since := 0, deltas := [], phase := (start % 32).toNat, qual := false }
  let c :=
    if x.qual then
      if small then modLink c l fun x => lens { x with adj := (if diff ≤ 0 then d else x.adj + d), first := some h.cycle }
      else
        let c := cellEvent c 0x11 f.done (unsigned 32 d * 2 ^ 32 + b2n (l = .lb) * 2 ^ 31)
        let c := { c with cnt := { c.cnt with phaseJump := wrapInc c.cnt.phaseJump } }
        modLink c l place
    else if x.first = some (h.cycle - 1) && small then
      modLink c l fun x => lens { x with qual := true, first := some h.cycle, adj := (if diff ≤ 0 then d else x.adj + d), since := 0, deltas := [] }
    else modLink c l place
  -- accepted frames after the one that qualified the link; δ on the non-steering link (R161)
  let c := modLink c l fun y =>
    if !y.qual then y else
    { y with since := if x.qual then y.since + 1 else y.since
             deltas := if l != c.steer then ((h.cycle, seen.delta) :: y.deltas).take 16 else y.deltas }
  resteer c

/-- What follows once every check has passed (R120 to R128). The checks are complete 160 ticks after the last FCS bit,
the most that R120 allows (DESIGN CHOICE, assumption 75). -/
def acceptFrame (m : Stores) (fresh : Nat) (c : Cell) (l : Link) (seen : DownSeen) (bs : List Byte) (h : Header) (keyed : Bool) : Cell :=
  let f : FrameCtx :=
    { link := l, cycle := h.cycle, treeId := h.treeId, done := seen.fcsTick + 160, dsat := seen.dsat, vcap := seen.vcap
      iarm := h.iarm, joinOpen := h.joinOpen, keyed := keyed }
  let c := modLink c l fun x =>
    { x with last := some h.cycle, treeId := some h.treeId, seen := true
             frames := ({ cycle := h.cycle, suspended := h.suspended, blocked := h.blocked } :: x.frames).take 4 }
  -- of a frame handled without the key, only time, JOIN_OPEN and the exchange's records are used (R122)
  let c := if keyed then { c with thermal := { c.thermal with iarm := h.iarm } } else c
  let c := linkTime c f h seen
  let c := mgmtArea m fresh f c h.mgmt (sub bs 528 64)
  let x := getLink c l
  let c := if keyed then
      match x.slot with
      | some (n, _, from_) => if reached h.cycle from_ then ownRecord c f h (sub bs (16 + 8 * n) 8) seen.fcsTick else c
      | none => c
    else c
  settle f.done c

/-- FRAME_RECEIVE (R120): the checks in their order; the first failure discards the frame. -/
def frameReceive (m : Stores) (fresh : Nat) (l : Link) (seen : DownSeen) (c : Cell) : Cell :=
  let x := getLink c l
  if !receives c || !x.signal then c
  else if seen.typeCode ≠ tcFirst && seen.typeCode ≠ tcRepeat then
    if seen.typeCode = tcUrgent then c else bump c l fun k => { k with typeUnknown := wrapInc k.typeUnknown }
  else match destuff (typeRun seen.typeCode) seen.bits with
  | none => bump c l fun k => { k with lineViolation := wrapInc k.lineViolation }
  | some bits =>
    if seen.cut then bump c l fun k => { k with frameAbandoned := wrapInc k.frameAbandoned } else
    let bs := descrambleFrame (seen.typeCode = tcRepeat) bits
    if bs.length ≠ 612 || beAt bs 608 4 ≠ crc32c (bs.take 608) then bump c l fun k => { k with crcFail := wrapInc k.crcFail }
    else
      let h := parseHeader bs
      let keyed := !(heldKeys x h.cycle).isEmpty
      let ivf := if seen.typeCode = tcFirst then iv 0x01 h.treeId.toNat 96 0 h.cycle else iv 0x02 h.treeId.toNat 97 0 h.cycle
      let tagOk := match frameKey x h.cycle h.keyPhase with
        | some k => (gmac k ivf (bs.take 592)).toNat = beAt bs 592 16
        | none => false
      if keyed && !tagOk then bump c l fun k => { k with tagFail := wrapInc k.tagFail }
      else if h.reserved || h.port > 51 then bump c l fun k => { k with malformed := wrapInc k.malformed }
      else if x.treeId.any (· != h.treeId) && x.mode != .listen then
        -- frames that begin to carry another tree ID return the link to LISTEN (R101)
        linkToListen (bump c l fun k => { k with malformed := wrapInc k.malformed }) l
      else
        let diff := cycleDiff h.cycle x.cyc
        let later := x.last.all fun p => 0 < cycleDiff h.cycle p
        if keyed then
          if x.last = some h.cycle then c
          else if !(diff = 0 || diff = 1) || !later then bump c l fun k => { k with replay := wrapInc k.replay }
          else acceptFrame m fresh c l seen bs h true
        else
          let moved := x.treeId.any (· != h.treeId)
          let c := if moved then modLink c l fun x => { x with qual := false, first := none, last := none } else c
          if later || moved then acceptFrame m fresh c l seen bs h false else c

/-- The cell becomes blocked at a tick: gates off with no dead time (R59, R168, R189). -/
def becomeBlocked (c : Cell) (tick : Int) : Cell :=
  let c := { c with gates := { c.gates with blocked := true } }
  -- ranks 1 to 4 of R182 stand above the block
  if c.gates.latched || c.gates.ov || !outputsLive c then c else gatesOff c tick

/-- An order executed at this very tick gives way to the block and is reported as not executed (R59). -/
def yieldOrder (c : Cell) (tick : Int) : Cell :=
  match c.undo with
  | some u =>
    if c.executed && u.tick = tick then
      { c with executed := false, undo := none, run := {}, mode := u.mode, gates := u.gates, meas := u.meas, cnt := u.cnt
               events := u.events, evtSeq := u.evtSeq, lostDue := u.lostDue, edgeArms := u.edgeArms }
    else c
  | none => c

/-- URGENT_BLOCK_RECEIVE (R148, R149): CYC7 names the departure cycle, the tag authenticates it. -/
def urgentReceive (l : Link) (bits : List Bool) (tick : Int) (c : Cell) : Cell :=
  let x := getLink c l
  if !receives c || !x.signal then c
  else match destuff (typeRun tcUrgent) bits with
  | none => bump c l fun k => { k with lineViolation := wrapInc k.lineViolation }
  | some raw =>
    let v := bitsNat (scramble fixedSeed (raw.take 31))
    if raw.length < 31 then bump c l fun k => { k with frameAbandoned := wrapInc k.frameAbandoned }
    else if (heldKeys x x.cyc).isEmpty then c
    else
      let cyc7 := fld v 30 24
      let tag := fld v 23 0
      -- the cycle nearest the current one whose bits [6:0] equal CYC7
      let back := (x.cyc.toNat + 128 - cyc7) % 128
      if back > 1 then bump c l fun k => { k with replay := wrapInc k.replay }
      else
        let dep : Cycle := x.cyc - BitVec.ofNat 32 back
        let tid := (x.treeId.getD 0).toNat
        let held := heldKeys x x.cyc
        -- the key in use, and for 256 cycles after a change the one before it
        let cand := match held with
          | k :: p :: _ => if k.age.getD 0 < 256 then [k, p] else [k]
          | ks => ks
        let ok := cand.any fun k => leftTag 24 (gmac k.key (iv 0x03 tid 0 0 dep) [BitVec.ofNat 8 tid, BitVec.ofNat 8 cyc7]) = tag
        if !ok then bump c l fun k => { k with tagFail := wrapInc k.tagFail }
        else if c.variant = .node then c
        else
          let c := yieldOrder c tick
          -- a further copy has no effect, but in SAFE_BYPASS the block ends that state (R149, R191)
          if c.gates.blocked && !(c.mode = .safeBypass && !faulted c) then { c with preempt := if outputsLive c then some tick else c.preempt } else
          let c := becomeBlocked c tick
          { c with mode := if c.mode = .safeBypass && !faulted c then .active else c.mode
                   preempt := if outputsLive c then some tick else c.preempt }

def execFrameReceive (link : Link) (seen : DownSeen) (s : State) : Host.Outcome State Fault Refusal :=
  onCell s (noteOk (seen.fcsTick + 160) (frameReceive s.mem s.fresh link seen))

def execUrgentBlockReceive (link : Link) (bits : List Bool) (tick : Int) (s : State) : Host.Outcome State Fault Refusal :=
  onCell s (urgentReceive link bits tick)

end Sys2Proof.Machine
end

