-- ==== Sys2Proof/Machine/CellGate.lean ====
section
/-! DEFINITION. Lease, order execution, gate edges and protection of the cell (R166 to R193,
R302 to R308), and the edge measurement armed by an executed order (R227 to R230). -/

namespace Sys2Proof.Machine

/-! Lease (R302 to R308) -/

/-- What a link offers for the current order cycle, checked by a tick, on a link whose records may be placed (R161, R166). -/
def offered (c : Cell) (l : Link) (by_ : Option Int) : Option OrdRec :=
  let x := getLink c l
  if !x.qual || (l != c.steer && x.since < 16) then none
  else x.recs.find? fun r => r.cycle = cellCyc c && by_.all (fun t => decide (r.checked ≤ t))

/-- A link's record that is valid for the lease: not the NOP of a blocked arm's frame (R303, R304, R306). -/
def validRec (c : Cell) (l : Link) (by_ : Option Int) : Option OrdRec := (offered c l by_).filter fun r => r.cmd ≠ 0xF

/-- LAUNCH of the earlier of two records to complete its checks, less 340. -/
def firstTick : Option OrdRec → Option OrdRec → Option Int
  | some a, some b => some ((if a.checked ≤ b.checked then (a.launch : Int) else b.launch) - 340)
  | some a, none => some (a.launch - 340)
  | none, some b => some (b.launch - 340)
  | none, none => none

/-- The decision tick: LAUNCH of the first valid record to complete its checks, less 340 (R304). -/
def decisionTick (c : Cell) : Option Int :=
  (firstTick (validRec c .la none) (validRec c .lb none)).or (firstTick (offered c .la none) (offered c .lb none))

/-- The command that a record executes: ARM_BLOCKED forces BLOCK (R111). -/
def OrdRec.act (r : OrdRec) : Nat := if r.forced then 4 else r.cmd

/-- δ of a link at an instant of a cycle, num / den of it in: the line fitted to the last 16 by least squares, units of
25 ps (R161; DESIGN CHOICE, assumption 68). -/
def fitDelta (ds : List (Cycle × Int)) (cycle : Cycle) (num den : Nat) : Int :=
  let n : Int := ds.length
  let sum (f : Int → Int → Int) : Int := ds.foldl (fun a p => a + f (cycleDiff p.1 cycle) p.2) 0
  let sx := sum fun x _ => x
  let sy := sum fun _ y => y
  let sxx := sum fun x _ => x * x
  let sxy := sum fun x y => x * y
  let d := n * sxx - sx * sx
  if d = 0 then (if n = 0 then 0 else roundHalfUp sy n.toNat)
  else roundHalfUp ((sy * sxx - sx * sxy) * den + (n * sxy - sx * sy) * num) (d * den).toNat

/-- Tick of the timebase and fine delay at which a record's LAUNCH on its own link time falls (R161, R162). -/
def placeOf (c : Cell) (r : OrdRec) : Int × Int :=
  if r.link = c.steer then (r.launch, 0) else
  let x := getLink c r.link
  let d := fitDelta x.deltas r.cycle r.launch (max 1 x.clen)
  (r.launch + d / 32, d % 32)

def claims (r : OrdRec) : Bool := r.flags.getLsbD 6 || r.cmd = 7
def isShadow (r : OrdRec) : Bool := r.flags.getLsbD 5
def fillOk (r : OrdRec) : Bool := r.flags.getLsbD 7

/-- The side that a free lease goes to (R305). -/
def claimant (c : Cell) (a b : Option OrdRec) : Option Link :=
  let ca := a.any claims
  let cb := b.any claims
  if ca && cb then
    let sa := a.any isShadow
    let sb := b.any isShadow
    if sa != sb then some (if sa then .lb else .la)
    else some (if c.steerPref = 1 then .lb else .la)
  else if ca then some .la
  else if cb then some .lb
  else none

/-- Cell states from CONFIGURED onward, in which the lease runs (R302). -/
def leaseRuns (c : Cell) : Bool :=
  c.variant != .node && (c.mode = .configured || outputsLive c || c.mode = .bypassLatched)

/-- The decision of R305: grant or renew the lease and select the record; then the block that
ARM_BLOCKED forces (R166, R308). -/
def leaseDecide (atEnd : Bool) (c : Cell) : Cell :=
  if c.decided || (!atEnd && (decisionTick c).isNone) then c else
  let t := decisionTick c
  let a := if t.isSome then validRec c .la t else none
  let b := if t.isSome then validRec c .lb t else none
  let ofLink (l : Link) := match l with | .la => a | .lb => b
  let c := { c with decided := true, renewed := false, sel := none, selFill := false, forced := none }
  let inFrame (l : Link) := if t.isSome then (offered c l t).filter (·.forced) else none
  let forced := (inFrame .la).or (inFrame .lb)
  if c.variant = .node then
    -- a node keeps no lease and echoes only BLOCK (R10, R135, R302)
    { c with sel := ((a.filter fun r => r.act = 4).or (b.filter fun r => r.act = 4)).or forced }
  else if !leaseRuns c then { dropLease c with forced := forced }
  else
    let c := match c.holder, claimant c a b with
      | .none, some l =>
        resteer { c with holder := holderOf l, lc := cp c 0x13, renewed := true
                         cnt := { c.cnt with leaseChanges := wrapInc c.cnt.leaseChanges } }
      | _, _ => c
    match holderLink c.holder with
    | none => { c with forced := forced }
    | some l =>
      match ofLink l with
      | some r => { c with sel := some r, lc := cp c 0x13, renewed := true, forced := forced }
      | none =>
        match ofLink (otherLink l) with
        | some r => if isShadow r && fillOk r && c.mode != .safeBypass then { c with sel := some r, selFill := true, forced := forced }
                    else { c with forced := forced }
        | none => { c with forced := forced }

/-! Edge measurement (R227, R228) -/

def destCode : GateState → Nat
  | .bypassed => 0
  | .insPos => 1
  | .insNeg => 2
  | .blocked => 3

/-- Expected TSENSE polarity: rising, falling, or either (R227). -/
def expectedEdge (from_ dest : GateState) (invert : Bool) : Option Bool :=
  let r := match dest with
    | .bypassed => some false
    | .insPos => some (from_ != .insNeg)
    | .insNeg => some (from_ != .insPos)
    | .blocked => none
  if invert then r.map (!·) else r

/-- Arm the measurement of a transition at a tick of the current cycle with its fine delay (R228); MODE 2 of the
diagnostic needs no CP_EDGE_CFG[0] (R230). -/
def armEdge (c : Cell) (from_ dest : GateState) (iarm : Int) (at_ : Int × Int) (index : Nat) (main : Bool) : Cell :=
  let on := bit (cp c 0x50) 0
  if !(on || c.diagMode = 2) || from_ = dest then c else
  let main := main && on
  let type := 4 * b2n (0 ≤ iarm) + destCode dest
  let te : Int := at_.1 * 32 + at_.2 + (steerLink c).phase + cp c (0x48 + type)
  { c with edgeArms := c.edgeArms ++ [{ te := te, type := type, rising := expectedEdge from_ dest (bit (cp c 0x50) 1)
                                        index := index, cycle := cellCyc c, main := main }] }

/-- A diagnostic result waits for a sub-slot; one that finds another waiting is counted in LOST (R230). -/
def diagPush (c : Cell) (mode : Nat) (rest : Nat) : Cell :=
  if c.diagOut.isEmpty then { c with diagOut := [BitVec.ofNat 160 (mode * 2 ^ 152 + rest)] }
  else { c with diagLost := min 255 (c.diagLost + 1) }

/-- A MODE 2 result: TYPE, INDEX, CYCLE and DEV (R230). -/
def diagDev (c : Cell) (e : EdgeArm) (dev : Nat) : Cell :=
  if c.diagMode = 2 then
    diagPush c 2 (e.type * 2 ^ 136 + e.index * 2 ^ 128 + e.cycle.toNat * 2 ^ 96 + dev * 2 ^ 64)
  else c

/-! Order execution (R166 to R174, R189, R190, R193) -/

/-- The reload of the gate set at LAUNCH (R174): the newest parameter commit completed at least 2 ticks before; each one
completed inside those 2 ticks is late and waits for the next reload. -/
def reload (c : Cell) (launch : Int) (duty : Nat) : Cell :=
  let g := c.gates
  let rel (e : Cycle × Int × GateSet) : Int := e.2.1 + cycleDiff e.1 (cellCyc c) * (steerLink c).clen
  let set := match g.commits.find? (fun e => rel e ≤ launch - 2) with
    | some e => e.2.2
    | none => g.active
  let rest := g.commits.filter fun e => launch - 2 < rel e
  let late := rest.filter fun e => rel e ≤ launch
  { c with gates := { g with active := { set with duty := duty }, pending := { g.pending with duty := duty }, commits := rest }
           cnt := { c.cnt with lateCommit := c.cnt.lateCommit + BitVec.ofNat 32 late.length } }

/-- The acquisition of the quad that follows a tick of the current cycle has begun by it (R202, R219). -/
def quadBegun (c : Cell) (tick : Int) : Bool :=
  let s : Int := cp c 0x08
  let next := if tick < s then s else s + (steerLink c).clen
  next - 625 < tick

/-- Conversion slots of a cycle, the housekeeping slot the last (R203). -/
def slotsJ (c : Cell) : Nat := (cpN c - 673) / 625

/-- Where the primary places the aperture of a conversion triggered at a tick (R205): its tick, whether the quad serves
it, and the slots consumed or skipped. -/
def injPlace (c : Cell) (t : Int) : Int × Bool × List Nat :=
  let s : Int := cp c 0x08
  let len : Int := (steerLink c).clen
  let next := if t ≤ s + 3 then s else s + len
  let prev := next - len
  if next - 625 ≤ t then (next, true, []) else
  let u := t - prev
  if u < 195 then (prev + 515, false, [1]) else
  -- the slot whose acquisition or conversion runs; beyond slot J the primary is free
  let j := ((u - 64) / 625).toNat + 1
  let n := slotsJ c
  let upTo (l : List Nat) := l.filter (· ≤ n)
  if n < j then (t + 320, false, [])
  else if u < 625 * j then
    if j < n && !bit c.meas.cfg 0 then (t + 2, false, [j])
    else (t + 320, false, upTo (if u + 384 ≤ 625 * j + 64 then [j] else [j, j + 1]))
  else (prev + 625 * j + 384, false, upTo [j + 1])

/-- A trigger of an injected conversion (R204, R206); one during self-calibration abandons it (R218), and one in its
start tick goes before it (R215). -/
def injectTrigger (c : Cell) (ov : Bool) (tick : Int) : Cell :=
  let m := c.meas
  let mark (c : Cell) : Cell := { c with meas := { c.meas with injOv := c.meas.injOv || ov, injOrd := c.meas.injOrd || !ov } }
  if m.injOv || m.injOrd then mark c
  else if m.calRun && m.calAt != some (cellCyc c, tick) then
    mark (cellEvent { c with meas := { m with calRun := false, calAt := none, standIn := quadBegun c tick, injAp := none } } 0x42 tick
      (unsigned 24 tick * 2 ^ 20))
  else
    let (ap, quad, lost) := injPlace c tick
    mark { c with meas := { m with calRun := false, injAp := some (cellCyc c, ap, quad), lostSlots := m.lostSlots ++ lost } }

/-- A carry that the executed order does not take is discarded (R173). -/
def discardCarry (c : Cell) (tick : Int) : Cell :=
  if c.gates.carry = 0 then c
  else
    let v := c.gates.carry
    cellEvent { c with gates := { c.gates with carry := 0 } } 0x51 tick (unsigned 24 v * 2 ^ 40)

/-- A trim order at LAUNCH (R168, R171 to R173). -/
def runTrim (c : Cell) (r : OrdRec) (pos : Bool) : Cell :=
  let (t, fine) := placeOf c r
  let take := c.gates.carry ≠ 0 && c.gates.carryPos = pos
  let c0 := if take then c else discardCarry c t
  let carry : Int := if take then c.gates.carry.natAbs else 0
  let n := cpN c
  let w0 : Int := (r.duty * n / 65536 : Nat) + carry
  let wmax : Int := (n : Int) - 2 * c.gates.active.deadtime - 512
  let c1 := if w0 > wmax then cellEvent c0 0x50 t (unsigned 24 w0 * 2 ^ 40 + unsigned 24 wmax * 2 ^ 16) else c0
  let w := if w0 > wmax then wmax else w0
  let dest : GateState := if pos then .insPos else .insNeg
  let c2 := gateTo c1 .bypassed t
  let c2 := { c2 with gates := { c2.gates with base := .bypassed } }
  if w < c.gates.active.deadtime + c.gates.active.minPulse then
    let k := min w c.gates.active.minPulse
    { c2 with gates := { c2.gates with carry := (if pos then k else -k), carryPos := pos } }
  else
    let lead := t + ((n : Int) - w) / 2
    let c3 := { c2 with gates := { c2.gates with carry := 0
                                                 edges := c2.gates.edges ++ [.trim lead dest true, .trim (lead + w) .bypassed false] } }
    let c4 := armEdge c3 .bypassed dest r.iarm (lead, fine) 0 true
    if c4.diagMode = 2 then armEdge c4 dest .bypassed r.iarm (lead + w, fine) 1 false else c4

/-- A record executed at LAUNCH acts on the gate outputs (R167, R168, R189). -/
def runRecord (c : Cell) (r : OrdRec) (fillSrc : Bool) : Cell :=
  let (t, fine) := placeOf c r
  let c := reload c t r.duty
  let was := c.gates.state
  let goto (c : Cell) (d : GateState) : Cell :=
    let c := discardCarry c t
    let c := gateTo c d t
    let c := { c with gates := { c.gates with base := d } }
    armEdge c was d r.iarm (t, fine) 0 true
  let unblock (c : Cell) : Cell := if r.act = 4 then c else { c with gates := { c.gates with blocked := false } }
  let c := unblock c
  let c := match r.act with
    | 1 => goto c .bypassed
    | 2 => goto c .insPos
    | 3 => goto c .insNeg
    | 4 => let c := goto c .blocked; { c with gates := { c.gates with blocked := true } }
    | 5 => runTrim c r true
    | 6 => runTrim c r false
    | _ => discardCarry c t
  let c := { c with mode := .active, executed := true
                    run := { c.run with echo := r.seq, src := if fillSrc then .fill else .holder, fill := fillSrc
                                        inject := r.flags.getLsbD 3 }
                    cnt := if fillSrc then { c.cnt with fill := wrapInc c.cnt.fill } else c.cnt }
  if r.flags.getLsbD 3 then injectTrigger c false t else c

/-- A BLOCK that ARM_BLOCKED forces from a frame whose record the lease rules did not select (R166, R169). An executable
order of the holder ends SAFE_BYPASS all the same (R193). -/
def forceBlock (c : Cell) (q : OrdRec) : Cell :=
  let (t, _) := placeOf c q
  let own := c.sel.isSome && !c.selFill
  let c := becomeBlocked (discardCarry (reload c t q.duty) t) t
  { c with executed := true, run := { c.run with echo := 0, src := .safe }
           mode := if c.mode = .safeBypass && !own then .safeBypass else .active }

/-- Keep what an order finds, for a block on its tick (R59). -/
def noteUndo (c : Cell) (t : Int) : Cell :=
  { c with undo := some { tick := t, mode := c.mode, gates := c.gates, meas := c.meas, cnt := c.cnt, events := c.events
                          evtSeq := c.evtSeq, lostDue := c.lostDue, edgeArms := c.edgeArms } }

/-- ORDER_EXECUTE (R166, R167): the selected record, the forced block, or nothing. -/
def orderExecute (_vcap : Int) (c : Cell) : Cell :=
  if c.executed then c else
  if c.variant = .node then
    match c.sel with
    | some r => if c.mode = .ready && timeQual c then { c with executed := true, run := { c.run with echo := r.seq, src := .holder } } else c
    | none => c
  else if !(outputsLive c && stageOk c && timeQual c) then c
  else if c.mode = .safeBypass && faulted c then { c with withheld := true }
  else
    -- a fill order does not end SAFE_BYPASS (R193); a higher cause on the tick itself comes first (R59, R182)
    let free (r : OrdRec) : Bool := c.preempt != some (placeOf c r).1
    let run (r : OrdRec) : Cell := if free r then runRecord (noteUndo c (placeOf c r).1) r c.selFill else c
    let force (q : OrdRec) : Cell := if free q then forceBlock (noteUndo c (placeOf c q).1) q else c
    match (if c.selFill && c.mode = .safeBypass then none else c.sel), c.forced with
    | some r, none => run r
    | some r, some q => if r.forced then run r else force q
    | none, some q => force q
    | none, none => c

/-- TRIM_EDGE: the next placed transition of a trim pulse (R172). -/
def trimEdgeFire (c : Cell) : Cell :=
  match c.gates.edges.find? (fun e => match e with | .trim .. => true | _ => false) with
  | some (.trim t d lead) =>
    let c := { c with gates := { c.gates with edges := c.gates.edges.erase (.trim t d lead) } }
    if c.gates.state = .blocked then c else gateTo c d t
  | _ => c

/-- Tick of the next dead time to expire. -/
def nextTurnOn (es : List GateEdge) : Option Int :=
  es.foldl (fun a e => match e with
    | .turnOn t _ => some (match a with | some b => min b t | none => t)
    | _ => a) none

/-- DEADTIME_EXPIRE: the incoming gates whose dead time ends first turn on (R171). -/
def deadtimeFire (c : Cell) : Cell :=
  match nextTurnOn c.gates.edges with
  | none => c
  | some t =>
    let due := c.gates.edges.filterMap fun e => match e with | .turnOn u i => if u = t then some i else none | _ => none
    let lv := due.foldl (fun m i => m ||| (1#4 <<< i)) c.gates.g
    let g := noteLevels (cp c 0x1C) c.gates (lv &&& ~~~(faultMask c.gates)) t
    { c with gates := { g with edges := g.edges.filter fun e => match e with | .turnOn u _ => u != t | _ => true } }

/-- CELL_CYCLE_END (R169, R188, R305): lease, hold count, report. -/
def cycleEnd (c : Cell) : Cell :=
  let c := leaseDecide true c
  -- an unrenewed lease
  let c := if c.holder != .none && !c.renewed then
      let lc := c.lc - 1
      if lc = 0 then resteer { c with lc := 0, holder := .none, cnt := { c.cnt with leaseChanges := wrapInc c.cnt.leaseChanges } }
      else { c with lc := lc }
    else c
  let cy := cellCyc c
  let lateHere := c.la.late.any (· = cy) || c.lb.late.any (· = cy)
  let none_ := !c.executed
  let end_ : Int := (steerLink c).clen
  let c := if none_ && c.variant != .node then discardCarry c end_ else c
  let c := if none_ && receives c then
      { c with holdCount := c.holdCount + 1, cnt := { c.cnt with hold := wrapInc c.cnt.hold } } else { c with holdCount := 0 }
  let c := if lateHere then { c with cnt := { c.cnt with lateOrder := wrapInc c.cnt.lateOrder } } else c
  let c := if none_ && c.mode = .active && !c.gates.blocked then { c with mode := .hold } else c
  let has (x : CLink) : Bool := x.frames.any fun f => f.cycle = cy
  let safeSrc := (c.preempt.isSome && (c.sel.isSome || c.forced.isSome)) || c.withheld || (c.mode = .safeBypass && faulted c && none_)
  let rep := { c.run with
    cycle := cy, late := lateHere, la := has c.la, lb := has c.lb
    echo := if none_ then 0 else c.run.echo
    src := if none_ then (if safeSrc then .safe else .nothing) else c.run.src
    fill := !none_ && c.run.fill
    inject := !none_ && c.run.inject
    edge := if c.run.edge = -2048 then -2048 else c.run.edge }
  { c with report := rep, run := {}, sel := none, selFill := false, forced := none }

/-- HOLD_LIMIT (R188): BYPASSED from tick 0 of the next cycle, SAFE_BYPASS, and the event. -/
def holdLimitHit (c : Cell) : Cell :=
  if c.mode = .hold && c.holdCount ≥ cp c 0x12 && !c.gates.blocked then
    let c := gateTo (cutTrim c) .bypassed 0
    let h := match c.holder with | .none => 0 | .x => 1 | .y => 2
    cellEvent { c with mode := .safeBypass } 0x20 0 (cp c 0x12 * 2 ^ 56 + h * 2 ^ 54)
  else c

/-! Protection (R176 to R184) -/

/-- OV1_TRIP (R176, R182). In a state whose outputs hold the safe pattern (R185) they keep it (DEDUCED, assumption 76). -/
def ov1 (tick : Int) (vcap : Int) (c : Cell) : Cell :=
  if c.variant = .node || !(receives c) || cp c 0x18 = 0 || c.gates.ovHeld || vcap ≤ (cp c 0x18 : Int) * 1000 then c
  else
    let c := { c with gates := { c.gates with ov := true, ovHeld := true }, cnt := { c.cnt with ov := wrapInc c.cnt.ov }
                      thermal := { c.thermal with ovTotal := min 65535 (c.thermal.ovTotal + 1) } }
    let live := outputsLive c
    let c := if live then { gateTo (cutTrim c) .bypassed tick with preempt := some tick } else c
    injectTrigger (toSafeBypass c) true tick

/-- OV2_TRIP (R177, R182, R612): BYP high until power removal. -/
def ov2 (tick : Int) (vcap : Int) (c : Cell) : Cell :=
  if c.variant = .node || c.mode = .unpowered || c.mode = .fuseLoad || c.mode = .eepromLoad || c.gates.latched
      || cp c 0x19 = 0 || vcap ≤ (cp c 0x19 : Int) * 1000 then c
  else
    let c := gateTo (cutTrim c) .bypassed tick
    let c := { c with gates := { c.gates with byp := true, latched := true }, preempt := some tick
                      thermal := { c.thermal with due := true, latchTotal := min 65535 (c.thermal.latchTotal + 1) } }
    if c.mode = .frozen then c
    else cellEvent { c with mode := .bypassLatched } 0x02 tick (c.meas.injResult * 2 ^ 44)

/-- The input of a DSAT fault at a tick has been high for CP_DSAT_FILTER ticks since the blanking of its switch ended (R179). -/
def dsatCounts (c : Cell) (input : Nat) (tick : Int) : Bool :=
  (c.gates.blankTo.getD input none).all fun b => b + cp c 0x1D ≤ tick

/-- DSAT_FAULT (R179, R182): input 0 is DSAT1. -/
def dsatHit (input : Nat) (tick : Int) (c : Cell) : Cell :=
  if c.variant = .node || !receives c || (c.variant = .half && 2 ≤ input) || 4 ≤ input || !dsatCounts c input tick then c
  else
    let pairB := 2 ≤ input
    let g := c.gates
    let g := { g with offA := g.offA || !pairB, offB := g.offB || pairB, dsat := true }
    let off := g.g &&& ~~~(pairMask pairB)
    let g := noteLevels (cp c 0x1C) g off tick
    let g := { g with edges := g.edges.filter fun e => match e with | .turnOn _ i => !(pairMask pairB).getLsbD i | .trim .. => false }
    let c := { c with gates := g, cnt := { c.cnt with dsat := wrapInc c.cnt.dsat }
                      thermal := { c.thermal with dsatTotal := min 65535 (c.thermal.dsatTotal + 1) } }
    let live := outputsLive c
    let c := cellEvent c 0x03 tick (2 ^ (60 + input))
    let c := if live then { c with preempt := some tick } else c
    let c := if live && !c.gates.blocked then gateTo c .bypassed tick else c
    toSafeBypass c

/-- Stage from the VSTG comparators and GDPG (R183). -/
def stageOf (v4 v8 gdpg : Bool) : Nat := if v8 && gdpg then 2 else if v4 then 1 else 0

/-- A change of the supply inputs: the stage, its event, and what a fall out of STAGE2 does (R183, R184). -/
def setSupply (v4 v8 gdpg : Bool) (tick : Int) (c : Cell) : Cell :=
  if c.mode = .unpowered then c else
  let new := stageOf v4 v8 gdpg
  let old := c.stage
  let c := { c with vstg4 := v4, vstg8 := v8, gdpg := gdpg, stage := new }
  if new = old || c.mode = .frozen then c else
  -- the first fall to STAGE0 that comes 60 s after the last write asks for an entry (R239)
  let th := c.thermal
  let c := if new = 0 && !th.fell && 60 ≤ (th.uptime - th.lastWrite).toNat then { c with thermal := { th with due := true, fell := true } } else c
  let c := cellEvent c 0x30 tick (old * 2 ^ 62 + new * 2 ^ 60 + b2n gdpg * 2 ^ 59)
  let c := if old = 2 && new < 2 && receives c && c.variant != .node && c.mode != .bypassLatched then
      { safePattern c tick with mode := if outputsLive c then .configured else c.mode, preempt := if outputsLive c then some tick else c.preempt }
    else c
  settle tick c

/-! Meanings -/

def execLeaseDecision (s : State) : Host.Outcome State Fault Refusal := onCell s (leaseDecide false)
def execOrderExecute (vcap : Int) (s : State) : Host.Outcome State Fault Refusal := onCell s (orderExecute vcap)
def execTrimEdge (s : State) : Host.Outcome State Fault Refusal := onCell s trimEdgeFire
def execDeadtimeExpire (s : State) : Host.Outcome State Fault Refusal := onCell s deadtimeFire
def execCellCycleEnd (s : State) : Host.Outcome State Fault Refusal := onCell s cycleEnd
def execHoldLimit (s : State) : Host.Outcome State Fault Refusal := onCell s holdLimitHit
def execOv1Trip (tick : Nat) (vcap : Int) (s : State) : Host.Outcome State Fault Refusal := onCell s (ov1 tick vcap)
def execOv1Rearm (s : State) : Host.Outcome State Fault Refusal :=
  onCell s fun c => { c with gates := { c.gates with ovHeld := false } }
def execOv2Trip (tick : Nat) (vcap : Int) (s : State) : Host.Outcome State Fault Refusal := onCell s (ov2 tick vcap)
/-- FAULT_UV follows the capacitor voltage in millivolts: set below CP_UV, cleared from CP_OV_HYST above it (R178; DEDUCED,
assumption 78). -/
def uvNow (c : Cell) (vcap : Int) : Bool :=
  let u : Int := (cp c 0x1B : Int) * 1000
  if vcap < u then true else if u + (cp c 0x1A : Int) * 1000 ≤ vcap then false else c.gates.uv

/-- The voltage has crossed a threshold of FAULT_UV; no output changes (R178). -/
def execUvChange (vcap : Int) (s : State) : Host.Outcome State Fault Refusal :=
  onCell s fun c => if c.variant = .node || !receives c then c else { c with gates := { c.gates with uv := uvNow c vcap } }
def execDsatFault (input : Nat) (tick : Nat) (s : State) : Host.Outcome State Fault Refusal := onCell s (dsatHit input tick)
/-- GDPG low for 100 ns (R180). -/
def execGdpgLow (tick : Nat) (s : State) : Host.Outcome State Fault Refusal :=
  onCell s fun c => setSupply c.vstg4 c.vstg8 false tick c
/-- GDPG high again (R183). -/
def execGdpgHigh (s : State) : Host.Outcome State Fault Refusal :=
  onCell s fun c => setSupply c.vstg4 c.vstg8 true 0 c
/-- VSTG has risen to `mv` millivolts for 10 µs (R183). -/
def execVstgRise (mv : Nat) (s : State) : Host.Outcome State Fault Refusal :=
  onCell s fun c => setSupply (c.vstg4 || 400 ≤ mv) (c.vstg8 || 800 ≤ mv) c.gdpg 0 c
/-- VSTG has fallen to `mv` millivolts for 1 µs; the 20 mV of hysteresis lie below each threshold (R183, R184; DEDUCED,
assumption 78). -/
def execVstgFall (mv : Nat) (tick : Nat) (s : State) : Host.Outcome State Fault Refusal :=
  onCell s fun c => setSupply (c.vstg4 && 380 ≤ mv) (c.vstg8 && 780 ≤ mv) c.gdpg tick c

end Sys2Proof.Machine
end

