-- ==== Sys2Proof/Machine/CellTime.lean ====
section
/-! DEFINITION. Time at the cell: cycle starts (R110, R123, R157 to R159, R198, R596), the thermal
model and rainflow counting (R231 to R234), clock core and loss of signal (R152 to R154, R160,
R163 to R165, R192), power-up and loading (R170, R186, R187, R235 to R238, R552, R553, R630). -/

namespace Sys2Proof.Machine

/-! Thermal model and wear (R231 to R234) -/

/-- Positions of the thermal model: one per gate of a power cell (R231). -/
def positions : Variant → Nat
  | .half => 2
  | .full => 4
  | .node => 0

def f32Of (n : Nat) : F32 := BitVec.ofNat 32 n

/-- |I| in amperes from IARM codes of 1 mA (R109, R231). -/
def ampsOf (i : Int) : F32 := B32.ofRat i.natAbs 1000

/-- T_cyc = N × 0.8 ns in seconds (R231). -/
def tCyc (n : Nat) : F32 := B32.ofRat (n * 8) 10000000000

/-- P of one position (R231): conduction for its on-time, and its outgoing transitions. -/
def lossP (c : Cell) (p : Nat) : F32 :=
  let i := ampsOf c.thermal.iarm
  let v0 := f32Of (cp c 0x60)
  let ron := f32Of (cp c 0x61)
  let frac := B32.ofRat (c.gates.onTicks.getD p 0) (max 1 (cpN c))
  let cond := B32.mul (B32.add (B32.mul v0 i) (B32.mul ron (B32.mul i i))) frac
  let vcap := f64to32 c.meas.vcap
  let esw := B32.mul (B32.mul (f32Of (cp c 0x62)) (B32.div i (f32Of (cp c 0x63)))) (B32.div vcap (f32Of (cp c 0x64)))
  let sw := B32.mul (B32.ofInt (c.gates.switched.getD p 0)) esw
  B32.add cond (B32.div sw (tCyc (cpN c)))

/-- One evaluation of the model for a position (R232). -/
def thermStep (c : Cell) (p : Nat) : List F32 :=
  let pw := lossP c p
  let z := c.thermal.z.getD p []
  (List.range 4).map fun i =>
    let a := exp32 (B32.neg (B32.div (tCyc (cpN c)) (f32Of (cp c (0x5C + i)))))
    B32.add (B32.mul a (z.getD i 0)) (B32.mul (B32.mul (B32.sub 0x3F800000#32 a) (f32Of (cp c (0x58 + i)))) pw)

/-- Bin of a range in kelvin; none below 2 K (R233). -/
def rfBin (r : F32) : Option Nat :=
  let from_ := [2, 5, 10, 15, 20, 30, 40, 60].filter fun (k : Int) => B32.le (B32.ofInt k) r
  if from_.isEmpty then none else some (from_.length - 1)

/-- The magnitude of a difference of temperatures. -/
def rangeOf (a b : F32) : F32 := B32.abs (B32.sub a b)

/-- Add `k` counts of a range to its bin, and the damage of those counts (R233, R234). -/
def rfCount (c : Cell) (r : F32) (k : Nat) : Cell :=
  match rfBin r with
  | none => c
  | some b =>
    let t := c.thermal
    let d := t.damage.toNat + k * cp c (0x68 + b)
    { c with thermal := { t with
        bins := t.bins.set b (t.bins.getD b 0 + BitVec.ofNat 32 k)
        damage := BitVec.ofNat 64 (min d (2 ^ 64 - 1)) } }

/-- Close inner ranges by the four-point method, newest first on the stack (R233). -/
def fourPoint : Nat → Cell → Cell
  | 0, c => c
  | n + 1, c =>
    match c.thermal.stack with
    | p4 :: p3 :: p2 :: p1 :: r =>
      let inner := rangeOf p3 p2
      if B32.le inner (rangeOf p2 p1) && B32.le inner (rangeOf p4 p3) then
        fourPoint n (rfCount { c with thermal := { c.thermal with stack := p4 :: p1 :: r } } inner 2)
      else c
    | _ => c

/-- A turning point enters the stack of 32; when it is full the two oldest count as a half cycle (R233). -/
def turningPoint (c : Cell) (v : F32) : Cell :=
  let c := if c.thermal.stack.length ≥ 32 then
      match c.thermal.stack.reverse with
      | a :: b :: _ => rfCount { c with thermal := { c.thermal with stack := c.thermal.stack.take 30 } } (rangeOf a b) 1
      | _ => c
    else c
  fourPoint 16 { c with thermal := { c.thermal with stack := v :: c.thermal.stack } }

/-- tj_max moves: a reversal by more than CP_RF_HYST accepts the extreme as a turning point (R233). -/
def rainflow (c : Cell) (tj : F32) : Cell :=
  let t := c.thermal
  match t.extreme with
  | none => { c with thermal := { t with extreme := some tj } }
  | some e =>
    let further := if t.rising then B32.le e tj else B32.le tj e
    if further then { c with thermal := { t with extreme := some tj } }
    else if B32.lt (B32.ofRat (cp c 0x71) 64) (rangeOf tj e) then
      turningPoint { c with thermal := { t with extreme := some tj, rising := !t.rising } } e
    else c

/-- Close the on-times of the running cycle at its length, and open the next (R231). -/
def closeOn (g : Gates) (len : Int) : Gates :=
  { g with onTicks := withIdx g.onTicks |>.map fun (i, t) => if g.g.getLsbD i then t + (len - (g.onSince.getD i none).getD 0) else t }

def openOn (g : Gates) : Gates :=
  { g with onTicks := [0, 0, 0, 0], switched := [0, 0, 0, 0]
           onSince := (List.range 4).map fun i => if g.g.getLsbD i then some 0 else none }

/-- THERMAL_MODEL_UPDATE: once per cycle (R231 to R234). -/
def thermalUpdate (c : Cell) (len : Nat) : Cell :=
  let c := { c with gates := closeOn c.gates len }
  let n := positions c.variant
  if n = 0 then { c with gates := openOn c.gates } else
  let z := (List.range 4).map fun p => if p < n then thermStep c p else c.thermal.z.getD p []
  let ntc := B32.ofRat c.meas.tempNtc 64
  let tjs := (List.range n).map fun p => (z.getD p []).foldl B32.add ntc
  let top := tjs.foldl (fun a b => if B32.lt a b then b else a) (tjs.headD ntc)
  let c := { c with thermal := { c.thermal with z := z, tj := top }, gates := openOn c.gates }
  if B32.finite top then rainflow c top else c

/-! Cycle start (R110, R158, R159) -/

/-- One link at its cycle start: keys, coasting, offsets, the new placement, withdrawal. -/
def linkCycle (n : Nat) (x : CLink) : CLink × Bool :=
  let had := x.frames.any fun f => f.cycle = x.cyc
  let coast := if had then 0 else x.coast + 1
  let new := x.cyc + 1
  let len := match x.nextLen with
    | some (cy, l) => if cy = new then l else x.clen
    | none => x.clen
  let adj := x.adj
  -- offsets whose cycle starts move the start by the change of DN_OFS, as a step (R158)
  let (dn, up, pend) := match x.pendOfs with
    | some (cy, d, u) => if reached new cy then (d, u, none) else (x.dnOfs, x.upOfs, x.pendOfs)
    | none => (x.dnOfs, x.upOfs, none)
  let step : Int := (x.dnOfs : Int) - dn
  let session := if new.toNat % rollPeriod n = 0 then x.session.map fun k => nextSession k new else x.session
  let lost := coast ≥ 2 && x.qual
  let leave := (x.giveUp.any fun cy => reached new cy)
  ({ setCyc x new with
      clen := len, phase := (((x.phase : Int) + adj + step) % 32).toNat, adj := 0
      coast := coast, silent := if x.seen then 0 else x.silent + 1, seen := false
      dnOfs := dn, upOfs := up, pendOfs := pend, session := session
      qual := x.qual && !lost, first := if lost then none else x.first
      since := if lost then 0 else x.since, deltas := if lost then [] else x.deltas
      nakWait := x.nakWait.map (· - 1)
      exch := x.exch.map fun e => { e with idle := e.idle + 1 }
      trips := x.trips.filter fun t => cycleDiff new t < 256
      subs := x.subs.filter fun s => cycleDiff new s.1 < s.2.2 }, leave)

/-- CELL_CYCLE_START (R110, R158, R159, R198, R231 to R233, R596). -/
def cellCycleStart (c : Cell) : Cell :=
  if !receives c then c else
  let len := (steerLink c).clen
  let c := thermalUpdate c len
  let (a, la) := linkCycle (cpN c) c.la
  let (b, lb) := linkCycle (cpN c) c.lb
  let c := { c with la := a, lb := b }
  let c := if la then linkToListen c .la else c
  let c := if lb then linkToListen c .lb else c
  let c := applyStaged c (cellCyc c)
  -- armed edges whose window ended bring no edge (R229, R230)
  let c := c.edgeArms.foldl (fun c e => if e.te - (len : Int) * 32 < -8192 then diagDev c e 0x80000000 else c) c
  let t := c.thermal
  let sub := t.subTicks + len
  let sec := sub / 1250000000
  let shift (e : GateEdge) : GateEdge := match e with
    | .turnOn k g => .turnOn (k - len) g
    | .trim k d l => .trim (k - len) d l
  let c := { c with
    decided := false, renewed := false, executed := false, preempt := none, undo := none, withheld := false
    steerPref := cp c 0x06
    sel := none, selFill := false, forced := none
    thermal := { t with subTicks := sub % 1250000000, uptime := t.uptime + BitVec.ofNat 32 sec
                        uptimeTotal := t.uptimeTotal + BitVec.ofNat 32 sec }
    bypassCycles := if c.bypass then satInc c.bypassCycles else c.bypassCycles
    gates := { c.gates with edges := c.gates.edges.map shift, blankTo := c.gates.blankTo.map fun b => b.map (· - (len : Int)) }
    edgeArms := (c.edgeArms.map fun e => { e with te := e.te - (len : Int) * 32 }).filter fun e => -8192 ≤ e.te
    meas := { c.meas with calAge := c.meas.calAge.map (· + 1) } }
  settle 0 (resteer c)

/-- LINK_SILENCE_LISTEN (R123): 64 cycles without a fully checked frame. -/
def linkSilence (l : Link) (c : Cell) : Cell :=
  if (getLink c l).silent ≥ 64 then linkToListen c l else c

/-! Signal and clocks -/

/-- The steering link is dark, and the other is no qualified alternative that receives (R163). -/
def noReference (c : Cell) : Bool :=
  let o := getLink c (otherLink c.steer)
  !(steerLink c).signal && !(o.qual && o.signal)

/-- LOSS_OF_SIGNAL (R163, R164, R101): the loss of the reference is holdover in PLL mode, the bypass oscillator in DLL mode. -/
def lossOfSignal (l : Link) (tick : Int) (c : Cell) : Cell :=
  if c.mode = .unpowered then c else
  let c := modLink c l fun x => { x with signal := false, darkAt := if x.signal then some (x.cyc, tick) else x.darkAt }
  let c := if (getLink c l).mode = .joining then linkToListen c l else c
  if !receives c then c
  else
    let c := resteer c
    if c.dll && noReference c then goBypass c 2 tick else c

/-- CP_HOLDOVER has passed at a tick since the steering link's loss was declared (R163). -/
def holdoverOver (c : Cell) (tick : Int) : Bool :=
  let x := steerLink c
  x.darkAt.any fun (cy, t) => (cp c 0x05 : Int) ≤ cycleDiff x.cyc cy * x.clen + tick - t

/-- CELL_HOLDOVER_EXPIRE (R163): the signal has not returned within CP_HOLDOVER. -/
def holdoverExpire (tick : Int) (c : Cell) : Cell :=
  if receives c && noReference c && holdoverOver c tick then goBypass c 2 tick else c

/-- SIGNAL_RETURN (R165): the CDR locks; during holdover the link simply continues. -/
def signalReturn (l : Link) (c : Cell) : Cell :=
  if c.mode = .unpowered then c else
  resteer (modLink c l fun x => { x with signal := true, darkAt := none })

/-- CLOCK_LOCK (R152, R165): the clock core takes over from the bypass oscillator; the waiting
CLOCK_BYPASS record takes the cycles spent on it (R164, R588). -/
def clockLock (c : Cell) : Cell :=
  if c.mode = .unpowered || c.mode = .fuseLoad || c.mode = .eepromLoad || c.mode = .frozen then c else
  let evs := c.events.map fun e =>
    if e.code = 0x10 && c.bypass then
      { e with detail := BitVec.ofNat 64 (fld e.detail.toNat 63 56 * 2 ^ 56 + c.bypassCycles.toNat * 2 ^ 24) } else e
  settle 0 (resteer { c with locked := true, bypass := false, events := evs })

/-- CLOCK_LOCK_LOST (R153, R164): the outputs are gated off and the bypass oscillator takes over; a link that was joining
on that clock returns to LISTEN (R101; DEDUCED, assumption 91). -/
def clockLost (tick : Int) (c : Cell) : Cell :=
  if !receives c then c else
  let l := c.steer
  let c := goBypass c 1 tick
  if (getLink c l).mode = .joining then linkToListen c l else c

/-- STEERING_CHANGE (R154, R160, R192): the timebase moves to the chosen link at its tick 0. -/
def steeringChange (delta : Int) (c : Cell) : Cell :=
  match c.steerNext with
  | none => c
  | some l =>
    let c := { c with steer := l, steerNext := none }
    let c := if delta.natAbs > 100 then
        let c := cellEvent c 0x11 0 (unsigned 32 delta * 2 ^ 32 + b2n (l = .lb) * 2 ^ 31)
        let c := { c with cnt := { c.cnt with phaseJump := wrapInc c.cnt.phaseJump } }
        modLink c l fun x => { x with qual := false, since := 0, deltas := [] }
      else c
    -- a relock of the DLL: neither link time serves until it has qualified again (R192)
    if c.dll then
      let dark (x : CLink) : CLink := { x with qual := false, first := none }
      let c := goBypass c 3 0
      resteer { c with la := dark c.la, lb := dark c.lb }
    else resteer c

/-! Power and loading -/

/-- The transmitter latch and hold of a link, which only TX_ENABLE or power removal ends (R104, R105). -/
def keptTx (x : CLink) : CLink := { latched := x.latched, txHold := x.txHold }

/-- The cell as its loads begin (R186). What survives power-off: fuses, nonvolatile levels, board inputs. A reset with
VDD up (R630) also keeps the transmitter latches and the ring slots found bad (R104, R105, R239). -/
def coldCell (c : Cell) (mode : CellMode) (vddUp : Bool) : Cell :=
  { la := if vddUp then keptTx c.la else {}, lb := if vddUp then keptTx c.lb else {}
    thermal := if vddUp then { bad := c.thermal.bad, fails := c.thermal.fails, stopped := c.thermal.stopped } else {}
    fuseA := c.fuseA, fuseB := c.fuseB, mode := mode
    patch := c.patchNext, patchNext := c.patchNext, patchBank := if c.patchNext = c.patch then c.patchBank else 1 - c.patchBank
    gdpg := c.gdpg, vstg4 := c.vstg4, vstg8 := c.vstg8
    stage := stageOf c.vstg4 c.vstg8 c.gdpg, evtSeq := 0
    gates := { driven := mode != .unpowered, bypDriven := mode != .unpowered } }

/-- CELL_FUSE_LOADED (R552, R553): a bad CRC or a reserved VARIANT keeps the cell in FUSE_LOAD. -/
def fuseLoaded (c : Cell) : Cell :=
  if c.mode ≠ .fuseLoad then c else
  let n := (c.fuseA ||| c.fuseB).toNat
  let v := match fld n 287 280 with
    | 1 => some Variant.half
    | 2 => some Variant.full
    | 3 => some Variant.node
    | _ => none
  if fld n 639 608 ≠ crc32c (toBE 76 (fld n 607 0)) then c else
  match v with
  | some v =>
    safePattern { c with mode := .eepromLoad, variant := v
                         gates := { c.gates with bypDriven := v != .node }
                         meas := { c.meas with gCal := signed 24 (fld n 255 232), gUse := signed 24 (fld n 255 232) } } 0
  | none => c

/-- A block of the board EEPROM is valid when MAGIC, LAYOUT and CRC are correct (R237). -/
def identityOk (b : List Byte) : Bool :=
  beAt b 0 4 = 0x515A4549 && byteAt b 4 = 1 && beAt b 244 4 = crc32c (b.take 244)

def calibrationOk (b : List Byte) : Bool :=
  beAt b 0 4 = 0x515A4543 && byteAt b 4 = 1 && beAt b 252 4 = crc32c (b.take 252)

/-- The newest ring entry with a correct CRC, by descending ENTRY_SEQ modulo 2^32 (R238). -/
def bestEntry (es : List (Nat × List Byte)) : Option (Nat × List Byte) :=
  es.foldl (fun a e =>
    if beAt e.2 60 4 ≠ crc32c (e.2.take 60) then a
    else match a with
      | none => some e
      | some q => if 0 < cycleDiff (BitVec.ofNat 32 (beAt e.2 0 4)) (BitVec.ofNat 32 (beAt q.2 0 4)) then some e else a) none

/-- The device's contents: what stands in State, or as the board was fitted while nothing does (R236). -/
def boardMem (img : EepromImage) (m : Mem) : Mem :=
  if m.isEmpty then img.bytes.foldl (fun m p => Mem.write 0xFF p.1 p.2 m) [] else m

/-- CELL_EEPROM_LOADED (R151, R235 to R238): blocks loaded or defaulted, the ring restored. The cell tries 2-byte
addressing and accepts it if the MAGIC reads correctly; bytes read under the addressing that the device does not take are
free (R235; DESIGN CHOICE, assumption 85). -/
def eepromLoaded (st : Stores) (img : EepromImage) (c : Cell) : Cell :=
  if c.mode ≠ .eepromLoad then c else
  let m := boardMem img st.eeprom
  let narrow := img.present && !img.wide && beNat (Mem.readList 0xFF 0 4 m) = 0x515A4549
  let rd (a n : Nat) : List Byte :=
    if !img.present then zeros n
    else if img.wide == !narrow then Mem.readList 0xFF a n m
    else (List.range n).map fun i => Config.freeByte 2 (a + i)
  let idb := rd 0 256
  let cal := rd 0x100 256
  let idOk := identityOk idb
  let calOk := calibrationOk cal
  let pllOk := byteAt idb 248 ≤ 1 && byteAt idb 249 = 255 - byteAt idb 248
  let pll := idOk && pllOk && byteAt idb 248 = 1
  let w (a : Nat) : F32 := f32Of (beAt cal a 4)
  let size := byteAt idb 5
  let slots := if idOk then ((8192 <<< size) - 512) / 64 else 0
  let entries := (List.range slots).map fun i => (i, rd (0x200 + 64 * i) 64)
  let best := bestEntry entries
  let d : Board := {}
  let board : Board :=
    if calOk then
      { d with calOk := true, kDiv0 := w 8, ofs0 := w 12, kDiv1 := w 16, ofs1 := w 20, ntcRnom := w 24, ntcB := w 28
               ntcRbias := w 32, gdScale := w 36, priGain := w 40, priOfs := w 44, chkGain := w 48, chkOfs := w 52 }
    else d
  let board := if idOk then
      { board with idOk := true, sizeCode := size, pageLog2 := byteAt idb 6, cellId := beAt idb 8 2
                   endurance := beAt idb 12 4, addr3 := !narrow }
    else { board with addr3 := !narrow }
  let t : Thermal := { bad := c.thermal.bad, fails := c.thermal.fails, stopped := c.thermal.stopped }
  let t := match best with
    | some (i, e) =>
      { t with seq := BitVec.ofNat 32 (beAt e 0 4), uptimeTotal := BitVec.ofNat 32 (beAt e 4 4)
               damage := BitVec.ofNat 64 (beAt e 8 8)
               bins := (List.range 8).map fun b => BitVec.ofNat 32 (beAt e (16 + 4 * b) 4)
               ovTotal := beAt e 48 2, dsatTotal := beAt e 50 2, latchTotal := beAt e 52 2
               powerOns := beAt e 54 2, next := (i + 1) % slots, hasEntry := true }
    | none => t
  let t := { t with slots := slots, powerOns := min 65535 (t.powerOns + 1) }
  let c := { c with
    mode := .listen, board := board, dll := pll, thermal := t
    params := tset 2 (if pll then 3 else 0) c.params
    steerPref := cp c 0x06
    writes := (if st.eeprom.isEmpty then img.bytes.map (fun p => ⟨.eeprom, p.1, [p.2]⟩) else []) ++ c.writes }
  if calOk && idOk && pllOk then c
  else if !idOk || !calOk || !pllOk then
    cellEvent c 0x70 0 (b2n (!idOk) * 2 ^ 63 + b2n (!calOk) * 2 ^ 62 + b2n (!pllOk) * 2 ^ 61)
  else c

/-! Meanings -/

def execCellCycleStart (s : State) : Host.Outcome State Fault Refusal := onCell s (noteOk 0 cellCycleStart)
def execLinkSilenceListen (link : Link) (s : State) : Host.Outcome State Fault Refusal := onCell s (noteOk 0 (linkSilence link))
def execLossOfSignal (link : Link) (tick : Int) (s : State) : Host.Outcome State Fault Refusal := onCell s (noteOk tick (lossOfSignal link tick))
def execCellHoldoverExpire (tick : Int) (s : State) : Host.Outcome State Fault Refusal := onCell s (noteOk tick (holdoverExpire tick))
def execSignalReturn (link : Link) (s : State) : Host.Outcome State Fault Refusal := onCell s (signalReturn link)
def execClockLock (s : State) : Host.Outcome State Fault Refusal := onCell s (noteOk 0 clockLock)
def execClockLockLost (tick : Int) (s : State) : Host.Outcome State Fault Refusal := onCell s (noteOk tick (clockLost tick))
def execSteeringChange (delta : Int) (s : State) : Host.Outcome State Fault Refusal := onCell s (noteOk 0 (steeringChange delta))
/-- CELL_POWER_ON (R170, R186, R187). -/
def execCellPowerOn (s : State) : Host.Outcome State Fault Refusal :=
  onCell s fun c => if c.mode = .unpowered then coldCell c .fuseLoad false else c
/-- CELL_POWER_OFF (R187): from any state, outputs high impedance; the latch, the freeze and every volatile value end. -/
def execCellPowerOff (s : State) : Host.Outcome State Fault Refusal :=
  onCell s fun c => { coldCell c .unpowered false with vstg4 := false, vstg8 := false, gdpg := false, stage := 0 }
def execCellFuseLoaded (s : State) : Host.Outcome State Fault Refusal := onCell s fuseLoaded
def execCellEepromLoaded (image : EepromImage) (s : State) : Host.Outcome State Fault Refusal := onCell s (eepromLoaded s.mem image)
/-- CELL_NRST (R630): ignored while BYP is latched and while the cell is frozen. -/
def execCellNrst (s : State) : Host.Outcome State Fault Refusal :=
  onCell s fun c => if c.mode = .unpowered || c.mode = .frozen || c.gates.latched then c else coldCell c .fuseLoad true

end Sys2Proof.Machine
end

