-- ==== Sys2Proof/Machine/CellMeas.lean ====
section
/-! DEFINITION. Measurement at the cell: conversions and reported values (R199 to R213), injected
conversions (R204 to R207), self-calibration (R214 to R219), housekeeping (R221, R222), measurement
nodes (R223 to R225), edges (R228 to R230), wear history (R239, R240). -/

namespace Sys2Proof.Machine

/-! From codes to values (R208, R209) -/

def k64 (n : Int) (d : Nat) : F64 := B64.ofRat n d

/-- 1 + x in binary64. -/
def onePlus (x : F64) : F64 := B64.add (B64.ofInt 1) x

/-- v_in of a mean code n / d (R208). -/
def vIn (m : Meas) (n : Int) (d : Nat) : F64 :=
  B64.sub (B64.mul (B64.mul (k64 n d) (k64 3125 100000000)) (onePlus (k64 m.gUse 100000000))) (k64 m.oUse 1000000)

/-- The capacitor tap in use is channel 1 (R200, R242). -/
def altTap (c : Cell) : Bool := bit c.meas.cfg 0

/-- Divider of a tap (R200, R208). -/
def tapK (c : Cell) (alt : Bool) : F64 := f32to64 (if alt then c.board.kDiv1 else c.board.kDiv0)
def tapOfs (c : Cell) (alt : Bool) : F64 := f32to64 (if alt then c.board.ofs1 else c.board.ofs0)

/-- 1 + CP_SVC_GAIN × 10^-7 with the set in use (R208, R210). -/
def svcFactor (m : Meas) : F64 := onePlus (B64.mul (B64.ofInt m.svcUse) (k64 1 10000000))

/-- v_cap of a mean code of a tap (R208). -/
def vCapOf (c : Cell) (alt : Bool) (n : Int) (d : Nat) : F64 := B64.add (B64.mul (vIn c.meas n d) (tapK c alt)) (tapOfs c alt)

/-- v_rep of a mean code of the tap in use (R208). -/
def vRep (c : Cell) (n : Int) (d : Nat) : F64 := B64.mul (vCapOf c (altTap c) n d) (svcFactor c.meas)

/-- g_chk, the fused gain trim of the check converter, in 0.1 ppm (R209, R552). -/
def gChk (c : Cell) : Int := signed 16 (fld (c.fuseA ||| c.fuseB).toNat 231 216)

/-- A check code at the converter's input (R209, R224). -/
def chkIn (c : Cell) (n : Int) (d : Nat) : F64 :=
  B64.mul (B64.mul (k64 n d) (k64 5 10000)) (onePlus (k64 (gChk c) 10000000))

/-- v_chk of a mean check code (R209). -/
def vChk (c : Cell) (n : Int) (d : Nat) : F64 := B64.add (B64.mul (chkIn c n d) (tapK c (altTap c))) (tapOfs c (altTap c))

/-- Encode a voltage in steps of n / d volts, saturated to 0 to `max` (R134). -/
def encodeV (v : F64) (n d : Nat) (max : Nat) : Nat :=
  match fvRound (B64.dec (B64.div v (k64 n d))) 1 1 with
  | some i => (clampInt 0 max i).toNat
  | none => max

/-- Sum of codes. -/
def sumI (l : List Int) : Int := l.foldl (· + ·) 0

/-! Status (R137) -/

/-- passes and EEPROM_LIFE of R240. -/
def eepromLife (c : Cell) : Nat :=
  let t := c.thermal
  if !t.hasEntry || t.slots = 0 then 10000 else
  let passes := (t.seq.toNat + 1) / t.slots
  let e := max 1 c.board.endurance
  if passes ≥ e then 0 else 10000 * (e - passes) / e

/-- Live bits of the status word; bits 6 and 5 are added per cycle. -/
def liveStatus (c : Cell) : Nat :=
  let node := c.variant = .node
  let blocked := c.gates.state = .blocked && c.gates.g = 0
  b2n blocked * 2 ^ 15 + b2n (c.gates.latched && !node) * 2 ^ 14 + b2n (c.gates.dsat && !node) * 2 ^ 13
    + b2n c.gates.ov * 2 ^ 12 + b2n c.gates.uv * 2 ^ 11 + b2n (!c.gdpg && !node) * 2 ^ 10
    + b2n c.meas.plaus * 2 ^ 9 + b2n c.meas.calActive * 2 ^ 8 + b2n (timeQual c) * 2 ^ 7
    + c.stage * 2 ^ 3 + b2n c.meas.tempWarn * 2 ^ 2 + b2n (eepromLife c ≤ 1000) * 2 + b2n (!c.events.isEmpty)

/-! Conversions -/

/-- The coefficient set that applies at this sample instant: the newest change completed by S − 5 (R210). -/
def takeSet (c : Cell) : Cell :=
  let m := c.meas
  let inTime (e : Cycle × Int × Int × Int × Int) : Bool :=
    e.2.1 - cycleDiff (cellCyc c) e.1 * (steerLink c).clen ≤ (cp c 0x08 : Int) - 5
  match m.sets.find? inTime with
  | none => c
  | some (_, _, g, o, v) => { c with meas := { m with gUse := g, oUse := o, svcUse := v, sets := m.sets.filter (!inTime ·) } }

/-- SAMPLE_CONVERSION on a power cell (R202, R208 to R212, R216, R219). -/
def samplePower (quad : List Int) (check : Int) (c : Cell) : Cell :=
  let m := c.meas
  if m.calRun || m.standIn then
    let cs := m.checks ++ [check]
    let vc := vChk c check 1
    let v := B64.mul vc (svcFactor m)
    let avg := B64.mul (vChk c (sumI cs) cs.length) (svcFactor m)
    { c with meas := { m with vinst := encodeV v 1 4000 0xFFFFFF, vavg := encodeV avg 1 4000 0xFFFFFF
                              vchk := encodeV vc 1 1 4095, plaus := false, calActive := true
                              vcap := vc, vrep := v, codes := [], checks := [], standIn := false } }
  else
    let q := sumI quad
    let vq := vCapOf c (altTap c) q (max 1 quad.length)
    let v := B64.mul vq (svcFactor m)
    -- the quad's mean is one result among the averaging results, all of equal weight (R211)
    let cnt := m.codes.length + 1
    let avg := vRep c (sumI m.codes * 4 + q) (4 * cnt)
    let vc := vChk c check 1
    let win := B64.add (B64.ofInt (cp c 0x41)) (B64.mul (B64.mul (B64.ofInt (cp c 0x42)) (k64 1 10000)) (B64.abs v))
    let plaus := B64.lt win (B64.abs (B64.sub v vc))
    { c with meas := { m with vinst := encodeV v 1 4000 0xFFFFFF, vavg := encodeV avg 1 4000 0xFFFFFF
                              vchk := encodeV vc 1 1 4095, plaus := plaus, calActive := false
                              quad := quad, vcap := vq, vrep := v, codes := [], checks := [], standIn := false }
             cnt := if plaus then { c.cnt with plaus := wrapInc c.cnt.plaus } else c.cnt }

/-- A node's code, normalised to its input full scale (R224). -/
def nodeCode (v gain ofs : F64) : Int :=
  match fvRound (B64.dec (B64.div (B64.add (B64.mul v gain) ofs) (k64 4096 1000))) (2 ^ 23) 1 with
  | some i => clampInt (-8388607) 8388607 i
  | none => 0

/-- SAMPLE_CONVERSION on a measurement node: eight quads and eight check conversions (R142, R223 to R225). -/
def sampleNode (quads : List (List Int)) (checks : List Int) (c : Cell) : Cell :=
  let m := c.meas
  let b := c.board
  let pri := (List.range 8).map fun j =>
    let q := quads.getD j []
    nodeCode (vIn m (sumI q) (max 1 q.length)) (f32to64 b.priGain) (f32to64 b.priOfs)
  let chk := (List.range 8).map fun j => nodeCode (chkIn c (checks.getD j 0) 1) (f32to64 b.chkGain) (f32to64 b.chkOfs)
  -- sub-sample j lies (7 - j) × floor(N / 8) ticks before S (R142)
  let ok (j : Nat) : Bool := okAt c ((cp c 0x08 : Int) - (7 - j) * (cpN c / 8 : Nat)) && (quads.getD j []).length = 4 && j < checks.length
  let sv := maskOf ((List.range 8).filter ok)
  let plaus := ok 7 && (pri.getD 7 0 - chk.getD 7 0).natAbs > cp c 0x43
  { c with meas := { m with pri := pri, chk := chk, svalid := BitVec.ofNat 8 sv, plaus := plaus, calActive := m.calRun }
           cnt := if plaus then { c.cnt with plaus := wrapInc c.cnt.plaus } else c.cnt }

/-- SAMPLE_CONVERSION (R200, R202): the scheduled conversions, the supply monitor, and what the
burst reports of the sample instant (R136, R137). -/
def sampleConversion (quads : List (List Int)) (checks : List Int) (vdd : Nat) (c : Cell) : Cell :=
  if !receives c then c else
  let c := takeSet { c with meas := { c.meas with cfg := cp c 0x40, sampleAt := cellCyc c, slot := 0, lostSlots := [] } }
  let c := if c.variant = .node then sampleNode quads checks c else samplePower (quads.headD []) (checks.headD 0) c
  { c with meas := { c.meas with vdd := vdd }, statusS := liveStatus c, holderS := c.holder }

/-- AVERAGING_SLOT (R203, R211): the next slot that no injected conversion took, on the capacitor channel; the check
converter every 1,250 ticks during self-calibration (R216). -/
def averagingSlot (code : Int) (c : Cell) : Cell :=
  let m := c.meas
  if !receives c || c.variant = .node then c
  else if m.calRun then
    if 1250 * (m.checks.length + 1) < cpN c then { c with meas := { m with checks := m.checks ++ [code] } } else c
  else
    match (List.range (slotsJ c)).find? fun j => m.slot < j && !m.lostSlots.contains j with
    | some j => { c with meas := { m with codes := m.codes ++ [code], slot := j } }
    | none => c

/-- The next channel of CP_MEAS_CFG[7:1] after one, ascending and wrapping (R221). -/
def nextChannel (cfg ch : Nat) : Nat :=
  let m := (List.range 8).filter fun i => 1 ≤ i && bit cfg i
  match m.find? (fun i => ch < i) with
  | some i => i
  | none => m.headD ch

/-- TEMP_NTC in 1/64 °C from the channel 2 code (R221). -/
def ntcTemp (c : Cell) (code : Int) : Int :=
  let b := c.board
  let x := B64.div (vIn c.meas code 1) (k64 4096 1000)
  let r := B64.div (B64.mul (f32to64 b.ntcRbias) x) (B64.sub (B64.ofInt 1) x)
  let l := B64.div (ln64 (B64.div r (f32to64 b.ntcRnom))) (f32to64 b.ntcB)
  let t := B64.sub (B64.div (B64.ofInt 1) (B64.add (B64.div (B64.ofInt 1) (k64 29815 100)) l)) (k64 27315 100)
  (fvRound (B64.dec t) 64 1).getD 0

/-- HOUSEKEEPING_SLOT (R201, R203, R221, R222): slot J, unless an injected conversion took it. The mask is that of the
last sample instant (R242), so the channel-select register stands since before the acquisition. -/
def housekeeping (code : Int) (c : Cell) : Cell :=
  let n := slotsJ c
  if !receives c || c.meas.calRun || n ≤ c.meas.slot || c.meas.lostSlots.contains n then c else
  let cfg := c.meas.cfg
  let m := { c.meas with slot := n }
  let c := { c with meas := m }
  -- the slot's end
  let done : Int := (cp c 0x08 : Int) + 625 * n + 64 - cycleDiff (cellCyc c) m.sampleAt * (steerLink c).clen
  let ch := if bit cfg m.chan && 1 ≤ m.chan then m.chan else nextChannel cfg m.chan
  if !(bit cfg ch && 1 ≤ ch) then c else
  let v := vIn m code 1
  let mv (x : F64) : Int := (fvRound (B64.dec x) 1000 1).getD 0
  let uv (x : F64) : Int := (fvRound (B64.dec x) 1000000 1).getD 0
  let m := match ch with
    | 2 => { m with tempNtc := ntcTemp c code }
    | 3 => { m with tempDie := Config.dieTemp code }
    | 4 => { m with gdSupply := (mv (B64.mul v (f32to64 c.board.gdScale))).toNat }
    | 5 => { m with aux := unsigned 18 code }
    | 6 => { m with refCheck := uv (B64.sub (B64.div v (k64 2048 1000)) (B64.ofInt 1)) }
    | 7 => { m with gndCheck := uv v }
    | _ => m
  let c := tempWarn { c with meas := { m with chan := nextChannel cfg ch } }
  if ch = 6 && c.meas.refCheck.natAbs > 1000 then
    if c.meas.drift then c
    else cellEvent { c with meas := { c.meas with drift := true } } 0x43 done (unsigned 32 c.meas.refCheck * 2 ^ 32)
  else if ch = 6 then { c with meas := { c.meas with drift := false } }
  else c

/-- Start of a self-calibration (R216). -/
def beginCal (tick : Int) (c : Cell) : Cell :=
  noteOk tick (fun c => { c with meas := { c.meas with calRun := true, calAt := some (cellCyc c, tick), checks := [], standIn := false } }) c

/-- INJECTED_RESULT (R205 to R207, R215): one result serves every cause that waits. The aperture is where R205 places it;
the operand gives it after an abandoned calibration, where R218 gives only a bound. The quad that serves a trigger gives
its mean as the result, any other conversion its own code of channel 0. -/
def injectedResult (code : Int) (aperture : Nat) (c : Cell) : Cell :=
  let m := c.meas
  if !(m.injOv || m.injOrd) then c else
  let (ap, quad) : Int × Bool := match m.injAp with
    | some (cy, t, q) => (t - cycleDiff (cellCyc c) cy * (steerLink c).clen, q)
    | none => (aperture, false)
  let v := if quad then vRep c (sumI m.quad) (max 1 m.quad.length) else B64.mul (vCapOf c false code 1) (svcFactor m)
  let r := encodeV v 16 1000 262143
  let det := b2n m.injOv * 2 ^ 63 + b2n m.injOrd * 2 ^ 62 + r * 2 ^ 44 + unsigned 24 ap * 2 ^ 20
  let c := { c with meas := { m with injResult := r, injOv := false, injOrd := false, injAp := none } }
  let c := if m.injOv then cellEvent c 0x01 ap det else c
  let c := if m.injOrd then cellEvent c 0x40 ap det else c
  -- a self-calibration that waited starts 100 ticks after the result is ready (R205, R215)
  if c.meas.calAt.isSome && !c.meas.calRun then beginCal (ap + (if quad then 295 else 164)) c else c

/-- A record permits a self-calibration to start at a tick: it passed R124, it carries CAL_PERMIT, and LAUNCH + 200 is
that tick (R214). -/
def permits (c : Cell) (tick : Int) (r : OrdRec) : Bool :=
  r.clean && r.flags.getLsbD 4 && decide ((r.launch : Int) + 200 + cycleDiff r.cycle (cellCyc c) * (steerLink c).clen = tick)

/-- A link whose records' CAL_PERMIT counts (R214). -/
def permitLink (c : Cell) (l : Link) : Bool :=
  match holderLink c.holder with
  | some h => h = l
  | none => true

/-- A record permits a self-calibration at this tick (R214). -/
def calPermitted (c : Cell) (tick : Int) : Bool :=
  [Link.la, Link.lb].any fun l => permitLink c l && (getLink c l).recs.any (permits c tick)

/-- The CAL_PERMITs of a tick are used up: after an abandoned calibration a new one is needed (R218). -/
def usePermits (c : Cell) (tick : Int) : Cell :=
  let used (x : CLink) : CLink := { x with recs := x.recs.map fun r => if permits c tick r then { r with flags := r.flags &&& 0xEF#8 } else r }
  { c with la := used c.la, lb := used c.lb }

/-- SELF_CAL_START (R214, R215): LAUNCH + 200; an injected conversion completes first. -/
def selfCalStart (tick : Int) (c : Cell) : Cell :=
  if !receives c || c.meas.calRun || !calPermitted c tick then c else
  let c := usePermits c tick
  if c.meas.injOv || c.meas.injOrd then { c with meas := { c.meas with calAt := some (cellCyc c, tick) } }
  else beginCal tick c

/-- The tick of the current cycle 400,000 ticks after the start of the calibration that runs (R216). -/
def calEnd (c : Cell) : Int :=
  match c.meas.calAt with
  | some (cy, t) => t + 400000 - cycleDiff (cellCyc c) cy * (steerLink c).clen
  | none => 0

/-- The calibration that runs ends in the current cycle. -/
def calEnds (c : Cell) : Bool := c.meas.calRun && decide (calEnd c < (steerLink c).clen)

/-- SELF_CAL_END (R216, R217): the 256 conversions of each part, 400,000 ticks after the start. -/
def selfCalEnd (gnd ref : List Int) (c : Cell) : Cell :=
  let m := c.meas
  if !calEnds c || gnd.length ≠ 256 || ref.length ≠ 256 then c else
  let end_ := calEnd c
  noteOk end_ (fun c =>
  let m := { m with calRun := false, calAt := none, standIn := quadBegun c end_ }
  let g := Config.selfCalGain gnd ref
  let o := Config.selfCalOffset gnd
  if g.natAbs ≤ 131000 && o.natAbs ≤ 131071 && (g - m.gCal).natAbs ≤ 5000 then
    changeSet { c with meas := { m with gCal := g, oCal := o, calAge := some 0 } } (cellCyc c) end_
  else cellEvent { c with meas := m } 0x41 end_ (unsigned 32 g * 2 ^ 32 + unsigned 32 o)) c

/-! Edges (R228 to R230) -/

/-- EDGE of a deviation in 25 ps: round(dev / 4), halves up, saturated to ±2,047 (R228). -/
def edgeCode (dev : Int) : Int := clampInt (-2047) 2047 (roundHalfUp dev 4)

/-- TSENSE_EDGE: the first edge of the expected polarity in an armed window (R228), or a MODE 1 timestamp (R230). -/
def tsenseEdge (rising : Bool) (at25 : Int) (c : Cell) : Cell :=
  let c :=
    if c.diagMode = 1 && rising then
      diagPush c 1 (b2n (c.steer = .lb) * 2 ^ 136 + (cellCyc c).toNat * 2 ^ 104
        + (unsigned 24 (at25 / 32)) * 2 ^ 80 + (at25 % 32).toNat * 2 ^ 72)
    else c
  match c.edgeArms.find? (fun e => (e.te - at25).natAbs ≤ 8192 && e.rising.all (· == rising)) with
  | none => c
  | some e =>
    let dev := at25 - e.te
    let c := { c with edgeArms := c.edgeArms.erase e }
    let c := if e.main then
        if e.cycle = c.report.cycle && e.cycle != cellCyc c then { c with report := { c.report with edge := edgeCode dev } }
        else { c with run := { c.run with edge := edgeCode dev } }
      else c
    diagDev c e (unsigned 32 dev)

/-! Wear history (R239, R240) -/

/-- The 64 bytes of an entry (R237). -/
def wearEntry (t : Thermal) (seq : Word) : List Byte :=
  let body := toBE 4 seq.toNat ++ toBE 4 t.uptimeTotal.toNat ++ toBE 8 t.damage.toNat
    ++ t.bins.flatMap (fun b => toBE 4 b.toNat) ++ toBE 2 t.ovTotal ++ toBE 2 t.dsatTotal
    ++ toBE 2 t.latchTotal ++ toBE 2 t.powerOns ++ zeros 4
  body ++ toBE 4 (crc32c body)

/-- The next slot of the ring that is not marked bad. -/
def goodSlot (t : Thermal) (from_ : Nat) : Nat :=
  match ((List.range t.slots).map fun i => (from_ + i) % t.slots).find? (fun i => !t.bad.contains i) with
  | some i => i
  | none => from_

/-- WEAR_ENTRY_WRITE (R239): period, entry into BYPASS_LATCHED, or the first fall to STAGE0 60 s after the last. -/
def wearWrite (c : Cell) : Cell :=
  let t := c.thermal
  let since := (t.uptime - t.lastWrite).toNat
  let due := since ≥ t.period || t.due
  if !receives c || t.slots = 0 || t.stopped || t.writing.isSome || !due then c else
  let seq := if t.hasEntry then t.seq + 1 else t.seq
  let bs := wearEntry t seq
  let slot := goodSlot t t.next
  -- on a node CP_WEAR_PERIOD acts on nothing (R242)
  let period := if c.variant = .node then paramReset 0x70 else cp c 0x70
  { c with thermal := { t with writing := some (slot, bs), lastWrite := t.uptime, due := false, fell := false, period := period }
           writes := ⟨.eeprom, 0x200 + 64 * slot, bs⟩ :: c.writes }

/-- EEPROM_WRITE_DONE (R239): the entry is read back; a timeout or mismatch marks the slot bad. -/
def wearDone (back : Option (List Byte)) (c : Cell) : Cell :=
  let t := c.thermal
  match t.writing with
  | none => c
  | some (slot, bs) =>
    if back = some bs then
      { c with thermal := { t with writing := none, fails := 0, hasEntry := true
                                   seq := BitVec.ofNat 32 (beAt bs 0 4), next := (slot + 1) % max 1 t.slots } }
    else
      let fails := t.fails + 1
      let stop := decide (fails ≥ 4)
      let t := { t with bad := slot :: t.bad, fails := fails, stopped := stop }
      let nxt := goodSlot t (slot + 1)
      let c := cellEvent { c with thermal := t } 0x71 0 (slot % 65536 * 2 ^ 48 + fails % 256 * 2 ^ 40 + b2n stop * 2 ^ 39)
      if stop then { c with thermal := { c.thermal with writing := none } }
      else { c with thermal := { c.thermal with writing := some (nxt, bs) }
                    writes := ⟨.eeprom, 0x200 + 64 * nxt, bs⟩ :: c.writes }

/-! Meanings -/

def execSampleConversion (quads : List (List Int)) (checks : List Int) (vdd : Nat) (s : State) : Host.Outcome State Fault Refusal :=
  onCell s (sampleConversion quads checks vdd)
def execAveragingSlot (code : Int) (s : State) : Host.Outcome State Fault Refusal := onCell s (averagingSlot code)
def execHousekeepingSlot (code : Int) (s : State) : Host.Outcome State Fault Refusal := onCell s (housekeeping code)
def execInjectedResult (code : Int) (aperture : Nat) (s : State) : Host.Outcome State Fault Refusal := onCell s (injectedResult code aperture)
def execSelfCalStart (tick : Int) (s : State) : Host.Outcome State Fault Refusal := onCell s (selfCalStart tick)
def execSelfCalEnd (gndCodes refCodes : List Int) (s : State) : Host.Outcome State Fault Refusal := onCell s (selfCalEnd gndCodes refCodes)
def execTsenseEdge (rising : Bool) (at25 : Int) (s : State) : Host.Outcome State Fault Refusal := onCell s (tsenseEdge rising at25)
def execWearEntryWrite (s : State) : Host.Outcome State Fault Refusal := onCell s wearWrite
def execEepromWriteDone (readBack : Option (List Byte)) (s : State) : Host.Outcome State Fault Refusal := onCell s (wearDone readBack)

end Sys2Proof.Machine
end

