-- ==== Sys2Proof/Machine/CellBursts.lean ====
section
/-! DEFINITION. Bursts of the cell (R69 to R73, R78 to R81, R86, R96 to R100, R103, R104, R118,
R133 to R144) and its test access (R638). -/

namespace Sys2Proof.Machine

/-- The cell may transmit on a link: signal, clock, stage, no hold, no latch (R69, R104, R105, R164, R183, R184). -/
def maySend (c : Cell) (l : Link) : Bool :=
  let x := getLink c l
  receives c && x.signal && x.placed && !c.bypass && 1 ≤ c.stage && !x.txHold && !x.latched

/-- The body of a burst as it goes on the line: scrambled, stuffed after the short delimiter (R70, R71, R73). -/
def burstLine (cycle : Cycle) (si : Nat) (body : List Byte) : List Bool :=
  stuff shortRun (scramble (seedOf cycle si) (bytesBits body))

/-- Bit-times of a cell's slot, sub-slot or join burst (R79). -/
def burstBits (node : Bool) : Nat → Nat
  | 0 => if node then 640 else 224
  | 1 => 304
  | _ => 320

/-- Send a burst (R78 to R80, R103): kind 0 in a slot, 1 in a sub-slot, 2 in the join window. Burst-enable is asserted at
guard bit-time 10, in the join window too (DEDUCED, assumption 83), and released at the end of the burst, within guard
bit-time 9 of what follows. A bit-time is 16 units of 25 ps. -/
def sendBurst (c : Cell) (l : Link) (kind index si : Nat) (start : Int) (body : List Byte) : Cell :=
  let cyc := (getLink c l).cyc
  let line := burstHead (kind = 2) ++ burstLine cyc si body
  let bits := burstBits (c.variant = .node) kind
  let on := start + 160
  let off := start + min (16 * (16 + line.length : Nat)) (16 * (bits + 9 : Nat))
  { modLink c l fun x => { x with enable := some (2 * bits, on, off) } with
    tx := { link := l, kind := kind, index := index, cycle := cyc, start := start, body := body, line := line, on := on, off := off } :: c.tx }

/-- Payload and tag with their CRC-16 (R145). -/
def withCrc16 (bs : List Byte) : List Byte := bs ++ toBE 2 (crc16 (bytesBits bs))

/-! Report bursts (R133 to R141) -/

/-- The per-link counter at place `i` of items 24 to 34 (R139). -/
def linkItem (n : LinkCounters) (i : Nat) : Nat :=
  (match i with
    | 0 => n.lineViolation | 1 => n.typeUnknown | 2 => n.frameAbandoned | 3 => n.crcFail | 4 => n.tagFail
    | 5 => n.replay | 6 => n.malformed | 7 => n.mgmtReject | 8 => n.recordError | 9 => n.recordCrc
    | _ => n.babble : Word).toNat

/-- SLOW_VAL of an item (R138 to R140). -/
def slowItem (c : Cell) (i : Nat) : Nat :=
  let m := c.meas
  let v : Nat :=
    if natIn i 14 21 then (c.thermal.bins.getD (i - 14) 0).toNat
    else if natIn i 24 34 then linkItem c.la.cnt (i - 24)
    else if natIn i 35 45 then linkItem c.lb.cnt (i - 35)
    else match i with
      | 0 => 1 * 2 ^ 12 + 0x0B1
      | 1 => c.patch.toNat
      | 2 => unsigned 18 m.tempDie
      | 3 => unsigned 18 m.tempNtc
      | 4 => unsigned 18 ((fvRound (B32.dec c.thermal.tj) 64 1).getD 0)
      | 5 => m.gdSupply
      | 6 => m.vdd
      | 7 => m.aux
      | 8 => unsigned 18 m.refCheck
      | 9 => unsigned 18 m.gndCheck
      | 10 => unsigned 18 m.gCal
      | 11 => unsigned 18 m.oCal
      | 12 => (match m.calAge with | none => 262143 | some n => min 262142 (n / 1024))
      | 13 => min 262143 (c.thermal.damage.toNat / 2 ^ 30)
      | 22 => eepromLife c
      | 23 => m.injResult
      | 46 => c.cnt.lateOrder.toNat
      | 47 => c.cnt.hold.toNat
      | 48 => c.cnt.fill.toNat
      | 49 => c.cnt.phaseJump.toNat
      | 50 => c.cnt.plaus.toNat
      | 51 => c.cnt.dsat.toNat
      | 52 => c.cnt.ov.toNat
      | 53 => unsigned 18 c.gates.carry
      | 54 => c.cnt.lateCommit.toNat
      | 55 => c.cnt.leaseChanges.toNat
      | 56 => c.thermal.uptime.toNat
      | 57 => c.cnt.eventLost.toNat
      | _ => 0
  v % 2 ^ 18

def srcCode : ExecSrc → Nat
  | .nothing => 0
  | .holder => 1
  | .fill => 2
  | .safe => 3

def cellHolder : Holder → Nat
  | .none => 0
  | .x => 1
  | .y => 2

/-- The report of order cycle `c`, for the burst of `c + 1`; nothing when it is not of that cycle (R135, R169). -/
def reportFor (c : Cell) (cycle : Cycle) : Report :=
  if c.report.cycle = cycle - 1 then c.report else {}

/-- LEASE of R136. -/
def leaseField (c : Cell) (r : Report) : Nat :=
  cellHolder (if c.variant = .node then .none else c.holderS) * 64 + srcCode r.src * 16 + fld c.statusS 4 3 * 4 + b2n r.lb * 2 + b2n r.la

/-- STATUS: live bits of the sample instant, and per-cycle bits of the order cycle (R137). -/
def statusWord (c : Cell) (r : Report) : Nat := c.statusS + b2n r.late * 64 + b2n r.fill * 32

/-- Index and value of the slow channel in the burst of a cycle (R138). -/
def slowField (c : Cell) (r : Report) (cycle : Cycle) : Nat :=
  let i := if r.inject then 23 else cycle.toNat % 64
  i * 2 ^ 18 + slowItem c i

/-- The 16-byte payload of a cell-slot burst (R133). -/
def reportPayload (c : Cell) (cycle : Cycle) : List Byte :=
  let r := reportFor c cycle
  toBE 16 (c.meas.vinst * 2 ^ 104 + c.meas.vavg * 2 ^ 80 + statusWord c r * 2 ^ 64 + slowField c r cycle * 2 ^ 40
    + unsigned 12 r.edge * 2 ^ 28 + r.echo * 2 ^ 20 + leaseField c r * 2 ^ 12 + c.meas.vchk)

/-- The 64-byte payload of a measurement-slot burst (R141). -/
def nodePayload (c : Cell) (cycle : Cycle) : List Byte :=
  let r := reportFor c cycle
  let codes (l : List Int) := (List.range 8).flatMap fun j => toBE 3 (unsigned 24 (l.getD j 0))
  codes c.meas.pri ++ codes c.meas.chk ++ toBE 2 (statusWord c r) ++ toBE 3 (slowField c r cycle)
    ++ toBE 1 r.echo ++ toBE 1 (leaseField c r) ++ toBE 1 c.meas.svalid.toNat ++ zeros 8

/-- W as the cell takes it (R80); before a slot is granted it follows from J0 (R82). -/
def windowOpen (c : Cell) (x : CLink) : Nat :=
  if c.windowWritten then cp c 0x09
  else match x.slot with
    | some (_, w, _) => w
    | none => x.joinJ0 - (if c.variant = .node then 8930 else 8418)

/-- SLOT_BURST_SEND (R29, R80, R86, R111, R133 to R141). -/
def slotBurst (l : Link) (c : Cell) : Cell :=
  let x := getLink c l
  if !maySend c l then c
  else match x.slot, x.session with
    | some (n, _, from_), some k =>
      if !reached x.cyc from_ || x.giveUp.any (fun g => reached x.cyc g)
          || x.frames.any (fun f => f.cycle = x.cyc && f.suspended) then c
      else
        let node := c.variant = .node
        let pay := if node then nodePayload c x.cyc else reportPayload c x.cyc
        let tid := (x.treeId.getD 0).toNat
        let tag := leftTag 32 (gmac k (iv 0x11 tid n 0 x.cyc) pay)
        let body := withCrc16 (pay ++ toBE 4 tag)
        let start : Int := ((windowOpen c x + n * (if node then 320 else 112) : Nat) : Int) * 32 - x.upOfs
        sendBurst c l 0 n n start body
    | _, _ => c

/-! Management bursts (R81, R143, R144, R194, R230, R241, R604) -/

/-- The event to send next on a link: oldest first, each once before any again (R144). -/
def nextEvent (c : Cell) (x : CLink) : Option (CellEvent × List Nat) :=
  match c.events.find? (fun e => !x.rotation.contains e.seq) with
  | some e => some (e, e.seq :: x.rotation)
  | none => c.events.head?.map fun e => (e, [e.seq])

/-- The 160-bit DATA of an answer, with its UTYPE (R143). -/
def answerData (m : Stores) (c : Cell) : Answer → Nat × Nat
  | .param i n =>
    (2, i * 2 ^ 144 + n * 2 ^ 136 + beNat ((List.range 4).flatMap fun j => toBE 4 (if j < n then paramRead c (i + j) else 0)))
  | .eeprom b o n =>
    let base := match b with | 0 => 0 | 1 => 0x100 | _ => 0x200
    (4, b * 2 ^ 152 + o * 2 ^ 136 + n * 2 ^ 128 + beNat (padTo 15 (rdBytes m .eeprom (base + o) n)))
  | .patchAck o st => (5, o.toNat * 2 ^ 128 + st * 2 ^ 120)

/-- What the cell sends in an assigned sub-slot, by the order of R144: UTYPE, UINDEX, DATA, and the cell after it. -/
def mgmtItem (m : Stores) (c : Cell) (l : Link) : Nat × Nat × Nat × Cell :=
  let x := getLink c l
  match (x.exch.bind fun e => e.out.head?) with
  | some (kind, i, d) =>
    (1, i, kind * 2 ^ 152 + beNat (padTo 19 d), setLink c l { x with exch := x.exch.map fun e => { e with out := e.out.drop 1 } })
  | none =>
    match x.answers with
    | a :: r => let (t, d) := answerData m c a; (t, 0, d, setLink c l { x with answers := r })
    | [] =>
      match c.diagOut with
      -- LOST counts the edges lost since the DIAG_DATA before it (R230; DEDUCED, assumption 82)
      | d :: r => (6, 0, d.toNat + c.diagLost * 2 ^ 144, { c with diagOut := r, diagLost := 0 })
      | [] =>
        match nextEvent c x with
        | some (e, rot) =>
          (3, 0, e.seq * 2 ^ 152 + e.code * 2 ^ 144 + e.cycle.toNat * 2 ^ 112 + (e.tick % 2 ^ 24) * 2 ^ 88 + e.detail.toNat * 2 ^ 24,
            setLink c l { x with rotation := rot })
        | none => (0, 0, 0, c)

/-- MGMT_BURST_SEND (R81, R99, R143, R144). -/
def mgmtBurst (m : Stores) (l : Link) (i : Nat) (c : Cell) : Cell :=
  let x := getLink c l
  let granted := x.subs.any fun s => let d := cycleDiff x.cyc s.1; 0 ≤ d && d < s.2.2 && bit s.2.1 i
  if !maySend c l || !granted || 8 ≤ i || x.mode = .listen then c else
  let (t, ui, d, c') := mgmtItem m c l
  let handle := if x.exch.isSome then x.handle.toNat else 0
  let pay := toBE 24 (t * 2 ^ 184 + ui * 2 ^ 176 + handle * 2 ^ 160 + d)
  let tid := (x.treeId.getD 0).toNat
  let tag := match x.session with
    -- zeros until the first burst in the slot has confirmed the key (R99)
    | some k => if !(x.slot.any fun g => reached x.cyc g.2.2) then 0 else leftTag 32 (gmac k (iv 0x13 tid (64 + i) 0 x.cyc) pay)
    | none => 0
  let body := withCrc16 (pay ++ toBE 4 tag)
  let base := windowOpen c x + (if c.variant = .node then 7680 else 7168)
  let start : Int := ((base + i * 152 : Nat) : Int) * 32 - x.upOfs
  sendBurst c' l 1 i (64 + i) start body

/-! Joining (R96 to R98, R100, R557) -/

/-- The generator of a link's PRBS runs (R638). -/
def prbsRuns (c : Cell) : Bool := bit c.prbs.toNat 12

/-- JOIN_BURST_SEND (R96 step 3, R97, R557, R638). -/
def joinBurst (fresh : Nat) (l : Link) (c : Cell) : Cell :=
  let x := getLink c l
  let open_ := match x.window with | some (cy, _, _) => cy = x.cyc | none => false
  if !maySend c l || !x.qual || x.mode ≠ .listen || x.pick ≠ some 0 || !open_ || x.nakWait.isSome || x.asked.isSome || prbsRuns c then c
  else
    let nonce := Config.freeValue fresh 2
    let attempt := min 255 (x.attempt + 1)
    let pay := toBE 24 (cellDevId c * 2 ^ 128 + c.board.cellId * 2 ^ 112 + variantCode c.variant * 2 ^ 108
      + b2n (l = .lb) * 2 ^ 107 + attempt * 2 ^ 96 + nonce.toNat * 2 ^ 32)
    let body := withCrc16 pay
    let start : Int := (x.joinJ0 : Int) * 32 - x.upOfs
    let c := setLink c l { x with mode := .joining, pick := none, asked := some x.cyc, nonce := nonce, attempt := attempt }
    sendBurst { c with mode := if c.mode = .listen then .joining else c.mode } l 2 0 72 start body

/-- JOIN_ACK_TIMEOUT (R98): 8 cycles without a JOIN_ACK for the nonce raise b by 1, up to 10. -/
def joinAckTimeout (l : Link) (c : Cell) : Cell :=
  let x := getLink c l
  match x.asked with
  | none => c
  | some cy =>
    if cycleDiff x.cyc cy < 8 then c
    else modLink (linkToListen c l) l fun x => { x with backoff := min 10 (x.backoff + 1) }

/-- JOIN_NAK_WAIT_END (R98): 1,024 cycles have passed. -/
def joinNakWaitEnd (l : Link) (c : Cell) : Cell :=
  modLink c l fun x => { x with nakWait := if x.nakWait = some 0 then none else x.nakWait }

/-- JOIN_EXCHANGE_ABANDON (R100): 80 cycles without a record for the handle and no slot granted. -/
def joinAbandon (l : Link) (c : Cell) : Cell :=
  let x := getLink c l
  if x.exch.any (fun e => e.idle ≥ 80) && x.slot.isNone then
    modLink (linkToListen c l) l fun x => { x with backoff := min 10 (x.backoff + 1) }
  else c

/-- BABBLE_TRIP (R103, R104): burst-enable asserted for `held` bit-times, twice the length of the burst, is released and
counted; three trips in 256 cycles latch the transmitter off. -/
def babble (l : Link) (held : Nat) (c : Cell) : Cell :=
  let x := getLink c l
  match x.enable with
  | none => c
  | some (limit, on, _) =>
    if !receives c || held < limit || (prbsRuns c && (bit c.prbs.toNat 15 == (l == .lb))) then c else
    let trips := x.cyc :: x.trips.filter fun t => cycleDiff x.cyc t < 256
    setLink c l (modCnt { x with trips := trips, latched := x.latched || 3 ≤ trips.length, enable := some (limit, on, on + 16 * limit) }
      fun k => { k with babble := wrapInc k.babble })

/-! Test access (R638) -/

/-- C_PRBS_UPDATE: accepted only while every link is in LISTEN; bits [10:0] are not stored. -/
def cPrbsUpdate (v : BitVec 16) (c : Cell) : Cell :=
  if c.mode = .unpowered || !(c.la.mode = .listen && c.lb.mode = .listen) then c
  else { c with prbs := v &&& 0xF800#16, prbsLock := false }

/-- C_PRBS_ERR read: returned and cleared (R389, R638). -/
def cPrbsErrRead (c : Cell) : Cell := if c.mode = .unpowered then c else { c with tdo := c.prbsErr, prbsErr := 0 }

/-- C_MEM_DATA capture: 4 bytes, little-endian, then the address advances by 4. -/
def cMemCapture (m : Stores) (addr : Option (BitVec 20)) (c : Cell) : Cell :=
  if c.mode = .unpowered then c else
  let a := (addr.getD c.memAddr).toNat / 4 * 4
  let ofs := fld a 15 0
  let bs : List Byte := match fld a 19 16 with
    | 2 => if ofs < 0x8000 then rdBytes m .nv ofs 4 else zeros 4
    | 0 => if c.mode = .frozen then (List.range 4).map fun i => Config.freeByte 0 (ofs + i) else zeros 4
    | 1 => if c.mode = .frozen then (List.range 4).map fun i => Config.freeByte 1 (ofs + i) else zeros 4
    | _ => zeros 4
  { c with tdo := BitVec.ofNat 32 (leNat bs), memAddr := BitVec.ofNat 20 (a + 4) }

/-- C_MEM_DATA update: only the credential copies, only while both are empty. -/
def cMemUpdate (m : Stores) (addr : Option (BitVec 20)) (v : BitVec 32) (c : Cell) : Cell :=
  if c.mode = .unpowered then c else
  let a := (addr.getD c.memAddr).toNat / 4 * 4
  let c := { c with memAddr := BitVec.ofNat 20 a }
  if fld a 19 16 = 2 && fld a 15 0 ≤ 0x1FF && credEmpty m then
    { c with writes := ⟨.nv, fld a 15 0, toLE 4 v.toNat⟩ :: c.writes }
  else c

/-! Meanings -/

def execSlotBurstSend (link : Link) (s : State) : Host.Outcome State Fault Refusal := onCell s (slotBurst link)
def execMgmtBurstSend (link : Link) (sub : Nat) (s : State) : Host.Outcome State Fault Refusal := onCell s (mgmtBurst s.mem link sub)
def execJoinBurstSend (link : Link) (s : State) : Host.Outcome State Fault Refusal := onCell s (joinBurst s.fresh link)
def execJoinAckTimeout (link : Link) (s : State) : Host.Outcome State Fault Refusal := onCell s (joinAckTimeout link)
def execJoinNakWaitEnd (link : Link) (s : State) : Host.Outcome State Fault Refusal := onCell s (joinNakWaitEnd link)
def execJoinExchangeAbandon (link : Link) (s : State) : Host.Outcome State Fault Refusal := onCell s (joinAbandon link)
def execBabbleTrip (seen : BabbleSeen) (s : State) : Host.Outcome State Fault Refusal := onCell s (babble seen.link seen.held)
def execCPrbsUpdate (value : BitVec 16) (s : State) : Host.Outcome State Fault Refusal := onCell s (cPrbsUpdate value)
def execCPrbsErrRead (s : State) : Host.Outcome State Fault Refusal := onCell s cPrbsErrRead
def execCMemDataCapture (addr : Option (BitVec 20)) (s : State) : Host.Outcome State Fault Refusal := onCell s (cMemCapture s.mem addr)
def execCMemDataUpdate (addr : Option (BitVec 20)) (value : BitVec 32) (s : State) : Host.Outcome State Fault Refusal := onCell s (cMemUpdate s.mem addr value)

end Sys2Proof.Machine
end

