-- ==== Sys2Proof/Machine/CmdArm.lean ====
section
/-! DEFINITION. The commands of the arm control group (R482 to R490) and of the balancing group (R491
to R495). What a command does once it is accepted stands in functions of its payload, which a
command forwarded by the twin uses as well (R316). -/

namespace Sys2Proof.Machine

/-! Acceptance -/

/-- The APPLY step of a forwarded command has started (R316). -/
def stepStarted (d : Director) (a apply : Nat) : Bool := (arm d a).stepped && cycleDiff (BitVec.ofNat 32 apply) (arm d a).cycle ≤ 0

/-- A pending ARM_MODE or ARM_UNBLOCK from its payload. -/
def acceptMode (d : Director) (unblock force : Bool) (p : List Byte) (mb : Option Nat) : Director :=
  let q : PendMode := { apply := BitVec.ofNat 32 (leAt p 4 4), target := modeOf (byteAt p 1), unblock := unblock, force := force
                        uMan := f32sAt p 8 8, mb := mb }
  modArm d (byteAt p 0) fun x => { x with pMode := some q }

/-- A pending ARM_MANUAL_INPUT (R486). -/
def acceptManual (d : Director) (p : List Byte) (mb : Option Nat) : Director :=
  let q : PendSet := { apply := BitVec.ofNat 32 (leAt p 4 4), mask := 0, values := f32sAt p 8 8, slots := [], mb := mb }
  modArm d (byteAt p 0) fun x => { x with pManual := x.pManual ++ [q] }

/-- A pending ARM_REFERENCE (R487). -/
def acceptReference (d : Director) (p : List Byte) (mb : Option Nat) : Director :=
  let q : PendSet := { apply := BitVec.ofNat 32 (leAt p 4 4), mask := byteAt p 1, values := f32sAt p 8 8, slots := [], mb := mb }
  modArm d (byteAt p 0) fun x => { x with pRef := x.pRef ++ [q] }

/-- Slot positions of a list command. -/
def slotsOf (p : List Byte) : List Nat := (List.range (leAt p 2 2)).map fun j => leAt p (8 + 2 * j) 2

/-- A pending BAL_EXCLUDE (R491). -/
def acceptExclude (d : Director) (p : List Byte) (mb : Option Nat) : Director :=
  let q : PendSet := { apply := BitVec.ofNat 32 (leAt p 4 4), mask := byteAt p 1, values := [], slots := slotsOf p, mb := mb }
  modArm d (byteAt p 0) fun x => { x with pExclude := x.pExclude ++ [q] }

/-- A pending start or stop of the test generator (R276, R488). -/
def acceptInject (d : Director) (p : List Byte) (mb : Option Nat) : Director :=
  let start : Cycle := BitVec.ofNat 32 (leAt p 4 4)
  if byteAt p 3 = 0 then modArm d (byteAt p 0) fun x => { x with pStop := some (start, mb) } else
  let i : Injection := { target := byteAt p 1, index := byteAt p 2, wave := byteAt p 3, start := start, length := leAt p 8 4
                         amp := f32At p 12, f0 := f32At p 16, f1 := f32At p 20, hold := byteAt p 24, mb := mb }
  modArm d (byteAt p 0) fun x => { x with pInj := some i }

/-- Issue the BLOCK request of each named arm (R58, R61, R489). -/
def acceptBlock (d : Director) (as : List Nat) (tick : Nat) : Director := as.foldl (fun d a => blockRequest d a 1 tick) d

/-- θ and P of the named trees back to their start (R298, R494). -/
def acceptCalReset (d : Director) (p : List Byte) : Director :=
  let t := byteAt p 1
  modArm d (byteAt p 0) fun x => { x with est := { x.est with
    theta := if t = 0xFF then [] else tdel t x.est.theta
    cov := if t = 0xFF then [] else tdel t x.est.cov } }

/-- Learned delays of the named positions cleared (R495). -/
def acceptEdgeReset (d : Director) (p : List Byte) : Director :=
  let a := byteAt p 0
  let pos := leAt p 2 2
  (if pos = 0xFFFF then List.range 512 else [pos]).foldl (fun d q =>
    if (d.cells.any fun x => x.1 = a * 512 + q) then modRec d (a * 512 + q) fun r => { r with learned := [] } else d) d

/-! Checks -/

def armOk (a : Nat) : Bool := a < 6

/-- Only the AUTHORITY of the arm accepts the command (R268). -/
def noAuthority (d : Director) (a : Nat) : Bool × Nat := (armOk a && decide ((arm d a).role ≠ .authority), stNoAuth)

/-- A change of R265 that ARM_MODE may command. -/
def inTable : ArmMode → ArmMode → Bool
  | .off, .precharge | .precharge, .off | .precharge, .manual | .manual, .auto | .hold, .auto | .manual, .hold
  | .hold, .manual | .auto, .manual | .auto, .hold => true
  | _, _ => false

/-- The changes that every role but ISOLATED accepts (R268). -/
def freeChange : ArmMode → ArmMode → Bool
  | .off, .precharge | .precharge, .off => true
  | _, _ => false

/-- The mode expected at APPLY: a mode command pending before it decides (R485). -/
def expectedMode (d : Director) (a apply : Nat) : ArmMode :=
  match (arm d a).pMode with
  | some q => if cycleDiff q.apply (BitVec.ofNat 32 apply) ≤ 0 then q.target else (arm d a).mode
  | none => (arm d a).mode

/-- A mode command that a scheduled bake, a pending step or a lane in test mode bars (R339, R442, R518). -/
def modeBarred (d : Director) (a apply : Nat) (m : ArmMode) : Bool :=
  bakeBars d apply (fun d => modArm d a fun x => { x with mode := m }) || stepBars d a apply m || testBars d a m

/-- Four are pending, or one has the same APPLY (R483). -/
def setFull (l : List PendSet) (apply : Nat) : Bool := decide (4 ≤ l.length) || l.any fun q => q.apply.toNat = apply

/-- Accept a class A arm command: act, forward it, and wait for its step. -/
def takeArm (d : Director) (mb : Nat) (c : Cmd) (apply : Nat) (f : Director → Director) : Director :=
  setWait (forward (f d) c) mb (.apply (BitVec.ofNat 32 apply))

/-! Arm control group -/

/-- ARM_STATUS (R484). -/
def execArmStatus (mb : Nat) (s : State) : Host.Outcome State Fault Refusal :=
  onCmd s mb 0x0400 fun d c =>
    let a := byteAt c.payload 0
    guarded d mb [(!armOk a || !allZero (sub c.payload 1 3), stRange)] fun d =>
      let x := arm d a
      let outs := (List.range 16).map fun i => tget {} i x.outs
      let mask (f : OutState → Bool) : Nat := maskOf ((withIdx outs).filterMap fun (i, o) => if i < dimP (cfg d) a && f o then some i else none)
      respond d mb stOK (b1 (modeCode x.mode) ++ b1 (roleCode x.role)
        ++ b1 (b2n x.numeric + 2 * b2n x.ramp.isSome + 4 * b2n x.inj.isSome + 8 * b2n x.yielding.isSome + 16 * b2n x.sync) ++ [0]
        ++ b4 x.cycle.toNat ++ b2 x.held ++ b2 x.unavail ++ b2 x.a ++ b2 x.nIns ++ b4 x.w ++ b2 x.tAce ++ zeros 2
        ++ b4 x.vbar.toNat ++ b4 x.iPred.toNat ++ f32Le (vecN 8 x.uApplied) ++ f32Le (vecN 8 x.rEff)
        ++ outs.flatMap (fun o => b1 (min o.loss 255)) ++ b2 (mask (·.fresh)) ++ b2 (mask (·.frozen)) ++ zeros 4 ++ f32Le (vecN 24 x.xhat))

/-- ARM_MODE (R485). -/
def execArmMode (mb : Nat) (s : State) : Host.Outcome State Fault Refusal :=
  onCmd s mb 0x0401 fun d c =>
    let p := c.payload
    let a := byteAt p 0
    let t := byteAt p 1
    let ap := leAt p 4 4
    let cur := expectedMode d a ap
    let tgt := modeOf t
    let known := armOk a && t ≤ 4
    let withU := armOk a && decide (cur = .precharge) && t = 2
    let role := (arm d a).role
    let noAuth := known && (if freeChange cur tgt then decide (role = .isolated) else decide (role ≠ .authority))
    let barred := known && (!inTable cur tgt || modeBarred d a ap tgt)
    guarded d mb ([((withU && p.length != 40) || (!withU && p.length != 8), stLength), (noAuth, stNoAuth), (!d.cfg.baked || barred, stState),
        (!known || leAt p 2 2 != 0 || (withU && !(List.range 8).all fun j => finiteAt p (8 + 4 * j)), stRange)] ++ applyChecks d ap
        ++ [((arm d a).pMode.isSome, stBusy)]) fun d =>
      takeArm d mb c ap fun d => acceptMode d false (c.flags.getLsbD 0) p (some mb)

/-- ARM_MANUAL_INPUT (R486). -/
def execArmManualInput (mb : Nat) (s : State) : Host.Outcome State Fault Refusal :=
  onCmd s mb 0x0402 fun d c =>
    let p := c.payload
    let a := byteAt p 0
    let ap := leAt p 4 4
    let badU := (List.range 8).any fun j => !finiteAt p (8 + 4 * j) || (decide (dimM (cfg d) a ≤ j) && leAt p (8 + 4 * j) 4 % 2 ^ 31 != 0)
    guarded d mb (noAuthority d a :: [(!d.cfg.baked, stState), (!armOk a || !allZero (sub p 1 3) || badU, stRange)] ++ applyChecks d ap
        ++ [(setFull (arm d a).pManual ap, stBusy)]) fun d =>
      takeArm d mb c ap fun d => acceptManual d p (some mb)

/-- ARM_REFERENCE (R487). -/
def execArmReference (mb : Nat) (s : State) : Host.Outcome State Fault Refusal :=
  onCmd s mb 0x0403 fun d c =>
    let p := c.payload
    let a := byteAt p 0
    let m := byteAt p 1
    let ap := leAt p 4 4
    let bad := !armOk a || m = 0 || decide (2 ^ dimR (cfg d) a ≤ m) || leAt p 2 2 != 0 || !(List.range 8).all fun j => finiteAt p (8 + 4 * j)
    guarded d mb (noAuthority d a :: [(!d.cfg.baked, stState), (bad, stRange)] ++ applyChecks d ap ++ [(setFull (arm d a).pRef ap, stBusy)]) fun d =>
      takeArm d mb c ap fun d => acceptReference d p (some mb)

/-- 0 to half the cycle rate, in Hz (R276). -/
def freqOk (d : Director) (x : F32) : Bool := B32.finite x && B32.le 0 x && decide (scaled x * 16 * planN (cfg d) ≤ 10 ^ 10 * 2 ^ 149)

/-- The fields of ARM_INJECT are in their ranges (R276, R488). -/
def injectFields (d : Director) (p : List Byte) : Bool :=
  let a := byteAt p 0
  let tgt := byteAt p 1
  let zero := allZero (sub p 25 3) && armOk a
  if byteAt p 3 = 0 then zero && allZero (sub p 1 2) && allZero (sub p 8 17) else
  zero && tgt ≤ 1 && byteAt p 3 ≤ 3 && decide (byteAt p 2 < if tgt = 0 then dimM (cfg d) a else dimR (cfg d) a)
    && natIn (leAt p 8 4) 1 (2 ^ 24) && finiteAt p 12 && freqOk d (f32At p 16) && freqOk d (f32At p 20) && 1 ≤ byteAt p 24

/-- ARM_INJECT (R488). -/
def execArmInject (mb : Nat) (s : State) : Host.Outcome State Fault Refusal :=
  onCmd s mb 0x0404 fun d c =>
    let p := c.payload
    let a := byteAt p 0
    let ap := leAt p 4 4
    let x := arm d a
    let busy := if byteAt p 3 = 0 then x.pStop.isSome else x.pInj.isSome || x.inj.isSome
    guarded d mb (noAuthority d a :: [(!d.cfg.baked, stState), (!injectFields d p, stRange)] ++ applyChecks d ap ++ [(busy, stBusy)]) fun d =>
      takeArm d mb c ap fun d => acceptInject d p (some mb)

/-- The masked arms for which this director is not ISOLATED. -/
def blockable (d : Director) (mask : Nat) : List Nat := (maskBits 6 mask).filter fun a => decide ((arm d a).role ≠ .isolated)

/-- ARM_BLOCK (R489): the requests leave at a tick of the present cycle. -/
def execArmBlock (mb : Nat) (tick : Nat) (s : State) : Host.Outcome State Fault Refusal :=
  onCmd s mb 0x0405 fun d c =>
    let p := c.payload
    let as := blockable d (byteAt p 0)
    guarded d mb [(byteAt p 0 < 64 && as.isEmpty, stNoAuth), (63 < byteAt p 0 || !allZero (sub p 1 3), stRange)] fun d =>
      let d := forward (acceptBlock d as tick) c
      respond d mb stOK (b1 (maskOf ((List.range 6).filter fun a => decide ((arm d a).mode = .blocked))) ++ zeros 3)

/-- ARM_UNBLOCK (R490): its conditions are judged at APPLY. -/
def execArmUnblock (mb : Nat) (s : State) : Host.Outcome State Fault Refusal :=
  onCmd s mb 0x0406 fun d c =>
    let p := c.payload
    let a := byteAt p 0
    let t := byteAt p 1
    let ap := leAt p 4 4
    let bad := !armOk a || 2 < t || leAt p 2 2 != 0 || (t = 2 && !(List.range 8).all fun j => finiteAt p (8 + 4 * j))
    let barred := armOk a && t ≤ 2 && bakeBars d ap (fun d => modArm d a fun x => { x with mode := if x.mode = .blocked then modeOf t else x.mode })
    guarded d mb (noAuthority d a :: [(!d.cfg.baked || barred, stState), (bad, stRange)] ++ applyChecks d ap ++ [((arm d a).pMode.isSome, stBusy)]) fun d =>
      takeArm d mb c ap fun d => acceptMode d true false p (some mb)

/-! Balancing group -/

/-- BAL_EXCLUDE (R491). -/
def execBalExclude (mb : Nat) (s : State) : Host.Outcome State Fault Refusal :=
  onCmd s mb 0x0500 fun d c =>
    let p := c.payload
    let a := byteAt p 0
    let op := byteAt p 1
    let n := leAt p 2 2
    let ap := leAt p 4 4
    let ss := slotsOf p
    let bad := !armOk a || 1 < op || !natIn n 1 64 || ss.any fun q => 511 < q || !configured (cfg d) (a * 512 + q)
    let x := arm d a
    guarded d mb ((p.length != 8 + 2 * n, stLength) :: noAuthority d a :: [(!d.cfg.baked, stState), (bad, stRange)] ++ applyChecks d ap
        ++ [(setFull x.pExclude ap, stBusy), (op = 1 && decide (64 < (x.excluded ++ ss).eraseDups.length), stResource)]) fun d =>
      takeArm d mb c ap fun d => acceptExclude d p (some mb)

/-- BAL_RANK_READ (R492). -/
def execBalRankRead (mb : Nat) (s : State) : Host.Outcome State Fault Refusal :=
  onCmd s mb 0x0501 fun d c =>
    let a := byteAt c.payload 0
    let x := arm d a
    guarded d mb [(armOk a && x.ranked.isNone, stState), (!armOk a || !allZero (sub c.payload 1 3), stRange)] fun d =>
      let (n, av, w, neg) := x.rankOf
      respond d mb stOK (b4 ((x.ranked.getD 0).toNat) ++ b2 n ++ b2 av ++ b4 w ++ b1 (b2n (!x.charging)) ++ b1 (b2n neg) ++ zeros 2
        ++ (List.range 512).flatMap (fun p => b4 (x.keys.getD p 0).toNat) ++ nibbles fun p => tget 0xF p x.cmds)

/-- Conditions of BAL_CAL_READ and BAL_CAL_RESET (R493, R494). -/
def calChecks (d : Director) (p : List Byte) (all : Bool) : List (Bool × Nat) :=
  let a := byteAt p 0
  let t := byteAt p 1
  let on := match portOf (part d) a t with | some n => treeOn (cfg d) (part d) n | none => false
  [noAuthority d a, (armOk a && parm (armS (cfg d) a) 50 0 0 = 0, stState),
   (!armOk a || leAt p 2 2 != 0 || !(on || (all && t = 0xFF)), stRange)]

/-- BAL_CAL_READ (R493). -/
def execBalCalRead (mb : Nat) (s : State) : Host.Outcome State Fault Refusal :=
  onCmd s mb 0x0502 fun d c =>
    let a := byteAt c.payload 0
    let t := byteAt c.payload 1
    guarded d mb (calChecks d c.payload false) fun d =>
      let e := (arm d a).est
      let diag := (List.range 66).map fun i => vec64 ((covOf e t).getD i []) i
      respond d mb stOK (b1 e.tree ++ b1 (parm (armS (cfg d) a) 50 0 0) ++ zeros 2 ++ b4 e.updates
        ++ (List.range 66).flatMap (fun i => toLE 8 (vec64 (thetaOf e t) i).toNat) ++ diag.flatMap fun x => toLE 8 x.toNat)

/-- BAL_CAL_RESET (R494). -/
def execBalCalReset (mb : Nat) (s : State) : Host.Outcome State Fault Refusal :=
  onCmd s mb 0x0503 fun d c =>
    guarded d mb (calChecks d c.payload true) fun d => respond (forward (acceptCalReset d c.payload) c) mb stOK []

/-- BAL_EDGE_RESET (R495). -/
def execBalEdgeReset (mb : Nat) (s : State) : Host.Outcome State Fault Refusal :=
  onCmd s mb 0x0504 fun d c =>
    let p := c.payload
    let a := byteAt p 0
    let pos := leAt p 2 2
    guarded d mb [noAuthority d a, (!armOk a || byteAt p 1 != 0 || (511 < pos && pos != 0xFFFF), stRange)] fun d =>
      respond (forward (acceptEdgeReset d p) c) mb stOK []

end Sys2Proof.Machine
end

