-- ==== Sys2Proof/Machine/CmdRun.lean ====
section
/-! DEFINITION. The commands of the redundancy group (R498 to R501), the time group (R502 to R505) and
the recorder group (R506 to R512). -/

namespace Sys2Proof.Machine

/-! Redundancy group -/

/-- The latest accepted mirror shows the twin as SHADOW (R326, R500). -/
def twinShadow (d : Director) (a : Nat) : Bool := tget 0xFF a d.sk.twinRole = 2

/-- Four two-bit codes in a byte, the first in bits [7:6]. -/
def pack4 (a b c e : Nat) : Byte := BitVec.ofNat 8 (a * 64 + b * 16 + c * 4 + e)

/-- HOLDER of a slot position's latest accepted burst; 3 without a configured cell or a burst (R498). -/
def mapHolder (d : Director) (a p : Nat) : Nat :=
  if !configured (cfg d) (a * 512 + p) then 3 else
  match (cellRec d (a * 512 + p)).last with | some b => leaseHolder b.lease | none => 3

/-- RED_LEASE_MAP (R498). -/
def execRedLeaseMap (mb : Nat) (s : State) : Host.Outcome State Fault Refusal :=
  onCmd s mb 0x0600 fun d c =>
    let a := byteAt c.payload 0
    let x := arm d a
    guarded d mb [(!armOk a || !allZero (sub c.payload 1 3), stRange)] fun d =>
      let h := mapHolder d a
      respond d mb stOK (b1 a ++ b1 (roleCode x.role) ++ b1 (tget 0xFF a d.sk.twinRole)
        ++ b1 (b2n x.sync + 2 * b2n d.sk.twinAlive + 4 * b2n x.yielding.isSome) ++ b4 x.cycle.toNat
        ++ b2 x.held ++ b2 (quorum (cfg d) a) ++ b2 (armCells (cfg d) a).length ++ zeros 2
        ++ (List.range 128).map fun i => pack4 (h (4 * i)) (h (4 * i + 1)) (h (4 * i + 2)) (h (4 * i + 3)))

/-- RED_CLAIM (R499): the mode is judged at APPLY. -/
def execRedClaim (mb : Nat) (s : State) : Host.Outcome State Fault Refusal :=
  onCmd s mb 0x0601 fun d c =>
    let p := c.payload
    let a := byteAt p 0
    let n := leAt p 2 2
    let ap := leAt p 4 4
    let ss := slotsOf p
    let bad := !armOk a || byteAt p 1 != 0 || !natIn n 1 64 || ss.any fun q => 511 < q || !configured (cfg d) (a * 512 + q)
    guarded d mb ([(p.length != 8 + 2 * n, stLength), (!d.cfg.baked || (armOk a && decide ((arm d a).role = .isolated)), stState), (bad, stRange)]
        ++ applyChecks d ap) fun d =>
      let q : PendOrder := { apply := BitVec.ofNat 32 ap, slots := ss, flag := true, mb := some mb }
      setWait (modArm d a fun x => { x with pClaim := x.pClaim ++ [q] }) mb (.apply q.apply)

/-- PRECHARGE, MANUAL, AUTO or HOLD (R326, R500). -/
def energised (m : ArmMode) : Bool := decide (m = .precharge) || operating m

/-- RED_ISOLATE (R500). -/
def execRedIsolate (mb : Nat) (s : State) : Host.Outcome State Fault Refusal :=
  onCmd s mb 0x0602 fun d c =>
    let p := c.payload
    let a := byteAt p 0
    let ap := leAt p 4 4
    let x := arm d a
    let barred := armOk a && byteAt p 1 = 1 && decide (x.role = .authority) && energised x.mode && !twinShadow d a
    guarded d mb ([(!d.cfg.baked || barred, stState), (!armOk a || 1 < byteAt p 1 || leAt p 2 2 != 0, stRange)] ++ applyChecks d ap) fun d =>
      let q : PendOrder := { apply := BitVec.ofNat 32 ap, slots := [], flag := decide (byteAt p 1 = 1), mb := some mb }
      setWait (modArm d a fun x => { x with pIsolate := x.pIsolate ++ [q] }) mb (.apply q.apply)

/-- RED_HANDOVER (R326, R501). -/
def execRedHandover (mb : Nat) (s : State) : Host.Outcome State Fault Refusal :=
  onCmd s mb 0x0603 fun d c =>
    let p := c.payload
    let a := byteAt p 0
    let h := leAt p 4 4
    let x := arm d a
    let may := decide (x.role = .authority) && twinShadow d a && energised x.mode
    guarded d mb ([(!d.cfg.baked || (armOk a && !may), stState), (!armOk a || !allZero (sub p 1 3), stRange)] ++ applyChecks d h
        ++ [(x.pHandover.isSome || x.yielding.isSome, stBusy)]) fun d =>
      setWait (modArm d a fun x => { x with pHandover := some (BitVec.ofNat 32 h, some mb) }) mb (.apply (BitVec.ofNat 32 h))

/-! Time group -/

/-- A frequency in 2^-32 ppb as a signed count of 1/256 ppb. -/
def b4c (c : Int) : List Byte := b4z (c / 2 ^ 24)

/-- TIME_SNAPSHOT (R502), taken at a tick of the present cycle. -/
def execTimeSnapshot (mb : Nat) (tick : Nat) (s : State) : Host.Outcome State Fault Refusal :=
  onCmd s mb 0x0700 fun d _ =>
    let (ofs, ok) : BitVec 16 × Bool := match d.time.utc with | some u => u | none => (0, false)
    let live := (srcDom d.time.source).isSome
    respond d mb stOK (time96Le (timeAt d tick) ++ b4 (cyc d).toNat ++ b4 tick ++ b1 (timeCode d.time.mode) ++ b1 (srcCode_ d.time.source) ++ zeros 2
      ++ b2 (if live then ofs.toNat else 0) ++ b1 (b2n (live && ok)) ++ zeros 1 ++ b4c d.time.c
      ++ (if compared d then b4z (leadD d) else b4 0x80000000))

/-- Link delay of a source in units of 25 ps; all ones when invalid (R503). -/
def linkUnits (d : Director) : Option Nat → Nat
  | some p => if p < 2 && !(tport d p).delays.isEmpty then unsigned 32 (Config.linkDelay (tport d p).delays * 40 / 65536) else 0xFFFFFFFF
  | none => 0xFFFFFFFF

/-- TIME_DOMAIN (R503). -/
def execTimeDomain (mb : Nat) (s : State) : Host.Outcome State Fault Refusal :=
  onCmd s mb 0x0701 fun d c =>
    let i := byteAt c.payload 0
    guarded d mb [(1 < i || !allZero (sub c.payload 1 3), stRange)] fun d =>
      let x := dom d i
      let removed := match x.port with
        | some p => match x.masters.find? (·.1 = p) with | some (_, m) => m.stepsRemoved.toNat | none => 0
        | none => 0
      respond d mb stOK (b1 (domCode x.mode) ++ b1 (x.port.getD 0xFF) ++ zeros 2 ++ toBE 8 ((x.gmId.map (·.toNat)).getD 0)
        ++ b8z ((x.theta.map (·.1)).getD 0) ++ b4c x.integ ++ b4 (linkUnits d x.port) ++ b4 x.syncRx.toNat ++ b4 x.ofsReject.toNat ++ b2 removed ++ zeros 2)

/-- A mode command that takes an arm out of OFF or PRECHARGE is scheduled in cycles s to s + 2 (R504). -/
def modeScheduled (d : Director) (c : Nat) : Bool :=
  (List.range 6).any fun a => match (arm d a).pMode with
    | some q =>
      let x := cycleDiff q.apply (BitVec.ofNat 32 c)
      decide (0 ≤ x) && decide (x ≤ 2) && offPre (arm d a).mode && !offPre q.target
    | none => false

/-- TIME_SET (R504). -/
def execTimeSet (mb : Nat) (s : State) : Host.Outcome State Fault Refusal :=
  onCmd s mb 0x0702 fun d c =>
    let p := c.payload
    let t := leAt p 0 12
    let at_ := leAt p 12 4
    guarded d mb ([(!d.cfg.baked || !stepAllowed d || modeScheduled d at_ || decide (d.time.source = .twin), stState),
        (999999999 < fld t 47 16 || leAt p 16 4 != 0, stRange)] ++ applyChecks d at_ ++ [(d.time.step.isSome, stBusy)]) fun d =>
      let q : PendStep := { cycle := BitVec.ofNat 32 at_, delta := 0, target := some (toFrac (ofTime96 t)), mb := some mb }
      setWait (modTime d fun x => { x with step := some q }) mb (.apply q.cycle)

/-- TIME_REBASE (R347, R505). -/
def execTimeRebase (mb : Nat) (s : State) : Host.Outcome State Fault Refusal :=
  onCmd s mb 0x0703 fun d c =>
    let i := byteAt c.payload 0
    guarded d mb [(i ≤ 1 && decide ((dom d i).mode ≠ .suspect), stState), (1 < i || !allZero (sub c.payload 1 3), stRange)] fun d =>
      respond (newBaseline d i) mb stOK []

/-! Recorder group -/

/-- The segment in use (R506). -/
def segInUse (d : Director) : Nat := if d.rcd.mode = .stopped then 0xFF else d.rcd.seg.getD 0xFF

/-- REC_STATUS (R506). -/
def execRecStatus (mb : Nat) (s : State) : Host.Outcome State Fault Refusal :=
  onCmd s mb 0x0800 fun d _ =>
    respond d mb stOK (b1 (recCode d.rcd.mode) ++ b1 (segInUse d) ++ zeros 2
      ++ (List.range 16).flatMap (fun i => b1 (if i < segCount (cfg d) then segCode (segMode d i) else 0xFF))
      ++ b4 d.rcd.missed.toNat ++ b4 d.rcd.dropCnt.toNat ++ b4 d.rcd.stored)

/-- The REC_DRAIN request fits in the budget less the reserve (R581). -/
def drainFits (d : Director) : Bool :=
  !bit (arbBlocks (cfg d)) 0 || decide (drainCredits (cfg d) (part d) + d.bg.reserve ≤ d.bg.budget)

/-- REC_START (R404, R507, R581). -/
def execRecStart (mb : Nat) (s : State) : Host.Outcome State Fault Refusal :=
  onCmd s mb 0x0801 fun d _ =>
    guarded d mb [(decide (d.rcd.mode ≠ .stopped) || !d.cfg.baked, stState), ((firstFree d).isNone || !drainFits d, stResource)] fun d =>
      match firstFree d with
      | some i =>
        let at_ := boundaryAt d (cyc d + 2)
        respond (armSeg d i at_) mb stOK (b1 i ++ zeros 3 ++ b4 at_.toNat)
      | none => d

/-- REC_STOP (R405, R508). -/
def execRecStop (mb : Nat) (s : State) : Host.Outcome State Fault Refusal :=
  onCmd s mb 0x0802 fun d _ =>
    let i := segInUse d
    let d := match d.rcd.mode with
      | .stopped => d
      | .armed => recStopped (setSeg d i .free)
      | .triggered => modRcd (closeNow d) fun r => { r with stopAfter := true }
      | .closing => if d.rcd.nextSeg.isSome then recStopped d else modRcd d fun r => { r with stopAfter := true }
    respond d mb stOK (b1 i ++ b1 (if i = 0xFF then 0xFF else segCode (segMode d i)) ++ zeros 2)

/-- REC_TRIGGER (R413, R509). -/
def execRecTrigger (mb : Nat) (s : State) : Host.Outcome State Fault Refusal :=
  onCmd s mb 0x0803 fun d c =>
    let ap := leAt c.payload 0 4
    guarded d mb (applyChecks d ap ++ [(d.rcd.pCmd.isSome, stBusy)]) fun d =>
      setWait (modRcd d fun r => { r with pCmd := some (BitVec.ofNat 32 ap, mb) }) mb (.apply (BitVec.ofNat 32 ap))

/-- Conditions of the commands on a CLOSED segment (R510, R511). -/
def segChecks (d : Director) (p : List Byte) : List (Bool × Nat) :=
  let i := byteAt p 0
  let known := decide (i < segCount (cfg d))
  [(known && decide (segMode d i ≠ .closed), stState), (!known || !allZero (sub p 1 3), stRange)]

/-- REC_RELEASE (R405, R510). -/
def execRecRelease (mb : Nat) (s : State) : Host.Outcome State Fault Refusal :=
  onCmd s mb 0x0804 fun d c => guarded d mb (segChecks d c.payload) fun d => respond (setSeg d (byteAt c.payload 0) .free) mb stOK []

/-- REC_HEADER (R403, R510). -/
def execRecHeader (mb : Nat) (s : State) : Host.Outcome State Fault Refusal :=
  onCmd s mb 0x0805 fun d c =>
    guarded d mb (segChecks d c.payload) fun d => respond d mb stOK (rdBytes s.mem .ddr (segStart d (byteAt c.payload 0)) 128)

/-- REC_EXPORT (R415, R511); `ue`: an uncorrectable error in the chunk. -/
def execRecExport (mb : Nat) (ue : Bool) (s : State) : Host.Outcome State Fault Refusal :=
  onCmd s mb 0x0806 fun d c =>
    let p := c.payload
    let i := byteAt p 0
    let ofs := leAt p 4 8
    let n := leAt p 12 4
    guarded d mb (segChecks d p ++ [(!natIn n 1 4064 || decide (segLen d i < ofs + n), stRange)]) fun d =>
      let d := if ue then ddrUncorrected d else d
      respond d mb stOK (b1 i ++ b1 (b2n ue) ++ b2 n ++ zeros 4 ++ toLE 8 ofs ++ rdBytes s.mem .ddr (segStart d i + ofs) n)

/-- REC_MISS_LOG (R409, R512). -/
def execRecMissLog (mb : Nat) (s : State) : Host.Outcome State Fault Refusal :=
  onCmd s mb 0x0807 fun d c =>
    let clr := byteAt c.payload 0
    guarded d mb [(1 < clr || !allZero (sub c.payload 1 3), stRange)] fun d =>
      let es := d.rcd.missLog.take 8
      let body := es.flatMap fun (t, cause, unit, st) => toLE 12 t.toNat ++ b1 cause ++ b1 unit ++ b1 st ++ [0]
      let r := b4 d.rcd.missed.toNat ++ b1 es.length ++ zeros 3 ++ padTo 128 body
      respond (if clr = 1 then modRcd d fun r => { r with missed := 0, missLog := [] } else d) mb stOK r

end Sys2Proof.Machine
end

