-- ==== Sys2Proof/Machine/CmdDiag.lean ====
section
/-! DEFINITION. The commands of the diagnostics group (R513 to R520), with the counter scopes of
DIAG_COUNTERS (R107, R140, R145, R279, R301, R329, R364, R395, R421, R452, R513, R583). -/

namespace Sys2Proof.Machine

/-! Counter scopes -/

/-- A counter as DIAG_COUNTERS reads and clears it. -/
structure Counter where
  get : Director → Word
  clear : Director → Director

/-- A counter of a cell record. -/
def ctrCell (get : CellCounters → Word) (clr : CellCounters → CellCounters) (id : Option Nat) : Counter :=
  match id with
  | some i => { get := fun d => get (cellRec d i).cnt, clear := fun d => modCellCnt d i clr }
  | none => { get := fun _ => 0, clear := id' }
where id' (d : Director) : Director := d

/-- A counter of a tree port. -/
def ctrPort (n : Nat) (get : Port → Word) (clr : Port → Port) : Counter := { get := fun d => get (port d n), clear := fun d => modPort d n clr }

/-- A counter of an arm. -/
def ctrArm (a : Nat) (get : ArmCounters → Word) (clr : ArmCounters → ArmCounters) : Counter :=
  { get := fun d => get (arm d a).cnt, clear := fun d => modCntA d a clr }

/-- Counters of an arm kept per element. -/
def ctrArmTab (a n : Nat) (get : ArmCounters → Table Word) (put : Table Word → ArmCounters → ArmCounters) : List Counter :=
  (List.range n).map fun i => ctrArm a (fun t => tget 0 i (get t)) fun t => put (tset i 0 (get t)) t

/-- A counter of the director. -/
def ctrDir (get : Director → Word) (clear : Director → Director) : Counter := { get := get, clear := clear }

/-- Scope 0x01: a tree port (R107, R145, R364). -/
def scopePort (d : Director) (n : Nat) : List Counter :=
  let cells := (List.range 64).map (cellOfSlot (part d) n)
  let per (get : CellCounters → Word) (clr : CellCounters → CellCounters) : List Counter := cells.map (ctrCell get clr)
  per (·.windowMiss) (fun t => { t with windowMiss := 0 }) ++ per (·.burstAbsent) (fun t => { t with burstAbsent := 0 })
    ++ [ctrPort n (·.crcFail) fun p => { p with crcFail := 0 }]
    ++ per (·.tagFail) (fun t => { t with tagFail := 0 }) ++ per (·.reprove) (fun t => { t with reprove := 0 })
    ++ per (·.quarantine) (fun t => { t with quarantine := 0 }) ++ per (·.lost) (fun t => { t with lost := 0 })
    ++ [ctrPort n (·.delayExcess) fun p => { p with delayExcess := 0 }, ctrPort n (·.joinOk) fun p => { p with joinOk := 0 },
        ctrPort n (·.joinRefused) fun p => { p with joinRefused := 0 }, ctrPort n (·.strayLight) fun p => { p with strayLight := 0 }]
    ++ per (·.malformed) (fun t => { t with malformed := 0 }) ++ [ctrPort n (·.launchLate) fun p => { p with launchLate := 0 }]

/-- Scope 0x02: the mirrors of a cell's slow items (R140); items that are not counts read 0. -/
def scopeCell (id : Nat) : List Counter :=
  (List.range 64).map fun k =>
    { get := fun d => if countItem k then tget 0 k (cellRec d id).mirrors else 0
      clear := fun d => if countItem k then modRec d id fun r => { r with mirrors := tset k 0 r.mirrors } else d }

/-- Scope 0x03: an arm (R279, R301, R329). -/
def scopeArm (a : Nat) : List Counter :=
  let per (get : CellCounters → Word) (clr : CellCounters → CellCounters) : List Counter :=
    (List.range 512).map fun p => ctrCell get clr (some (a * 512 + p))
  [ctrArm a (·.overrun) (fun t => { t with overrun := 0 }), ctrArm a (·.abandoned) (fun t => { t with abandoned := 0 })]
    ++ per (·.missed) (fun t => { t with missed := 0 })
    ++ ctrArmTab a 16 (·.lost) (fun x t => { t with lost := x }) ++ ctrArmTab a 16 (·.stuck) (fun x t => { t with stuck := x })
    ++ [ctrArm a (·.fallback) (fun t => { t with fallback := 0 }), ctrArm a (·.numeric) (fun t => { t with numeric := 0 }),
        ctrArm a (·.bumpRefused) (fun t => { t with bumpRefused := 0 })]
    ++ per (·.unreported) (fun t => { t with unreported := 0 })
    ++ ctrArmTab a 8 (·.uSat) (fun x t => { t with uSat := x }) ++ ctrArmTab a 8 (·.xiSat) (fun x t => { t with xiSat := x })
    ++ [ctrArm a (·.outSat) (fun t => { t with outSat := 0 }), ctrArm a (·.trimClamp) (fun t => { t with trimClamp := 0 })]
    ++ ctrArmTab a 16 (·.plausSubst) (fun x t => { t with plausSubst := x }) ++ [ctrArm a (·.iarmSat) (fun t => { t with iarmSat := 0 })]
    ++ [ctrArm a (·.swaps) (fun t => { t with swaps := 0 }), ctrArm a (·.redundancy) (fun t => { t with redundancy := 0 }),
        ctrArm a (·.sortFault) (fun t => { t with sortFault := 0 })]
    ++ per (·.edgeReject) (fun t => { t with edgeReject := 0 }) ++ per (·.edgeClamp) (fun t => { t with edgeClamp := 0 })
    ++ per (·.edgeRefWrite) (fun t => { t with edgeRefWrite := 0 })
    ++ [ctrArm a (·.calSkip) (fun t => { t with calSkip := 0 }), ctrArm a (·.calDrop) (fun t => { t with calDrop := 0 })]
    ++ per (·.svcWrite) (fun t => { t with svcWrite := 0 }) ++ per (·.svcLimit) (fun t => { t with svcLimit := 0 })
    ++ [ctrArm a (·.mirrorMiss) (fun t => { t with mirrorMiss := 0 }), ctrArm a (·.roleChanges) (fun t => { t with roleChanges := 0 }),
        ctrArm a (·.noQuorum) (fun t => { t with noQuorum := 0 }), ctrArm a (·.coldTakeover) (fun t => { t with coldTakeover := 0 }),
        ctrArm a (·.handoverFail) (fun t => { t with handoverFail := 0 })]

/-- A counter of converter time. -/
def ctrTime (get : TimeState → Word) (clr : TimeState → TimeState) : Counter := ctrDir (fun d => get d.time) fun d => modTime d clr
def ctrDom (get : Domain → Word) (clr : Domain → Domain) : List Counter := [0, 1].map fun i => ctrDir (fun d => get (dom d i)) fun d => modDom d i clr
def ctrTp (get : TimePort → Word) (clr : TimePort → TimePort) : List Counter := [0, 1].map fun p => ctrDir (fun d => get (tport d p)) fun d => modTport d p clr
def ctrPps (get : PpsIn → Word) (clr : PpsIn → PpsIn) : List Counter := [0, 1].map fun i => ctrDir (fun d => get (pps d i)) fun d => modPps d i clr

/-- Scope 0x04: time and clocks (R364). -/
def scopeTime : List Counter :=
  [ctrTime (·.steps) (fun t => { t with steps := 0 }), ctrTime (·.switches) (fun t => { t with switches := 0 }), ctrTime (·.limited) (fun t => { t with limited := 0 })]
    ++ ctrDom (·.syncRx) (fun x => { x with syncRx := 0 }) ++ ctrDom (·.ofsReject) (fun x => { x with ofsReject := 0 })
    ++ ctrDom (·.annTimeout) (fun x => { x with annTimeout := 0 })
    ++ ctrTp (·.pdelayLost) (fun x => { x with pdelayLost := 0 }) ++ ctrTp (·.msgDiscard) (fun x => { x with msgDiscard := 0 })
    ++ ctrTp (·.launchLate) (fun x => { x with launchLate := 0 }) ++ [ctrTime (·.twinDiff) (fun t => { t with twinDiff := 0 })]
    ++ ctrPps (·.miss) (fun x => { x with miss := 0 }) ++ ctrPps (·.glitch) (fun x => { x with glitch := 0 })
    ++ [ctrTime (·.rootUnlock) (fun t => { t with rootUnlock := 0 }), ctrTime (·.refLoss) (fun t => { t with refLoss := 0 })]

def ctrLane (get : Lane → Word) (clr : Lane → Lane) : List Counter := [0, 1, 2, 3].map fun p => ctrDir (fun d => get (lane d p)) fun d => modLane d p clr
def ctrSk (get : Skeund → Word) (clr : Skeund → Skeund) : Counter := ctrDir (fun d => get d.sk) fun d => modSk d clr

/-- Scope 0x05: lanes (R395, R329). -/
def scopeLanes : List Counter :=
  ctrLane (·.crcFail) (fun l => { l with crcFail := 0 }) ++ ctrLane (·.tagFail) (fun l => { l with tagFail := 0 })
    ++ ctrLane (·.stuffOver) (fun l => { l with stuffOver := 0 }) ++ ctrLane (·.trainFail) (fun l => { l with trainFail := 0 })
    ++ ctrLane (·.polFlip) (fun l => { l with polFlip := 0 }) ++ [ctrSk (·.laneRev) fun k => { k with laneRev := 0 }]
    ++ ctrLane (·.lockLoss) (fun l => { l with lockLoss := 0 }) ++ [ctrSk (·.widthChanges) fun k => { k with widthChanges := 0 }]
    ++ ctrLane (·.retrains) (fun l => { l with retrains := 0 }) ++ ctrTp (·.linkDown) (fun x => { x with linkDown := 0 })
    ++ ctrTp (·.fcsErr) (fun x => { x with fcsErr := 0 }) ++ ctrTp (·.rxDiscard) (fun x => { x with rxDiscard := 0 })
    ++ [ctrSk (·.twinAliveLoss) fun k => { k with twinAliveLoss := 0 }]

/-- Scope 0x06: recorder, queues and dispatcher (R421, R452). -/
def scopeRec : List Counter :=
  [ctrDir (·.rcd.missed) fun d => modRcd d fun r => { r with missed := 0 }, ctrDir (·.rcd.dropCnt) fun d => modRcd d fun r => { r with dropCnt := 0 },
   ctrDir (·.rcd.ddrUe) fun d => modRcd d fun r => { r with ddrUe := 0 }]
    ++ (List.range 6).map (fun q => ctrDir (fun d => (tq d q).lost) fun d => modTq d q fun t => { t with lost := 0 })
    ++ [ctrDir (·.rcd.overwrite) fun d => modRcd d fun r => { r with overwrite := 0 }]
    ++ (List.range 8).map fun l => ctrDir (fun d => tget 0 l d.disp.full) fun d => modDisp d fun x => { x with full := tset l 0 x.full }

def ctrBg (get : Background → Word) (clr : Background → Background) : Counter := ctrDir (fun d => get d.bg) fun d => modBg d clr

/-- Scope 0x07: background and power (R583). -/
def scopeBg : List Counter :=
  [ctrBg (·.glazePasses) (fun b => { b with glazePasses := 0 }), ctrBg (·.glazeLate) (fun b => { b with glazeLate := 0 }),
   ctrBg (·.sramCe) (fun b => { b with sramCe := 0 }), ctrBg (·.sramUe) (fun b => { b with sramUe := 0 }),
   ctrBg (·.patrolPasses) (fun b => { b with patrolPasses := 0 }), ctrBg (·.ddrCe) (fun b => { b with ddrCe := 0 })]
    ++ (List.range 6).map (fun a => ctrArm a (·.calPermits) fun t => { t with calPermits := 0 })
    ++ (List.range 6).map fun k => ctrBg (fun b => tget 0 k b.arbWait) fun b => { b with arbWait := tset k 0 b.arbWait }

/-- The counters of a scope; none for an unknown scope or an INDEX outside it (R513). -/
def scopeOf (d : Director) (scope index : Nat) : Option (List Counter) :=
  match scope with
  | 1 => if portHere (part d) index then some (scopePort d index) else none
  | 2 => if cellValid d index then some (scopeCell index) else none
  | 3 => if index < 6 then some (scopeArm index) else none
  | 4 => if index = 0 then some scopeTime else none
  | 5 => if index = 0 then some scopeLanes else none
  | 6 => if index = 0 then some scopeRec else none
  | 7 => if index = 0 then some scopeBg else none
  | _ => none

/-- DIAG_COUNTERS (R513). -/
def execDiagCounters (mb : Nat) (s : State) : Host.Outcome State Fault Refusal :=
  onCmd s mb 0x0900 fun d c =>
    let p := c.payload
    let clr := byteAt p 1
    let first := leAt p 4 2
    let n := leAt p 6 2
    let l := (scopeOf d (byteAt p 0) (leAt p 2 2)).getD []
    guarded d mb [(1 < clr || !natIn n 1 1016 || decide (l.length < first + n), stRange)] fun d =>
      let cs := (l.drop first).take n
      let vs := cs.flatMap fun k => b4 (k.get d).toNat
      let d := if clr = 1 then cs.foldl (fun d k => k.clear d) d else d
      respond d mb stOK ([byteAt p 0, 0].map (BitVec.ofNat 8) ++ sub p 2 6 ++ vs)

/-! Cell commands -/

/-- DIAG_EDGE (R514): at most two cells of a tree in a mode other than 0. -/
def execDiagEdge (mb : Nat) (s : State) : Host.Outcome State Fault Refusal :=
  onCmd s mb 0x0901 fun d c =>
    let p := c.payload
    let id := leAt p 0 2
    let m := byteAt p 2
    let others := d.cells.filter fun (i, r) => i != id && r.diagMode != 0 && cellPort (part d) i = cellPort (part d) id
    guarded d mb (cellChecks d id true ++ [(2 < m || byteAt p 3 != 0, stRange), (m != 0 && decide (2 ≤ others.length), stResource)]) fun d =>
      awaitCell (mgmtTo d id 0x11 (b1 m ++ zeros 3) fun r => { r with why := .cmd mb }) mb id

/-- DIAG_EDGE_READ (R515). -/
def execDiagEdgeRead (mb : Nat) (s : State) : Host.Outcome State Fault Refusal :=
  onCmd s mb 0x0902 fun d c =>
    let n := leAt c.payload 0 2
    guarded d mb [(!natIn n 1 169 || leAt c.payload 2 2 != 0, stRange)] fun d =>
      let es := d.diagBuf.take n
      let r := b2 es.length ++ b2 d.diagLost ++ es.flatMap fun (id, bs) => b2 id ++ zeros 2 ++ padTo 20 bs
      respond { d with diagBuf := d.diagBuf.drop n, diagLost := 0 } mb stOK r

/-- DIAG_EDGE_LEARNED (R516). -/
def execDiagEdgeLearned (mb : Nat) (s : State) : Host.Outcome State Fault Refusal :=
  onCmd s mb 0x0903 fun d c =>
    let p := c.payload
    let a := byteAt p 0
    let pos := leAt p 2 2
    guarded d mb [(!armOk a || byteAt p 1 != 0 || 511 < pos, stRange)] fun d =>
      respond d mb stOK (p.take 4 ++ (learnedWords (cellRec d (a * 512 + pos))).flatMap b4)

/-- DIAG_TX (R105, R517). -/
def execDiagTx (mb : Nat) (s : State) : Host.Outcome State Fault Refusal :=
  onCmd s mb 0x0904 fun d c =>
    let p := c.payload
    let id := leAt p 0 2
    let en := byteAt p 2
    guarded d mb (cellChecks d id true ++ [(1 < en || byteAt p 3 != 0, stRange)]) fun d =>
      awaitCell (mgmtTo d id (if en = 0 then 0x09 else 0x0A) [] fun r => { secured id r with copies := 2, why := .cmd mb }) mb id

/-- DIAG_CELL_FREEZE (R520). -/
def execDiagCellFreeze (mb : Nat) (s : State) : Host.Outcome State Fault Refusal :=
  onCmd s mb 0x0909 fun d c =>
    let p := c.payload
    let id := leAt p 0 2
    guarded d mb (cellChecks d id true ++ [(leAt p 2 2 != 0, stRange)]) fun d =>
      awaitCell (mgmtTo d id 0x10 (zeros 4) fun r => { secured id r with copies := 2, why := .cmd mb }) mb id

/-! Test modes (R388 to R391) -/

/-- The PRBS unit of a lane: KIND 0 tree port, 1 Skeund lane, 2 time port. -/
def prbsOf (d : Director) (kind i : Nat) : Prbs :=
  match kind with | 0 => (port d i).prbs | 1 => skPrbs d i | _ => skPrbs d (4 + i)

def modPrbs (d : Director) (kind i : Nat) (f : Prbs → Prbs) : Director :=
  match kind with
  | 0 => modPort d i fun p => { p with prbs := f p.prbs }
  | 1 => { d with prbs := tmod {} i f d.prbs }
  | _ => { d with prbs := tmod {} (4 + i) f d.prbs }

/-- A lane that exists. -/
def laneKnown (d : Director) (kind i : Nat) : Bool :=
  match kind with | 0 => portHere (part d) i | 1 => decide (i < 4) | 2 => decide (i < 2) | _ => false

/-- The conditions of R390. -/
def testAllowed (d : Director) (kind i : Nat) : Bool :=
  match kind with
  | 0 => (armsOfPort (cfg d) (part d) i).all fun a => decide ((arm d a).mode = .off)
  | 1 => allArms d fun m => decide (m = .off)
  | _ => true

/-- What leaves service when a lane enters test mode (R390); a tree port stays dark until its generator runs (DESIGN CHOICE,
assumption 90). -/
def leaveService (d : Director) (kind i : Nat) : Director :=
  match kind with
  | 0 =>
    let d := modPort (darken d i) i quietPort
    ((portSlots (cfg d) (part d) i).filterMap (cellOfSlot (part d) i)).foldl (fun d id => modRec d id listenRec) d
  | 1 =>
    if (lane d i).mode ≠ .active then d else
    let d := startRetrain d i false
    checkLink (modSk d fun k => { k with ownOk := k.ownOk &&& ~~~(BitVec.twoPow 4 (logLane d i)), statusDue := true, change := true })
  | _ => portDown (modTport d i fun t => { t with prbsTest := true }) i

/-- DIAG_PRBS (R388 to R390, R518). -/
def execDiagPrbs (mb : Nat) (s : State) : Host.Outcome State Fault Refusal :=
  onCmd s mb 0x0905 fun d c =>
    let p := c.payload
    let kind := byteAt p 0
    let i := byteAt p 1
    let op := byteAt p 2
    let known := laneKnown d kind i
    guarded d mb [(known && op = 1 && !testAllowed d kind i, stState),
        (!known || 2 < op || 3 < byteAt p 3 || 3 < byteAt p 4 || !allZero (sub p 5 3), stRange)] fun d =>
      let d := match op with
        | 0 =>
          let d := modPrbs d kind i fun x => { x with testMode := false, gen := false, check := false, locked := false }
          let d := if kind = 2 then modTport d i fun t => { t with prbsTest := false } else d
          if kind = 0 then lightTrees d else d
        | 1 =>
          let d := if (prbsOf d kind i).testMode then d else leaveService d kind i
          let d := if kind = 0 then send d (if bit (byteAt p 4) 0 then .prbs i (byteAt p 3) else .dark i) else d
          modPrbs d kind i fun x => { x with testMode := true, pattern := byteAt p 3, gen := bit (byteAt p 4) 0, check := bit (byteAt p 4) 1
                                             locked := false, slips := if x.testMode then x.slips else 0 }
        | _ => d
      let x := prbsOf d kind i
      let r := b1 (b2n x.locked) ++ b1 x.pattern ++ zeros 2 ++ b4 x.err.toNat ++ b4 x.resync.toNat
      respond (if op = 2 then modPrbs d kind i fun x => { x with err := 0, resync := 0 } else d) mb stOK r

/-- Words equal to a pattern among 1,024 words of a line, from the word boundary after `slips` slips (R391). -/
def matchCount (line : List Bool) (slips pattern : Nat) : Nat :=
  ((List.range 1024).filter fun i =>
    let w := (line.drop (slips + 32 * i)).take 32
    w.length = 32 && decide (bitsNat w = pattern)).length

/-- DIAG_BITSLIP (R391, R519); `line` is what the receiver presents, from the boundary before any slip. -/
def execDiagBitslip (mb : Nat) (line : List Bool) (s : State) : Host.Outcome State Fault Refusal :=
  onCmd s mb 0x0906 fun d c =>
    let p := c.payload
    let kind := byteAt p 0
    let i := byteAt p 1
    let op := byteAt p 2
    let known := (kind = 1 || kind = 2) && laneKnown d kind i
    let x := prbsOf d kind i
    let bad := (op ≤ 1 && !(x.testMode || x.manual)) || (op = 2 && !(kind = 1 && decide ((lane d i).mode = .align)))
    guarded d mb [(known && bad, stState), (!known || 3 < op || byteAt p 3 != 0, stRange)] fun d =>
      let d := modPrbs d kind i fun x => match op with
        | 0 => { x with slips := (x.slips + 1) % 32 }
        | 1 => x
        | 2 => { x with manual := true, slips := 0 }
        | _ => { x with manual := false }
      let n := (prbsOf d kind i).slips
      respond d mb stOK (b1 n ++ [0] ++ b2 (if op = 1 then matchCount line n (leAt p 4 4) else 0))

/-! Trace and freeze -/

/-- DIAG_TRACE (R454, R520). -/
def execDiagTrace (mb : Nat) (s : State) : Host.Outcome State Fault Refusal :=
  onCmd s mb 0x0907 fun d c =>
    let p := c.payload
    let op := byteAt p 0
    let start := leAt p 2 2
    let n := leAt p 4 2
    let bad := 2 < op || byteAt p 1 != 0 || leAt p 6 2 != 0
      || (if op = 0 then !natIn n 1 254 || decide (d.disp.trace.length < start + n) else n != 0)
    guarded d mb [(op = 0 && d.disp.tracing, stState), (bad, stRange)] fun d =>
      let d := match op with
        | 1 => modDisp d fun x => { x with tracing := false }
        | 2 => modDisp d fun x => { x with tracing := true, trace := [] }
        | _ => d
      let es := (d.disp.trace.reverse.drop start).take n
      respond d mb stOK (b1 (b2n d.disp.tracing) ++ [0] ++ b2 d.disp.trace.length ++ b2 start ++ b2 n ++ es.flatMap fun e => toLE 16 e.toNat)

/-- DIAG_FREEZE (R520): the freeze follows 1 ms later. -/
def execDiagFreeze (mb : Nat) (s : State) : Host.Outcome State Fault Refusal :=
  onCmd s mb 0x0908 fun d c =>
    guarded d mb [(leAt c.payload 0 4 != 0x465A5251 || leAt c.payload 4 4 != 0, stRange)] fun d =>
      respond { d with frz := { d.frz with armedCmd := true } } mb stOK []

end Sys2Proof.Machine
end

