-- ==== Sys2Proof/Machine/Frozen.lean ====
section
/-! DEFINITION. Freezing the director: causes, drain and the frozen state (R606 to R608), the freeze
header and its readout (R610, R611). -/

namespace Sys2Proof.Machine

/-- FREEZE_N_LOW (R606): low for `held` housekeeping clocks. -/
def execFreezeNLow (held : Nat) (s : State) : Host.Outcome State Fault Refusal := onDir s fun d =>
  if d.pins.resetN && 25 ≤ held then startFreeze d 1 false else d

/-- DIAG_FREEZE_START (R520, R606). -/
def execDiagFreezeStart (s : State) : Host.Outcome State Fault Refusal := onDir s fun d =>
  if d.frz.armedCmd then startFreeze { d with frz := { d.frz with armedCmd := false } } 2 false else d

/-- The segment in progress closes with the records it holds: header, CLOSED, STOPPED (R403, R607). -/
def closeAtLimit (d : Director) : Director :=
  match d.rcd.seg with
  | none => d
  | some i =>
    -- an ARMED segment takes the command trigger of the freeze
    let d := if d.rcd.mode = .armed then takeTrigger d (mkTrigger d 3 0xFF false (d.rcd.pFreeze.getD (cyc d)) 0 0 false) [] true else d
    let d := modRcd d fun r => { r with clamp := r.clamp ||| 8 }
    let d := putMem d { dest := .ddr, addr := segStart d i, data := segHeader d i }
    let d := raise (setSeg d i .closed) 74 0x00 (b1 i)
    recStopped { d with frz := { d.frz with seg := i, drain := 1 } }

/-- FREEZE_DRAIN_LIMIT (R25, R607): 2 s after the start. -/
def execFreezeDrainLimit (s : State) : Host.Outcome State Fault Refusal := onDir s fun d =>
  if !d.frz.draining || d.rcd.mode = .stopped || !d.time.pllLock || d.time.raw ≤ d.frz.started + 2500000000 then d else closeAtLimit d

/-- The freeze header (R610). -/
def freezeHeader (d : Director) (drainUs : Nat) : List Byte :=
  let h := [0x51, 0x5A, 0x46, 0x5A, 0x01] ++ b1 d.frz.cause ++ b1 d.frz.drain ++ b1 (bootCode d.frz.bootAt)
    ++ b4 (if d.cfg.baked then (cyc d).toNat else 0xFFFFFFFF) ++ time96Le d.time.now
    ++ (List.range 6).flatMap (fun a => b1 (roleCode (arm d a).role)) ++ (List.range 6).flatMap (fun a => b1 (modeCode (arm d a).mode))
    ++ b1 d.frz.seg ++ zeros 3 ++ b4 drainUs ++ b4 d.bg.sramUe.toNat ++ zeros 76
  h ++ b4 (crc32c h)

/-- The key store and every crypto key register are cleared (R608 step 1). -/
def clearKeys (d : Director) : Director :=
  { d with
    sec := { d.sec with trees := [], skKey := none, skNext := none, skPrev := none, skOffer := none, skEph := 0 }
    cells := d.cells.map fun (i, r) => (i, { r with key := none }) }

/-- Steps 2 to 4 of R608: dark, BLOCK_OUT asserted, clocks stopped, FROZEN. -/
def enterFrozen (d : Director) (fresh drainUs : Nat) : Director :=
  let h := freezeHeader d drainUs
  let d := clocksStop (clearKeys d)
  { d with
    boot := { d.boot with state := .frozen }
    host := { d.host with busMaster := false }
    disp := { d.disp with tracing := false }
    frz := { d.frz with draining := false, frozen := true, header := h, image := fresh } }

/-- FREEZE_DRAIN_END (R607, R608): the recorder has drained, or the root PLL is unlocked. -/
def execFreezeDrainEnd (drainUs : Nat) (s : State) : Host.Outcome State Fault Refusal := onDir s fun d =>
  if !d.frz.draining then d
  else if !d.time.pllLock then enterFrozen { abandonSeg d with frz := { d.frz with drain := 3 } } s.fresh drainUs
  else if d.rcd.mode = .stopped then enterFrozen d s.fresh drainUs
  else d

/-- FRZ_DATA_CAPTURE (R611): `addr` is what FRZ_ADDR was given first. Outside FROZEN it captures zeros. -/
def execFrzDataCapture (addr : Option (BitVec 24)) (s : State) : Host.Outcome State Fault Refusal := onDir s fun d =>
  let a := addr.getD d.frz.frzAddr
  let bs := if d.frz.frozen then (spiData s.mem d a.toNat 4 0).2 else zeros 4
  send { d with frz := { d.frz with frzAddr := a + 4, frzData := BitVec.ofNat 32 (leNat bs) } } (.reply bs)

end Sys2Proof.Machine
end

