-- ==== Sys2Proof/Machine/SkFrames.lean ====
section
/-! DEFINITION. Reception of Skeund mirror and control frames (R368 to R373): checks, reassembly,
and what forwarded commands, bakes and background transfers of the twin do (R300, R316). -/

namespace Sys2Proof.Machine

/-- A command that the twin accepted and forwards (R316): it acts as an own accepted one, unless its
APPLY step has started. `tick` is that of its arrival. -/
def forwardedIn (d : Director) (op : Nat) (force : Bool) (p : List Byte) (tick : Nat) : Director :=
  let a := byteAt p 0
  let late := stepStarted d a (leAt p 4 4)
  if op = 0x0405 then acceptBlock d (blockable d (byteAt p 0)) tick
  else if 5 < a then d
  else if op = 0x0503 then acceptCalReset d p
  else if op = 0x0504 then acceptEdgeReset d p
  else if late then d
  else match op with
    | 0x0401 => acceptMode d false force p none
    | 0x0402 => acceptManual d p none
    | 0x0403 => acceptReference d p none
    | 0x0404 => acceptInject d p none
    | 0x0406 => acceptMode d true false p none
    | 0x0500 => acceptExclude d p none
    | _ => d

/-- A control frame whose checks passed: lane status and key messages act by their own rows. -/
def controlIn (d : Director) (fresh block : Nat) (p : List Byte) (tick : Nat) : Director :=
  match block with
  | 0x20 =>
    if byteAt p 0 = 0x80 then forwardedIn d (leAt p 2 2) (bit (byteAt p 1) 0) (p.drop 4) tick
    else if byteAt p 0 = 0x81 && sideNum d = 0 && d.sec.skNext.isNone && d.sec.skOffer.isNone then sendOffer d fresh
    else d
  | 0x21 => bakeIn d p
  | 0x22 => takeEstimator d p
  | _ => d

/-- The lowest logical lane and the number of lanes that WIDTH names for a frame received on lane `lg` (R372). -/
def widthLanes (code lg : Nat) : Option (Nat × Nat) :=
  match code with
  | 4 => some (4, 0)
  | 2 => some (2, lg / 2 * 2)
  | 1 => some (1, lg)
  | _ => none

/-- Words of the parts in line order: word i from part i mod w (R372). -/
def interleave (w : Nat) (parts : List (List Byte)) : List Byte :=
  (List.range ((parts.headD []).length / 4 * w)).flatMap fun i => sub (parts.getD (i % w) []) (4 * (i / w)) 4

/-- Sizes a block may have: the converter block, a whole arm block, or its header (R310, R312). -/
def blockSizeOk (block n : Nat) : Bool := if block = 0x10 then n = 256 else block ≤ 5 && (n = 2688 || n = 16)

/-- A part of a mirror block; with every lane's part present at one WIDTH, the block is complete (R373). -/
def mirrorPart (d : Director) (lg : Nat) (cycle : Cycle) (block code : Nat) (p : List Byte) : Director :=
  match widthLanes code lg with
  | none => d
  | some (w, base) =>
    let key := cycle.toNat * 256 + block
    let t := tset lg (code, p) (tget [] key d.sk.parts)
    -- parts of older steps are of no more use
    let old := d.sk.parts.filter fun x => cycleDiff cycle (BitVec.ofNat 32 (x.1 / 256)) < 4
    let got := (List.range w).map fun j => t.find? fun x => x.1 = base + j && x.2.1 = code && x.2.2.length = p.length
    if got.all (·.isSome) then
      let bytes := interleave w (got.filterMap fun x => x.map (·.2.2))
      let d := modSk d fun k => { k with parts := tdel key old }
      if blockSizeOk block bytes.length then modSk d fun k => { k with blocks := tset block (cycle, bytes) k.blocks } else d
    else modSk d fun k => { k with parts := tset key t old }

/-- A mirror or control frame body on a logical lane (R369, R373). -/
def skBody (d : Director) (fresh lane_ lg : Nat) (mirror : Bool) (bs : List Byte) (tick : Nat) : Director :=
  let d := modLane d lane_ fun l => { l with crcRun := 0 }
  let cycle := BitVec.ofNat 32 (beAt bs 0 4)
  let fseq := byteAt bs 4
  let block := byteAt bs 5
  let w := beAt bs 6 2
  let len := fld w 12 0
  let hp := bs.take (8 + len)
  let p := hp.drop 8
  -- without a key the link carries key messages only, under a zero tag (R599)
  let keyed := mirror || block != 0x20 || 2 < byteAt p 0 || d.sec.skKey.isSome
  let good := match skKeyAt d cycle with
    | some k => decide (skTag k (skIv mirror (1 - sideNum d) lg fseq cycle) hp = beAt bs (8 + len) 8)
    | none => !keyed && beAt bs (8 + len) 8 = 0
  if !good then
    let d := modLane d lane_ fun l => { l with tagFail := satInc l.tagFail }
    raiseLim d (limKey (52 + lane_) 4 0) (52 + lane_) 0x04 (b4 (lane d lane_).tagFail.toNat)
  else if len % 4 != 0 || 4096 < len || (widthLanes (fld w 15 13) lg).isNone then d
  else if mirror then (if block ≤ 5 || block = 0x10 then mirrorPart d lg cycle block (fld w 15 13) p else d)
  else
    let d := if !d.time.sending && !d.time.running then epochCheck d cycle else d
    controlIn d fresh block p tick

/-- A frame fails its CRC, or its code (R368, R373, R382). -/
def skBad (d : Director) (lane_ : Nat) (counts : Bool) : Director :=
  modLane d lane_ fun l => { l with crcFail := satInc l.crcFail, crcRun := if counts then l.crcRun + 1 else l.crcRun }

/-- A frame of any type on an ACTIVE lane; time marks and training frames have their own rows. -/
def skFrameIn (d : Director) (fresh lane_ : Nat) (f : SkFrame) : Director :=
  let lg := physLane d lane_
  let bs := f.bytes
  let n := 20 + fld (beAt bs 6 2) 12 0
  if (lane d lane_).mode ≠ .active || !d.sk.ownOk.getLsbD lg then d
  else if f.typeCode = 0x96695AA5 || f.typeCode = 0x3CC39669 then d
  else if f.typeCode ≠ 0x5AA53CC3 && f.typeCode ≠ 0xA55AC33C then skBad d lane_ false
  else if f.violation || bs.length ≠ n || crc32c (bs.take (n - 4)) ≠ beAt bs (n - 4) 4 then skBad d lane_ true
  else skBody d fresh lane_ lg (f.typeCode = 0x5AA53CC3) bs (f.arrival.toNat / 32)

/-- SKEUND_FRAME_RECEIVE (R373): `lane_` is the physical lane. -/
def execSkeundFrameReceive (lane_ : Nat) (frame : SkFrame) (s : State) : Host.Outcome State Fault Refusal :=
  ifUnit (lane_ < 4) (onDir s fun d => if works d && d.sk.active then skFrameIn d s.fresh lane_ frame else d)

end Sys2Proof.Machine
end

