-- ==== Sys2Proof/Machine/Dispatch.lean ====
section
/-! DEFINITION. One arm per command: a direct call of its meaning. -/

namespace Sys2Proof.Machine

/-- The effect of one command on everything but the queue. -/
def exec (i : Instr) (s : State) : Host.Outcome State Fault Refusal :=
  match i with
  | .cycleStart => Sys2Proof.Machine.execCycleStart s
  | .aceStep arm fault => Sys2Proof.Machine.execAceStep arm fault s
  | .sort arm hw => Sys2Proof.Machine.execSort arm hw s
  | .orderAssembly port => Sys2Proof.Machine.execOrderAssembly port s
  | .orderFrameLaunch port complete => Sys2Proof.Machine.execOrderFrameLaunch port complete s
  | .repeatCopyLaunch port => Sys2Proof.Machine.execRepeatCopyLaunch port s
  | .blockInAssert pin held tick => Sys2Proof.Machine.execBlockInAssert pin held tick s
  | .slotBurstReceive port win seen => Sys2Proof.Machine.execSlotBurstReceive port win seen s
  | .quarantine cell => Sys2Proof.Machine.execQuarantine cell s
  | .cellLost cell => Sys2Proof.Machine.execCellLost cell s
  | .initialProving cell => Sys2Proof.Machine.execInitialProving cell s
  | .provingBlock cell => Sys2Proof.Machine.execProvingBlock cell s
  | .joinBurstReceive port err bits => Sys2Proof.Machine.execJoinBurstReceive port err bits s
  | .joinKeyDerived port => Sys2Proof.Machine.execJoinKeyDerived port s
  | .joinExchangeTimeout port => Sys2Proof.Machine.execJoinExchangeTimeout port s
  | .quarHoldExpire cell => Sys2Proof.Machine.execQuarHoldExpire cell s
  | .cellParamReadTimeout cell => Sys2Proof.Machine.execCellParamReadTimeout cell s
  | .cellPatchSend cell => Sys2Proof.Machine.execCellPatchSend cell s
  | .mirrorAccept => Sys2Proof.Machine.execMirrorAccept s
  | .skeundFrameReceive lane frame => Sys2Proof.Machine.execSkeundFrameReceive lane frame s
  | .treeSilenceEnd => Sys2Proof.Machine.execTreeSilenceEnd s
  | .skeundEpochTimeout => Sys2Proof.Machine.execSkeundEpochTimeout s
  | .twinAliveLost => Sys2Proof.Machine.execTwinAliveLost s
  | .twinAliveHealthy => Sys2Proof.Machine.execTwinAliveHealthy s
  | .watchdogReset => Sys2Proof.Machine.execWatchdogReset s
  | .handoverYieldTimeout arm => Sys2Proof.Machine.execHandoverYieldTimeout arm s
  | .timeMarkSend => Sys2Proof.Machine.execTimeMarkSend s
  | .timeMarkReceive lane frame => Sys2Proof.Machine.execTimeMarkReceive lane frame s
  | .twinServoUpdate => Sys2Proof.Machine.execTwinServoUpdate s
  | .ptpSyncReceive port msg => Sys2Proof.Machine.execPtpSyncReceive port msg s
  | .ptpAnnounceReceive port msg => Sys2Proof.Machine.execPtpAnnounceReceive port msg s
  | .announceTimeout domain => Sys2Proof.Machine.execAnnounceTimeout domain s
  | .pdelayReqSend port => Sys2Proof.Machine.execPdelayReqSend port s
  | .pdelayReqReceive port seqId t2 => Sys2Proof.Machine.execPdelayReqReceive port seqId t2 s
  | .pdelayRespReceive port msg => Sys2Proof.Machine.execPdelayRespReceive port msg s
  | .pdelayTimeout port => Sys2Proof.Machine.execPdelayTimeout port s
  | .timePortFrameLaunch port tick => Sys2Proof.Machine.execTimePortFrameLaunch port tick s
  | .timePortLinkChange port ev => Sys2Proof.Machine.execTimePortLinkChange port ev s
  | .timeStep => Sys2Proof.Machine.execTimeStep s
  | .holdoverExpire => Sys2Proof.Machine.execHoldoverExpire s
  | .refOffset => Sys2Proof.Machine.execRefOffset s
  | .ppsInEdge input stamp => Sys2Proof.Machine.execPpsInEdge input stamp s
  | .ppsMiss input => Sys2Proof.Machine.execPpsMiss input s
  | .ppsOutPulse rise tick => Sys2Proof.Machine.execPpsOutPulse rise tick s
  | .rootPllUnlock => Sys2Proof.Machine.execRootPllUnlock s
  | .refLoss => Sys2Proof.Machine.execRefLoss s
  | .refReturn => Sys2Proof.Machine.execRefReturn s
  | .rootPllLock => Sys2Proof.Machine.execRootPllLock s
  | .trainingFrameSend lane => Sys2Proof.Machine.execTrainingFrameSend lane s
  | .trainingFrameReceive lane frame => Sys2Proof.Machine.execTrainingFrameReceive lane frame s
  | .laneTrainTimeout lane => Sys2Proof.Machine.execLaneTrainTimeout lane s
  | .laneTrainRetry lane => Sys2Proof.Machine.execLaneTrainRetry lane s
  | .laneLost lane cause => Sys2Proof.Machine.execLaneLost lane cause s
  | .laneStatusSend => Sys2Proof.Machine.execLaneStatusSend s
  | .laneStatusReceive laneOk => Sys2Proof.Machine.execLaneStatusReceive laneOk s
  | .widthChange => Sys2Proof.Machine.execWidthChange s
  | .laneRetrainDone lane => Sys2Proof.Machine.execLaneRetrainDone lane s
  | .prbsCheckerResync kind index errors => Sys2Proof.Machine.execPrbsCheckerResync kind index errors s
  | .skeundKeyOfferReceive payload => Sys2Proof.Machine.execSkeundKeyOfferReceive payload s
  | .skeundKeyRetry => Sys2Proof.Machine.execSkeundKeyRetry s
  | .treeRekeyStart port => Sys2Proof.Machine.execTreeRekeyStart port s
  | .rekeyDone port => Sys2Proof.Machine.execRekeyDone port s
  | .sessionKeyRoll => Sys2Proof.Machine.execSessionKeyRoll s
  | .recordIntervalWrite room => Sys2Proof.Machine.execRecordIntervalWrite room s
  | .triggerDecide => Sys2Proof.Machine.execTriggerDecide s
  | .autoTrigger => Sys2Proof.Machine.execAutoTrigger s
  | .segmentClose => Sys2Proof.Machine.execSegmentClose s
  | .recorderRearm => Sys2Proof.Machine.execRecorderRearm s
  | .tqDataRead queue => Sys2Proof.Machine.execTqDataRead queue s
  | .mbxRing iface bits => Sys2Proof.Machine.execMbxRing iface bits s
  | .mbxDoneClear bits => Sys2Proof.Machine.execMbxDoneClear bits s
  | .ringRejectClear bits => Sys2Proof.Machine.execRingRejectClear bits s
  | .mbxWindowWrite iface offset data => Sys2Proof.Machine.execMbxWindowWrite iface offset data s
  | .evtTailWrite value => Sys2Proof.Machine.execEvtTailWrite value s
  | .evtLostRead => Sys2Proof.Machine.execEvtLostRead s
  | .spiCrcFailRead => Sys2Proof.Machine.execSpiCrcFailRead s
  | .timeSnapLoRead iface tick => Sys2Proof.Machine.execTimeSnapLoRead iface tick s
  | .registerWriteOther iface offset value whole => Sys2Proof.Machine.execRegisterWriteOther iface offset value whole s
  | .spiRead addr len tick => Sys2Proof.Machine.execSpiRead addr len tick s
  | .spiWrite addr data => Sys2Proof.Machine.execSpiWrite addr data s
  | .spiReadCrc addr len tick => Sys2Proof.Machine.execSpiReadCrc addr len tick s
  | .spiWriteCrc addr data crc => Sys2Proof.Machine.execSpiWriteCrc addr data crc s
  | .spiUnknownInstruction code len => Sys2Proof.Machine.execSpiUnknownInstruction code len s
  | .pcieReset => Sys2Proof.Machine.execPcieReset s
  | .mailboxTake mb => Sys2Proof.Machine.execMailboxTake mb s
  | .jobDispatch core ue => Sys2Proof.Machine.execJobDispatch core ue s
  | .jobRelease core releases => Sys2Proof.Machine.execJobRelease core releases s
  | .eventEntryWrite => Sys2Proof.Machine.execEventEntryWrite s
  | .overflowEntryWrite => Sys2Proof.Machine.execOverflowEntryWrite s
  | .commandTimeout mb => Sys2Proof.Machine.execCommandTimeout mb s
  | .commandApplyResponse mb => Sys2Proof.Machine.execCommandApplyResponse mb s
  | .bakeRecheck => Sys2Proof.Machine.execBakeRecheck s
  | .bakeApply => Sys2Proof.Machine.execBakeApply s
  | .paramStageConfirmDeadline => Sys2Proof.Machine.execParamStageConfirmDeadline s
  | .devEcho mb => Sys2Proof.Machine.execDevEcho mb s
  | .devInfo mb => Sys2Proof.Machine.execDevInfo mb s
  | .devStatus mb => Sys2Proof.Machine.execDevStatus mb s
  | .devReset mb => Sys2Proof.Machine.execDevReset mb s
  | .devResetExecute => Sys2Proof.Machine.execDevResetExecute s
  | .cfgStageWrite mb => Sys2Proof.Machine.execCfgStageWrite mb s
  | .cfgStageRead mb => Sys2Proof.Machine.execCfgStageRead mb s
  | .cfgDiscard mb => Sys2Proof.Machine.execCfgDiscard mb s
  | .cfgBake mb => Sys2Proof.Machine.execCfgBake mb s
  | .cfgBakeStatus mb => Sys2Proof.Machine.execCfgBakeStatus mb s
  | .cfgDigest mb => Sys2Proof.Machine.execCfgDigest mb s
  | .cellState mb => Sys2Proof.Machine.execCellState mb s
  | .cellParamRead mb => Sys2Proof.Machine.execCellParamRead mb s
  | .cellParamWrite mb => Sys2Proof.Machine.execCellParamWrite mb s
  | .cellFaultClear mb => Sys2Proof.Machine.execCellFaultClear mb s
  | .cellGateEnable mb => Sys2Proof.Machine.execCellGateEnable mb s
  | .cellRelease mb => Sys2Proof.Machine.execCellRelease mb s
  | .cellInject mb => Sys2Proof.Machine.execCellInject mb s
  | .cellEepromRead mb => Sys2Proof.Machine.execCellEepromRead mb s
  | .armStatus mb => Sys2Proof.Machine.execArmStatus mb s
  | .armMode mb => Sys2Proof.Machine.execArmMode mb s
  | .armManualInput mb => Sys2Proof.Machine.execArmManualInput mb s
  | .armReference mb => Sys2Proof.Machine.execArmReference mb s
  | .armInject mb => Sys2Proof.Machine.execArmInject mb s
  | .armBlock mb tick => Sys2Proof.Machine.execArmBlock mb tick s
  | .armUnblock mb => Sys2Proof.Machine.execArmUnblock mb s
  | .balExclude mb => Sys2Proof.Machine.execBalExclude mb s
  | .balRankRead mb => Sys2Proof.Machine.execBalRankRead mb s
  | .balCalRead mb => Sys2Proof.Machine.execBalCalRead mb s
  | .balCalReset mb => Sys2Proof.Machine.execBalCalReset mb s
  | .balEdgeReset mb => Sys2Proof.Machine.execBalEdgeReset mb s
  | .redLeaseMap mb => Sys2Proof.Machine.execRedLeaseMap mb s
  | .redClaim mb => Sys2Proof.Machine.execRedClaim mb s
  | .redIsolate mb => Sys2Proof.Machine.execRedIsolate mb s
  | .redHandover mb => Sys2Proof.Machine.execRedHandover mb s
  | .timeSnapshot mb tick => Sys2Proof.Machine.execTimeSnapshot mb tick s
  | .timeDomain mb => Sys2Proof.Machine.execTimeDomain mb s
  | .timeSet mb => Sys2Proof.Machine.execTimeSet mb s
  | .timeRebase mb => Sys2Proof.Machine.execTimeRebase mb s
  | .recStatus mb => Sys2Proof.Machine.execRecStatus mb s
  | .recStart mb => Sys2Proof.Machine.execRecStart mb s
  | .recStop mb => Sys2Proof.Machine.execRecStop mb s
  | .recTrigger mb => Sys2Proof.Machine.execRecTrigger mb s
  | .recRelease mb => Sys2Proof.Machine.execRecRelease mb s
  | .recHeader mb => Sys2Proof.Machine.execRecHeader mb s
  | .recExport mb ue => Sys2Proof.Machine.execRecExport mb ue s
  | .recMissLog mb => Sys2Proof.Machine.execRecMissLog mb s
  | .diagCounters mb => Sys2Proof.Machine.execDiagCounters mb s
  | .diagEdge mb => Sys2Proof.Machine.execDiagEdge mb s
  | .diagEdgeRead mb => Sys2Proof.Machine.execDiagEdgeRead mb s
  | .diagEdgeLearned mb => Sys2Proof.Machine.execDiagEdgeLearned mb s
  | .diagTx mb => Sys2Proof.Machine.execDiagTx mb s
  | .diagPrbs mb => Sys2Proof.Machine.execDiagPrbs mb s
  | .diagBitslip mb line => Sys2Proof.Machine.execDiagBitslip mb line s
  | .diagTrace mb => Sys2Proof.Machine.execDiagTrace mb s
  | .diagFreeze mb => Sys2Proof.Machine.execDiagFreeze mb s
  | .diagCellFreeze mb => Sys2Proof.Machine.execDiagCellFreeze mb s
  | .secNonce mb => Sys2Proof.Machine.execSecNonce mb s
  | .secImageWrite mb => Sys2Proof.Machine.execSecImageWrite mb s
  | .secImageVerify mb => Sys2Proof.Machine.execSecImageVerify mb s
  | .secImageActivate mb => Sys2Proof.Machine.execSecImageActivate mb s
  | .secOwnerUpdate mb => Sys2Proof.Machine.execSecOwnerUpdate mb s
  | .secRekey mb => Sys2Proof.Machine.execSecRekey mb s
  | .secCellPatch mb => Sys2Proof.Machine.execSecCellPatch mb s
  | .secLogRead mb => Sys2Proof.Machine.execSecLogRead mb s
  | .evtEnable mb => Sys2Proof.Machine.execEvtEnable mb s
  | .evtVectorMap mb => Sys2Proof.Machine.execEvtVectorMap mb s
  | .resetAssert => Sys2Proof.Machine.execResetAssert s
  | .resetNRise side => Sys2Proof.Machine.execResetNRise side s
  | .fuseLoadDone => Sys2Proof.Machine.execFuseLoadDone s
  | .imageLoadDone => Sys2Proof.Machine.execImageLoadDone s
  | .releaseStepDone ddrOk => Sys2Proof.Machine.execReleaseStepDone ddrOk s
  | .releaseStepTimeout => Sys2Proof.Machine.execReleaseStepTimeout s
  | .arbRaise => Sys2Proof.Machine.execArbRaise s
  | .freezeNLow held => Sys2Proof.Machine.execFreezeNLow held s
  | .freezeDrainLimit => Sys2Proof.Machine.execFreezeDrainLimit s
  | .freezeDrainEnd drainUs => Sys2Proof.Machine.execFreezeDrainEnd drainUs s
  | .frzDataCapture addr => Sys2Proof.Machine.execFrzDataCapture addr s
  | .glazeWordVisit addr mem ecc cancelled => Sys2Proof.Machine.execGlazeWordVisit addr mem ecc cancelled s
  | .glazePassEnd => Sys2Proof.Machine.execGlazePassEnd s
  | .glazeLate => Sys2Proof.Machine.execGlazeLate s
  | .patrolBurst ecc cancelled => Sys2Proof.Machine.execPatrolBurst ecc cancelled s
  | .arbiterRecompute => Sys2Proof.Machine.execArbiterRecompute s
  | .grantApplyDone => Sys2Proof.Machine.execGrantApplyDone s
  | .grantWait block => Sys2Proof.Machine.execGrantWait block s
  | .thermalSample t0 t1 t2 t3 => Sys2Proof.Machine.execThermalSample t0 t1 t2 t3 s
  | .estimatorUpdate arm => Sys2Proof.Machine.execEstimatorUpdate arm s
  | .calTreeRotate arm => Sys2Proof.Machine.execCalTreeRotate arm s
  | .cellPowerOn => Sys2Proof.Machine.execCellPowerOn s
  | .cellPowerOff => Sys2Proof.Machine.execCellPowerOff s
  | .cellFuseLoaded => Sys2Proof.Machine.execCellFuseLoaded s
  | .cellEepromLoaded image => Sys2Proof.Machine.execCellEepromLoaded image s
  | .cellNrst => Sys2Proof.Machine.execCellNrst s
  | .frameReceive link seen => Sys2Proof.Machine.execFrameReceive link seen s
  | .urgentBlockReceive link bits tick => Sys2Proof.Machine.execUrgentBlockReceive link bits tick s
  | .cellCycleStart => Sys2Proof.Machine.execCellCycleStart s
  | .leaseDecision => Sys2Proof.Machine.execLeaseDecision s
  | .orderExecute vcap => Sys2Proof.Machine.execOrderExecute vcap s
  | .trimEdge => Sys2Proof.Machine.execTrimEdge s
  | .deadtimeExpire => Sys2Proof.Machine.execDeadtimeExpire s
  | .cellCycleEnd => Sys2Proof.Machine.execCellCycleEnd s
  | .holdLimit => Sys2Proof.Machine.execHoldLimit s
  | .sampleConversion quads checks vdd => Sys2Proof.Machine.execSampleConversion quads checks vdd s
  | .averagingSlot code => Sys2Proof.Machine.execAveragingSlot code s
  | .housekeepingSlot code => Sys2Proof.Machine.execHousekeepingSlot code s
  | .injectedResult code aperture => Sys2Proof.Machine.execInjectedResult code aperture s
  | .selfCalStart tick => Sys2Proof.Machine.execSelfCalStart tick s
  | .selfCalEnd gndCodes refCodes => Sys2Proof.Machine.execSelfCalEnd gndCodes refCodes s
  | .slotBurstSend link => Sys2Proof.Machine.execSlotBurstSend link s
  | .mgmtBurstSend link sub => Sys2Proof.Machine.execMgmtBurstSend link sub s
  | .joinBurstSend link => Sys2Proof.Machine.execJoinBurstSend link s
  | .joinAckTimeout link => Sys2Proof.Machine.execJoinAckTimeout link s
  | .joinNakWaitEnd link => Sys2Proof.Machine.execJoinNakWaitEnd link s
  | .joinExchangeAbandon link => Sys2Proof.Machine.execJoinExchangeAbandon link s
  | .linkSilenceListen link => Sys2Proof.Machine.execLinkSilenceListen link s
  | .ov1Trip tick vcap => Sys2Proof.Machine.execOv1Trip tick vcap s
  | .ov1Rearm => Sys2Proof.Machine.execOv1Rearm s
  | .ov2Trip tick vcap => Sys2Proof.Machine.execOv2Trip tick vcap s
  | .uvChange vcap => Sys2Proof.Machine.execUvChange vcap s
  | .dsatFault input tick => Sys2Proof.Machine.execDsatFault input tick s
  | .gdpgLow tick => Sys2Proof.Machine.execGdpgLow tick s
  | .vstgRise mv => Sys2Proof.Machine.execVstgRise mv s
  | .vstgFall mv tick => Sys2Proof.Machine.execVstgFall mv tick s
  | .lossOfSignal link tick => Sys2Proof.Machine.execLossOfSignal link tick s
  | .cellHoldoverExpire tick => Sys2Proof.Machine.execCellHoldoverExpire tick s
  | .signalReturn link => Sys2Proof.Machine.execSignalReturn link s
  | .clockLock => Sys2Proof.Machine.execClockLock s
  | .clockLockLost tick => Sys2Proof.Machine.execClockLockLost tick s
  | .steeringChange delta => Sys2Proof.Machine.execSteeringChange delta s
  | .babbleTrip seen => Sys2Proof.Machine.execBabbleTrip seen s
  | .tsenseEdge rising at25 => Sys2Proof.Machine.execTsenseEdge rising at25 s
  | .wearEntryWrite => Sys2Proof.Machine.execWearEntryWrite s
  | .eepromWriteDone readBack => Sys2Proof.Machine.execEepromWriteDone readBack s
  | .cPrbsUpdate value => Sys2Proof.Machine.execCPrbsUpdate value s
  | .cPrbsErrRead => Sys2Proof.Machine.execCPrbsErrRead s
  | .cMemDataCapture addr => Sys2Proof.Machine.execCMemDataCapture addr s
  | .cMemDataUpdate addr value => Sys2Proof.Machine.execCMemDataUpdate addr value s
  | .gdpgHigh => Sys2Proof.Machine.execGdpgHigh s
  | .watchdogLapse => Sys2Proof.Machine.execWatchdogLapse s
  | .diagFreezeStart => Sys2Proof.Machine.execDiagFreezeStart s
  | .preferredDomainReturn => Sys2Proof.Machine.execPreferredDomainReturn s
  | .retrainHoldoffEnd lane => Sys2Proof.Machine.execRetrainHoldoffEnd lane s
  | .skeundKeyAge => Sys2Proof.Machine.execSkeundKeyAge s
  | .supervisorSramUeReset => Sys2Proof.Machine.execSupervisorSramUeReset s
  | .timePortFrameDiscard port cause => Sys2Proof.Machine.execTimePortFrameDiscard port cause s

end Sys2Proof.Machine
end

