-- ==== Sys2Proof/WellFormed.lean ====
section
/-! DEFINITION. Well-formed commands: the unit a command's operand names exists in the chip family
(R5, R7, R13, R14, R365, R428, R429, R451). A command about any other unit is refused. -/

namespace Sys2Proof

/-- The kinds of unit an operand names. -/
inductive UnitKind
  | arm | treePort | cell | lane | timePort | domain | ppsInput | blockPin | queue | mailbox | core | block
  deriving DecidableEq, Repr

/-- How many units of a kind the largest part of the family has. -/
def UnitKind.count : UnitKind → Nat
  | .arm => 6 | .treePort => 52 | .cell => 3168 | .lane => 4 | .timePort => 2 | .domain => 2 | .ppsInput => 2
  | .blockPin => 4 | .queue => 6 | .mailbox => 4 | .core => 4 | .block => 6

/-- The units of the kind of lane a PRBS checker serves (R388). -/
def LaneKind.units : LaneKind → Nat | .tree => 52 | .skeund => 4 | .timePort => 2 | .cellLink => 2

/-- The operand names an existing unit. -/
def unitOk (k : UnitKind) (n : Nat) : Bool := n < k.count

/-- The command is well formed. -/
def wellFormed : Instr → Bool
  | .cycleStart => true
  | .aceStep arm _ => unitOk .arm arm
  | .sort arm _ => unitOk .arm arm
  | .orderAssembly port => unitOk .treePort port
  | .orderFrameLaunch port _ => unitOk .treePort port
  | .repeatCopyLaunch port => unitOk .treePort port
  | .blockInAssert pin _ _ => unitOk .blockPin pin
  | .slotBurstReceive port _ _ => unitOk .treePort port
  | .quarantine cell => unitOk .cell cell
  | .cellLost cell => unitOk .cell cell
  | .initialProving cell => unitOk .cell cell
  | .provingBlock cell => unitOk .cell cell
  | .joinBurstReceive port _ _ => unitOk .treePort port
  | .joinKeyDerived port => unitOk .treePort port
  | .joinExchangeTimeout port => unitOk .treePort port
  | .quarHoldExpire cell => unitOk .cell cell
  | .cellParamReadTimeout cell => unitOk .cell cell
  | .cellPatchSend cell => unitOk .cell cell
  | .mirrorAccept => true
  | .skeundFrameReceive lane _ => unitOk .lane lane
  | .treeSilenceEnd => true
  | .skeundEpochTimeout => true
  | .twinAliveLost => true
  | .twinAliveHealthy => true
  | .watchdogReset => true
  | .handoverYieldTimeout arm => unitOk .arm arm
  | .timeMarkSend => true
  | .timeMarkReceive lane _ => unitOk .lane lane
  | .twinServoUpdate => true
  | .ptpSyncReceive port _ => unitOk .timePort port
  | .ptpAnnounceReceive port _ => unitOk .timePort port
  | .announceTimeout domain => unitOk .domain domain
  | .pdelayReqSend port => unitOk .timePort port
  | .pdelayReqReceive port _ _ => unitOk .timePort port
  | .pdelayRespReceive port _ => unitOk .timePort port
  | .pdelayTimeout port => unitOk .timePort port
  | .timePortFrameLaunch port _ => unitOk .timePort port
  | .timePortLinkChange port _ => unitOk .timePort port
  | .timeStep => true
  | .holdoverExpire => true
  | .refOffset => true
  | .ppsInEdge input _ => unitOk .ppsInput input
  | .ppsMiss input => unitOk .ppsInput input
  | .ppsOutPulse _ _ => true
  | .rootPllUnlock => true
  | .refLoss => true
  | .refReturn => true
  | .rootPllLock => true
  | .trainingFrameSend lane => unitOk .lane lane
  | .trainingFrameReceive lane _ => unitOk .lane lane
  | .laneTrainTimeout lane => unitOk .lane lane
  | .laneTrainRetry lane => unitOk .lane lane
  | .laneLost lane _ => unitOk .lane lane
  | .laneStatusSend => true
  | .laneStatusReceive _ => true
  | .widthChange => true
  | .laneRetrainDone lane => unitOk .lane lane
  | .prbsCheckerResync kind index _ => index < kind.units
  | .skeundKeyOfferReceive _ => true
  | .skeundKeyRetry => true
  | .treeRekeyStart port => unitOk .treePort port
  | .rekeyDone port => unitOk .treePort port
  | .sessionKeyRoll => true
  | .recordIntervalWrite _ => true
  | .triggerDecide => true
  | .autoTrigger => true
  | .segmentClose => true
  | .recorderRearm => true
  | .tqDataRead queue => unitOk .queue queue
  | .mbxRing _ _ => true
  | .mbxDoneClear _ => true
  | .ringRejectClear _ => true
  | .mbxWindowWrite _ _ _ => true
  | .evtTailWrite _ => true
  | .evtLostRead => true
  | .spiCrcFailRead => true
  | .timeSnapLoRead _ _ => true
  | .registerWriteOther _ _ _ _ => true
  | .spiRead _ _ _ => true
  | .spiWrite _ _ => true
  | .spiReadCrc _ _ _ => true
  | .spiWriteCrc _ _ _ => true
  | .spiUnknownInstruction _ _ => true
  | .pcieReset => true
  | .mailboxTake mb => unitOk .mailbox mb
  | .jobDispatch core _ => unitOk .core core
  | .jobRelease core _ => unitOk .core core
  | .eventEntryWrite => true
  | .overflowEntryWrite => true
  | .commandTimeout mb => unitOk .mailbox mb
  | .commandApplyResponse mb => unitOk .mailbox mb
  | .bakeRecheck => true
  | .bakeApply => true
  | .paramStageConfirmDeadline => true
  | .devEcho mb => unitOk .mailbox mb
  | .devInfo mb => unitOk .mailbox mb
  | .devStatus mb => unitOk .mailbox mb
  | .devReset mb => unitOk .mailbox mb
  | .devResetExecute => true
  | .cfgStageWrite mb => unitOk .mailbox mb
  | .cfgStageRead mb => unitOk .mailbox mb
  | .cfgDiscard mb => unitOk .mailbox mb
  | .cfgBake mb => unitOk .mailbox mb
  | .cfgBakeStatus mb => unitOk .mailbox mb
  | .cfgDigest mb => unitOk .mailbox mb
  | .cellState mb => unitOk .mailbox mb
  | .cellParamRead mb => unitOk .mailbox mb
  | .cellParamWrite mb => unitOk .mailbox mb
  | .cellFaultClear mb => unitOk .mailbox mb
  | .cellGateEnable mb => unitOk .mailbox mb
  | .cellRelease mb => unitOk .mailbox mb
  | .cellInject mb => unitOk .mailbox mb
  | .cellEepromRead mb => unitOk .mailbox mb
  | .armStatus mb => unitOk .mailbox mb
  | .armMode mb => unitOk .mailbox mb
  | .armManualInput mb => unitOk .mailbox mb
  | .armReference mb => unitOk .mailbox mb
  | .armInject mb => unitOk .mailbox mb
  | .armBlock mb _ => unitOk .mailbox mb
  | .armUnblock mb => unitOk .mailbox mb
  | .balExclude mb => unitOk .mailbox mb
  | .balRankRead mb => unitOk .mailbox mb
  | .balCalRead mb => unitOk .mailbox mb
  | .balCalReset mb => unitOk .mailbox mb
  | .balEdgeReset mb => unitOk .mailbox mb
  | .redLeaseMap mb => unitOk .mailbox mb
  | .redClaim mb => unitOk .mailbox mb
  | .redIsolate mb => unitOk .mailbox mb
  | .redHandover mb => unitOk .mailbox mb
  | .timeSnapshot mb _ => unitOk .mailbox mb
  | .timeDomain mb => unitOk .mailbox mb
  | .timeSet mb => unitOk .mailbox mb
  | .timeRebase mb => unitOk .mailbox mb
  | .recStatus mb => unitOk .mailbox mb
  | .recStart mb => unitOk .mailbox mb
  | .recStop mb => unitOk .mailbox mb
  | .recTrigger mb => unitOk .mailbox mb
  | .recRelease mb => unitOk .mailbox mb
  | .recHeader mb => unitOk .mailbox mb
  | .recExport mb _ => unitOk .mailbox mb
  | .recMissLog mb => unitOk .mailbox mb
  | .diagCounters mb => unitOk .mailbox mb
  | .diagEdge mb => unitOk .mailbox mb
  | .diagEdgeRead mb => unitOk .mailbox mb
  | .diagEdgeLearned mb => unitOk .mailbox mb
  | .diagTx mb => unitOk .mailbox mb
  | .diagPrbs mb => unitOk .mailbox mb
  | .diagBitslip mb _ => unitOk .mailbox mb
  | .diagTrace mb => unitOk .mailbox mb
  | .diagFreeze mb => unitOk .mailbox mb
  | .diagCellFreeze mb => unitOk .mailbox mb
  | .secNonce mb => unitOk .mailbox mb
  | .secImageWrite mb => unitOk .mailbox mb
  | .secImageVerify mb => unitOk .mailbox mb
  | .secImageActivate mb => unitOk .mailbox mb
  | .secOwnerUpdate mb => unitOk .mailbox mb
  | .secRekey mb => unitOk .mailbox mb
  | .secCellPatch mb => unitOk .mailbox mb
  | .secLogRead mb => unitOk .mailbox mb
  | .evtEnable mb => unitOk .mailbox mb
  | .evtVectorMap mb => unitOk .mailbox mb
  | .resetAssert => true
  | .resetNRise _ => true
  | .fuseLoadDone => true
  | .imageLoadDone => true
  | .releaseStepDone _ => true
  | .releaseStepTimeout => true
  | .arbRaise => true
  | .freezeNLow _ => true
  | .freezeDrainLimit => true
  | .freezeDrainEnd _ => true
  | .frzDataCapture _ => true
  | .glazeWordVisit _ _ _ _ => true
  | .glazePassEnd => true
  | .glazeLate => true
  | .patrolBurst _ _ => true
  | .arbiterRecompute => true
  | .grantApplyDone => true
  | .grantWait block => unitOk .block block
  | .thermalSample _ _ _ _ => true
  | .estimatorUpdate arm => unitOk .arm arm
  | .calTreeRotate arm => unitOk .arm arm
  | .cellPowerOn => true
  | .cellPowerOff => true
  | .cellFuseLoaded => true
  | .cellEepromLoaded _ => true
  | .cellNrst => true
  | .frameReceive _ _ => true
  | .urgentBlockReceive _ _ _ => true
  | .cellCycleStart => true
  | .leaseDecision => true
  | .orderExecute _ => true
  | .trimEdge => true
  | .deadtimeExpire => true
  | .cellCycleEnd => true
  | .holdLimit => true
  | .sampleConversion _ _ _ => true
  | .averagingSlot _ => true
  | .housekeepingSlot _ => true
  | .injectedResult _ _ => true
  | .selfCalStart _ => true
  | .selfCalEnd _ _ => true
  | .slotBurstSend _ => true
  | .mgmtBurstSend _ _ => true
  | .joinBurstSend _ => true
  | .joinAckTimeout _ => true
  | .joinNakWaitEnd _ => true
  | .joinExchangeAbandon _ => true
  | .linkSilenceListen _ => true
  | .ov1Trip _ _ => true
  | .ov1Rearm => true
  | .ov2Trip _ _ => true
  | .uvChange _ => true
  | .dsatFault _ _ => true
  | .gdpgLow _ => true
  | .vstgRise _ => true
  | .vstgFall _ _ => true
  | .lossOfSignal _ _ => true
  | .cellHoldoverExpire _ => true
  | .signalReturn _ => true
  | .clockLock => true
  | .clockLockLost _ => true
  | .steeringChange _ => true
  | .babbleTrip _ => true
  | .tsenseEdge _ _ => true
  | .wearEntryWrite => true
  | .eepromWriteDone _ => true
  | .cPrbsUpdate _ => true
  | .cPrbsErrRead => true
  | .cMemDataCapture _ => true
  | .cMemDataUpdate _ _ => true
  | .gdpgHigh => true
  | .watchdogLapse => true
  | .diagFreezeStart => true
  | .preferredDomainReturn => true
  | .retrainHoldoffEnd lane => unitOk .lane lane
  | .skeundKeyAge => true
  | .supervisorSramUeReset => true
  | .timePortFrameDiscard port _ => unitOk .timePort port

end Sys2Proof
end

