-- ==== Sys2Proof/Safety.lean ====
section
/-! DEFINITION. What a safe run is, and the vocabulary of the statements: canonical memories, a queue
of well-formed commands, a command that is due in its mailbox, and its answer. -/

namespace Sys2Proof.Machine

/-- Every byte memory of the block is in canonical form. -/
def memWf (m : Stores) : Bool :=
  [MemId.flash, .ddr, .ring, .msix, .window 0, .window 1, .window 2, .window 3, .eeprom, .nv].all fun i =>
    Memory.wf (memDefault i) (memGet m i)

/-- The invariant of every step: canonical memories, no write of a command left outside them, and no vector condition
left unsettled (R449). -/
def Inv (s : State) : Prop := memWf s.mem = true ∧ s.dir.writes = [] ∧ s.cell.writes = [] ∧ s.dir.host.trig = 0

/-- A safe state: the invariant, and every waiting command is well formed. -/
def Safe (s : State) : Prop := Inv s ∧ s.pending.all wellFormed = true

/-- The command of opcode `op` is due in mailbox `mb`: the firmware serves, the mailbox is ACTIVE with it, and
its row has not run. -/
def Due (s : State) (mb op : Nat) (c : Cmd) : Prop :=
  mb < 4 ∧ serves s.dir = true ∧ (mbx s.dir mb).state = .active ∧ (mbx s.dir mb).cmd = some c ∧ c.opcode.toNat = op ∧ c.wait = .job

/-- The command `c` stands answered in mailbox `mb` of a director, with this status and payload. -/
def Answered (d : Director) (mb : Nat) (c : Cmd) (status : Nat) (payload : List Byte) : Prop :=
  (mbx d mb).state = .done ∧ (mbx d mb).rsp = some (rspOf c status payload)

/-- The first thing the director put out in this command is data for a read. -/
def Replied (d : Director) (bytes : List Byte) : Prop := d.tx.head? = some (.reply bytes)

/-- An event of this source, detail and DATA has been decided and waits for its ring entry. -/
def Decided (d : Director) (source detail : Nat) (data : List Byte) : Prop :=
  ∃ e ∈ d.ring.decided, e.source = source ∧ e.detail = detail ∧ e.data = padTo 12 data

/-- The source lives in this part and its bit of the enable mask is set. -/
def Enabled (d : Director) (source : Nat) : Prop := sourceLive d source = true ∧ d.ring.enable.getLsbD source = true

/-- The commands that act on the cell controller. -/
def actsOnCell : Instr → Bool
  | .cellPowerOn | .cellPowerOff | .cellFuseLoaded | .cellEepromLoaded _ | .cellNrst | .frameReceive _ _ | .urgentBlockReceive _ _ _
  | .cellCycleStart | .leaseDecision | .orderExecute _ | .trimEdge | .deadtimeExpire | .cellCycleEnd | .holdLimit
  | .sampleConversion _ _ _ | .averagingSlot _ | .housekeepingSlot _ | .injectedResult _ _ | .selfCalStart _ | .selfCalEnd _ _
  | .slotBurstSend _ | .mgmtBurstSend _ _ | .joinBurstSend _ | .joinAckTimeout _ | .joinNakWaitEnd _ | .joinExchangeAbandon _
  | .linkSilenceListen _ | .ov1Trip _ _ | .ov1Rearm | .ov2Trip _ _ | .uvChange _ | .dsatFault _ _ | .gdpgLow _ | .vstgRise _
  | .vstgFall _ _ | .lossOfSignal _ _ | .cellHoldoverExpire _ | .signalReturn _ | .clockLock | .clockLockLost _ | .steeringChange _
  | .babbleTrip _ | .tsenseEdge _ _ | .wearEntryWrite | .eepromWriteDone _ | .cPrbsUpdate _ | .cPrbsErrRead | .cMemDataCapture _
  | .cMemDataUpdate _ _ | .gdpgHigh => true
  | .prbsCheckerResync .cellLink _ _ => true
  | _ => false

/-- Outside `n` bytes from `a` of memory `i`, memory `k` reads as before. -/
def OtherBytesKept (m m' : Stores) (i : MemId) (a n : Nat) (k : MemId) : Prop :=
  ∀ x, (k ≠ i ∨ x < a ∨ a + n ≤ x) → rdByte m' k x = rdByte m k x

end Sys2Proof.Machine
end

