-- ==== Sys2Proof/Certificates/Slice0/Obligations.lean ====
section
/-! DEFINITION. The statements for the provers. -/

open Sys2Proof Sys2Proof.Machine

/-- The front command of the queue is the one that runs, with the queue's rest behind it. -/
def Obligations.StepRunsTheFrontCommand : Prop :=
  ∀ (c : Instr) (rest : List Instr) (s : State), step { s with pending := c :: rest } = exec c { s with pending := rest }

/-- An empty queue idles: the state stays as it is (the model's choice, assumption 2). -/
def Obligations.StepIdlesOnAnEmptyQueue : Prop :=
  ∀ s : State, s.pending = [] → step s = .next s

/-- A command completes exactly when it is well formed; any other names a unit that no chip of the family has, and is
refused for that; no command faults (the model's choice for absent units, assumption 6). -/
def Obligations.WellFormedCommandsComplete : Prop :=
  ∀ (i : Instr) (s : State), (wellFormed i = true → ∃ t, exec i s = .next t)
    ∧ (wellFormed i = false → exec i s = .refused .noSuchUnit)

/-- A command acts on everything but the queue, and counts one more key of free values. -/
def Obligations.CommandsLeaveTheQueue : Prop :=
  ∀ (i : Instr) (s t : State), exec i s = .next t → t.pending = s.pending ∧ t.fresh = s.fresh + 1

/-- From every state with canonical memories, every step leaves canonical memories, no write outside them and no vector condition unsettled. -/
def Obligations.EveryStepKeepsTheMemoriesCanonical : Prop :=
  ∀ s t : State, Inv s → step s = .next t → Inv t

/-- The state after reset has canonical memories, and a safe (empty) queue. -/
def Obligations.ResetIsSafe : Prop := Safe State.reset

/-- From a safe state every step answers a safe state: no fault and no refusal is ever reached. -/
def Obligations.SafeStatesStaySafe : Prop :=
  ∀ s : State, Safe s → ∃ t, step s = .next t ∧ Safe t

/-- A command acts on one chip: a director's command leaves the cell controller as it is, a cell's command the director. -/
def Obligations.CommandsActOnOneChip : Prop :=
  ∀ (i : Instr) (s t : State), exec i s = .next t → if actsOnCell i then t.dir = s.dir else t.cell = s.cell

/-- Writing bytes: the written addresses read the new bytes, and every other address of every memory reads as before. -/
def Obligations.WritesReadBack : Prop :=
  ∀ (m : Stores) (i : MemId) (a : Nat) (bs : List Byte), memWf m = true → (∀ n, i = .window n → n < 4) →
    (∀ j, (h : j < bs.length) → rdByte (applyWrite m { dest := i, addr := a, data := bs }) i (a + j) = bs[j])
      ∧ (∀ k, (∀ n, k = .window n → n < 4) → OtherBytesKept m (applyWrite m { dest := i, addr := a, data := bs }) i a bs.length k)

/-- Reading EVT_LOST or SPI_CRC_FAIL returns the count and clears it (R428, access RC). A read of TIME_SNAP_LO returns the nanoseconds and latches the seconds in the shadow of its interface alone; a read of TIME_SNAP_HI, the other half of BAR0's only split register, returns that shadow and changes nothing (R23, R427). An SPI read returns as many bytes as were clocked; with READ_CRC the CRC-16 over instruction, address and data
follows them; an unknown instruction returns zeros (R424, R425). -/
def Obligations.HostReads : Prop :=
  (∀ s : State, s.dir.pins.resetN = true → s.dir.frz.frozen = false →
    (∃ t, exec .evtLostRead s = .next t ∧ Replied t.dir (b4 s.dir.ring.lost.toNat) ∧ t.dir.ring = { s.dir.ring with lost := 0 } ∧ t.mem = s.mem)
      ∧ (∃ t, exec .spiCrcFailRead s = .next t ∧ Replied t.dir (b4 s.dir.host.spiCrcFail.toNat) ∧ t.dir.host.spiCrcFail = 0
          ∧ t.dir.ring = s.dir.ring ∧ t.mem = s.mem))
    ∧ (∀ (s : State) (i : Iface) (tick : Nat), s.dir.pins.resetN = true → s.dir.frz.frozen = false →
    ∃ t, exec (.timeSnapLoRead i tick) s = .next t
      ∧ Replied t.dir (b4 (fld (time96 (timeAt s.dir tick)).toNat 45 16))
      ∧ shadow t.dir i = BitVec.ofNat 32 (fld (time96 (timeAt s.dir tick)).toNat 79 48)
      ∧ ∀ j, j ≠ i → shadow t.dir j = shadow s.dir j)
    ∧ (∀ (s : State) (i : Iface) (tick : Nat), s.dir.frz.frozen = false → regRead s.mem s.dir i 0x034 tick = (s.dir, (shadow s.dir i).toNat))
    ∧ (∀ (s : State) (addr len tick : Nat) (code : BitVec 8), s.dir.pins.resetN = true →
    ∃ bs t u v, bs.length = len
      ∧ exec (.spiRead addr len tick) s = .next t ∧ Replied t.dir bs
      ∧ exec (.spiReadCrc addr len tick) s = .next u ∧ Replied u.dir (bs ++ toBE 2 (spiCrc 0x0B addr bs))
      ∧ exec (.spiUnknownInstruction code len) s = .next v ∧ Replied v.dir (zeros len) ∧ v.mem = s.mem)

/-- A ring of an IDLE mailbox makes it PENDING and records the interface; a ring of any other is ignored and sets its
RING_REJECT (R430, R431). The other mailboxes are as before. Clearing a DONE bit returns the mailbox to IDLE; clearing RING_REJECT clears that bit alone (R428, R430). -/
def Obligations.MailboxBits : Prop :=
  (∀ (s : State) (i : Iface) (n : Nat), n < 4 → ifaceUp s.dir i = true →
    ∃ t, exec (.mbxRing i (BitVec.twoPow 4 n)) s = .next t
      ∧ (if (mbx s.dir n).state = .idle
          then mbx t.dir n = { mbx s.dir n with state := .pending, iface := i, rungAt := s.dir.time.raw }
          else mbx t.dir n = { mbx s.dir n with reject := true })
      ∧ (∀ k, k ≠ n → mbx t.dir k = mbx s.dir k) ∧ t.mem = s.mem)
    ∧ (∀ (s : State) (n : Nat), n < 4 → regsUp s.dir = true →
    (∃ t, exec (.mbxDoneClear (BitVec.twoPow 4 n)) s = .next t
        ∧ mbx t.dir n = (if (mbx s.dir n).state = .done then { mbx s.dir n with state := .idle } else mbx s.dir n)
        ∧ (∀ k, k ≠ n → mbx t.dir k = mbx s.dir k) ∧ t.mem = s.mem)
      ∧ (∃ t, exec (.ringRejectClear (BitVec.twoPow 4 n)) s = .next t ∧ mbx t.dir n = { mbx s.dir n with reject := false }
        ∧ (∀ k, k ≠ n → mbx t.dir k = mbx s.dir k) ∧ t.mem = s.mem))

/-- A write inside the command window of an unlocked mailbox reaches that window and nothing else; a locked window
(PENDING or ACTIVE) ignores it, and source 97 reports it with detail 0x01 (R429, R431, R447). An SPI write over the
window's addresses does the same, and one with a CRC that does not match is dropped and counted (R424, R425). -/
def Obligations.CommandWindowWrites : Prop :=
  ∀ (s : State) (i : Iface) (n o : Nat) (data : List Byte), n < 4 → 1 ≤ data.length → o + data.length ≤ 4096 → Inv s →
    ifaceUp s.dir i = true → hostUp s.dir = true →
    (locked s.dir n = false →
      (∃ t, exec (.mbxWindowWrite i (8192 * n + o) data) s = .next t
        ∧ (∀ j, (h : j < data.length) → rdByte t.mem (.window n) (o + j) = data[j])
        ∧ (∀ k, (∀ q, k = .window q → q < 4) → OtherBytesKept s.mem t.mem (.window n) o data.length k)
        ∧ (∃ u, exec (.spiWrite (0x10000 + 8192 * n + o) data) s = .next u ∧ u.mem = t.mem)
        ∧ (data.length ≤ 256 → ∃ u, exec (.spiWriteCrc (0x10000 + 8192 * n + o) data
              (some (BitVec.ofNat 16 (spiCrc 0x0A (0x10000 + 8192 * n + o) data)))) s = .next u ∧ u.mem = t.mem)))
    ∧ (locked s.dir n = true →
      ∃ t, exec (.mbxWindowWrite i (8192 * n + o) data) s = .next t ∧ t.mem = s.mem ∧ t.dir.mbs = s.dir.mbs
        ∧ (Enabled s.dir 97 → Decided t.dir 97 0x01 []))
    ∧ ∃ t, exec (.spiWriteCrc (0x10000 + 8192 * n + o) data none) s = .next t ∧ t.mem = s.mem ∧ t.dir.mbs = s.dir.mbs
        ∧ t.dir.host.spiCrcFail = satInc s.dir.host.spiCrcFail ∧ (Enabled s.dir 97 → Decided t.dir 97 0x04 [])

/-- A TAIL write that adds no unread entry moves TAIL; one that would add some is ignored and reported (R444). A write to BAR0 that is not a whole aligned word is ignored and reported with detail 0x05; a whole word written
to an offset without a writable register changes nothing (R21, R426, R428). -/
def Obligations.HostRegisterWrites : Prop :=
  (∀ (s : State) (v : BitVec 32), regsUp s.dir = true →
    ∃ t, exec (.evtTailWrite v) s = .next t ∧ t.mem = s.mem
      ∧ (if unread s.dir < (s.dir.ring.head + 2048 - v.toNat % 2048) % 2048
          then t.dir.ring.tail = s.dir.ring.tail ∧ (Enabled s.dir 97 → Decided t.dir 97 0x03 [])
          else t.dir.ring = { s.dir.ring with tail := v.toNat % 2048 }))
    ∧ (∀ (s : State) (i : Iface) (o : Nat) (v : BitVec 32), o < 0x1000 → ifaceUp s.dir i = true →
    (∃ t, exec (.registerWriteOther i o v false) s = .next t ∧ t.mem = s.mem ∧ t.dir.mbs = s.dir.mbs
        ∧ (Enabled s.dir 97 → Decided t.dir 97 0x05 []))
      ∧ (o % 4 = 0 → o ≠ 0x010 → o ≠ 0x014 → o ≠ 0x024 → ¬(0x800 ≤ o ∧ o < 0xA00) →
          ∃ t, exec (.registerWriteOther i o v true) s = .next t ∧ t.mem = s.mem ∧ t.dir.mbs = s.dir.mbs ∧ t.dir.ring = s.dir.ring))

/-- A PCI Express reset clears bus mastering and the pending bits and masks every vector; the mailboxes, the event ring
and all else of the director stay (R423). -/
def Obligations.PcieResetTouchesOnlyItsEndpoint : Prop :=
  ∀ s : State, s.dir.pins.resetN = true → Inv s →
    ∃ t, exec .pcieReset s = .next t ∧ t.dir.host.busMaster = false ∧ t.dir.host.pba = 0
      ∧ (∀ v, v < 32 → vectorMasked t.mem v = true)
      ∧ (∀ k, k ≠ .msix → memGet t.mem k = memGet s.mem k)
      ∧ t.dir = { s.dir with host := t.dir.host, tx := t.dir.tx }
      ∧ t.dir.host = { s.dir.host with busMaster := false, pba := 0 }

/-- A PENDING mailbox whose turn it is becomes ACTIVE with the command that stands in its window, and a job of its
level is submitted (R430, R433, R434, R451); a command whose header and LENGTH pass stays ACTIVE, waiting for its row. A core with no job takes the oldest job of the highest level that holds one; a core that finishes a job frees
itself, and a ticket that is its flow's next is released (R451, R453). -/
def Obligations.CommandsBecomeJobs : Prop :=
  (∀ (s : State) (n : Nat), n < 4 → serves s.dir = true → s.dir.frz.draining = false → (mbx s.dir n).state = .pending →
    (∀ k, k < n → (mbx s.dir k).state ≠ .pending) → (levelQ s.dir (mbxLevel n)).length < 256 →
    ((flowOf s.dir n).next = (flowOf s.dir n).release ∨ (flowOf s.dir n).level = mbxLevel n) →
    headFails (s.dir.boot.state = .safe) (rdBytes s.mem (.window n) 0 16) = none →
    leAt (rdBytes s.mem (.window n) 0 16) 4 2 ≤ 4080 →
    (∀ r, (mbx s.dir n).last = some r →
      r.opcode.toNat ≠ leAt (rdBytes s.mem (.window n) 0 16) 0 2 ∨ r.sequence.toNat ≠ leAt (rdBytes s.mem (.window n) 0 16) 6 4) →
    lenFits (leAt (rdBytes s.mem (.window n) 0 16) 0 2) (leAt (rdBytes s.mem (.window n) 0 16) 4 2)
      (rdBytes s.mem (.window n) 16 (leAt (rdBytes s.mem (.window n) 0 16) 4 2)) = true →
    ∃ t c, exec (.mailboxTake n) s = .next t ∧ (mbx t.dir n).state = .active ∧ (mbx t.dir n).cmd = some c
      ∧ c.opcode.toNat = leAt (rdBytes s.mem (.window n) 0 16) 0 2
      ∧ c.payload = rdBytes s.mem (.window n) 16 (leAt (rdBytes s.mem (.window n) 0 16) 4 2)
      ∧ c.iface = (mbx s.dir n).iface ∧ c.wait = .job ∧ t.mem = s.mem
      ∧ ∃ j, levelQ t.dir (mbxLevel n) = levelQ s.dir (mbxLevel n) ++ [j] ∧ j.mb = some n ∧ j.level = mbxLevel n)
    ∧ ((∀ (s : State) (core l : Nat) (j : Job) (r : List Job), core < 4 → serves s.dir = true → coreJob s.dir core = none → l < 8 →
      levelQ s.dir l = j :: r → (∀ k, l < k → k < 8 → levelQ s.dir k = []) →
      ∃ t, exec (.jobDispatch core none) s = .next t ∧ coreJob t.dir core = some j ∧ levelQ t.dir l = r)
    ∧ ∀ (s : State) (core : Nat) (j : Job) (releases : Bool), core < 4 → serves s.dir = true → coreJob s.dir core = some j →
      ∃ t, exec (.jobRelease core releases) s = .next t ∧ coreJob t.dir core = none
        ∧ ∀ f tk, j.flow = some (f, tk) → tk = (flowOf s.dir f).release → (flowOf s.dir f).finished = [] →
            (flowOf t.dir f).release = tk + 1)

/-- The oldest decided event is written at HEAD with the next sequence number and HEAD advances, while the ring has
room; with the ring full it is counted and the overflow is marked (R443, R444, R445). Once two entries fit, the overflow owed is written as an entry of source 96, detail 0x01, and OVF clears (R443). -/
def Obligations.WritingRingEntries : Prop :=
  (∀ (s : State) (e : Event) (r : List Event), serves s.dir = true → s.dir.ring.decided = e :: r →
    (unread s.dir < 2047 → memWf s.mem = true →
      ∃ t, exec .eventEntryWrite s = .next t ∧ t.dir.ring.decided = r ∧ t.dir.ring.head = (s.dir.ring.head + 1) % 2048
        ∧ t.dir.ring.seq = s.dir.ring.seq + 1
        ∧ (∀ i, (h : i < 32) → rdByte t.mem .ring (32 * (s.dir.ring.head % 2048) + i) = (entryBytes s.dir.ring.seq e).getD i 0)
        ∧ (∀ k, OtherBytesKept s.mem t.mem .ring (32 * (s.dir.ring.head % 2048)) 32 k))
    ∧ (2047 ≤ unread s.dir →
      ∃ t, exec .eventEntryWrite s = .next t ∧ t.dir.ring.decided = r ∧ t.dir.ring.head = s.dir.ring.head
        ∧ t.dir.ring.lost = satInc s.dir.ring.lost ∧ t.dir.ring.ovf = true ∧ t.mem = s.mem))
    ∧ (∀ s : State, serves s.dir = true → s.dir.ring.ovf = true → unread s.dir ≤ 2045 → s.dir.ring.enable.getLsbD 96 = true →
    ∃ t, exec .overflowEntryWrite s = .next t ∧ t.dir.ring.ovf = false ∧ t.dir.ring.head = (s.dir.ring.head + 1) % 2048
      ∧ (memWf s.mem = true → rdByte t.mem .ring (32 * (s.dir.ring.head % 2048) + 4) = 96
          ∧ rdByte t.mem .ring (32 * (s.dir.ring.head % 2048) + 5) = 1))

/-- A command that waits for a cell or for the twin longer than its class allows answers TIMEOUT (R438). A class A command answers with the outcome that its step decided (R482). -/
def Obligations.AppliedAndTimedOutCommandsAnswer : Prop :=
  (∀ (s : State) (n : Nat) (c : Cmd), n < 4 → serves s.dir = true → (mbx s.dir n).cmd = some c →
    ((∃ i k, c.wait = .cell i k) ∨ c.wait = .twin) → c.rungAt + classLimit s.dir c.opcode.toNat < s.dir.time.raw →
    ∃ t, exec (.commandTimeout n) s = .next t ∧ Answered t.dir n c stTimeout [] ∧ t.mem = s.mem)
    ∧ (∀ (s : State) (n : Nat) (c : Cmd) (st : BitVec 8) (p : List Byte), n < 4 → serves s.dir = true → (mbx s.dir n).cmd = some c →
    c.outcome = some (st, p) →
    ∃ t, exec (.commandApplyResponse n) s = .next t ∧ Answered t.dir n c st.toNat p ∧ t.mem = s.mem ∧ t.dir.arms = s.dir.arms)

/-- The device group answers: DEV_ECHO its payload and nothing else changes but its mailbox and the host's vectors, DEV_INFO 64 bytes that begin with PART, REV and SIDE, DEV_STATUS 32
bytes that begin with the cycle number (R459, R460, R461). DEV_RESET with its CONFIRM word answers OK and schedules the reset; with MODE 0 it is refused with STATE while this
director is AUTHORITY of an arm in MANUAL, AUTO or HOLD (R462). The reset leads to FUSE_LOAD with the fuses as they were (R535). -/
def Obligations.DeviceCommands : Prop :=
  ((∀ s mb c, Due s mb 0x0100 c → ∃ t, exec (.devEcho mb) s = .next t ∧ Answered t.dir mb c stOK c.payload ∧ t.mem = s.mem
        ∧ (∀ k, k ≠ mb → mbx t.dir k = mbx s.dir k)
        ∧ t.dir = { s.dir with mbs := t.dir.mbs, host := t.dir.host, tx := t.dir.tx, writes := t.dir.writes })
    ∧ (∀ s mb c, Due s mb 0x0101 c → ∃ t p, exec (.devInfo mb) s = .next t ∧ Answered t.dir mb c stOK p ∧ p.length = 64
        ∧ leAt p 0 2 = part s.dir ∧ byteAt p 2 = 0x0B ∧ byteAt p 3 = sideNum s.dir ∧ leAt p 4 2 = kudenWord s.dir
        ∧ leAt p 20 8 = deviceId s.dir)
    ∧ (∀ s mb c, Due s mb 0x0102 c → ∃ t p, exec (.devStatus mb) s = .next t ∧ Answered t.dir mb c stOK p ∧ p.length = 32
        ∧ leAt p 0 4 = (if s.dir.cfg.baked then (cyc s.dir).toNat else 0xFFFFFFFF)))
    ∧ ((∀ s mb c, Due s mb 0x0103 c → leAt c.payload 0 4 = 0x51554E5A → byteAt c.payload 4 ≤ 1 → allZero (sub c.payload 5 3) = true →
      (byteAt c.payload 4 = 1 ∨ ∀ a, a < 6 → (arm s.dir a).role ≠ .authority ∨ operating (arm s.dir a).mode = false) →
      ∃ t, exec (.devReset mb) s = .next t ∧ Answered t.dir mb c stOK [] ∧ t.dir.frz.resetDue = true)
    ∧ (∀ s mb c a, Due s mb 0x0103 c → byteAt c.payload 4 = 0 → a < 6 → (arm s.dir a).role = .authority →
      operating (arm s.dir a).mode = true → ∃ t, exec (.devReset mb) s = .next t ∧ Answered t.dir mb c stState [] ∧ t.dir.frz = s.dir.frz)
    ∧ ∀ s : State, s.dir.frz.resetDue = true → s.dir.frz.frozen = false →
      ∃ t, exec .devResetExecute s = .next t ∧ t.dir.boot.state = .fuseLoad ∧ t.dir.boot.fuseA = s.dir.boot.fuseA
        ∧ t.dir.boot.fuseB = s.dir.boot.fuseB ∧ t.dir.boot.side = s.dir.boot.side ∧ t.dir.mbs = [] ∧ t.dir.frz.resetDue = false
        ∧ t.mem.flash = s.mem.flash ∧ t.mem.ddr = s.mem.ddr ∧ t.cell = s.cell)

/-- CFG_STAGE_WRITE opens or continues the session of its interface, writes its data at OFFSET and answers the section's
length and CRC-32C; CFG_STAGE_READ answers 12 + COUNT bytes and opens nothing (R467, R468). CFG_DISCARD without a session answers OK and has no effect; with its own session it closes it and removes its scheduled
bake; from the other interface it answers BUSY (R469). -/
def Obligations.StagingAndDiscarding : Prop :=
  ((∀ s mb c m, Due s mb 0x0200 c → s.dir.cfg.bake = none → s.dir.cfg.offer = none → (∀ j, s.dir.cfg.session = some j → j = c.iface) →
      sectMax (byteAt c.payload 0) (byteAt c.payload 1) = some m → leAt c.payload 2 2 = 0 → leAt c.payload 4 4 ≤ m →
      leAt c.payload 4 4 ≠ 0 → leAt c.payload 8 4 + (c.payload.drop 12).length ≤ leAt c.payload 4 4 →
      ∃ t sect, exec (.cfgStageWrite mb) s = .next t ∧ t.dir.cfg.session = some c.iface ∧ sect.length = leAt c.payload 4 4
        ∧ tget [] (byteAt c.payload 0 * 256 + byteAt c.payload 1) t.dir.cfg.staged = sect
        ∧ sub sect (leAt c.payload 8 4) (c.payload.drop 12).length = c.payload.drop 12
        ∧ Answered t.dir mb c stOK (c.payload.take 2 ++ [0, 0] ++ toLE 4 sect.length ++ toLE 4 (crc32c sect))
        ∧ t.dir.cfg.inForce = s.dir.cfg.inForce)
    ∧ ∀ s mb c, Due s mb 0x0201 c → (sectMax (byteAt c.payload 0) (byteAt c.payload 1)).isSome → byteAt c.payload 2 = 1 →
      byteAt c.payload 3 = 0 → leAt c.payload 10 2 = 0 → 0 < leAt c.payload 8 2 → leAt c.payload 8 2 ≤ 4068 →
      leAt c.payload 4 4 + leAt c.payload 8 2 ≤ (tget [] (byteAt c.payload 0 * 256 + byteAt c.payload 1) s.dir.cfg.inForce).length →
      ∃ t p, exec (.cfgStageRead mb) s = .next t ∧ Answered t.dir mb c stOK p ∧ p.length = 12 + leAt c.payload 8 2
        ∧ p.drop 12 = sub (tget [] (byteAt c.payload 0 * 256 + byteAt c.payload 1) s.dir.cfg.inForce) (leAt c.payload 4 4) (leAt c.payload 8 2)
        ∧ t.dir.cfg = s.dir.cfg)
    ∧ ((∀ s mb c, Due s mb 0x0202 c → s.dir.cfg.session = none →
      ∃ t, exec (.cfgDiscard mb) s = .next t ∧ Answered t.dir mb c stOK [] ∧ t.mem = s.mem
        ∧ t.dir = { s.dir with mbs := t.dir.mbs, host := t.dir.host, tx := t.dir.tx, writes := t.dir.writes })
    ∧ (∀ s mb c, Due s mb 0x0202 c → s.dir.cfg.session = some c.iface → s.dir.cfg.bake = none → s.dir.cfg.offer = none →
      ∃ t, exec (.cfgDiscard mb) s = .next t ∧ Answered t.dir mb c stOK [] ∧ t.dir.cfg.session = none ∧ t.dir.cfg.inForce = s.dir.cfg.inForce)
    ∧ (∀ s mb c k, Due s mb 0x0202 c → s.dir.cfg.session = some c.iface → s.dir.cfg.bake = some k → k.own = true → s.dir.cfg.offer = none →
      (k.staged = true → cycleDiff (cyc s.dir) (k.b - 256) ≤ 0) →
      ∃ t, exec (.cfgDiscard mb) s = .next t ∧ Answered t.dir mb c stOK [] ∧ t.dir.cfg.session = none ∧ t.dir.cfg.bake = none
        ∧ t.dir.cfg.inForce = s.dir.cfg.inForce)
    ∧ ∀ s mb c i, Due s mb 0x0202 c → s.dir.cfg.session = some i → i ≠ c.iface →
      ∃ t, exec (.cfgDiscard mb) s = .next t ∧ Answered t.dir mb c stBusy [] ∧ t.dir.cfg = s.dir.cfg)

/-- CFG_BAKE with VALIDATE_ONLY answers the report of R441 step 1 and schedules nothing; without a session it is refused with
STATE; CFG_BAKE_STATUS answers 48 bytes and CFG_DIGEST 64 (R470 to R472). -/
def Obligations.BakeCommands : Prop :=
  (∀ s mb c, Due s mb 0x0203 c → s.dir.cfg.session = some c.iface → s.dir.cfg.bake = none → s.dir.cfg.offer = none →
      byteAt c.payload 4 = 1 → allZero (sub c.payload 5 3) = true → bakeFail s.dir s.dir.cfg.staged = none →
      ∃ t r, exec (.cfgBake mb) s = .next t ∧ Answered t.dir mb c stOK (reportBytes r) ∧ r.rule = 0 ∧ r.b = 0 ∧ (reportBytes r).length = 40
        ∧ t.dir.cfg.bake = none ∧ t.dir.cfg.session = s.dir.cfg.session ∧ t.dir.cfg.inForce = s.dir.cfg.inForce)
    ∧ (∀ s mb c f, Due s mb 0x0203 c → s.dir.cfg.session = some c.iface → s.dir.cfg.bake = none → s.dir.cfg.offer = none →
      byteAt c.payload 4 = 1 → allZero (sub c.payload 5 3) = true → bakeFail s.dir s.dir.cfg.staged = some f →
      ∃ t r, exec (.cfgBake mb) s = .next t ∧ Answered t.dir mb c f.status (reportBytes r) ∧ r.rule = f.rule ∧ t.dir.cfg.bake = none)
    ∧ (∀ s mb c, Due s mb 0x0203 c → s.dir.cfg.session = none →
      ∃ t, exec (.cfgBake mb) s = .next t ∧ Answered t.dir mb c stState [] ∧ t.dir.cfg = s.dir.cfg)
    ∧ (∀ s mb c, Due s mb 0x0204 c → ∃ t p, exec (.cfgBakeStatus mb) s = .next t ∧ Answered t.dir mb c stOK p ∧ p.length = 48
        ∧ p.drop 8 = reportBytes s.dir.cfg.report ∧ t.dir.cfg = s.dir.cfg)
    ∧ ∀ s mb c, Due s mb 0x0205 c → ∃ t p, exec (.cfgDigest mb) s = .next t ∧ Answered t.dir mb c stOK p ∧ p.length = 64
        ∧ t.dir.cfg = s.dir.cfg

/-- A scheduled bake is checked again one start tick before B: it passes, or it is abandoned with the failing rule and an
event of source 98; at the start tick of B a bake that passed is applied: its sections stand in force (those of an arm with cells at that arm's step), its session is closed
(R442, R471). -/
def Obligations.TheBakeTakesEffect : Prop :=
  (∀ s k f, works s.dir = true → s.dir.time.running = true → s.dir.cfg.bake = some k → k.staged = false → k.checked = false →
      cycleDiff k.b (cyc s.dir) = 1 → stateFail s.dir (parseAll k.content) = some f →
      ∃ t, exec .bakeRecheck s = .next t ∧ t.dir.cfg.bake = none ∧ t.dir.cfg.status = 3 ∧ t.dir.cfg.report.rule = f.rule
        ∧ t.dir.cfg.inForce = s.dir.cfg.inForce ∧ (Enabled s.dir 98 → Decided t.dir 98 2 (toLE 2 f.rule)))
    ∧ (∀ s k, works s.dir = true → s.dir.time.running = true → s.dir.cfg.bake = some k → k.staged = false → k.checked = false →
      cycleDiff k.b (cyc s.dir) = 1 → stateFail s.dir (parseAll k.content) = none →
      ∃ t, exec .bakeRecheck s = .next t ∧ t.dir.cfg.bake = some { k with checked := true } ∧ t.dir.arms = s.dir.arms)
    ∧ ∀ s k, works s.dir = true → s.dir.time.running = true → s.dir.cfg.bake = some k → k.checked = true → k.own = true → cyc s.dir = k.b →
      ∃ t, exec .bakeApply s = .next t ∧ t.dir.cfg.bake = none ∧ t.dir.cfg.status = 2 ∧ t.dir.cfg.baked = true ∧ t.dir.cfg.session = none
        ∧ (∀ key, key ∈ sectKeys → key / 256 ≠ 0x10 → tget [] key t.dir.cfg.inForce = tget [] key k.content)
        ∧ (Enabled s.dir 98 → Decided t.dir 98 1 (toLE 4 k.b.toNat))

/-- At cycle B − 64 of a staged bake, a proven cell whose PARAM_STAGE is not confirmed receives SLOT_WITHDRAW with FROM = B (R466). -/
def Obligations.UnconfirmedCellsAreWithdrawn : Prop :=
  ∀ s k id n, works s.dir = true → s.dir.time.running = true → s.dir.cfg.bake = some k → k.staged = true →
    cyc s.dir = k.b - 64 → s.dir.cells = [(id, cellRec s.dir id)] → (cellRec s.dir id).link = .proven →
    configured (cfg s.dir) id = true → (cellRec s.dir id).withdrawn = none → unconfirmed s.dir (parseAll k.content) id = true →
    cellPort (part s.dir) id = some n →
    ∃ t r, exec .paramStageConfirmDeadline s = .next t ∧ (cellRec t.dir id).withdrawn = some k.b
      ∧ (port t.dir n).mgmt = (port s.dir n).mgmt ++ [r] ∧ r.mtype = 0x05 ∧ r.copies = 2 ∧ r.body.take 4 = toBE 4 k.b.toNat

/-- The commands of the cells group that only read or change the director answer at once (R473, R479); class C commands queue
their record for the cell, secured where it writes a parameter, and wait for it (R474 to R478, R481), and one for a cell that is not
proven is refused with STATE; CELL_INJECT pends (R480). -/
def Obligations.CellCommands : Prop :=
  (∀ s mb c, Due s mb 0x0300 c → 0 < leAt c.payload 2 2 → leAt c.payload 2 2 ≤ 255 → leAt c.payload 0 2 + leAt c.payload 2 2 ≤ 3168 →
      ∃ t p, exec (.cellState mb) s = .next t ∧ Answered t.dir mb c stOK p ∧ p.length = 16 * leAt c.payload 2 2 ∧ t.dir.cells = s.dir.cells)
    ∧ (∀ s mb c id, Due s mb 0x0305 c → leAt c.payload 0 2 = id → leAt c.payload 2 2 = 0 → cellValid s.dir id = true →
      ∃ t, exec (.cellRelease mb) s = .next t ∧ Answered t.dir mb c stOK [] ∧ (cellRec t.dir id).held = false
        ∧ ((cellRec s.dir id).held = true ∨ (cellRec s.dir id).link = .quarantined → (cellRec t.dir id).entries = 0)
        ∧ ((cellRec s.dir id).held = false → (cellRec s.dir id).link ≠ .quarantined → cellRec t.dir id = cellRec s.dir id)
        ∧ ∀ j, j ≠ id → cellRec t.dir j = cellRec s.dir j)
    ∧ (∀ s mb c id ap, Due s mb 0x0306 c → s.dir.cfg.baked = true → leAt c.payload 0 2 = id → leAt c.payload 2 2 = 0 →
      cellValid s.dir id = true → id < 3072 → leAt c.payload 4 4 = ap → 2 ≤ cycleDiff (BitVec.ofNat 32 ap) (cyc s.dir) →
      cycleDiff (BitVec.ofNat 32 ap) (cyc s.dir) ≤ 65536 → (arm s.dir (id / 512)).pInject.length < 8 →
      ∃ t q, exec (.cellInject mb) s = .next t ∧ (arm t.dir (id / 512)).pInject = (arm s.dir (id / 512)).pInject ++ [q]
        ∧ q.apply = BitVec.ofNat 32 ap ∧ q.slots = [id % 512] ∧ (mbx t.dir mb).cmd = some { c with wait := .apply (BitVec.ofNat 32 ap) })
    ∧ (∀ s mb c id n, Due s mb 0x0301 c → leAt c.payload 0 2 = id → cellValid s.dir id = true → (cellRec s.dir id).link = .proven →
      0 < byteAt c.payload 4 → byteAt c.payload 4 ≤ 4 → allZero (sub c.payload 5 3) = true → cellPort (part s.dir) id = some n →
      ∃ t r, exec (.cellParamRead mb) s = .next t ∧ (mbx t.dir mb).cmd = some { c with wait := .cell id 0 }
        ∧ (port t.dir n).mgmt = (port s.dir n).mgmt ++ [r] ∧ r.mtype = 0x0C ∧ r.why = .cmd mb ∧ r.cell = some id
        ∧ r.body = readBody (leAt c.payload 2 2) (byteAt c.payload 4))
    ∧ (∀ s mb c id n, Due s mb 0x0307 c → leAt c.payload 0 2 = id → cellValid s.dir id = true → (cellRec s.dir id).link = .proven →
      byteAt c.payload 2 ≤ 2 → byteAt c.payload 3 = 0 → 0 < leAt c.payload 6 2 → leAt c.payload 6 2 ≤ 60 → cellPort (part s.dir) id = some n →
      ∃ t r, exec (.cellEepromRead mb) s = .next t ∧ (mbx t.dir mb).cmd = some { c with wait := .cell id 0 }
        ∧ (port t.dir n).mgmt = (port s.dir n).mgmt ++ [r] ∧ r.mtype = 0x0F ∧ r.why = .cmd mb ∧ r.cell = some id)
    ∧ (∀ s mb c id n, Due s mb 0x0302 c → leAt c.payload 0 2 = id → cellValid s.dir id = true → (cellRec s.dir id).link = .proven →
      (3072 ≤ id ∨ (arm s.dir (id / 512)).role = .authority) → 0 < byteAt c.payload 4 → byteAt c.payload 4 ≤ 12 →
      allZero (sub c.payload 5 3) = true → (∀ j, j < byteAt c.payload 4 → writeBarred s.dir id (leAt c.payload 2 2 + j) = false) →
      cellPort (part s.dir) id = some n →
      ∃ t r q, exec (.cellParamWrite mb) s = .next t ∧ (mbx t.dir mb).cmd = some { c with wait := .cell id 0 }
        ∧ (port t.dir n).mgmt = (port s.dir n).mgmt ++ [r, q] ∧ r.mtype = 0x0B ∧ r.secure = some id ∧ q.mtype = 0x0C ∧ q.why = .cmd mb
        ∧ r.body = writeBody (leAt c.payload 2 2) ((List.range (byteAt c.payload 4)).map fun j => leAt c.payload (8 + 4 * j) 4))
    ∧ (∀ s mb c id n, Due s mb 0x0303 c → leAt c.payload 0 2 = id → cellValid s.dir id = true → (cellRec s.dir id).link = .proven →
      (3072 ≤ id ∨ (arm s.dir (id / 512)).role = .authority) → 0 < byteAt c.payload 2 → byteAt c.payload 2 ≤ 3 →
      byteAt c.payload 3 = 0 → cellPort (part s.dir) id = some n →
      ∃ t r, exec (.cellFaultClear mb) s = .next t ∧ (mbx t.dir mb).cmd = some { c with wait := .cell id 0 }
        ∧ (port t.dir n).mgmt = (port s.dir n).mgmt ++ [r] ∧ r.mtype = 0x0B ∧ r.secure = some id ∧ r.body = writeBody 0x15 [byteAt c.payload 2])
    ∧ (∀ s mb c id n, Due s mb 0x0304 c → leAt c.payload 0 2 = id → cellValid s.dir id = true → (cellRec s.dir id).link = .proven →
      (3072 ≤ id ∨ (arm s.dir (id / 512)).role = .authority) → byteAt c.payload 2 ≤ 1 → byteAt c.payload 3 = 0 →
      (byteAt c.payload 2 = 1 → (cellRec s.dir id).sealed = true) → cellPort (part s.dir) id = some n →
      ∃ t r, exec (.cellGateEnable mb) s = .next t ∧ (mbx t.dir mb).cmd = some { c with wait := .cell id 0 }
        ∧ (cellRec t.dir id).gateHold = decide (byteAt c.payload 2 = 0) ∧ r.body = writeBody 0x14 [byteAt c.payload 2] ∧ (port t.dir n).mgmt = (port s.dir n).mgmt ++ [r] ∧ r.mtype = 0x0B ∧ r.secure = some id)
    ∧ ∀ s mb c id, Due s mb 0x0303 c → leAt c.payload 0 2 = id → cellValid s.dir id = true → (cellRec s.dir id).link ≠ .proven →
      ∃ t, exec (.cellFaultClear mb) s = .next t ∧ Answered t.dir mb c stState [] ∧ t.dir.ports = s.dir.ports

/-- An accepted arm command pends until its APPLY step; ARM_STATUS answers 216 bytes; ARM_BLOCK
blocks the masked arms and answers those that are BLOCKED (R482 to R490). An accepted BAL_EXCLUDE pends for its APPLY step; BAL_RANK_READ answers 2,320 bytes once the arm has been ranked and STATE
before; BAL_CAL_READ answers 1,064 bytes; BAL_CAL_RESET and BAL_EDGE_RESET clear what they name (R491 to R495). -/
def Obligations.ArmAndBalancingCommands : Prop :=
  ((∀ s mb c a, Due s mb 0x0400 c → byteAt c.payload 0 = a → a < 6 → allZero (sub c.payload 1 3) = true →
      ∃ t p, exec (.armStatus mb) s = .next t ∧ Answered t.dir mb c stOK p ∧ p.length = 216 ∧ byteAt p 0 = modeCode (arm s.dir a).mode
        ∧ byteAt p 1 = roleCode (arm s.dir a).role ∧ t.dir.arms = s.dir.arms)
    ∧ (∀ s mb c a ap, Due s mb 0x0401 c → byteAt c.payload 0 = a → a < 6 → byteAt c.payload 1 ≤ 4 →
      leAt c.payload 2 2 = 0 → leAt c.payload 4 4 = ap → (arm s.dir a).pMode = none →
      ((arm s.dir a).role = .authority ∨ ((arm s.dir a).role ≠ .isolated ∧ freeChange (arm s.dir a).mode (modeOf (byteAt c.payload 1)) = true)) →
      inTable (arm s.dir a).mode (modeOf (byteAt c.payload 1)) = true →
      (if (arm s.dir a).mode = .precharge ∧ byteAt c.payload 1 = 2 then c.payload.length = 40 ∧ ∀ j, j < 8 → finiteAt c.payload (8 + 4 * j) = true
        else c.payload.length = 8) → s.dir.cfg.baked = true → s.dir.cfg.bake = none → s.dir.time.step = none →
      testBars s.dir a (modeOf (byteAt c.payload 1)) = false →
      2 ≤ cycleDiff (BitVec.ofNat 32 ap) (cyc s.dir) → cycleDiff (BitVec.ofNat 32 ap) (cyc s.dir) ≤ 65536 →
      ∃ t q, exec (.armMode mb) s = .next t ∧ (arm t.dir a).pMode = some q ∧ q.apply = BitVec.ofNat 32 ap ∧ q.target = modeOf (byteAt c.payload 1)
        ∧ q.force = c.flags.getLsbD 0 ∧ q.uMan = f32sAt c.payload 8 8 ∧ (arm t.dir a).mode = (arm s.dir a).mode
        ∧ (mbx t.dir mb).cmd = some { c with wait := .apply (BitVec.ofNat 32 ap) })
    ∧ (∀ s mb c a ap, Due s mb 0x0406 c → byteAt c.payload 0 = a → a < 6 → byteAt c.payload 1 ≤ 2 → leAt c.payload 2 2 = 0 →
      (byteAt c.payload 1 = 2 → ∀ j, j < 8 → finiteAt c.payload (8 + 4 * j) = true) →
      leAt c.payload 4 4 = ap → (arm s.dir a).role = .authority → (arm s.dir a).pMode = none → s.dir.cfg.baked = true → s.dir.cfg.bake = none →
      2 ≤ cycleDiff (BitVec.ofNat 32 ap) (cyc s.dir) → cycleDiff (BitVec.ofNat 32 ap) (cyc s.dir) ≤ 65536 →
      ∃ t q, exec (.armUnblock mb) s = .next t ∧ (arm t.dir a).pMode = some q ∧ q.apply = BitVec.ofNat 32 ap ∧ q.unblock = true
        ∧ q.target = modeOf (byteAt c.payload 1) ∧ (arm t.dir a).mode = (arm s.dir a).mode
        ∧ (mbx t.dir mb).cmd = some { c with wait := .apply (BitVec.ofNat 32 ap) })
    ∧ (∀ s mb c a ap, Due s mb 0x0402 c → byteAt c.payload 0 = a → a < 6 → allZero (sub c.payload 1 3) = true → leAt c.payload 4 4 = ap →
      (arm s.dir a).role = .authority → s.dir.cfg.baked = true → setFull (arm s.dir a).pManual ap = false →
      (∀ j, j < 8 → finiteAt c.payload (8 + 4 * j) = true ∧ (dimM (cfg s.dir) a ≤ j → leAt c.payload (8 + 4 * j) 4 % 2 ^ 31 = 0)) →
      2 ≤ cycleDiff (BitVec.ofNat 32 ap) (cyc s.dir) → cycleDiff (BitVec.ofNat 32 ap) (cyc s.dir) ≤ 65536 →
      ∃ t q, exec (.armManualInput mb) s = .next t ∧ (arm t.dir a).pManual = (arm s.dir a).pManual ++ [q] ∧ q.apply = BitVec.ofNat 32 ap
        ∧ q.values = f32sAt c.payload 8 8 ∧ (arm t.dir a).uMan = (arm s.dir a).uMan
        ∧ (mbx t.dir mb).cmd = some { c with wait := .apply (BitVec.ofNat 32 ap) })
    ∧ (∀ s mb c a ap, Due s mb 0x0403 c → byteAt c.payload 0 = a → a < 6 → byteAt c.payload 1 ≠ 0 → byteAt c.payload 1 < 2 ^ dimR (cfg s.dir) a →
      leAt c.payload 2 2 = 0 → leAt c.payload 4 4 = ap → (arm s.dir a).role = .authority → s.dir.cfg.baked = true →
      (∀ j, j < 8 → finiteAt c.payload (8 + 4 * j) = true) → setFull (arm s.dir a).pRef ap = false →
      2 ≤ cycleDiff (BitVec.ofNat 32 ap) (cyc s.dir) → cycleDiff (BitVec.ofNat 32 ap) (cyc s.dir) ≤ 65536 →
      ∃ t q, exec (.armReference mb) s = .next t ∧ (arm t.dir a).pRef = (arm s.dir a).pRef ++ [q] ∧ q.apply = BitVec.ofNat 32 ap ∧ q.mask = byteAt c.payload 1
        ∧ q.values = f32sAt c.payload 8 8 ∧ (mbx t.dir mb).cmd = some { c with wait := .apply (BitVec.ofNat 32 ap) })
    ∧ (∀ s mb c a ap, Due s mb 0x0404 c → byteAt c.payload 0 = a → a < 6 → injectFields s.dir c.payload = true → byteAt c.payload 3 ≠ 0 →
      leAt c.payload 4 4 = ap → (arm s.dir a).role = .authority → s.dir.cfg.baked = true → (arm s.dir a).pInj = none → (arm s.dir a).inj = none →
      2 ≤ cycleDiff (BitVec.ofNat 32 ap) (cyc s.dir) → cycleDiff (BitVec.ofNat 32 ap) (cyc s.dir) ≤ 65536 →
      ∃ t q, exec (.armInject mb) s = .next t ∧ (arm t.dir a).pInj = some q ∧ q.start = BitVec.ofNat 32 ap ∧ q.wave = byteAt c.payload 3
        ∧ q.length = leAt c.payload 8 4 ∧ q.target = byteAt c.payload 1 ∧ q.index = byteAt c.payload 2 ∧ q.amp = f32At c.payload 12
        ∧ (mbx t.dir mb).cmd = some { c with wait := .apply (BitVec.ofNat 32 ap) })
    ∧ (∀ s mb c a ap, Due s mb 0x0404 c → byteAt c.payload 0 = a → a < 6 → injectFields s.dir c.payload = true → byteAt c.payload 3 = 0 →
      leAt c.payload 4 4 = ap → (arm s.dir a).role = .authority → s.dir.cfg.baked = true → (arm s.dir a).pStop = none →
      2 ≤ cycleDiff (BitVec.ofNat 32 ap) (cyc s.dir) → cycleDiff (BitVec.ofNat 32 ap) (cyc s.dir) ≤ 65536 →
      ∃ t, exec (.armInject mb) s = .next t ∧ (arm t.dir a).pStop = some (BitVec.ofNat 32 ap, some mb) ∧ (arm t.dir a).inj = (arm s.dir a).inj
        ∧ (mbx t.dir mb).cmd = some { c with wait := .apply (BitVec.ofNat 32 ap) })
    ∧ (∀ s mb c tick a, Due s mb 0x0405 c → byteAt c.payload 0 < 64 → allZero (sub c.payload 1 3) = true → a < 6 →
      (byteAt c.payload 0).testBit a = true → (arm s.dir a).role ≠ .isolated →
      ∃ t p, exec (.armBlock mb tick) s = .next t ∧ Answered t.dir mb c stOK p ∧ (arm t.dir a).mode = .blocked ∧ p.length = 4
        ∧ (byteAt p 0).testBit a = true)
    ∧ ∀ s mb c tick, Due s mb 0x0405 c → byteAt c.payload 0 < 64 → (∀ a, a < 6 → (byteAt c.payload 0).testBit a = true → (arm s.dir a).role = .isolated) →
      ∃ t, exec (.armBlock mb tick) s = .next t ∧ Answered t.dir mb c stNoAuth [] ∧ t.dir.arms = s.dir.arms)
    ∧ ((∀ s mb c a n ap, Due s mb 0x0500 c → byteAt c.payload 0 = a → a < 6 → byteAt c.payload 1 ≤ 1 → leAt c.payload 2 2 = n → 1 ≤ n → n ≤ 64 →
      c.payload.length = 8 + 2 * n → leAt c.payload 4 4 = ap → (arm s.dir a).role = .authority → s.dir.cfg.baked = true →
      (∀ q, q ∈ slotsOf c.payload → q ≤ 511 ∧ configured (cfg s.dir) (a * 512 + q) = true) → setFull (arm s.dir a).pExclude ap = false →
      (byteAt c.payload 1 = 1 → ((arm s.dir a).excluded ++ slotsOf c.payload).eraseDups.length ≤ 64) → 2 ≤ cycleDiff (BitVec.ofNat 32 ap) (cyc s.dir) → cycleDiff (BitVec.ofNat 32 ap) (cyc s.dir) ≤ 65536 →
      ∃ t q, exec (.balExclude mb) s = .next t ∧ (arm t.dir a).pExclude = (arm s.dir a).pExclude ++ [q] ∧ q.apply = BitVec.ofNat 32 ap ∧ q.mask = byteAt c.payload 1
        ∧ q.slots = slotsOf c.payload ∧ (arm t.dir a).excluded = (arm s.dir a).excluded
        ∧ (mbx t.dir mb).cmd = some { c with wait := .apply (BitVec.ofNat 32 ap) })
    ∧ (∀ s mb c a k, Due s mb 0x0501 c → byteAt c.payload 0 = a → a < 6 → allZero (sub c.payload 1 3) = true → (arm s.dir a).ranked = some k →
      ∃ t p, exec (.balRankRead mb) s = .next t ∧ Answered t.dir mb c stOK p ∧ p.length = 2320 ∧ leAt p 0 4 = k.toNat)
    ∧ (∀ s mb c a, Due s mb 0x0501 c → byteAt c.payload 0 = a → a < 6 → (arm s.dir a).ranked = none →
      ∃ t, exec (.balRankRead mb) s = .next t ∧ Answered t.dir mb c stState [])
    ∧ (∀ s mb c a x n, Due s mb 0x0502 c → byteAt c.payload 0 = a → a < 6 → byteAt c.payload 1 = x → leAt c.payload 2 2 = 0 →
      (arm s.dir a).role = .authority → parm (armS (cfg s.dir) a) 50 0 0 ≠ 0 → portOf (part s.dir) a x = some n → treeOn (cfg s.dir) (part s.dir) n = true →
      ∃ t p, exec (.balCalRead mb) s = .next t ∧ Answered t.dir mb c stOK p ∧ p.length = 1064)
    ∧ (∀ s mb c a, Due s mb 0x0503 c → byteAt c.payload 0 = a → a < 6 → byteAt c.payload 1 = 0xFF → leAt c.payload 2 2 = 0 →
      (arm s.dir a).role = .authority → parm (armS (cfg s.dir) a) 50 0 0 ≠ 0 →
      ∃ t, exec (.balCalReset mb) s = .next t ∧ Answered t.dir mb c stOK [] ∧ (arm t.dir a).est.theta = [] ∧ (arm t.dir a).est.cov = [])
    ∧ (∀ s mb c a x n, Due s mb 0x0503 c → byteAt c.payload 0 = a → a < 6 → byteAt c.payload 1 = x → leAt c.payload 2 2 = 0 → x ≠ 0xFF →
      (arm s.dir a).role = .authority → parm (armS (cfg s.dir) a) 50 0 0 ≠ 0 → portOf (part s.dir) a x = some n → treeOn (cfg s.dir) (part s.dir) n = true →
      ∃ t, exec (.balCalReset mb) s = .next t ∧ Answered t.dir mb c stOK [] ∧ (arm t.dir a).est.theta = tdel x (arm s.dir a).est.theta
        ∧ (arm t.dir a).est.cov = tdel x (arm s.dir a).est.cov)
    ∧ ∀ s mb c a q, Due s mb 0x0504 c → byteAt c.payload 0 = a → a < 6 → byteAt c.payload 1 = 0 → leAt c.payload 2 2 = q → (q ≤ 511 ∨ q = 0xFFFF) →
      (arm s.dir a).role = .authority →
      ∃ t, exec (.balEdgeReset mb) s = .next t ∧ Answered t.dir mb c stOK []
        ∧ (∀ j, j < 512 → (j = q ∨ q = 0xFFFF) → (cellRec t.dir (a * 512 + j)).learned = [])
        ∧ ∀ id, (id < a * 512 ∨ a * 512 + 512 ≤ id) → cellRec t.dir id = cellRec s.dir id)

/-- RED_LEASE_MAP answers 144 bytes; RED_CLAIM, RED_ISOLATE and RED_HANDOVER pend for the step they name, the hand-over under
the conditions of R326, and refused with STATE to a director that is not AUTHORITY (R498 to R501). -/
def Obligations.RedundancyCommands : Prop :=
  (∀ s mb c a, Due s mb 0x0600 c → byteAt c.payload 0 = a → a < 6 → allZero (sub c.payload 1 3) = true →
      ∃ t p, exec (.redLeaseMap mb) s = .next t ∧ Answered t.dir mb c stOK p ∧ p.length = 144 ∧ byteAt p 0 = a
        ∧ byteAt p 1 = roleCode (arm s.dir a).role ∧ t.dir.arms = s.dir.arms)
    ∧ (∀ s mb c a n ap, Due s mb 0x0601 c → byteAt c.payload 0 = a → a < 6 → byteAt c.payload 1 = 0 → leAt c.payload 2 2 = n → 1 ≤ n → n ≤ 64 →
      c.payload.length = 8 + 2 * n → leAt c.payload 4 4 = ap → s.dir.cfg.baked = true → (arm s.dir a).role ≠ .isolated →
      (∀ q, q ∈ slotsOf c.payload → q ≤ 511 ∧ configured (cfg s.dir) (a * 512 + q) = true) →
      2 ≤ cycleDiff (BitVec.ofNat 32 ap) (cyc s.dir) → cycleDiff (BitVec.ofNat 32 ap) (cyc s.dir) ≤ 65536 →
      ∃ t q, exec (.redClaim mb) s = .next t ∧ (arm t.dir a).pClaim = (arm s.dir a).pClaim ++ [q] ∧ q.apply = BitVec.ofNat 32 ap
        ∧ q.slots = slotsOf c.payload ∧ (mbx t.dir mb).cmd = some { c with wait := .apply (BitVec.ofNat 32 ap) })
    ∧ (∀ s mb c a ap, Due s mb 0x0602 c → byteAt c.payload 0 = a → a < 6 → byteAt c.payload 1 ≤ 1 → leAt c.payload 2 2 = 0 →
      leAt c.payload 4 4 = ap → s.dir.cfg.baked = true →
      (byteAt c.payload 1 = 1 → (arm s.dir a).role = .authority → energised (arm s.dir a).mode = true → twinShadow s.dir a = true) →
      2 ≤ cycleDiff (BitVec.ofNat 32 ap) (cyc s.dir) → cycleDiff (BitVec.ofNat 32 ap) (cyc s.dir) ≤ 65536 →
      ∃ t q, exec (.redIsolate mb) s = .next t ∧ (arm t.dir a).pIsolate = (arm s.dir a).pIsolate ++ [q] ∧ q.apply = BitVec.ofNat 32 ap
        ∧ (q.flag = true ↔ byteAt c.payload 1 = 1) ∧ (arm t.dir a).role = (arm s.dir a).role ∧ (mbx t.dir mb).cmd = some { c with wait := .apply (BitVec.ofNat 32 ap) })
    ∧ (∀ s mb c a h, Due s mb 0x0603 c → byteAt c.payload 0 = a → a < 6 → allZero (sub c.payload 1 3) = true → leAt c.payload 4 4 = h →
      s.dir.cfg.baked = true → (arm s.dir a).role = .authority → tget 0xFF a s.dir.sk.twinRole = 2 →
      ((arm s.dir a).mode = .precharge ∨ operating (arm s.dir a).mode = true) → (arm s.dir a).pHandover = none → (arm s.dir a).yielding = none →
      2 ≤ cycleDiff (BitVec.ofNat 32 h) (cyc s.dir) → cycleDiff (BitVec.ofNat 32 h) (cyc s.dir) ≤ 65536 →
      ∃ t, exec (.redHandover mb) s = .next t ∧ (arm t.dir a).pHandover = some (BitVec.ofNat 32 h, some mb)
        ∧ (mbx t.dir mb).cmd = some { c with wait := .apply (BitVec.ofNat 32 h) })
    ∧ ∀ s mb c a, Due s mb 0x0603 c → byteAt c.payload 0 = a → a < 6 → (arm s.dir a).role ≠ .authority →
      ∃ t, exec (.redHandover mb) s = .next t ∧ Answered t.dir mb c stState [] ∧ t.dir.arms = s.dir.arms

/-- TIME_SNAPSHOT answers 36 bytes that begin with the TIME96 of its tick; TIME_DOMAIN answers 40; TIME_SET names the step of
its cycle, and is refused with STATE while an arm is outside OFF and PRECHARGE; TIME_REBASE discards the baseline of a
SUSPECT domain only (R502 to R505). -/
def Obligations.TimeCommands : Prop :=
  (∀ s mb c tick, Due s mb 0x0700 c →
      ∃ t p, exec (.timeSnapshot mb tick) s = .next t ∧ Answered t.dir mb c stOK p ∧ p.length = 36
        ∧ p.take 12 = toLE 12 (time96 (s.dir.time.now + tick * tickInc s.dir.time.c)).toNat ∧ leAt p 12 4 = (cyc s.dir).toNat ∧ t.dir.time = s.dir.time)
    ∧ (∀ s mb c, Due s mb 0x0701 c → byteAt c.payload 0 ≤ 1 → allZero (sub c.payload 1 3) = true →
      ∃ t p, exec (.timeDomain mb) s = .next t ∧ Answered t.dir mb c stOK p ∧ p.length = 40
        ∧ byteAt p 0 = domCode (dom s.dir (byteAt c.payload 0)).mode ∧ t.dir.time = s.dir.time)
    ∧ (∀ s mb c at_, Due s mb 0x0702 c → leAt c.payload 12 4 = at_ → s.dir.cfg.baked = true → (∀ a, a < 6 → offPre (arm s.dir a).mode = true) →
      (∀ a, a < 6 → (arm s.dir a).pMode = none) → s.dir.time.source ≠ .twin → fld (leAt c.payload 0 12) 47 16 ≤ 999999999 → leAt c.payload 16 4 = 0 →
      2 ≤ cycleDiff (BitVec.ofNat 32 at_) (cyc s.dir) → cycleDiff (BitVec.ofNat 32 at_) (cyc s.dir) ≤ 65536 → s.dir.time.step = none →
      ∃ t q, exec (.timeSet mb) s = .next t ∧ t.dir.time.step = some q ∧ q.cycle = BitVec.ofNat 32 at_ ∧ q.mb = some mb
        ∧ q.target = some (toFrac (ofTime96 (leAt c.payload 0 12))) ∧ t.dir.time.now = s.dir.time.now
        ∧ (mbx t.dir mb).cmd = some { c with wait := .apply (BitVec.ofNat 32 at_) })
    ∧ (∀ s mb c a, Due s mb 0x0702 c → a < 6 → offPre (arm s.dir a).mode = false →
      ∃ t, exec (.timeSet mb) s = .next t ∧ Answered t.dir mb c stState [] ∧ t.dir.time = s.dir.time)
    ∧ (∀ s mb c, Due s mb 0x0703 c → byteAt c.payload 0 ≤ 1 → allZero (sub c.payload 1 3) = true → (dom s.dir (byteAt c.payload 0)).mode = .suspect →
      ∃ t, exec (.timeRebase mb) s = .next t ∧ Answered t.dir mb c stOK [] ∧ (dom t.dir (byteAt c.payload 0)).mode = .acquiring
        ∧ (dom t.dir (byteAt c.payload 0)).theta = none)
    ∧ ∀ s mb c, Due s mb 0x0703 c → byteAt c.payload 0 ≤ 1 → (dom s.dir (byteAt c.payload 0)).mode ≠ .suspect →
      ∃ t, exec (.timeRebase mb) s = .next t ∧ Answered t.dir mb c stState [] ∧ t.dir.time = s.dir.time

/-- The recorder commands: states, arming, stopping, triggers, the release, header and export of CLOSED segments, and the miss
log (R404, R405, R506 to R512). -/
def Obligations.RecorderCommands : Prop :=
  (∀ s mb c, Due s mb 0x0800 c → ∃ t p, exec (.recStatus mb) s = .next t ∧ Answered t.dir mb c stOK p ∧ p.length = 32
      ∧ byteAt p 0 = recCode s.dir.rcd.mode ∧ t.dir.rcd = s.dir.rcd)
    ∧ (∀ s mb c i, Due s mb 0x0801 c → s.dir.rcd.mode = .stopped → s.dir.cfg.baked = true → firstFree s.dir = some i → drainFits s.dir = true →
      ∃ t p, exec (.recStart mb) s = .next t ∧ Answered t.dir mb c stOK p ∧ p.length = 8 ∧ byteAt p 0 = i % 256 ∧ t.dir.rcd.mode = .armed
        ∧ t.dir.rcd.seg = some i ∧ segMode t.dir i = .armed)
    ∧ (∀ s mb c, Due s mb 0x0801 c → s.dir.rcd.mode ≠ .stopped →
      ∃ t, exec (.recStart mb) s = .next t ∧ Answered t.dir mb c stState [] ∧ t.dir.rcd = s.dir.rcd)
    ∧ (∀ s mb c i, Due s mb 0x0802 c → s.dir.rcd.mode = .armed → s.dir.rcd.seg = some i → i < 16 →
      ∃ t, exec (.recStop mb) s = .next t ∧ Answered t.dir mb c stOK [BitVec.ofNat 8 i, 0, 0, 0] ∧ t.dir.rcd.mode = .stopped ∧ segMode t.dir i = .free)
    ∧ (∀ s mb c i, Due s mb 0x0802 c → s.dir.rcd.mode = .triggered → s.dir.rcd.seg = some i → i < 16 → segMode s.dir i = .triggered →
      ∃ t, exec (.recStop mb) s = .next t ∧ Answered t.dir mb c stOK [BitVec.ofNat 8 i, 2, 0, 0] ∧ t.dir.rcd.mode = .closing ∧ t.dir.rcd.stopAfter = true)
    ∧ (∀ s mb c, Due s mb 0x0802 c → s.dir.rcd.mode = .stopped →
      ∃ t, exec (.recStop mb) s = .next t ∧ Answered t.dir mb c stOK [0xFF, 0xFF, 0, 0] ∧ t.dir.rcd = s.dir.rcd)
    ∧ (∀ s mb c ap, Due s mb 0x0803 c → leAt c.payload 0 4 = ap → s.dir.cfg.baked = true → s.dir.rcd.pCmd = none →
      2 ≤ cycleDiff (BitVec.ofNat 32 ap) (cyc s.dir) → cycleDiff (BitVec.ofNat 32 ap) (cyc s.dir) ≤ 65536 →
      ∃ t, exec (.recTrigger mb) s = .next t ∧ t.dir.rcd.pCmd = some (BitVec.ofNat 32 ap, mb)
        ∧ (mbx t.dir mb).cmd = some { c with wait := .apply (BitVec.ofNat 32 ap) })
    ∧ (∀ s mb c i, Due s mb 0x0804 c → byteAt c.payload 0 = i → allZero (sub c.payload 1 3) = true → i < segCount (cfg s.dir) → segMode s.dir i = .closed →
      ∃ t, exec (.recRelease mb) s = .next t ∧ Answered t.dir mb c stOK [] ∧ segMode t.dir i = .free ∧ ∀ j, j ≠ i → segMode t.dir j = segMode s.dir j)
    ∧ (∀ s mb c i, Due s mb 0x0805 c → byteAt c.payload 0 = i → allZero (sub c.payload 1 3) = true → i < segCount (cfg s.dir) → segMode s.dir i = .closed →
      ∃ t, exec (.recHeader mb) s = .next t ∧ Answered t.dir mb c stOK (rdBytes s.mem .ddr (segBase (cfg s.dir) i * 1048576) 128) ∧ t.mem = s.mem)
    ∧ (∀ s mb c i n, Due s mb 0x0806 c → byteAt c.payload 0 = i → allZero (sub c.payload 1 3) = true → i < segCount (cfg s.dir) →
      segMode s.dir i = .closed → leAt c.payload 12 4 = n → 1 ≤ n → n ≤ 4064 → leAt c.payload 4 8 + n ≤ segLen s.dir i →
      ∀ ue, ∃ t p, exec (.recExport mb ue) s = .next t ∧ Answered t.dir mb c stOK p ∧ p.length = 16 + n ∧ byteAt p 1 = (if ue then 1 else 0)
        ∧ p.drop 16 = rdBytes s.mem .ddr (segBase (cfg s.dir) i * 1048576 + leAt c.payload 4 8) n ∧ t.mem = s.mem)
    ∧ ∀ s mb c, Due s mb 0x0807 c → byteAt c.payload 0 ≤ 1 → allZero (sub c.payload 1 3) = true →
      ∃ t p, exec (.recMissLog mb) s = .next t ∧ Answered t.dir mb c stOK p ∧ p.length = 136 ∧ leAt p 0 4 = s.dir.rcd.missed.toNat
        ∧ (byteAt c.payload 0 = 1 → t.dir.rcd.missed = 0 ∧ t.dir.rcd.missLog = []) ∧ (byteAt c.payload 0 = 0 → t.dir.rcd = s.dir.rcd)

/-- The diagnostics commands: counters, edge diagnosis, learned delays, test modes, bit slips, the trace and the freeze (R513 to R520). -/
def Obligations.DiagnosticsCommands : Prop :=
  (∀ s mb c l, Due s mb 0x0900 c → scopeOf s.dir (byteAt c.payload 0) (leAt c.payload 2 2) = some l → byteAt c.payload 1 ≤ 1 →
      1 ≤ leAt c.payload 6 2 → leAt c.payload 6 2 ≤ 1016 → leAt c.payload 4 2 + leAt c.payload 6 2 ≤ l.length → 8 ≤ c.payload.length →
      ∃ t p, exec (.diagCounters mb) s = .next t ∧ Answered t.dir mb c stOK p ∧ p.length = 8 + 4 * leAt c.payload 6 2
        ∧ p.drop 8 = ((l.drop (leAt c.payload 4 2)).take (leAt c.payload 6 2)).flatMap fun k => b4 (k.get (dirStart s.dir)).toNat)
    ∧ (∀ s mb c a, Due s mb 0x0900 c → byteAt c.payload 0 = 3 → leAt c.payload 2 2 = a → a < 6 → byteAt c.payload 1 = 1 →
      leAt c.payload 4 2 = 0 → leAt c.payload 6 2 = 1 →
      ∃ t, exec (.diagCounters mb) s = .next t ∧ (arm t.dir a).cnt = { (arm s.dir a).cnt with overrun := 0 } ∧ t.dir.cells = s.dir.cells)
    ∧ (∀ s mb c id n, Due s mb 0x0901 c → leAt c.payload 0 2 = id → cellValid s.dir id = true → (cellRec s.dir id).link = .proven →
      (3072 ≤ id ∨ (arm s.dir (id / 512)).role = .authority) → byteAt c.payload 2 ≤ 2 → byteAt c.payload 3 = 0 → cellPort (part s.dir) id = some n →
      (byteAt c.payload 2 ≠ 0 → (s.dir.cells.filter fun (i, r) => i != id && r.diagMode != 0 && cellPort (part s.dir) i = some n).length < 2) →
      ∃ t r, exec (.diagEdge mb) s = .next t ∧ (mbx t.dir mb).cmd = some { c with wait := .cell id 0 }
        ∧ (port t.dir n).mgmt = (port s.dir n).mgmt ++ [r] ∧ r.mtype = 0x11 ∧ r.why = .cmd mb ∧ r.body = b1 (byteAt c.payload 2) ++ zeros 3)
    ∧ (∀ s mb c, Due s mb 0x0902 c → 1 ≤ leAt c.payload 0 2 → leAt c.payload 0 2 ≤ 169 → leAt c.payload 2 2 = 0 →
      ∃ t p, exec (.diagEdgeRead mb) s = .next t ∧ Answered t.dir mb c stOK p ∧ p.length = 4 + 24 * min (leAt c.payload 0 2) s.dir.diagBuf.length
        ∧ t.dir.diagBuf = s.dir.diagBuf.drop (leAt c.payload 0 2) ∧ t.dir.diagLost = 0)
    ∧ (∀ s mb c, Due s mb 0x0903 c → byteAt c.payload 0 < 6 → byteAt c.payload 1 = 0 → leAt c.payload 2 2 ≤ 511 → 4 ≤ c.payload.length →
      ∃ t p, exec (.diagEdgeLearned mb) s = .next t ∧ Answered t.dir mb c stOK p ∧ p.length = 36 ∧ t.dir.cells = s.dir.cells)
    ∧ (∀ s mb c id n, Due s mb 0x0904 c → leAt c.payload 0 2 = id → cellValid s.dir id = true → (cellRec s.dir id).link = .proven →
      (3072 ≤ id ∨ (arm s.dir (id / 512)).role = .authority) → byteAt c.payload 2 ≤ 1 → byteAt c.payload 3 = 0 → cellPort (part s.dir) id = some n →
      ∃ t r, exec (.diagTx mb) s = .next t ∧ (mbx t.dir mb).cmd = some { c with wait := .cell id 0 }
        ∧ (port t.dir n).mgmt = (port s.dir n).mgmt ++ [r] ∧ r.mtype = (if byteAt c.payload 2 = 0 then 0x09 else 0x0A) ∧ r.copies = 2 ∧ r.secure = some id)
    ∧ (∀ s mb c id n, Due s mb 0x0909 c → leAt c.payload 0 2 = id → cellValid s.dir id = true → (cellRec s.dir id).link = .proven →
      (3072 ≤ id ∨ (arm s.dir (id / 512)).role = .authority) → leAt c.payload 2 2 = 0 → cellPort (part s.dir) id = some n →
      ∃ t r, exec (.diagCellFreeze mb) s = .next t ∧ (mbx t.dir mb).cmd = some { c with wait := .cell id 0 }
        ∧ (port t.dir n).mgmt = (port s.dir n).mgmt ++ [r] ∧ r.mtype = 0x10 ∧ r.copies = 2 ∧ r.secure = some id)
    ∧ (∀ s mb c k i, Due s mb 0x0905 c → byteAt c.payload 0 = k → byteAt c.payload 1 = i → laneKnown s.dir k i = true →
      byteAt c.payload 2 ≤ 2 → byteAt c.payload 3 ≤ 3 → byteAt c.payload 4 ≤ 3 → allZero (sub c.payload 5 3) = true →
      (byteAt c.payload 2 = 1 → testAllowed s.dir k i = true) →
      ∃ t p, exec (.diagPrbs mb) s = .next t ∧ Answered t.dir mb c stOK p ∧ p.length = 12
        ∧ (byteAt c.payload 2 = 0 → (prbsOf t.dir k i).testMode = false ∧ (prbsOf t.dir k i).gen = false ∧ (prbsOf t.dir k i).check = false)
        ∧ (byteAt c.payload 2 = 1 → (prbsOf t.dir k i).testMode = true ∧ (prbsOf t.dir k i).pattern = byteAt c.payload 3
            ∧ (prbsOf t.dir k i).gen = bit (byteAt c.payload 4) 0 ∧ (prbsOf t.dir k i).check = bit (byteAt c.payload 4) 1)
        ∧ (byteAt c.payload 2 = 2 → prbsOf t.dir k i = { prbsOf s.dir k i with err := 0, resync := 0 }
            ∧ p.drop 4 = b4 (prbsOf s.dir k i).err.toNat ++ b4 (prbsOf s.dir k i).resync.toNat))
    ∧ (∀ s mb c i a, Due s mb 0x0905 c → byteAt c.payload 0 = 1 → byteAt c.payload 1 = i → i < 4 → byteAt c.payload 2 = 1 → a < 6 →
      (arm s.dir a).mode ≠ .off → ∃ t, exec (.diagPrbs mb) s = .next t ∧ Answered t.dir mb c stState [] ∧ t.dir.prbs = s.dir.prbs)
    ∧ (∀ s mb c line k i, Due s mb 0x0906 c → byteAt c.payload 0 = k → (k = 1 ∨ k = 2) → byteAt c.payload 1 = i → laneKnown s.dir k i = true →
      byteAt c.payload 2 ≤ 3 → byteAt c.payload 3 = 0 →
      (byteAt c.payload 2 ≤ 1 → (prbsOf s.dir k i).testMode = true ∨ (prbsOf s.dir k i).manual = true) →
      (byteAt c.payload 2 = 2 → k = 1 ∧ (lane s.dir i).mode = .align) →
      ∃ t, exec (.diagBitslip mb line) s = .next t
        ∧ prbsOf t.dir k i = (match byteAt c.payload 2 with
            | 0 => { prbsOf s.dir k i with slips := ((prbsOf s.dir k i).slips + 1) % 32 }
            | 1 => prbsOf s.dir k i
            | 2 => { prbsOf s.dir k i with manual := true, slips := 0 }
            | _ => { prbsOf s.dir k i with manual := false })
        ∧ Answered t.dir mb c stOK (b1 (prbsOf t.dir k i).slips ++ [0]
            ++ b2 (if byteAt c.payload 2 = 1 then matchCount line (prbsOf s.dir k i).slips (leAt c.payload 4 4) else 0)))
    ∧ (∀ s mb c, Due s mb 0x0907 c → byteAt c.payload 0 ≤ 2 → byteAt c.payload 1 = 0 → leAt c.payload 6 2 = 0 →
      (byteAt c.payload 0 = 0 → s.dir.disp.tracing = false ∧ 1 ≤ leAt c.payload 4 2 ∧ leAt c.payload 4 2 ≤ 254
        ∧ leAt c.payload 2 2 + leAt c.payload 4 2 ≤ s.dir.disp.trace.length) →
      (byteAt c.payload 0 ≠ 0 → leAt c.payload 4 2 = 0) →
      ∃ t p, exec (.diagTrace mb) s = .next t ∧ Answered t.dir mb c stOK p
        ∧ (byteAt c.payload 0 = 0 → t.dir.disp = s.dir.disp
            ∧ p.drop 8 = ((s.dir.disp.trace.reverse.drop (leAt c.payload 2 2)).take (leAt c.payload 4 2)).flatMap fun e => toLE 16 e.toNat)
        ∧ (byteAt c.payload 0 = 1 → t.dir.disp.tracing = false ∧ t.dir.disp.trace = s.dir.disp.trace)
        ∧ (byteAt c.payload 0 = 2 → t.dir.disp.tracing = true ∧ t.dir.disp.trace = []))
    ∧ (∀ s mb c, Due s mb 0x0908 c → leAt c.payload 0 4 = 0x465A5251 → leAt c.payload 4 4 = 0 →
      ∃ t, exec (.diagFreeze mb) s = .next t ∧ Answered t.dir mb c stOK [] ∧ t.dir.frz.armedCmd = true ∧ t.dir.frz.frozen = s.dir.frz.frozen)
    ∧ ∀ s mb c, Due s mb 0x0908 c → leAt c.payload 0 4 ≠ 0x465A5251 →
      ∃ t, exec (.diagFreeze mb) s = .next t ∧ Answered t.dir mb c stRange [] ∧ t.dir.frz = s.dir.frz

/-- SEC_NONCE draws a free value and leaves it as the one nonce outstanding on its interface, and an authorised command consumes it whatever its outcome: AUTH
unless the block holds the outstanding nonce, issued less than 60 s ago, and a signature under the owner key (R521, R522, R525, R526). -/
def Obligations.NoncesAndAuthorisation : Prop :=
  (∀ s mb c, Due s mb 0x0A00 c →
      ∃ t p v, exec (.secNonce mb) s = .next t ∧ Answered t.dir mb c stOK p ∧ p.length = 24 ∧ v = BitVec.ofNat 128 (nonce128 s.fresh 0) ∧ beAt p 0 16 = v.toNat ∧ leAt p 16 8 = deviceId s.dir
        ∧ nonceOf t.dir c.iface = some (v, s.dir.time.raw) ∧ ∀ j, j ≠ c.iface → nonceOf t.dir j = nonceOf s.dir j)
    ∧ (∀ (d : Director) (c : Cmd) (v : BitVec 128) (at_ : Nat) (key : List Byte), nonceOf d c.iface = some (v, at_) →
      (at_ + 75000000000 < d.time.raw ∨ v.toNat ≠ beAt c.payload (c.payload.length - 80) 16) → authOk d c key = false)
    ∧ (∀ s mb c i, Due s mb 0x0A03 c → authOk s.dir c (ownerKeyInForce s.mem s.dir) = true → byteAt c.payload 0 = i → i ≤ 1 →
      allZero (sub c.payload 1 3) = true → (slotWrite s.dir i).verified = true →
      ∃ t, exec (.secImageActivate mb) s = .next t ∧ Answered t.dir mb c stOK [BitVec.ofNat 8 i, 0, 0, 0] ∧ nonceOf t.dir c.iface = none
        ∧ t.dir.boot.logSeq = s.dir.boot.logSeq + 1)
    ∧ (∀ s mb c, Due s mb 0x0A03 c → authOk s.dir c (ownerKeyInForce s.mem s.dir) = false →
      ∃ t, exec (.secImageActivate mb) s = .next t ∧ Answered t.dir mb c stAuth [] ∧ nonceOf t.dir c.iface = none ∧ t.mem = s.mem
        ∧ (Enabled s.dir 209 → Decided t.dir 209 1 (toLE 2 0x0A03)))
    ∧ (∀ s mb c, Due s mb 0x0A03 c → nonceOf s.dir c.iface = none →
      ∃ t, exec (.secImageActivate mb) s = .next t ∧ Answered t.dir mb c stAuth [] ∧ t.mem = s.mem)
    ∧ (∀ s mb c, Due s mb 0x0A04 c → byteAt c.payload 0 = 2 → byteAt c.payload 1 = 0 → leAt c.payload 2 2 = 112 →
      authOk s.dir c (ownerKeyInForce s.mem s.dir) = true → certGood s.mem s.dir (sub c.payload 4 112) = true →
      ∃ t, exec (.secOwnerUpdate mb) s = .next t ∧ Answered t.dir mb c stOK [2, 0, 0, 0] ∧ t.dir.sec.cert = sub c.payload 4 112
        ∧ nonceOf t.dir c.iface = none ∧ t.dir.boot.fuseA = s.dir.boot.fuseA)
    ∧ ∀ s mb c n key, Due s mb 0x0A04 c → byteAt c.payload 0 = 1 → byteAt c.payload 1 = 0 → leAt c.payload 2 2 = 64 → key = sub c.payload 4 64 →
      onCurve key = true → freeHash s.dir = some n →
      authOk s.dir c (if (fusedOwnerHash s.dir).isNone then key else ownerKeyInForce s.mem s.dir) = true →
      ∃ t, exec (.secOwnerUpdate mb) s = .next t ∧ Answered t.dir mb c stOK [1, 0, 0, 0] ∧ nonceOf t.dir c.iface = none
        ∧ t.dir.boot.fuseA = s.dir.boot.fuseA ||| BitVec.ofNat 4096 ((sha256 key).toNat * 2 ^ (1440 + 256 * n))
        ∧ t.dir.boot.fuseB = s.dir.boot.fuseB ||| BitVec.ofNat 4096 ((sha256 key).toNat * 2 ^ (1440 + 256 * n)) ∧ t.dir.sec.cert = s.dir.sec.cert

/-- Images, keys, patches and the log: a write to a free slot reaches its flash, a write to the slot in use in RUN is refused
with STATE, a verification answers its result, a rekey waits for the new key, a patch sends its first record, the log is read
(R523, R524, R527 to R529). -/
def Obligations.ImagesKeysAndLog : Prop :=
  (∀ s mb c i o, Due s mb 0x0A01 c → byteAt c.payload 0 = i → i ≤ 1 → (s.dir.boot.state = .run → i ≠ s.dir.boot.slot) →
      allZero (sub c.payload 1 3) = true → leAt c.payload 4 4 = o → (o = 0 ∨ (slotWrite s.dir i).next = some o) → c.payload.length ≤ 4076 →
      9 ≤ c.payload.length → o + (c.payload.length - 8) ≤ slotSize s.dir → memWf s.mem = true →
      ∃ t, exec (.secImageWrite mb) s = .next t
        ∧ Answered t.dir mb c stOK ([BitVec.ofNat 8 i, 0, 0, 0] ++ toLE 4 o ++ toLE 4 (crc32c (c.payload.drop 8)))
        ∧ rdBytes t.mem .flash (slotBase s.dir i + o) (c.payload.length - 8) = c.payload.drop 8
        ∧ (slotWrite t.dir i).next = some (o + (c.payload.length - 8)) ∧ (slotWrite t.dir i).verified = false
        ∧ ∀ k, k ≠ .flash → OtherBytesKept s.mem t.mem .flash 0 0 k)
    ∧ (∀ s mb c, Due s mb 0x0A01 c → s.dir.boot.state = .run → byteAt c.payload 0 = s.dir.boot.slot →
      ∃ t, exec (.secImageWrite mb) s = .next t ∧ Answered t.dir mb c stState [] ∧ t.mem = s.mem ∧ t.dir.boot = s.dir.boot)
    ∧ (∀ s mb c i, Due s mb 0x0A02 c → byteAt c.payload 0 = i → i ≤ 1 → allZero (sub c.payload 1 3) = true →
      ∃ t p, exec (.secImageVerify mb) s = .next t ∧ Answered t.dir mb c stOK p ∧ p.length = 16 ∧ byteAt p 1 = imageResult s.mem s.dir i % 256
        ∧ (imageResult s.mem s.dir i = 0 → (slotWrite t.dir i).verified = true) ∧ t.mem = s.mem)
    ∧ (∀ s mb c n, Due s mb 0x0A05 c → byteAt c.payload 0 = 1 → byteAt c.payload 1 = n → leAt c.payload 2 2 = 0 → s.dir.time.running = true →
      portHere (part s.dir) n = true → (port s.dir n).rekeyMb = none →
      ∃ t, exec (.secRekey mb) s = .next t ∧ (port t.dir n).rekeyMb = some mb ∧ (treeKey t.dir n).next.isSome
        ∧ (treeKey t.dir n).key = (treeKey s.dir n).key ∧ (mbx t.dir mb).cmd = some { c with wait := .key })
    ∧ (∀ s mb c, Due s mb 0x0A05 c → byteAt c.payload 0 = 0 → leAt c.payload 2 2 = 0 → s.dir.time.running = true →
      (∀ n, n ∈ ports (part s.dir) → (port s.dir n).rekeyMb = none) →
      ∃ t, exec (.secRekey mb) s = .next t ∧ (∀ n, n ∈ ports (part s.dir) → (port t.dir n).rekeyMb = some mb ∧ (treeKey t.dir n).next.isSome)
        ∧ (mbx t.dir mb).cmd = some { c with wait := .key })
    ∧ (∀ s mb c, Due s mb 0x0A05 c → byteAt c.payload 0 = 2 → leAt c.payload 2 2 = 0 →
      ∃ t, exec (.secRekey mb) s = .next t
        ∧ (s.dir.sec.skNext.isSome → (mbx t.dir mb).cmd = some { c with wait := .key })
        ∧ (s.dir.sec.skNext = none → (mbx t.dir mb).cmd = some { c with wait := .twin }
            ∧ (s.dir.sk.active = true → sideNum s.dir = 0 → t.dir.sec.skOffer.isSome))
        ∧ t.dir.sec.skKey = s.dir.sec.skKey ∧ t.dir.ports = s.dir.ports)
    ∧ (∀ s mb c id n, Due s mb 0x0A06 c → leAt c.payload 0 2 = id → leAt c.payload 2 2 = 0 → cellValid s.dir id = true →
      (cellRec s.dir id).link = .proven → (3072 ≤ id ∨ (arm s.dir (id / 512)).role = .authority) → cellPort (part s.dir) id = some n →
      ∃ t r, exec (.secCellPatch mb) s = .next t ∧ (mbx t.dir mb).cmd = some { c with wait := .cell id 0 }
        ∧ (port t.dir n).mgmt = (port s.dir n).mgmt ++ [r] ∧ r.why = .cmd mb ∧ r.mtype = 0x0E ∧ r.secure = some id
        ∧ r.body = toBE 4 (leAt c.payload 4 4) ++ zeros 4 ++ (c.payload.drop 8).take 44)
    ∧ ∀ s mb c n, Due s mb 0x0A07 c → leAt c.payload 4 2 = n → 1 ≤ n → n ≤ 4072 → leAt c.payload 6 2 = 0 → leAt c.payload 0 4 + n ≤ 1048576 →
      ∃ t p, exec (.secLogRead mb) s = .next t ∧ Answered t.dir mb c stOK p ∧ p.length = 8 + n
        ∧ p.drop 8 = rdBytes s.mem .flash (logBase s.dir + leAt c.payload 0 4) n ∧ t.mem = s.mem

/-- EVT_ENABLE sets, adds to or takes from the enable mask and answers it; the reserved sources 198 to 207 cannot be enabled;
EVT_VECTOR_MAP reads and writes the vectors (R530, R531). -/
def Obligations.EventCommands : Prop :=
  (∀ s mb c, Due s mb 0x0B00 c → byteAt c.payload 0 ≤ 3 → allZero (sub c.payload 1 3) = true →
      ∃ t, exec (.evtEnable mb) s = .next t ∧ Answered t.dir mb c stOK (toLE 32 t.dir.ring.enable.toNat)
        ∧ (byteAt c.payload 0 = 0 → t.dir.ring.enable = s.dir.ring.enable)
        ∧ (∀ x, x < 198 ∨ (207 < x ∧ x < 256) →
          (byteAt c.payload 0 = 1 → t.dir.ring.enable.getLsbD x = (leAt c.payload 4 32).testBit x)
          ∧ (byteAt c.payload 0 = 2 → t.dir.ring.enable.getLsbD x = (s.dir.ring.enable.getLsbD x || (leAt c.payload 4 32).testBit x))
          ∧ (byteAt c.payload 0 = 3 → t.dir.ring.enable.getLsbD x = (s.dir.ring.enable.getLsbD x && !(leAt c.payload 4 32).testBit x)))
        ∧ (∀ x, 198 ≤ x → x ≤ 207 → s.dir.ring.enable.getLsbD x = false → t.dir.ring.enable.getLsbD x = false)
        ∧ t.dir.ring.decided = s.dir.ring.decided)
    ∧ (∀ s mb c, Due s mb 0x0B01 c → byteAt c.payload 4 = 0 → allZero (sub c.payload 5 3) = true → leAt c.payload 0 2 + leAt c.payload 2 2 ≤ 260 →
      ∃ t p, exec (.evtVectorMap mb) s = .next t ∧ Answered t.dir mb c stOK p ∧ p.length = 8 + leAt c.payload 2 2
        ∧ p.drop 8 = (List.range (leAt c.payload 2 2)).flatMap (fun j => b1 (mapIndex s.dir (leAt c.payload 0 2 + j))) ∧ t.dir.ring = s.dir.ring)
    ∧ ∀ s mb c x n, Due s mb 0x0B01 c → byteAt c.payload 4 = 1 → allZero (sub c.payload 5 3) = true → leAt c.payload 0 2 = x → leAt c.payload 2 2 = n →
      (c.payload.drop 8).length = n → (∀ v, v ∈ c.payload.drop 8 → v.toNat ≤ 31) → x + n ≤ 260 →
      ∃ t p, exec (.evtVectorMap mb) s = .next t ∧ Answered t.dir mb c stOK p
        ∧ (∀ j, (h : j < (c.payload.drop 8).length) → mapIndex t.dir (x + j) = (c.payload.drop 8)[j].toNat)
        ∧ (∀ y, (y < x ∨ x + n ≤ y) → mapIndex t.dir y = mapIndex s.dir y) ∧ t.dir.ring.enable = s.dir.ring.enable

/-- A cycle start moves converter time by the ticks of the cycle that ends, each of 0.8 ns with the correction in force, and
counts the cycle and its raw ticks (R34, R332, R334); before cycle numbers run it only passes time (assumption 14). -/
def Obligations.CyclesStart : Prop :=
  (∀ s : State, works s.dir = true → s.dir.time.running = true →
      ∃ t, exec .cycleStart s = .next t ∧ cyc t.dir = cyc s.dir + 1 ∧ t.dir.time.raw = s.dir.time.raw + s.dir.time.len
        ∧ t.dir.time.now = s.dir.time.now + s.dir.time.len * tickInc s.dir.time.c ∧ t.dir.time.c = s.dir.time.cNext
        ∧ t.dir.time.starts = s.dir.time.starts + 1)
    ∧ (∀ s : State, works s.dir = true → s.dir.time.running = false → s.dir.cfg.baked = false →
      ∃ t, exec .cycleStart s = .next t ∧ t.dir.time.running = false ∧ cyc t.dir = cyc s.dir
        ∧ t.dir.time.raw = s.dir.time.raw + planN (cfg s.dir) ∧ t.dir.arms = s.dir.arms ∧ t.mem = s.mem)
    ∧ ∀ (s : State) (e : Int), works s.dir = true → s.dir.time.running = false → s.dir.cfg.baked = true → s.dir.time.epoch = some e → e ≤ s.dir.time.now →
      ∃ t, exec .cycleStart s = .next t ∧ t.dir.time.running = true
        ∧ cyc t.dir = BitVec.ofInt 32 ((s.dir.time.now - e) / planUnits s.dir + 1)
        ∧ t.dir.time.grid = e + ((s.dir.time.now - e) / planUnits s.dir + 1) * planUnits s.dir ∧ t.dir.time.starts = s.dir.time.starts + 1

/-- A step of an arm with cells completes with the sample cycle of the plan and its engine time, its role follows isolation and the
leases held, and an isolated arm outside MANUAL, AUTO and HOLD applies U_IDLE and inserts no cell (R264, R321, R322); one that hardware abandons
commits nothing: the state estimate and the applied input stay, its order cycle carries NOP, and the cause is counted
(R54, R55, R243, R245). -/
def Obligations.ControlSteps : Prop :=
  (∀ s a, a < 6 → works s.dir = true → s.dir.time.running = true → (armCells (cfg s.dir) a ≠ [] ∨ awaited (arm s.dir a) = true) →
      ∃ t, exec (.aceStep a .none) s = .next t ∧ (arm t.dir a).stepped = true ∧ (arm t.dir a).cycle = stepCycle s.dir
        ∧ (arm t.dir a).seq = stepCycle s.dir ∧ t.mem = s.mem
        ∧ ((arm s.dir a).pBank = none → (arm t.dir a).tAce = tAce (cfg s.dir) a)
        ∧ ((arm s.dir a).pIsolate = [] → (arm t.dir a).held = heldCount s.dir a (stepCycle s.dir)
            ∧ ((arm s.dir a).isolate = true ∨ anyProven s.dir a = false → (arm t.dir a).role = .isolated)
            ∧ ((arm s.dir a).isolate = false → anyProven s.dir a = true → quorum (cfg s.dir) a ≤ heldCount s.dir a (stepCycle s.dir) →
                0 < heldCount s.dir a (stepCycle s.dir) → (arm t.dir a).role = .authority))
        ∧ ((arm s.dir a).pIsolate = [] → (arm s.dir a).isolate = true → (arm s.dir a).pMode = none → (arm s.dir a).pBank = none →
            operating (arm s.dir a).mode = false →
            (arm t.dir a).u = (List.range (dimM (cfg s.dir) a)).map (fun i => parmF (armS (cfg s.dir) a) 16 i 0)
            ∧ (arm t.dir a).uApplied = (arm t.dir a).u ∧ (arm t.dir a).nIns = 0 ∧ (arm t.dir a).w = 0))
    ∧ (∀ s a, a < 6 → works s.dir = true → s.dir.time.running = true → (armCells (cfg s.dir) a ≠ [] ∨ awaited (arm s.dir a) = true) →
      ∃ t, exec (.aceStep a .overrun) s = .next t ∧ (arm t.dir a).nop = some (stepOrder s.dir, .overrun)
        ∧ (arm t.dir a).cnt.overrun = satInc (arm s.dir a).cnt.overrun ∧ (arm t.dir a).xhat = (arm s.dir a).xhat
        ∧ (arm t.dir a).u = (arm s.dir a).u ∧ (arm t.dir a).uApplied = (arm s.dir a).uApplied
        ∧ ((arm s.dir a).mode ≠ .auto → (arm t.dir a).mode = (arm s.dir a).mode
            ∧ ∀ i, i < dimP (cfg s.dir) a → ySrc (cfg s.dir) a i ≠ 0 →
                (tget {} i (arm t.dir a).outs).loss = (tget {} i (arm s.dir a).outs).loss + 1 ∧ (tget {} i (arm t.dir a).outs).fresh = false)
        ∧ ∀ b, b ≠ a → arm t.dir b = arm s.dir b)
    ∧ ∀ s a x, a < 6 → works s.dir = true → s.dir.time.running = true → (armCells (cfg s.dir) a ≠ [] ∨ awaited (arm s.dir a) = true) →
      ∃ t, exec (.aceStep a (.uncorrectable x)) s = .next t ∧ (arm t.dir a).nop = some (stepOrder s.dir, .abandoned)
        ∧ (arm t.dir a).cnt.abandoned = satInc (arm s.dir a).cnt.abandoned ∧ t.dir.bg.sramUe = satInc s.dir.bg.sramUe
        ∧ (arm t.dir a).xhat = (arm s.dir a).xhat ∧ (arm t.dir a).u = (arm s.dir a).u ∧ (arm t.dir a).uApplied = (arm s.dir a).uApplied
        ∧ ((arm s.dir a).mode ≠ .auto → (arm t.dir a).mode = (arm s.dir a).mode) ∧ ∀ b, b ≠ a → arm t.dir b = arm s.dir b

/-- The conversion of a demanded arm voltage (R262): no more cells than are available, a trim only with a cell left for it and
within W_MAX, and an arm with a half-bridge cell never inserts negatively. The ranking is the keys in ascending order, each position once (R285, R287); a sorter that delivers anything else is found
out: the arm's order cycle carries NOP and SORT_FAULT counts and fires (R288). -/
def Obligations.ConversionAndRanking : Prop :=
  (∀ (c : Cfg) (a avail : Nat) (vbar u : F32), (convert c a avail vbar u).1 ≤ avail ∧ (convert c a avail vbar u).2.1 ≤ wMax c a
    ∧ (0 < (convert c a avail vbar u).2.1 → (convert c a avail vbar u).1 + 1 ≤ avail)
    ∧ (fullBridge c a = false → (convert c a avail vbar u).2.2.2.1 = true))
    ∧ ((∀ s a, a < 6 → works s.dir = true → s.dir.time.running = true → (arm s.dir a).stepped = true →
      ∃ (t : State) (l : List (BitVec 32)), exec (.sort a none) s = .next t ∧ l.Perm (sortKeys s.dir a) ∧ l.Pairwise (· ≤ ·)
        ∧ (arm t.dir a).order = l.map (fun k => k.toNat % 512) ∧ (arm t.dir a).keys = sortKeys s.dir a
        ∧ (arm t.dir a).ranked = some (armOrder s.dir a)
        ∧ (arm t.dir a).inserted = (if operating (arm s.dir a).mode then (arm t.dir a).order.take (arm s.dir a).nIns else [])
        ∧ ∀ b, b ≠ a → arm t.dir b = arm s.dir b)
    ∧ ∀ (s : State) (a : Nat) (hw : List (BitVec 32)), a < 6 → works s.dir = true → s.dir.time.running = true → (arm s.dir a).stepped = true → ¬ hw.Perm (sortKeys s.dir a) →
      ∃ t, exec (.sort a (some hw)) s = .next t ∧ (arm t.dir a).nop = some (armOrder s.dir a, .sortFault)
        ∧ (arm t.dir a).cnt.sortFault = satInc (arm s.dir a).cnt.sortFault ∧ (arm t.dir a).order = (arm s.dir a).order
        ∧ (Enabled s.dir (62 + a) → Decided t.dir (62 + a) 1 []))

/-- Assembly hands the port one frame of its order cycle: 16 bytes of header, 64 records of 8, 64 of management (R108, R111); the
launch sends it once as the first copy and, T_REPEAT later, once as the repeat copy; an incomplete frame leaves as NOP and
is counted (R47, R55, R110, R342). A pulse of at least 125 ticks on a BLOCK_IN pin blocks its arms in RUN and raises its source; a shorter one is ignored
and counted (R56, R62, R63). -/
def Obligations.OrderFramesAndBlockInputs : Prop :=
  ((∀ s n, n < 52 → portHere (part s.dir) n = true → framesOn s.dir (frameOrder s.dir n) = true → streaming s.dir n = true →
      (port s.dir n).built ≠ some (frameOrder s.dir n) →
      ∃ t f, exec (.orderAssembly n) s = .next t ∧ (port t.dir n).frame = some f ∧ f.cycle = frameOrder s.dir n ∧ f.body.length = 592
        ∧ f.body.take 4 = toBE 4 f.cycle.toNat ∧ f.depart = departOf s.dir (frameCycle s.dir n) (planF (cfg s.dir))
        ∧ f.first = false ∧ (port t.dir n).built = some f.cycle ∧ t.mem = s.mem)
    ∧ (∀ s n f, n < 52 → (port s.dir n).frame = some f → f.first = false → framesOn s.dir f.cycle = true → (port s.dir n).prbs.testMode = false →
      ∃ t g, exec (.orderFrameLaunch n true) s = .next t
        ∧ Tx.tree n tcFirst (linePolarity s.dir n (copyLine s.dir n f false f.depart)) f.depart ∈ t.dir.tx
        ∧ (port t.dir n).frame = some g ∧ g = { f with first := true, ticks := g.ticks } ∧ t.dir.time.sending = true)
    ∧ (∀ s n f, n < 52 → (port s.dir n).frame = some f → f.first = false → framesOn s.dir f.cycle = true → (port s.dir n).prbs.testMode = false →
      ∃ t g, exec (.orderFrameLaunch n false) s = .next t ∧ (port t.dir n).frame = some g ∧ g.cycle = f.cycle ∧ g.first = true
        ∧ (∃ line, Tx.tree n tcFirst line f.depart ∈ t.dir.tx)
        ∧ (port t.dir n).launchLate = satInc (port s.dir n).launchLate
        ∧ (Enabled s.dir n → Decided t.dir n 9 (b4 f.cycle.toNat))
        ∧ (f.body.length = 592 → ∀ i, i < 64 → sub g.body (16 + 8 * i) 8 = recBytes nopRec))
    ∧ ∀ s n f, n < 52 → (port s.dir n).frame = some f → f.first = true → framesOn s.dir f.cycle = true → (port s.dir n).prbs.testMode = false →
      planRep (cfg s.dir) = true →
      ∃ t, exec (.repeatCopyLaunch n) s = .next t
        ∧ Tx.tree n tcRepeat (linePolarity s.dir n (copyLine s.dir n f true (f.depart + 44000))) (f.depart + 44000) ∈ t.dir.tx
        ∧ (port t.dir n).frame = none)
    ∧ ((∀ s pin held tick, pin < 4 → held < 125 → s.dir.pins.resetN = true →
      ∃ t, exec (.blockInAssert pin held tick) s = .next t ∧ t.dir.arms = s.dir.arms
        ∧ tget 0 pin t.dir.pins.ignored = satInc (tget 0 pin s.dir.pins.ignored))
    ∧ (∀ s pin held tick, pin < 4 → 125 ≤ held → s.dir.pins.resetN = true → s.dir.boot.state = .run → s.dir.frz.frozen = false →
      ∃ t, exec (.blockInAssert pin held tick) s = .next t ∧ (∀ a, a ∈ blockMask s.dir pin → (arm t.dir a).mode = .blocked)
        ∧ (∀ a, a ∉ blockMask s.dir pin → arm t.dir a = arm s.dir a)
        ∧ (∀ n a x, n ∈ ports (part s.dir) → armOfPort (part s.dir) n = some (a, x) → a ∈ blockMask s.dir pin → streaming s.dir n = true →
            ∃ line, Tx.urgent n line (boundary16 s.dir (tick + 165)) ∈ t.dir.tx)
        ∧ (Enabled s.dir (192 + pin) → Decided t.dir (192 + pin) 0 []))
    ∧ ∀ s pin held tick, pin < 4 → 125 ≤ held → s.dir.pins.resetN = true → (s.dir.boot.state ≠ .run ∨ s.dir.frz.frozen = true) →
      ∃ t, exec (.blockInAssert pin held tick) s = .next t ∧ t.dir.arms = s.dir.arms
        ∧ (Enabled s.dir (192 + pin) → Decided t.dir (192 + pin) 0 []))

/-- A burst outside 80 units of its expected arrival is a miss, and a window without one within 128 counts absent (R84); a slot burst
that passes every check is the cell's last report and ends both runs (R93, R102, R145, R146), and a management burst that passes enters its
telemetry queue (R416). Light while no join window is open is stray (R106). Eight misses quarantine the cell: its slot is withdrawn in two
frames, its hold begins and source n fires (R93, R94), and the hold ends after its cycles; 64 absent cycles lose the cell (R102). -/
def Obligations.MissesQuarantineAndLoss : Prop :=
  (∀ s n i id e b, n < 52 → portHere (part s.dir) n = true → works s.dir = true → s.dir.time.running = true → (port s.dir n).prbs.testMode = false →
      cellOfSlot (part s.dir) n i = some id → configured (cfg s.dir) id = true → slotAssigned s.dir n id (cyc s.dir) = true →
      b.err = some e → 80 < (e - s.dir.intDelay).natAbs → (e - s.dir.intDelay).natAbs ≤ 128 →
      ∃ t, exec (.slotBurstReceive n (.slot i) b) s = .next t
        ∧ (cellRec t.dir id).misses = (cellRec s.dir id).misses + 1 ∧ (cellRec t.dir id).cnt.windowMiss = satInc (cellRec s.dir id).cnt.windowMiss
        ∧ (cellRec t.dir id).last = (cellRec s.dir id).last)
    ∧ (∀ s n i id b, n < 52 → portHere (part s.dir) n = true → works s.dir = true → s.dir.time.running = true → (port s.dir n).prbs.testMode = false →
      cellOfSlot (part s.dir) n i = some id → configured (cfg s.dir) id = true → slotAssigned s.dir n id (cyc s.dir) = true →
      (∀ e, b.err = some e → 128 < (e - s.dir.intDelay).natAbs) →
      ∃ t, exec (.slotBurstReceive n (.slot i) b) s = .next t
        ∧ (cellRec t.dir id).absents = (cellRec s.dir id).absents + 1 ∧ (cellRec t.dir id).misses = (cellRec s.dir id).misses
        ∧ (cellRec t.dir id).cnt.burstAbsent = satInc (cellRec s.dir id).cnt.burstAbsent)
    ∧ (∀ s n i id e b bs, n < 52 → portHere (part s.dir) n = true → works s.dir = true → s.dir.time.running = true → (port s.dir n).prbs.testMode = false →
      cellOfSlot (part s.dir) n i = some id → configured (cfg s.dir) id = true → slotAssigned s.dir n id (cyc s.dir) = true → isNode id = false →
      b.err = some e → (e - s.dir.intDelay).natAbs ≤ 80 → burstBytes (cyc s.dir) (cellSlot id) 22 (rxLine s.dir n b.bits) = some bs →
      crc16Ok bs 22 = true → burstTagOk s.dir n id 0x11 (cellSlot id) (cyc s.dir) (bs.take 16) (beAt bs 16 4) = true →
      reportOk (fld (beNat (bs.take 16)) 79 64) (fld (beNat (bs.take 16)) 19 12) = true →
      ∃ t, exec (.slotBurstReceive n (.slot i) b) s = .next t ∧ (cellRec t.dir id).last = some (parseBurst (cyc s.dir) false (bs.take 16)).1
        ∧ (cellRec t.dir id).prev = (cellRec s.dir id).last ∧ (cellRec t.dir id).misses = 0 ∧ (cellRec t.dir id).absents = 0
        ∧ (cellRec t.dir id).keyConfirmed = true)
    ∧ (∀ s n i id e b bs, n < 52 → portHere (part s.dir) n = true → works s.dir = true → s.dir.time.running = true → (port s.dir n).prbs.testMode = false →
      (port s.dir n).subs.find? (fun x => x.1 = cyc s.dir && x.2.1 = i) = some (cyc s.dir, i, id) → (cellRec s.dir id).keyConfirmed = true →
      b.err = some e → (e - s.dir.intDelay).natAbs ≤ 80 → burstBytes (cyc s.dir) (64 + i) 30 (rxLine s.dir n b.bits) = some bs →
      crc16Ok bs 30 = true → burstTagOk s.dir n id 0x13 (64 + i) (cyc s.dir) (bs.take 24) (beAt bs 24 4) = true → mgmtOk (bs.take 24) = true →
      tqUsed (tq s.dir (tqOfPort s.dir n)).items + 36 ≤ 65536 →
      ∃ t, exec (.slotBurstReceive n (.sub i) b) s = .next t ∧ (cellRec t.dir id).misses = 0 ∧ (cellRec t.dir id).absents = 0
        ∧ (tq t.dir (tqOfPort s.dir n)).items = (tq s.dir (tqOfPort s.dir n)).items
            ++ [{ bytes := tqHead 1 36 id (cyc s.dir) ++ b1 n ++ b1 i ++ zeros 2 ++ bs.take 24 }])
    ∧ (∀ s n b, n < 52 → portHere (part s.dir) n = true → works s.dir = true → s.dir.time.running = true → (port s.dir n).prbs.testMode = false →
      (port s.dir n).joinOpen = none → lightIn b.light 0 (2 * (planN (cfg s.dir) + planW (cfg s.dir) - joinJ0 (cfg s.dir) n)) = true →
      ∃ t, exec (.slotBurstReceive n .join b) s = .next t ∧ (port t.dir n).strayLight = satInc (port s.dir n).strayLight ∧ t.dir.cells = s.dir.cells)
    ∧ (∀ s id n, id < 3168 → works s.dir = true → cellPort (part s.dir) id = some n →
      (holdsSlot (cellRec s.dir id) = true ∨ (cellRec s.dir id).link = .joining) → 8 ≤ (cellRec s.dir id).misses →
      ∃ t r q, exec (.quarantine id) s = .next t ∧ (cellRec t.dir id).link = .quarantined ∧ (cellRec t.dir id).held = true
        ∧ (cellRec t.dir id).entries = (cellRec s.dir id).entries + 1 ∧ (port t.dir n).mgmt = q ++ [r] ∧ r.mtype = 0x05
        ∧ ((∀ e, (port s.dir n).exchange = some e → e.cell ≠ id) → q = (port s.dir n).mgmt) ∧ (∀ e, (port t.dir n).exchange = some e → e.cell ≠ id)
        ∧ r.copies = 2 ∧ (Enabled s.dir n → ∃ e ∈ t.dir.ring.decided, e.source = n ∧ e.detail = 1))
    ∧ (∀ s id n, id < 3168 → works s.dir = true → cellPort (part s.dir) id = some n → holdsSlot (cellRec s.dir id) = true → 64 ≤ (cellRec s.dir id).absents →
      ∃ t, exec (.cellLost id) s = .next t ∧ (cellRec t.dir id).link = .lost ∧ (cellRec t.dir id).cnt.lost = satInc (cellRec s.dir id).cnt.lost
        ∧ (Enabled s.dir n → Decided t.dir n 2 (toLE 2 id)))
    ∧ ∀ s id, id < 3168 → works s.dir = true → (cellRec s.dir id).held = true →
      (cellRec s.dir id).heldAt + quarHold (cfg s.dir) ≤ s.dir.time.starts →
      ∃ t, exec (.quarHoldExpire id) s = .next t ∧ (cellRec t.dir id).held = false ∧ (cellRec t.dir id).entries = (cellRec s.dir id).entries
        ∧ (cellRec t.dir id).link = (cellRec s.dir id).link

/-- Sixty-four bursts prove a cell: its offsets are written with APPLY, its configuration begins and JOIN_OK counts (R90, R556); a
proven cell whose block average leaves 8 units is written new offsets, at most 80 from the old (R91); one beyond the
tree's delay loses its slot (R92). -/
def Obligations.Proving : Prop :=
  (∀ s id n sum o, id < 3168 → works s.dir = true → cellPort (part s.dir) id = some n → (cellRec s.dir id).link = .proving → (cellRec s.dir id).block = some sum →
      o = offsetsOf (cfg s.dir) n ((cellRec s.dir id).dnOfs + (cellRec s.dir id).upOfs + roundHalfUp sum 64) → tooFar (cfg s.dir) n o = false →
      ∃ t r, exec (.initialProving id) s = .next t ∧ (cellRec t.dir id).link = .proven
        ∧ (cellRec t.dir id).cfgStep = (if (cellRec s.dir id).keyedFrom.isSome then 2 else 1)
        ∧ (port t.dir n).joinOk = satInc (port s.dir n).joinOk ∧ (port t.dir n).mgmt = (port s.dir n).mgmt ++ [r] ∧ r.mtype = 0x06 ∧ r.cell = some id
        ∧ r.secure = some id ∧ r.body = toBE 2 o.1 ++ toBE 2 o.2 ++ zeros 4)
    ∧ (∀ s id n sum, id < 3168 → works s.dir = true → cellPort (part s.dir) id = some n → (cellRec s.dir id).link = .proven → (cellRec s.dir id).block = some sum →
      sum.natAbs ≤ 512 →
      ∃ t, exec (.provingBlock id) s = .next t ∧ (cellRec t.dir id).link = .proven ∧ (cellRec t.dir id).block = none ∧ t.dir.ports = s.dir.ports)
    ∧ (∀ s id n sum o, id < 3168 → works s.dir = true → cellPort (part s.dir) id = some n → (cellRec s.dir id).link = .proven →
      (cellRec s.dir id).block = some sum → 512 < sum.natAbs →
      o = offsetsOf (cfg s.dir) n ((cellRec s.dir id).dnOfs + (cellRec s.dir id).upOfs + roundHalfUp sum 64) →
      o.1 ≤ (cellRec s.dir id).dnOfs + 80 → (cellRec s.dir id).dnOfs ≤ o.1 + 80 → o.2 ≤ (cellRec s.dir id).upOfs + 80 →
      (cellRec s.dir id).upOfs ≤ o.2 + 80 → tooFar (cfg s.dir) n o = false →
      ∃ t r, exec (.provingBlock id) s = .next t ∧ (cellRec t.dir id).link = .proven ∧ (cellRec t.dir id).block = none
        ∧ (cellRec t.dir id).cnt.reprove = satInc (cellRec s.dir id).cnt.reprove
        ∧ (port t.dir n).mgmt = (port s.dir n).mgmt ++ [r] ∧ r.mtype = 0x06 ∧ r.cell = some id ∧ r.body = toBE 2 o.1 ++ toBE 2 o.2 ++ zeros 4)
    ∧ ∀ s id n sum o, id < 3168 → works s.dir = true → cellPort (part s.dir) id = some n → (cellRec s.dir id).link = .proving →
      (cellRec s.dir id).block = some sum →
      o = offsetsOf (cfg s.dir) n ((cellRec s.dir id).dnOfs + (cellRec s.dir id).upOfs + roundHalfUp sum 64) → tooFar (cfg s.dir) n o = true →
      ∃ t, exec (.initialProving id) s = .next t ∧ (cellRec t.dir id).link = .listen
        ∧ (port t.dir n).delayExcess = satInc (port s.dir n).delayExcess

/-- Joining: a burst outside the open window is ignored, a broken one counts CRC_FAIL, and one that passes opens an exchange (R84, R97 to
R101); a complete exchange with a good certificate and signature makes the session key, and one with a bad certificate or signature is
refused with cause 5 or 6 (R101, R595); an exchange that takes 64 cycles for a step closes and its cell listens again (R100). An unanswered
parameter read is sent again after 16 cycles, three times (R556); a patch is sent once per boot (R605). -/
def Obligations.Joining : Prop :=
  (∀ s n err bits w j0 jl, n < 52 → portHere (part s.dir) n = true → works s.dir = true → s.dir.time.running = true →
      (port s.dir n).joinOpen = some (w, j0, jl) → (w = cyc s.dir ∨ w + 1 = cyc s.dir) → -1472 ≤ err → err + 1472 ≤ 32 * (jl : Int) →
      burstBytes w 72 26 (rxLine s.dir n bits) = none →
      ∃ t, exec (.joinBurstReceive n err bits) s = .next t ∧ (port t.dir n).crcFail = satInc (port s.dir n).crcFail
        ∧ (port t.dir n).exchange = (port s.dir n).exchange ∧ t.dir.cells = s.dir.cells)
    ∧ (∀ s n err bits w j0 jl, n < 52 → (port s.dir n).joinOpen = some (w, j0, jl) → (err < -1472 ∨ 32 * (jl : Int) < err + 1472) →
      ∃ t, exec (.joinBurstReceive n err bits) s = .next t ∧ t.dir = { s.dir with tx := t.dir.tx, writes := t.dir.writes, host := t.dir.host })
    ∧ (∀ s n err bits bs x id w j0 jl, n < 52 → portHere (part s.dir) n = true → works s.dir = true → s.dir.time.running = true →
      (port s.dir n).joinOpen = some (w, j0, jl) → (w = cyc s.dir ∨ w + 1 = cyc s.dir) → -1472 ≤ err → err + 1472 ≤ 32 * (jl : Int) →
      burstBytes w 72 26 (rxLine s.dir n bits) = some bs → crc16Ok bs 26 = true → beNat (bs.take 24) = x → fld x 106 104 = 0 → fld x 31 0 = 0 →
      (port s.dir n).exchange = none → exchanges s.dir < 8 → fld x 127 112 = id →
      joinCause s.dir n id (fld x 111 108) (fld x 107 107) (offsetsOf (cfg s.dir) n (err - s.dir.intDelay)) = none →
      ∃ t e, exec (.joinBurstReceive n err bits) s = .next t ∧ (port t.dir n).exchange = some e ∧ e.cell = id ∧ e.window = w
        ∧ (cellRec t.dir id).link = .joining)
    ∧ (∀ s n e, n < 52 → works s.dir = true → (port s.dir n).exchange = some e → (cellRec s.dir e.cell).link = .joining →
      kindDone e 1 = true → kindDone e 2 = true → kindDone e 3 = true → cellCertOk s.dir e = false →
      ∃ t, exec (.joinKeyDerived n) s = .next t ∧ (port t.dir n).exchange = none ∧ (cellRec t.dir e.cell).link = .listen
        ∧ (cellRec t.dir e.cell).key = none ∧ (Enabled s.dir 208 → Decided t.dir 208 5 (toLE 2 e.cell ++ [5])))
    ∧ (∀ s n e, n < 52 → works s.dir = true → (port s.dir n).exchange = some e → (cellRec s.dir e.cell).link = .joining →
      kindDone e 1 = true → kindDone e 2 = true → kindDone e 3 = true → cellCertOk s.dir e = true →
      ecdsaVerify (sub e.cert 15 33) (sha256 (0x43 :: exTranscript s.dir e)) (e.sig.take 64) = true → onCurve (e.pub.take 33) = true →
      ∃ t, exec (.joinKeyDerived n) s = .next t ∧ (cellRec t.dir e.cell).link = .proving
        ∧ (cellRec t.dir e.cell).key = some (deriveKey (ecdhShared e.eph (e.pub.take 33)) "QZ-SESSION" (sha256 (exTranscript s.dir e)))
        ∧ (cellRec t.dir e.cell).keyConfirmed = false)
    ∧ (∀ s n e, n < 52 → works s.dir = true → (port s.dir n).exchange = some e → (cellRec s.dir e.cell).link = .joining →
      kindDone e 1 = true → kindDone e 2 = true → kindDone e 3 = true → cellCertOk s.dir e = true →
      ecdsaVerify (sub e.cert 15 33) (sha256 (0x43 :: exTranscript s.dir e)) (e.sig.take 64) = false →
      ∃ t, exec (.joinKeyDerived n) s = .next t ∧ (port t.dir n).exchange = none ∧ (cellRec t.dir e.cell).link = .listen
        ∧ (Enabled s.dir 208 → Decided t.dir 208 6 (toLE 2 e.cell ++ [6])))
    ∧ (∀ s n e, n < 52 → works s.dir = true → (port s.dir n).exchange = some e → e.stepAt + 64 ≤ s.dir.time.starts →
      ∃ t, exec (.joinExchangeTimeout n) s = .next t ∧ (port t.dir n).exchange = none ∧ (cellRec t.dir e.cell).link = .listen
        ∧ (port t.dir n).joinRefused = satInc (port s.dir n).joinRefused)
    ∧ (∀ s id i k x, id < 3168 → works s.dir = true → (cellRec s.dir id).reading = some (i, k, x) → readUnsent s.dir id = false → k < 3 → x + 16 ≤ s.dir.time.starts →
      ∃ t, exec (.cellParamReadTimeout id) s = .next t ∧ (cellRec t.dir id).reading = some (i, k + 1, s.dir.time.starts)
        ∧ (cellRec t.dir id).cfgStep = (cellRec s.dir id).cfgStep)
    ∧ (∀ s id i k x, id < 3168 → works s.dir = true → (cellRec s.dir id).reading = some (i, k, x) → readUnsent s.dir id = false → 3 ≤ k → x + 16 ≤ s.dir.time.starts →
      ∃ t, exec (.cellParamReadTimeout id) s = .next t ∧ (cellRec t.dir id).reading = none ∧ (cellRec t.dir id).cfgStep = 8)
    ∧ ∀ s id at_ size level, id < 3168 → works s.dir = true → imageSection s.mem s.dir 0x83 (cellVar (cfg s.dir) id) = some (at_, size) →
      ((cellRec s.dir id).slow.find? (·.1 = 1)) = some (1, level) → (cellRec s.dir id).link = .proven → id ∉ s.dir.patched →
      (if isNode id then cpReset 6 else prefSide (cfg s.dir) (id / 512)) = sideNum s.dir →
      (∀ a, a ∈ armsOfCell (cfg s.dir) id → offPre (arm s.dir a).mode = true) →
      level.toNat < beNat (rdBytes s.mem .flash (at_ + 8) 4) →
      ∃ t, exec (.cellPatchSend id) s = .next t ∧ id ∈ t.dir.patched
        ∧ (∀ n, 0 < size → cellPort (part s.dir) id = some n → ∃ r, (port t.dir n).mgmt = (port s.dir n).mgmt ++ [r] ∧ r.mtype = 0x0E ∧ r.cell = some id)
        ∧ (Enabled s.dir 211 → Decided t.dir 211 1 (toLE 2 id)) ∧ t.mem = s.mem

/-- At the mirror deadline an arm without a complete mirror of its step has missed it: its run of good mirrors ends, and
MIRROR_MISS counts while the twin is alive (R311, R314, R319); a complete one ends the run of misses, and a SHADOW or COLD
director takes the AUTHORITY's mode from it (R323). -/
def Obligations.MirrorDeadline : Prop :=
  (∀ s a, a < 6 → works s.dir = true → s.dir.time.running = true →
      (twinBlock s.dir 0x10 (mirrorCycle s.dir) = none ∨ twinBlock s.dir a (mirrorCycle s.dir) = none) →
      ∃ t, exec .mirrorAccept s = .next t ∧ (arm t.dir a).missed = true ∧ (arm t.dir a).goodRun = 0 ∧ (arm t.dir a).mode = (arm s.dir a).mode
        ∧ (arm t.dir a).mirror = (arm s.dir a).mirror
        ∧ (twinBlock s.dir 0x10 (mirrorCycle s.dir) = none → t.dir.sk.lastMirror = s.dir.sk.lastMirror)
        ∧ (arm t.dir a).cnt.mirrorMiss = if s.dir.sk.twinAlive then satInc (arm s.dir a).cnt.mirrorMiss else (arm s.dir a).cnt.mirrorMiss)
    ∧ ∀ s a cv b, a < 6 → works s.dir = true → s.dir.time.running = true → twinDiffers s.dir = false →
      twinBlock s.dir 0x10 (mirrorCycle s.dir) = some cv → twinBlock s.dir a (mirrorCycle s.dir) = some b → bit (byteAt cv 14) 0 = true →
      b.length = 2688 → byteAt b 0 = a → byteAt b 1 ≤ 5 → byteAt b 2 ≤ 3 →
      ∃ t, exec .mirrorAccept s = .next t ∧ (arm t.dir a).missed = false ∧ (arm t.dir a).missRun = 0
        ∧ (arm t.dir a).goodRun = (arm s.dir a).goodRun + 1 ∧ t.dir.sk.lastMirror = some (mirrorCycle s.dir)
        ∧ (((arm s.dir a).role = .shadow ∨ (arm s.dir a).role = .cold) → (arm t.dir a).mode = modeOf (byteAt b 1)
            ∧ (byteAt b 2 = 3 → (arm t.dir a).rEff = (List.range (dimR (cfg s.dir) a)).map fun i => BitVec.ofNat 32 (beAt b (176 + 4 * i) 4)))

/-- A Skeund frame with a bad CRC on a lane that carries traffic counts there and reassembles nothing (R373, R382); a mirror block of
one authentic frame is complete with it (R371 to R373), and a forwarded ARM_BLOCK blocks the arms it names that the command may block
(R300, R316, R489). -/
def Obligations.SkeundFrames : Prop :=
  (∀ s l f, l < 4 → works s.dir = true → s.dir.sk.active = true → (lane s.dir l).mode = .active → s.dir.sk.ownOk.getLsbD (physLane s.dir l) = true →
      (f.typeCode = 0x5AA53CC3 ∨ f.typeCode = 0xA55AC33C) →
      (f.violation = true ∨ f.bytes.length ≠ 20 + fld (beAt f.bytes 6 2) 12 0
        ∨ crc32c (f.bytes.take (16 + fld (beAt f.bytes 6 2) 12 0)) ≠ beAt f.bytes (16 + fld (beAt f.bytes 6 2) 12 0) 4) →
      ∃ t, exec (.skeundFrameReceive l f) s = .next t ∧ (lane t.dir l).crcFail = satInc (lane s.dir l).crcFail
        ∧ (lane t.dir l).crcRun = (lane s.dir l).crcRun + 1 ∧ t.dir.sk.blocks = s.dir.sk.blocks ∧ t.dir.sk.parts = s.dir.sk.parts
        ∧ t.dir.arms = s.dir.arms ∧ t.dir.cfg = s.dir.cfg)
    ∧ (∀ s l f k len, l < 4 → works s.dir = true → s.dir.sk.active = true → (lane s.dir l).mode = .active →
      s.dir.sk.ownOk.getLsbD (physLane s.dir l) = true → f.typeCode = 0x5AA53CC3 → f.violation = false →
      fld (beAt f.bytes 6 2) 12 0 = len → f.bytes.length = 20 + len → crc32c (f.bytes.take (16 + len)) = beAt f.bytes (16 + len) 4 →
      skKeyAt s.dir (BitVec.ofNat 32 (beAt f.bytes 0 4)) = some k →
      skTag k (skIv true (1 - sideNum s.dir) (physLane s.dir l) (byteAt f.bytes 4) (BitVec.ofNat 32 (beAt f.bytes 0 4))) (f.bytes.take (8 + len))
        = beAt f.bytes (8 + len) 8 →
      fld (beAt f.bytes 6 2) 15 13 = 1 → byteAt f.bytes 5 = 0x10 → len = 256 →
      ∃ t, exec (.skeundFrameReceive l f) s = .next t
        ∧ tget (0, []) 0x10 t.dir.sk.blocks = (BitVec.ofNat 32 (beAt f.bytes 0 4), sub f.bytes 8 256) ∧ (lane t.dir l).crcRun = 0)
    ∧ ∀ s l f k len, l < 4 → works s.dir = true → s.dir.sk.active = true → (lane s.dir l).mode = .active →
      s.dir.sk.ownOk.getLsbD (physLane s.dir l) = true → f.typeCode = 0xA55AC33C → f.violation = false →
      fld (beAt f.bytes 6 2) 12 0 = len → f.bytes.length = 20 + len → crc32c (f.bytes.take (16 + len)) = beAt f.bytes (16 + len) 4 →
      skKeyAt s.dir (BitVec.ofNat 32 (beAt f.bytes 0 4)) = some k →
      skTag k (skIv false (1 - sideNum s.dir) (physLane s.dir l) (byteAt f.bytes 4) (BitVec.ofNat 32 (beAt f.bytes 0 4))) (f.bytes.take (8 + len))
        = beAt f.bytes (8 + len) 8 →
      fld (beAt f.bytes 6 2) 15 13 = 1 → byteAt f.bytes 5 = 0x20 → len % 4 = 0 → 8 ≤ len → len ≤ 4096 → s.dir.time.running = true →
      byteAt f.bytes 8 = 0x80 → leAt f.bytes 10 2 = 0x0405 →
      ∃ t, exec (.skeundFrameReceive l f) s = .next t ∧ (lane t.dir l).crcRun = 0
        ∧ ∀ a, a ∈ blockable s.dir (byteAt f.bytes 12) → (arm t.dir a).mode = .blocked

/-- The twin's liveness and the watchdog: a lost TWIN_ALIVE_IN is counted and fires source 196; a healthy one only marks it so
(R318); a lapsed watchdog holds TWIN_ALIVE_OUT low (R317), and the reset that follows keeps its cause (R587). A yield that has not passed the arm on by H + LEASE_CYCLES + 8 ends: HANDOVER_FAIL counts and fires (R326); the waiting
command learns TIMEOUT (R501). -/
def Obligations.TwinAliveAndYields : Prop :=
  ((∀ s, s.dir.pins.resetN = true → s.dir.frz.frozen = false → s.dir.sk.twinAlive = true →
      ∃ t, exec .twinAliveLost s = .next t ∧ t.dir.sk.twinAlive = false ∧ t.dir.sk.twinAliveLoss = satInc s.dir.sk.twinAliveLoss
        ∧ (Enabled s.dir 196 → Decided t.dir 196 0 []) ∧ ∀ a, (arm t.dir a).mode = (arm s.dir a).mode ∧ (arm t.dir a).role = (arm s.dir a).role)
    ∧ (∀ s, s.dir.pins.resetN = true → s.dir.frz.frozen = false →
      ∃ t, exec .twinAliveHealthy s = .next t ∧ t.dir.sk.twinAlive = true ∧ t.dir.arms = s.dir.arms ∧ t.dir.ring = s.dir.ring)
    ∧ (∀ s, s.dir.pins.resetN = true → s.dir.frz.frozen = false →
      ∃ t, exec .watchdogLapse s = .next t ∧ t.dir.pins.alive = false ∧ t.dir.pins.served = false ∧ t.dir.arms = s.dir.arms)
    ∧ ∀ s, s.dir.pins.resetN = true → s.dir.frz.frozen = false → s.dir.pins.served = false →
      ∃ t, exec .watchdogReset s = .next t ∧ t.dir.boot.state = .fuseLoad ∧ t.dir.boot.wdCause = true ∧ t.dir.arms = [] ∧ t.cell = s.cell)
    ∧ (∀ s a h, a < 6 → works s.dir = true → (arm s.dir a).role = .authority → (arm s.dir a).yielding = some h →
    0 ≤ cycleDiff (stepOrder s.dir) (h + BitVec.ofNat 32 (leaseCycles (cfg s.dir) a + 8)) →
    ∃ t, exec (.handoverYieldTimeout a) s = .next t ∧ (arm t.dir a).yielding = none ∧ (arm t.dir a).role = .authority
      ∧ (arm t.dir a).cnt.handoverFail = satInc (arm s.dir a).cnt.handoverFail
      ∧ (Enabled s.dir (56 + a) → Decided t.dir (56 + a) 0x1D [])
      ∧ ∀ n c g, (arm s.dir a).pHandover = some (g, some n) → (mbx s.dir n).cmd = some c →
          (mbx t.dir n).cmd = some { c with outcome := some (11, toLE 1 a ++ [3, 0, 0] ++ toLE 4 h.toNat) })

/-- The time mark of a cycle leaves on the lowest lane in use, 28 bytes that begin with the cycle (R354, R369, R371); a good mark
shows the twin's time state, a bad one counts on its lane and moves no time (R354, R373). A follower corrects its frequency from the twin's lead within the limit (R333, R356); the tree silence of a new numbering ends
with its cycles, and 10 s without a link let a director send on its own epoch (R550); the preferred domain controls again
after 60 s of lock (R348). -/
def Obligations.TimeMarksAndEpochs : Prop :=
  ((∀ s l r k, lanesInUse s.dir = l :: r → works s.dir = true → s.dir.sk.active = true → s.dir.time.running = true →
      skKeyAt s.dir (cyc s.dir) = some k →
      ∃ t bytes line, exec .timeMarkSend s = .next t ∧ Tx.skeund l 0x96695AA5 bytes line ∈ t.dir.tx ∧ bytes.length = 28 ∧ beAt bytes 0 4 = (cyc s.dir).toNat
        ∧ t.dir.time.now = s.dir.time.now)
    ∧ (∀ s l f, l < 4 → works s.dir = true → s.dir.sk.active = true → f.typeCode = 0x96695AA5 → s.dir.sk.ownOk.getLsbD (physLane s.dir l) = true →
      (f.violation = true ∨ f.bytes.length ≠ 28 ∨ crc32c (f.bytes.take 24) ≠ beAt f.bytes 24 4) →
      ∃ t, exec (.timeMarkReceive l f) s = .next t ∧ (lane t.dir l).crcFail = satInc (lane s.dir l).crcFail ∧ t.dir.time = s.dir.time)
    ∧ ∀ s l f r, l < 4 → works s.dir = true → s.dir.sk.active = true → f.typeCode = 0x96695AA5 → s.dir.sk.ownOk.getLsbD (physLane s.dir l) = true →
      f.violation = false → f.bytes.length = 28 → crc32c (f.bytes.take 24) = beAt f.bytes 24 4 → lanesInUse s.dir = physLane s.dir l :: r →
      markTag s.dir (1 - sideNum s.dir) (physLane s.dir l) (BitVec.ofNat 32 (beAt (f.bytes.take 16) 0 4)) (f.bytes.take 16) = some (beAt f.bytes 16 8) →
      ∃ t, exec (.timeMarkReceive l f) s = .next t ∧ t.dir.time.twinSeen = true
        ∧ t.dir.time.twinState = timeOf (fld (beAt (f.bytes.take 16) 12 4) 31 29) ∧ (lane t.dir l).crcRun = 0)
    ∧ ((∀ s, works s.dir = true → s.dir.time.source = .twin → twinUsable s.dir = true → s.dir.time.eps ≠ [] →
      (leadSum s.dir).1.natAbs ≤ 80000 * (leadSum s.dir).2 →
      ∃ t c, exec .twinServoUpdate s = .next t ∧ t.dir.time.cPend = some c ∧ -(freqLim s.dir) ≤ c ∧ c ≤ freqLim s.dir
        ∧ t.dir.time.now = s.dir.time.now ∧ t.dir.time.source = .twin)
    ∧ (∀ s, works s.dir = true → s.dir.time.source = .twin → twinUsable s.dir = true → s.dir.time.eps ≠ [] → s.dir.time.running = true →
      80000 * (leadSum s.dir).2 < (leadSum s.dir).1.natAbs → (∀ a, a < 6 → offPre (arm s.dir a).mode = true) → s.dir.time.step = none →
      ∃ t p, exec .twinServoUpdate s = .next t ∧ t.dir.time.step = some p ∧ p.cycle = cyc s.dir + 2 ∧ p.target = none
        ∧ p.delta = -((leadSum s.dir).1 * 4096 / (5 * ((leadSum s.dir).2 : Int))) ∧ t.dir.time.now = s.dir.time.now)
    ∧ (∀ s k, s.dir.time.silentTo = some k → k ≤ s.dir.time.starts →
      ∃ t, exec .treeSilenceEnd s = .next t ∧ t.dir.time.silentTo = none ∧ cyc t.dir = cyc s.dir
        ∧ (works s.dir = true → s.dir.time.treesOff = false → ∀ n, n ∈ ports (part s.dir) → (port s.dir n).prbs.testMode = false →
            (port t.dir n).stream.isSome = true))
    ∧ (∀ s, works s.dir = true → s.dir.sk.active = false → s.dir.time.sending = false → s.dir.time.ownFrom + 12500000000 < s.dir.time.raw →
      ∃ t, exec .skeundEpochTimeout s = .next t ∧ t.dir.time.ownEpoch = true ∧ cyc t.dir = cyc s.dir)
    ∧ ∀ s p x, works s.dir = true → s.dir.time.mode ≠ .unqualified → twinUsable s.dir = false → tp s.dir 2 0 0 = p → (dom s.dir p).mode = .locked →
      (dom s.dir p).lockedAt = some x → x + 60 * secUnit ≤ s.dir.time.now → s.dir.time.source = srcOf (1 - p) →
      ∃ t, exec .preferredDomainReturn s = .next t ∧ t.dir.time.source = srcOf p ∧ t.dir.time.switches = satInc s.dir.time.switches
        ∧ t.dir.time.mode = .locked)

/-- PTP messages: one that is malformed is discarded and counted (R340, R343); a Sync of a bound, acquired domain counts; an
Announce enters its port's data set; its time-out sends the domain back to LISTENING, where
it stays when no other port has a master (R345). Peer delay: a request goes out under the next sequence number; a received one is answered in one frame or two; a matching
response ends the request; a lost one counts, and the third in a row takes the link delay away (R340, R342, R343, R345). -/
def Obligations.PtpAndPeerDelay : Prop :=
  ((∀ s p m, p < 2 → works s.dir = true → (tport s.dir p).up = true → (tport s.dir p).prbsTest = false → m.wellFormed = false →
      ∃ t, exec (.ptpSyncReceive p m) s = .next t ∧ (tport t.dir p).msgDiscard = satInc (tport s.dir p).msgDiscard ∧ t.dir.time.now = s.dir.time.now)
    ∧ (∀ s p m i, p < 2 → i < 2 → works s.dir = true → (tport s.dir p).up = true → (tport s.dir p).prbsTest = false → m.wellFormed = true →
      boundTo s.dir i p = true → domNum s.dir i = m.domain → (dom s.dir i).port = some p → (tport s.dir p).delays ≠ [] →
      ((dom s.dir i).mode = .acquiring ∨ (dom s.dir i).mode = .locked ∨ (dom s.dir i).mode = .suspect) →
      ∃ t, exec (.ptpSyncReceive p m) s = .next t ∧ (dom t.dir i).syncRx = satInc (dom s.dir i).syncRx
        ∧ ((dom s.dir i).mode ≠ .suspect → (dom s.dir i).theta = none → (dom s.dir i).base = [] →
            (dom t.dir i).base = [(rxStamp s.dir p m.t2 - (m.origin + m.corr + Config.linkDelay (tport s.dir p).delays
              + psFrac (parmZ (timeS (cfg s.dir)) 20 p 0)), ofFrac (rxStamp s.dir p m.t2))]))
    ∧ (∀ s p m i, p < 2 → i < 2 → works s.dir = true → (tport s.dir p).up = true → (tport s.dir p).prbsTest = false → m.wellFormed = true →
      boundTo s.dir i p = true → domNum s.dir i = m.domain →
      ∃ t, exec (.ptpAnnounceReceive p m) s = .next t ∧ (dom t.dir i).masters = tset p m (dom s.dir i).masters
        ∧ (dom t.dir i).port = (bestPort { dom s.dir i with masters := tset p m (dom s.dir i).masters }).map (·.1)
        ∧ (dom t.dir i).gmId = (bestPort { dom s.dir i with masters := tset p m (dom s.dir i).masters }).map (·.2.gmId))
    ∧ ∀ s i p, i < 2 → works s.dir = true → (dom s.dir i).port = some p → p < 2 →
      ((dom s.dir i).mode = .acquiring ∨ (dom s.dir i).mode = .locked ∨ (dom s.dir i).mode = .suspect) →
      ∃ t, exec (.announceTimeout i) s = .next t
        ∧ ((dom t.dir i).mode = .listening ∨ (dom t.dir i).mode = .acquiring)
        ∧ ((∀ x ∈ (dom s.dir i).masters, x.1 = p) → (dom t.dir i).mode = .listening) ∧ (dom t.dir i).annTimeout = satInc (dom s.dir i).annTimeout
        ∧ (Enabled s.dir (69 + i) → Decided t.dir (69 + i) 3 (toLE 1 p)))
    ∧ ((∀ s p, p < 2 → works s.dir = true → (tport s.dir p).up = true → (tport s.dir p).prbsTest = false →
      ∃ t x, exec (.pdelayReqSend p) s = .next t ∧ (tport t.dir p).req = some ((tport s.dir p).nextSeq, x)
        ∧ (tport t.dir p).nextSeq = (tport s.dir p).nextSeq + 1 ∧ (tport t.dir p).queue.length = (tport s.dir p).queue.length + 1)
    ∧ (∀ s p q x, p < 2 → works s.dir = true → (tport s.dir p).up = true → (tport s.dir p).prbsTest = false →
      ∃ t, exec (.pdelayReqReceive p q x) s = .next t
        ∧ (tport t.dir p).queue.length = (tport s.dir p).queue.length + (if tp s.dir 21 p 1 = 1 then 1 else 2) ∧ (tport t.dir p).req = (tport s.dir p).req)
    ∧ (∀ s p m t1, p < 2 → works s.dir = true → (tport s.dir p).up = true → (tport s.dir p).prbsTest = false → m.wellFormed = true →
      (tport s.dir p).req = some (m.seqId, t1) → rxStamp s.dir p m.t4 - t1 ≤ secFrac →
      ∃ t x, exec (.pdelayRespReceive p m) s = .next t ∧ (tport t.dir p).req = none ∧ (tport t.dir p).unanswered = 0
        ∧ (tport t.dir p).delays = (x :: (tport s.dir p).delays).take 3
        ∧ ((tport s.dir p).ratio = [] → x = (rxStamp s.dir p m.t4 - t1 - (m.t3 - m.t2)) / 2))
    ∧ ∀ s p r, p < 2 → works s.dir = true → (tport s.dir p).req = some r →
      ∃ t, exec (.pdelayTimeout p) s = .next t ∧ (tport t.dir p).req = none ∧ (tport t.dir p).pdelayLost = satInc (tport s.dir p).pdelayLost
        ∧ (tport t.dir p).unanswered = (tport s.dir p).unanswered + 1 ∧ ((tport s.dir p).unanswered = 2 → (tport t.dir p).delays = []))

/-- A queued frame leaves at its launch time, or is dropped and counted when that is less than 2 µs ahead (R342); links come up and
go down, and frames that are no time messages are discarded (R392 to R394). -/
def Obligations.TimePorts : Prop :=
  (∀ (s : State) (p tick : Nat) lt o r, p < 2 → works s.dir = true → (tport s.dir p).up = true → (tport s.dir p).queue = (lt, o) :: r →
      lt - toFrac (timeAt s.dir tick) < 2000 * nsFrac →
      ∃ t, exec (.timePortFrameLaunch p tick) s = .next t ∧ (tport t.dir p).queue = r ∧ (tport t.dir p).launchLate = satInc (tport s.dir p).launchLate
        ∧ (Enabled s.dir 71 → Decided t.dir 71 1 (toLE 1 p)))
    ∧ (∀ (s : State) (p tick : Nat) lt o r, p < 2 → works s.dir = true → (tport s.dir p).up = true → (tport s.dir p).queue = (lt, o) :: r →
      2000 * nsFrac ≤ lt - toFrac (timeAt s.dir tick) →
      ∃ t, exec (.timePortFrameLaunch p tick) s = .next t ∧ (tport t.dir p).queue = r ∧ Tx.eth p lt o ∈ t.dir.tx)
    ∧ (∀ s p, p < 2 → works s.dir = true → tpAneg s.dir p = true →
      ∃ t, exec (.timePortLinkChange p .anegDone) s = .next t ∧ (tport t.dir p).up = true)
    ∧ (∀ s p, p < 2 → works s.dir = true → tpAneg s.dir p = false →
      ∃ t, exec (.timePortLinkChange p .synced) s = .next t ∧ (tport t.dir p).up = true)
    ∧ (∀ s p, p < 2 → works s.dir = true → tpSgmii s.dir p = true → (tport s.dir p).up = false →
      ∃ t, exec (.timePortLinkChange p .badSpeed) s = .next t ∧ (tport t.dir p).up = false ∧ (Enabled s.dir 71 → Decided t.dir 71 9 (toLE 1 p)))
    ∧ (∀ s p, p < 2 → works s.dir = true → (tport s.dir p).up = true →
      ∃ t, exec (.timePortLinkChange p .down) s = .next t ∧ (tport t.dir p).up = false ∧ (tport t.dir p).delays = []
        ∧ (tport t.dir p).linkDown = satInc (tport s.dir p).linkDown ∧ (Enabled s.dir 71 → Decided t.dir 71 8 (toLE 1 p)))
    ∧ ∀ s p w, p < 2 → works s.dir = true → (tport s.dir p).up = true →
      ∃ t, exec (.timePortFrameDiscard p w) s = .next t
        ∧ (tport t.dir p).fcsErr = (if w = .badFcs then satInc (tport s.dir p).fcsErr else (tport s.dir p).fcsErr)
        ∧ (tport t.dir p).msgDiscard = (if w = .unsupported then satInc (tport s.dir p).msgDiscard else (tport s.dir p).msgDiscard)
        ∧ (tport t.dir p).rxDiscard = (if w ≠ .badFcs ∧ w ≠ .unsupported then satInc (tport s.dir p).rxDiscard else (tport s.dir p).rxDiscard)

/-- A step moves converter time by its Δ at its start tick and fires; with an arm outside OFF and PRECHARGE it is abandoned
(R338, R339). Holdover ends in FREE_RUN, and a long frequency offset is reported once (R336, R350). A PPS edge less than 0.9 s after the last is a glitch and no edge; any other is taken; a missing one counts (R352). PPS_OUT
rises at the tick nearest its second and falls on command (R353). -/
def Obligations.StepsHoldoverAndPps : Prop :=
  ((∀ s p delta, works s.dir = true → s.dir.time.running = true → s.dir.time.step = some p → p.cycle = cyc s.dir →
      delta = (match p.target with | some v => v - toFrac s.dir.time.now | none => p.delta) → (∀ a, a < 6 → offPre (arm s.dir a).mode = true) →
      ∃ t, exec .timeStep s = .next t ∧ t.dir.time.now = s.dir.time.now + ofFrac delta ∧ t.dir.time.step = none
        ∧ t.dir.time.steps = satInc s.dir.time.steps ∧ cyc t.dir = cyc s.dir
        ∧ (Enabled s.dir 68 → ∃ e ∈ t.dir.ring.decided, e.source = 68 ∧ e.detail = 1))
    ∧ (∀ s p a, works s.dir = true → s.dir.time.running = true → s.dir.time.step = some p → p.cycle = cyc s.dir →
      a < 6 → offPre (arm s.dir a).mode = false →
      ∃ t, exec .timeStep s = .next t ∧ t.dir.time.now = s.dir.time.now ∧ t.dir.time.step = none
        ∧ (Enabled s.dir 68 → Decided t.dir 68 2 (toLE 4 p.cycle.toNat)))
    ∧ (∀ s h, s.dir.time.holdAt = some h → s.dir.time.mode = .holdover → h + tp s.dir 17 0 600 * secUnit < s.dir.time.now →
      ∃ t, exec .holdoverExpire s = .next t ∧ t.dir.time.mode = .freeRun ∧ t.dir.time.now = s.dir.time.now
        ∧ (Enabled s.dir 68 → Decided t.dir 68 6 [3, 4]))
    ∧ ∀ s x, s.dir.time.refAt = some x → s.dir.time.refSent = false → x + 60 * secUnit ≤ s.dir.time.now →
      ∃ t, exec .refOffset s = .next t ∧ t.dir.time.refSent = true ∧ t.dir.time.domA = s.dir.time.domA
        ∧ (Enabled s.dir 68 → ∃ e ∈ t.dir.ring.decided, e.source = 68 ∧ e.detail = 5))
    ∧ ((∀ s i stamp l, i < 2 → works s.dir = true → (pps s.dir i).lastEdge = some l →
      stamp - psFrac (parmZ (timeS (cfg s.dir)) 23 i 0) - l < 900000000 * nsFrac →
      ∃ t, exec (.ppsInEdge i stamp) s = .next t ∧ (pps t.dir i).glitch = satInc (pps s.dir i).glitch ∧ (pps t.dir i).lastEdge = some l
        ∧ t.dir.time.domA = s.dir.time.domA ∧ t.dir.time.domB = s.dir.time.domB)
    ∧ (∀ s i stamp, i < 2 → works s.dir = true →
      (∀ l, (pps s.dir i).lastEdge = some l → 900000000 * nsFrac ≤ stamp - psFrac (parmZ (timeS (cfg s.dir)) 23 i 0) - l) →
      ∃ t, exec (.ppsInEdge i stamp) s = .next t ∧ (pps t.dir i).lastEdge.isSome = true
        ∧ (s.dir.time.running = true → (pps t.dir i).lastEdge = some (stamp - psFrac (parmZ (timeS (cfg s.dir)) 23 i 0)))
        ∧ (pps t.dir i).misses = 0 ∧ (pps t.dir i).glitch = (pps s.dir i).glitch)
    ∧ (∀ s i, i < 2 → works s.dir = true →
      ∃ t, exec (.ppsMiss i) s = .next t ∧ (pps t.dir i).miss = satInc (pps s.dir i).miss ∧ (pps t.dir i).misses = (pps s.dir i).misses + 1
        ∧ ((pps s.dir i).misses = 2 → (pps t.dir i).good = false))
    ∧ (∀ (s : State) (tick : Nat) (x : Int), s.dir.time.pllLock = true → inRun s.dir = true →
      x = timeAt s.dir tick - parmZ (timeS (cfg s.dir)) 24 0 0 * tickUnit →
      ∃ t, exec (.ppsOutPulse true tick) s = .next t ∧ t.dir.time = s.dir.time
        ∧ (if 2 * (x - roundHalfUp x secUnit.toNat * secUnit).natAbs ≤ (tickInc s.dir.time.c).natAbs then t.dir.pins.ppsOut = true
            else t.dir.pins = s.dir.pins))
    ∧ ∀ s tick, ∃ t, exec (.ppsOutPulse false tick) s = .next t ∧ t.dir.pins.ppsOut = false ∧ t.dir.time = s.dir.time)

/-- A lost lock of the root PLL, or a lost reference, stops the clocks: the recorder's segment is abandoned, TWIN_ALIVE_OUT and PPS_OUT
stop and no frame is left to send (R361, R405); after the reference is back and the PLL locks again, time is UNQUALIFIED, no
cycle numbers run, and the arms are in OFF (R362). -/
def Obligations.ClocksStopAndReturn : Prop :=
  (∀ s, s.dir.time.pllLock = true →
      ∃ t, exec .rootPllUnlock s = .next t ∧ t.dir.time.pllLock = false ∧ t.dir.time.rootUnlock = satInc s.dir.time.rootUnlock
        ∧ t.dir.pins.alive = false ∧ t.dir.pins.ppsOut = false ∧ t.dir.rcd.mode = .stopped ∧ ∀ n, (port t.dir n).frame = none)
    ∧ (∀ s, s.dir.time.refOk = true → ∃ t, exec .refLoss s = .next t ∧ t.dir.time.refOk = false ∧ t.dir.time.refLoss = satInc s.dir.time.refLoss
        ∧ (s.dir.time.pllLock = true → t.dir.time.pllLock = false ∧ t.dir.pins.alive = false))
    ∧ (∀ s, ∃ t, exec .refReturn s = .next t ∧ t.dir.time.refOk = true ∧ t.dir.time.pllLock = s.dir.time.pllLock ∧ t.dir.arms = s.dir.arms)
    ∧ (∀ s, s.dir.time.pllLock = false → s.dir.time.refOk = true → s.dir.boot.state = .released → 2 ≤ s.dir.boot.step → s.dir.frz.frozen = false →
      ∃ t, exec .rootPllLock s = .next t ∧ t.dir.time.pllLock = true ∧ t.dir.boot = s.dir.boot ∧ t.dir.arms = s.dir.arms)
    ∧ ∀ s, s.dir.time.pllLock = false → s.dir.time.refOk = true → s.dir.boot.state = .run → s.dir.frz.frozen = false →
      ∃ t, exec .rootPllLock s = .next t ∧ t.dir.time.pllLock = true ∧ t.dir.time.running = false ∧ t.dir.time.mode = .unqualified
        ∧ ∀ a, a < 6 → (arm t.dir a).mode = .off

/-- Lane training: a training lane sends its frame; a good frame takes a lane from DETECT to EQUALIZE and settles its polarity
(R375 to R377, R380), a bad one is ignored; the last identity item that agrees brings the link to ACTIVE (R381); a state that does
not end in time fails and holds off (R375); identity and lane lists of LANE_STATUS steer the width (R383, R384). -/
def Obligations.LaneTraining : Prop :=
  (∀ s l, l < 4 → trains s.dir l = true →
      ∃ t b line, exec (.trainingFrameSend l) s = .next t ∧ Tx.train l b (BitVec.ofNat 32 (crc32c (toBE 24 b.toNat))) line ∈ t.dir.tx
        ∧ byteAt (toBE 24 b.toNat) 0 = (if (lane s.dir l).mode = .ident then 2 else 1) ∧ (lane t.dir l).mode = (lane s.dir l).mode
        ∧ ((lane s.dir l).mode = .detect → (lane t.dir l).pre = (firPreset (skPreset s.dir)).1 ∧ (lane t.dir l).post = (firPreset (skPreset s.dir)).2))
    ∧ (∀ s l f, l < 4 → trains s.dir l = true → (lane s.dir l).holdoff = false → (lane s.dir l).holdTen = false →
      (skPrbs s.dir l).manual = false → (lane s.dir l).mode = .detect →
      (f.crcOk = false → ∃ t, exec (.trainingFrameReceive l f) s = .next t ∧ t.dir.sk = s.dir.sk)
      ∧ (f.crcOk = true → f.kind = 1 →
          ∃ t, exec (.trainingFrameReceive l f) s = .next t ∧ (lane t.dir l).mode = .equalize
            ∧ (lane t.dir l).pol = ((lane s.dir l).pol ^^ f.inverted)
            ∧ (lane t.dir l).polFlip = (if f.inverted then satInc (lane s.dir l).polFlip else (lane s.dir l).polFlip)
            ∧ ∀ k, k ≠ l → lane t.dir k = lane s.dir k))
    ∧ (∀ s l f, l < 4 → trains s.dir l = true → (lane s.dir l).holdoff = false → (lane s.dir l).holdTen = false →
      (skPrbs s.dir l).manual = false → (lane s.dir l).mode = .ident → f.crcOk = true → f.kind = 2 → f.inverted = false →
      f.index.toNat ≤ 5 → f.data = identItem s.dir false f.index.toNat →
      (∀ j, j < 6 → j ≠ f.index.toNat → ((lane s.dir l).ident.find? (·.1 = j)).map (·.2) = some (identItem s.dir false j)) →
      ∃ t, exec (.trainingFrameReceive l f) s = .next t ∧ t.dir.sk.active = true ∧ (lane t.dir l).mode = .active ∧ t.dir.sk.identBad = none)
    ∧ (∀ s l, l < 4 → trains s.dir l = true → ((lane s.dir l).mode = .align ∨ ((lane s.dir l).mode = .equalize ∧ (lane s.dir l).best < 48)
        ∨ ((lane s.dir l).mode = .ident ∧ s.dir.sk.identBad = none)) →
      ∃ t, exec (.laneTrainTimeout l) s = .next t ∧ (lane t.dir l).mode = .detect ∧ (lane t.dir l).holdoff = true
        ∧ (lane t.dir l).trainFail = satInc (lane s.dir l).trainFail
        ∧ (Enabled s.dir (52 + l) → Decided t.dir (52 + l) 1 (toLE 1 (laneCode (lane s.dir l).mode))))
    ∧ (∀ s l, l < 4 → trains s.dir l = true → (lane s.dir l).mode = .equalize → 48 ≤ (lane s.dir l).best →
      ∃ t, exec (.laneTrainTimeout l) s = .next t ∧ (lane t.dir l).mode = .align ∧ (lane t.dir l).trainFail = (lane s.dir l).trainFail)
    ∧ (∀ s l, l < 4 → works s.dir = true →
      ∃ t, exec (.laneTrainRetry l) s = .next t ∧ (lane t.dir l).holdoff = false ∧ (lane t.dir l).mode = (lane s.dir l).mode
        ∧ t.dir.ring = s.dir.ring)
    ∧ (∀ s, works s.dir = true → s.dir.sk.active = true → s.dir.sk.statusDue = true →
      ∃ t, exec .laneStatusSend s = .next t ∧ t.dir.sk.statusDue = false ∧ t.dir.sk.statusAt = s.dir.time.starts ∧ t.dir.sk.ownOk = s.dir.sk.ownOk)
    ∧ (∀ s ok lg, works s.dir = true → s.dir.sk.active = true → ok ≠ s.dir.sk.twinOk → lg < 4 → s.dir.sk.ownOk.getLsbD lg = true →
      ok.getLsbD lg = true → (lane s.dir (physLane s.dir lg)).mode = .active →
      ∃ t, exec (.laneStatusReceive ok) s = .next t ∧ t.dir.sk.twinOk = ok ∧ t.dir.sk.change = true ∧ t.dir.sk.active = true)
    ∧ ∀ s, works s.dir = true → s.dir.sk.active = true → s.dir.sk.change = true → (bestWidth s.dir).1 ≠ 0 →
      bestWidth s.dir ≠ (s.dir.sk.width, s.dir.sk.base) →
      ∃ t, exec .widthChange s = .next t ∧ (t.dir.sk.width, t.dir.sk.base) = bestWidth s.dir ∧ t.dir.sk.change = false
        ∧ t.dir.sk.widthChanges = satInc s.dir.sk.widthChanges
        ∧ (Enabled s.dir 52 → Decided t.dir 52 0x12 (toLE 1 s.dir.sk.width ++ toLE 1 (bestWidth s.dir).1))

/-- A lane that loses lock counts it, reports it and retrains, and is healthy here no more (R382, R385); after 1 s of clean PRBS31 it
joins again; a lane that failed again within 60 s starts once its 10 s are over (R385). A PRBS checker counts the errors of each
1,024 bits while locked, and locks again after 256 or more (R389). -/
def Obligations.LaneLossAndRetraining : Prop :=
  (∀ s l w, l < 4 → works s.dir = true → (lane s.dir l).mode = .active → (w = .crc → 4 ≤ (lane s.dir l).crcRun) →
      ∃ t, exec (.laneLost l w) s = .next t ∧ (lane t.dir l).mode ≠ .active ∧ (lane t.dir l).lockLoss = satInc (lane s.dir l).lockLoss
        ∧ (Enabled s.dir (52 + l) → Decided t.dir (52 + l) 2 (toLE 1 (match w with | .cdr => 1 | .crc => 2 | .noDelimiter => 3))))
    ∧ (∀ s l, l < 4 → works s.dir = true → (lane s.dir l).holdTen = true →
      ∃ t, exec (.retrainHoldoffEnd l) s = .next t ∧ (lane t.dir l).mode = .equalize ∧ (lane t.dir l).holdTen = false
        ∧ (lane t.dir l).retrain = true ∧ ∀ k, k ≠ l → lane t.dir k = lane s.dir k)
    ∧ (∀ s l, l < 4 → works s.dir = true → s.dir.sk.active = true → (lane s.dir l).retrain = true → (lane s.dir l).prbsRun = true →
      tget 0 (2 + l) s.dir.bg.grants ≠ 0 →
      ∃ t, exec (.laneRetrainDone l) s = .next t ∧ (lane t.dir l).mode = .active ∧ (lane t.dir l).retrains = satInc (lane s.dir l).retrains
        ∧ t.dir.sk.ownOk.getLsbD (physLane s.dir l) = true ∧ t.dir.sk.change = true
        ∧ (Enabled s.dir (52 + l) → Decided t.dir (52 + l) 3 []))
    ∧ (∀ s n (e : Nat), n < 52 → works s.dir = true → (port s.dir n).prbs.check = true → (port s.dir n).prbs.locked = true →
      ∃ t, exec (.prbsCheckerResync .tree n e) s = .next t ∧ (port t.dir n).prbs.err = satAdd (port s.dir n).prbs.err e
        ∧ (port t.dir n).prbs.resync = (if 256 ≤ e then satInc (port s.dir n).prbs.resync else (port s.dir n).prbs.resync)
        ∧ (port t.dir n).prbs.locked = true ∧ (∀ k, k ≠ n → port t.dir k = port s.dir k))
    ∧ (∀ s n (e : Nat), n < 4 → works s.dir = true → (skPrbs s.dir n).check = true → (skPrbs s.dir n).locked = true →
      ∃ t, exec (.prbsCheckerResync .skeund n e) s = .next t ∧ (skPrbs t.dir n).err = satAdd (skPrbs s.dir n).err e
        ∧ (skPrbs t.dir n).resync = (if 256 ≤ e then satInc (skPrbs s.dir n).resync else (skPrbs s.dir n).resync) ∧ (skPrbs t.dir n).locked = true)
    ∧ (∀ s n (e : Nat), n < 2 → works s.dir = true → (skPrbs s.dir (4 + n)).check = true → (skPrbs s.dir (4 + n)).locked = false →
      ∃ t, exec (.prbsCheckerResync .timePort n e) s = .next t ∧ (skPrbs t.dir (4 + n)).locked = true
        ∧ (skPrbs t.dir (4 + n)).err = (skPrbs s.dir (4 + n)).err ∧ (skPrbs t.dir (4 + n)).resync = (skPrbs s.dir (4 + n)).resync)
    ∧ ∀ s n (e : Nat), n < 2 → s.cell.mode ≠ .unpowered → s.cell.prbs.getLsbD 11 = true → s.cell.prbs.getLsbD 15 = decide (n = 1) →
      ∃ t, exec (.prbsCheckerResync .cellLink n e) s = .next t ∧ t.cell.prbsLock = true
        ∧ t.cell.prbsErr = (if s.cell.prbsLock then satAdd s.cell.prbsErr e else s.cell.prbsErr)

/-- Keys: an offer of the twin that does not verify leaves the link key as it is and is reported, and one that verifies makes the first key
(R592, R599); a link key comes due for its successor by its age (R597, R599), and so does a tree's, whose successor is drawn while the
present one stays in force; REKEY_DONE is reported (R597, R598); session keys roll at the multiples of P_K (R596). -/
def Obligations.Keys : Prop :=
  (∀ s p, works s.dir = true → s.dir.sk.active = true → sideNum s.dir = 1 → p.length = 240 → byteAt p 0 = 1 →
      allZero (sub p 1 3) = false →
      ∃ t, exec (.skeundKeyOfferReceive p) s = .next t ∧ t.dir.sec.skKey = s.dir.sec.skKey ∧ t.dir.sec.skNext = s.dir.sec.skNext
        ∧ (Enabled s.dir 210 → Decided t.dir 210 3 []))
    ∧ (∀ s p, works s.dir = true → s.dir.sk.active = true → sideNum s.dir = 1 → p.length = 240 → byteAt p 0 = 1 →
      allZero (sub p 1 3) = true → allZero (sub p 57 7) = true → twinCertOk s.dir (sub p 64 112) = true →
      ecdsaVerify (sub (sub p 64 112) 15 33) (sha256 (p.take 176)) (sub p 176 64) = true → onCurve (sub p 24 33) = true →
      ∃ t, exec (.skeundKeyOfferReceive p) s = .next t ∧ t.dir.sec.skKey.isSome = true
        ∧ (s.dir.sec.skKey = none → t.dir.sec.skNext = none ∧ t.dir.sec.skSinceCycle = cyc s.dir)
        ∧ (s.dir.sec.skKey.isSome → beAt p 4 4 ≠ 0 → t.dir.sec.skKey = s.dir.sec.skKey
            ∧ ∃ k, t.dir.sec.skNext = some (k, BitVec.ofNat 32 (beAt p 4 4))))
    ∧ (∀ s p o, works s.dir = true → s.dir.sk.active = true → sideNum s.dir = 0 → p.length = 240 → byteAt p 0 = 2 → s.dir.sec.skOffer = some o →
      allZero (sub p 1 3) = true → allZero (sub p 57 7) = true → twinCertOk s.dir (sub p 64 112) = true →
      ecdsaVerify (sub (sub p 64 112) 15 33) (sha256 (o ++ p.take 176)) (sub p 176 64) = true → onCurve (sub p 24 33) = true →
      s.dir.sec.skKey = none →
      ∃ t, exec (.skeundKeyOfferReceive p) s = .next t ∧ t.dir.sec.skKey = some (skeundKey s.dir.sec.skEph (sub p 24 33) o (p.take 176))
        ∧ t.dir.sec.skOffer = none ∧ t.dir.sec.skRetryAt = none)
    ∧ (∀ s x, works s.dir = true → s.dir.sk.active = true → sideNum s.dir = 0 → s.dir.sec.skRetryAt = some x → x < s.dir.time.raw →
      ∃ t, exec .skeundKeyRetry s = .next t ∧ t.dir.sec.skOffer.isSome = true ∧ t.dir.sec.skKey = s.dir.sec.skKey
        ∧ t.dir.sec.skRetryAt = some (s.dir.time.raw + tenSeconds))
    ∧ (∀ s, works s.dir = true → s.dir.sk.active = true → sideNum s.dir = 0 → s.dir.sec.skKey.isSome = true → s.dir.sec.skNext = none →
      s.dir.sec.skOffer = none → keyAged s.dir s.dir.sec.skSince s.dir.sec.skSinceCycle = true →
      ∃ t, exec .skeundKeyAge s = .next t ∧ t.dir.sec.skOffer.isSome = true ∧ t.dir.sec.skKey = s.dir.sec.skKey)
    ∧ (∀ s n, n < 52 → works s.dir = true → portHere (part s.dir) n = true → s.dir.time.running = true → (treeKey s.dir n).valid = true →
      keyAged s.dir (treeKey s.dir n).since (treeKey s.dir n).sinceCycle = true → (treeKey s.dir n).next = none →
      ∃ t k, exec (.treeRekeyStart n) s = .next t ∧ (treeKey t.dir n).next = some (k, addCyc (cyc s.dir) 4097)
        ∧ (treeKey t.dir n).key = (treeKey s.dir n).key ∧ ∀ m, m ≠ n → treeKey t.dir m = treeKey s.dir m)
    ∧ (∀ s n fr, n < 52 → works s.dir = true → (treeKey s.dir n).rekeyed = some fr → 0 ≤ cycleDiff (cyc s.dir) (fr + 2) →
      ∃ t, exec (.rekeyDone n) s = .next t ∧ (treeKey t.dir n).rekeyed = none ∧ (treeKey t.dir n).key = (treeKey s.dir n).key
        ∧ (Enabled s.dir 210 → ∃ e ∈ t.dir.ring.decided, e.source = 210 ∧ e.detail = 1))
    ∧ ∀ s, works s.dir = true → s.dir.time.running = true → (cyc s.dir).toNat % rollPeriod (planN (cfg s.dir)) = 0 →
      s.dir.sec.rolledAt ≠ some (cyc s.dir) →
      ∃ t, exec .sessionKeyRoll s = .next t ∧ t.dir.sec.rolledAt = some (cyc s.dir)
        ∧ ∀ id, (cellRec t.dir id).key = (cellRec s.dir id).key.map fun k => nextSession k (cyc s.dir)

/-- A complete record goes to its slot of DDR4 and nowhere else, or is dropped and counted where staging has no room (R399, R408);
a trigger at its cycle is taken in ARMED, once, and its command answered (R406, R409, R414, R509); a cycle without a point decides nothing;
in TRIGGERED a command's point is a missed trigger (R409); the auto trigger's point is the first cycle of the next interval (R413). -/
def Obligations.RecordsAndTriggers : Prop :=
  (∀ (s : State) c0 bs r, Inv s → works s.dir = true → s.dir.rcd.mode = .armed → s.dir.rcd.trig = none → s.dir.rcd.ready = (c0, bs) :: r → 19 ≤ bs.length →
      (∃ t, exec (.recordIntervalWrite true) s = .next t ∧ t.dir.rcd.ready = r ∧ t.dir.rcd.stored = s.dir.rcd.stored + 1 ∧ t.dir.rcd.mode = .armed
        ∧ (∀ j, (h : j < bs.length) → j ≠ 18 → rdByte t.mem .ddr (slotAddr s.dir (intervalOf s.dir c0) + j) = bs[j])
        ∧ (∀ k, (∀ n, k = .window n → n < 4) → OtherBytesKept s.mem t.mem .ddr (slotAddr s.dir (intervalOf s.dir c0)) bs.length k))
      ∧ (∃ t, exec (.recordIntervalWrite false) s = .next t ∧ t.dir.rcd.ready = r ∧ t.dir.rcd.stored = s.dir.rcd.stored ∧ t.mem = s.mem
        ∧ t.dir.rcd.drops = satInc s.dir.rcd.drops ∧ t.dir.rcd.dropCnt = satInc s.dir.rcd.dropCnt ∧ t.dir.rcd.dropBefore = true))
    ∧ (∀ (s : State) c0 bs r tr room, works s.dir = true → s.dir.rcd.mode = .triggered → s.dir.rcd.trig = some tr → s.dir.rcd.ready = (c0, bs) :: r →
      ∃ t, exec (.recordIntervalWrite room) s = .next t
        ∧ (intervalOf s.dir tr.cycle + s.dir.rcd.postLen ≤ intervalOf s.dir c0 → t.dir.rcd.mode = .closing ∧ t.dir.rcd.ready = [])
        ∧ (intervalOf s.dir c0 < intervalOf s.dir tr.cycle + s.dir.rcd.postLen → t.dir.rcd.mode = .triggered ∧ t.dir.rcd.ready = r))
    ∧ (∀ s k, works s.dir = true → s.dir.time.running = true → k = cyc s.dir - 2 → (baseOf s.dir k).isSome = true → s.dir.rcd.decided ≠ some k →
      (∀ i, i < 64 → rp s.dir 11 i 0 = 0) → rp s.dir 22 0 0 = 0 → s.dir.rcd.autoPoint = none → s.dir.rcd.pFreeze = none → s.dir.frz.draining = false →
      (s.dir.rcd.pCmd = none → ∃ t, exec .triggerDecide s = .next t ∧ t.dir.rcd.decided = some k ∧ t.dir.rcd.mode = s.dir.rcd.mode
        ∧ t.dir.rcd.trig = s.dir.rcd.trig ∧ t.dir.rcd.missed = s.dir.rcd.missed ∧ t.mem = s.mem)
      ∧ (∀ mb c sg, s.dir.rcd.pCmd = some (k, mb) → (mbx s.dir mb).cmd = some c → s.dir.rcd.seg = some sg → s.dir.rcd.mode = .armed →
          0 ≤ cycleDiff k s.dir.rcd.armAt →
          ∃ t x, exec .triggerDecide s = .next t ∧ t.dir.rcd.mode = .triggered ∧ t.dir.rcd.trig = some x ∧ x.cycle = k ∧ x.cause = 3
            ∧ segMode t.dir sg = .triggered ∧ t.dir.rcd.pCmd = none
            ∧ (mbx t.dir mb).cmd = some { c with outcome := some (0, toLE 1 sg ++ toLE 1 1 ++ zeros 2 ++ toLE 4 k.toNat) }
            ∧ (Enabled s.dir 73 → Decided t.dir 73 0 (toLE 1 sg ++ toLE 1 3 ++ zeros 2 ++ toLE 4 k.toNat)))
      ∧ (∀ mb c sg, s.dir.rcd.pCmd = some (k, mb) → (mbx s.dir mb).cmd = some c → s.dir.rcd.seg = some sg → s.dir.rcd.mode = .triggered →
          ∃ t, exec .triggerDecide s = .next t ∧ t.dir.rcd.mode = .triggered ∧ t.dir.rcd.trig = s.dir.rcd.trig
            ∧ t.dir.rcd.missed = satInc s.dir.rcd.missed ∧ t.dir.rcd.missLog.length = min 8 (s.dir.rcd.missLog.length + 1)
            ∧ (mbx t.dir mb).cmd = some { c with outcome := some (0, toLE 1 sg ++ zeros 3 ++ toLE 4 k.toNat) }))
    ∧ ∀ s, works s.dir = true → s.dir.rcd.mode = .armed → rp s.dir 7 0 0 ≠ 0 → rp s.dir 7 0 0 ≤ s.dir.rcd.autoRun → s.dir.rcd.autoPoint = none →
      ∃ t, exec .autoTrigger s = .next t
        ∧ t.dir.rcd.autoPoint = some (addCyc s.dir.rcd.armAt (s.dir.rcd.autoRun * max 1 (recRed (cfg s.dir)))) ∧ t.dir.rcd.mode = .armed

/-- Closing writes the 128-byte segment header at the segment's start and nothing else, and raises source 74 (R403, R404); rearming at an interval
boundary arms the segment chosen (R404, R407); a read of TQ_DATA returns the next 16 bytes of its queue, zeros where it is empty (R419). -/
def Obligations.SegmentsAndQueues : Prop :=
  (∀ (s : State) i, Inv s → works s.dir = true → s.dir.rcd.seg = some i → s.dir.rcd.mode = .closing → s.dir.rcd.nextSeg = none →
      ∃ t, exec .segmentClose s = .next t ∧ segMode t.dir i = .closed
        ∧ (∀ j, j < 128 → rdByte t.mem .ddr (segStart s.dir i + j) = (segHeader s.dir i).getD j 0)
        ∧ (∀ k, (∀ n, k = .window n → n < 4) → OtherBytesKept s.mem t.mem .ddr (segStart s.dir i) 128 k)
        ∧ (Enabled s.dir 74 → Decided t.dir 74 0 (toLE 1 i)))
    ∧ (∀ s j, works s.dir = true → s.dir.time.running = true → s.dir.rcd.mode = .closing → s.dir.rcd.nextSeg = some j →
      boundaryAt s.dir (cyc s.dir) = cyc s.dir → 0 < cycleDiff (cyc s.dir) s.dir.rcd.armAt →
      ∃ t, exec .recorderRearm s = .next t ∧ t.dir.rcd.mode = .armed ∧ t.dir.rcd.seg = some j ∧ t.dir.rcd.armAt = cyc s.dir
        ∧ segMode t.dir j = .armed ∧ t.dir.rcd.stored = 0
        ∧ (segMode s.dir j = .closed → t.dir.rcd.overwrite = satInc s.dir.rcd.overwrite))
    ∧ ∀ s q, q < 6 → works s.dir = true →
      ∃ t, exec (.tqDataRead q) s = .next t
        ∧ toLE 16 (tq t.dir q).word.toNat = padTo 16 (((tq s.dir q).items.flatMap fun i => i.bytes.drop i.read).take 16)
        ∧ tqUsed (tq t.dir q).items + min 16 (tqUsed (tq s.dir q).items) = tqUsed (tq s.dir q).items
        ∧ (∀ k, k ≠ q → tq t.dir k = tq s.dir k) ∧ t.mem = s.mem

/-- Reset: RESET_N low leads to the reset values of BAR0 (R428) with every vector masked, the fuses as they were; its rise samples SIDE
and starts FUSE_LOAD (R532, R535). FUSE_LOAD ends only with a correct FACT_CRC; IMAGE_LOAD goes to RELEASED with a valid
preferred slot or, failing that, the other, and else to SAFE (R535, R545, R546). -/
def Obligations.ResetAndBoot : Prop :=
  (∀ s : State, Inv s →
      ∃ t, exec .resetAssert s = .next t ∧ t.dir.boot.state = .held ∧ t.dir.pins.resetN = false ∧ bootWord t.dir = 1 ∧ mbxStatusWord t.dir = 0
        ∧ evtHeadWord t.dir = 0 ∧ t.dir.ring.tail = 0 ∧ t.dir.ring.lost = 0 ∧ t.dir.host.spiCrcFail = 0 ∧ freezeStatWord t.dir = 0
        ∧ arbStatWord t.dir = 160 * 2 ^ 24 ∧ (∀ v, v < 32 → vectorMasked t.mem v = true) ∧ t.dir.boot.wdCause = false
        ∧ t.dir.boot.fuseA = s.dir.boot.fuseA ∧ t.dir.boot.fuseB = s.dir.boot.fuseB ∧ t.mem.flash = s.mem.flash ∧ t.cell = s.cell)
    ∧ (∀ s side, s.dir.boot.state = .held →
      ∃ t, exec (.resetNRise side) s = .next t ∧ t.dir.boot.state = .fuseLoad ∧ t.dir.boot.side = side ∧ t.dir.pins.resetN = true
        ∧ bootWord t.dir = 1 ∧ t.mem = s.mem)
    ∧ (∀ s, s.dir.boot.state = .fuseLoad →
      (factCrcOk s.dir = true → ∃ t, exec .fuseLoadDone s = .next t ∧ t.dir.boot.state = .imageLoad ∧ t.dir.sec.ownerHash = fusedOwnerHash s.dir)
      ∧ (factCrcOk s.dir = false → ∃ t, exec .fuseLoadDone s = .next t ∧ t.dir.boot.state = .fuseLoad ∧ t.dir.sec = s.dir.sec))
    ∧ ∀ s p, s.dir.boot.state = .imageLoad → p = (if preferredSlot s.mem s.dir = 1 then 1 else 0) →
      ∃ t, exec .imageLoadDone s = .next t
        ∧ (imageResult s.mem s.dir p = 0 → t.dir.boot.state = .released ∧ t.dir.boot.step = 1 ∧ t.dir.boot.slot = p ∧ t.dir.boot.preferred = true
            ∧ t.dir.boot.fallback = none ∧ t.dir.boot.version = imgVersion s.mem s.dir p)
        ∧ (imageResult s.mem s.dir p ≠ 0 → imageResult s.mem s.dir (1 - p) = 0 →
            t.dir.boot.state = .released ∧ t.dir.boot.slot = 1 - p ∧ t.dir.boot.preferred = false
            ∧ t.dir.boot.fallback = some (p, imageResult s.mem s.dir p))
        ∧ (imageResult s.mem s.dir p ≠ 0 → imageResult s.mem s.dir (1 - p) ≠ 0 → t.dir.boot.state = .safe)

/-- Release runs its steps in order and ends in RUN; a step beyond its bound leads to SAFE, but DDR4 training, which goes on without
memory (R548). After 600 s in RUN the anti-rollback counter rises to the level of an image booted from the preferred slot (R547); an unserved
watchdog (R587) and an uncorrectable word that a supervisor core read (R586) reset the director. -/
def Obligations.ReleaseAndResets : Prop :=
  (∀ s ok, s.dir.boot.state = .released →
      ∃ t, exec (.releaseStepDone ok) s = .next t
        ∧ (s.dir.boot.step = 1 → t.dir.boot.step = 2 ∧ t.dir.time.pllLock = true ∧ t.dir.boot.state = .released)
        ∧ (s.dir.boot.step = 2 → t.dir.boot.step = 3 ∧ t.dir.boot.state = .released)
        ∧ (s.dir.boot.step = 3 → t.dir.boot.step = 4 ∧ t.dir.boot.ddrMiB = (if ok then s.dir.boot.ddrFitted else 0) ∧ t.dir.boot.state = .released)
        ∧ (s.dir.boot.step = 4 → t.dir.boot.state = .run ∧ t.dir.cfg.baked = true ∧ t.dir.boot.runAt = s.dir.time.raw
            ∧ (∀ a, a < 6 → (arm t.dir a).mode = .off) ∧ kudenWord t.dir = 0x0302))
    ∧ (∀ s, s.dir.boot.state = .released →
      ∃ t, exec .releaseStepTimeout s = .next t
        ∧ (s.dir.boot.step = 1 ∨ s.dir.boot.step = 4 → t.dir.boot.state = .safe ∧ t.dir.boot.step = 0 ∧ t.dir.boot.logSeq = s.dir.boot.logSeq + 1)
        ∧ (s.dir.boot.step = 3 → t.dir.boot.step = 4 ∧ t.dir.boot.ddrMiB = 0 ∧ t.dir.boot.state = .released
            ∧ (Enabled s.dir 72 → Decided t.dir 72 3 [])))
    ∧ (∀ s, works s.dir = true → s.dir.boot.preferred = true → s.dir.boot.runAt + 750000000000 ≤ s.dir.time.raw →
      arbCounter s.dir < fld s.dir.boot.version.toNat 31 23 →
      ∃ t, exec .arbRaise s = .next t ∧ fld s.dir.boot.version.toNat 31 23 ≤ arbCounter t.dir ∧ t.dir.boot.logSeq = s.dir.boot.logSeq + 1
        ∧ t.dir.boot.state = .run ∧ (Enabled s.dir 100 → Decided t.dir 100 2 []))
    ∧ (∀ s, s.dir.pins.resetN = true → s.dir.frz.frozen = false → s.dir.pins.served = false →
      ∃ t, exec .watchdogReset s = .next t ∧ t.dir.boot.state = .fuseLoad ∧ t.dir.boot.wdCause = true ∧ t.dir.arms = []
        ∧ t.dir.boot.fuseA = s.dir.boot.fuseA)
    ∧ ∀ s a, serves s.dir = true → s.dir.boot.ueCause = some a →
      ∃ t, exec .supervisorSramUeReset s = .next t ∧ t.dir.boot.state = .fuseLoad ∧ t.dir.boot.ueOwed = some a ∧ t.dir.boot.ueCause = none
        ∧ t.dir.mbs = []

/-- FREEZE_N held for 25 housekeeping clocks starts the freeze drain with cause 1, a shorter pulse does nothing, DIAG_FREEZE starts it with cause 2
(R606, R607); at 2 s the segment closes with what it holds; the drain's end clears the key store, stops the clocks and freezes (R608); FRZ_DATA reads the
freeze map in FROZEN, zeros elsewhere, and its address advances by 4 (R611). -/
def Obligations.Freezing : Prop :=
  (∀ s held, s.dir.pins.resetN = true → (s.dir.boot.state = .released ∨ s.dir.boot.state = .run ∨ s.dir.boot.state = .safe) →
      s.dir.frz.cause = 0 → s.dir.frz.frozen = false →
      ∃ t, exec (.freezeNLow held) s = .next t
        ∧ (25 ≤ held → t.dir.frz.cause = 1 ∧ t.dir.frz.draining = true ∧ t.dir.frz.started = s.dir.time.raw ∧ (Enabled s.dir 197 → Decided t.dir 197 0 []))
        ∧ (held < 25 → t.dir.frz = s.dir.frz ∧ t.dir.rcd = s.dir.rcd))
    ∧ (∀ s, s.dir.frz.armedCmd = true → (s.dir.boot.state = .released ∨ s.dir.boot.state = .run ∨ s.dir.boot.state = .safe) →
      s.dir.frz.cause = 0 → s.dir.frz.frozen = false →
      ∃ t, exec .diagFreezeStart s = .next t ∧ t.dir.frz.cause = 2 ∧ t.dir.frz.draining = true ∧ (Enabled s.dir 212 → Decided t.dir 212 1 (toLE 1 2)))
    ∧ (∀ s i, s.dir.frz.draining = true → s.dir.rcd.mode ≠ .stopped → s.dir.time.pllLock = true → s.dir.frz.started + 2500000000 < s.dir.time.raw →
      s.dir.rcd.seg = some i →
      ∃ t, exec .freezeDrainLimit s = .next t ∧ t.dir.rcd.mode = .stopped ∧ segMode t.dir i = .closed ∧ t.dir.frz.drain = 1 ∧ t.dir.frz.seg = i)
    ∧ (∀ s us, s.dir.frz.draining = true → (s.dir.time.pllLock = false ∨ s.dir.rcd.mode = .stopped) →
      ∃ t, exec (.freezeDrainEnd us) s = .next t ∧ t.dir.boot.state = .frozen ∧ t.dir.frz.frozen = true ∧ t.dir.frz.draining = false
        ∧ t.dir.frz.cause = s.dir.frz.cause ∧ t.dir.sec.trees = [] ∧ t.dir.sec.skKey = none ∧ (∀ id, (cellRec t.dir id).key = none)
        ∧ t.dir.pins.alive = false ∧ t.dir.pins.ppsOut = false ∧ t.dir.time.pllLock = false ∧ t.dir.frz.header.length = 128)
    ∧ ∀ s a, ∃ t, exec (.frzDataCapture a) s = .next t ∧ t.dir.frz.frzAddr = a.getD s.dir.frz.frzAddr + 4 ∧ t.mem = s.mem
        ∧ (s.dir.frz.frozen = false → Replied t.dir (zeros 4) ∧ t.dir.frz.frzData = 0)
        ∧ (s.dir.frz.frozen = true → ∃ bs, bs.length = 4 ∧ Replied t.dir bs ∧ t.dir.frz.frzData.toNat = leNat bs)

/-- Scrubbing: a corrected word counts unless a functional write cancelled it, an uncorrectable one counts and is reported (R565, R566); the
end of a pass begins the next and owes fast passes after corrections (R563, R566); a pass beyond 10 s is late once (R563); the patrol
steps through the installed DDR4, counts its passes and reports uncorrectable bursts (R567). -/
def Obligations.Scrubbing : Prop :=
  (∀ (s : State) addr k, scrubs s.dir = true →
      (∃ t, exec (.glazeWordVisit addr k .correctable false) s = .next t ∧ t.dir.bg.sramCe = satInc s.dir.bg.sramCe
        ∧ t.dir.bg.corrected = s.dir.bg.corrected + 1 ∧ t.dir.bg.sramUe = s.dir.bg.sramUe)
      ∧ (∃ t, exec (.glazeWordVisit addr k .correctable true) s = .next t ∧ t.dir.bg = s.dir.bg ∧ t.dir.ring = s.dir.ring)
      ∧ (∀ x, ∃ t, exec (.glazeWordVisit addr k .clean x) s = .next t ∧ t.dir.bg = s.dir.bg ∧ t.dir.ring = s.dir.ring)
      ∧ (∀ x, ∃ t, exec (.glazeWordVisit addr k .uncorrectable x) s = .next t ∧ t.dir.bg.sramUe = satInc s.dir.bg.sramUe
        ∧ t.dir.bg.sramCe = s.dir.bg.sramCe ∧ (Enabled s.dir 102 → Decided t.dir 102 (memDetail k) (toLE 4 addr ++ toLE 1 (memDetail k)))))
    ∧ (∀ s, scrubs s.dir = true →
      ∃ t, exec .glazePassEnd s = .next t ∧ t.dir.bg.glazePasses = satInc s.dir.bg.glazePasses ∧ t.dir.bg.corrected = 0
        ∧ t.dir.bg.passAt = s.dir.time.raw ∧ t.dir.bg.passLate = false
        ∧ t.dir.bg.fastOwed = (if 0 < s.dir.bg.corrected then parm (powS (cfg s.dir)) 5 0 1 else s.dir.bg.fastOwed - 1))
    ∧ (∀ s, scrubs s.dir = true → s.dir.bg.passLate = false → s.dir.bg.passAt + 12500000000 < s.dir.time.raw →
      ∃ t, exec .glazeLate s = .next t ∧ t.dir.bg.passLate = true ∧ t.dir.bg.glazeLate = satInc s.dir.bg.glazeLate
        ∧ t.dir.bg.passAt = s.dir.bg.passAt ∧ (Enabled s.dir 82 → Decided t.dir 82 2 []))
    ∧ ∀ s e c, scrubs s.dir = true → s.dir.time.pllLock = true → s.dir.boot.ddrMiB ≠ 0 →
      ∃ t, exec (.patrolBurst e c) s = .next t ∧ t.mem = s.mem
        ∧ (s.dir.bg.patrolAt + 1 < s.dir.boot.ddrMiB * 16384 →
            t.dir.bg.patrolAt = s.dir.bg.patrolAt + 1 ∧ t.dir.bg.patrolPasses = s.dir.bg.patrolPasses)
        ∧ (s.dir.boot.ddrMiB * 16384 ≤ s.dir.bg.patrolAt + 1 →
            t.dir.bg.patrolAt = 0 ∧ t.dir.bg.patrolPasses = satInc s.dir.bg.patrolPasses)
        ∧ (e = .uncorrectable → t.dir.rcd.ddrUe = satInc s.dir.rcd.ddrUe ∧ (Enabled s.dir 77 → Decided t.dir 77 1 []))
        ∧ (e = .correctable → c = false → t.dir.bg.ddrCe = satInc s.dir.bg.ddrCe ∧ t.dir.rcd.ddrUe = s.dir.rcd.ddrUe)

/-- The arbiter never grants more than the budget less the reserve; a recomputation revokes at once and grants in a second step (R577, R578);
a request that waited 1 s counts for its block alone (R579); at ARB_THERM_WARN every grant but REC_DRAIN goes, 5 °C below it they may return, and
115 °C is reported once (R580). The gain estimator uses up its snapshot in an update; once its tree has had BAL_CAL_UPDATES of them it goes to the next configured tree
and starts to count again (R298, R299). -/
def Obligations.PowerArbiterAndEstimator : Prop :=
  ((∀ s, works s.dir = true →
      ∃ t, exec .arbiterRecompute s = .next t
        ∧ (∀ g, g ∈ t.dir.bg.grants → g ∈ s.dir.bg.grants ∧ g ∈ newGrants s.dir)
        ∧ (t.dir.bg.toGrant = some (newGrants s.dir) ∨ (t.dir.bg.toGrant = none ∧ t.dir.bg.grants = newGrants s.dir))
        ∧ (s.dir.bg.hot = false → ((newGrants s.dir).map (·.2)).sum ≤ s.dir.bg.budget - s.dir.bg.reserve)
        ∧ t.dir.arms = s.dir.arms ∧ t.dir.time = s.dir.time)
    ∧ (∀ s new, works s.dir = true → s.dir.bg.toGrant = some new →
      ∃ t, exec .grantApplyDone s = .next t ∧ t.dir.bg.grants = new ∧ t.dir.bg.toGrant = none ∧ t.dir.arms = s.dir.arms)
    ∧ (∀ s b w, b < 6 → works s.dir = true → w ∈ s.dir.bg.waitSince → blockOf w.1 = b → w.2.2 = false → w.2.1 + 1250000000 < s.dir.time.raw →
      ∃ t n, exec (.grantWait b) s = .next t ∧ 1 ≤ n ∧ tget 0 b t.dir.bg.arbWait = satAdd (tget 0 b s.dir.bg.arbWait) n
        ∧ (∀ k, k ≠ b → tget 0 k t.dir.bg.arbWait = tget 0 k s.dir.bg.arbWait) ∧ t.dir.bg.grants = s.dir.bg.grants)
    ∧ ∀ s t0 t1 t2 t3 m, works s.dir = true → m = max (max t0 t1) (max t2 t3) →
      ∃ t, exec (.thermalSample t0 t1 t2 t3) s = .next t ∧ t.dir.arms = s.dir.arms
        ∧ (s.dir.bg.hot = false → thermWarn s.dir ≤ m →
            t.dir.bg.hot = true ∧ (∀ g, g ∈ t.dir.bg.grants → g.1 = 0) ∧ (Enabled s.dir 81 → Decided t.dir 81 1 []))
        ∧ (s.dir.bg.hot = true → m ≤ thermWarn s.dir - 5 → t.dir.bg.hot = false ∧ (Enabled s.dir 81 → Decided t.dir 81 2 []))
        ∧ (s.dir.bg.hot = true → thermWarn s.dir - 5 < m → t.dir.bg.hot = true ∧ t.dir.bg.grants = s.dir.bg.grants)
        ∧ (115 ≤ m → s.dir.bg.crit = false → t.dir.bg.crit = true ∧ (Enabled s.dir 81 → Decided t.dir 81 3 [])))
    ∧ ((∀ s a sn, a < 6 → estRuns s.dir a = true → (arm s.dir a).est.snap = some sn →
      ∃ t, exec (.estimatorUpdate a) s = .next t ∧ (arm t.dir a).est.snap = none ∧ (arm t.dir a).est.updates = (arm s.dir a).est.updates + 1
        ∧ (arm t.dir a).est.tree = (arm s.dir a).est.tree ∧ (arm t.dir a).mode = (arm s.dir a).mode ∧ ∀ b, b ≠ a → arm t.dir b = arm s.dir b)
    ∧ ∀ s a, a < 6 → estRuns s.dir a = true → parm (armS (cfg s.dir) a) 55 0 4096 ≤ (arm s.dir a).est.updates →
      ∃ t, exec (.calTreeRotate a) s = .next t ∧ (arm t.dir a).est.updates = 0 ∧ (arm t.dir a).est.tree = nextTree s.dir a (arm s.dir a).est.tree
        ∧ (arm t.dir a).mode = (arm s.dir a).mode ∧ ∀ b, b ≠ a → arm t.dir b = arm s.dir b)

/-- Power and loading of a cell: power on leads to FUSE_LOAD with driven outputs, off to UNPOWERED from anywhere, which ends a latch (R170, R186,
R187); a wrong fuse CRC keeps the cell in FUSE_LOAD, and a node does not drive BYP (R553, R10); loading the EEPROM leads to LISTEN, without one with the
event of R588 (R237, R238); a reset pin is ignored while BYP is latched (R630) and keeps transmitter latches, holds and bad slots (R104, R105, R239). Clocks and
signal: a lost clock lock, an expired holdover and in DLL mode a lost reference go to the bypass oscillator (R153, R163, R164), a lock comes back
(R165), and the timebase moves to the chosen link, in DLL mode with a relock that dequalifies both (R160, R192). -/
def Obligations.CellPowerAndClocks : Prop :=
  (∀ s, s.cell.mode = .unpowered →
      ∃ t, exec .cellPowerOn s = .next t ∧ t.cell.mode = .fuseLoad ∧ t.cell.gates.driven = true ∧ t.cell.gates.bypDriven = true ∧ t.cell.la.mode = .listen ∧ t.cell.lb.mode = .listen
        ∧ t.cell.fuseA = s.cell.fuseA ∧ t.cell.fuseB = s.cell.fuseB ∧ t.mem = s.mem)
    ∧ (∀ s, ∃ t, exec .cellPowerOff s = .next t ∧ t.cell.mode = .unpowered ∧ t.cell.gates.driven = false ∧ t.cell.gates.latched = false
        ∧ t.cell.gates.g = 0 ∧ t.cell.stage = 0 ∧ t.cell.fuseA = s.cell.fuseA ∧ t.mem = s.mem)
    ∧ (∀ s n, s.cell.mode = .fuseLoad → n = (s.cell.fuseA ||| s.cell.fuseB).toNat →
      ∃ t, exec .cellFuseLoaded s = .next t
        ∧ (fld n 639 608 ≠ crc32c (toBE 76 (fld n 607 0)) → t.cell.mode = .fuseLoad)
        ∧ (fld n 639 608 = crc32c (toBE 76 (fld n 607 0)) → fld n 287 280 = 2 → t.cell.mode = .eepromLoad ∧ t.cell.variant = .full
            ∧ t.cell.gates.state = .blocked ∧ t.cell.meas.gCal = signed 24 (fld n 255 232))
        ∧ (fld n 639 608 = crc32c (toBE 76 (fld n 607 0)) → fld n 287 280 = 3 → t.cell.mode = .eepromLoad ∧ t.cell.variant = .node
            ∧ t.cell.gates.bypDriven = false ∧ t.cell.gates.g = BitVec.ofNat 4 (fld n 278 275)))
    ∧ (∀ s img, s.cell.mode = .eepromLoad →
      ∃ t, exec (.cellEepromLoaded img) s = .next t ∧ t.cell.mode = .listen
        ∧ (img.present = false → ∃ e ∈ t.cell.events, e.code = 0x70))
    ∧ (∀ s, s.cell.mode ≠ .unpowered → s.cell.mode ≠ .frozen →
      ∃ t, exec .cellNrst s = .next t ∧ (s.cell.gates.latched = false → t.cell.mode = .fuseLoad ∧ t.cell.thermal.bad = s.cell.thermal.bad
            ∧ ∀ l, (getLink t.cell l).latched = (getLink s.cell l).latched ∧ (getLink t.cell l).txHold = (getLink s.cell l).txHold)
        ∧ (s.cell.gates.latched = true → t.cell.mode = s.cell.mode ∧ t.cell.gates = s.cell.gates))
    ∧ (∀ s, receives s.cell = true →
      ∃ t, exec .clockLock s = .next t ∧ t.cell.locked = true ∧ t.cell.bypass = false)
    ∧ (∀ s tick, receives s.cell = true → s.cell.bypass = false →
      ∃ t, exec (.clockLockLost tick) s = .next t ∧ t.cell.bypass = true ∧ t.cell.locked = false ∧ (steerLink t.cell).qual = false
        ∧ (∃ e ∈ t.cell.events, e.code = 0x10)
        ∧ (outputsLive s.cell = true → s.cell.gates.blocked = false → s.cell.variant ≠ .node →
            t.cell.gates.state = .bypassed ∧ t.cell.mode = .safeBypass))
    ∧ (∀ s l tick, s.cell.mode ≠ .unpowered →
      ∃ t, exec (.lossOfSignal l tick) s = .next t ∧ (getLink t.cell l).signal = false
        ∧ (getLink t.cell l).darkAt = (if (getLink s.cell l).signal then some ((getLink s.cell l).cyc, tick) else (getLink s.cell l).darkAt)
        ∧ (receives s.cell = true → l = s.cell.steer → (getLink s.cell (otherLink l)).qual = true → (getLink s.cell (otherLink l)).signal = true →
            t.cell.steerNext = some (otherLink l) ∧ t.cell.gates = s.cell.gates)
        ∧ (s.cell.dll = false → t.cell.bypass = s.cell.bypass ∧ t.cell.gates = s.cell.gates)
        ∧ (receives s.cell = true → l = s.cell.steer → (getLink s.cell (otherLink l)).signal = false → s.cell.dll = true → s.cell.bypass = false →
            t.cell.bypass = true ∧ ∃ e ∈ t.cell.events, e.code = 0x10))
    ∧ (∀ s l, s.cell.mode ≠ .unpowered →
      ∃ t, exec (.signalReturn l) s = .next t ∧ (getLink t.cell l).signal = true ∧ (getLink t.cell l).darkAt = none
        ∧ t.cell.bypass = s.cell.bypass ∧ t.cell.gates = s.cell.gates)
    ∧ (∀ s tick cy k, receives s.cell = true → noReference s.cell = true → (steerLink s.cell).darkAt = some (cy, k) → s.cell.bypass = false →
      ∃ t, exec (.cellHoldoverExpire tick) s = .next t
        ∧ ((cp s.cell 0x05 : Int) ≤ cycleDiff (cellCyc s.cell) cy * (steerLink s.cell).clen + tick - k →
            t.cell.bypass = true ∧ ∃ e ∈ t.cell.events, e.code = 0x10)
        ∧ (cycleDiff (cellCyc s.cell) cy * (steerLink s.cell).clen + tick - k < (cp s.cell 0x05 : Int) →
            t.cell.bypass = false ∧ t.cell.gates = s.cell.gates))
    ∧ ∀ s d l, s.cell.steerNext = some l →
      ∃ t, exec (.steeringChange d) s = .next t ∧ t.cell.steer = l
        ∧ (100 < d.natAbs → (getLink t.cell l).qual = false ∧ t.cell.cnt.phaseJump = s.cell.cnt.phaseJump + 1 ∧ ∃ e ∈ t.cell.events, e.code = 0x11)
        ∧ (s.cell.dll = true → t.cell.bypass = true ∧ t.cell.la.qual = false ∧ t.cell.lb.qual = false)
        ∧ (s.cell.dll = false → t.cell.bypass = s.cell.bypass ∧ t.cell.gates = s.cell.gates)

/-- Frames at a cell: one of an unknown type, cut short or with a line violation counts so and moves no output (R74, R120, R124); one that passes the
checks places the link time and is taken, IARM only under the tree key (R120 to R123); an authentic urgent block frame turns every gate off, and an order on
its own tick gives way (R59, R148, R149, R189). Bursts go out at the cycle of the link's time, at their place, with burst-enable asserted from guard bit-time 10
(R80, R133, R143); joining, its time-outs, a link's silence and babble follow R96 to R104 and R123; a cycle start advances both link times and
clears the order of the cycle before (R110, R159). -/
def Obligations.CellFramesAndBursts : Prop :=
  (∀ s l f, receives s.cell = true → (getLink s.cell l).signal = true →
      ∃ t, exec (.frameReceive l f) s = .next t
        ∧ (f.typeCode ≠ tcFirst → f.typeCode ≠ tcRepeat → f.typeCode ≠ tcUrgent →
            (getLink t.cell l).cnt.typeUnknown = (getLink s.cell l).cnt.typeUnknown + 1 ∧ t.cell.gates = s.cell.gates ∧ t.cell.mode = s.cell.mode)
        ∧ (f.typeCode = tcFirst ∨ f.typeCode = tcRepeat →
            (destuff (typeRun f.typeCode) f.bits = none →
              (getLink t.cell l).cnt.lineViolation = (getLink s.cell l).cnt.lineViolation + 1 ∧ t.cell.gates = s.cell.gates)
            ∧ (∀ bits, destuff (typeRun f.typeCode) f.bits = some bits → f.cut = true →
              (getLink t.cell l).cnt.frameAbandoned = (getLink s.cell l).cnt.frameAbandoned + 1 ∧ t.cell.gates = s.cell.gates)
            ∧ ∀ bits bs h, destuff (typeRun f.typeCode) f.bits = some bits → f.cut = false → bs = descrambleFrame (f.typeCode = tcRepeat) bits →
              bs.length = 612 → beAt bs 608 4 = crc32c (bs.take 608) → h = parseHeader bs → h.reserved = false → h.port ≤ 51 → h.mgmt = false →
              (getLink s.cell l).treeId = none → (getLink s.cell l).last = none →
              ((getLink s.cell l).keys = [] →
                (getLink t.cell l).last = some h.cycle ∧ (getLink t.cell l).treeId = some h.treeId ∧ (getLink t.cell l).seen = true
                  ∧ t.cell.thermal.iarm = s.cell.thermal.iarm)
              ∧ ∀ k, heldKeys (getLink s.cell l) h.cycle = [k] → k.phase = h.keyPhase → h.cycle = (getLink s.cell l).cyc →
                (gmac k.key (if f.typeCode = tcFirst then iv 0x01 h.treeId.toNat 96 0 h.cycle else iv 0x02 h.treeId.toNat 97 0 h.cycle)
                  (bs.take 592)).toNat = beAt bs 592 16 →
                (getLink t.cell l).last = some h.cycle ∧ (getLink t.cell l).treeId = some h.treeId ∧ (getLink t.cell l).seen = true
                  ∧ t.cell.thermal.iarm = h.iarm))
    ∧ (∀ s l bits raw k v x (tick : Int), receives s.cell = true → x = getLink s.cell l → x.signal = true → destuff (typeRun tcUrgent) bits = some raw →
      31 ≤ raw.length → v = bitsNat (scramble fixedSeed (raw.take 31)) → fld v 30 24 = fld x.cyc.toNat 6 0 → heldKeys x x.cyc = [k] →
      leftTag 24 (gmac k.key (iv 0x03 (x.treeId.getD 0).toNat 0 0 x.cyc)
        [BitVec.ofNat 8 (x.treeId.getD 0).toNat, BitVec.ofNat 8 (fld v 30 24)]) = fld v 23 0 → s.cell.variant ≠ .node →
      ∃ t, exec (.urgentBlockReceive l bits tick) s = .next t
        ∧ (s.cell.undo = none → outputsLive s.cell = true → t.cell.preempt = some tick
            ∧ (s.cell.gates.blocked = false → s.cell.gates.latched = false → s.cell.gates.ov = false →
                t.cell.gates.blocked = true ∧ t.cell.gates.g = 0 ∧ t.cell.gates.state = .blocked)
            ∧ (s.cell.mode = .safeBypass → faulted s.cell = false → t.cell.mode = .active))
        ∧ (∀ u, s.cell.undo = some u → u.tick = tick → s.cell.executed = true → t.cell.executed = false ∧ t.cell.cnt = u.cnt
            ∧ t.cell.run = ({} : Report)))
    ∧ (∀ s l n w f k x, maySend s.cell l = true → x = getLink s.cell l → x.slot = some (n, w, f) → x.session = some k → reached x.cyc f = true →
      (∀ g, x.giveUp = some g → reached x.cyc g = false) → (∀ g, g ∈ x.frames → g.cycle = x.cyc → g.suspended = false) →
      ∃ t b, exec (.slotBurstSend l) s = .next t ∧ t.cell.tx = [b] ∧ b.link = l ∧ b.kind = 0 ∧ b.index = n ∧ b.cycle = x.cyc
        ∧ b.start = ((windowOpen s.cell x + n * (if s.cell.variant = .node then 320 else 112) : Nat) : Int) * 32 - x.upOfs
        ∧ b.on = b.start + 160 ∧ b.off ≤ b.start + 16 * (burstBits (s.cell.variant = .node) 0 + 9 : Nat)
        ∧ b.line = burstHead false ++ burstLine x.cyc n b.body
        ∧ t.cell = { modLink s.cell l (fun y => { y with enable := (getLink t.cell l).enable }) with tx := [b], writes := [] })
    ∧ (∀ s l i e x, maySend s.cell l = true → x = getLink s.cell l → e ∈ x.subs → 0 ≤ cycleDiff x.cyc e.1 →
      cycleDiff x.cyc e.1 < e.2.2 → bit e.2.1 i = true → i < 8 → x.mode ≠ .listen →
      ∃ t b, exec (.mgmtBurstSend l i) s = .next t ∧ t.cell.tx = [b] ∧ b.link = l ∧ b.kind = 1 ∧ b.index = i ∧ b.cycle = x.cyc
        ∧ b.start = ((windowOpen s.cell x + (if s.cell.variant = .node then 7680 else 7168) + i * 152 : Nat) : Int) * 32 - x.upOfs
        ∧ b.line = burstHead false ++ burstLine x.cyc (64 + i) b.body ∧ t.cell.gates = s.cell.gates)
    ∧ (∀ s l j n x, maySend s.cell l = true → x = getLink s.cell l → x.qual = true → x.mode = .listen → x.pick = some 0 →
      x.window = some (x.cyc, j, n) → x.nakWait = none → x.asked = none → prbsRuns s.cell = false →
      ∃ t b, exec (.joinBurstSend l) s = .next t ∧ t.cell.tx = [b] ∧ b.kind = 2 ∧ b.start = (x.joinJ0 : Int) * 32 - x.upOfs
        ∧ (getLink t.cell l).mode = .joining ∧ (getLink t.cell l).asked = some x.cyc ∧ (getLink t.cell l).attempt = min 255 (x.attempt + 1))
    ∧ (∀ s l cy, (getLink s.cell l).asked = some cy → 8 ≤ cycleDiff (getLink s.cell l).cyc cy →
      ∃ t, exec (.joinAckTimeout l) s = .next t ∧ (getLink t.cell l).mode = .listen ∧ (getLink t.cell l).asked = none
        ∧ (getLink t.cell l).backoff = min 10 ((getLink s.cell l).backoff + 1))
    ∧ (∀ s l, (getLink s.cell l).nakWait = some 0 →
      ∃ t, exec (.joinNakWaitEnd l) s = .next t ∧ (getLink t.cell l).nakWait = none ∧ (getLink t.cell l).mode = (getLink s.cell l).mode)
    ∧ (∀ s l e, (getLink s.cell l).exch = some e → 80 ≤ e.idle → (getLink s.cell l).slot = none →
      ∃ t, exec (.joinExchangeAbandon l) s = .next t ∧ (getLink t.cell l).mode = .listen ∧ (getLink t.cell l).exch = none
        ∧ (getLink t.cell l).session = none ∧ (getLink t.cell l).backoff = min 10 ((getLink s.cell l).backoff + 1))
    ∧ (∀ s l, 64 ≤ (getLink s.cell l).silent →
      ∃ t, exec (.linkSilenceListen l) s = .next t ∧ (getLink t.cell l).mode = .listen ∧ (getLink t.cell l).session = none
        ∧ (getLink t.cell l).keys = [] ∧ (getLink t.cell l).qual = false ∧ getLink t.cell (otherLink l) = getLink s.cell (otherLink l))
    ∧ (∀ s l held limit on off x, receives s.cell = true → prbsRuns s.cell = false → x = getLink s.cell l → x.enable = some (limit, on, off) →
      ∃ t, exec (.babbleTrip ⟨l, held⟩) s = .next t ∧ getLink t.cell (otherLink l) = getLink s.cell (otherLink l)
        ∧ (limit ≤ held → (getLink t.cell l).cnt.babble = x.cnt.babble + 1 ∧ (getLink t.cell l).enable = some (limit, on, on + 16 * limit)
            ∧ (2 ≤ (x.trips.filter fun c => cycleDiff x.cyc c < 256).length → (getLink t.cell l).latched = true)
            ∧ (x.trips = [] → (getLink t.cell l).latched = x.latched))
        ∧ (held < limit → getLink t.cell l = x))
    ∧ ∀ s, receives s.cell = true →
      ∃ t, exec .cellCycleStart s = .next t ∧ t.cell.la.cyc = s.cell.la.cyc + 1 ∧ t.cell.lb.cyc = s.cell.lb.cyc + 1 ∧ t.cell.executed = false
        ∧ t.cell.decided = false ∧ t.cell.sel = none ∧ t.cell.preempt = none
        ∧ ((∀ f, f ∈ s.cell.la.frames → f.cycle ≠ s.cell.la.cyc) → 1 ≤ s.cell.la.coast → t.cell.la.qual = false)

/-- Lease and orders: a valid record of the holder renews the lease and is selected, a claim takes a free one (R302 to R306); the selected record acts at
LAUNCH, a withheld order does not, and the block that ARM_BLOCKED forces blocks without one (R111, R166, R168, R190); a turn-on follows its dead time unless its
pair is off (R171, R179); a cycle without an order counts a hold and, unrenewed, the lease runs down (R169, R188, R305). Protection: the guard and latch
comparators, FAULT_UV, desaturation outside its blanking, the supply stages and the hold limit (R176 to R184, R188). -/
def Obligations.CellOrdersAndProtection : Prop :=
  (∀ s l r, s.cell.decided = false → leaseRuns s.cell = true → holderLink s.cell.holder = some l → (decisionTick s.cell).isSome = true →
      validRec s.cell l (decisionTick s.cell) = some r →
      ∃ t, exec .leaseDecision s = .next t ∧ t.cell.sel = some r ∧ t.cell.selFill = false ∧ t.cell.lc = cp s.cell 0x13 ∧ t.cell.renewed = true
        ∧ t.cell.decided = true ∧ t.cell.holder = s.cell.holder ∧ t.cell.gates = s.cell.gates)
    ∧ (∀ s l, s.cell.decided = false → leaseRuns s.cell = true → s.cell.holder = .none → (decisionTick s.cell).isSome = true →
      claimant s.cell (validRec s.cell .la (decisionTick s.cell)) (validRec s.cell .lb (decisionTick s.cell)) = some l →
      ∃ t, exec .leaseDecision s = .next t ∧ t.cell.holder = holderOf l ∧ t.cell.lc = cp s.cell 0x13
        ∧ t.cell.cnt.leaseChanges = s.cell.cnt.leaseChanges + 1)
    ∧ (∀ s r v, s.cell.executed = false → s.cell.variant ≠ .node → outputsLive s.cell = true → stageOk s.cell = true → timeQual s.cell = true →
      s.cell.sel = some r → s.cell.forced = none → s.cell.preempt = none → (s.cell.mode = .safeBypass → s.cell.selFill = false) →
      ∃ t, exec (.orderExecute v) s = .next t
        ∧ (faulted s.cell = false → t.cell.executed = true ∧ t.cell.mode = .active ∧ t.cell.run.echo = r.seq
            ∧ t.cell.run.src = (if s.cell.selFill then .fill else .holder)
            ∧ (r.act = 0 → t.cell.gates.state = s.cell.gates.state ∧ t.cell.gates.g = s.cell.gates.g)
            ∧ (r.act = 1 → t.cell.gates.state = .bypassed) ∧ (r.act = 2 → t.cell.gates.state = .insPos) ∧ (r.act = 3 → t.cell.gates.state = .insNeg)
            ∧ (r.act = 4 → t.cell.gates.state = .blocked ∧ t.cell.gates.g = 0 ∧ t.cell.gates.blocked = true)
            ∧ (r.act = 5 ∨ r.act = 6 → t.cell.gates.state = .bypassed ∧ t.cell.gates.base = .bypassed))
        ∧ (faulted s.cell = true → s.cell.mode = .safeBypass →
            t.cell.executed = false ∧ t.cell.withheld = true ∧ t.cell.gates = s.cell.gates ∧ t.cell.mode = .safeBypass))
    ∧ (∀ s q v, s.cell.executed = false → s.cell.variant ≠ .node → outputsLive s.cell = true → stageOk s.cell = true → timeQual s.cell = true →
      faulted s.cell = false → s.cell.sel = none → s.cell.forced = some q → s.cell.preempt = none →
      ∃ t, exec (.orderExecute v) s = .next t ∧ t.cell.executed = true ∧ t.cell.gates.blocked = true ∧ t.cell.run.echo = 0 ∧ t.cell.run.src = .safe
        ∧ (s.cell.gates.latched = false → t.cell.gates.state = .blocked ∧ t.cell.gates.g = 0))
    ∧ (∀ s v, s.cell.sel = none → s.cell.forced = none →
      ∃ t, exec (.orderExecute v) s = .next t ∧ t.cell.gates = s.cell.gates ∧ t.cell.executed = s.cell.executed ∧ t.cell.mode = s.cell.mode)
    ∧ (∀ s a d b, (s.cell.gates.edges.find? fun e => match e with | .trim .. => true | _ => false) = some (.trim a d b) →
      s.cell.gates.state ≠ .blocked → d ≠ .blocked →
      ∃ t, exec .trimEdge s = .next t ∧ t.cell.gates.state = d ∧ t.cell.mode = s.cell.mode)
    ∧ (∀ s tk, nextTurnOn s.cell.gates.edges = some tk →
      ∃ t, exec .deadtimeExpire s = .next t ∧ t.cell.gates.state = s.cell.gates.state
        ∧ (∀ i, i < 4 → GateEdge.turnOn tk i ∈ s.cell.gates.edges → (faultMask s.cell.gates).getLsbD i = false → t.cell.gates.g.getLsbD i = true)
        ∧ (∀ i, (faultMask s.cell.gates).getLsbD i = true → t.cell.gates.g.getLsbD i = false)
        ∧ (∀ i, GateEdge.turnOn tk i ∉ t.cell.gates.edges))
    ∧ (∀ s, s.cell.decided = true → s.cell.variant ≠ .node → receives s.cell = true →
      ∃ t, exec .cellCycleEnd s = .next t ∧ t.cell.report.cycle = cellCyc s.cell
        ∧ (s.cell.executed = false → t.cell.holdCount = s.cell.holdCount + 1 ∧ t.cell.cnt.hold = s.cell.cnt.hold + 1 ∧ t.cell.report.echo = 0
            ∧ (s.cell.withheld = true → t.cell.report.src = .safe)
            ∧ (s.cell.mode = .active → s.cell.gates.blocked = false → t.cell.mode = .hold))
        ∧ (s.cell.executed = true → t.cell.holdCount = 0 ∧ t.cell.report.echo = s.cell.run.echo ∧ t.cell.mode = s.cell.mode)
        ∧ (s.cell.holder ≠ .none → s.cell.renewed = false → s.cell.lc = 1 → t.cell.holder = .none)
        ∧ (s.cell.holder ≠ .none → s.cell.renewed = false → 2 ≤ s.cell.lc → t.cell.holder = s.cell.holder ∧ t.cell.lc = s.cell.lc - 1))
    ∧ (∀ s, s.cell.mode = .hold → s.cell.gates.blocked = false →
      ∃ t, exec .holdLimit s = .next t
        ∧ (cp s.cell 0x12 ≤ s.cell.holdCount → t.cell.mode = .safeBypass ∧ t.cell.gates.state = .bypassed ∧ ∃ e ∈ t.cell.events, e.code = 0x20)
        ∧ (s.cell.holdCount < cp s.cell 0x12 → t.cell.mode = .hold ∧ t.cell.gates = s.cell.gates))
    ∧ (∀ s tick v, s.cell.variant ≠ .node → receives s.cell = true → cp s.cell 0x18 ≠ 0 → s.cell.gates.ovHeld = false →
      (cp s.cell 0x18 : Int) * 1000 < v →
      ∃ t, exec (.ov1Trip tick v) s = .next t ∧ t.cell.gates.ov = true ∧ t.cell.gates.ovHeld = true ∧ t.cell.cnt.ov = s.cell.cnt.ov + 1
        ∧ t.cell.meas.injOv = true ∧ (outputsLive s.cell = true → t.cell.gates.state = .bypassed ∧ t.cell.mode = .safeBypass))
    ∧ (∀ s, ∃ t, exec .ov1Rearm s = .next t ∧ t.cell.gates = { s.cell.gates with ovHeld := false } ∧ t.cell.mode = s.cell.mode)
    ∧ (∀ s tick v, s.cell.variant ≠ .node → receives s.cell = true → s.cell.gates.latched = false → cp s.cell 0x19 ≠ 0 →
      (cp s.cell 0x19 : Int) * 1000 < v →
      ∃ t, exec (.ov2Trip tick v) s = .next t ∧ t.cell.gates.byp = true ∧ t.cell.gates.latched = true ∧ t.cell.mode = .bypassLatched
        ∧ t.cell.gates.state = .bypassed ∧ ∃ e ∈ t.cell.events, e.code = 0x02)
    ∧ (∀ s v, s.cell.variant ≠ .node → receives s.cell = true →
      ∃ t, exec (.uvChange v) s = .next t ∧ t.cell.gates = { s.cell.gates with uv := t.cell.gates.uv } ∧ t.cell.mode = s.cell.mode
        ∧ (v < (cp s.cell 0x1B : Int) * 1000 → t.cell.gates.uv = true)
        ∧ (((cp s.cell 0x1B : Int) + cp s.cell 0x1A) * 1000 ≤ v → t.cell.gates.uv = false))
    ∧ (∀ s input tick, input < 4 → s.cell.variant ≠ .node → (s.cell.variant = .half → input < 2) → receives s.cell = true →
      ∃ t, exec (.dsatFault input tick) s = .next t
        ∧ (dsatCounts s.cell input tick = true → t.cell.gates.dsat = true ∧ (input < 2 → t.cell.gates.offA = true)
            ∧ (2 ≤ input → t.cell.gates.offB = true) ∧ t.cell.gates.g &&& pairMask (decide (2 ≤ input)) = 0
            ∧ t.cell.cnt.dsat = s.cell.cnt.dsat + 1 ∧ ∃ e ∈ t.cell.events, e.code = 0x03)
        ∧ (∀ b, s.cell.gates.blankTo.getD input none = some b → (tick : Int) < b + cp s.cell 0x1D →
            t.cell.gates = s.cell.gates ∧ t.cell.cnt = s.cell.cnt ∧ t.cell.mode = s.cell.mode))
    ∧ (∀ s tick, s.cell.mode ≠ .unpowered →
      ∃ t, exec (.gdpgLow tick) s = .next t ∧ t.cell.gdpg = false ∧ t.cell.stage = stageOf s.cell.vstg4 s.cell.vstg8 false
        ∧ (s.cell.stage = 2 → s.cell.variant ≠ .node → outputsLive s.cell = true → t.cell.mode = .configured ∧ t.cell.gates.state = .blocked)
        ∧ (s.cell.stage = 2 → s.cell.mode ≠ .frozen → ∃ e ∈ t.cell.events, e.code = 0x30))
    ∧ (∀ s, s.cell.mode ≠ .unpowered →
      ∃ t, exec .gdpgHigh s = .next t ∧ t.cell.gdpg = true ∧ t.cell.stage = stageOf s.cell.vstg4 s.cell.vstg8 true ∧ t.cell.vstg8 = s.cell.vstg8)
    ∧ (∀ s (mv : Nat), s.cell.mode ≠ .unpowered →
      ∃ t, exec (.vstgRise mv) s = .next t ∧ t.cell.vstg4 = (s.cell.vstg4 || decide (400 ≤ mv)) ∧ t.cell.vstg8 = (s.cell.vstg8 || decide (800 ≤ mv))
        ∧ t.cell.stage = stageOf t.cell.vstg4 t.cell.vstg8 s.cell.gdpg)
    ∧ ∀ s (mv : Nat) tick, s.cell.mode ≠ .unpowered →
      ∃ t, exec (.vstgFall mv tick) s = .next t ∧ t.cell.vstg4 = (s.cell.vstg4 && decide (380 ≤ mv)) ∧ t.cell.vstg8 = (s.cell.vstg8 && decide (780 ≤ mv))
        ∧ t.cell.stage = stageOf t.cell.vstg4 t.cell.vstg8 s.cell.gdpg

/-- Measurement and test access: the sample instant takes the supply reading, the holder, CP_MEAS_CFG and the coefficient changes completed by S − 5, and starts the
averages afresh (R136, R200, R210, R211); averaging and housekeeping take the slots that no injected conversion took (R203, R221); injected conversions and
self-calibration (R204 to R219); the edge of an executed order (R228); the wear history, with its bad slots (R239); the test registers (R638). -/
def Obligations.CellMeasurementAndTest : Prop :=
  (∀ s q c v, receives s.cell = true →
      ∃ t, exec (.sampleConversion q c v) s = .next t ∧ t.cell.meas.vdd = v ∧ t.cell.holderS = s.cell.holder
        ∧ t.cell.meas.cfg = cp s.cell 0x40 ∧ t.cell.meas.sampleAt = cellCyc s.cell ∧ t.cell.meas.slot = 0 ∧ t.cell.meas.lostSlots = []
        ∧ (∀ e, e ∈ t.cell.meas.sets → (cp s.cell 0x08 : Int) - 5 < e.2.1 - cycleDiff (cellCyc s.cell) e.1 * (steerLink s.cell).clen)
        ∧ (s.cell.meas.sets = [] → t.cell.meas.svcUse = s.cell.meas.svcUse)
        ∧ (s.cell.variant ≠ .node → t.cell.meas.codes = [] ∧ t.cell.meas.checks = [])
        ∧ (s.cell.variant = .node → timeQual s.cell = false → s.cell.okLog = [] → t.cell.meas.svalid = 0) ∧ t.cell.gates = s.cell.gates)
    ∧ (∀ s x, receives s.cell = true → s.cell.variant ≠ .node →
      ∃ t, exec (.averagingSlot x) s = .next t
        ∧ (∀ j, s.cell.meas.calRun = false → s.cell.meas.slot < j → j < slotsJ s.cell → j ∉ s.cell.meas.lostSlots →
            (∀ i, s.cell.meas.slot < i → i < j → i ∈ s.cell.meas.lostSlots) →
            t.cell.meas = { s.cell.meas with codes := s.cell.meas.codes ++ [x], slot := j })
        ∧ (s.cell.meas.calRun = true → 1250 * (s.cell.meas.checks.length + 1) < cpN s.cell →
            t.cell.meas = { s.cell.meas with checks := s.cell.meas.checks ++ [x] }))
    ∧ (∀ s x, receives s.cell = true → s.cell.meas.calRun = false → s.cell.meas.slot < slotsJ s.cell → slotsJ s.cell ∉ s.cell.meas.lostSlots →
      1 ≤ s.cell.meas.chan → bit s.cell.meas.cfg s.cell.meas.chan = true →
      ∃ t, exec (.housekeepingSlot x) s = .next t ∧ t.cell.meas.chan = nextChannel s.cell.meas.cfg s.cell.meas.chan ∧ t.cell.meas.slot = slotsJ s.cell
        ∧ (s.cell.meas.chan = 2 → t.cell.meas.tempNtc = ntcTemp s.cell x)
        ∧ (s.cell.meas.chan = 5 → t.cell.meas.aux = unsigned 18 x) ∧ (s.cell.meas.chan = 3 → t.cell.meas.tempDie = Config.dieTemp x))
    ∧ (∀ s x a, (s.cell.meas.injOv = true ∨ s.cell.meas.injOrd = true) →
      ∃ t, exec (.injectedResult x a) s = .next t ∧ t.cell.meas.injOv = false ∧ t.cell.meas.injOrd = false ∧ t.cell.meas.injAp = none
        ∧ (∀ cy k, s.cell.meas.injAp = some (cy, k, true) →
            t.cell.meas.injResult = encodeV (vRep s.cell (sumI s.cell.meas.quad) (max 1 s.cell.meas.quad.length)) 16 1000 262143)
        ∧ ((∀ cy k, s.cell.meas.injAp ≠ some (cy, k, true)) →
            t.cell.meas.injResult = encodeV (B64.mul (vCapOf s.cell false x 1) (svcFactor s.cell.meas)) 16 1000 262143)
        ∧ (s.cell.meas.injOv = true → ∃ e ∈ t.cell.events, e.code = 0x01) ∧ (s.cell.meas.injOrd = true → ∃ e ∈ t.cell.events, e.code = 0x40))
    ∧ (∀ s tick, receives s.cell = true → s.cell.meas.calRun = false → calPermitted s.cell tick = true →
      ∃ t, exec (.selfCalStart tick) s = .next t ∧ t.cell.meas.calAt = some (cellCyc s.cell, tick) ∧ calPermitted t.cell tick = false
        ∧ (s.cell.meas.injOv = false → s.cell.meas.injOrd = false → t.cell.meas.calRun = true ∧ t.cell.meas.checks = [])
        ∧ (s.cell.meas.injOv = true ∨ s.cell.meas.injOrd = true → t.cell.meas.calRun = false))
    ∧ (∀ s g r, s.cell.meas.calRun = true → calEnd s.cell < (steerLink s.cell).clen → g.length = 256 → r.length = 256 →
      ∃ t, exec (.selfCalEnd g r) s = .next t ∧ t.cell.meas.calRun = false
        ∧ ((Config.selfCalGain g r).natAbs ≤ 131000 → (Config.selfCalOffset g).natAbs ≤ 131071 →
            (Config.selfCalGain g r - s.cell.meas.gCal).natAbs ≤ 5000 →
            t.cell.meas.gCal = Config.selfCalGain g r ∧ t.cell.meas.oCal = Config.selfCalOffset g ∧ t.cell.meas.calAge = some 0)
        ∧ (5000 < (Config.selfCalGain g r - s.cell.meas.gCal).natAbs →
            t.cell.meas.gCal = s.cell.meas.gCal ∧ t.cell.meas.oCal = s.cell.meas.oCal
              ∧ ∃ e ∈ t.cell.events, e.code = 0x41 ∧ e.tick = (calEnd s.cell).toNat))
    ∧ (∀ s rising x e, (s.cell.edgeArms.find? fun e => (e.te - x).natAbs ≤ 8192 && e.rising.all (· == rising)) = some e →
      ∃ t, exec (.tsenseEdge rising x) s = .next t ∧ t.cell.edgeArms = s.cell.edgeArms.erase e
        ∧ (e.main = true → e.cycle = cellCyc s.cell → t.cell.run.edge = edgeCode (x - e.te))
        ∧ (e.main = true → e.cycle = s.cell.report.cycle → e.cycle ≠ cellCyc s.cell → t.cell.report.edge = edgeCode (x - e.te))
        ∧ t.cell.gates = s.cell.gates)
    ∧ (∀ (s : State), memWf s.mem = true → receives s.cell = true → s.cell.thermal.slots ≠ 0 → s.cell.thermal.stopped = false →
      s.cell.thermal.writing = none →
      (s.cell.thermal.due = true ∨ s.cell.thermal.period ≤ (s.cell.thermal.uptime - s.cell.thermal.lastWrite).toNat) →
      ∃ t i bs, exec .wearEntryWrite s = .next t ∧ t.cell.thermal.writing = some (i, bs) ∧ i = goodSlot s.cell.thermal s.cell.thermal.next
        ∧ t.cell.thermal.lastWrite = s.cell.thermal.uptime ∧ t.cell.thermal.due = false
        ∧ t.cell.thermal.period = (if s.cell.variant = .node then 3600 else cp s.cell 0x70)
        ∧ (∀ j, (h : j < bs.length) → rdByte t.mem .eeprom (0x200 + 64 * i + j) = bs[j])
        ∧ (∀ k, (∀ n, k = .window n → n < 4) → OtherBytesKept s.mem t.mem .eeprom (0x200 + 64 * i) bs.length k))
    ∧ (∀ s i bs, s.cell.thermal.writing = some (i, bs) →
      (∃ t, exec (.eepromWriteDone (some bs)) s = .next t ∧ t.cell.thermal.writing = none ∧ t.cell.thermal.fails = 0 ∧ t.cell.thermal.hasEntry = true
        ∧ t.cell.thermal.seq = BitVec.ofNat 32 (beAt bs 0 4) ∧ t.mem = s.mem)
      ∧ (∃ t, exec (.eepromWriteDone none) s = .next t ∧ i ∈ t.cell.thermal.bad ∧ t.cell.thermal.fails = s.cell.thermal.fails + 1
        ∧ (t.cell.thermal.stopped = true ↔ 3 ≤ s.cell.thermal.fails) ∧ ∃ e ∈ t.cell.events, e.code = 0x71))
    ∧ (∀ s v, s.cell.mode ≠ .unpowered →
      ∃ t, exec (.cPrbsUpdate v) s = .next t
        ∧ (s.cell.la.mode = .listen → s.cell.lb.mode = .listen → t.cell.prbs = v &&& 0xF800#16 ∧ t.cell.prbsLock = false)
        ∧ (s.cell.la.mode ≠ .listen → t.cell.prbs = s.cell.prbs))
    ∧ (∀ s, s.cell.mode ≠ .unpowered → ∃ t, exec .cPrbsErrRead s = .next t ∧ t.cell.tdo = s.cell.prbsErr ∧ t.cell.prbsErr = 0 ∧ t.cell.prbs = s.cell.prbs)
    ∧ (∀ s (a : BitVec 20), s.cell.mode ≠ .unpowered → a.toNat % 4 = 0 →
      ∃ t, exec (.cMemDataCapture (some a)) s = .next t ∧ t.cell.memAddr = a + 4 ∧ t.mem = s.mem
        ∧ (fld a.toNat 19 16 = 2 → fld a.toNat 15 0 < 0x8000 → t.cell.tdo.toNat = leNat (rdBytes s.mem .nv (fld a.toNat 15 0) 4)))
    ∧ ∀ (s : State) (a : BitVec 20) (v : BitVec 32), memWf s.mem = true → s.cell.mode ≠ .unpowered → a.toNat % 4 = 0 → fld a.toNat 19 16 = 2 →
      fld a.toNat 15 0 ≤ 0x1FF →
      ∃ t, exec (.cMemDataUpdate (some a) v) s = .next t ∧ t.cell.memAddr = a
        ∧ (credEmpty s.mem = true → (∀ j, j < 4 → rdByte t.mem .nv (fld a.toNat 15 0 + j) = (toLE 4 v.toNat).getD j 0)
            ∧ ∀ k, (∀ n, k = .window n → n < 4) → OtherBytesKept s.mem t.mem .nv (fld a.toNat 15 0) 4 k)
        ∧ (credEmpty s.mem = false → t.mem = s.mem)
end

