-- ==== Sys2Proof/Laws/Line.lean ====
section
/-! SUPPORT. What a transmitter puts on a line, a receiver takes off it: scrambling, stuffing and the
two seeds of an order frame. -/

namespace Sys2Proof.Laws
open Sys2Proof Sys2Proof.Machine

/-- Scrambling twice from one seed gives the bits back (R70). -/
theorem scramble_scramble (q : BitVec 31) (l : List Bool) : scramble q (scramble q l) = l := by
  induction l generalizing q with
  | nil => rfl
  | cons b r ih => simp [scramble, ih]

@[simp] theorem scramble_length (q : BitVec 31) (l : List Bool) : (scramble q l).length = l.length := by
  induction l generalizing q with
  | nil => rfl
  | cons b r ih => simp [scramble, ih]

/-- Destuffing undoes stuffing from the same run (R73, R74). -/
theorem destuff_stuff (b : Bool) (n : Nat) (l : List Bool) (h : n < 20) : destuff (b, n) (stuff (b, n) l) = some l := by
  induction l generalizing b n with
  | nil => rfl
  | cons c r ih =>
    by_cases hm : (if c = b then n + 1 else 1) = 20
    · have hn : n ≠ 20 := by omega
      have hc : ¬((!c) = c) := by cases c <;> decide
      simp [stuff, destuff, hm, hn, hc, ih (!c) 1 (by omega)]
    · have hn : n ≠ 20 := by omega
      have hlt : (if c = b then n + 1 else 1) < 20 := by
        by_cases hcb : c = b <;> simp only [hcb, ite_true, ite_false] at hm ⊢ <;> omega
      simp only [stuff, if_neg hm, destuff, if_neg hn, ih c _ hlt, Option.map_some]

theorem bitsNat_natBits_byte (b : Byte) : BitVec.ofNat 8 (bitsNat (natBits 8 b.toNat)) = b := by
  revert b; decide +kernel

@[simp] theorem bytesBits_cons (b : Byte) (r : List Byte) : bytesBits (b :: r) = natBits 8 b.toNat ++ bytesBits r := rfl

theorem natBits_length (k n : Nat) : (natBits k n).length = k := by
  induction k with
  | zero => rfl
  | succ k ih => simp [natBits, ih]

/-- Bytes come back from their bits (R108). -/
theorem bitsBytes_bytesBits (l : List Byte) : bitsBytes l.length (bytesBits l) = l := by
  induction l with
  | nil => rfl
  | cons b r ih =>
    have h : ∀ x : List Bool, (natBits 8 b.toNat ++ x).take 8 = natBits 8 b.toNat ∧ (natBits 8 b.toNat ++ x).drop 8 = x :=
      fun x => ⟨by rw [List.take_append_of_le_length (by simp [natBits_length])]; exact List.take_of_length_le (by simp [natBits_length]),
        by rw [List.drop_append_of_le_length (by simp [natBits_length])]; simp [natBits_length, List.drop_of_length_le]⟩
    have hl : ¬(natBits 8 b.toNat ++ bytesBits r).length < 8 := by simp [natBits_length]
    simp [bitsBytes, natBits_length, (h _).1, (h _).2, bitsNat_natBits_byte, ih]

/-- A cell descrambles what a tree port scrambled: the seed of the rest is that of the CYCLE in the first four bytes (R71, R72). -/
theorem descrambleFrame_orderBits (cycle : Cycle) (repeatCopy : Bool) (l : List Byte) (hl : l.length = 612)
    (hc : BitVec.ofNat 32 (bitsNat ((bytesBits l).take 32)) = cycle) :
    descrambleFrame repeatCopy (orderBits cycle (copyIndex repeatCopy) (bytesBits l)) = l := by
  have hn : ((bytesBits l).take 32).length = 32 := by
    have : ∀ l : List Byte, (bytesBits l).length = 8 * l.length := fun l => by
      induction l with
      | nil => rfl
      | cons b r ih => simp [natBits_length, ih]; omega
    rw [List.length_take, this, hl]; rfl
  have hs : (scramble fixedSeed ((bytesBits l).take 32)).length = 32 := by rw [scramble_length, hn]
  have ht : ∀ x, (scramble fixedSeed ((bytesBits l).take 32) ++ x).take 32 = scramble fixedSeed ((bytesBits l).take 32) := fun x => by
    rw [List.take_append_of_le_length (by omega), List.take_of_length_le (by omega)]
  have hd : ∀ x, (scramble fixedSeed ((bytesBits l).take 32) ++ x).drop 32 = x := fun x => by
    rw [List.drop_append_of_le_length (by omega), List.drop_of_length_le (by omega), List.nil_append]
  have hi : (if repeatCopy = true then 97 else 96) = copyIndex repeatCopy := by cases repeatCopy <;> rfl
  simp only [descrambleFrame, orderBits, ht, hd, scramble_scramble, hc, hi, List.take_append_drop]
  rw [← hl]
  exact bitsBytes_bytesBits l

end Sys2Proof.Laws
end

