-- ==== Sys2Proof/Laws/Memory.lean ====
section
/-! SUPPORT. Laws of the two containers: tables by number, and byte memories in canonical form. -/

namespace Sys2Proof.Machine

/-! Tables -/

@[simp] theorem tget_nil {β : Type} (d : β) (k : Nat) : tget d k [] = d := rfl

@[simp] theorem tget_tset_same {β : Type} (d : β) (k : Nat) (v : β) (t : Table β) : tget d k (tset k v t) = v := by
  induction t with
  | nil => simp [tset, tget]
  | cons x r ih =>
    obtain ⟨j, w⟩ := x
    unfold tset
    by_cases h1 : j = k
    · simp [h1, tget]
    · by_cases h2 : k < j
      · simp [h1, h2, tget]
      · simpa [h1, h2, tget] using ih

theorem tget_tset_other {β : Type} (d : β) {j k : Nat} (h : j ≠ k) (v : β) (t : Table β) : tget d j (tset k v t) = tget d j t := by
  induction t with
  | nil => simp [tset, tget, Ne.symm h]
  | cons x r ih =>
    obtain ⟨i, w⟩ := x
    unfold tset
    by_cases h1 : i = k
    · subst h1; simp [tget, Ne.symm h]
    · by_cases h2 : k < i
      · simp [h1, h2, tget, Ne.symm h]
      · simp only [h1, h2, if_false, tget, ih]

@[simp] theorem tget_tmod_same {β : Type} (d : β) (k : Nat) (f : β → β) (t : Table β) : tget d k (tmod d k f t) = f (tget d k t) := by
  simp [tmod]

theorem tget_tmod_other {β : Type} (d : β) {j k : Nat} (h : j ≠ k) (f : β → β) (t : Table β) : tget d j (tmod d k f t) = tget d j t := by
  simp [tmod, tget_tset_other d h]

/-! The canonical form -/

theorem wfFrom_mono {d : Byte} {m : Mem} {lo lo' : Nat} (h : lo' ≤ lo) (w : Mem.wfFrom d lo m = true) : Mem.wfFrom d lo' m = true := by
  cases m with
  | nil => rfl
  | cons x r =>
    obtain ⟨a, v⟩ := x
    simp only [Mem.wfFrom, Bool.and_eq_true, decide_eq_true_eq] at w ⊢
    exact ⟨⟨le_trans h w.1.1, w.1.2⟩, w.2⟩

theorem erase_wf {d : Byte} {m : Mem} {lo : Nat} (a : Nat) (w : Mem.wfFrom d lo m = true) : Mem.wfFrom d lo (Mem.erase a m) = true := by
  induction m generalizing lo with
  | nil => rfl
  | cons x r ih =>
    obtain ⟨b, v⟩ := x
    simp only [Mem.wfFrom, Bool.and_eq_true, decide_eq_true_eq] at w
    unfold Mem.erase
    by_cases h : b = a
    · simpa [h] using wfFrom_mono (by omega) w.2
    · simp only [h, if_false, Mem.wfFrom, Bool.and_eq_true, decide_eq_true_eq]
      exact ⟨w.1, ih w.2⟩

theorem insert_wf {d : Byte} {m : Mem} {lo : Nat} (a : Nat) (v : Byte) (hv : v ≠ d) (hl : lo ≤ a) (w : Mem.wfFrom d lo m = true) :
    Mem.wfFrom d lo (Mem.insert a v m) = true := by
  induction m generalizing lo with
  | nil => simp [Mem.insert, Mem.wfFrom, hv, hl]
  | cons x r ih =>
    obtain ⟨b, u⟩ := x
    simp only [Mem.wfFrom, Bool.and_eq_true, decide_eq_true_eq] at w
    unfold Mem.insert
    by_cases h : b = a
    · subst h; simp [Mem.wfFrom, hv, hl, w.2]
    · by_cases h2 : a < b
      · simp only [h, h2, if_false, if_true, Mem.wfFrom, Bool.and_eq_true, decide_eq_true_eq]
        exact ⟨⟨hl, hv⟩, ⟨by omega, w.1.2⟩, w.2⟩
      · simp only [h, h2, if_false, Mem.wfFrom, Bool.and_eq_true, decide_eq_true_eq]
        exact ⟨w.1, ih (by omega) w.2⟩

theorem write_wf {d : Byte} {m : Mem} (a : Nat) (v : Byte) (w : Memory.wf d m = true) : Memory.wf d (Mem.write d a v m) = true := by
  unfold Mem.write
  by_cases h : v = d
  · rw [if_pos h]; exact erase_wf a w
  · rw [if_neg h]; exact insert_wf a v h (Nat.zero_le a) w

/-- Writing bytes keeps the canonical form. -/
theorem writeList_wf {d : Byte} (bs : List Byte) {m : Mem} (a : Nat) (w : Memory.wf d m = true) :
    Memory.wf d (Mem.writeList d a bs m) = true := by
  induction bs generalizing a m with
  | nil => exact w
  | cons v r ih => exact ih (a + 1) (write_wf a v w)

/-! Reading what was written -/

theorem read_below {d : Byte} {m : Mem} {lo a : Nat} (w : Mem.wfFrom d lo m = true) (h : a < lo) : Mem.read d a m = d := by
  induction m generalizing lo with
  | nil => rfl
  | cons x r ih =>
    obtain ⟨b, v⟩ := x
    simp only [Mem.wfFrom, Bool.and_eq_true, decide_eq_true_eq] at w
    have hb : b ≠ a := by omega
    simpa [Mem.read, hb] using ih w.2 (by omega)

theorem read_erase_other {d : Byte} {a x : Nat} (h : x ≠ a) (m : Mem) : Mem.read d x (Mem.erase a m) = Mem.read d x m := by
  induction m with
  | nil => rfl
  | cons y r ih =>
    obtain ⟨b, v⟩ := y
    unfold Mem.erase
    by_cases hb : b = a
    · subst hb; simp [Mem.read, Ne.symm h]
    · simp only [hb, if_false, Mem.read, ih]

theorem read_erase_same {d : Byte} {a lo : Nat} {m : Mem} (w : Mem.wfFrom d lo m = true) : Mem.read d a (Mem.erase a m) = d := by
  induction m generalizing lo with
  | nil => rfl
  | cons y r ih =>
    obtain ⟨b, v⟩ := y
    simp only [Mem.wfFrom, Bool.and_eq_true, decide_eq_true_eq] at w
    unfold Mem.erase
    by_cases hb : b = a
    · subst hb; simpa using read_below w.2 (by omega)
    · simpa [hb, Mem.read] using ih w.2

theorem read_insert_same {d : Byte} (a : Nat) (v : Byte) (m : Mem) : Mem.read d a (Mem.insert a v m) = v := by
  induction m with
  | nil => simp [Mem.insert, Mem.read]
  | cons y r ih =>
    obtain ⟨b, u⟩ := y
    unfold Mem.insert
    by_cases hb : b = a
    · simp [hb, Mem.read]
    · by_cases h2 : a < b
      · simp [hb, h2, Mem.read]
      · simpa [hb, h2, Mem.read] using ih

theorem read_insert_other {d : Byte} {a x : Nat} (h : x ≠ a) (v : Byte) (m : Mem) : Mem.read d x (Mem.insert a v m) = Mem.read d x m := by
  induction m with
  | nil => simp [Mem.insert, Mem.read, Ne.symm h]
  | cons y r ih =>
    obtain ⟨b, u⟩ := y
    unfold Mem.insert
    by_cases hb : b = a
    · subst hb; simp [Mem.read, Ne.symm h]
    · by_cases h2 : a < b
      · simp [hb, h2, Mem.read, Ne.symm h]
      · simp only [hb, h2, if_false, Mem.read, ih]

theorem read_write_same {d : Byte} {m : Mem} (w : Memory.wf d m = true) (a : Nat) (v : Byte) : Mem.read d a (Mem.write d a v m) = v := by
  unfold Mem.write
  by_cases h : v = d
  · subst h; simpa using read_erase_same (d := v) w
  · simpa [h] using read_insert_same a v m

theorem read_write_other {d : Byte} {a x : Nat} (h : x ≠ a) (v : Byte) (m : Mem) : Mem.read d x (Mem.write d a v m) = Mem.read d x m := by
  unfold Mem.write
  by_cases hv : v = d
  · simpa [hv] using read_erase_other h m
  · simpa [hv] using read_insert_other h v m

/-- Outside the written bytes a memory reads as before. -/
theorem read_writeList_outside {d : Byte} (bs : List Byte) {a x : Nat} (h : x < a ∨ a + bs.length ≤ x) (m : Mem) :
    Mem.read d x (Mem.writeList d a bs m) = Mem.read d x m := by
  induction bs generalizing a m with
  | nil => rfl
  | cons v r ih =>
    simp only [List.length_cons] at h
    rw [Mem.writeList, ih (by omega), read_write_other (by omega)]

/-- The i-th written byte reads back. -/
theorem read_writeList_inside {d : Byte} (bs : List Byte) {a i : Nat} {m : Mem} (w : Memory.wf d m = true) (h : i < bs.length) :
    Mem.read d (a + i) (Mem.writeList d a bs m) = bs[i] := by
  induction bs generalizing a i m with
  | nil => simp at h
  | cons v r ih =>
    rw [Mem.writeList]
    cases i with
    | zero =>
      rw [read_writeList_outside _ (by omega)]
      simpa using read_write_same w a v
    | succ j =>
      have := ih (a := a + 1) (i := j) (write_wf a v w) (by simpa using h)
      simpa [Nat.add_assoc, Nat.add_comm 1 j] using this

end Sys2Proof.Machine
end

