-- ==== Sys2Proof/Laws/State.lean ====
section
/-! SUPPORT. Frames of the updates of a director and of a cell controller: each changes one field and leaves the others. -/

namespace Sys2Proof.Machine

@[simp] theorem modArm_frame (d : Director) (a : Nat) (f : Arm → Arm) :
    (modArm d a f).boot = d.boot ∧ (modArm d a f).host = d.host ∧ (modArm d a f).mbs = d.mbs ∧ (modArm d a f).ring = d.ring ∧
      (modArm d a f).disp = d.disp ∧ (modArm d a f).cfg = d.cfg ∧ (modArm d a f).sec = d.sec ∧ (modArm d a f).frz = d.frz ∧
      (modArm d a f).ports = d.ports ∧ (modArm d a f).cells = d.cells ∧ (modArm d a f).time = d.time ∧ (modArm d a f).sk = d.sk ∧
      (modArm d a f).rcd = d.rcd ∧ (modArm d a f).tqs = d.tqs ∧ (modArm d a f).bg = d.bg ∧ (modArm d a f).pins = d.pins ∧
      (modArm d a f).diagBuf = d.diagBuf ∧ (modArm d a f).diagLost = d.diagLost ∧ (modArm d a f).intDelay = d.intDelay ∧ (modArm d a f).prbs = d.prbs ∧ (modArm d a f).patched = d.patched ∧
      (modArm d a f).patching = d.patching ∧ (modArm d a f).tx = d.tx ∧
      (modArm d a f).writes = d.writes := by and_intros <;> rfl

@[simp] theorem modPort_frame (d : Director) (n : Nat) (f : Port → Port) :
    (modPort d n f).boot = d.boot ∧ (modPort d n f).host = d.host ∧ (modPort d n f).mbs = d.mbs ∧ (modPort d n f).ring = d.ring ∧
      (modPort d n f).disp = d.disp ∧ (modPort d n f).cfg = d.cfg ∧ (modPort d n f).sec = d.sec ∧ (modPort d n f).frz = d.frz ∧
      (modPort d n f).arms = d.arms ∧ (modPort d n f).cells = d.cells ∧ (modPort d n f).time = d.time ∧ (modPort d n f).sk = d.sk ∧
      (modPort d n f).rcd = d.rcd ∧ (modPort d n f).tqs = d.tqs ∧ (modPort d n f).bg = d.bg ∧ (modPort d n f).pins = d.pins ∧
      (modPort d n f).diagBuf = d.diagBuf ∧ (modPort d n f).diagLost = d.diagLost ∧ (modPort d n f).intDelay = d.intDelay ∧ (modPort d n f).prbs = d.prbs ∧
      (modPort d n f).patched = d.patched ∧ (modPort d n f).patching = d.patching ∧ (modPort d n f).tx = d.tx ∧
      (modPort d n f).writes = d.writes := by and_intros <;> rfl

@[simp] theorem modRec_frame (d : Director) (id : Nat) (f : CellRec → CellRec) :
    (modRec d id f).boot = d.boot ∧ (modRec d id f).host = d.host ∧ (modRec d id f).mbs = d.mbs ∧ (modRec d id f).ring = d.ring ∧
      (modRec d id f).disp = d.disp ∧ (modRec d id f).cfg = d.cfg ∧ (modRec d id f).sec = d.sec ∧ (modRec d id f).frz = d.frz ∧
      (modRec d id f).arms = d.arms ∧ (modRec d id f).ports = d.ports ∧ (modRec d id f).time = d.time ∧ (modRec d id f).sk = d.sk ∧
      (modRec d id f).rcd = d.rcd ∧ (modRec d id f).tqs = d.tqs ∧ (modRec d id f).bg = d.bg ∧ (modRec d id f).pins = d.pins ∧
      (modRec d id f).diagBuf = d.diagBuf ∧ (modRec d id f).diagLost = d.diagLost ∧ (modRec d id f).intDelay = d.intDelay ∧ (modRec d id f).prbs = d.prbs ∧
      (modRec d id f).patched = d.patched ∧ (modRec d id f).patching = d.patching ∧ (modRec d id f).tx = d.tx ∧
      (modRec d id f).writes = d.writes := by and_intros <;> rfl

@[simp] theorem modCellCnt_frame (d : Director) (id : Nat) (f : CellCounters → CellCounters) :
    (modCellCnt d id f).boot = d.boot ∧ (modCellCnt d id f).host = d.host ∧ (modCellCnt d id f).mbs = d.mbs ∧ (modCellCnt d id f).ring = d.ring ∧
      (modCellCnt d id f).disp = d.disp ∧ (modCellCnt d id f).cfg = d.cfg ∧ (modCellCnt d id f).sec = d.sec ∧ (modCellCnt d id f).frz = d.frz ∧
      (modCellCnt d id f).arms = d.arms ∧ (modCellCnt d id f).ports = d.ports ∧ (modCellCnt d id f).time = d.time ∧ (modCellCnt d id f).sk = d.sk ∧
      (modCellCnt d id f).rcd = d.rcd ∧ (modCellCnt d id f).tqs = d.tqs ∧ (modCellCnt d id f).bg = d.bg ∧ (modCellCnt d id f).pins = d.pins ∧
      (modCellCnt d id f).diagBuf = d.diagBuf ∧ (modCellCnt d id f).diagLost = d.diagLost ∧ (modCellCnt d id f).intDelay = d.intDelay ∧ (modCellCnt d id f).prbs = d.prbs ∧
      (modCellCnt d id f).patched = d.patched ∧ (modCellCnt d id f).patching = d.patching ∧ (modCellCnt d id f).tx = d.tx ∧
      (modCellCnt d id f).writes = d.writes := by and_intros <;> rfl

@[simp] theorem modMbx_frame (d : Director) (n : Nat) (f : Mailbox → Mailbox) :
    (modMbx d n f).boot = d.boot ∧ (modMbx d n f).host = d.host ∧ (modMbx d n f).ring = d.ring ∧ (modMbx d n f).disp = d.disp ∧
      (modMbx d n f).cfg = d.cfg ∧ (modMbx d n f).sec = d.sec ∧ (modMbx d n f).frz = d.frz ∧ (modMbx d n f).arms = d.arms ∧
      (modMbx d n f).ports = d.ports ∧ (modMbx d n f).cells = d.cells ∧ (modMbx d n f).time = d.time ∧ (modMbx d n f).sk = d.sk ∧
      (modMbx d n f).rcd = d.rcd ∧ (modMbx d n f).tqs = d.tqs ∧ (modMbx d n f).bg = d.bg ∧ (modMbx d n f).pins = d.pins ∧
      (modMbx d n f).diagBuf = d.diagBuf ∧ (modMbx d n f).diagLost = d.diagLost ∧ (modMbx d n f).intDelay = d.intDelay ∧ (modMbx d n f).prbs = d.prbs ∧ (modMbx d n f).patched = d.patched ∧
      (modMbx d n f).patching = d.patching ∧ (modMbx d n f).tx = d.tx ∧
      (modMbx d n f).writes = d.writes := by and_intros <;> rfl

@[simp] theorem modTime_frame (d : Director) (f : TimeState → TimeState) :
    (modTime d f).boot = d.boot ∧ (modTime d f).host = d.host ∧ (modTime d f).mbs = d.mbs ∧ (modTime d f).ring = d.ring ∧
      (modTime d f).disp = d.disp ∧ (modTime d f).cfg = d.cfg ∧ (modTime d f).sec = d.sec ∧ (modTime d f).frz = d.frz ∧ (modTime d f).arms = d.arms ∧
      (modTime d f).ports = d.ports ∧ (modTime d f).cells = d.cells ∧ (modTime d f).sk = d.sk ∧ (modTime d f).rcd = d.rcd ∧
      (modTime d f).tqs = d.tqs ∧ (modTime d f).bg = d.bg ∧ (modTime d f).pins = d.pins ∧ (modTime d f).diagBuf = d.diagBuf ∧
      (modTime d f).diagLost = d.diagLost ∧ (modTime d f).intDelay = d.intDelay ∧ (modTime d f).prbs = d.prbs ∧ (modTime d f).patched = d.patched ∧ (modTime d f).patching = d.patching ∧
      (modTime d f).tx = d.tx ∧
      (modTime d f).writes = d.writes := by and_intros <;> rfl

@[simp] theorem modCntA_frame (d : Director) (a : Nat) (f : ArmCounters → ArmCounters) :
    (modCntA d a f).boot = d.boot ∧ (modCntA d a f).host = d.host ∧ (modCntA d a f).mbs = d.mbs ∧ (modCntA d a f).ring = d.ring ∧
      (modCntA d a f).disp = d.disp ∧ (modCntA d a f).cfg = d.cfg ∧ (modCntA d a f).sec = d.sec ∧ (modCntA d a f).frz = d.frz ∧
      (modCntA d a f).ports = d.ports ∧ (modCntA d a f).cells = d.cells ∧ (modCntA d a f).time = d.time ∧ (modCntA d a f).sk = d.sk ∧
      (modCntA d a f).rcd = d.rcd ∧ (modCntA d a f).tqs = d.tqs ∧ (modCntA d a f).bg = d.bg ∧ (modCntA d a f).pins = d.pins ∧
      (modCntA d a f).diagBuf = d.diagBuf ∧ (modCntA d a f).diagLost = d.diagLost ∧ (modCntA d a f).intDelay = d.intDelay ∧ (modCntA d a f).prbs = d.prbs ∧
      (modCntA d a f).patched = d.patched ∧ (modCntA d a f).patching = d.patching ∧ (modCntA d a f).tx = d.tx ∧
      (modCntA d a f).writes = d.writes := by and_intros <;> rfl

@[simp] theorem modLane_frame (d : Director) (n : Nat) (f : Lane → Lane) :
    (modLane d n f).boot = d.boot ∧ (modLane d n f).host = d.host ∧ (modLane d n f).mbs = d.mbs ∧ (modLane d n f).ring = d.ring ∧
      (modLane d n f).disp = d.disp ∧ (modLane d n f).cfg = d.cfg ∧ (modLane d n f).sec = d.sec ∧ (modLane d n f).frz = d.frz ∧
      (modLane d n f).arms = d.arms ∧ (modLane d n f).ports = d.ports ∧ (modLane d n f).cells = d.cells ∧ (modLane d n f).time = d.time ∧
      (modLane d n f).rcd = d.rcd ∧ (modLane d n f).tqs = d.tqs ∧ (modLane d n f).bg = d.bg ∧ (modLane d n f).pins = d.pins ∧
      (modLane d n f).diagBuf = d.diagBuf ∧ (modLane d n f).diagLost = d.diagLost ∧ (modLane d n f).intDelay = d.intDelay ∧ (modLane d n f).prbs = d.prbs ∧
      (modLane d n f).patched = d.patched ∧ (modLane d n f).patching = d.patching ∧ (modLane d n f).tx = d.tx ∧
      (modLane d n f).writes = d.writes := by and_intros <;> rfl

@[simp] theorem modSk_frame (d : Director) (f : Skeund → Skeund) :
    (modSk d f).boot = d.boot ∧ (modSk d f).host = d.host ∧ (modSk d f).mbs = d.mbs ∧ (modSk d f).ring = d.ring ∧ (modSk d f).disp = d.disp ∧
      (modSk d f).cfg = d.cfg ∧ (modSk d f).sec = d.sec ∧ (modSk d f).frz = d.frz ∧ (modSk d f).arms = d.arms ∧ (modSk d f).ports = d.ports ∧
      (modSk d f).cells = d.cells ∧ (modSk d f).time = d.time ∧ (modSk d f).rcd = d.rcd ∧ (modSk d f).tqs = d.tqs ∧ (modSk d f).bg = d.bg ∧
      (modSk d f).pins = d.pins ∧ (modSk d f).diagBuf = d.diagBuf ∧ (modSk d f).diagLost = d.diagLost ∧ (modSk d f).intDelay = d.intDelay ∧ (modSk d f).prbs = d.prbs ∧
      (modSk d f).patched = d.patched ∧ (modSk d f).patching = d.patching ∧ (modSk d f).tx = d.tx ∧
      (modSk d f).writes = d.writes := by and_intros <;> rfl

@[simp] theorem modHost_frame (d : Director) (f : HostIf → HostIf) :
    (modHost d f).boot = d.boot ∧ (modHost d f).mbs = d.mbs ∧ (modHost d f).ring = d.ring ∧ (modHost d f).disp = d.disp ∧ (modHost d f).cfg = d.cfg ∧
      (modHost d f).sec = d.sec ∧ (modHost d f).frz = d.frz ∧ (modHost d f).arms = d.arms ∧ (modHost d f).ports = d.ports ∧
      (modHost d f).cells = d.cells ∧ (modHost d f).time = d.time ∧ (modHost d f).sk = d.sk ∧ (modHost d f).rcd = d.rcd ∧ (modHost d f).tqs = d.tqs ∧
      (modHost d f).bg = d.bg ∧ (modHost d f).pins = d.pins ∧ (modHost d f).diagBuf = d.diagBuf ∧ (modHost d f).diagLost = d.diagLost ∧ (modHost d f).intDelay = d.intDelay ∧
      (modHost d f).prbs = d.prbs ∧ (modHost d f).patched = d.patched ∧ (modHost d f).patching = d.patching ∧ (modHost d f).tx = d.tx ∧
      (modHost d f).writes = d.writes := by and_intros <;> rfl

@[simp] theorem modRing_frame (d : Director) (f : EventRing → EventRing) :
    (modRing d f).boot = d.boot ∧ (modRing d f).host = d.host ∧ (modRing d f).mbs = d.mbs ∧ (modRing d f).disp = d.disp ∧ (modRing d f).cfg = d.cfg ∧
      (modRing d f).sec = d.sec ∧ (modRing d f).frz = d.frz ∧ (modRing d f).arms = d.arms ∧ (modRing d f).ports = d.ports ∧
      (modRing d f).cells = d.cells ∧ (modRing d f).time = d.time ∧ (modRing d f).sk = d.sk ∧ (modRing d f).rcd = d.rcd ∧ (modRing d f).tqs = d.tqs ∧
      (modRing d f).bg = d.bg ∧ (modRing d f).pins = d.pins ∧ (modRing d f).diagBuf = d.diagBuf ∧ (modRing d f).diagLost = d.diagLost ∧ (modRing d f).intDelay = d.intDelay ∧
      (modRing d f).prbs = d.prbs ∧ (modRing d f).patched = d.patched ∧ (modRing d f).patching = d.patching ∧ (modRing d f).tx = d.tx ∧
      (modRing d f).writes = d.writes := by and_intros <;> rfl

@[simp] theorem modDisp_frame (d : Director) (f : Dispatcher → Dispatcher) :
    (modDisp d f).boot = d.boot ∧ (modDisp d f).host = d.host ∧ (modDisp d f).mbs = d.mbs ∧ (modDisp d f).ring = d.ring ∧ (modDisp d f).cfg = d.cfg ∧
      (modDisp d f).sec = d.sec ∧ (modDisp d f).frz = d.frz ∧ (modDisp d f).arms = d.arms ∧ (modDisp d f).ports = d.ports ∧
      (modDisp d f).cells = d.cells ∧ (modDisp d f).time = d.time ∧ (modDisp d f).sk = d.sk ∧ (modDisp d f).rcd = d.rcd ∧ (modDisp d f).tqs = d.tqs ∧
      (modDisp d f).bg = d.bg ∧ (modDisp d f).pins = d.pins ∧ (modDisp d f).diagBuf = d.diagBuf ∧ (modDisp d f).diagLost = d.diagLost ∧ (modDisp d f).intDelay = d.intDelay ∧
      (modDisp d f).prbs = d.prbs ∧ (modDisp d f).patched = d.patched ∧ (modDisp d f).patching = d.patching ∧ (modDisp d f).tx = d.tx ∧
      (modDisp d f).writes = d.writes := by and_intros <;> rfl

@[simp] theorem modRcd_frame (d : Director) (f : Recorder → Recorder) :
    (modRcd d f).boot = d.boot ∧ (modRcd d f).host = d.host ∧ (modRcd d f).mbs = d.mbs ∧ (modRcd d f).ring = d.ring ∧ (modRcd d f).disp = d.disp ∧
      (modRcd d f).cfg = d.cfg ∧ (modRcd d f).sec = d.sec ∧ (modRcd d f).frz = d.frz ∧ (modRcd d f).arms = d.arms ∧ (modRcd d f).ports = d.ports ∧
      (modRcd d f).cells = d.cells ∧ (modRcd d f).time = d.time ∧ (modRcd d f).sk = d.sk ∧ (modRcd d f).tqs = d.tqs ∧ (modRcd d f).bg = d.bg ∧
      (modRcd d f).pins = d.pins ∧ (modRcd d f).diagBuf = d.diagBuf ∧ (modRcd d f).diagLost = d.diagLost ∧ (modRcd d f).intDelay = d.intDelay ∧ (modRcd d f).prbs = d.prbs ∧
      (modRcd d f).patched = d.patched ∧ (modRcd d f).patching = d.patching ∧ (modRcd d f).tx = d.tx ∧
      (modRcd d f).writes = d.writes := by and_intros <;> rfl

@[simp] theorem modBg_frame (d : Director) (f : Background → Background) :
    (modBg d f).boot = d.boot ∧ (modBg d f).host = d.host ∧ (modBg d f).mbs = d.mbs ∧ (modBg d f).ring = d.ring ∧ (modBg d f).disp = d.disp ∧
      (modBg d f).cfg = d.cfg ∧ (modBg d f).sec = d.sec ∧ (modBg d f).frz = d.frz ∧ (modBg d f).arms = d.arms ∧ (modBg d f).ports = d.ports ∧
      (modBg d f).cells = d.cells ∧ (modBg d f).time = d.time ∧ (modBg d f).sk = d.sk ∧ (modBg d f).rcd = d.rcd ∧ (modBg d f).tqs = d.tqs ∧
      (modBg d f).pins = d.pins ∧ (modBg d f).diagBuf = d.diagBuf ∧ (modBg d f).diagLost = d.diagLost ∧ (modBg d f).intDelay = d.intDelay ∧ (modBg d f).prbs = d.prbs ∧
      (modBg d f).patched = d.patched ∧ (modBg d f).patching = d.patching ∧ (modBg d f).tx = d.tx ∧
      (modBg d f).writes = d.writes := by and_intros <;> rfl

@[simp] theorem modCfg_frame (d : Director) (f : CfgState → CfgState) :
    (modCfg d f).boot = d.boot ∧ (modCfg d f).host = d.host ∧ (modCfg d f).mbs = d.mbs ∧ (modCfg d f).ring = d.ring ∧ (modCfg d f).disp = d.disp ∧
      (modCfg d f).sec = d.sec ∧ (modCfg d f).frz = d.frz ∧ (modCfg d f).arms = d.arms ∧ (modCfg d f).ports = d.ports ∧
      (modCfg d f).cells = d.cells ∧ (modCfg d f).time = d.time ∧ (modCfg d f).sk = d.sk ∧ (modCfg d f).rcd = d.rcd ∧ (modCfg d f).tqs = d.tqs ∧
      (modCfg d f).bg = d.bg ∧ (modCfg d f).pins = d.pins ∧ (modCfg d f).diagBuf = d.diagBuf ∧ (modCfg d f).diagLost = d.diagLost ∧ (modCfg d f).intDelay = d.intDelay ∧
      (modCfg d f).prbs = d.prbs ∧ (modCfg d f).patched = d.patched ∧ (modCfg d f).patching = d.patching ∧ (modCfg d f).tx = d.tx ∧
      (modCfg d f).writes = d.writes := by and_intros <;> rfl

@[simp] theorem modSec_frame (d : Director) (f : Security → Security) :
    (modSec d f).boot = d.boot ∧ (modSec d f).host = d.host ∧ (modSec d f).mbs = d.mbs ∧ (modSec d f).ring = d.ring ∧ (modSec d f).disp = d.disp ∧
      (modSec d f).cfg = d.cfg ∧ (modSec d f).frz = d.frz ∧ (modSec d f).arms = d.arms ∧ (modSec d f).ports = d.ports ∧
      (modSec d f).cells = d.cells ∧ (modSec d f).time = d.time ∧ (modSec d f).sk = d.sk ∧ (modSec d f).rcd = d.rcd ∧ (modSec d f).tqs = d.tqs ∧
      (modSec d f).bg = d.bg ∧ (modSec d f).pins = d.pins ∧ (modSec d f).diagBuf = d.diagBuf ∧ (modSec d f).diagLost = d.diagLost ∧ (modSec d f).intDelay = d.intDelay ∧
      (modSec d f).prbs = d.prbs ∧ (modSec d f).patched = d.patched ∧ (modSec d f).patching = d.patching ∧ (modSec d f).tx = d.tx ∧
      (modSec d f).writes = d.writes := by and_intros <;> rfl

@[simp] theorem send_frame (d : Director) (t : Tx) :
    (send d t).boot = d.boot ∧ (send d t).host = d.host ∧ (send d t).mbs = d.mbs ∧ (send d t).ring = d.ring ∧ (send d t).disp = d.disp ∧
      (send d t).cfg = d.cfg ∧ (send d t).sec = d.sec ∧ (send d t).frz = d.frz ∧ (send d t).arms = d.arms ∧ (send d t).ports = d.ports ∧
      (send d t).cells = d.cells ∧ (send d t).time = d.time ∧ (send d t).sk = d.sk ∧ (send d t).rcd = d.rcd ∧ (send d t).tqs = d.tqs ∧
      (send d t).bg = d.bg ∧ (send d t).pins = d.pins ∧ (send d t).diagBuf = d.diagBuf ∧ (send d t).diagLost = d.diagLost ∧ (send d t).intDelay = d.intDelay ∧
      (send d t).prbs = d.prbs ∧ (send d t).patched = d.patched ∧ (send d t).patching = d.patching ∧
      (send d t).writes = d.writes := by and_intros <;> rfl

@[simp] theorem putMem_frame (d : Director) (w : MemWrite) :
    (putMem d w).boot = d.boot ∧ (putMem d w).host = d.host ∧ (putMem d w).mbs = d.mbs ∧ (putMem d w).ring = d.ring ∧ (putMem d w).disp = d.disp ∧
      (putMem d w).cfg = d.cfg ∧ (putMem d w).sec = d.sec ∧ (putMem d w).frz = d.frz ∧ (putMem d w).arms = d.arms ∧ (putMem d w).ports = d.ports ∧
      (putMem d w).cells = d.cells ∧ (putMem d w).time = d.time ∧ (putMem d w).sk = d.sk ∧ (putMem d w).rcd = d.rcd ∧ (putMem d w).tqs = d.tqs ∧
      (putMem d w).bg = d.bg ∧ (putMem d w).pins = d.pins ∧ (putMem d w).diagBuf = d.diagBuf ∧ (putMem d w).diagLost = d.diagLost ∧ (putMem d w).intDelay = d.intDelay ∧
      (putMem d w).prbs = d.prbs ∧ (putMem d w).patched = d.patched ∧ (putMem d w).patching = d.patching ∧
      (putMem d w).tx = d.tx := by and_intros <;> rfl

@[simp] theorem setWait_frame (d : Director) (n : Nat) (w : Wait) :
    (setWait d n w).boot = d.boot ∧ (setWait d n w).host = d.host ∧ (setWait d n w).ring = d.ring ∧ (setWait d n w).disp = d.disp ∧
      (setWait d n w).cfg = d.cfg ∧ (setWait d n w).sec = d.sec ∧ (setWait d n w).frz = d.frz ∧ (setWait d n w).arms = d.arms ∧
      (setWait d n w).ports = d.ports ∧ (setWait d n w).cells = d.cells ∧ (setWait d n w).time = d.time ∧ (setWait d n w).sk = d.sk ∧
      (setWait d n w).rcd = d.rcd ∧ (setWait d n w).tqs = d.tqs ∧ (setWait d n w).bg = d.bg ∧ (setWait d n w).pins = d.pins ∧
      (setWait d n w).diagBuf = d.diagBuf ∧ (setWait d n w).diagLost = d.diagLost ∧ (setWait d n w).intDelay = d.intDelay ∧ (setWait d n w).prbs = d.prbs ∧
      (setWait d n w).patched = d.patched ∧ (setWait d n w).patching = d.patching ∧ (setWait d n w).tx = d.tx ∧
      (setWait d n w).writes = d.writes := by and_intros <;> rfl

@[simp] theorem modCmd_frame (d : Director) (n : Nat) (f : Cmd → Cmd) :
    (modCmd d n f).boot = d.boot ∧ (modCmd d n f).host = d.host ∧ (modCmd d n f).ring = d.ring ∧ (modCmd d n f).disp = d.disp ∧
      (modCmd d n f).cfg = d.cfg ∧ (modCmd d n f).sec = d.sec ∧ (modCmd d n f).frz = d.frz ∧ (modCmd d n f).arms = d.arms ∧
      (modCmd d n f).ports = d.ports ∧ (modCmd d n f).cells = d.cells ∧ (modCmd d n f).time = d.time ∧ (modCmd d n f).sk = d.sk ∧
      (modCmd d n f).rcd = d.rcd ∧ (modCmd d n f).tqs = d.tqs ∧ (modCmd d n f).bg = d.bg ∧ (modCmd d n f).pins = d.pins ∧
      (modCmd d n f).diagBuf = d.diagBuf ∧ (modCmd d n f).diagLost = d.diagLost ∧ (modCmd d n f).intDelay = d.intDelay ∧ (modCmd d n f).prbs = d.prbs ∧ (modCmd d n f).patched = d.patched ∧
      (modCmd d n f).patching = d.patching ∧ (modCmd d n f).tx = d.tx ∧
      (modCmd d n f).writes = d.writes := by and_intros <;> rfl

@[simp] theorem setSeg_frame (d : Director) (i : Nat) (m : SegMode) :
    (setSeg d i m).boot = d.boot ∧ (setSeg d i m).host = d.host ∧ (setSeg d i m).mbs = d.mbs ∧ (setSeg d i m).ring = d.ring ∧
      (setSeg d i m).disp = d.disp ∧ (setSeg d i m).cfg = d.cfg ∧ (setSeg d i m).sec = d.sec ∧ (setSeg d i m).frz = d.frz ∧
      (setSeg d i m).arms = d.arms ∧ (setSeg d i m).ports = d.ports ∧ (setSeg d i m).cells = d.cells ∧ (setSeg d i m).time = d.time ∧
      (setSeg d i m).sk = d.sk ∧ (setSeg d i m).tqs = d.tqs ∧ (setSeg d i m).bg = d.bg ∧ (setSeg d i m).pins = d.pins ∧
      (setSeg d i m).diagBuf = d.diagBuf ∧ (setSeg d i m).diagLost = d.diagLost ∧ (setSeg d i m).intDelay = d.intDelay ∧ (setSeg d i m).prbs = d.prbs ∧ (setSeg d i m).patched = d.patched ∧
      (setSeg d i m).patching = d.patching ∧ (setSeg d i m).tx = d.tx ∧
      (setSeg d i m).writes = d.writes := by and_intros <;> rfl

@[simp] theorem putSection_frame (d : Director) (k : Nat) (bs : List Byte) :
    (putSection d k bs).boot = d.boot ∧ (putSection d k bs).host = d.host ∧ (putSection d k bs).mbs = d.mbs ∧ (putSection d k bs).ring = d.ring ∧
      (putSection d k bs).disp = d.disp ∧ (putSection d k bs).sec = d.sec ∧ (putSection d k bs).frz = d.frz ∧ (putSection d k bs).arms = d.arms ∧
      (putSection d k bs).ports = d.ports ∧ (putSection d k bs).cells = d.cells ∧ (putSection d k bs).time = d.time ∧ (putSection d k bs).sk = d.sk ∧
      (putSection d k bs).rcd = d.rcd ∧ (putSection d k bs).tqs = d.tqs ∧ (putSection d k bs).bg = d.bg ∧ (putSection d k bs).pins = d.pins ∧
      (putSection d k bs).diagBuf = d.diagBuf ∧ (putSection d k bs).diagLost = d.diagLost ∧ (putSection d k bs).intDelay = d.intDelay ∧ (putSection d k bs).prbs = d.prbs ∧
      (putSection d k bs).patched = d.patched ∧ (putSection d k bs).patching = d.patching ∧ (putSection d k bs).tx = d.tx ∧
      (putSection d k bs).writes = d.writes := by and_intros <;> rfl

@[simp] theorem trigVector_frame (d : Director) (v : Nat) :
    (trigVector d v).boot = d.boot ∧ (trigVector d v).mbs = d.mbs ∧ (trigVector d v).ring = d.ring ∧ (trigVector d v).disp = d.disp ∧
      (trigVector d v).cfg = d.cfg ∧ (trigVector d v).sec = d.sec ∧ (trigVector d v).frz = d.frz ∧ (trigVector d v).arms = d.arms ∧
      (trigVector d v).ports = d.ports ∧ (trigVector d v).cells = d.cells ∧ (trigVector d v).time = d.time ∧ (trigVector d v).sk = d.sk ∧
      (trigVector d v).rcd = d.rcd ∧ (trigVector d v).tqs = d.tqs ∧ (trigVector d v).bg = d.bg ∧ (trigVector d v).pins = d.pins ∧
      (trigVector d v).diagBuf = d.diagBuf ∧ (trigVector d v).diagLost = d.diagLost ∧ (trigVector d v).intDelay = d.intDelay ∧ (trigVector d v).prbs = d.prbs ∧
      (trigVector d v).patched = d.patched ∧ (trigVector d v).patching = d.patching ∧ (trigVector d v).tx = d.tx ∧
      (trigVector d v).writes = d.writes := by and_intros <;> rfl

/-! What the update writes -/

@[simp] theorem arm_modArm (d : Director) (a : Nat) (f : Arm → Arm) : arm (modArm d a f) a = f (arm d a) := tget_tmod_same _ _ _ _
theorem arm_modArm_other (d : Director) {a b : Nat} (h : b ≠ a) (f : Arm → Arm) : arm (modArm d a f) b = arm d b := tget_tmod_other _ h _ _
@[simp] theorem port_modPort (d : Director) (n : Nat) (f : Port → Port) : port (modPort d n f) n = f (port d n) := tget_tmod_same _ _ _ _
theorem port_modPort_other (d : Director) {m n : Nat} (h : m ≠ n) (f : Port → Port) : port (modPort d n f) m = port d m := tget_tmod_other _ h _ _
@[simp] theorem cellRec_modRec (d : Director) (id : Nat) (f : CellRec → CellRec) : cellRec (modRec d id f) id = f (cellRec d id) :=
  tget_tmod_same _ _ _ _
theorem cellRec_modRec_other (d : Director) {j id : Nat} (h : j ≠ id) (f : CellRec → CellRec) : cellRec (modRec d id f) j = cellRec d j :=
  tget_tmod_other _ h _ _
@[simp] theorem mbx_modMbx (d : Director) (n : Nat) (f : Mailbox → Mailbox) : mbx (modMbx d n f) n = f (mbx d n) := tget_tmod_same _ _ _ _
theorem mbx_modMbx_other (d : Director) {m n : Nat} (h : m ≠ n) (f : Mailbox → Mailbox) : mbx (modMbx d n f) m = mbx d m := tget_tmod_other _ h _ _
@[simp] theorem lane_modLane (d : Director) (n : Nat) (f : Lane → Lane) : lane (modLane d n f) n = f (lane d n) := tget_tmod_same _ _ _ _
theorem lane_modLane_other (d : Director) {m n : Nat} (h : m ≠ n) (f : Lane → Lane) : lane (modLane d n f) m = lane d m := tget_tmod_other _ h _ _
@[simp] theorem modTime_time (d : Director) (f : TimeState → TimeState) : (modTime d f).time = f d.time := rfl
@[simp] theorem modSk_sk (d : Director) (f : Skeund → Skeund) : (modSk d f).sk = f d.sk := rfl
@[simp] theorem modHost_host (d : Director) (f : HostIf → HostIf) : (modHost d f).host = f d.host := rfl
@[simp] theorem modRing_ring (d : Director) (f : EventRing → EventRing) : (modRing d f).ring = f d.ring := rfl
@[simp] theorem modDisp_disp (d : Director) (f : Dispatcher → Dispatcher) : (modDisp d f).disp = f d.disp := rfl
@[simp] theorem modRcd_rcd (d : Director) (f : Recorder → Recorder) : (modRcd d f).rcd = f d.rcd := rfl
@[simp] theorem modBg_bg (d : Director) (f : Background → Background) : (modBg d f).bg = f d.bg := rfl
@[simp] theorem modCfg_cfg (d : Director) (f : CfgState → CfgState) : (modCfg d f).cfg = f d.cfg := rfl
@[simp] theorem modSec_sec (d : Director) (f : Security → Security) : (modSec d f).sec = f d.sec := rfl
@[simp] theorem send_tx (d : Director) (t : Tx) : (send d t).tx = d.tx ++ [t] := rfl
@[simp] theorem putMem_writes (d : Director) (w : MemWrite) : (putMem d w).writes = w :: d.writes := rfl

/-! The cell controller: a link is changed alone, and an event only joins the records. -/

@[simp] theorem getLink_modLink (c : Cell) (l : Link) (f : CLink → CLink) : getLink (modLink c l f) l = f (getLink c l) := by
  cases l <;> rfl
@[simp] theorem getLink_modLink_other (c : Cell) (l : Link) (f : CLink → CLink) : getLink (modLink c l f) (otherLink l) = getLink c (otherLink l) := by
  cases l <;> rfl
@[simp] theorem otherLink_otherLink (l : Link) : otherLink (otherLink l) = l := by cases l <;> rfl

@[simp] theorem modLink_frame (c : Cell) (l : Link) (f : CLink → CLink) :
    (modLink c l f).mode = c.mode ∧ (modLink c l f).variant = c.variant ∧ (modLink c l f).locked = c.locked ∧ (modLink c l f).bypass = c.bypass ∧
      (modLink c l f).dll = c.dll ∧ (modLink c l f).steer = c.steer ∧ (modLink c l f).steerNext = c.steerNext ∧ (modLink c l f).gates = c.gates ∧
      (modLink c l f).stage = c.stage ∧ (modLink c l f).gdpg = c.gdpg ∧ (modLink c l f).params = c.params ∧ (modLink c l f).sealed = c.sealed ∧
      (modLink c l f).holder = c.holder ∧ (modLink c l f).lc = c.lc ∧ (modLink c l f).decided = c.decided ∧ (modLink c l f).sel = c.sel ∧
      (modLink c l f).forced = c.forced ∧ (modLink c l f).executed = c.executed ∧ (modLink c l f).undo = c.undo ∧ (modLink c l f).withheld = c.withheld ∧
      (modLink c l f).preempt = c.preempt ∧ (modLink c l f).run = c.run ∧ (modLink c l f).report = c.report ∧ (modLink c l f).edgeArms = c.edgeArms ∧
      (modLink c l f).events = c.events ∧ (modLink c l f).meas = c.meas ∧ (modLink c l f).thermal = c.thermal ∧ (modLink c l f).cnt = c.cnt ∧
      (modLink c l f).tx = c.tx ∧ (modLink c l f).writes = c.writes := by cases l <;> and_intros <;> rfl

@[simp] theorem cellEvent_frame (c : Cell) (code : Nat) (tick : Int) (detail : Nat) :
    (cellEvent c code tick detail).mode = c.mode ∧ (cellEvent c code tick detail).variant = c.variant ∧ (cellEvent c code tick detail).locked = c.locked ∧ (cellEvent c code tick detail).bypass = c.bypass ∧
      (cellEvent c code tick detail).dll = c.dll ∧ (cellEvent c code tick detail).steer = c.steer ∧ (cellEvent c code tick detail).steerNext = c.steerNext ∧ (cellEvent c code tick detail).gates = c.gates ∧
      (cellEvent c code tick detail).stage = c.stage ∧ (cellEvent c code tick detail).gdpg = c.gdpg ∧ (cellEvent c code tick detail).params = c.params ∧ (cellEvent c code tick detail).sealed = c.sealed ∧
      (cellEvent c code tick detail).holder = c.holder ∧ (cellEvent c code tick detail).lc = c.lc ∧ (cellEvent c code tick detail).decided = c.decided ∧ (cellEvent c code tick detail).sel = c.sel ∧
      (cellEvent c code tick detail).forced = c.forced ∧ (cellEvent c code tick detail).executed = c.executed ∧ (cellEvent c code tick detail).undo = c.undo ∧ (cellEvent c code tick detail).withheld = c.withheld ∧
      (cellEvent c code tick detail).preempt = c.preempt ∧ (cellEvent c code tick detail).run = c.run ∧ (cellEvent c code tick detail).report = c.report ∧ (cellEvent c code tick detail).edgeArms = c.edgeArms ∧
      (cellEvent c code tick detail).meas = c.meas ∧ (cellEvent c code tick detail).thermal = c.thermal ∧ (cellEvent c code tick detail).tx = c.tx ∧
      (cellEvent c code tick detail).writes = c.writes ∧ (cellEvent c code tick detail).la = c.la ∧ (cellEvent c code tick detail).lb = c.lb := by and_intros <;> rfl

/-- An event is in the records with its code and tick (R144, R588). -/
theorem cellEvent_mem (c : Cell) (code : Nat) (tick : Int) (detail : Nat) :
    ∃ e ∈ (cellEvent c code tick detail).events, e.code = code ∧ e.tick = tick.toNat :=
  ⟨_, List.mem_append_right _ (List.mem_singleton.mpr rfl), rfl, rfl⟩

end Sys2Proof.Machine
end

