-- ==== Sys2Proof/Laws/Ops.lean ====
section
/-! SUPPORT. What each shared operation can do: the wrappers of a command, writes to the memories,
mailbox answers, checks and events. -/

namespace Sys2Proof.Machine

/-! Memories -/

/-- Every memory of the block is in its canonical form. -/
def Stores.wf (m : Stores) : Prop := ∀ i, Memory.wf (memDefault i) (memGet m i) = true

theorem memGet_memSet_same (m : Stores) (i : MemId) (x : Mem) : memGet (memSet m i x) i = x := by
  cases i with
  | window k => match k with | 0 => rfl | 1 => rfl | 2 => rfl | _ + 3 => rfl
  | _ => rfl

/-- Two memory names that stand for one memory: window numbers beyond 2 all name the last window. -/
def sameMem : MemId → MemId → Bool
  | .window a, .window b => min a 3 = min b 3
  | a, b => a = b

theorem memGet_memSet (m : Stores) (i j : MemId) (x : Mem) : memGet (memSet m i x) j = if sameMem i j then x else memGet m j := by
  cases i with
  | window a => cases j with
    | window b => match a, b with
      | 0, 0 => rfl | 0, 1 => rfl | 0, 2 => rfl | 0, b + 3 => simp [sameMem, memGet, memSet]
      | 1, 0 => rfl | 1, 1 => rfl | 1, 2 => rfl | 1, b + 3 => simp [sameMem, memGet, memSet]
      | 2, 0 => rfl | 2, 1 => rfl | 2, 2 => rfl | 2, b + 3 => simp [sameMem, memGet, memSet]
      | a + 3, 0 => simp [sameMem, memGet, memSet]
      | a + 3, 1 => simp [sameMem, memGet, memSet]
      | a + 3, 2 => simp [sameMem, memGet, memSet]
      | a + 3, b + 3 => simp [sameMem, memGet, memSet]
    | _ => match a with | 0 => rfl | 1 => rfl | 2 => rfl | _ + 3 => rfl
  | _ => cases j with
    | window b => match b with | 0 => rfl | 1 => rfl | 2 => rfl | _ + 3 => rfl
    | _ => rfl

theorem sameMem_default {i j : MemId} (h : sameMem i j = true) : memDefault i = memDefault j := by
  cases i <;> cases j <;> first | rfl | (simp [sameMem] at h)

/-- One write keeps the canonical form. -/
theorem applyWrite_wf {m : Stores} (w : MemWrite) (h : m.wf) : (applyWrite m w).wf := by
  intro j
  unfold applyWrite
  rw [memGet_memSet]
  split
  · next e => rw [← sameMem_default e]; exact writeList_wf _ _ (h _)
  · exact h j

/-- Every memory operation keeps the canonical form. -/
theorem applyWrites_wf {m : Stores} (ws : List MemWrite) (h : m.wf) : (applyWrites m ws).wf := by
  induction ws with
  | nil => exact h
  | cons w r ih => exact applyWrite_wf w ih

theorem applyWrites_nil (m : Stores) : applyWrites m [] = m := rfl

/-- A memory that no write names is unchanged. -/
theorem applyWrites_other {m : Stores} {ws : List MemWrite} {i : MemId} (h : ∀ w ∈ ws, sameMem w.dest i = false) :
    memGet (applyWrites m ws) i = memGet m i := by
  induction ws with
  | nil => rfl
  | cons w r ih =>
    show memGet (applyWrite (applyWrites m r) w) i = _
    rw [applyWrite, memGet_memSet, if_neg (by simp [h w (by simp)]), ih fun v hv => h v (by simp [hv])]

/-! Vectors -/

/-- What settling the vectors makes of a director: pending bits, armed bits and conditions of the vectors, and messages sent. -/
def settled (d : Director) (p a t : BitVec 32) (x : List Tx) : Director :=
  { d with host := { d.host with pba := p, armed := a, trig := t }, tx := d.tx ++ x }

theorem settled_settled (d : Director) (p a t p' a' t' : BitVec 32) (x x' : List Tx) :
    settled (settled d p a t x) p' a' t' x' = settled d p' a' t' (x ++ x') := by simp [settled]

theorem sendVector_settled (m : Stores) (d : Director) (v : Nat) : ∃ p a t x, sendVector m d v = settled d p a t x := by
  unfold sendVector
  split
  · exact ⟨d.host.pba, d.host.armed, d.host.trig, [], by simp [settled]⟩
  · split
    · exact ⟨d.host.pba ||| BitVec.twoPow 32 v, d.host.armed, d.host.trig, [], by simp [settled]⟩
    · exact ⟨_, d.host.armed, d.host.trig, _, rfl⟩

/-- Settling the vectors changes them and what is transmitted, nothing else. -/
theorem settleVectors_settled (m : Stores) (d : Director) : ∃ p a t x, settleVectors m d = settled d p a t x := by
  have key : ∀ (l : List Nat) (d : Director), ∃ p a t x, l.foldl (fun d v =>
      if d.host.trig.getLsbD v && d.host.armed.getLsbD v then
        let d := { d with host := { d.host with armed := if d.host.busMaster then d.host.armed &&& ~~~(BitVec.twoPow 32 v) else d.host.armed } }
        sendVector m d v
      else if d.host.pba.getLsbD v && !vectorMasked m v then sendVector m d v
      else d) d = settled d p a t x := by
    intro l
    induction l with
    | nil => exact fun d => ⟨d.host.pba, d.host.armed, d.host.trig, [], by simp [settled]⟩
    | cons v r ih =>
      intro d
      simp only [List.foldl_cons]
      have go : ∀ (d' : Director), (∃ p a t x, d' = settled d p a t x) →
          ∃ p a t x, (r.foldl (fun d v =>
            if d.host.trig.getLsbD v && d.host.armed.getLsbD v then
              let d := { d with host := { d.host with armed := if d.host.busMaster then d.host.armed &&& ~~~(BitVec.twoPow 32 v) else d.host.armed } }
              sendVector m d v
            else if d.host.pba.getLsbD v && !vectorMasked m v then sendVector m d v
            else d) d') = settled d p a t x := by
        rintro d' ⟨p, a, t, x, rfl⟩
        obtain ⟨p2, a2, t2, x2, e2⟩ := ih (settled d p a t x)
        exact ⟨p2, a2, t2, x ++ x2, by rw [e2, settled_settled]⟩
      apply go
      split
      · obtain ⟨p, a, t, x, e⟩ := sendVector_settled m { d with host := { d.host with armed := if d.host.busMaster then d.host.armed &&& ~~~(BitVec.twoPow 32 v) else d.host.armed } } v
        exact ⟨p, a, t, x, e⟩
      · split
        · exact sendVector_settled m d v
        · exact ⟨d.host.pba, d.host.armed, d.host.trig, [], by simp [settled]⟩
  unfold settleVectors
  split
  · exact ⟨d.host.pba, d.host.armed, d.host.trig, [], by simp [settled]⟩
  · obtain ⟨p, a, t, x, e⟩ := key (List.range 32) d
    exact ⟨p, a, 0, x, by simp only []; rw [e]; rfl⟩

/-- No vector condition is left. -/
theorem settleVectors_trig (m : Stores) (d : Director) : (settleVectors m d).host.trig = 0 := by
  unfold settleVectors
  split
  · next h => simp only [Bool.and_eq_true, decide_eq_true_eq] at h; exact h.1
  · rfl

theorem settleVectors_quiet (m : Stores) {d : Director} (h : d.host.trig = 0) (hp : d.host.pba = 0) : settleVectors m d = d := by
  unfold settleVectors; simp [h, hp]

/-! The wrappers -/

/-- A director's command answers a next state: what it made of the director, its vectors settled and its writes
brought to the memories; the cell and the queue are as before. -/
theorem onDir_next (s : State) (f : Director → Director) :
    ∃ t p a g x, onDir s f = .next t ∧ t.dir = settled { f (dirStart s.dir) with writes := [] } p a g x
      ∧ t.cell = s.cell ∧ t.pending = s.pending ∧ t.fresh = s.fresh + 1
      ∧ t.mem = applyWrites s.mem (f (dirStart s.dir)).writes := by
  obtain ⟨p, a, g, x, e⟩ := settleVectors_settled (applyWrites s.mem (f (dirStart s.dir)).writes) { f (dirStart s.dir) with writes := [] }
  exact ⟨_, p, a, g, x, rfl, e, rfl, rfl, rfl, rfl⟩

/-- A cell's command answers a next state: what it made of the cell. -/
theorem onCell_next (s : State) (f : Cell → Cell) :
    onCell s f = .next { s with
      cell := { f (cellStart s.cell) with writes := [] }
      mem := applyWrites s.mem (f (cellStart s.cell)).writes
      fresh := s.fresh + 1 } := rfl

@[simp] theorem ifUnit_true (o : Host.Outcome State Fault Refusal) : ifUnit true o = o := rfl
@[simp] theorem ifUnit_false (o : Host.Outcome State Fault Refusal) : ifUnit false o = .refused .noSuchUnit := rfl

/-- Every outcome is a director's or a cell's next state. -/
def Completes (s : State) (o : Host.Outcome State Fault Refusal) : Prop := (∃ f, o = onDir s f) ∨ (∃ f, o = onCell s f)

theorem completes_dir (s : State) (f : Director → Director) : Completes s (onDir s f) := .inl ⟨f, rfl⟩
theorem completes_cell (s : State) (f : Cell → Cell) : Completes s (onCell s f) := .inr ⟨f, rfl⟩
theorem completes_unit {s : State} {p : Bool} {o : Host.Outcome State Fault Refusal} (hp : p = true) (h : Completes s o) :
    Completes s (ifUnit p o) := by rw [hp]; exact h

/-! Checks and answers -/

theorem firstFail_none {l : List (Bool × Nat)} (h : ∀ x ∈ l, x.1 = false) : firstFail l = none := by
  induction l with
  | nil => rfl
  | cons x r ih =>
    obtain ⟨b, st⟩ := x
    have hb : b = false := h (b, st) (by simp)
    subst hb
    exact ih fun y hy => h y (by simp [hy])

/-- With every check passed, a guarded command acts. -/
theorem guarded_pass {d : Director} {mb : Nat} {l : List (Bool × Nat)} {f : Director → Director} (h : ∀ x ∈ l, x.1 = false) :
    guarded d mb l f = f d := by rw [guarded, firstFail_none h]

/-- The first check that fails decides the status. -/
theorem guarded_fail {d : Director} {mb : Nat} {l : List (Bool × Nat)} {f : Director → Director} {st : Nat} (h : firstFail l = some st) :
    guarded d mb l f = refuse d mb st := by rw [guarded, h]

/-- What a mailbox command's row makes of the director when it runs. -/
def cmdFn (mb op : Nat) (f : Director → Cmd → Director) (d : Director) : Director :=
  match (mbx d mb).cmd with
  | some c => if serves d && (mbx d mb).state = .active && c.opcode.toNat = op && c.wait = .job then f d c else d
  | none => d

/-- A mailbox command's row runs when the firmware serves and its mailbox holds that command, ACTIVE and not yet run. -/
theorem onCmd_next {s : State} {mb op : Nat} {c : Cmd} (f : Director → Cmd → Director) (hm : mb < 4)
    (hc : (mbx s.dir mb).cmd = some c) (hs : serves s.dir = true) (ha : (mbx s.dir mb).state = .active)
    (ho : c.opcode.toNat = op) (hw : c.wait = .job) :
    ∃ t p a g x, onCmd s mb op f = .next t ∧ t.dir = settled { f (dirStart s.dir) c with writes := [] } p a g x
      ∧ t.cell = s.cell ∧ t.pending = s.pending ∧ t.fresh = s.fresh + 1
      ∧ t.mem = applyWrites s.mem (f (dirStart s.dir) c).writes := by
  have e1 : onCmd s mb op f = onDir s (cmdFn mb op f) := by
    unfold onCmd cmdFn ifUnit; rw [decide_eq_true hm]; rfl
  have hc' : (mbx (dirStart s.dir) mb).cmd = some c := hc
  have hg : (serves (dirStart s.dir) && decide ((mbx (dirStart s.dir) mb).state = .active)
      && decide (c.opcode.toNat = op) && decide (c.wait = .job)) = true := by
    have h1 : serves (dirStart s.dir) = true := hs
    have h2 : (mbx (dirStart s.dir) mb).state = .active := ha
    rw [h1, h2, decide_eq_true ho, decide_eq_true hw]; rfl
  have e2 : cmdFn mb op f (dirStart s.dir) = f (dirStart s.dir) c := by
    unfold cmdFn; rw [hc']; simp only []; rw [if_pos hg]
  obtain ⟨t, p, a, g, x, a1, a2, a3, a4, a5, a6⟩ := onDir_next s (cmdFn mb op f)
  rw [e2] at a2 a6
  exact ⟨t, p, a, g, x, by rw [e1]; exact a1, a2, a3, a4, a5, a6⟩

@[simp] theorem raise_mbs (d : Director) (a b : Nat) (l : List Byte) : (raise d a b l).mbs = d.mbs := by
  unfold raise; split <;> rfl

/-- A response stands in its mailbox, which is DONE (R430, R435). -/
theorem respond_mbx {d : Director} {n : Nat} {c : Cmd} (hc : (mbx d n).cmd = some c) (st : Nat) (p : List Byte) :
    mbx (respond d n st p) n = doneWith (rspOf c st p) (mbx d n) := by
  unfold respond
  rw [hc]
  simp only []
  split
  · unfold mbx; rw [raise_mbs]; exact mbx_modMbx _ _ _
  · exact mbx_modMbx _ _ _

/-- An event that the director raises waits for its ring entry when its source lives and is enabled (R445, R446). -/
theorem raise_decided (d : Director) (s det : Nat) (l : List Byte) :
    (raise d s det l).ring.decided = if sourceLive d s && d.ring.enable.getLsbD s then
      d.ring.decided ++ [{ source := s, detail := det, time := nowStamp d, data := padTo 12 l }] else d.ring.decided := by
  unfold raise; split <;> simp [*]

end Sys2Proof.Machine
end

