-- ==== Sys2Proof/Tests/Slice0.lean ====
section
/-! SUPPORT. Tests on fixed values, most of them the spec's own worked examples; the well-formedness
smoke test; and, for every statement with hypotheses, states and operands that meet them. Signatures
in them are computed outside the model, with the private key 1 or 2 of P-256. -/

namespace Sys2Proof.Tests
open Sys2Proof Sys2Proof.Machine

set_option Elab.async false

/-! A small running director: cells 0, 1 and node 3072 configured and PROVEN, arm 0 AUTHORITY in OFF, cycle 1,000. -/

def topoEntries : List CfgEntry := [{ pid := 2, elem := 0, data := [1, 1, 0, 0] }, { pid := 2, elem := 3072, data := [3, 0, 0, 0] }]

def upDir : Director := { State.reset.dir with
  boot := { State.reset.dir.boot with state := .run, ddrMiB := 16384 }
  time := { State.reset.dir.time with pllLock := true, running := true, sending := true, cycle := 1000, starts := 1000, raw := 12500000, len := 12500 }
  cfg := { State.reset.dir.cfg with parsed := [(0x0100, topoEntries)], inForce := [(0x0100, [2, 0, 0, 0, 4, 0, 0, 0, 1, 1, 0, 0])], baked := true }
  cells := [(0, { link := .proven }), (1, { link := .proven }), (3072, { link := .proven })]
  arms := [(0, { role := .authority })] }

def dirS (f : Director → Director) : State := { State.reset with dir := f upDir }
def up : State := dirS id
def cmdOf (op : BitVec 16) (p : List Byte) : Cmd :=
  { opcode := op, flags := 0, tag := 7, sequence := 1, payload := p, iface := .pcie }
/-- The running director with one command due in mailbox 0. -/
def due (op : BitVec 16) (p : List Byte) (f : Director → Director := id) : State :=
  dirS fun d => f { d with mbs := [(0, { state := .active, cmd := some (cmdOf op p) })] }
/-- The running director with the twin's mirror of the deadline's cycle. -/
def mirS (conv ab : List Byte) : State :=
  dirS fun d => { d with sk := { d.sk with blocks := [(0, mirrorCycle upDir, ab), (0x10, mirrorCycle upDir, conv)] }, time := { d.time with eps := [(1000, 0)] } }

/-- A half-bridge cell in READY with both links qualified, at cycle 1,000. -/
def upCell : Cell := { State.reset.cell with
  mode := .ready, variant := .half, locked := true, bypass := false, stage := 2, gdpg := true
  la := { mode := .proven, signal := true, placed := true, qual := true, cyc := 1000, treeId := some 0, since := 16 }
  lb := { mode := .proven, signal := true, placed := true, qual := true, cyc := 1000, treeId := some 128, since := 16 } }
def cellS (f : Cell → Cell) : State := { State.reset with cell := f upCell }
def cellUp : State := cellS id
def rec0 : OrdRec :=
  { cycle := 1000, cmd := 0, launch := 1000, duty := 0, seq := 0, flags := 64, clean := true, forced := false, link := .la, iarm := 0, checked := 0 }

/-- The running director with four active lanes and the Skeund key 5. -/
def lanesS : State := dirS fun d =>
  { d with sk := { d.sk with active := true, ownOk := 15, twinOk := 15, width := 4, lanes := [0, 1, 2, 3].map fun l => (l, { mode := .active }) }
           sec := { d.sec with skKey := some 5 } }
/-- The fold of CRC-32C, with each value computed before the next byte. -/
def crcGo : List Byte → Nat → Nat
  | [], c => c
  | b :: r, 0 => crcGo r (crc32cByte 0 b)
  | b :: r, c + 1 => crcGo r (crc32cByte (c + 1) b)
theorem crc_go (l : List Byte) : crc32c l = crcGo l 0xFFFFFFFF ^^^ 0xFFFFFFFF := by
  have h : ∀ (l : List Byte) (c : Nat), l.foldl crc32cByte c = crcGo l c := by
    intro l
    induction l with
    | nil => exact fun _ => rfl
    | cons b r ih => intro c; cases c <;> exact ih _
  unfold crc32c
  rw [h]
/-- Bytes with their CRC-32C. -/
def sealed (b : List Byte) : List Byte := b ++ toBE 4 (crcGo b 0xFFFFFFFF ^^^ 0xFFFFFFFF)
/-- A frame of the twin at cycle 1,000 on a logical lane: header, payload, tag under the key 5, CRC. -/
def twinSends (mirror : Bool) (lg : Nat) (block len : Nat) (payload : List Byte) : List Byte :=
  let b := [0, 0, 3, 232, 0, BitVec.ofNat 8 block] ++ toBE 2 (0x2000 + len) ++ payload
  sealed (b ++ toBE 8 (skTag 5 (skIv mirror 1 lg 0 1000) b))
/-- A converter block of zeros. -/
def twinFrame : List Byte := twinSends true 3 0x10 256 (zeros 256)
/-- An answer to a forwarded command. -/
def twinControl : List Byte := twinSends false 0 0x20 8 [0x80, 0, 5, 4, 0, 0, 0, 0]
/-- A time mark of the twin. -/
def twinMark : List Byte :=
  let b := [0, 0, 3, 232] ++ zeros 12
  sealed (b ++ toBE 8 ((gmac 5 ([0x23, 1, 0, 0xFF] ++ toBE 4 1000 ++ zeros 4) b).toNat / 2 ^ 64))

/-- The identity items 0 to 4 as the twin of the running director sends them. -/
def twinItems : Table (BitVec 128) := (List.range 5).map fun i => (i, identItem upDir false i)

theorem twinItems_ok : ∀ j, j < 6 → j ≠ 5 → (twinItems.find? (·.1 = j)).map (·.2) = some (identItem upDir false j) := by
  intro j h hne
  rcases j with _ | _ | _ | _ | _ | _ | j <;> first | rfl | exact absurd rfl hne | omega

/-- IDENT on lane 3 with the items 0 to 4 received. -/
def identS : State := dirS fun d => { d with sk := { d.sk with lanes := [(3, { mode := .ident, ident := twinItems })] } }

theorem identItem_lanes (x : Table Lane) (i : Nat) :
    identItem { upDir with sk := { upDir.sk with lanes := x } } false i = identItem upDir false i := by
  unfold identItem topoDigest redDigest
  rfl

theorem identS_item (i : Nat) : identItem identS.dir false i = identItem upDir false i := identItem_lanes _ i

theorem identS_ident : (lane identS.dir 3).ident = twinItems := rfl

/-! Operands: the worked examples of 00, 01, 02 and 03. -/

/-- 00, worked example "port numbers across variants". -/
theorem test_cell_1098_ports :
    cellPort 0x3072 1098 = some 17 ∧ cellPort 0x1536 1098 = some 9 ∧ cellPort 0x0768 1098 = some 5 ∧ portOf 0x0768 2 2 = none := by
  decide +kernel

/-- 01, worked example "10 µs cycle on the default plan": F, c = k + 1, M_c and E1. -/
theorem test_default_plan : planF [] = 11500 ∧ ordOfs [] = 1 ∧ mC [] = 3750 ∧ e1 [] = 306 := by decide +kernel

/-- ASYM_RATIO 300 and ASYM_FIXED 8 on port 11. -/
def cfg180 : Cfg := [(0x0100, [{ pid := 1, elem := 11, data := [0xE2, 4, 0x2C, 1, 8, 0, 0, 0] }])]

/-- 02, worked example "joining and proving a cell at 180 m": the coarse and the proven offsets. -/
theorem test_offsets_180m : offsetsOf cfg180 11 71414 = (35692, 35722) ∧ offsetsOf cfg180 11 71416 = (35693, 35723) := by
  decide +kernel

/-- 03, worked example "a trim order": SEQ, and the first seven bytes of the record. -/
theorem test_trim_record :
    seqOf 1000000 = 146 ∧ (recBytes { cmd := 5, launch := 3875, duty := 7865, seq := 146 }).take 7 = [0x50, 0x0F, 0x23, 0x1E, 0xB9, 0x92, 0] := by
  decide +kernel

/-! Arm control: the worked examples of 06 and 07. -/

/-- 480 half-bridge cells in arm 0; n = 12, m = 4, p = 6, r = 3. -/
def cfg480 : Cfg := [(0x0100, [{ pid := 2, elem := 0, data := List.replicate 480 1 }]),
  (0x1000, [{ pid := 2, elem := 0, data := [12, 0, 0, 0] }, { pid := 3, elem := 0, data := [4, 0, 0, 0] },
            { pid := 4, elem := 0, data := [6, 0, 0, 0] }, { pid := 5, elem := 0, data := [3, 0, 0, 0] }])]

/-- 06, worked example "step time": 585 clocks. -/
theorem test_step_time : tAce cfg480 0 = 1170 := by decide +kernel

/-- 06, the same example: 412,300.0 V at a mean of 1,950.0 V is 211 cells and 5,449 ticks. -/
theorem test_conversion :
    (convert cfg480 0 470 0x44F3C000 0x48C95180).1 = 211 ∧ (convert cfg480 0 470 0x44F3C000 0x48C95180).2.1 = 5449 := by
  decide +kernel

/-- v̂ of a cell in mV over a mean, as 07's example tabulates them. -/
def rankS (vhat : F32) (cmd : Nat) : Director := { upDir with
  cells := [(0, { link := .proven, vHat := vhat, sent := [{ cycle := 1000, cmd := cmd, launch := 0, duty := 0, seq := 0, flags := 0, type := none }] })]
  arms := [(0, { role := .authority, stepped := true, cycle := 1000, vbar := 0x44F3CA0C, iPred := 0x43FA0000, avail := [0], prevNeg := some false })] }

/-- 07, worked example "an eight-cell arm": the keys of S0 (2,086 mV above the mean), and of S5, which is not available. -/
theorem test_sort_keys :
    ((sortKeys (rankS 0x44F40CCD 0) 0)[0]?) = some 0x40104C00 ∧ ((sortKeys (rankS 0x44F40CCD 0) 0)[5]?) = some 0xFFFFFE05 := by
  decide +kernel

/-! Host interface: the worked example of 12. -/

/-- Converter time 0x6B2F1C40 s + 999,999,999.2 ns at the start tick. -/
def splitS : State := dirS fun d =>
  { d with time := { d.time with now := 0x6B2F1C40 * secUnit + 9999999992 * secUnit / 10000000000 } }

/-- 12, worked example "a split time read": TIME_SNAP_LO reads the nanoseconds and leaves the seconds in its own shadow. -/
theorem test_split_time_read :
    (match exec (.timeSnapLoRead .pcie 0) splitS with
     | .next t => decide (t.dir.tx = [.reply [0xFF, 0xC9, 0x9A, 0x3B]]) && t.dir.host.shadowPcie == 0x6B2F1C40 && t.dir.host.shadowSpi == 0
     | _ => false) = true := by
  decide +kernel

/-- A second ring of a mailbox that is not IDLE is rejected and changes nothing else (R430, R431). -/
theorem test_ring_twice :
    (match exec (.mbxRing .pcie 1) (dirS fun d => { d with mbs := [(0, { state := .done })] }) with
     | .next t => (mbx t.dir 0).state == .done && (mbx t.dir 0).reject
     | _ => false) = true := by
  decide +kernel

/-- DEV_ECHO answers its payload (R459). -/
theorem test_dev_echo :
    (match exec (.devEcho 0) (due 0x0100 [1, 2, 3, 4]) with
     | .next t => ((mbx t.dir 0).rsp.map (·.payload)) == some [1, 2, 3, 4] && (mbx t.dir 0).state == .done
     | _ => false) = true := by
  decide +kernel

/-- A command of another opcode in the mailbox leaves DEV_ECHO without effect. -/
theorem test_echo_of_another_command :
    (match exec (.devEcho 0) (due 0x0101 []) with
     | .next t => (mbx t.dir 0).state == .active
     | _ => false) = true := by
  decide +kernel

/-! Cell: the worked examples of 04 and 05. -/

/-- K_DIV0 1,000.0, OFS_DIV0 −0.120 V, g_chk -350 ppm, g_cal 120 ppm, o_cal 30 µV, CP_SVC_GAIN -150. -/
def measS : State := cellS fun c => { c with
  fuseA := BitVec.ofNat 1024 ((2 ^ 16 - 3500) * 2 ^ 216)
  board := { c.board with ofs0 := 0xBDF5C28F }
  params := [(0x44, 0xFFFFFF6A)]
  meas := { c.meas with gCal := 12000, oCal := 30, sets := [(999, 0, 12000, 30, -150)] } }

/-- 05, worked example "from codes to VINST and VCHK". -/
theorem test_vinst_vchk :
    (match exec (.sampleConversion [[62514, 62515, 62517, 62516]] [3908] 0) measS with
     | .next t => t.cell.meas.vinst == 7814658 && t.cell.meas.vchk == 1953 && !t.cell.meas.plaus
     | _ => false) = true := by
  decide +kernel

/-- A cell BYPASSED by orders, dead time 1,250 and minimum pulse 625, with a TRIM_POS order of this DUTY selected. -/
def trimS (duty : Nat) (carry : Int) : State := cellS fun c => { c with
  params := [(0x14, 1)]
  gates := { c.gates with state := .bypassed, base := .bypassed, g := 2, driven := true, carry := carry
                          active := { duty := 0, deadtime := 1250, minPulse := 625 }
                          pending := { duty := 0, deadtime := 1250, minPulse := 625 } }
  sel := some { rec0 with cmd := 5, launch := 3875, duty := duty, flags := 0 } }

/-- 04, worked example "a dropped trim pulse and its carry": cycle c drops 1,000 ticks and carries 625. -/
theorem test_trim_dropped :
    (match exec (.orderExecute 0) (trimS 5243 0) with
     | .next t => t.cell.gates.carry == 625 && t.cell.gates.edges == [] && t.cell.gates.state == .bypassed
     | _ => false) = true := by
  decide +kernel

/-- The same example: cycle c + 1 places 3,025 ticks, leading at 8,612 and trailing at 11,637. -/
theorem test_trim_placed :
    (match exec (.orderExecute 0) (trimS 12583 625) with
     | .next t => t.cell.gates.carry == 0 && t.cell.gates.edges == [.trim 8612 .insPos true, .trim 11637 .bypassed false]
     | _ => false) = true := by
  decide +kernel

/-- The over-voltage comparator bypasses a half-bridge cell and keeps it from orders (R176). -/
theorem test_ov1 :
    (match exec (.ov1Trip 100 5001) (cellS fun c => { c with params := [(0x18, 5)] }) with
     | .next t => t.cell.mode == .safeBypass && t.cell.gates.ov && t.cell.gates.state == .bypassed
     | _ => false) = true := by
  decide +kernel

/-! Well-formedness: for each kind of unit one past the last is refused, and the last is not. -/

theorem test_ill_formed :
    [.aceStep 6 .none, .orderAssembly 52, .quarantine 3168, .trainingFrameSend 4, .pdelayTimeout 2, .announceTimeout 2,
     .ppsMiss 2, .blockInAssert 4 0 0, .tqDataRead 6, .devEcho 4, .jobDispatch 4 none, .grantWait 6,
     .prbsCheckerResync .tree 52 0, .prbsCheckerResync .skeund 4 0, .prbsCheckerResync .timePort 2 0,
     .prbsCheckerResync .cellLink 2 0].all (fun i => !wellFormed i) = true := by
  decide

theorem test_well_formed :
    [.aceStep 5 .none, .orderAssembly 51, .quarantine 3167, .trainingFrameSend 3, .pdelayTimeout 1, .announceTimeout 1,
     .ppsMiss 1, .blockInAssert 3 0 0, .tqDataRead 5, .devEcho 3, .jobDispatch 3 none, .grantWait 5,
     .prbsCheckerResync .tree 51 0, .prbsCheckerResync .skeund 3 0, .prbsCheckerResync .timePort 1 0,
     .prbsCheckerResync .cellLink 1 0].all wellFormed = true := by
  decide

theorem test_ill_formed_is_refused : exec (.devEcho 4) State.reset = .refused .noSuchUnit := by rfl
theorem test_ill_formed_arm_is_refused : exec (.aceStep 6 .none) State.reset = .refused .noSuchUnit := by rfl
theorem test_ill_formed_prbs_is_refused : exec (.prbsCheckerResync .tree 52 0) State.reset = .refused .noSuchUnit := by rfl
theorem test_idle : step State.reset = .next State.reset := by rfl

/-! Keys and signatures of the witnesses: the owner's private key is 1, the key of every certificate is 2. -/

def ownerKey : List Byte := toBE 64 0x6b17d1f2e12c4247f8bce6e563a440f277037d812deb33a0f4a13945d898c2964fe342e2fe1a7f9b8ee7eb4a7c0f9e162bce33576b315ececbb6406837bf51f5
/-- A director certificate of the part under test for a side's code, signed by the owner. -/
def certOf (side : Byte) (sig : List Byte) : List Byte :=
  [1, 2, 0x80, side] ++ zeros 8 ++ [0x30, 0x72, 0] ++ toBE 33 0x037cf27b188d034f7e8a52380304b51ac3c08969e277f21b35a60b48fc47669978 ++ sig
def ownCert : List Byte := certOf 0 (toBE 64 0x8e533b6fa0bf7b4625bb30667c01fb607ef9f8b8a80fef5b300628703187b2a3beefe343542504541f195f476e557f9d30fd70c827ee35d0d8a446366590445a)
def sideYCert : List Byte := certOf 1 (toBE 64 0x8e533b6fa0bf7b4625bb30667c01fb607ef9f8b8a80fef5b300628703187b2a3ae46326e7725531cac8813de1e06db8fdf2e90db8741546204314dd9323a318e)
/-- The owner's key in force, nonce 0 outstanding, slot 1 verified. -/
def withOwner (d : Director) : Director :=
  { d with sec := { d.sec with ownerKey := ownerKey, noncePcie := some (0, 12500000) }, boot := { d.boot with slotB := { verified := true } } }

/-- A join exchange of cell 0 on port 0 with everything received: both keys' scalars known, this certificate and this signature. -/
def exch (cert sig : List Byte) : Exchange :=
  { cell := 0, variant := 1, deviceId := 0, nonce := 0, handle := 1, window := 0, dn := 0, up := 0, myNonce := 0, eph := 1, stepAt := 0
    chunks := [0x100, 0x101, 0x102, 0x103, 0x104, 0x105, 0x200, 0x201, 0x300, 0x301, 0x302, 0x303], cert := cert, pub := toBE 33 0x037cf27b188d034f7e8a52380304b51ac3c08969e277f21b35a60b48fc47669978, sig := sig }
def exchS (e : Exchange) : State := dirS fun d =>
  { d with cells := [(0, { link := .joining })], ports := [(0, { exchange := some e })], sec := { d.sec with ownerKey := ownerKey } }
def cellCert : List Byte := [1, 1, 0, 0] ++ zeros 8 ++ [0, 1, 0] ++ toBE 33 0x037cf27b188d034f7e8a52380304b51ac3c08969e277f21b35a60b48fc47669978 ++ toBE 64 0x8e533b6fa0bf7b4625bb30667c01fb607ef9f8b8a80fef5b300628703187b2a3a85c4bee0b3f7e2e4abd1c1918b1fc7661408a6396fbabe97cdfabccfa3c7978
/-- The 22 and 30 bytes of cell 0's slot and sub-slot burst of cycle 1,000 with payloads of zeros, under the session key 5. -/
def slotBytes : List Byte := withCrc16 (zeros 16 ++ toBE 4 (leftTag 32 (gmac 5 (iv 0x11 0 0 0 1000) (zeros 16))))
def subBytes : List Byte := withCrc16 (zeros 24 ++ toBE 4 (leftTag 32 (gmac 5 (iv 0x13 0 64 0 1000) (zeros 24))))
/-- An order frame of cycle 1,000 to tree 0 with no record for anyone, tagged under the key 5. -/
def witFrame : List Byte := toBE 4 1000 ++ zeros 588 ++ toBE 16 133538681812882773446010722366087036677 ++ toBE 4 2404974657

/-! The hypotheses of the statements can be met -/

theorem witness_StepIdlesOnAnEmptyQueue :
    ∃ (s : State), s.pending = [] :=
  ⟨State.reset, by decide +kernel⟩

theorem witness_CommandsLeaveTheQueue :
    ∃ (i : Instr) (s : State) (t : State), exec i s = .next t :=
  ⟨.ov1Rearm, State.reset, _, (rfl)⟩

theorem witness_EveryStepKeepsTheMemoriesCanonical :
    ∃ (s : State) (t : State), step s = .next t ∧ Inv s :=
  ⟨{ State.reset with pending := [.ov1Rearm] }, _, (rfl), by unfold Machine.Inv; decide +kernel⟩

theorem witness_SafeStatesStaySafe :
    ∃ (s : State), Safe s :=
  ⟨State.reset, by unfold Safe Machine.Inv; decide +kernel⟩

theorem witness_CommandsActOnOneChip :
    ∃ (i : Instr) (s : State) (t : State), exec i s = .next t :=
  ⟨.ov1Rearm, State.reset, _, (rfl)⟩

theorem witness_WritesReadBack :
    ∃ (m : Stores) (i : MemId) (a : Nat) (bs : List Byte), (∀ n, i = .window n → n < 4) ∧ memWf m = true :=
  ⟨State.reset.mem, (.window 3), 4095, [1], (by intro n h; cases h; decide), by decide +kernel⟩

theorem witness_HostReads :
    (∃ (s : State), s.dir.pins.resetN = true ∧ s.dir.frz.frozen = false) ∧
    (∃ (s : State) (i : Iface) (tick : Nat), s.dir.pins.resetN = true ∧ s.dir.frz.frozen = false) ∧
    (∃ (s : State) (i : Iface) (tick : Nat), s.dir.frz.frozen = false) ∧
    (∃ (s : State) (addr : Nat) (len : Nat) (tick : Nat) (code : BitVec 8), s.dir.pins.resetN = true) :=
  ⟨⟨up, by decide +kernel⟩,
   ⟨up, .pcie, 0, by decide +kernel⟩,
   ⟨up, .spi, 0, by decide +kernel⟩,
   ⟨up, 0, 0, 0, 0, by decide +kernel⟩⟩

theorem witness_MailboxBits :
    (∃ (s : State) (i : Iface) (n : Nat), n < 4 ∧ ifaceUp s.dir i = true) ∧
    (∃ (s : State) (n : Nat), n < 4 ∧ regsUp s.dir = true) :=
  ⟨⟨up, .pcie, 3, by decide +kernel⟩,
   ⟨up, 3, by decide +kernel⟩⟩

theorem witness_CommandWindowWrites :
    ∃ (s : State) (i : Iface) (n : Nat) (o : Nat) (data : List Byte), n < 4 ∧ 1 ≤ data.length ∧ o + data.length ≤ 4096 ∧ Inv s ∧ ifaceUp s.dir i = true ∧
      hostUp s.dir = true :=
  ⟨up, .pcie, 3, 4095, [1], by unfold Machine.Inv; decide +kernel⟩

theorem witness_HostRegisterWrites :
    (∃ (s : State) (v : BitVec 32), regsUp s.dir = true) ∧
    (∃ (s : State) (i : Iface) (o : Nat) (v : BitVec 32), o < 0x1000 ∧ ifaceUp s.dir i = true) :=
  ⟨⟨up, 0, by decide +kernel⟩,
   ⟨up, .pcie, 0xFFC, 0, by decide +kernel⟩⟩

theorem witness_PcieResetTouchesOnlyItsEndpoint :
    ∃ (s : State), s.dir.pins.resetN = true ∧ Inv s :=
  ⟨State.reset, by unfold Machine.Inv; decide +kernel⟩

theorem witness_CommandsBecomeJobs :
    (∃ (s : State) (n : Nat), (∀ r,
        (mbx s.dir n).last = some r → r.opcode.toNat ≠ leAt (rdBytes s.mem (.window n) 0 16) 0 2 ∨ r.sequence.toNat ≠ leAt (rdBytes s.mem (.window n) 0 16) 6 4) ∧
        n < 4 ∧ serves s.dir = true ∧ s.dir.frz.draining = false ∧ (mbx s.dir n).state = .pending ∧ (∀ k, k < n → (mbx s.dir k).state ≠ .pending) ∧
        (levelQ s.dir (mbxLevel n)).length < 256 ∧ ((flowOf s.dir n).next = (flowOf s.dir n).release ∨ (flowOf s.dir n).level = mbxLevel n) ∧
        headFails (s.dir.boot.state = .safe) (rdBytes s.mem (.window n) 0 16) = none ∧ leAt (rdBytes s.mem (.window n) 0 16) 4 2 ≤ 4080 ∧
        lenFits (leAt (rdBytes s.mem (.window n) 0 16) 0 2) (leAt (rdBytes s.mem (.window n) 0 16) 4 2) (rdBytes s.mem (.window n) 16 (leAt (rdBytes s.mem (.window n) 0 16) 4 2)) = true) ∧
    (∃ (s : State) (core : Nat) (l : Nat) (j : Job) (r : List Job), (∀ k, l < k → k < 8 → levelQ s.dir k = []) ∧ core < 4 ∧ serves s.dir = true ∧
        coreJob s.dir core = none ∧ l < 8 ∧ levelQ s.dir l = j :: r) ∧
    (∃ (s : State) (core : Nat) (j : Job) (releases : Bool), core < 4 ∧ serves s.dir = true ∧ coreJob s.dir core = some j) :=
  ⟨⟨{ (dirS fun d => { d with mbs := [(3, { state := .pending })] }) with mem := { State.reset.mem with win3 := [(1, 1), (6, 1)] } }, 3,
      (by intro r h; cases h), by decide +kernel⟩,
   ⟨(dirS fun d => { d with disp := { d.disp with levels := [(7, [{ id := 1, level := 7, flow := none, mb := none }])] } }), 3, 7,
      { id := 1, level := 7, flow := none, mb := none }, [], (by intro k a b; omega), by decide +kernel⟩,
   ⟨(dirS fun d => { d with disp := { d.disp with cores := [(3, some { id := 1, level := 7, flow := none, mb := none })] } }), 3,
      { id := 1, level := 7, flow := none, mb := none }, true, by decide +kernel⟩⟩

theorem witness_WritingRingEntries :
    (∃ (s : State) (e : Event) (r : List Event), serves s.dir = true ∧ s.dir.ring.decided = e :: r) ∧
    (∃ (s : State), serves s.dir = true ∧ s.dir.ring.ovf = true ∧ unread s.dir ≤ 2045 ∧ s.dir.ring.enable.getLsbD 96 = true) :=
  ⟨⟨(dirS fun d => { d with ring := { d.ring with decided := [{ source := 0, detail := 0, time := 0, data := [] }] } }),
      { source := 0, detail := 0, time := 0, data := [] }, [], by decide +kernel⟩,
   ⟨(dirS fun d => { d with ring := { d.ring with ovf := true } }), by decide +kernel⟩⟩

theorem witness_AppliedAndTimedOutCommandsAnswer :
    (∃ (s : State) (n : Nat) (c : Cmd), ((∃ i k, c.wait = .cell i k) ∨ c.wait = .twin) ∧ n < 4 ∧ serves s.dir = true ∧ (mbx s.dir n).cmd = some c ∧
        c.rungAt + classLimit s.dir c.opcode.toNat < s.dir.time.raw) ∧
    (∃ (s : State) (n : Nat) (c : Cmd) (st : BitVec 8) (p : List Byte), n < 4 ∧ serves s.dir = true ∧ (mbx s.dir n).cmd = some c ∧ c.outcome = some (st, p)) :=
  ⟨⟨(dirS fun d => { d with time := { d.time with raw := 10 ^ 13 }, mbs := [(3, { state := .active, cmd := some { cmdOf 0x0301 [] with wait := .cell 0 0 } })] }),
      3, { cmdOf 0x0301 [] with wait := .cell 0 0 }, (.inl ⟨0, 0, rfl⟩), by decide +kernel⟩,
   ⟨(dirS fun d => { d with mbs := [(3, { state := .active, cmd := some { cmdOf 0x0401 [] with outcome := some (0, []) } })] }), 3,
      { cmdOf 0x0401 [] with outcome := some (0, []) }, 0, [], by decide +kernel⟩⟩

theorem witness_DeviceCommands :
    (∃ (s : State) (mb : Nat) (c : Cmd), Due s mb 0x0100 c) ∧
    (∃ (s : State) (mb : Nat) (c : Cmd), Due s mb 0x0101 c) ∧
    (∃ (s : State) (mb : Nat) (c : Cmd), Due s mb 0x0102 c) ∧
    (∃ (s : State) (mb : Nat) (c : Cmd), Due s mb 0x0103 c ∧ leAt c.payload 0 4 = 0x51554E5A ∧ byteAt c.payload 4 ≤ 1 ∧
        allZero (sub c.payload 5 3) = true ∧ (byteAt c.payload 4 = 1 ∨ ∀ a, a < 6 → (arm s.dir a).role ≠ .authority ∨ operating (arm s.dir a).mode = false)) ∧
    (∃ (s : State) (mb : Nat) (c : Cmd) (a : Nat), Due s mb 0x0103 c ∧ byteAt c.payload 4 = 0 ∧ a < 6 ∧ (arm s.dir a).role = .authority ∧
        operating (arm s.dir a).mode = true) ∧
    (∃ (s : State), s.dir.frz.resetDue = true ∧ s.dir.frz.frozen = false) :=
  ⟨⟨(due 0x0100 []), 0, (cmdOf 0x0100 []), by unfold Due; decide +kernel⟩,
   ⟨(due 0x0101 []), 0, (cmdOf 0x0101 []), by unfold Due; decide +kernel⟩,
   ⟨(due 0x0102 []), 0, (cmdOf 0x0102 []), by unfold Due; decide +kernel⟩,
   ⟨(due 0x0103 [90, 78, 85, 81, 1, 0, 0, 0]), 0, (cmdOf 0x0103 [90, 78, 85, 81, 1, 0, 0, 0]), by unfold Due; decide +kernel⟩,
   ⟨(due 0x0103 [90, 78, 85, 81, 0, 0, 0, 0] (fun d => { d with arms := [(0, { role := .authority, mode := .auto })] })), 0,
      (cmdOf 0x0103 [90, 78, 85, 81, 0, 0, 0, 0]), 0, by unfold Due; decide +kernel⟩,
   ⟨(dirS fun d => { d with frz := { d.frz with resetDue := true } }), by decide +kernel⟩⟩

theorem witness_StagingAndDiscarding :
    (∃ (s : State) (mb : Nat) (c : Cmd) (m : _), (∀ j, s.dir.cfg.session = some j → j = c.iface) ∧ Due s mb 0x0200 c ∧ s.dir.cfg.bake = none ∧
        s.dir.cfg.offer = none ∧ sectMax (byteAt c.payload 0) (byteAt c.payload 1) = some m ∧ leAt c.payload 2 2 = 0 ∧ leAt c.payload 4 4 ≤ m ∧
        leAt c.payload 4 4 ≠ 0 ∧ leAt c.payload 8 4 + (c.payload.drop 12).length ≤ leAt c.payload 4 4) ∧
    (∃ (s : State) (mb : Nat) (c : Cmd), Due s mb 0x0201 c ∧ (sectMax (byteAt c.payload 0) (byteAt c.payload 1)).isSome ∧ byteAt c.payload 2 = 1 ∧
        byteAt c.payload 3 = 0 ∧ leAt c.payload 10 2 = 0 ∧ 0 < leAt c.payload 8 2 ∧ leAt c.payload 8 2 ≤ 4068 ∧
        leAt c.payload 4 4 + leAt c.payload 8 2 ≤ (tget [] (byteAt c.payload 0 * 256 + byteAt c.payload 1) s.dir.cfg.inForce).length) ∧
    (∃ (s : State) (mb : Nat) (c : Cmd), Due s mb 0x0202 c ∧ s.dir.cfg.session = none) ∧
    (∃ (s : State) (mb : Nat) (c : Cmd), Due s mb 0x0202 c ∧ s.dir.cfg.session = some c.iface ∧ s.dir.cfg.bake = none ∧ s.dir.cfg.offer = none) ∧
    (∃ (s : State) (mb : Nat) (c : Cmd) (k : Bake), Due s mb 0x0202 c ∧ s.dir.cfg.session = some c.iface ∧ s.dir.cfg.bake = some k ∧ k.own = true ∧
        s.dir.cfg.offer = none ∧ (k.staged = true → cycleDiff (cyc s.dir) (k.b - 256) ≤ 0)) ∧
    (∃ (s : State) (mb : Nat) (c : Cmd) (i : Iface), Due s mb 0x0202 c ∧ s.dir.cfg.session = some i ∧ i ≠ c.iface) :=
  ⟨⟨(due 0x0200 [2, 0, 0, 0, 4, 0, 0, 0, 0, 0, 0, 0, 1, 2, 3, 4]), 0, (cmdOf 0x0200 [2, 0, 0, 0, 4, 0, 0, 0, 0, 0, 0, 0, 1, 2, 3, 4]), 64,
      (by intro j h; cases h), by unfold Due; decide +kernel⟩,
   ⟨(due 0x0201 [1, 0, 1, 0, 0, 0, 0, 0, 12, 0, 0, 0]), 0, (cmdOf 0x0201 [1, 0, 1, 0, 0, 0, 0, 0, 12, 0, 0, 0]), by unfold Due; decide +kernel⟩,
   ⟨(due 0x0202 []), 0, (cmdOf 0x0202 []), by unfold Due; decide +kernel⟩,
   ⟨(due 0x0202 [] (fun d => { d with cfg := { d.cfg with session := some .pcie } })), 0, (cmdOf 0x0202 []), by unfold Due; decide +kernel⟩,
   ⟨(due 0x0202 [] (fun d => { d with cfg := { d.cfg with session := some .pcie, bake := some { b := 1256, report := {}, staged := true, content := [] } } })),
      0, (cmdOf 0x0202 []), { b := 1256, report := {}, staged := true, content := [] }, by unfold Due; decide +kernel⟩,
   ⟨(due 0x0202 [] (fun d => { d with cfg := { d.cfg with session := some .spi } })), 0, (cmdOf 0x0202 []), .spi, by unfold Due; decide +kernel⟩⟩

theorem witness_BakeCommands :
    (∃ (s : State) (mb : Nat) (c : Cmd), Due s mb 0x0203 c ∧ s.dir.cfg.session = some c.iface ∧ s.dir.cfg.bake = none ∧ s.dir.cfg.offer = none ∧
        byteAt c.payload 4 = 1 ∧ allZero (sub c.payload 5 3) = true ∧ bakeFail s.dir s.dir.cfg.staged = none) ∧
    (∃ (s : State) (mb : Nat) (c : Cmd) (f : BakeFail), Due s mb 0x0203 c ∧ s.dir.cfg.session = some c.iface ∧ s.dir.cfg.bake = none ∧
        s.dir.cfg.offer = none ∧ byteAt c.payload 4 = 1 ∧ allZero (sub c.payload 5 3) = true ∧ bakeFail s.dir s.dir.cfg.staged = some f) ∧
    (∃ (s : State) (mb : Nat) (c : Cmd), Due s mb 0x0203 c ∧ s.dir.cfg.session = none) ∧
    (∃ (s : State) (mb : Nat) (c : Cmd), Due s mb 0x0204 c) ∧
    (∃ (s : State) (mb : Nat) (c : Cmd), Due s mb 0x0205 c) :=
  ⟨⟨(due 0x0203 [0, 0, 0, 0, 1, 0, 0, 0] (fun d => { d with cfg := { d.cfg with session := some .pcie } })), 0, (cmdOf 0x0203 [0, 0, 0, 0, 1, 0, 0, 0]),
      by unfold Due; decide +kernel⟩,
   ⟨(due 0x0203 [0, 0, 0, 0, 1, 0, 0, 0] (fun d => { d with cfg := { d.cfg with session := some .pcie, staged := [(0x0200, [1])] } })), 0,
      (cmdOf 0x0203 [0, 0, 0, 0, 1, 0, 0, 0]), ((bakeFail upDir [(0x0200, [1])]).get (by decide +kernel)), by unfold Due; decide +kernel⟩,
   ⟨(due 0x0203 []), 0, (cmdOf 0x0203 []), by unfold Due; decide +kernel⟩,
   ⟨(due 0x0204 []), 0, (cmdOf 0x0204 []), by unfold Due; decide +kernel⟩,
   ⟨(due 0x0205 []), 0, (cmdOf 0x0205 []), by unfold Due; decide +kernel⟩⟩

theorem witness_TheBakeTakesEffect :
    (∃ (s : State) (k : Bake) (f : BakeFail), works s.dir = true ∧ s.dir.time.running = true ∧ s.dir.cfg.bake = some k ∧ k.staged = false ∧
        k.checked = false ∧ cycleDiff k.b (cyc s.dir) = 1 ∧ stateFail s.dir (parseAll k.content) = some f) ∧
    (∃ (s : State) (k : Bake), works s.dir = true ∧ s.dir.time.running = true ∧ s.dir.cfg.bake = some k ∧ k.staged = false ∧ k.checked = false ∧
        cycleDiff k.b (cyc s.dir) = 1 ∧ stateFail s.dir (parseAll k.content) = none) ∧
    (∃ (s : State) (k : Bake), works s.dir = true ∧ s.dir.time.running = true ∧ s.dir.cfg.bake = some k ∧ k.checked = true ∧ k.own = true ∧ cyc s.dir = k.b) :=
  ⟨⟨(dirS fun d => { d with arms := [(0, { role := .authority, mode := .auto })], cfg := { d.cfg with bake := some { b := 1001, report := {}, staged := false, content := [(0x1000, [5, 0, 0, 0, 4, 0, 0, 0, 1, 0, 0, 0])] } } }),
      { b := 1001, report := {}, staged := false, content := [(0x1000, [5, 0, 0, 0, 4, 0, 0, 0, 1, 0, 0, 0])] },
      ((stateFail (dirS fun d => { d with arms := [(0, { role := .authority, mode := .auto })] }).dir (parseAll [(0x1000, [5, 0, 0, 0, 4, 0, 0, 0, 1, 0, 0, 0])])).get (by decide +kernel)),
      by decide +kernel⟩,
   ⟨(dirS fun d => { d with cfg := { d.cfg with bake := some { b := 1001, report := {}, staged := false, content := [] } } }),
      { b := 1001, report := {}, staged := false, content := [] }, by decide +kernel⟩,
   ⟨(dirS fun d => { d with cfg := { d.cfg with bake := some { b := 1000, report := {}, staged := false, content := [], checked := true } } }),
      { b := 1000, report := {}, staged := false, content := [], checked := true }, by decide +kernel⟩⟩

theorem witness_UnconfirmedCellsAreWithdrawn :
    ∃ (s : State) (k : Bake) (id : Nat) (n : Nat), works s.dir = true ∧ s.dir.time.running = true ∧ s.dir.cfg.bake = some k ∧ k.staged = true ∧
      cyc s.dir = k.b - 64 ∧ s.dir.cells = [(id, cellRec s.dir id)] ∧ (cellRec s.dir id).link = .proven ∧ configured (cfg s.dir) id = true ∧
      (cellRec s.dir id).withdrawn = none ∧ unconfirmed s.dir (parseAll k.content) id = true ∧ cellPort (part s.dir) id = some n :=
  ⟨(dirS fun d => { d with cells := [(0, { link := .proven })], cfg := { d.cfg with bake := some { b := 1064, report := {}, staged := true, content := [(0x1100, [1, 0, 0, 0, 4, 0, 0, 0, 5, 0, 0, 0])] } } }),
   { b := 1064, report := {}, staged := true, content := [(0x1100, [1, 0, 0, 0, 4, 0, 0, 0, 5, 0, 0, 0])] }, 0, 0, by decide +kernel⟩

theorem witness_CellCommands :
    (∃ (s : State) (mb : Nat) (c : Cmd), Due s mb 0x0300 c ∧ 0 < leAt c.payload 2 2 ∧ leAt c.payload 2 2 ≤ 255 ∧
        leAt c.payload 0 2 + leAt c.payload 2 2 ≤ 3168) ∧
    (∃ (s : State) (mb : Nat) (c : Cmd) (id : Nat), Due s mb 0x0305 c ∧ leAt c.payload 0 2 = id ∧ leAt c.payload 2 2 = 0 ∧ cellValid s.dir id = true) ∧
    (∃ (s : State) (mb : Nat) (c : Cmd) (id : Nat) (ap : Nat), Due s mb 0x0306 c ∧ s.dir.cfg.baked = true ∧ leAt c.payload 0 2 = id ∧
        leAt c.payload 2 2 = 0 ∧ cellValid s.dir id = true ∧ id < 3072 ∧ leAt c.payload 4 4 = ap ∧ 2 ≤ cycleDiff (BitVec.ofNat 32 ap) (cyc s.dir) ∧
        cycleDiff (BitVec.ofNat 32 ap) (cyc s.dir) ≤ 65536 ∧ (arm s.dir (id / 512)).pInject.length < 8) ∧
    (∃ (s : State) (mb : Nat) (c : Cmd) (id : Nat) (n : Nat), Due s mb 0x0301 c ∧ leAt c.payload 0 2 = id ∧ cellValid s.dir id = true ∧
        (cellRec s.dir id).link = .proven ∧ 0 < byteAt c.payload 4 ∧ byteAt c.payload 4 ≤ 4 ∧ allZero (sub c.payload 5 3) = true ∧
        cellPort (part s.dir) id = some n) ∧
    (∃ (s : State) (mb : Nat) (c : Cmd) (id : Nat) (n : Nat), Due s mb 0x0307 c ∧ leAt c.payload 0 2 = id ∧ cellValid s.dir id = true ∧
        (cellRec s.dir id).link = .proven ∧ byteAt c.payload 2 ≤ 2 ∧ byteAt c.payload 3 = 0 ∧ 0 < leAt c.payload 6 2 ∧ leAt c.payload 6 2 ≤ 60 ∧
        cellPort (part s.dir) id = some n) ∧
    (∃ (s : State) (mb : Nat) (c : Cmd) (id : Nat) (n : Nat), Due s mb 0x0302 c ∧ leAt c.payload 0 2 = id ∧ cellValid s.dir id = true ∧
        (cellRec s.dir id).link = .proven ∧ (3072 ≤ id ∨ (arm s.dir (id / 512)).role = .authority) ∧ 0 < byteAt c.payload 4 ∧ byteAt c.payload 4 ≤ 12 ∧
        allZero (sub c.payload 5 3) = true ∧ (∀ j, j < byteAt c.payload 4 → writeBarred s.dir id (leAt c.payload 2 2 + j) = false) ∧
        cellPort (part s.dir) id = some n) ∧
    (∃ (s : State) (mb : Nat) (c : Cmd) (id : Nat) (n : Nat), Due s mb 0x0303 c ∧ leAt c.payload 0 2 = id ∧ cellValid s.dir id = true ∧
        (cellRec s.dir id).link = .proven ∧ (3072 ≤ id ∨ (arm s.dir (id / 512)).role = .authority) ∧ 0 < byteAt c.payload 2 ∧ byteAt c.payload 2 ≤ 3 ∧
        byteAt c.payload 3 = 0 ∧ cellPort (part s.dir) id = some n) ∧
    (∃ (s : State) (mb : Nat) (c : Cmd) (id : Nat) (n : Nat), Due s mb 0x0304 c ∧ leAt c.payload 0 2 = id ∧ cellValid s.dir id = true ∧
        (cellRec s.dir id).link = .proven ∧ (3072 ≤ id ∨ (arm s.dir (id / 512)).role = .authority) ∧ byteAt c.payload 2 ≤ 1 ∧ byteAt c.payload 3 = 0 ∧
        (byteAt c.payload 2 = 1 → (cellRec s.dir id).sealed = true) ∧ cellPort (part s.dir) id = some n) ∧
    (∃ (s : State) (mb : Nat) (c : Cmd) (id : Nat), Due s mb 0x0303 c ∧ leAt c.payload 0 2 = id ∧ cellValid s.dir id = true ∧
        (cellRec s.dir id).link ≠ .proven) :=
  ⟨⟨(due 0x0300 [97, 11, 255, 0]), 0, (cmdOf 0x0300 [97, 11, 255, 0]), by unfold Due; decide +kernel⟩,
   ⟨(due 0x0305 [0, 0, 0, 0]), 0, (cmdOf 0x0305 [0, 0, 0, 0]), 0, by unfold Due; decide +kernel⟩,
   ⟨(due 0x0306 [0, 0, 0, 0, 234, 3, 0, 0]), 0, (cmdOf 0x0306 [0, 0, 0, 0, 234, 3, 0, 0]), 0, 1002, by unfold Due; decide +kernel⟩,
   ⟨(due 0x0301 [0, 0, 0, 0, 4, 0, 0, 0]), 0, (cmdOf 0x0301 [0, 0, 0, 0, 4, 0, 0, 0]), 0, 0, by unfold Due; decide +kernel⟩,
   ⟨(due 0x0307 [0, 0, 2, 0, 0, 0, 60, 0]), 0, (cmdOf 0x0307 [0, 0, 2, 0, 0, 0, 60, 0]), 0, 0, by unfold Due; decide +kernel⟩,
   ⟨(due 0x0302 [0, 0, 0x12, 0, 1, 0, 0, 0, 1, 0, 0, 0]), 0, (cmdOf 0x0302 [0, 0, 0x12, 0, 1, 0, 0, 0, 1, 0, 0, 0]), 0, 0, by unfold Due; decide +kernel⟩,
   ⟨(due 0x0303 [0, 0, 3, 0]), 0, (cmdOf 0x0303 [0, 0, 3, 0]), 0, 0, by unfold Due; decide +kernel⟩,
   ⟨(due 0x0304 [0, 0, 1, 0] (fun d => { d with cells := [(0, { link := .proven, sealed := true })] })), 0, (cmdOf 0x0304 [0, 0, 1, 0]), 0, 0,
      by unfold Due; decide +kernel⟩,
   ⟨(due 0x0303 [0, 0, 3, 0] (fun d => { d with cells := [(0, { link := .lost })] })), 0, (cmdOf 0x0303 [0, 0, 3, 0]), 0, by unfold Due; decide +kernel⟩⟩

theorem witness_ArmAndBalancingCommands :
    (∃ (s : State) (mb : Nat) (c : Cmd) (a : Nat), Due s mb 0x0400 c ∧ byteAt c.payload 0 = a ∧ a < 6 ∧ allZero (sub c.payload 1 3) = true) ∧
    (∃ (s : State) (mb : Nat) (c : Cmd) (a : Nat) (ap : Nat), Due s mb 0x0401 c ∧ byteAt c.payload 0 = a ∧ a < 6 ∧ byteAt c.payload 1 ≤ 4 ∧
        leAt c.payload 2 2 = 0 ∧ leAt c.payload 4 4 = ap ∧ (arm s.dir a).pMode = none ∧ ((arm s.dir a).role = .authority ∨ ((arm s.dir a).role ≠ .isolated ∧
        freeChange (arm s.dir a).mode (modeOf (byteAt c.payload 1)) = true)) ∧ inTable (arm s.dir a).mode (modeOf (byteAt c.payload 1)) = true ∧
        (if (arm s.dir a).mode = .precharge ∧ byteAt c.payload 1 = 2 then c.payload.length = 40 ∧ ∀ j,
        j < 8 → finiteAt c.payload (8 + 4 * j) = true else c.payload.length = 8) ∧ s.dir.cfg.baked = true ∧ s.dir.cfg.bake = none ∧ s.dir.time.step = none ∧
        testBars s.dir a (modeOf (byteAt c.payload 1)) = false ∧ 2 ≤ cycleDiff (BitVec.ofNat 32 ap) (cyc s.dir) ∧
        cycleDiff (BitVec.ofNat 32 ap) (cyc s.dir) ≤ 65536) ∧
    (∃ (s : State) (mb : Nat) (c : Cmd) (a : Nat) (ap : Nat), Due s mb 0x0406 c ∧ byteAt c.payload 0 = a ∧ a < 6 ∧ byteAt c.payload 1 ≤ 2 ∧
        leAt c.payload 2 2 = 0 ∧ (byteAt c.payload 1 = 2 → ∀ j, j < 8 → finiteAt c.payload (8 + 4 * j) = true) ∧ leAt c.payload 4 4 = ap ∧
        (arm s.dir a).role = .authority ∧ (arm s.dir a).pMode = none ∧ s.dir.cfg.baked = true ∧ s.dir.cfg.bake = none ∧
        2 ≤ cycleDiff (BitVec.ofNat 32 ap) (cyc s.dir) ∧ cycleDiff (BitVec.ofNat 32 ap) (cyc s.dir) ≤ 65536) ∧
    (∃ (s : State) (mb : Nat) (c : Cmd) (a : Nat) (ap : Nat), Due s mb 0x0402 c ∧ byteAt c.payload 0 = a ∧ a < 6 ∧ allZero (sub c.payload 1 3) = true ∧
        leAt c.payload 4 4 = ap ∧ (arm s.dir a).role = .authority ∧ s.dir.cfg.baked = true ∧ setFull (arm s.dir a).pManual ap = false ∧ (∀ j,
        j < 8 → finiteAt c.payload (8 + 4 * j) = true ∧ (dimM (cfg s.dir) a ≤ j → leAt c.payload (8 + 4 * j) 4 % 2 ^ 31 = 0)) ∧
        2 ≤ cycleDiff (BitVec.ofNat 32 ap) (cyc s.dir) ∧ cycleDiff (BitVec.ofNat 32 ap) (cyc s.dir) ≤ 65536) ∧
    (∃ (s : State) (mb : Nat) (c : Cmd) (a : Nat) (ap : Nat), Due s mb 0x0403 c ∧ byteAt c.payload 0 = a ∧ a < 6 ∧ byteAt c.payload 1 ≠ 0 ∧
        byteAt c.payload 1 < 2 ^ dimR (cfg s.dir) a ∧ leAt c.payload 2 2 = 0 ∧ leAt c.payload 4 4 = ap ∧ (arm s.dir a).role = .authority ∧
        s.dir.cfg.baked = true ∧ (∀ j, j < 8 → finiteAt c.payload (8 + 4 * j) = true) ∧ setFull (arm s.dir a).pRef ap = false ∧
        2 ≤ cycleDiff (BitVec.ofNat 32 ap) (cyc s.dir) ∧ cycleDiff (BitVec.ofNat 32 ap) (cyc s.dir) ≤ 65536) ∧
    (∃ (s : State) (mb : Nat) (c : Cmd) (a : Nat) (ap : Nat), Due s mb 0x0404 c ∧ byteAt c.payload 0 = a ∧ a < 6 ∧ injectFields s.dir c.payload = true ∧
        byteAt c.payload 3 ≠ 0 ∧ leAt c.payload 4 4 = ap ∧ (arm s.dir a).role = .authority ∧ s.dir.cfg.baked = true ∧ (arm s.dir a).pInj = none ∧
        (arm s.dir a).inj = none ∧ 2 ≤ cycleDiff (BitVec.ofNat 32 ap) (cyc s.dir) ∧ cycleDiff (BitVec.ofNat 32 ap) (cyc s.dir) ≤ 65536) ∧
    (∃ (s : State) (mb : Nat) (c : Cmd) (a : Nat) (ap : Nat), Due s mb 0x0404 c ∧ byteAt c.payload 0 = a ∧ a < 6 ∧ injectFields s.dir c.payload = true ∧
        byteAt c.payload 3 = 0 ∧ leAt c.payload 4 4 = ap ∧ (arm s.dir a).role = .authority ∧ s.dir.cfg.baked = true ∧ (arm s.dir a).pStop = none ∧
        2 ≤ cycleDiff (BitVec.ofNat 32 ap) (cyc s.dir) ∧ cycleDiff (BitVec.ofNat 32 ap) (cyc s.dir) ≤ 65536) ∧
    (∃ (s : State) (mb : Nat) (c : Cmd) (tick : Nat) (a : Nat), Due s mb 0x0405 c ∧ byteAt c.payload 0 < 64 ∧ allZero (sub c.payload 1 3) = true ∧ a < 6 ∧
        (byteAt c.payload 0).testBit a = true ∧ (arm s.dir a).role ≠ .isolated) ∧
    (∃ (s : State) (mb : Nat) (c : Cmd) (tick : Nat), Due s mb 0x0405 c ∧ byteAt c.payload 0 < 64 ∧ (∀ a,
        a < 6 → (byteAt c.payload 0).testBit a = true → (arm s.dir a).role = .isolated)) ∧
    (∃ (s : State) (mb : Nat) (c : Cmd) (a : Nat) (n : Nat) (ap : Nat), Due s mb 0x0500 c ∧ byteAt c.payload 0 = a ∧ a < 6 ∧ byteAt c.payload 1 ≤ 1 ∧
        leAt c.payload 2 2 = n ∧ 1 ≤ n ∧ n ≤ 64 ∧ c.payload.length = 8 + 2 * n ∧ leAt c.payload 4 4 = ap ∧ (arm s.dir a).role = .authority ∧
        s.dir.cfg.baked = true ∧ (∀ q, q ∈ slotsOf c.payload → q ≤ 511 ∧ configured (cfg s.dir) (a * 512 + q) = true) ∧
        setFull (arm s.dir a).pExclude ap = false ∧ (byteAt c.payload 1 = 1 → ((arm s.dir a).excluded ++ slotsOf c.payload).eraseDups.length ≤ 64) ∧
        2 ≤ cycleDiff (BitVec.ofNat 32 ap) (cyc s.dir) ∧ cycleDiff (BitVec.ofNat 32 ap) (cyc s.dir) ≤ 65536) ∧
    (∃ (s : State) (mb : Nat) (c : Cmd) (a : Nat) (k : Cycle), Due s mb 0x0501 c ∧ byteAt c.payload 0 = a ∧ a < 6 ∧ allZero (sub c.payload 1 3) = true ∧
        (arm s.dir a).ranked = some k) ∧
    (∃ (s : State) (mb : Nat) (c : Cmd) (a : Nat), Due s mb 0x0501 c ∧ byteAt c.payload 0 = a ∧ a < 6 ∧ (arm s.dir a).ranked = none) ∧
    (∃ (s : State) (mb : Nat) (c : Cmd) (a : Nat) (x : _) (n : Nat), Due s mb 0x0502 c ∧ byteAt c.payload 0 = a ∧ a < 6 ∧ byteAt c.payload 1 = x ∧
        leAt c.payload 2 2 = 0 ∧ (arm s.dir a).role = .authority ∧ parm (armS (cfg s.dir) a) 50 0 0 ≠ 0 ∧ portOf (part s.dir) a x = some n ∧
        treeOn (cfg s.dir) (part s.dir) n = true) ∧
    (∃ (s : State) (mb : Nat) (c : Cmd) (a : Nat), Due s mb 0x0503 c ∧ byteAt c.payload 0 = a ∧ a < 6 ∧ byteAt c.payload 1 = 0xFF ∧
        leAt c.payload 2 2 = 0 ∧ (arm s.dir a).role = .authority ∧ parm (armS (cfg s.dir) a) 50 0 0 ≠ 0) ∧
    (∃ (s : State) (mb : Nat) (c : Cmd) (a : Nat) (x : Nat) (n : Nat), Due s mb 0x0503 c ∧ byteAt c.payload 0 = a ∧ a < 6 ∧ byteAt c.payload 1 = x ∧
        leAt c.payload 2 2 = 0 ∧ x ≠ 0xFF ∧ (arm s.dir a).role = .authority ∧ parm (armS (cfg s.dir) a) 50 0 0 ≠ 0 ∧ portOf (part s.dir) a x = some n ∧
        treeOn (cfg s.dir) (part s.dir) n = true) ∧
    (∃ (s : State) (mb : Nat) (c : Cmd) (a : Nat) (q : Nat), Due s mb 0x0504 c ∧ byteAt c.payload 0 = a ∧ a < 6 ∧ byteAt c.payload 1 = 0 ∧
        leAt c.payload 2 2 = q ∧ (q ≤ 511 ∨ q = 0xFFFF) ∧ (arm s.dir a).role = .authority) :=
  ⟨⟨(due 0x0400 [5, 0, 0, 0]), 0, (cmdOf 0x0400 [5, 0, 0, 0]), 5, by unfold Due; decide +kernel⟩,
   ⟨(due 0x0401 [0, 1, 0, 0, 234, 3, 0, 0]), 0, (cmdOf 0x0401 [0, 1, 0, 0, 234, 3, 0, 0]), 0, 1002, by unfold Due; decide +kernel⟩,
   ⟨(due 0x0406 [0, 1, 0, 0, 234, 3, 0, 0] (fun d => { d with arms := [(0, { role := .authority, mode := .blocked })] })), 0,
      (cmdOf 0x0406 [0, 1, 0, 0, 234, 3, 0, 0]), 0, 1002, by unfold Due; decide +kernel⟩,
   ⟨(due 0x0402 ([0, 0, 0, 0, 234, 3, 0, 0] ++ zeros 32)), 0, (cmdOf 0x0402 ([0, 0, 0, 0, 234, 3, 0, 0] ++ zeros 32)), 0, 1002,
      by unfold Due; decide +kernel⟩,
   ⟨(due 0x0403 ([0, 1, 0, 0, 234, 3, 0, 0] ++ zeros 32) (fun d => { d with cfg := { d.cfg with parsed := d.cfg.parsed ++ [(0x1000, [{ pid := 5, elem := 0, data := [1, 0, 0, 0] }])] } })),
      0, (cmdOf 0x0403 ([0, 1, 0, 0, 234, 3, 0, 0] ++ zeros 32)), 0, 1002, by unfold Due; decide +kernel⟩,
   ⟨(due 0x0404 [0, 1, 0, 1, 234, 3, 0, 0, 1, 0, 0, 0, 0, 0, 0, 0, 0, 0, 0, 0, 0, 0, 0, 0, 1, 0, 0, 0] (fun d => { d with cfg := { d.cfg with parsed := d.cfg.parsed ++ [(0x1000, [{ pid := 5, elem := 0, data := [1, 0, 0, 0] }])] } })),
      0, (cmdOf 0x0404 [0, 1, 0, 1, 234, 3, 0, 0, 1, 0, 0, 0, 0, 0, 0, 0, 0, 0, 0, 0, 0, 0, 0, 0, 1, 0, 0, 0]), 0, 1002, by unfold Due; decide +kernel⟩,
   ⟨(due 0x0404 ([0, 0, 0, 0, 234, 3, 0, 0] ++ zeros 20)), 0, (cmdOf 0x0404 ([0, 0, 0, 0, 234, 3, 0, 0] ++ zeros 20)), 0, 1002,
      by unfold Due; decide +kernel⟩,
   ⟨(due 0x0405 [1, 0, 0, 0]), 0, (cmdOf 0x0405 [1, 0, 0, 0]), 0, 0, by unfold Due; decide +kernel⟩,
   ⟨(due 0x0405 [63, 0, 0, 0] (fun d => { d with arms := [] })), 0, (cmdOf 0x0405 [63, 0, 0, 0]), 0, by unfold Due; decide +kernel⟩,
   ⟨(due 0x0500 [0, 1, 1, 0, 234, 3, 0, 0, 1, 0]), 0, (cmdOf 0x0500 [0, 1, 1, 0, 234, 3, 0, 0, 1, 0]), 0, 1, 1002, by unfold Due; decide +kernel⟩,
   ⟨(due 0x0501 [0, 0, 0, 0] (fun d => { d with arms := [(0, { role := .authority, ranked := some 999 })] })), 0, (cmdOf 0x0501 [0, 0, 0, 0]), 0, 999,
      by unfold Due; decide +kernel⟩,
   ⟨(due 0x0501 [5, 0, 0, 0]), 0, (cmdOf 0x0501 [5, 0, 0, 0]), 5, by unfold Due; decide +kernel⟩,
   ⟨(due 0x0502 [0, 0, 0, 0] (fun d => { d with cfg := { d.cfg with parsed := d.cfg.parsed ++ [(0x1000, [{ pid := 50, elem := 0, data := [1, 0, 0, 0] }])] } })),
      0, (cmdOf 0x0502 [0, 0, 0, 0]), 0, 0, 0, by unfold Due; decide +kernel⟩,
   ⟨(due 0x0503 [0, 255, 0, 0] (fun d => { d with cfg := { d.cfg with parsed := d.cfg.parsed ++ [(0x1000, [{ pid := 50, elem := 0, data := [1, 0, 0, 0] }])] } })),
      0, (cmdOf 0x0503 [0, 255, 0, 0]), 0, by unfold Due; decide +kernel⟩,
   ⟨(due 0x0503 [0, 0, 0, 0] (fun d => { d with cfg := { d.cfg with parsed := d.cfg.parsed ++ [(0x1000, [{ pid := 50, elem := 0, data := [1, 0, 0, 0] }])] } })),
      0, (cmdOf 0x0503 [0, 0, 0, 0]), 0, 0, 0, by unfold Due; decide +kernel⟩,
   ⟨(due 0x0504 [0, 0, 255, 255]), 0, (cmdOf 0x0504 [0, 0, 255, 255]), 0, 65535, by unfold Due; decide +kernel⟩⟩

theorem witness_RedundancyCommands :
    (∃ (s : State) (mb : Nat) (c : Cmd) (a : Nat), Due s mb 0x0600 c ∧ byteAt c.payload 0 = a ∧ a < 6 ∧ allZero (sub c.payload 1 3) = true) ∧
    (∃ (s : State) (mb : Nat) (c : Cmd) (a : Nat) (n : Nat) (ap : Nat), Due s mb 0x0601 c ∧ byteAt c.payload 0 = a ∧ a < 6 ∧ byteAt c.payload 1 = 0 ∧
        leAt c.payload 2 2 = n ∧ 1 ≤ n ∧ n ≤ 64 ∧ c.payload.length = 8 + 2 * n ∧ leAt c.payload 4 4 = ap ∧ s.dir.cfg.baked = true ∧
        (arm s.dir a).role ≠ .isolated ∧ (∀ q, q ∈ slotsOf c.payload → q ≤ 511 ∧ configured (cfg s.dir) (a * 512 + q) = true) ∧
        2 ≤ cycleDiff (BitVec.ofNat 32 ap) (cyc s.dir) ∧ cycleDiff (BitVec.ofNat 32 ap) (cyc s.dir) ≤ 65536) ∧
    (∃ (s : State) (mb : Nat) (c : Cmd) (a : Nat) (ap : Nat), Due s mb 0x0602 c ∧ byteAt c.payload 0 = a ∧ a < 6 ∧ byteAt c.payload 1 ≤ 1 ∧
        leAt c.payload 2 2 = 0 ∧ leAt c.payload 4 4 = ap ∧ s.dir.cfg.baked = true ∧
        (byteAt c.payload 1 = 1 → (arm s.dir a).role = .authority → energised (arm s.dir a).mode = true → twinShadow s.dir a = true) ∧
        2 ≤ cycleDiff (BitVec.ofNat 32 ap) (cyc s.dir) ∧ cycleDiff (BitVec.ofNat 32 ap) (cyc s.dir) ≤ 65536) ∧
    (∃ (s : State) (mb : Nat) (c : Cmd) (a : Nat) (h : _), Due s mb 0x0603 c ∧ byteAt c.payload 0 = a ∧ a < 6 ∧ allZero (sub c.payload 1 3) = true ∧
        leAt c.payload 4 4 = h ∧ s.dir.cfg.baked = true ∧ (arm s.dir a).role = .authority ∧ tget 0xFF a s.dir.sk.twinRole = 2 ∧
        ((arm s.dir a).mode = .precharge ∨ operating (arm s.dir a).mode = true) ∧ (arm s.dir a).pHandover = none ∧ (arm s.dir a).yielding = none ∧
        2 ≤ cycleDiff (BitVec.ofNat 32 h) (cyc s.dir) ∧ cycleDiff (BitVec.ofNat 32 h) (cyc s.dir) ≤ 65536) ∧
    (∃ (s : State) (mb : Nat) (c : Cmd) (a : Nat), Due s mb 0x0603 c ∧ byteAt c.payload 0 = a ∧ a < 6 ∧ (arm s.dir a).role ≠ .authority) :=
  ⟨⟨(due 0x0600 [5, 0, 0, 0]), 0, (cmdOf 0x0600 [5, 0, 0, 0]), 5, by unfold Due; decide +kernel⟩,
   ⟨(due 0x0601 [0, 0, 1, 0, 234, 3, 0, 0, 1, 0]), 0, (cmdOf 0x0601 [0, 0, 1, 0, 234, 3, 0, 0, 1, 0]), 0, 1, 1002, by unfold Due; decide +kernel⟩,
   ⟨(due 0x0602 [0, 1, 0, 0, 234, 3, 0, 0]), 0, (cmdOf 0x0602 [0, 1, 0, 0, 234, 3, 0, 0]), 0, 1002, by unfold Due; decide +kernel⟩,
   ⟨(due 0x0603 [0, 0, 0, 0, 234, 3, 0, 0] (fun d => { d with arms := [(0, { role := .authority, mode := .auto })], sk := { d.sk with twinRole := [(0, 2)] } })),
      0, (cmdOf 0x0603 [0, 0, 0, 0, 234, 3, 0, 0]), 0, 1002, by unfold Due; decide +kernel⟩,
   ⟨(due 0x0603 [5, 0, 0, 0]), 0, (cmdOf 0x0603 [5, 0, 0, 0]), 5, by unfold Due; decide +kernel⟩⟩

theorem witness_TimeCommands :
    (∃ (s : State) (mb : Nat) (c : Cmd) (tick : Nat), Due s mb 0x0700 c) ∧
    (∃ (s : State) (mb : Nat) (c : Cmd), Due s mb 0x0701 c ∧ byteAt c.payload 0 ≤ 1 ∧ allZero (sub c.payload 1 3) = true) ∧
    (∃ (s : State) (mb : Nat) (c : Cmd) (at_ : Nat), Due s mb 0x0702 c ∧ leAt c.payload 12 4 = at_ ∧ s.dir.cfg.baked = true ∧ (∀ a,
        a < 6 → offPre (arm s.dir a).mode = true) ∧ (∀ a, a < 6 → (arm s.dir a).pMode = none) ∧ s.dir.time.source ≠ .twin ∧
        fld (leAt c.payload 0 12) 47 16 ≤ 999999999 ∧ leAt c.payload 16 4 = 0 ∧ 2 ≤ cycleDiff (BitVec.ofNat 32 at_) (cyc s.dir) ∧
        cycleDiff (BitVec.ofNat 32 at_) (cyc s.dir) ≤ 65536 ∧ s.dir.time.step = none) ∧
    (∃ (s : State) (mb : Nat) (c : Cmd) (a : Nat), Due s mb 0x0702 c ∧ a < 6 ∧ offPre (arm s.dir a).mode = false) ∧
    (∃ (s : State) (mb : Nat) (c : Cmd), Due s mb 0x0703 c ∧ byteAt c.payload 0 ≤ 1 ∧ allZero (sub c.payload 1 3) = true ∧
        (dom s.dir (byteAt c.payload 0)).mode = .suspect) ∧
    (∃ (s : State) (mb : Nat) (c : Cmd), Due s mb 0x0703 c ∧ byteAt c.payload 0 ≤ 1 ∧ (dom s.dir (byteAt c.payload 0)).mode ≠ .suspect) :=
  ⟨⟨(due 0x0700 []), 0, (cmdOf 0x0700 []), 0, by unfold Due; decide +kernel⟩,
   ⟨(due 0x0701 [1, 0, 0, 0]), 0, (cmdOf 0x0701 [1, 0, 0, 0]), by unfold Due; decide +kernel⟩,
   ⟨(due 0x0702 [0, 0, 0, 0, 0, 0, 0, 0, 0, 0, 0, 0, 234, 3, 0, 0, 0, 0, 0, 0]), 0,
      (cmdOf 0x0702 [0, 0, 0, 0, 0, 0, 0, 0, 0, 0, 0, 0, 234, 3, 0, 0, 0, 0, 0, 0]), 1002, by unfold Due; decide +kernel⟩,
   ⟨(due 0x0702 [] (fun d => { d with arms := [(0, { role := .authority, mode := .auto })] })), 0, (cmdOf 0x0702 []), 0, by unfold Due; decide +kernel⟩,
   ⟨(due 0x0703 [1, 0, 0, 0] (fun d => { d with time := { d.time with domB := { d.time.domB with mode := .suspect } } })), 0,
      (cmdOf 0x0703 [1, 0, 0, 0]), by unfold Due; decide +kernel⟩,
   ⟨(due 0x0703 [0, 0, 0, 0]), 0, (cmdOf 0x0703 [0, 0, 0, 0]), by unfold Due; decide +kernel⟩⟩

theorem witness_RecorderCommands :
    (∃ (s : State) (mb : Nat) (c : Cmd), Due s mb 0x0800 c) ∧
    (∃ (s : State) (mb : Nat) (c : Cmd) (i : Nat), Due s mb 0x0801 c ∧ s.dir.rcd.mode = .stopped ∧ s.dir.cfg.baked = true ∧ firstFree s.dir = some i ∧
        drainFits s.dir = true) ∧
    (∃ (s : State) (mb : Nat) (c : Cmd), Due s mb 0x0801 c ∧ s.dir.rcd.mode ≠ .stopped) ∧
    (∃ (s : State) (mb : Nat) (c : Cmd) (i : Nat), Due s mb 0x0802 c ∧ s.dir.rcd.mode = .armed ∧ s.dir.rcd.seg = some i ∧ i < 16) ∧
    (∃ (s : State) (mb : Nat) (c : Cmd) (i : Nat), Due s mb 0x0802 c ∧ s.dir.rcd.mode = .triggered ∧ s.dir.rcd.seg = some i ∧ i < 16 ∧
        segMode s.dir i = .triggered) ∧
    (∃ (s : State) (mb : Nat) (c : Cmd), Due s mb 0x0802 c ∧ s.dir.rcd.mode = .stopped) ∧
    (∃ (s : State) (mb : Nat) (c : Cmd) (ap : Nat), Due s mb 0x0803 c ∧ leAt c.payload 0 4 = ap ∧ s.dir.cfg.baked = true ∧ s.dir.rcd.pCmd = none ∧
        2 ≤ cycleDiff (BitVec.ofNat 32 ap) (cyc s.dir) ∧ cycleDiff (BitVec.ofNat 32 ap) (cyc s.dir) ≤ 65536) ∧
    (∃ (s : State) (mb : Nat) (c : Cmd) (i : Nat), Due s mb 0x0804 c ∧ byteAt c.payload 0 = i ∧ allZero (sub c.payload 1 3) = true ∧
        i < segCount (cfg s.dir) ∧ segMode s.dir i = .closed) ∧
    (∃ (s : State) (mb : Nat) (c : Cmd) (i : Nat), Due s mb 0x0805 c ∧ byteAt c.payload 0 = i ∧ allZero (sub c.payload 1 3) = true ∧
        i < segCount (cfg s.dir) ∧ segMode s.dir i = .closed) ∧
    (∃ (s : State) (mb : Nat) (c : Cmd) (i : Nat) (n : Nat), Due s mb 0x0806 c ∧ byteAt c.payload 0 = i ∧ allZero (sub c.payload 1 3) = true ∧
        i < segCount (cfg s.dir) ∧ segMode s.dir i = .closed ∧ leAt c.payload 12 4 = n ∧ 1 ≤ n ∧ n ≤ 4064 ∧ leAt c.payload 4 8 + n ≤ segLen s.dir i) ∧
    (∃ (s : State) (mb : Nat) (c : Cmd), Due s mb 0x0807 c ∧ byteAt c.payload 0 ≤ 1 ∧ allZero (sub c.payload 1 3) = true) :=
  ⟨⟨(due 0x0800 []), 0, (cmdOf 0x0800 []), by unfold Due; decide +kernel⟩,
   ⟨(due 0x0801 []), 0, (cmdOf 0x0801 []), 0, by unfold Due; decide +kernel⟩,
   ⟨(due 0x0801 [] (fun d => { d with rcd := { d.rcd with mode := .armed } })), 0, (cmdOf 0x0801 []), by unfold Due; decide +kernel⟩,
   ⟨(due 0x0802 [] (fun d => { d with rcd := { d.rcd with mode := .armed, seg := some 15 } })), 0, (cmdOf 0x0802 []), 15, by unfold Due; decide +kernel⟩,
   ⟨(due 0x0802 [] (fun d => { d with rcd := { d.rcd with mode := .triggered, seg := some 15, segs := [(15, .triggered)] } })), 0, (cmdOf 0x0802 []), 15,
      by unfold Due; decide +kernel⟩,
   ⟨(due 0x0802 []), 0, (cmdOf 0x0802 []), by unfold Due; decide +kernel⟩,
   ⟨(due 0x0803 [234, 3, 0, 0]), 0, (cmdOf 0x0803 [234, 3, 0, 0]), 1002, by unfold Due; decide +kernel⟩,
   ⟨(due 0x0804 [0, 0, 0, 0] (fun d => { d with rcd := { d.rcd with segs := [(0, .closed)] } })), 0, (cmdOf 0x0804 [0, 0, 0, 0]), 0,
      by unfold Due; decide +kernel⟩,
   ⟨(due 0x0805 [0, 0, 0, 0] (fun d => { d with rcd := { d.rcd with segs := [(0, .closed)] } })), 0, (cmdOf 0x0805 [0, 0, 0, 0]), 0,
      by unfold Due; decide +kernel⟩,
   ⟨(due 0x0806 [0, 0, 0, 0, 0, 0, 0, 0, 0, 0, 0, 0, 1, 0, 0, 0] (fun d => { d with rcd := { d.rcd with segs := [(0, .closed)] } })), 0,
      (cmdOf 0x0806 [0, 0, 0, 0, 0, 0, 0, 0, 0, 0, 0, 0, 1, 0, 0, 0]), 0, 1, by unfold Due; decide +kernel⟩,
   ⟨(due 0x0807 [1, 0, 0, 0]), 0, (cmdOf 0x0807 [1, 0, 0, 0]), by unfold Due; decide +kernel⟩⟩

theorem witness_DiagnosticsCommands :
    (∃ (s : State) (mb : Nat) (c : Cmd) (l : List Counter), scopeOf s.dir (byteAt c.payload 0) (leAt c.payload 2 2) = some l ∧ Due s mb 0x0900 c ∧
        byteAt c.payload 1 ≤ 1 ∧ 1 ≤ leAt c.payload 6 2 ∧ leAt c.payload 6 2 ≤ 1016 ∧ leAt c.payload 4 2 + leAt c.payload 6 2 ≤ l.length ∧
        8 ≤ c.payload.length) ∧
    (∃ (s : State) (mb : Nat) (c : Cmd) (a : Nat), Due s mb 0x0900 c ∧ byteAt c.payload 0 = 3 ∧ leAt c.payload 2 2 = a ∧ a < 6 ∧ byteAt c.payload 1 = 1 ∧
        leAt c.payload 4 2 = 0 ∧ leAt c.payload 6 2 = 1) ∧
    (∃ (s : State) (mb : Nat) (c : Cmd) (id : Nat) (n : Nat), Due s mb 0x0901 c ∧ leAt c.payload 0 2 = id ∧ cellValid s.dir id = true ∧
        (cellRec s.dir id).link = .proven ∧ (3072 ≤ id ∨ (arm s.dir (id / 512)).role = .authority) ∧ byteAt c.payload 2 ≤ 2 ∧ byteAt c.payload 3 = 0 ∧
        cellPort (part s.dir) id = some n ∧ (byteAt c.payload 2 ≠ 0 → (s.dir.cells.filter fun (i,
        r) => i != id && r.diagMode != 0 && cellPort (part s.dir) i = some n).length < 2)) ∧
    (∃ (s : State) (mb : Nat) (c : Cmd), Due s mb 0x0902 c ∧ 1 ≤ leAt c.payload 0 2 ∧ leAt c.payload 0 2 ≤ 169 ∧ leAt c.payload 2 2 = 0) ∧
    (∃ (s : State) (mb : Nat) (c : Cmd), Due s mb 0x0903 c ∧ byteAt c.payload 0 < 6 ∧ byteAt c.payload 1 = 0 ∧ leAt c.payload 2 2 ≤ 511 ∧
        4 ≤ c.payload.length) ∧
    (∃ (s : State) (mb : Nat) (c : Cmd) (id : Nat) (n : Nat), Due s mb 0x0904 c ∧ leAt c.payload 0 2 = id ∧ cellValid s.dir id = true ∧
        (cellRec s.dir id).link = .proven ∧ (3072 ≤ id ∨ (arm s.dir (id / 512)).role = .authority) ∧ byteAt c.payload 2 ≤ 1 ∧ byteAt c.payload 3 = 0 ∧
        cellPort (part s.dir) id = some n) ∧
    (∃ (s : State) (mb : Nat) (c : Cmd) (id : Nat) (n : Nat), Due s mb 0x0909 c ∧ leAt c.payload 0 2 = id ∧ cellValid s.dir id = true ∧
        (cellRec s.dir id).link = .proven ∧ (3072 ≤ id ∨ (arm s.dir (id / 512)).role = .authority) ∧ leAt c.payload 2 2 = 0 ∧
        cellPort (part s.dir) id = some n) ∧
    (∃ (s : State) (mb : Nat) (c : Cmd) (k : Nat) (i : Nat), Due s mb 0x0905 c ∧ byteAt c.payload 0 = k ∧ byteAt c.payload 1 = i ∧
        laneKnown s.dir k i = true ∧ byteAt c.payload 2 ≤ 2 ∧ byteAt c.payload 3 ≤ 3 ∧ byteAt c.payload 4 ≤ 3 ∧ allZero (sub c.payload 5 3) = true ∧
        (byteAt c.payload 2 = 1 → testAllowed s.dir k i = true)) ∧
    (∃ (s : State) (mb : Nat) (c : Cmd) (i : Nat) (a : Nat), Due s mb 0x0905 c ∧ byteAt c.payload 0 = 1 ∧ byteAt c.payload 1 = i ∧ i < 4 ∧
        byteAt c.payload 2 = 1 ∧ a < 6 ∧ (arm s.dir a).mode ≠ .off) ∧
    (∃ (s : State) (mb : Nat) (c : Cmd) (line : List Bool) (k : Nat) (i : Nat), Due s mb 0x0906 c ∧ byteAt c.payload 0 = k ∧ (k = 1 ∨ k = 2) ∧
        byteAt c.payload 1 = i ∧ laneKnown s.dir k i = true ∧ byteAt c.payload 2 ≤ 3 ∧ byteAt c.payload 3 = 0 ∧
        (byteAt c.payload 2 ≤ 1 → (prbsOf s.dir k i).testMode = true ∨ (prbsOf s.dir k i).manual = true) ∧ (byteAt c.payload 2 = 2 → k = 1 ∧
        (lane s.dir i).mode = .align)) ∧
    (∃ (s : State) (mb : Nat) (c : Cmd), Due s mb 0x0907 c ∧ byteAt c.payload 0 ≤ 2 ∧ byteAt c.payload 1 = 0 ∧ leAt c.payload 6 2 = 0 ∧
        (byteAt c.payload 0 = 0 → s.dir.disp.tracing = false ∧ 1 ≤ leAt c.payload 4 2 ∧ leAt c.payload 4 2 ≤ 254 ∧
        leAt c.payload 2 2 + leAt c.payload 4 2 ≤ s.dir.disp.trace.length) ∧ (byteAt c.payload 0 ≠ 0 → leAt c.payload 4 2 = 0)) ∧
    (∃ (s : State) (mb : Nat) (c : Cmd), Due s mb 0x0908 c ∧ leAt c.payload 0 4 = 0x465A5251 ∧ leAt c.payload 4 4 = 0) ∧
    (∃ (s : State) (mb : Nat) (c : Cmd), Due s mb 0x0908 c ∧ leAt c.payload 0 4 ≠ 0x465A5251) :=
  ⟨⟨(due 0x0900 [6, 1, 0, 0, 17, 0, 1, 0]), 0, (cmdOf 0x0900 [6, 1, 0, 0, 17, 0, 1, 0]), ((scopeOf upDir 6 0).getD []), rfl,
      by unfold Due; decide +kernel⟩,
   ⟨(due 0x0900 [3, 1, 5, 0, 0, 0, 1, 0]), 0, (cmdOf 0x0900 [3, 1, 5, 0, 0, 0, 1, 0]), 5, by unfold Due; decide +kernel⟩,
   ⟨(due 0x0901 [0, 0, 2, 0]), 0, (cmdOf 0x0901 [0, 0, 2, 0]), 0, 0, by unfold Due; decide +kernel⟩,
   ⟨(due 0x0902 [169, 0, 0, 0]), 0, (cmdOf 0x0902 [169, 0, 0, 0]), by unfold Due; decide +kernel⟩,
   ⟨(due 0x0903 [5, 0, 255, 1]), 0, (cmdOf 0x0903 [5, 0, 255, 1]), by unfold Due; decide +kernel⟩,
   ⟨(due 0x0904 [0, 0, 1, 0]), 0, (cmdOf 0x0904 [0, 0, 1, 0]), 0, 0, by unfold Due; decide +kernel⟩,
   ⟨(due 0x0909 [0, 0, 0, 0]), 0, (cmdOf 0x0909 [0, 0, 0, 0]), 0, 0, by unfold Due; decide +kernel⟩,
   ⟨(due 0x0905 [0, 51, 2, 3, 3, 0, 0, 0]), 0, (cmdOf 0x0905 [0, 51, 2, 3, 3, 0, 0, 0]), 0, 51, by unfold Due; decide +kernel⟩,
   ⟨(due 0x0905 [1, 3, 1, 0, 0, 0, 0, 0] (fun d => { d with arms := [(5, { mode := .blocked })] })), 0, (cmdOf 0x0905 [1, 3, 1, 0, 0, 0, 0, 0]), 3, 5,
      by unfold Due; decide +kernel⟩,
   ⟨(due 0x0906 [2, 1, 1, 0] (fun d => { d with prbs := [(5, { testMode := true })] })), 0, (cmdOf 0x0906 [2, 1, 1, 0]), [], 2, 1,
      by unfold Due; decide +kernel⟩,
   ⟨(due 0x0907 [2, 0, 0, 0, 0, 0, 0, 0]), 0, (cmdOf 0x0907 [2, 0, 0, 0, 0, 0, 0, 0]), by unfold Due; decide +kernel⟩,
   ⟨(due 0x0908 [81, 82, 90, 70, 0, 0, 0, 0]), 0, (cmdOf 0x0908 [81, 82, 90, 70, 0, 0, 0, 0]), by unfold Due; decide +kernel⟩,
   ⟨(due 0x0908 [0, 0, 0, 0]), 0, (cmdOf 0x0908 [0, 0, 0, 0]), by unfold Due; decide +kernel⟩⟩

theorem witness_NoncesAndAuthorisation :
    (∃ (s : State) (mb : Nat) (c : Cmd), Due s mb 0x0A00 c) ∧
    (∃ (d : Director) (c : Cmd) (v : BitVec 128) (at_ : Nat) (key : List Byte), nonceOf d c.iface = some (v, at_) ∧
        (at_ + 75000000000 < d.time.raw ∨ v.toNat ≠ beAt c.payload (c.payload.length - 80) 16)) ∧
    (∃ (s : State) (mb : Nat) (c : Cmd) (i : Nat), Due s mb 0x0A03 c ∧ authOk s.dir c (ownerKeyInForce s.mem s.dir) = true ∧ byteAt c.payload 0 = i ∧
        i ≤ 1 ∧ allZero (sub c.payload 1 3) = true ∧ (slotWrite s.dir i).verified = true) ∧
    (∃ (s : State) (mb : Nat) (c : Cmd), Due s mb 0x0A03 c ∧ authOk s.dir c (ownerKeyInForce s.mem s.dir) = false) ∧
    (∃ (s : State) (mb : Nat) (c : Cmd), Due s mb 0x0A03 c ∧ nonceOf s.dir c.iface = none) ∧
    (∃ (s : State) (mb : Nat) (c : Cmd), Due s mb 0x0A04 c ∧ byteAt c.payload 0 = 2 ∧ byteAt c.payload 1 = 0 ∧ leAt c.payload 2 2 = 112 ∧
        authOk s.dir c (ownerKeyInForce s.mem s.dir) = true ∧ certGood s.mem s.dir (sub c.payload 4 112) = true) ∧
    (∃ (s : State) (mb : Nat) (c : Cmd) (n : Nat) (key : List Byte), Due s mb 0x0A04 c ∧ byteAt c.payload 0 = 1 ∧ byteAt c.payload 1 = 0 ∧
        leAt c.payload 2 2 = 64 ∧ key = sub c.payload 4 64 ∧ onCurve key = true ∧ freeHash s.dir = some n ∧
        authOk s.dir c (if (fusedOwnerHash s.dir).isNone then key else ownerKeyInForce s.mem s.dir) = true) :=
  ⟨⟨(due 0x0a00 []), 0, (cmdOf 0x0a00 []), by unfold Due; decide +kernel⟩,
   ⟨{ upDir with sec := { upDir.sec with noncePcie := some (0, 0) }, time := { upDir.time with raw := 75000000001 } }, (cmdOf 0x0A03 []), 0, 0, [],
      by decide +kernel⟩,
   ⟨(due 0x0a03 ([1, 0, 0, 0] ++ zeros 16 ++ toBE 64 0x8e533b6fa0bf7b4625bb30667c01fb607ef9f8b8a80fef5b300628703187b2a33940000cf21ea25c62233db5d1991122d3d29b2501cd73106ee08c452eaf37d4) withOwner),
      0,
      (cmdOf 0x0a03 ([1, 0, 0, 0] ++ zeros 16 ++ toBE 64 0x8e533b6fa0bf7b4625bb30667c01fb607ef9f8b8a80fef5b300628703187b2a33940000cf21ea25c62233db5d1991122d3d29b2501cd73106ee08c452eaf37d4)),
      1, by unfold Due; decide +kernel⟩,
   ⟨(due 0x0a03 []), 0, (cmdOf 0x0a03 []), by unfold Due; decide +kernel⟩,
   ⟨(due 0x0a03 []), 0, (cmdOf 0x0a03 []), by unfold Due; decide +kernel⟩,
   ⟨(due 0x0a04 ([2, 0, 112, 0] ++ ownCert ++ zeros 16 ++ toBE 64 0x8e533b6fa0bf7b4625bb30667c01fb607ef9f8b8a80fef5b300628703187b2a3c37df5eda77266df43212e0d0f2fb68cf7f244a4700a2a3dc205f14d2df8b912) withOwner),
      0,
      (cmdOf 0x0a04 ([2, 0, 112, 0] ++ ownCert ++ zeros 16 ++ toBE 64 0x8e533b6fa0bf7b4625bb30667c01fb607ef9f8b8a80fef5b300628703187b2a3c37df5eda77266df43212e0d0f2fb68cf7f244a4700a2a3dc205f14d2df8b912)),
      by unfold Due; decide +kernel⟩,
   ⟨(due 0x0a04 ([1, 0, 64, 0] ++ ownerKey ++ zeros 16 ++ toBE 64 0x8e533b6fa0bf7b4625bb30667c01fb607ef9f8b8a80fef5b300628703187b2a3f217d06ecc8da536ddc38ae181c9f26a2fd99eeac6db1860c77c459222e4e528) withOwner),
      0,
      (cmdOf 0x0a04 ([1, 0, 64, 0] ++ ownerKey ++ zeros 16 ++ toBE 64 0x8e533b6fa0bf7b4625bb30667c01fb607ef9f8b8a80fef5b300628703187b2a3f217d06ecc8da536ddc38ae181c9f26a2fd99eeac6db1860c77c459222e4e528)),
      0, ownerKey, by unfold Due; decide +kernel⟩⟩

theorem witness_ImagesKeysAndLog :
    (∃ (s : State) (mb : Nat) (c : Cmd) (i : Nat) (o : Nat), Due s mb 0x0A01 c ∧ byteAt c.payload 0 = i ∧ i ≤ 1 ∧
        (s.dir.boot.state = .run → i ≠ s.dir.boot.slot) ∧ allZero (sub c.payload 1 3) = true ∧ leAt c.payload 4 4 = o ∧
        (o = 0 ∨ (slotWrite s.dir i).next = some o) ∧ c.payload.length ≤ 4076 ∧ 9 ≤ c.payload.length ∧ o + (c.payload.length - 8) ≤ slotSize s.dir ∧
        memWf s.mem = true) ∧
    (∃ (s : State) (mb : Nat) (c : Cmd), Due s mb 0x0A01 c ∧ s.dir.boot.state = .run ∧ byteAt c.payload 0 = s.dir.boot.slot) ∧
    (∃ (s : State) (mb : Nat) (c : Cmd) (i : Nat), Due s mb 0x0A02 c ∧ byteAt c.payload 0 = i ∧ i ≤ 1 ∧ allZero (sub c.payload 1 3) = true) ∧
    (∃ (s : State) (mb : Nat) (c : Cmd) (n : Nat), Due s mb 0x0A05 c ∧ byteAt c.payload 0 = 1 ∧ byteAt c.payload 1 = n ∧ leAt c.payload 2 2 = 0 ∧
        s.dir.time.running = true ∧ portHere (part s.dir) n = true ∧ (port s.dir n).rekeyMb = none) ∧
    (∃ (s : State) (mb : Nat) (c : Cmd), Due s mb 0x0A05 c ∧ byteAt c.payload 0 = 0 ∧ leAt c.payload 2 2 = 0 ∧ s.dir.time.running = true ∧ (∀ n,
        n ∈ ports (part s.dir) → (port s.dir n).rekeyMb = none)) ∧
    (∃ (s : State) (mb : Nat) (c : Cmd), Due s mb 0x0A05 c ∧ byteAt c.payload 0 = 2 ∧ leAt c.payload 2 2 = 0) ∧
    (∃ (s : State) (mb : Nat) (c : Cmd) (id : Nat) (n : Nat), Due s mb 0x0A06 c ∧ leAt c.payload 0 2 = id ∧ leAt c.payload 2 2 = 0 ∧
        cellValid s.dir id = true ∧ (cellRec s.dir id).link = .proven ∧ (3072 ≤ id ∨ (arm s.dir (id / 512)).role = .authority) ∧
        cellPort (part s.dir) id = some n) ∧
    (∃ (s : State) (mb : Nat) (c : Cmd) (n : Nat), Due s mb 0x0A07 c ∧ leAt c.payload 4 2 = n ∧ 1 ≤ n ∧ n ≤ 4072 ∧ leAt c.payload 6 2 = 0 ∧
        leAt c.payload 0 4 + n ≤ 1048576) :=
  ⟨⟨(due 0x0a01 [1, 0, 0, 0, 8, 0, 0, 0, 5] (fun d => { d with boot := { d.boot with slotB := { next := some 8 } } })), 0,
      (cmdOf 0x0a01 [1, 0, 0, 0, 8, 0, 0, 0, 5]), 1, 8, by unfold Due; decide +kernel⟩,
   ⟨(due 0x0a01 [0]), 0, (cmdOf 0x0a01 [0]), by unfold Due; decide +kernel⟩,
   ⟨(due 0x0a02 [1, 0, 0, 0]), 0, (cmdOf 0x0a02 [1, 0, 0, 0]), 1, by unfold Due; decide +kernel⟩,
   ⟨(due 0x0a05 [1, 47, 0, 0]), 0, (cmdOf 0x0a05 [1, 47, 0, 0]), 47, by unfold Due; decide +kernel⟩,
   ⟨(due 0x0a05 [0, 0, 0, 0]), 0, (cmdOf 0x0a05 [0, 0, 0, 0]), by unfold Due; decide +kernel⟩,
   ⟨(due 0x0a05 [2, 0, 0, 0]), 0, (cmdOf 0x0a05 [2, 0, 0, 0]), by unfold Due; decide +kernel⟩,
   ⟨(due 0x0a06 [0, 0, 0, 0]), 0, (cmdOf 0x0a06 [0, 0, 0, 0]), 0, 0, by unfold Due; decide +kernel⟩,
   ⟨(due 0x0a07 [0, 0, 0, 0, 1, 0, 0, 0]), 0, (cmdOf 0x0a07 [0, 0, 0, 0, 1, 0, 0, 0]), 1, by unfold Due; decide +kernel⟩⟩

theorem witness_EventCommands :
    (∃ (s : State) (mb : Nat) (c : Cmd), Due s mb 0x0B00 c ∧ byteAt c.payload 0 ≤ 3 ∧ allZero (sub c.payload 1 3) = true) ∧
    (∃ (s : State) (mb : Nat) (c : Cmd), Due s mb 0x0B01 c ∧ byteAt c.payload 4 = 0 ∧ allZero (sub c.payload 5 3) = true ∧
        leAt c.payload 0 2 + leAt c.payload 2 2 ≤ 260) ∧
    (∃ (s : State) (mb : Nat) (c : Cmd) (x : Nat) (n : Nat), Due s mb 0x0B01 c ∧ byteAt c.payload 4 = 1 ∧ allZero (sub c.payload 5 3) = true ∧
        leAt c.payload 0 2 = x ∧ leAt c.payload 2 2 = n ∧ (c.payload.drop 8).length = n ∧ (∀ v, v ∈ c.payload.drop 8 → v.toNat ≤ 31) ∧ x + n ≤ 260) :=
  ⟨⟨(due 0x0b00 [3, 0, 0, 0]), 0, (cmdOf 0x0b00 [3, 0, 0, 0]), by unfold Due; decide +kernel⟩,
   ⟨(due 0x0b01 [255, 0, 5, 0, 0, 0, 0, 0]), 0, (cmdOf 0x0b01 [255, 0, 5, 0, 0, 0, 0, 0]), by unfold Due; decide +kernel⟩,
   ⟨(due 0x0b01 [255, 0, 5, 0, 1, 0, 0, 0, 31, 0, 0, 0, 31]), 0, (cmdOf 0x0b01 [255, 0, 5, 0, 1, 0, 0, 0, 31, 0, 0, 0, 31]), 255, 5,
      by unfold Due; decide +kernel⟩⟩

theorem witness_CyclesStart :
    (∃ (s : State), works s.dir = true ∧ s.dir.time.running = true) ∧
    (∃ (s : State), works s.dir = true ∧ s.dir.time.running = false ∧ s.dir.cfg.baked = false) ∧
    (∃ (s : State) (e : Int), works s.dir = true ∧ s.dir.time.running = false ∧ s.dir.cfg.baked = true ∧ s.dir.time.epoch = some e ∧ e ≤ s.dir.time.now) :=
  ⟨⟨up, by decide +kernel⟩,
   ⟨(dirS fun d => { d with time := { d.time with running := false }, cfg := { d.cfg with baked := false } }), by decide +kernel⟩,
   ⟨(dirS fun d => { d with time := { d.time with running := false, epoch := some 0 } }), 0, by decide +kernel⟩⟩

theorem witness_ControlSteps :
    (∃ (s : State) (a : Nat), a < 6 ∧ works s.dir = true ∧ s.dir.time.running = true ∧ (armCells (cfg s.dir) a ≠ [] ∨ awaited (arm s.dir a) = true)) ∧
    (∃ (s : State) (a : Nat), a < 6 ∧ works s.dir = true ∧ s.dir.time.running = true ∧ (armCells (cfg s.dir) a ≠ [] ∨ awaited (arm s.dir a) = true)) ∧
    (∃ (s : State) (a : Nat) (x : Nat), a < 6 ∧ works s.dir = true ∧ s.dir.time.running = true ∧
        (armCells (cfg s.dir) a ≠ [] ∨ awaited (arm s.dir a) = true)) :=
  ⟨⟨up, 0, by decide +kernel⟩,
   ⟨up, 0, by decide +kernel⟩,
   ⟨up, 0, 0, by decide +kernel⟩⟩

theorem witness_ConversionAndRanking :
    (∃ (s : State) (a : Nat), a < 6 ∧ works s.dir = true ∧ s.dir.time.running = true ∧ (arm s.dir a).stepped = true) ∧
    (∃ (s : State) (a : Nat) (hw : List (BitVec 32)), a < 6 ∧ works s.dir = true ∧ s.dir.time.running = true ∧ (arm s.dir a).stepped = true ∧
        ¬ hw.Perm (sortKeys s.dir a)) :=
  ⟨⟨(dirS fun d => { d with arms := [(0, { role := .authority, stepped := true })] }), 0, by decide +kernel⟩,
   ⟨(dirS fun d => { d with arms := [(0, { role := .authority, stepped := true })] }), 0, [0], by decide +kernel⟩⟩

theorem witness_OrderFramesAndBlockInputs :
    (∃ (s : State) (n : Nat), n < 52 ∧ portHere (part s.dir) n = true ∧ framesOn s.dir (frameOrder s.dir n) = true ∧ streaming s.dir n = true ∧
        (port s.dir n).built ≠ some (frameOrder s.dir n)) ∧
    (∃ (s : State) (n : Nat) (f : OrderFrame), n < 52 ∧ (port s.dir n).frame = some f ∧ f.first = false ∧ framesOn s.dir f.cycle = true ∧
        (port s.dir n).prbs.testMode = false) ∧
    (∃ (s : State) (n : Nat) (f : OrderFrame), n < 52 ∧ (port s.dir n).frame = some f ∧ f.first = false ∧ framesOn s.dir f.cycle = true ∧
        (port s.dir n).prbs.testMode = false) ∧
    (∃ (s : State) (n : Nat) (f : OrderFrame), n < 52 ∧ (port s.dir n).frame = some f ∧ f.first = true ∧ framesOn s.dir f.cycle = true ∧
        (port s.dir n).prbs.testMode = false ∧ planRep (cfg s.dir) = true) ∧
    (∃ (s : State) (pin : Nat) (held : Nat) (tick : Nat), pin < 4 ∧ held < 125 ∧ s.dir.pins.resetN = true) ∧
    (∃ (s : State) (pin : Nat) (held : Nat) (tick : Nat), pin < 4 ∧ 125 ≤ held ∧ s.dir.pins.resetN = true ∧ s.dir.boot.state = .run ∧
        s.dir.frz.frozen = false) ∧
    (∃ (s : State) (pin : Nat) (held : Nat) (tick : Nat), pin < 4 ∧ 125 ≤ held ∧ s.dir.pins.resetN = true ∧
        (s.dir.boot.state ≠ .run ∨ s.dir.frz.frozen = true)) :=
  ⟨⟨(dirS fun d => { d with ports := [(51, { stream := some (0, false, 0) })] }), 51, by decide +kernel⟩,
   ⟨(dirS fun d => { d with ports := [(0, { frame := some { cycle := 1001, body := [], depart := 0, phase := false } })] }), 0,
      { cycle := 1001, body := [], depart := 0, phase := false }, by decide +kernel⟩,
   ⟨(dirS fun d => { d with ports := [(0, { frame := some { cycle := 1001, body := [], depart := 0, phase := false } })] }), 0,
      { cycle := 1001, body := [], depart := 0, phase := false }, by decide +kernel⟩,
   ⟨(dirS fun d => { d with ports := [(0, { frame := some { cycle := 1001, body := [], depart := 0, phase := false, first := true } })], cfg := { d.cfg with parsed := d.cfg.parsed ++ [(0x0200, [{ pid := 7, elem := 0, data := [1, 0, 0, 0] }])] } }),
      0, { cycle := 1001, body := [], depart := 0, phase := false, first := true }, by decide +kernel⟩,
   ⟨up, 3, 124, 0, by decide +kernel⟩,
   ⟨up, 3, 125, 0, by decide +kernel⟩,
   ⟨(dirS fun d => { d with boot := { d.boot with state := .safe } }), 3, 125, 0, by decide +kernel⟩⟩

theorem witness_MissesQuarantineAndLoss :
    (∃ (s : State) (n : Nat) (i : Nat) (id : Nat) (e : Int) (b : BurstSeen), n < 52 ∧ portHere (part s.dir) n = true ∧ works s.dir = true ∧
        s.dir.time.running = true ∧ (port s.dir n).prbs.testMode = false ∧ cellOfSlot (part s.dir) n i = some id ∧ configured (cfg s.dir) id = true ∧
        slotAssigned s.dir n id (cyc s.dir) = true ∧ b.err = some e ∧ 80 < (e - s.dir.intDelay).natAbs ∧ (e - s.dir.intDelay).natAbs ≤ 128) ∧
    (∃ (s : State) (n : Nat) (i : Nat) (id : Nat) (b : BurstSeen), (∀ e, b.err = some e → 128 < (e - s.dir.intDelay).natAbs) ∧ n < 52 ∧
        portHere (part s.dir) n = true ∧ works s.dir = true ∧ s.dir.time.running = true ∧ (port s.dir n).prbs.testMode = false ∧
        cellOfSlot (part s.dir) n i = some id ∧ configured (cfg s.dir) id = true ∧ slotAssigned s.dir n id (cyc s.dir) = true) ∧
    (∃ (s : State) (n : Nat) (i : Nat) (id : Nat) (e : Int) (b : BurstSeen) (bs : List Byte), n < 52 ∧ portHere (part s.dir) n = true ∧
        works s.dir = true ∧ s.dir.time.running = true ∧ (port s.dir n).prbs.testMode = false ∧ cellOfSlot (part s.dir) n i = some id ∧
        configured (cfg s.dir) id = true ∧ slotAssigned s.dir n id (cyc s.dir) = true ∧ isNode id = false ∧ b.err = some e ∧
        (e - s.dir.intDelay).natAbs ≤ 80 ∧ burstBytes (cyc s.dir) (cellSlot id) 22 (rxLine s.dir n b.bits) = some bs ∧ crc16Ok bs 22 = true ∧
        burstTagOk s.dir n id 0x11 (cellSlot id) (cyc s.dir) (bs.take 16) (beAt bs 16 4) = true ∧
        reportOk (fld (beNat (bs.take 16)) 79 64) (fld (beNat (bs.take 16)) 19 12) = true) ∧
    (∃ (s : State) (n : Nat) (i : Nat) (id : Nat) (e : Int) (b : BurstSeen) (bs : List Byte), n < 52 ∧ portHere (part s.dir) n = true ∧
        works s.dir = true ∧ s.dir.time.running = true ∧ (port s.dir n).prbs.testMode = false ∧
        (port s.dir n).subs.find? (fun x => x.1 = cyc s.dir && x.2.1 = i) = some (cyc s.dir, i, id) ∧ (cellRec s.dir id).keyConfirmed = true ∧
        b.err = some e ∧ (e - s.dir.intDelay).natAbs ≤ 80 ∧ burstBytes (cyc s.dir) (64 + i) 30 (rxLine s.dir n b.bits) = some bs ∧ crc16Ok bs 30 = true ∧
        burstTagOk s.dir n id 0x13 (64 + i) (cyc s.dir) (bs.take 24) (beAt bs 24 4) = true ∧ mgmtOk (bs.take 24) = true ∧
        tqUsed (tq s.dir (tqOfPort s.dir n)).items + 36 ≤ 65536) ∧
    (∃ (s : State) (n : Nat) (b : BurstSeen), n < 52 ∧ portHere (part s.dir) n = true ∧ works s.dir = true ∧ s.dir.time.running = true ∧
        (port s.dir n).prbs.testMode = false ∧ (port s.dir n).joinOpen = none ∧
        lightIn b.light 0 (2 * (planN (cfg s.dir) + planW (cfg s.dir) - joinJ0 (cfg s.dir) n)) = true) ∧
    (∃ (s : State) (id : Nat) (n : Nat), id < 3168 ∧ works s.dir = true ∧ cellPort (part s.dir) id = some n ∧
        (holdsSlot (cellRec s.dir id) = true ∨ (cellRec s.dir id).link = .joining) ∧ 8 ≤ (cellRec s.dir id).misses) ∧
    (∃ (s : State) (id : Nat) (n : Nat), id < 3168 ∧ works s.dir = true ∧ cellPort (part s.dir) id = some n ∧ holdsSlot (cellRec s.dir id) = true ∧
        64 ≤ (cellRec s.dir id).absents) ∧
    (∃ (s : State) (id : Nat), id < 3168 ∧ works s.dir = true ∧ (cellRec s.dir id).held = true ∧
        (cellRec s.dir id).heldAt + quarHold (cfg s.dir) ≤ s.dir.time.starts) :=
  ⟨⟨(dirS fun d => { d with cells := [(0, { link := .proven, granted := some 1000, key := some 5, keyConfirmed := true })], ports := [(0, { subs := [(1000, 0, 0)] })] }),
      0, 0, 0, (-81), ({ err := some (-81), bits := [], light := [] } : BurstSeen), by decide +kernel⟩,
   ⟨(dirS fun d => { d with cells := [(0, { link := .proven, granted := some 1000, key := some 5, keyConfirmed := true })], ports := [(0, { subs := [(1000, 0, 0)] })] }),
      0, 0, 0, ({ err := none, bits := [], light := [] } : BurstSeen), nofun, by decide +kernel⟩,
   ⟨(dirS fun d => { d with cells := [(0, { link := .proven, granted := some 1000, key := some 5, keyConfirmed := true })], ports := [(0, { subs := [(1000, 0, 0)] })] }),
      0, 0, 0, 80, ({ err := some 80, bits := burstLine 1000 0 slotBytes, light := [] } : BurstSeen), slotBytes, by decide +kernel⟩,
   ⟨(dirS fun d => { d with cells := [(0, { link := .proven, granted := some 1000, key := some 5, keyConfirmed := true })], ports := [(0, { subs := [(1000, 0, 0)] })] }),
      0, 0, 0, (-80), ({ err := some (-80), bits := burstLine 1000 64 subBytes, light := [] } : BurstSeen), subBytes, by decide +kernel⟩,
   ⟨up, 51, { err := none, bits := [], light := [(0, 1)] }, by decide +kernel⟩,
   ⟨(dirS fun d => { d with cells := [(3167, { link := .joining, misses := 8 })] }), 3167, 51, by decide +kernel⟩,
   ⟨(dirS fun d => { d with cells := [(3167, { link := .proven, absents := 64, granted := some 0 })] }), 3167, 51, by decide +kernel⟩,
   ⟨(dirS fun d => { d with time := { d.time with starts := 10 ^ 12 }, cells := [(3167, { held := true })] }), 3167, by decide +kernel⟩⟩

theorem witness_Proving :
    (∃ (s : State) (id : Nat) (n : Nat) (sum : Int) (o : Nat × Nat), id < 3168 ∧ works s.dir = true ∧ cellPort (part s.dir) id = some n ∧
        (cellRec s.dir id).link = .proving ∧ (cellRec s.dir id).block = some sum ∧
        o = offsetsOf (cfg s.dir) n ((cellRec s.dir id).dnOfs + (cellRec s.dir id).upOfs + roundHalfUp sum 64) ∧ tooFar (cfg s.dir) n o = false) ∧
    (∃ (s : State) (id : Nat) (n : Nat) (sum : Int), id < 3168 ∧ works s.dir = true ∧ cellPort (part s.dir) id = some n ∧
        (cellRec s.dir id).link = .proven ∧ (cellRec s.dir id).block = some sum ∧ sum.natAbs ≤ 512) ∧
    (∃ (s : State) (id : Nat) (n : Nat) (sum : Int) (o : Nat × Nat), id < 3168 ∧ works s.dir = true ∧ cellPort (part s.dir) id = some n ∧
        (cellRec s.dir id).link = .proven ∧ (cellRec s.dir id).block = some sum ∧ 512 < sum.natAbs ∧
        o = offsetsOf (cfg s.dir) n ((cellRec s.dir id).dnOfs + (cellRec s.dir id).upOfs + roundHalfUp sum 64) ∧ o.1 ≤ (cellRec s.dir id).dnOfs + 80 ∧
        (cellRec s.dir id).dnOfs ≤ o.1 + 80 ∧ o.2 ≤ (cellRec s.dir id).upOfs + 80 ∧ (cellRec s.dir id).upOfs ≤ o.2 + 80 ∧ tooFar (cfg s.dir) n o = false) ∧
    (∃ (s : State) (id : Nat) (n : Nat) (sum : Int) (o : Nat × Nat), id < 3168 ∧ works s.dir = true ∧ cellPort (part s.dir) id = some n ∧
        (cellRec s.dir id).link = .proving ∧ (cellRec s.dir id).block = some sum ∧
        o = offsetsOf (cfg s.dir) n ((cellRec s.dir id).dnOfs + (cellRec s.dir id).upOfs + roundHalfUp sum 64) ∧ tooFar (cfg s.dir) n o = true) :=
  ⟨⟨(dirS fun d => { d with cells := [(0, { link := .proving, block := some 0, dnOfs := 20, upOfs := 20 })] }), 0, 0, 0, (offsetsOf (cfg up.dir) 0 (40)),
      by decide +kernel⟩,
   ⟨(dirS fun d => { d with cells := [(0, { link := .proven, block := some (-512) })] }), 0, 0, (-512), by decide +kernel⟩,
   ⟨(dirS fun d => { d with cells := [(0, { link := .proven, block := some 513, dnOfs := 20, upOfs := 20 })] }), 0, 0, 513,
      (offsetsOf (cfg up.dir) 0 (48)), by decide +kernel⟩,
   ⟨(dirS fun d => { d with cells := [(0, { link := .proving, block := some 0, dnOfs := 65535, upOfs := 65535 })] }), 0, 0, 0,
      (offsetsOf (cfg up.dir) 0 (131070)), by decide +kernel⟩⟩

theorem witness_Joining :
    (∃ (s : State) (n : Nat) (err : Int) (bits : List Bool) (w : Cycle) (j0 : Nat) (jl : Nat), n < 52 ∧ portHere (part s.dir) n = true ∧
        works s.dir = true ∧ s.dir.time.running = true ∧ (port s.dir n).joinOpen = some (w, j0, jl) ∧ (w = cyc s.dir ∨ w + 1 = cyc s.dir) ∧ -1472 ≤ err ∧
        err + 1472 ≤ 32 * (jl : Int) ∧ burstBytes w 72 26 (rxLine s.dir n bits) = none) ∧
    (∃ (s : State) (n : Nat) (err : Int) (bits : List Bool) (w : Cycle) (j0 : Nat) (jl : Nat), n < 52 ∧ (port s.dir n).joinOpen = some (w, j0, jl) ∧
        (err < -1472 ∨ 32 * (jl : Int) < err + 1472)) ∧
    (∃ (s : State) (n : Nat) (err : Int) (bits : List Bool) (bs : List Byte) (x : Nat) (id : Nat) (w : Cycle) (j0 : Nat) (jl : Nat), n < 52 ∧
        portHere (part s.dir) n = true ∧ works s.dir = true ∧ s.dir.time.running = true ∧ (port s.dir n).joinOpen = some (w, j0, jl) ∧
        (w = cyc s.dir ∨ w + 1 = cyc s.dir) ∧ -1472 ≤ err ∧ err + 1472 ≤ 32 * (jl : Int) ∧ burstBytes w 72 26 (rxLine s.dir n bits) = some bs ∧
        crc16Ok bs 26 = true ∧ beNat (bs.take 24) = x ∧ fld x 106 104 = 0 ∧ fld x 31 0 = 0 ∧ (port s.dir n).exchange = none ∧ exchanges s.dir < 8 ∧
        fld x 127 112 = id ∧ joinCause s.dir n id (fld x 111 108) (fld x 107 107) (offsetsOf (cfg s.dir) n (err - s.dir.intDelay)) = none) ∧
    (∃ (s : State) (n : Nat) (e : Exchange), n < 52 ∧ works s.dir = true ∧ (port s.dir n).exchange = some e ∧ (cellRec s.dir e.cell).link = .joining ∧
        kindDone e 1 = true ∧ kindDone e 2 = true ∧ kindDone e 3 = true ∧ cellCertOk s.dir e = false) ∧
    (∃ (s : State) (n : Nat) (e : Exchange), n < 52 ∧ works s.dir = true ∧ (port s.dir n).exchange = some e ∧ (cellRec s.dir e.cell).link = .joining ∧
        kindDone e 1 = true ∧ kindDone e 2 = true ∧ kindDone e 3 = true ∧ cellCertOk s.dir e = true ∧
        ecdsaVerify (sub e.cert 15 33) (sha256 (0x43 :: exTranscript s.dir e)) (e.sig.take 64) = true ∧ onCurve (e.pub.take 33) = true) ∧
    (∃ (s : State) (n : Nat) (e : Exchange), n < 52 ∧ works s.dir = true ∧ (port s.dir n).exchange = some e ∧ (cellRec s.dir e.cell).link = .joining ∧
        kindDone e 1 = true ∧ kindDone e 2 = true ∧ kindDone e 3 = true ∧ cellCertOk s.dir e = true ∧
        ecdsaVerify (sub e.cert 15 33) (sha256 (0x43 :: exTranscript s.dir e)) (e.sig.take 64) = false) ∧
    (∃ (s : State) (n : Nat) (e : Exchange), n < 52 ∧ works s.dir = true ∧ (port s.dir n).exchange = some e ∧ e.stepAt + 64 ≤ s.dir.time.starts) ∧
    (∃ (s : State) (id : Nat) (i : Nat) (k : _) (x : Nat), id < 3168 ∧ works s.dir = true ∧ (cellRec s.dir id).reading = some (i, k, x) ∧
        readUnsent s.dir id = false ∧ k < 3 ∧ x + 16 ≤ s.dir.time.starts) ∧
    (∃ (s : State) (id : Nat) (i : Nat) (k : _) (x : Nat), id < 3168 ∧ works s.dir = true ∧ (cellRec s.dir id).reading = some (i, k, x) ∧
        readUnsent s.dir id = false ∧ 3 ≤ k ∧ x + 16 ≤ s.dir.time.starts) ∧
    (∃ (s : State) (id : Nat) (at_ : Nat) (size : _) (level : _), id < 3168 ∧ works s.dir = true ∧
        imageSection s.mem s.dir 0x83 (cellVar (cfg s.dir) id) = some (at_, size) ∧ ((cellRec s.dir id).slow.find? (·.1 = 1)) = some (1, level) ∧
        (cellRec s.dir id).link = .proven ∧ id ∉ s.dir.patched ∧ (if isNode id then cpReset 6 else prefSide (cfg s.dir) (id / 512)) = sideNum s.dir ∧ (∀ a,
        a ∈ armsOfCell (cfg s.dir) id → offPre (arm s.dir a).mode = true) ∧ level.toNat < beNat (rdBytes s.mem .flash (at_ + 8) 4)) :=
  ⟨⟨(dirS fun d => { d with ports := [(0, { joinOpen := some (1000, 9043, 300) })] }), 0, (-1472), (List.replicate 17 false), 1000, 9043, 300,
      by decide +kernel⟩,
   ⟨(dirS fun d => { d with ports := [(0, { joinOpen := some (1000, 9043, 300) })] }), 0, (-1473), [], 1000, 9043, 300, by decide +kernel⟩,
   ⟨(dirS fun d => { d with cells := [(0, { link := .listen })], ports := [(0, { joinOpen := some (1000, 9043, 300) })] }), 0, 8128,
      (burstLine 1000 72 (withCrc16 (toBE 24 (2 ^ 108)))), (withCrc16 (toBE 24 (2 ^ 108))), (2 ^ 108), 0, 1000, 9043, 300, by decide +kernel⟩,
   ⟨(exchS (exch [] [])), 0, (exch [] []), by decide +kernel⟩,
   ⟨(exchS (exch cellCert (toBE 64 0x8e533b6fa0bf7b4625bb30667c01fb607ef9f8b8a80fef5b300628703187b2a3df38390196bb3d0e74783563fb7daeda4aa7fb157f2827122d72f9433bae69a3))),
      0,
      (exch cellCert (toBE 64 0x8e533b6fa0bf7b4625bb30667c01fb607ef9f8b8a80fef5b300628703187b2a3df38390196bb3d0e74783563fb7daeda4aa7fb157f2827122d72f9433bae69a3)),
      by decide +kernel⟩,
   ⟨(exchS (exch cellCert (zeros 64))), 0, (exch cellCert (zeros 64)), by decide +kernel⟩,
   ⟨(dirS fun d => { d with time := { d.time with starts := 1000 }, ports := [(51, { exchange := some { cell := 0, variant := 1, deviceId := 0, nonce := 0, handle := 1, window := 0, dn := 0, up := 0, myNonce := 0, eph := 0, stepAt := 0 } })] }),
      51, { cell := 0, variant := 1, deviceId := 0, nonce := 0, handle := 1, window := 0, dn := 0, up := 0, myNonce := 0, eph := 0, stepAt := 0 },
      by decide +kernel⟩,
   ⟨(dirS fun d => { d with cells := [(3167, { link := .proven, reading := some (1, 2, 984) })] }), 3167, 1, 2, 984, by decide +kernel⟩,
   ⟨(dirS fun d => { d with cells := [(0, { link := .proven, reading := some (1, 3, 984) })] }), 0, 1, 3, 984, by decide +kernel⟩,
   ⟨{ (dirS fun d => { d with cells := [(0, { link := .proven, slow := [(1, 0)] })] }) with mem := { State.reset.mem with flash := [(5, 1), (128, 0x83), (129, 1), (132, 0), (133, 4), (134, 0), (135, 0), (136, 32), (137, 0), (138, 0), (139, 0)] } },
      0, 1024, 32, 0, by decide +kernel⟩⟩

theorem witness_MirrorDeadline :
    (∃ (s : State) (a : Nat), a < 6 ∧ works s.dir = true ∧ s.dir.time.running = true ∧
        (twinBlock s.dir 0x10 (mirrorCycle s.dir) = none ∨ twinBlock s.dir a (mirrorCycle s.dir) = none)) ∧
    (∃ (s : State) (a : Nat) (cv : _) (b : List Byte), a < 6 ∧ works s.dir = true ∧ s.dir.time.running = true ∧ twinDiffers s.dir = false ∧
        twinBlock s.dir 0x10 (mirrorCycle s.dir) = some cv ∧ twinBlock s.dir a (mirrorCycle s.dir) = some b ∧ bit (byteAt cv 14) 0 = true ∧ b.length = 2688 ∧
        byteAt b 0 = a ∧ byteAt b 1 ≤ 5 ∧ byteAt b 2 ≤ 3) :=
  ⟨⟨up, 5, by decide +kernel⟩,
   ⟨(mirS (zeros 14 ++ [1] ++ zeros 241) (zeros 2688)), 0, (zeros 14 ++ [1] ++ zeros 241), (zeros 2688), by decide +kernel⟩⟩

theorem witness_SkeundFrames :
    (∃ (s : State) (l : Nat) (f : SkFrame), l < 4 ∧ works s.dir = true ∧ s.dir.sk.active = true ∧ (lane s.dir l).mode = .active ∧
        s.dir.sk.ownOk.getLsbD (physLane s.dir l) = true ∧ (f.typeCode = 0x5AA53CC3 ∨ f.typeCode = 0xA55AC33C) ∧
        (f.violation = true ∨ f.bytes.length ≠ 20 + fld (beAt f.bytes 6 2) 12 0 ∨ crc32c (f.bytes.take (16 + fld (beAt f.bytes 6 2) 12 0)) ≠ beAt f.bytes (16 + fld (beAt f.bytes 6 2) 12 0) 4)) ∧
    (∃ (s : State) (l : Nat) (f : SkFrame) (k : Key) (len : Nat), crc32c (f.bytes.take (16 + len)) = beAt f.bytes (16 + len) 4 ∧ l < 4 ∧
        works s.dir = true ∧ s.dir.sk.active = true ∧ (lane s.dir l).mode = .active ∧ s.dir.sk.ownOk.getLsbD (physLane s.dir l) = true ∧
        f.typeCode = 0x5AA53CC3 ∧ f.violation = false ∧ fld (beAt f.bytes 6 2) 12 0 = len ∧ f.bytes.length = 20 + len ∧
        skKeyAt s.dir (BitVec.ofNat 32 (beAt f.bytes 0 4)) = some k ∧
        skTag k (skIv true (1 - sideNum s.dir) (physLane s.dir l) (byteAt f.bytes 4) (BitVec.ofNat 32 (beAt f.bytes 0 4))) (f.bytes.take (8 + len)) = beAt f.bytes (8 + len) 8 ∧
        fld (beAt f.bytes 6 2) 15 13 = 1 ∧ byteAt f.bytes 5 = 0x10 ∧ len = 256) ∧
    (∃ (s : State) (l : Nat) (f : SkFrame) (k : Key) (len : Nat), l < 4 ∧ works s.dir = true ∧ s.dir.sk.active = true ∧ (lane s.dir l).mode = .active ∧
        s.dir.sk.ownOk.getLsbD (physLane s.dir l) = true ∧ f.typeCode = 0xA55AC33C ∧ f.violation = false ∧ fld (beAt f.bytes 6 2) 12 0 = len ∧
        f.bytes.length = 20 + len ∧ crc32c (f.bytes.take (16 + len)) = beAt f.bytes (16 + len) 4 ∧
        skKeyAt s.dir (BitVec.ofNat 32 (beAt f.bytes 0 4)) = some k ∧
        skTag k (skIv false (1 - sideNum s.dir) (physLane s.dir l) (byteAt f.bytes 4) (BitVec.ofNat 32 (beAt f.bytes 0 4))) (f.bytes.take (8 + len)) = beAt f.bytes (8 + len) 8 ∧
        fld (beAt f.bytes 6 2) 15 13 = 1 ∧ byteAt f.bytes 5 = 0x20 ∧ len % 4 = 0 ∧ 8 ≤ len ∧ len ≤ 4096 ∧ s.dir.time.running = true ∧
        byteAt f.bytes 8 = 0x80 ∧ leAt f.bytes 10 2 = 0x0405) :=
  ⟨⟨(dirS fun d => { d with sk := { d.sk with active := true, ownOk := 15, twinOk := 15, width := 4, lanes := [(0, { mode := .active }), (1, { mode := .active }), (2, { mode := .active }), (3, { mode := .active })] } }),
      3, { typeCode := 0x5AA53CC3, violation := true, bytes := [], arrival := 0 }, by decide +kernel⟩,
   ⟨lanesS, 3, { typeCode := 0x5AA53CC3, violation := false, bytes := twinFrame, arrival := 0 }, 5, 256, (by rw [crc_go]; decide +kernel),
      by decide +kernel⟩,
   ⟨lanesS, 0, { typeCode := 0xA55AC33C, violation := false, bytes := twinControl, arrival := 0 }, 5, 8, by decide +kernel⟩⟩

theorem witness_TwinAliveAndYields :
    (∃ (s : State), s.dir.pins.resetN = true ∧ s.dir.frz.frozen = false ∧ s.dir.sk.twinAlive = true) ∧
    (∃ (s : State), s.dir.pins.resetN = true ∧ s.dir.frz.frozen = false) ∧
    (∃ (s : State), s.dir.pins.resetN = true ∧ s.dir.frz.frozen = false) ∧
    (∃ (s : State), s.dir.pins.resetN = true ∧ s.dir.frz.frozen = false ∧ s.dir.pins.served = false) ∧
    (∃ (s : State) (a : Nat) (h : Cycle), a < 6 ∧ works s.dir = true ∧ (arm s.dir a).role = .authority ∧ (arm s.dir a).yielding = some h ∧
        0 ≤ cycleDiff (stepOrder s.dir) (h + BitVec.ofNat 32 (leaseCycles (cfg s.dir) a + 8))) :=
  ⟨⟨(dirS fun d => { d with sk := { d.sk with active := true, twinAlive := true } }), by decide +kernel⟩,
   ⟨up, by decide +kernel⟩,
   ⟨up, by decide +kernel⟩,
   ⟨(dirS fun d => { d with pins := { d.pins with served := false } }), by decide +kernel⟩,
   ⟨(dirS fun d => { d with arms := [(0, { role := .authority, yielding := some 900 })] }), 0, 900, by decide +kernel⟩⟩

theorem witness_TimeMarksAndEpochs :
    (∃ (s : State) (l : Nat) (r : List Nat) (k : Key), lanesInUse s.dir = l :: r ∧ works s.dir = true ∧ s.dir.sk.active = true ∧
        s.dir.time.running = true ∧ skKeyAt s.dir (cyc s.dir) = some k) ∧
    (∃ (s : State) (l : Nat) (f : SkFrame), l < 4 ∧ works s.dir = true ∧ s.dir.sk.active = true ∧ f.typeCode = 0x96695AA5 ∧
        s.dir.sk.ownOk.getLsbD (physLane s.dir l) = true ∧ (f.violation = true ∨ f.bytes.length ≠ 28 ∨ crc32c (f.bytes.take 24) ≠ beAt f.bytes 24 4)) ∧
    (∃ (s : State) (l : Nat) (f : SkFrame) (r : List Nat), l < 4 ∧ works s.dir = true ∧ s.dir.sk.active = true ∧ f.typeCode = 0x96695AA5 ∧
        s.dir.sk.ownOk.getLsbD (physLane s.dir l) = true ∧ f.violation = false ∧ f.bytes.length = 28 ∧ crc32c (f.bytes.take 24) = beAt f.bytes 24 4 ∧
        lanesInUse s.dir = physLane s.dir l :: r ∧
        markTag s.dir (1 - sideNum s.dir) (physLane s.dir l) (BitVec.ofNat 32 (beAt (f.bytes.take 16) 0 4)) (f.bytes.take 16) = some (beAt f.bytes 16 8)) ∧
    (∃ (s : State), works s.dir = true ∧ s.dir.time.source = .twin ∧ twinUsable s.dir = true ∧ s.dir.time.eps ≠ [] ∧
        (leadSum s.dir).1.natAbs ≤ 80000 * (leadSum s.dir).2) ∧
    (∃ (s : State), works s.dir = true ∧ s.dir.time.source = .twin ∧ twinUsable s.dir = true ∧ s.dir.time.eps ≠ [] ∧ s.dir.time.running = true ∧
        80000 * (leadSum s.dir).2 < (leadSum s.dir).1.natAbs ∧ (∀ a, a < 6 → offPre (arm s.dir a).mode = true) ∧ s.dir.time.step = none) ∧
    (∃ (s : State) (k : Nat), s.dir.time.silentTo = some k ∧ k ≤ s.dir.time.starts) ∧
    (∃ (s : State), works s.dir = true ∧ s.dir.sk.active = false ∧ s.dir.time.sending = false ∧ s.dir.time.ownFrom + 12500000000 < s.dir.time.raw) ∧
    (∃ (s : State) (p : Nat) (x : Int), works s.dir = true ∧ s.dir.time.mode ≠ .unqualified ∧ twinUsable s.dir = false ∧ tp s.dir 2 0 0 = p ∧
        (dom s.dir p).mode = .locked ∧ (dom s.dir p).lockedAt = some x ∧ x + 60 * secUnit ≤ s.dir.time.now ∧ s.dir.time.source = srcOf (1 - p)) :=
  ⟨⟨(dirS fun d => { d with sk := { d.sk with active := true, ownOk := 15, twinOk := 15, width := 4, lanes := [(0, { mode := .active }), (1, { mode := .active }), (2, { mode := .active }), (3, { mode := .active })] }, sec := { d.sec with skKey := some 5 } }),
      0, [1, 2, 3], 5, by decide +kernel⟩,
   ⟨(dirS fun d => { d with sk := { d.sk with active := true, ownOk := 15, twinOk := 15, width := 4, lanes := [(0, { mode := .active }), (1, { mode := .active }), (2, { mode := .active }), (3, { mode := .active })] } }),
      3, { typeCode := 0x96695AA5, violation := true, bytes := [], arrival := 0 }, by decide +kernel⟩,
   ⟨lanesS, 0, { typeCode := 0x96695AA5, violation := false, bytes := twinMark, arrival := 0 }, [1, 2, 3], by decide +kernel⟩,
   ⟨(dirS fun d => { d with boot := { d.boot with side := .y }, sk := { d.sk with active := true }, time := { d.time with source := .twin, twinState := .locked, eps := [(1000, 80000)] } }),
      by decide +kernel⟩,
   ⟨(dirS fun d => { d with boot := { d.boot with side := .y }, sk := { d.sk with active := true }, time := { d.time with source := .twin, twinState := .locked, eps := [(1000, 80001)] } }),
      by decide +kernel⟩,
   ⟨(dirS fun d => { d with time := { d.time with silentTo := some 1000 } }), 1000, by decide +kernel⟩,
   ⟨(dirS fun d => { d with time := { d.time with sending := false, raw := 12500000001 } }), by decide +kernel⟩,
   ⟨(dirS fun d => { d with time := { d.time with mode := .locked, source := .domB, now := 60 * secUnit, domA := { d.time.domA with mode := .locked, lockedAt := some 0 } } }),
      0, 0, by decide +kernel⟩⟩

theorem witness_PtpAndPeerDelay :
    (∃ (s : State) (p : Nat) (m : SyncMsg), p < 2 ∧ works s.dir = true ∧ (tport s.dir p).up = true ∧ (tport s.dir p).prbsTest = false ∧
        m.wellFormed = false) ∧
    (∃ (s : State) (p : Nat) (m : SyncMsg) (i : Nat), p < 2 ∧ i < 2 ∧ works s.dir = true ∧ (tport s.dir p).up = true ∧ (tport s.dir p).prbsTest = false ∧
        m.wellFormed = true ∧ boundTo s.dir i p = true ∧ domNum s.dir i = m.domain ∧ (dom s.dir i).port = some p ∧ (tport s.dir p).delays ≠ [] ∧
        ((dom s.dir i).mode = .acquiring ∨ (dom s.dir i).mode = .locked ∨ (dom s.dir i).mode = .suspect)) ∧
    (∃ (s : State) (p : Nat) (m : AnnounceMsg) (i : Nat), p < 2 ∧ i < 2 ∧ works s.dir = true ∧ (tport s.dir p).up = true ∧
        (tport s.dir p).prbsTest = false ∧ m.wellFormed = true ∧ boundTo s.dir i p = true ∧ domNum s.dir i = m.domain) ∧
    (∃ (s : State) (i : Nat) (p : Nat), i < 2 ∧ works s.dir = true ∧ (dom s.dir i).port = some p ∧ p < 2 ∧
        ((dom s.dir i).mode = .acquiring ∨ (dom s.dir i).mode = .locked ∨ (dom s.dir i).mode = .suspect)) ∧
    (∃ (s : State) (p : Nat), p < 2 ∧ works s.dir = true ∧ (tport s.dir p).up = true ∧ (tport s.dir p).prbsTest = false) ∧
    (∃ (s : State) (p : Nat) (q : BitVec 16) (x : FracNs), p < 2 ∧ works s.dir = true ∧ (tport s.dir p).up = true ∧ (tport s.dir p).prbsTest = false) ∧
    (∃ (s : State) (p : Nat) (m : PdelayRespMsg) (t1 : Int), p < 2 ∧ works s.dir = true ∧ (tport s.dir p).up = true ∧ (tport s.dir p).prbsTest = false ∧
        m.wellFormed = true ∧ (tport s.dir p).req = some (m.seqId, t1) ∧ rxStamp s.dir p m.t4 - t1 ≤ secFrac) ∧
    (∃ (s : State) (p : Nat) (r : BitVec 16 × Int), p < 2 ∧ works s.dir = true ∧ (tport s.dir p).req = some r) :=
  ⟨⟨(dirS fun d => { d with time := { d.time with tp0 := { d.time.tp0 with up := true } } }), 0,
      { domain := 0, wellFormed := false, origin := 0, corr := 0, t2 := 0 }, by decide +kernel⟩,
   ⟨(dirS fun d => { d with time := { d.time with tp0 := { d.time.tp0 with up := true, delays := [0] }, domA := { d.time.domA with mode := .locked, port := some 0 } } }),
      0, { domain := 0, wellFormed := true, origin := 0, corr := 0, t2 := 0 }, 0, by decide +kernel⟩,
   ⟨(dirS fun d => { d with time := { d.time with tp0 := { d.time.tp0 with up := true } } }), 0,
      { domain := 0, wellFormed := true, gmId := 0, priority1 := 0, gmClass := 0, accuracy := 0, variance := 0, priority2 := 0, stepsRemoved := 0, sender := 0, utcOffset := 0, utcValid := false },
      0, by decide +kernel⟩,
   ⟨(dirS fun d => { d with time := { d.time with domB := { d.time.domB with mode := .suspect, port := some 1 } } }), 1, 1, by decide +kernel⟩,
   ⟨(dirS fun d => { d with time := { d.time with tp0 := { d.time.tp0 with up := true } } }), 0, by decide +kernel⟩,
   ⟨(dirS fun d => { d with time := { d.time with tp0 := { d.time.tp0 with up := true } } }), 0, 0, 0, by decide +kernel⟩,
   ⟨(dirS fun d => { d with time := { d.time with tp0 := { d.time.tp0 with up := true, req := some (1, 0) } } }), 0,
      { wellFormed := true, seqId := 1, t2 := 0, t3 := 0, t4 := 0 }, 0, by decide +kernel⟩,
   ⟨(dirS fun d => { d with time := { d.time with tp1 := { d.time.tp1 with req := some (0, 0) } } }), 1, (0, 0), by decide +kernel⟩⟩

theorem witness_TimePorts :
    (∃ (s : State) (p : Nat) (tick : Nat) (lt : Int) (o : List Byte) (r : List (Int × List Byte)), p < 2 ∧ works s.dir = true ∧ (tport s.dir p).up = true ∧
        (tport s.dir p).queue = (lt, o) :: r ∧ lt - toFrac (timeAt s.dir tick) < 2000 * nsFrac) ∧
    (∃ (s : State) (p : Nat) (tick : Nat) (lt : Int) (o : List Byte) (r : List (Int × List Byte)), p < 2 ∧ works s.dir = true ∧ (tport s.dir p).up = true ∧
        (tport s.dir p).queue = (lt, o) :: r ∧ 2000 * nsFrac ≤ lt - toFrac (timeAt s.dir tick)) ∧
    (∃ (s : State) (p : Nat), p < 2 ∧ works s.dir = true ∧ tpAneg s.dir p = true) ∧
    (∃ (s : State) (p : Nat), p < 2 ∧ works s.dir = true ∧ tpAneg s.dir p = false) ∧
    (∃ (s : State) (p : Nat), p < 2 ∧ works s.dir = true ∧ tpSgmii s.dir p = true ∧ (tport s.dir p).up = false) ∧
    (∃ (s : State) (p : Nat), p < 2 ∧ works s.dir = true ∧ (tport s.dir p).up = true) ∧
    (∃ (s : State) (p : Nat), p < 2 ∧ works s.dir = true ∧ (tport s.dir p).up = true) :=
  ⟨⟨(dirS fun d => { d with time := { d.time with tp0 := { d.time.tp0 with up := true, queue := [(0, [])] } } }), 0, 0, 0, [], [], by decide +kernel⟩,
   ⟨(dirS fun d => { d with time := { d.time with tp0 := { d.time.tp0 with up := true, queue := [(2000 * nsFrac, [])] } } }), 0, 0, (2000 * nsFrac), [],
      [], by decide +kernel⟩,
   ⟨up, 1, by decide +kernel⟩,
   ⟨(dirS fun d => { d with cfg := { d.cfg with parsed := d.cfg.parsed ++ [(0x0300, [{ pid := 6, elem := 1, data := [0, 0, 0, 0] }])] } }), 1,
      by decide +kernel⟩,
   ⟨(dirS fun d => { d with cfg := { d.cfg with parsed := d.cfg.parsed ++ [(0x0300, [{ pid := 5, elem := 1, data := [1, 0, 0, 0] }])] } }), 1,
      by decide +kernel⟩,
   ⟨(dirS fun d => { d with time := { d.time with tp0 := { d.time.tp0 with up := true } } }), 0, by decide +kernel⟩,
   ⟨(dirS fun d => { d with time := { d.time with tp0 := { d.time.tp0 with up := true } } }), 0, by decide +kernel⟩⟩

theorem witness_StepsHoldoverAndPps :
    (∃ (s : State) (p : PendStep) (delta : Int), works s.dir = true ∧ s.dir.time.running = true ∧ s.dir.time.step = some p ∧ p.cycle = cyc s.dir ∧
        delta = (match p.target with | some v => v - toFrac s.dir.time.now | none => p.delta) ∧ (∀ a, a < 6 → offPre (arm s.dir a).mode = true)) ∧
    (∃ (s : State) (p : PendStep) (a : Nat), works s.dir = true ∧ s.dir.time.running = true ∧ s.dir.time.step = some p ∧ p.cycle = cyc s.dir ∧ a < 6 ∧
        offPre (arm s.dir a).mode = false) ∧
    (∃ (s : State) (h : Int), s.dir.time.holdAt = some h ∧ s.dir.time.mode = .holdover ∧ h + tp s.dir 17 0 600 * secUnit < s.dir.time.now) ∧
    (∃ (s : State) (x : Int), s.dir.time.refAt = some x ∧ s.dir.time.refSent = false ∧ x + 60 * secUnit ≤ s.dir.time.now) ∧
    (∃ (s : State) (i : Nat) (stamp : Int) (l : _), i < 2 ∧ works s.dir = true ∧ (pps s.dir i).lastEdge = some l ∧
        stamp - psFrac (parmZ (timeS (cfg s.dir)) 23 i 0) - l < 900000000 * nsFrac) ∧
    (∃ (s : State) (i : Nat) (stamp : Int), (∀ l,
        (pps s.dir i).lastEdge = some l → 900000000 * nsFrac ≤ stamp - psFrac (parmZ (timeS (cfg s.dir)) 23 i 0) - l) ∧ i < 2 ∧ works s.dir = true) ∧
    (∃ (s : State) (i : Nat), i < 2 ∧ works s.dir = true) ∧
    (∃ (s : State) (tick : Nat) (x : Int), s.dir.time.pllLock = true ∧ inRun s.dir = true ∧
        x = timeAt s.dir tick - parmZ (timeS (cfg s.dir)) 24 0 0 * tickUnit) :=
  ⟨⟨(dirS fun d => { d with time := { d.time with step := some { cycle := 1000, delta := 0, target := none, mb := none } } }),
      { cycle := 1000, delta := 0, target := none, mb := none }, 0, by decide +kernel⟩,
   ⟨(dirS fun d => { d with arms := [(5, { mode := .auto })], time := { d.time with step := some { cycle := 1000, delta := 0, target := none, mb := none } } }),
      { cycle := 1000, delta := 0, target := none, mb := none }, 5, by decide +kernel⟩,
   ⟨(dirS fun d => { d with time := { d.time with holdAt := some 0, mode := .holdover, now := 600 * secUnit + 1 } }), 0, by decide +kernel⟩,
   ⟨(dirS fun d => { d with time := { d.time with refAt := some 0, now := 60 * secUnit } }), 0, by decide +kernel⟩,
   ⟨(dirS fun d => { d with time := { d.time with pps1 := { d.time.pps1 with lastEdge := some 0 } } }), 1, (900000000 * nsFrac - 1), 0,
      by decide +kernel⟩,
   ⟨(dirS fun d => { d with time := { d.time with pps1 := { d.time.pps1 with lastEdge := some 0 } } }), 1, (900000000 * nsFrac),
      (fun l h => by cases h; decide +kernel), by decide +kernel⟩,
   ⟨up, 1, by decide +kernel⟩,
   ⟨up, 0, (timeAt up.dir 0 - parmZ (timeS (cfg up.dir)) 24 0 0 * tickUnit), by decide +kernel⟩⟩

theorem witness_ClocksStopAndReturn :
    (∃ (s : State), s.dir.time.pllLock = true) ∧
    (∃ (s : State), s.dir.time.refOk = true) ∧
    (∃ (s : State), s.dir.time.pllLock = false ∧ s.dir.time.refOk = true ∧ s.dir.boot.state = .released ∧ 2 ≤ s.dir.boot.step ∧ s.dir.frz.frozen = false) ∧
    (∃ (s : State), s.dir.time.pllLock = false ∧ s.dir.time.refOk = true ∧ s.dir.boot.state = .run ∧ s.dir.frz.frozen = false) :=
  ⟨⟨up, by decide +kernel⟩,
   ⟨up, by decide +kernel⟩,
   ⟨(dirS fun d => { d with boot := { d.boot with state := .released, step := 2 }, time := { d.time with pllLock := false } }), by decide +kernel⟩,
   ⟨(dirS fun d => { d with time := { d.time with pllLock := false } }), by decide +kernel⟩⟩

theorem witness_LaneTraining :
    (∃ (s : State) (l : Nat), l < 4 ∧ trains s.dir l = true) ∧
    (∃ (s : State) (l : Nat) (f : TrainFrame), l < 4 ∧ trains s.dir l = true ∧ (lane s.dir l).holdoff = false ∧ (lane s.dir l).holdTen = false ∧
        (skPrbs s.dir l).manual = false ∧ (lane s.dir l).mode = .detect) ∧
    (∃ (s : State) (l : Nat) (f : TrainFrame), f.data = identItem s.dir false f.index.toNat ∧ (∀ j,
        j < 6 → j ≠ f.index.toNat → ((lane s.dir l).ident.find? (·.1 = j)).map (·.2) = some (identItem s.dir false j)) ∧ l < 4 ∧ trains s.dir l = true ∧
        (lane s.dir l).holdoff = false ∧ (lane s.dir l).holdTen = false ∧ (skPrbs s.dir l).manual = false ∧ (lane s.dir l).mode = .ident ∧ f.crcOk = true ∧
        f.kind = 2 ∧ f.inverted = false ∧ f.index.toNat ≤ 5) ∧
    (∃ (s : State) (l : Nat), l < 4 ∧ trains s.dir l = true ∧ ((lane s.dir l).mode = .align ∨ ((lane s.dir l).mode = .equalize ∧
        (lane s.dir l).best < 48) ∨ ((lane s.dir l).mode = .ident ∧ s.dir.sk.identBad = none))) ∧
    (∃ (s : State) (l : Nat), l < 4 ∧ trains s.dir l = true ∧ (lane s.dir l).mode = .equalize ∧ 48 ≤ (lane s.dir l).best) ∧
    (∃ (s : State) (l : Nat), l < 4 ∧ works s.dir = true) ∧
    (∃ (s : State), works s.dir = true ∧ s.dir.sk.active = true ∧ s.dir.sk.statusDue = true) ∧
    (∃ (s : State) (ok : BitVec 4) (lg : Nat), works s.dir = true ∧ s.dir.sk.active = true ∧ ok ≠ s.dir.sk.twinOk ∧ lg < 4 ∧
        s.dir.sk.ownOk.getLsbD lg = true ∧ ok.getLsbD lg = true ∧ (lane s.dir (physLane s.dir lg)).mode = .active) ∧
    (∃ (s : State), works s.dir = true ∧ s.dir.sk.active = true ∧ s.dir.sk.change = true ∧ (bestWidth s.dir).1 ≠ 0 ∧ bestWidth s.dir ≠ (s.dir.sk.width,
        s.dir.sk.base)) :=
  ⟨⟨up, 3, by decide +kernel⟩,
   ⟨(dirS fun d => { d with sk := { d.sk with lanes := [(3, { mode := .detect })] } }), 3,
      { crcOk := true, kind := 2, physLane := 3, state := 3, req := 0, rsp := 0, pre := 0, post := 0, index := 5, data := identItem upDir false 5, inverted := false, eye := 0, skewNs := 0 },
      by decide +kernel⟩,
   ⟨identS, 3,
      { crcOk := true, kind := 2, physLane := 3, state := 3, req := 0, rsp := 0, pre := 0, post := 0, index := 5, data := identItem upDir false 5, inverted := false, eye := 0, skewNs := 0 },
      (by rw [identS_item]; rfl), (by intro j h hne; rw [identS_item, identS_ident]; exact twinItems_ok j h hne), by decide +kernel⟩,
   ⟨(dirS fun d => { d with sk := { d.sk with lanes := [(3, { mode := .equalize, best := 47 })] } }), 3, by decide +kernel⟩,
   ⟨(dirS fun d => { d with sk := { d.sk with lanes := [(3, { mode := .equalize, best := 48 })] } }), 3, by decide +kernel⟩,
   ⟨up, 3, by decide +kernel⟩,
   ⟨(dirS fun d => { d with sk := { d.sk with active := true, statusDue := true } }), by decide +kernel⟩,
   ⟨(dirS fun d => { d with sk := { d.sk with active := true, ownOk := 15, twinOk := 7, width := 4, lanes := [(0, { mode := .active }), (1, { mode := .active }), (2, { mode := .active }), (3, { mode := .active })] } }),
      15, 3, by decide +kernel⟩,
   ⟨(dirS fun d => { d with sk := { d.sk with active := true, ownOk := 15, twinOk := 15, width := 2, change := true, lanes := [(0, { mode := .active }), (1, { mode := .active }), (2, { mode := .active }), (3, { mode := .active })] } }),
      by decide +kernel⟩⟩

theorem witness_LaneLossAndRetraining :
    (∃ (s : State) (l : Nat) (w : LaneCause), l < 4 ∧ works s.dir = true ∧ (lane s.dir l).mode = .active ∧ (w = .crc → 4 ≤ (lane s.dir l).crcRun)) ∧
    (∃ (s : State) (l : Nat), l < 4 ∧ works s.dir = true ∧ (lane s.dir l).holdTen = true) ∧
    (∃ (s : State) (l : Nat), l < 4 ∧ works s.dir = true ∧ s.dir.sk.active = true ∧ (lane s.dir l).retrain = true ∧ (lane s.dir l).prbsRun = true ∧
        tget 0 (2 + l) s.dir.bg.grants ≠ 0) ∧
    (∃ (s : State) (n : Nat) (e : Nat), n < 52 ∧ works s.dir = true ∧ (port s.dir n).prbs.check = true ∧ (port s.dir n).prbs.locked = true) ∧
    (∃ (s : State) (n : Nat) (e : Nat), n < 4 ∧ works s.dir = true ∧ (skPrbs s.dir n).check = true ∧ (skPrbs s.dir n).locked = true) ∧
    (∃ (s : State) (n : Nat) (e : Nat), n < 2 ∧ works s.dir = true ∧ (skPrbs s.dir (4 + n)).check = true ∧ (skPrbs s.dir (4 + n)).locked = false) ∧
    (∃ (s : State) (n : Nat) (e : Nat), n < 2 ∧ s.cell.mode ≠ .unpowered ∧ s.cell.prbs.getLsbD 11 = true ∧ s.cell.prbs.getLsbD 15 = decide (n = 1)) :=
  ⟨⟨(dirS fun d => { d with sk := { d.sk with lanes := [(3, { mode := .active, crcRun := 4 })] } }), 3, .crc, by decide +kernel⟩,
   ⟨(dirS fun d => { d with sk := { d.sk with lanes := [(3, { holdTen := true })] } }), 3, by decide +kernel⟩,
   ⟨(dirS fun d => { d with sk := { d.sk with active := true, lanes := [(3, { retrain := true, prbsRun := true })] }, bg := { d.bg with grants := [(5, 1)] } }),
      3, by decide +kernel⟩,
   ⟨(dirS fun d => { d with ports := [(51, { prbs := { check := true, locked := true } })] }), 51, 0, by decide +kernel⟩,
   ⟨(dirS fun d => { d with prbs := [(3, { check := true, locked := true })] }), 3, 0, by decide +kernel⟩,
   ⟨(dirS fun d => { d with prbs := [(5, { check := true })] }), 1, 0, by decide +kernel⟩,
   ⟨(cellS fun c => { c with prbs := 0x8800 }), 1, 0, by decide +kernel⟩⟩

theorem witness_Keys :
    (∃ (s : State) (p : List Byte), works s.dir = true ∧ s.dir.sk.active = true ∧ sideNum s.dir = 1 ∧ p.length = 240 ∧ byteAt p 0 = 1 ∧
        allZero (sub p 1 3) = false) ∧
    (∃ (s : State) (p : List Byte), works s.dir = true ∧ s.dir.sk.active = true ∧ sideNum s.dir = 1 ∧ p.length = 240 ∧ byteAt p 0 = 1 ∧
        allZero (sub p 1 3) = true ∧ allZero (sub p 57 7) = true ∧ twinCertOk s.dir (sub p 64 112) = true ∧
        ecdsaVerify (sub (sub p 64 112) 15 33) (sha256 (p.take 176)) (sub p 176 64) = true ∧ onCurve (sub p 24 33) = true) ∧
    (∃ (s : State) (p : List Byte) (o : List Byte), works s.dir = true ∧ s.dir.sk.active = true ∧ sideNum s.dir = 0 ∧ p.length = 240 ∧ byteAt p 0 = 2 ∧
        s.dir.sec.skOffer = some o ∧ allZero (sub p 1 3) = true ∧ allZero (sub p 57 7) = true ∧ twinCertOk s.dir (sub p 64 112) = true ∧
        ecdsaVerify (sub (sub p 64 112) 15 33) (sha256 (o ++ p.take 176)) (sub p 176 64) = true ∧ onCurve (sub p 24 33) = true ∧ s.dir.sec.skKey = none) ∧
    (∃ (s : State) (x : Nat), works s.dir = true ∧ s.dir.sk.active = true ∧ sideNum s.dir = 0 ∧ s.dir.sec.skRetryAt = some x ∧ x < s.dir.time.raw) ∧
    (∃ (s : State), works s.dir = true ∧ s.dir.sk.active = true ∧ sideNum s.dir = 0 ∧ s.dir.sec.skKey.isSome = true ∧ s.dir.sec.skNext = none ∧
        s.dir.sec.skOffer = none ∧ keyAged s.dir s.dir.sec.skSince s.dir.sec.skSinceCycle = true) ∧
    (∃ (s : State) (n : Nat), n < 52 ∧ works s.dir = true ∧ portHere (part s.dir) n = true ∧ s.dir.time.running = true ∧ (treeKey s.dir n).valid = true ∧
        keyAged s.dir (treeKey s.dir n).since (treeKey s.dir n).sinceCycle = true ∧ (treeKey s.dir n).next = none) ∧
    (∃ (s : State) (n : Nat) (fr : Cycle), n < 52 ∧ works s.dir = true ∧ (treeKey s.dir n).rekeyed = some fr ∧ 0 ≤ cycleDiff (cyc s.dir) (fr + 2)) ∧
    (∃ (s : State), works s.dir = true ∧ s.dir.time.running = true ∧ (cyc s.dir).toNat % rollPeriod (planN (cfg s.dir)) = 0 ∧
        s.dir.sec.rolledAt ≠ some (cyc s.dir)) :=
  ⟨⟨(dirS fun d => { d with boot := { d.boot with side := .y }, sk := { d.sk with active := true } }), (1 :: 1 :: zeros 238), by decide +kernel⟩,
   ⟨(dirS fun d => { withOwner d with boot := { d.boot with side := .y }, sk := { d.sk with active := true } }),
      ([1] ++ zeros 23 ++ toBE 33 0x037cf27b188d034f7e8a52380304b51ac3c08969e277f21b35a60b48fc47669978 ++ zeros 7 ++ ownCert ++ toBE 64 0x8e533b6fa0bf7b4625bb30667c01fb607ef9f8b8a80fef5b300628703187b2a3627659aa9128927fbacd636766a8ee38aea9525a3e7d6474f615695ac1dd89d3),
      by decide +kernel⟩,
   ⟨(dirS fun d => { withOwner d with sk := { d.sk with active := true }, sec := { (withOwner d).sec with skOffer := some [9] } }),
      ([2] ++ zeros 23 ++ toBE 33 0x037cf27b188d034f7e8a52380304b51ac3c08969e277f21b35a60b48fc47669978 ++ zeros 7 ++ sideYCert ++ toBE 64 0x8e533b6fa0bf7b4625bb30667c01fb607ef9f8b8a80fef5b300628703187b2a3de13f9c4d6470a64c4c34d169ca6ece3a223652ded99a2249071a09a0b7f3493),
      [9], by decide +kernel⟩,
   ⟨(dirS fun d => { d with sk := { d.sk with active := true }, sec := { d.sec with skRetryAt := some 12499999 } }), 12499999, by decide +kernel⟩,
   ⟨(dirS fun d => { d with sk := { d.sk with active := true }, time := { d.time with raw := 10 ^ 16 }, sec := { d.sec with skKey := some 5 } }),
      by decide +kernel⟩,
   ⟨(dirS fun d => { d with time := { d.time with raw := 10 ^ 16 }, sec := { d.sec with trees := [(51, { valid := true })] } }), 51, by decide +kernel⟩,
   ⟨(dirS fun d => { d with sec := { d.sec with trees := [(51, { rekeyed := some 998 })] } }), 51, 998, by decide +kernel⟩,
   ⟨(dirS fun d => { d with time := { d.time with cycle := 0 } }), by decide +kernel⟩⟩

theorem witness_RecordsAndTriggers :
    (∃ (s : State) (c0 : Cycle) (bs : List Byte) (r : List (Cycle × List Byte)), Inv s ∧ works s.dir = true ∧ s.dir.rcd.mode = .armed ∧
        s.dir.rcd.trig = none ∧ s.dir.rcd.ready = (c0, bs) :: r ∧ 19 ≤ bs.length) ∧
    (∃ (s : State) (c0 : Cycle) (bs : List Byte) (r : List (Cycle × List Byte)) (tr : Trigger) (room : Bool), works s.dir = true ∧
        s.dir.rcd.mode = .triggered ∧ s.dir.rcd.trig = some tr ∧ s.dir.rcd.ready = (c0, bs) :: r) ∧
    (∃ (s : State) (k : Cycle), works s.dir = true ∧ s.dir.time.running = true ∧ k = cyc s.dir - 2 ∧ (baseOf s.dir k).isSome = true ∧
        s.dir.rcd.decided ≠ some k ∧ (∀ i, i < 64 → rp s.dir 11 i 0 = 0) ∧ rp s.dir 22 0 0 = 0 ∧ s.dir.rcd.autoPoint = none ∧ s.dir.rcd.pFreeze = none ∧
        s.dir.frz.draining = false) ∧
    (∃ (s : State), works s.dir = true ∧ s.dir.rcd.mode = .armed ∧ rp s.dir 7 0 0 ≠ 0 ∧ rp s.dir 7 0 0 ≤ s.dir.rcd.autoRun ∧ s.dir.rcd.autoPoint = none) ∧
    (∃ (s : State) (k : Cycle) (mb : Nat) (c : Cmd) (sg : Nat), (∀ i, i < 64 → rp s.dir 11 i 0 = 0) ∧ works s.dir = true ∧ s.dir.time.running = true ∧
        k = cyc s.dir - 2 ∧ (baseOf s.dir k).isSome = true ∧ s.dir.rcd.decided ≠ some k ∧ rp s.dir 22 0 0 = 0 ∧ s.dir.rcd.autoPoint = none ∧
        s.dir.rcd.pFreeze = none ∧ s.dir.frz.draining = false ∧ s.dir.rcd.pCmd = some (k, mb) ∧ (mbx s.dir mb).cmd = some c ∧ s.dir.rcd.seg = some sg ∧
        s.dir.rcd.mode = .armed ∧ 0 ≤ cycleDiff k s.dir.rcd.armAt) ∧
    (∃ (s : State) (k : Cycle) (mb : Nat) (c : Cmd) (sg : Nat), (∀ i, i < 64 → rp s.dir 11 i 0 = 0) ∧ works s.dir = true ∧ s.dir.time.running = true ∧
        k = cyc s.dir - 2 ∧ (baseOf s.dir k).isSome = true ∧ s.dir.rcd.decided ≠ some k ∧ rp s.dir 22 0 0 = 0 ∧ s.dir.rcd.autoPoint = none ∧
        s.dir.rcd.pFreeze = none ∧ s.dir.frz.draining = false ∧ s.dir.rcd.pCmd = some (k, mb) ∧ (mbx s.dir mb).cmd = some c ∧ s.dir.rcd.seg = some sg ∧
        s.dir.rcd.mode = .triggered) :=
  ⟨⟨(dirS fun d => { d with rcd := { d.rcd with mode := .armed, ready := [(0, zeros 19)] } }), 0, (zeros 19), [], by unfold Machine.Inv; decide +kernel⟩,
   ⟨(dirS fun d => { d with rcd := { d.rcd with mode := .triggered, trig := some (mkTrigger d 3 0xFF false 1000 0 0 false), ready := [(0, zeros 19)] } }),
      0, (zeros 19), [], (mkTrigger upDir 3 0xFF false 1000 0 0 false), true, by decide +kernel⟩,
   ⟨(dirS fun d => { d with rcd := { d.rcd with flagBase := [(998, 0, 0, false)] } }), 998, by decide +kernel⟩,
   ⟨(dirS fun d => { d with rcd := { d.rcd with mode := .armed, autoRun := 1 }, cfg := { d.cfg with parsed := d.cfg.parsed ++ [(0x0500, [{ pid := 7, elem := 0, data := [1, 0, 0, 0] }])] } }),
      by decide +kernel⟩,
   ⟨(dirS fun d => { d with mbs := [(0, { state := .active, cmd := some (cmdOf 0x0802 []) })], rcd := { d.rcd with mode := .armed, flagBase := [(998, 0, 0, false)], seg := some 0, armAt := 990, pCmd := some (998, 0), trig := none } }),
      998, 0, cmdOf 0x0802 [], 0, by decide +kernel⟩,
   ⟨(dirS fun d => { d with mbs := [(0, { state := .active, cmd := some (cmdOf 0x0802 []) })], rcd := { d.rcd with mode := .triggered, flagBase := [(998, 0, 0, false)], seg := some 0, armAt := 990, pCmd := some (998, 0), trig := some (mkTrigger d 3 0xFF false 995 0 0 false) } }),
      998, 0, cmdOf 0x0802 [], 0, by decide +kernel⟩⟩

theorem witness_SegmentsAndQueues :
    (∃ (s : State) (i : Nat), Inv s ∧ works s.dir = true ∧ s.dir.rcd.seg = some i ∧ s.dir.rcd.mode = .closing ∧ s.dir.rcd.nextSeg = none) ∧
    (∃ (s : State) (j : _), works s.dir = true ∧ s.dir.time.running = true ∧ s.dir.rcd.mode = .closing ∧ s.dir.rcd.nextSeg = some j ∧
        boundaryAt s.dir (cyc s.dir) = cyc s.dir ∧ 0 < cycleDiff (cyc s.dir) s.dir.rcd.armAt) ∧
    (∃ (s : State) (q : _), q < 6 ∧ works s.dir = true) :=
  ⟨⟨(dirS fun d => { d with rcd := { d.rcd with mode := .closing, seg := some 0 } }), 0, by unfold Machine.Inv; decide +kernel⟩,
   ⟨(dirS fun d => { d with rcd := { d.rcd with mode := .closing, nextSeg := some 0 } }), 0, by decide +kernel⟩,
   ⟨up, 5, by decide +kernel⟩⟩

theorem witness_ResetAndBoot :
    (∃ (s : State), Inv s) ∧
    (∃ (s : State) (side : Side), s.dir.boot.state = .held) ∧
    (∃ (s : State), s.dir.boot.state = .fuseLoad) ∧
    (∃ (s : State) (p : Nat), s.dir.boot.state = .imageLoad ∧ p = (if preferredSlot s.mem s.dir = 1 then 1 else 0)) :=
  ⟨⟨State.reset, by unfold Machine.Inv; decide +kernel⟩,
   ⟨(dirS fun d => { d with boot := { d.boot with state := .held } }), .y, by decide +kernel⟩,
   ⟨State.reset, by decide +kernel⟩,
   ⟨(dirS fun d => { d with boot := { d.boot with state := .imageLoad } }), 0, by decide +kernel⟩⟩

theorem witness_ReleaseAndResets :
    (∃ (s : State) (ok : Bool), s.dir.boot.state = .released) ∧
    (∃ (s : State), s.dir.boot.state = .released) ∧
    (∃ (s : State), works s.dir = true ∧ s.dir.boot.preferred = true ∧ s.dir.boot.runAt + 750000000000 ≤ s.dir.time.raw ∧
        arbCounter s.dir < fld s.dir.boot.version.toNat 31 23) ∧
    (∃ (s : State), s.dir.pins.resetN = true ∧ s.dir.frz.frozen = false ∧ s.dir.pins.served = false) ∧
    (∃ (s : State) (a : Nat), serves s.dir = true ∧ s.dir.boot.ueCause = some a) :=
  ⟨⟨(dirS fun d => { d with boot := { d.boot with state := .released, step := 1 } }), true, by decide +kernel⟩,
   ⟨(dirS fun d => { d with boot := { d.boot with state := .released, step := 1 } }), by decide +kernel⟩,
   ⟨(dirS fun d => { d with boot := { d.boot with preferred := true, version := 0x00800000 }, time := { d.time with raw := 750000000000 } }),
      by decide +kernel⟩,
   ⟨(dirS fun d => { d with pins := { d.pins with served := false } }), by decide +kernel⟩,
   ⟨(dirS fun d => { d with boot := { d.boot with ueCause := some 64 } }), 64, by decide +kernel⟩⟩

theorem witness_Freezing :
    (∃ (s : State) (held : Nat), s.dir.pins.resetN = true ∧ (s.dir.boot.state = .released ∨ s.dir.boot.state = .run ∨ s.dir.boot.state = .safe) ∧
        s.dir.frz.cause = 0 ∧ s.dir.frz.frozen = false) ∧
    (∃ (s : State), s.dir.frz.armedCmd = true ∧ (s.dir.boot.state = .released ∨ s.dir.boot.state = .run ∨ s.dir.boot.state = .safe) ∧ s.dir.frz.cause = 0 ∧
        s.dir.frz.frozen = false) ∧
    (∃ (s : State) (i : Nat), s.dir.frz.draining = true ∧ s.dir.rcd.mode ≠ .stopped ∧ s.dir.time.pllLock = true ∧
        s.dir.frz.started + 2500000000 < s.dir.time.raw ∧ s.dir.rcd.seg = some i) ∧
    (∃ (s : State) (us : Nat), s.dir.frz.draining = true ∧ (s.dir.time.pllLock = false ∨ s.dir.rcd.mode = .stopped)) :=
  ⟨⟨up, 25, by decide +kernel⟩,
   ⟨(dirS fun d => { d with frz := { d.frz with armedCmd := true } }), by decide +kernel⟩,
   ⟨(dirS fun d => { d with rcd := { d.rcd with mode := .armed, seg := some 0 }, frz := { d.frz with draining := true }, time := { d.time with raw := 2500000001 } }),
      0, by decide +kernel⟩,
   ⟨(dirS fun d => { d with frz := { d.frz with draining := true } }), 0, by decide +kernel⟩⟩

theorem witness_Scrubbing :
    (∃ (s : State) (addr : Nat) (k : MemKind), scrubs s.dir = true) ∧
    (∃ (s : State), scrubs s.dir = true) ∧
    (∃ (s : State), scrubs s.dir = true ∧ s.dir.bg.passLate = false ∧ s.dir.bg.passAt + 12500000000 < s.dir.time.raw) ∧
    (∃ (s : State) (e : EccStatus) (c : Bool), scrubs s.dir = true ∧ s.dir.time.pllLock = true ∧ s.dir.boot.ddrMiB ≠ 0) :=
  ⟨⟨up, 0, .controlPath, by decide +kernel⟩,
   ⟨up, by decide +kernel⟩,
   ⟨(dirS fun d => { d with time := { d.time with raw := 12500000001 } }), by decide +kernel⟩,
   ⟨up, .clean, false, by decide +kernel⟩⟩

theorem witness_PowerArbiterAndEstimator :
    (∃ (s : State), works s.dir = true) ∧
    (∃ (s : State) (new : Table Nat), works s.dir = true ∧ s.dir.bg.toGrant = some new) ∧
    (∃ (s : State) (b : Nat) (w : Nat × Nat × Bool), b < 6 ∧ works s.dir = true ∧ w ∈ s.dir.bg.waitSince ∧ blockOf w.1 = b ∧ w.2.2 = false ∧
        w.2.1 + 1250000000 < s.dir.time.raw) ∧
    (∃ (s : State) (t0 : Int) (t1 : Int) (t2 : Int) (t3 : Int) (m : Int), works s.dir = true ∧ m = max (max t0 t1) (max t2 t3)) ∧
    (∃ (s : State) (a : Nat) (sn : CalSnap), a < 6 ∧ estRuns s.dir a = true ∧ (arm s.dir a).est.snap = some sn) ∧
    (∃ (s : State) (a : Nat), a < 6 ∧ estRuns s.dir a = true ∧ parm (armS (cfg s.dir) a) 55 0 4096 ≤ (arm s.dir a).est.updates) :=
  ⟨⟨up, by decide +kernel⟩,
   ⟨(dirS fun d => { d with bg := { d.bg with toGrant := some [] } }), [], by decide +kernel⟩,
   ⟨(dirS fun d => { d with bg := { d.bg with waitSince := [(0, 0, false)] }, time := { d.time with raw := 1250000001 } }), 0, (0, 0, false),
      by decide +kernel⟩,
   ⟨up, 0, 0, 0, 0, 0, by decide +kernel⟩,
   ⟨(dirS fun d => { d with arms := [(0, { role := .authority, est := { snap := some { cycle := 0, y := 0, i := 0, cells := [] } } })], cfg := { d.cfg with parsed := d.cfg.parsed ++ [(0x1000, [{ pid := 50, elem := 0, data := [1, 0, 0, 0] }])] } }),
      0, { cycle := 0, y := 0, i := 0, cells := [] }, by decide +kernel⟩,
   ⟨(dirS fun d => { d with arms := [(0, { role := .authority, est := { updates := 4096 } })], cfg := { d.cfg with parsed := d.cfg.parsed ++ [(0x1000, [{ pid := 50, elem := 0, data := [1, 0, 0, 0] }])] } }),
      0, by decide +kernel⟩⟩

theorem witness_CellPowerAndClocks :
    (∃ (s : State), s.cell.mode = .unpowered) ∧
    (∃ (s : State) (n : Nat), s.cell.mode = .fuseLoad ∧ n = (s.cell.fuseA ||| s.cell.fuseB).toNat) ∧
    (∃ (s : State) (img : EepromImage), s.cell.mode = .eepromLoad) ∧
    (∃ (s : State), s.cell.mode ≠ .unpowered ∧ s.cell.mode ≠ .frozen) ∧
    (∃ (s : State), receives s.cell = true) ∧
    (∃ (s : State) (tick : Int), receives s.cell = true ∧ s.cell.bypass = false) ∧
    (∃ (s : State) (l : Link) (tick : Nat), s.cell.mode ≠ .unpowered) ∧
    (∃ (s : State) (l : Link), s.cell.mode ≠ .unpowered) ∧
    (∃ (s : State) (tick : Nat) (cy : Cycle) (k : Int), receives s.cell = true ∧ noReference s.cell = true ∧ (steerLink s.cell).darkAt = some (cy, k) ∧
        s.cell.bypass = false) ∧
    (∃ (s : State) (d : Int) (l : Link), s.cell.steerNext = some l) :=
  ⟨⟨State.reset, by decide +kernel⟩,
   ⟨(cellS fun c => { c with mode := .fuseLoad }), 0, by decide +kernel⟩,
   ⟨(cellS fun c => { c with mode := .eepromLoad }), { present := false, bytes := [] }, by decide +kernel⟩,
   ⟨cellUp, by decide +kernel⟩,
   ⟨cellUp, by decide +kernel⟩,
   ⟨cellUp, 0, by decide +kernel⟩,
   ⟨cellUp, .lb, 0, by decide +kernel⟩,
   ⟨cellUp, .lb, by decide +kernel⟩,
   ⟨(cellS fun c => { c with la := { c.la with signal := false, darkAt := some (1000, 0) }, lb := { c.lb with signal := false } }), 125000, 1000, 0,
      by decide +kernel⟩,
   ⟨(cellS fun c => { c with steerNext := some .lb }), (-101), .lb, by decide +kernel⟩⟩

theorem witness_CellFramesAndBursts :
    (∃ (s : State) (l : Link) (f : DownSeen), receives s.cell = true ∧ (getLink s.cell l).signal = true) ∧
    (∃ (s : State) (l : Link) (bits : List Bool) (raw : List Bool) (k : CellKey) (v : Nat) (x : CLink) (tick : Int), receives s.cell = true ∧
        x = getLink s.cell l ∧ x.signal = true ∧ destuff (typeRun tcUrgent) bits = some raw ∧ 31 ≤ raw.length ∧
        v = bitsNat (scramble fixedSeed (raw.take 31)) ∧ fld v 30 24 = fld x.cyc.toNat 6 0 ∧ heldKeys x x.cyc = [k] ∧
        leftTag 24 (gmac k.key (iv 0x03 (x.treeId.getD 0).toNat 0 0 x.cyc) [BitVec.ofNat 8 (x.treeId.getD 0).toNat, BitVec.ofNat 8 (fld v 30 24)]) = fld v 23 0 ∧
        s.cell.variant ≠ .node) ∧
    (∃ (s : State) (l : Link) (n : Nat) (w : Nat) (f : Cycle) (k : Key) (x : CLink), (∀ g, x.giveUp = some g → reached x.cyc g = false) ∧ (∀ g,
        g ∈ x.frames → g.cycle = x.cyc → g.suspended = false) ∧ maySend s.cell l = true ∧ x = getLink s.cell l ∧ x.slot = some (n, w, f) ∧
        x.session = some k ∧ reached x.cyc f = true) ∧
    (∃ (s : State) (l : Link) (i : Nat) (e : _) (x : CLink), maySend s.cell l = true ∧ x = getLink s.cell l ∧ e ∈ x.subs ∧ 0 ≤ cycleDiff x.cyc e.1 ∧
        cycleDiff x.cyc e.1 < e.2.2 ∧ bit e.2.1 i = true ∧ i < 8 ∧ x.mode ≠ .listen) ∧
    (∃ (s : State) (l : Link) (j : Nat) (n : Nat) (x : CLink), maySend s.cell l = true ∧ x = getLink s.cell l ∧ x.qual = true ∧ x.mode = .listen ∧
        x.pick = some 0 ∧ x.window = some (x.cyc, j, n) ∧ x.nakWait = none ∧ x.asked = none ∧ prbsRuns s.cell = false) ∧
    (∃ (s : State) (l : Link) (cy : Cycle), (getLink s.cell l).asked = some cy ∧ 8 ≤ cycleDiff (getLink s.cell l).cyc cy) ∧
    (∃ (s : State) (l : Link), (getLink s.cell l).nakWait = some 0) ∧
    (∃ (s : State) (l : Link) (e : CellExchange), (getLink s.cell l).exch = some e ∧ 80 ≤ e.idle ∧ (getLink s.cell l).slot = none) ∧
    (∃ (s : State) (l : Link), 64 ≤ (getLink s.cell l).silent) ∧
    (∃ (s : State) (l : Link) (held : Nat) (limit : Nat) (on : Int) (off : Int) (x : CLink), receives s.cell = true ∧ prbsRuns s.cell = false ∧
        x = getLink s.cell l ∧ x.enable = some (limit, on, off)) ∧
    (∃ (s : State), receives s.cell = true) ∧
    (∃ (s : State) (l : Link) (f : DownSeen) (bits : List Bool) (bs : List Byte) (h : Header) (k : CellKey), beAt bs 608 4 = crc32c (bs.take 608) ∧
        destuff (typeRun f.typeCode) f.bits = some bits ∧ bs = descrambleFrame (f.typeCode = tcRepeat) bits ∧ receives s.cell = true ∧
        (getLink s.cell l).signal = true ∧ f.typeCode = tcFirst ∧ f.cut = false ∧ bs.length = 612 ∧ h = parseHeader bs ∧ h.reserved = false ∧ h.port ≤ 51 ∧
        h.mgmt = false ∧ (getLink s.cell l).treeId = none ∧ (getLink s.cell l).last = none ∧ heldKeys (getLink s.cell l) h.cycle = [k] ∧
        k.phase = h.keyPhase ∧ h.cycle = (getLink s.cell l).cyc ∧ (gmac k.key (iv 0x01 h.treeId.toNat 96 0 h.cycle) (bs.take 592)).toNat = beAt bs 592 16) :=
  ⟨⟨cellUp, .la, { typeCode := 0, bits := [], cut := false, arrival := 0, fcsTick := 0, delta := 0, dsat := 0 }, by decide +kernel⟩,
   ⟨(cellS fun c => { c with la := { c.la with keys := [{ phase := false, start := 0, key := 5 }] } }), .la,
      (stuff (typeRun tcUrgent) (scramble fixedSeed (natBits 31 (104 * 2 ^ 24 + 15285615)))), (scramble fixedSeed (natBits 31 (104 * 2 ^ 24 + 15285615))),
      { phase := false, start := 0, key := 5 }, (104 * 2 ^ 24 + 15285615),
      (cellS fun c => { c with la := { c.la with keys := [{ phase := false, start := 0, key := 5 }] } }).cell.la, 0, by decide +kernel⟩,
   ⟨(cellS fun c => { c with la := { c.la with slot := some (63, 0, 1000), session := some 5 } }), .la, 63, 0, 1000, 5,
      (cellS fun c => { c with la := { c.la with slot := some (63, 0, 1000), session := some 5 } }).cell.la, (fun _ h => by cases h),
      (fun _ h => by cases h), by decide +kernel⟩,
   ⟨(cellS fun c => { c with la := { c.la with subs := [(1000, 128, 1)] } }), .la, 7, (1000, 128, 1),
      (cellS fun c => { c with la := { c.la with subs := [(1000, 128, 1)] } }).cell.la, by decide +kernel⟩,
   ⟨(cellS fun c => { c with la := { c.la with mode := .listen, pick := some 0, window := some (1000, 0, 1) } }), .la, 0, 1,
      (cellS fun c => { c with la := { c.la with mode := .listen, pick := some 0, window := some (1000, 0, 1) } }).cell.la, by decide +kernel⟩,
   ⟨(cellS fun c => { c with la := { c.la with asked := some 992 } }), .la, 992, by decide +kernel⟩,
   ⟨(cellS fun c => { c with la := { c.la with nakWait := some 0 } }), .la, by decide +kernel⟩,
   ⟨(cellS fun c => { c with la := { c.la with exch := some { handle := 1, window := 0, eph := 0, idle := 80 } } }), .la,
      { handle := 1, window := 0, eph := 0, idle := 80 }, by decide +kernel⟩,
   ⟨(cellS fun c => { c with la := { c.la with silent := 64 } }), .la, by decide +kernel⟩,
   ⟨(cellS fun c => { c with la := { c.la with enable := some (448, 0, 7168) } }), .la, 448, 448, 0, 7168,
      (cellS fun c => { c with la := { c.la with enable := some (448, 0, 7168) } }).cell.la, by decide +kernel⟩,
   ⟨cellUp, by decide +kernel⟩,
   ⟨(cellS fun c => { c with la := { c.la with treeId := none, keys := [{ phase := false, start := 0, key := 5 }] } }), .la,
      { typeCode := tcFirst, bits := stuff (typeRun tcFirst) (orderBits 1000 96 (bytesBits witFrame)), cut := false, arrival := 0, fcsTick := 0, delta := 0, dsat := 0 },
      (orderBits 1000 96 (bytesBits witFrame)), witFrame, parseHeader witFrame, { phase := false, start := 0, key := 5 }, (by rw [crc_go]; decide +kernel),
      Laws.destuff_stuff (typeRun tcFirst).1 (typeRun tcFirst).2 _ (by decide +kernel),
      (Laws.descrambleFrame_orderBits 1000 false witFrame (by decide +kernel) (by decide +kernel)).symm, by decide +kernel⟩⟩

theorem witness_CellOrdersAndProtection :
    (∃ (s : State) (l : Link) (r : OrdRec), s.cell.decided = false ∧ leaseRuns s.cell = true ∧ holderLink s.cell.holder = some l ∧
        (decisionTick s.cell).isSome = true ∧ validRec s.cell l (decisionTick s.cell) = some r) ∧
    (∃ (s : State) (l : Link), s.cell.decided = false ∧ leaseRuns s.cell = true ∧ s.cell.holder = .none ∧ (decisionTick s.cell).isSome = true ∧
        claimant s.cell (validRec s.cell .la (decisionTick s.cell)) (validRec s.cell .lb (decisionTick s.cell)) = some l) ∧
    (∃ (s : State) (r : OrdRec) (v : Int), (s.cell.mode = .safeBypass → s.cell.selFill = false) ∧ s.cell.executed = false ∧ s.cell.variant ≠ .node ∧
        outputsLive s.cell = true ∧ stageOk s.cell = true ∧ timeQual s.cell = true ∧ s.cell.sel = some r ∧ s.cell.forced = none ∧ s.cell.preempt = none) ∧
    (∃ (s : State) (q : OrdRec) (v : Int), s.cell.executed = false ∧ s.cell.variant ≠ .node ∧ outputsLive s.cell = true ∧ stageOk s.cell = true ∧
        timeQual s.cell = true ∧ faulted s.cell = false ∧ s.cell.sel = none ∧ s.cell.forced = some q ∧ s.cell.preempt = none) ∧
    (∃ (s : State) (v : Int), s.cell.sel = none ∧ s.cell.forced = none) ∧
    (∃ (s : State) (a : Int) (d : GateState) (b : Bool),
        (s.cell.gates.edges.find? fun e => match e with | .trim .. => true | _ => false) = some (.trim a d b) ∧ s.cell.gates.state ≠ .blocked ∧ d ≠ .blocked) ∧
    (∃ (s : State) (tk : Int), nextTurnOn s.cell.gates.edges = some tk) ∧
    (∃ (s : State), s.cell.decided = true ∧ s.cell.variant ≠ .node ∧ receives s.cell = true) ∧
    (∃ (s : State), s.cell.mode = .hold ∧ s.cell.gates.blocked = false) ∧
    (∃ (s : State) (tick : Nat) (v : Int), s.cell.variant ≠ .node ∧ receives s.cell = true ∧ cp s.cell 0x18 ≠ 0 ∧ s.cell.gates.ovHeld = false ∧
        (cp s.cell 0x18 : Int) * 1000 < v) ∧
    (∃ (s : State) (tick : Nat) (v : Int), s.cell.variant ≠ .node ∧ receives s.cell = true ∧ s.cell.gates.latched = false ∧ cp s.cell 0x19 ≠ 0 ∧
        (cp s.cell 0x19 : Int) * 1000 < v) ∧
    (∃ (s : State) (b : Bool), s.cell.variant ≠ .node ∧ receives s.cell = true) ∧
    (∃ (s : State) (input : Nat) (tick : Nat), input < 4 ∧ s.cell.variant ≠ .node ∧ (s.cell.variant = .half → input < 2) ∧ receives s.cell = true) ∧
    (∃ (s : State) (tick : Nat), s.cell.mode ≠ .unpowered) ∧
    (∃ (s : State), s.cell.mode ≠ .unpowered) ∧
    (∃ (s : State) (mv : Nat), s.cell.mode ≠ .unpowered) ∧
    (∃ (s : State) (mv : Nat) (tick : Nat), s.cell.mode ≠ .unpowered) :=
  ⟨⟨(cellS fun c => { c with holder := .x, la := { c.la with recs := [rec0] } }), .la, rec0, by decide +kernel⟩,
   ⟨(cellS fun c => { c with la := { c.la with recs := [rec0] } }), .la, by decide +kernel⟩,
   ⟨(cellS fun c => { c with mode := .safeBypass, sel := some rec0, params := [(0x14, 1)] }), rec0, 0, (fun _ => rfl), by decide +kernel⟩,
   ⟨(cellS fun c => { c with forced := some rec0, params := [(0x14, 1)] }), rec0, 0, by decide +kernel⟩,
   ⟨cellUp, 0, by decide +kernel⟩,
   ⟨(cellS fun c => { c with gates := { c.gates with state := .insPos, edges := [.trim 0 .bypassed true] } }), 0, .bypassed, true, by decide +kernel⟩,
   ⟨(cellS fun c => { c with gates := { c.gates with edges := [.turnOn 5 0] } }), 5, by decide +kernel⟩,
   ⟨(cellS fun c => { c with decided := true }), by decide +kernel⟩,
   ⟨(cellS fun c => { c with mode := .hold }), by decide +kernel⟩,
   ⟨(cellS fun c => { c with params := [(0x18, 5)] }), 0, 5001, by decide +kernel⟩,
   ⟨(cellS fun c => { c with params := [(0x19, 5)] }), 0, 5001, by decide +kernel⟩,
   ⟨cellUp, true, by decide +kernel⟩,
   ⟨cellUp, 1, 0, by decide +kernel⟩,
   ⟨cellUp, 0, by decide +kernel⟩,
   ⟨cellUp, by decide +kernel⟩,
   ⟨cellUp, 400, by decide +kernel⟩,
   ⟨cellUp, 379, 0, by decide +kernel⟩⟩

theorem witness_CellMeasurementAndTest :
    (∃ (s : State) (q : List (List Int)) (c : List Int) (v : Nat), receives s.cell = true) ∧
    (∃ (s : State) (x : Int), receives s.cell = true ∧ s.cell.variant ≠ .node) ∧
    (∃ (s : State) (x : Int), receives s.cell = true ∧ s.cell.meas.calRun = false ∧ s.cell.meas.slot < slotsJ s.cell ∧
        slotsJ s.cell ∉ s.cell.meas.lostSlots ∧ 1 ≤ s.cell.meas.chan ∧ bit s.cell.meas.cfg s.cell.meas.chan = true) ∧
    (∃ (s : State) (x : Int) (a : Nat), (s.cell.meas.injOv = true ∨ s.cell.meas.injOrd = true)) ∧
    (∃ (s : State) (tick : Int), receives s.cell = true ∧ s.cell.meas.calRun = false ∧ calPermitted s.cell tick = true) ∧
    (∃ (s : State) (g : List Int) (r : List Int), s.cell.meas.calRun = true ∧ calEnd s.cell < (steerLink s.cell).clen ∧ g.length = 256 ∧ r.length = 256) ∧
    (∃ (s : State) (rising : Bool) (x : Int) (e : EdgeArm),
        (s.cell.edgeArms.find? fun e => (e.te - x).natAbs ≤ 8192 && e.rising.all (· == rising)) = some e) ∧
    (∃ (s : State), memWf s.mem = true ∧ receives s.cell = true ∧ s.cell.thermal.slots ≠ 0 ∧ s.cell.thermal.stopped = false ∧
        s.cell.thermal.writing = none ∧ (s.cell.thermal.due = true ∨ s.cell.thermal.period ≤ (s.cell.thermal.uptime - s.cell.thermal.lastWrite).toNat)) ∧
    (∃ (s : State) (i : Nat) (bs : List Byte), s.cell.thermal.writing = some (i, bs)) ∧
    (∃ (s : State) (v : BitVec 16), s.cell.mode ≠ .unpowered) ∧
    (∃ (s : State), s.cell.mode ≠ .unpowered) ∧
    (∃ (s : State) (a : BitVec 20), s.cell.mode ≠ .unpowered ∧ a.toNat % 4 = 0) ∧
    (∃ (s : State) (a : BitVec 20) (v : BitVec 32), memWf s.mem = true ∧ s.cell.mode ≠ .unpowered ∧ a.toNat % 4 = 0 ∧ fld a.toNat 19 16 = 2 ∧
        fld a.toNat 15 0 ≤ 0x1FF) :=
  ⟨⟨cellUp, [], [], 0, by decide +kernel⟩,
   ⟨cellUp, 0, by decide +kernel⟩,
   ⟨(cellS fun c => { c with meas := { c.meas with cfg := 4, chan := 2 } }), 0, by decide +kernel⟩,
   ⟨(cellS fun c => { c with meas := { c.meas with injOrd := true } }), 0, 0, by decide +kernel⟩,
   ⟨(cellS fun c => { c with la := { c.la with recs := [{ rec0 with flags := 80 }] } }), 1200, by decide +kernel⟩,
   ⟨(cellS fun c => { c with meas := { c.meas with calRun := true, calAt := some (968, 0) } }), (List.replicate 256 0), (List.replicate 256 0),
      by decide +kernel⟩,
   ⟨(cellS fun c => { c with edgeArms := [{ te := 0, type := 0, rising := none, index := 0, cycle := 0, main := true }] }), true, (-8192),
      { te := 0, type := 0, rising := none, index := 0, cycle := 0, main := true }, by decide +kernel⟩,
   ⟨(cellS fun c => { c with thermal := { c.thermal with slots := 4, uptime := 3600, due := true } }), by decide +kernel⟩,
   ⟨(cellS fun c => { c with thermal := { c.thermal with writing := some (0, []) } }), 0, [], by decide +kernel⟩,
   ⟨cellUp, 0, by decide +kernel⟩,
   ⟨cellUp, by decide +kernel⟩,
   ⟨cellUp, 0xFFFFC, by decide +kernel⟩,
   ⟨cellUp, 0x201FC, 0, by decide +kernel⟩⟩

end Sys2Proof.Tests
end

