-- ==== Sys2Proof/Proofs/HostReads.lean ====
section
/-! PROOF. Reads by the host (R20, R23, R424, R425, R427, R428): the words of BAR0 whose read has an effect, what an
SPI read returns, and the commands that reply. -/

namespace Sys2Proof.Machine

/-! Settling the vectors keeps what a read returns or clears. -/

@[simp] theorem shadow_settled (d : Director) (p a g : BitVec 32) (x : List Tx) (i : Iface) :
    shadow (settled d p a g x) i = shadow d i := by cases i <;> rfl

/-- Data sent before anything else stay the first thing put out when messages of vectors follow. -/
theorem replied_settled_send {d : Director} (h : d.tx = []) (bs : List Byte) (p a g : BitVec 32) (x : List Tx) :
    Replied (settled (send d (.reply bs)) p a g x) bs := by
  simp [Replied, settled, h]

/-- A director's command that does no more than reach `d` and reply: the memories stay, and the ring, the SPI count
and the shadows are those of `d`. -/
theorem next_of_onDir_reply {s : State} {o : Host.Outcome State Fault Refusal} {f : Director → Director} {d : Director}
    {bs : List Byte} (ho : o = onDir s f) (hf : f (dirStart s.dir) = send d (.reply bs)) (htx : d.tx = []) (hw : d.writes = []) :
    ∃ t, o = .next t ∧ Replied t.dir bs ∧ t.dir.ring = d.ring ∧ t.dir.host.spiCrcFail = d.host.spiCrcFail
      ∧ (∀ i, shadow t.dir i = shadow d i) ∧ t.mem = s.mem := by
  obtain ⟨t, p, a, g, x, hnext, hdir, -, -, -, hmem⟩ := onDir_next s f
  have hws : (send d (.reply bs)).writes = [] := hw
  have hsame : ({ send d (.reply bs) with writes := [] } : Director) = send d (.reply bs) := by rw [← hws]
  rw [hf, hsame] at hdir
  rw [hf, hws, applyWrites_nil] at hmem
  refine ⟨t, ho.trans hnext, ?_, ?_, ?_, fun i => ?_, hmem⟩ <;> rw [hdir]
  · exact replied_settled_send htx bs p a g x
  · rfl
  · rfl
  · exact shadow_settled (send d (.reply bs)) p a g x i

/-! The shadows of the two interfaces (R23) -/

@[simp] theorem shadow_setShadow_same (d : Director) (i : Iface) (v : Word) : shadow (setShadow d i v) i = v := by
  cases i <;> rfl

theorem shadow_setShadow_other (d : Director) {i j : Iface} (h : j ≠ i) (v : Word) :
    shadow (setShadow d i v) j = shadow d j := by
  match i, j with
  | .pcie, .spi | .spi, .pcie => rfl
  | .pcie, .pcie | .spi, .spi => exact absurd rfl h

/-! Words of BAR0 -/

section Words
variable {d : Director} (m : Stores) (i : Iface) (tick : Nat) (h : d.frz.frozen = false)
include h

/-- EVT_LOST clears on a read (R428). -/
theorem regRead_evtLost : regRead m d i 0x028 tick = (modRing d fun r => { r with lost := 0 }, d.ring.lost.toNat) := by
  simp [regRead, h]

/-- SPI_CRC_FAIL clears on a read (R428). -/
theorem regRead_spiCrcFail :
    regRead m d i 0x050 tick = (modHost d fun r => { r with spiCrcFail := 0 }, d.host.spiCrcFail.toNat) := by
  simp [regRead, h]

/-- TIME_SNAP_LO latches the seconds and returns the nanoseconds (R23, R427). -/
theorem regRead_timeSnapLo : regRead m d i 0x030 tick =
    (setShadow d i (BitVec.ofNat 32 (fld (time96 (timeAt d tick)).toNat 79 48)), fld (time96 (timeAt d tick)).toNat 45 16) := by
  simp [regRead, h]

/-- TIME_SNAP_HI returns the shadow (R23, R427). -/
theorem regRead_timeSnapHi : regRead m d i 0x034 tick = (d, (shadow d i).toNat) := by
  simp [regRead, h]

end Words

/-- A read of a word sends nothing and writes no memory. -/
theorem regRead_quiet (m : Stores) (d : Director) (i : Iface) (off tick : Nat) :
    (regRead m d i off tick).1.tx = d.tx ∧ (regRead m d i off tick).1.writes = d.writes := by
  unfold regRead
  split
  · exact ⟨rfl, rfl⟩
  · split
    · exact ⟨rfl, rfl⟩
    · split <;> exact ⟨rfl, rfl⟩

/-! SPI reads -/

/-- A clocked byte adds one to what is returned, and the word read for it sends nothing and writes no memory. -/
theorem spiBytes_succ (m : Stores) (d : Director) (addr tick n i : Nat) (d' : Director) (w : Nat) (acc : List Byte) :
    ∃ e v b, spiBytes m d addr tick (n + 1) i d' w acc = spiBytes m d addr tick n (i + 1) e v (acc ++ [b])
      ∧ e.tx = d'.tx ∧ e.writes = d'.writes := by
  rw [spiBytes]
  split
  · by_cases hfirst : (decide (i = 0) || decide ((addr + i) % 4 = 0)) = true
    · simp only [hfirst, if_true]
      exact ⟨_, _, _, rfl, regRead_quiet m d' .spi _ tick⟩
    · simp only [hfirst]
      exact ⟨_, _, _, rfl, rfl, rfl⟩
  · exact ⟨_, _, _, rfl, rfl, rfl⟩

theorem spiBytes_length (m : Stores) (d : Director) (addr tick n i : Nat) (d' : Director) (w : Nat) (acc : List Byte) :
    (spiBytes m d addr tick n i d' w acc).2.length = acc.length + n := by
  induction n generalizing i d' w acc with
  | zero => rfl
  | succ n ih =>
    obtain ⟨e, v, b, h, -, -⟩ := spiBytes_succ m d addr tick n i d' w acc
    rw [h, ih, List.length_append, List.length_singleton]
    omega

theorem spiBytes_quiet (m : Stores) (d : Director) (addr tick n i : Nat) (d' : Director) (w : Nat) (acc : List Byte) :
    (spiBytes m d addr tick n i d' w acc).1.tx = d'.tx ∧ (spiBytes m d addr tick n i d' w acc).1.writes = d'.writes := by
  induction n generalizing i d' w acc with
  | zero => exact ⟨rfl, rfl⟩
  | succ n ih =>
    obtain ⟨e, v, b, h, htx, hw⟩ := spiBytes_succ m d addr tick n i d' w acc
    rw [h, (ih ..).1, (ih ..).2]
    exact ⟨htx, hw⟩

/-- As many bytes as were clocked (R424). -/
theorem spiData_length (m : Stores) (d : Director) (addr len tick : Nat) : (spiData m d addr len tick).2.length = len := by
  simp [spiData, spiBytes_length]

theorem spiData_quiet (m : Stores) (d : Director) (addr len tick : Nat) :
    (spiData m d addr len tick).1.tx = d.tx ∧ (spiData m d addr len tick).1.writes = d.writes :=
  spiBytes_quiet m d addr tick len 0 d 0 []

/-! The commands -/

section Commands
variable {s : State} (hr : s.dir.pins.resetN = true)
include hr

theorem dirStart_not_held : ¬(!(dirStart s.dir).pins.resetN) = true := by
  simp [dirStart, hr]

/-- EVT_LOST_READ returns the count and clears it (R428). -/
theorem evtLostRead_replies (hz : s.dir.frz.frozen = false) :
    ∃ t, exec .evtLostRead s = .next t ∧ Replied t.dir (b4 s.dir.ring.lost.toNat)
      ∧ t.dir.ring = { s.dir.ring with lost := 0 } ∧ t.mem = s.mem := by
  have hread := regRead_evtLost (d := dirStart s.dir) s.mem .pcie 0 hz
  have hrun : execEvtLostRead s = onDir s _ := rfl
  obtain ⟨t, hnext, hreply, hring, -, -, hmem⟩ := next_of_onDir_reply hrun ((if_pos hr).trans (congrArg replyWord hread)) rfl rfl
  exact ⟨t, hnext, hreply, hring, hmem⟩

/-- SPI_CRC_FAIL_READ returns the count and clears it (R425, R428). -/
theorem spiCrcFailRead_replies (hz : s.dir.frz.frozen = false) :
    ∃ t, exec .spiCrcFailRead s = .next t ∧ Replied t.dir (b4 s.dir.host.spiCrcFail.toNat) ∧ t.dir.host.spiCrcFail = 0
      ∧ t.dir.ring = s.dir.ring ∧ t.mem = s.mem := by
  have hread := regRead_spiCrcFail (d := dirStart s.dir) s.mem .spi 0 hz
  have hrun : execSpiCrcFailRead s = onDir s _ := rfl
  obtain ⟨t, hnext, hreply, hring, hcount, -, hmem⟩ :=
    next_of_onDir_reply hrun ((if_pos hr).trans (congrArg replyWord hread)) rfl rfl
  exact ⟨t, hnext, hreply, hcount, hring, hmem⟩

/-- TIME_SNAP_LO_READ returns the nanoseconds and latches the seconds for its interface alone (R23, R427). -/
theorem timeSnapLoRead_replies (hz : s.dir.frz.frozen = false) (i : Iface) (tick : Nat) :
    ∃ t, exec (.timeSnapLoRead i tick) s = .next t
      ∧ Replied t.dir (b4 (fld (time96 (timeAt s.dir tick)).toNat 45 16))
      ∧ shadow t.dir i = BitVec.ofNat 32 (fld (time96 (timeAt s.dir tick)).toNat 79 48)
      ∧ ∀ j, j ≠ i → shadow t.dir j = shadow s.dir j := by
  have hread := regRead_timeSnapLo (d := dirStart s.dir) s.mem i tick hz
  have hrun : execTimeSnapLoRead i tick s = onDir s _ := rfl
  obtain ⟨t, hnext, hreply, -, -, hshadow, -⟩ := next_of_onDir_reply hrun ((if_pos hr).trans (congrArg replyWord hread)) rfl rfl
  refine ⟨t, hnext, hreply, ?_, fun j hj => ?_⟩
  · rw [hshadow, shadow_setShadow_same]; rfl
  · rw [hshadow, shadow_setShadow_other _ hj]; rfl

/-- SPI_READ returns its data (R424). -/
theorem spiRead_replies (addr len tick : Nat) :
    ∃ t, exec (.spiRead addr len tick) s = .next t ∧ Replied t.dir (spiData s.mem (dirStart s.dir) addr len tick).2 := by
  obtain ⟨htx, hw⟩ := spiData_quiet s.mem (dirStart s.dir) addr len tick
  have hrun : execSpiRead addr len tick s = onDir s _ := rfl
  obtain ⟨t, hnext, hreply, -⟩ := next_of_onDir_reply hrun (if_neg (dirStart_not_held hr)) htx hw
  exact ⟨t, hnext, hreply⟩

/-- READ_CRC: the data, then the CRC-16 over instruction, address and data (R425). -/
theorem spiReadCrc_replies (addr len tick : Nat) :
    ∃ t, exec (.spiReadCrc addr len tick) s = .next t
      ∧ Replied t.dir ((spiData s.mem (dirStart s.dir) addr len tick).2
          ++ toBE 2 (spiCrc 0x0B addr (spiData s.mem (dirStart s.dir) addr len tick).2)) := by
  obtain ⟨htx, hw⟩ := spiData_quiet s.mem (dirStart s.dir) addr len tick
  have hrun : execSpiReadCrc addr len tick s = onDir s _ := rfl
  obtain ⟨t, hnext, hreply, -⟩ := next_of_onDir_reply hrun (if_neg (dirStart_not_held hr)) htx hw
  exact ⟨t, hnext, hreply⟩

/-- An unknown instruction is answered with zeros (R424). -/
theorem spiUnknownInstruction_replies (code : BitVec 8) (len : Nat) :
    ∃ t, exec (.spiUnknownInstruction code len) s = .next t ∧ Replied t.dir (zeros len) ∧ t.mem = s.mem := by
  have hrun : execSpiUnknownInstruction code len s = onDir s _ := rfl
  obtain ⟨t, hnext, hreply, -, -, -, hmem⟩ := next_of_onDir_reply hrun (if_pos hr) rfl rfl
  exact ⟨t, hnext, hreply, hmem⟩

end Commands

/-- Settles O10: each read is a command that reaches a director and replies, and that director is the one
`regRead` or `spiData` answers. -/
theorem hostReads : Obligations.HostReads := by
  unfold Obligations.HostReads
  refine ⟨fun s hr hz => ⟨evtLostRead_replies hr hz, spiCrcFailRead_replies hr hz⟩,
    fun s i tick hr hz => timeSnapLoRead_replies hr hz i tick,
    fun s i tick hz => regRead_timeSnapHi s.mem i tick hz, fun s addr len tick code hr => ?_⟩
  obtain ⟨t, ht, hread⟩ := spiRead_replies hr addr len tick
  obtain ⟨u, hu, hcrc⟩ := spiReadCrc_replies hr addr len tick
  obtain ⟨v, hv, hzeros, hmem⟩ := spiUnknownInstruction_replies hr code len
  exact ⟨_, t, u, v, spiData_length s.mem (dirStart s.dir) addr len tick, ht, hread, hu, hcrc, hv, hzeros, hmem⟩

end Sys2Proof.Machine
end

section
/-! PROOF. What a mailbox command that answers leaves as it was (R430, R435, R601), and the fields of a little-endian
payload. -/

namespace Sys2Proof.Machine

/-! Answered commands -/

/-- The director `t` is `d` but for its mailboxes, the host's vectors, and what the command sends and writes. -/
def OnlyAnswers (t d : Director) : Prop :=
  t = { d with mbs := t.mbs, host := t.host, tx := t.tx, writes := t.writes }

theorem OnlyAnswers.cfg {t d : Director} (h : OnlyAnswers t d) : t.cfg = d.cfg := by
  rw [OnlyAnswers] at h; rw [h]

theorem OnlyAnswers.frz {t d : Director} (h : OnlyAnswers t d) : t.frz = d.frz := by
  rw [OnlyAnswers] at h; rw [h]

/-- An answer other than AUTH raises no event: the mailbox is DONE and the vector's condition has occurred (R430, R601). -/
theorem respond_eq {d : Director} {n st : Nat} {c : Cmd} (hc : (mbx d n).cmd = some c) (hst : st ≠ stAuth) (p : List Byte) :
    respond d n st p = trigVector (modMbx d n (doneWith (rspOf c st p))) (mbxVector d n) := by
  rw [respond, hc]
  exact if_neg hst

/-- An answer leaves the other mailboxes. -/
theorem respond_mbx_other {d : Director} {n k st : Nat} (hk : k ≠ n) (hst : st ≠ stAuth) (p : List Byte) :
    mbx (respond d n st p) k = mbx d k := by
  cases hc : (mbx d n).cmd with
  | none => rw [respond, hc]
  | some c => rw [respond_eq hc hst]; exact mbx_modMbx_other d hk _

/-- A due command whose row makes `d` of the director and answers it: the answer stands in its mailbox, and the rest of
the director is that of `d`. -/
theorem answered_of_due {i : Instr} {s : State} {mb op st : Nat} {c : Cmd} {f : Director → Cmd → Director} {d : Director}
    {p : List Byte} (hrun : exec i s = onCmd s mb op f) (hdue : Due s mb op c) (hf : f (dirStart s.dir) c = respond d mb st p)
    (hmbs : d.mbs = s.dir.mbs) (hst : st ≠ stAuth) :
    ∃ t, exec i s = .next t ∧ Answered t.dir mb c st p ∧ OnlyAnswers t.dir d
      ∧ (∀ k, k ≠ mb → mbx t.dir k = mbx s.dir k) ∧ t.mem = applyWrites s.mem d.writes := by
  obtain ⟨hmb, hserves, hactive, hcmd, hop, hwait⟩ := hdue
  obtain ⟨t, pba, armed, trig, x, hnext, hdir, -, -, -, hmem⟩ := onCmd_next f hmb hcmd hserves hactive hop hwait
  have hsame : ∀ k, mbx d k = mbx s.dir k := fun k => by rw [mbx, hmbs, mbx]
  have hc : (mbx d mb).cmd = some c := (congrArg Mailbox.cmd (hsame mb)).trans hcmd
  have hbox : ∀ k, mbx t.dir k = mbx (respond d mb st p) k := fun k => by rw [hdir, hf]; rfl
  rw [hf] at hdir hmem
  refine ⟨t, hrun.trans hnext, ?_, ?_, fun k hk => ?_, ?_⟩
  · rw [Answered, hbox, respond_mbx hc]
    exact ⟨rfl, rfl⟩
  · rw [OnlyAnswers, hdir, respond_eq hc hst]
    rfl
  · rw [hbox, respond_mbx_other hk hst, hsame]
  · rw [hmem, respond_eq hc hst]
    rfl

/-! Fields of a little-endian payload -/

@[simp] theorem toLE_length (k n : Nat) : (toLE k n).length = k := by
  induction k generalizing n with
  | zero => rfl
  | succ k ih => simp [toLE, ih]

@[simp] theorem zeros_length (n : Nat) : (zeros n).length = n := List.length_replicate

theorem leNat_toLE (k n : Nat) : leNat (toLE k n) = n % 256 ^ k := by
  induction k generalizing n with
  | zero => simp [toLE, leNat, Nat.mod_one]
  | succ k ih =>
    calc leNat (toLE (k + 1) n)
        = n % 256 + 256 * (n / 256 % 256 ^ k) := by rw [toLE, leNat, ih, BitVec.toNat_ofNat]
      _ = n % 256 ^ (k + 1) := by rw [Nat.pow_succ', Nat.mod_mul (a := 256)]

/-- A field reads back from where it was laid. -/
theorem leAt_toLE_append (k n : Nat) (r : List Byte) : leAt (toLE k n ++ r) 0 k = n % 256 ^ k := by
  rw [leAt, sub, List.drop_zero, List.take_left' (toLE_length k n), leNat_toLE]

/-- A field that begins beyond the first of two parts lies in the second. -/
theorem leAt_append_of_le {a : List Byte} {o : Nat} (h : a.length ≤ o) (r : List Byte) (n : Nat) :
    leAt (a ++ r) o n = leAt r (o - a.length) n := by
  rw [leAt, leAt, sub, sub, List.drop_append, List.drop_of_length_le h, List.nil_append]

theorem byteAt_append_of_le {a : List Byte} {o : Nat} (h : a.length ≤ o) (r : List Byte) :
    byteAt (a ++ r) o = byteAt r (o - a.length) := by
  rw [byteAt, byteAt, List.getD_append_right _ _ _ _ h]

theorem byteAt_toLE_append (n : Nat) (r : List Byte) : byteAt (toLE 1 n ++ r) 0 = n % 256 := by
  simp [byteAt, toLE]

theorem fld_lt (n hi lo : Nat) : fld n hi lo < 2 ^ (hi + 1 - lo) := Nat.mod_lt _ (by positivity)

end Sys2Proof.Machine
end

section
/-! PROOF. The commands of the device group, and the reset that DEV_RESET schedules (R459 to R462, R535). -/

namespace Sys2Proof.Machine

/-! Echo, information and status -/

/-- DEV_ECHO returns its payload and has no other effect (R459). -/
theorem devEcho_answers {s : State} {mb : Nat} {c : Cmd} (hdue : Due s mb 0x0100 c) :
    ∃ t, exec (.devEcho mb) s = .next t ∧ Answered t.dir mb c stOK c.payload ∧ t.mem = s.mem
      ∧ (∀ k, k ≠ mb → mbx t.dir k = mbx s.dir k)
      ∧ t.dir = { s.dir with mbs := t.dir.mbs, host := t.dir.host, tx := t.dir.tx, writes := t.dir.writes } := by
  have hrun : exec (.devEcho mb) s = onCmd s mb 0x0100 _ := rfl
  obtain ⟨t, hnext, hans, hrest, hother, hmem⟩ := answered_of_due hrun hdue rfl rfl (by decide)
  exact ⟨t, hnext, hans, hmem, hother, hrest⟩

theorem part_lt (d : Director) : part d < 65536 := fld_lt _ _ _

theorem deviceId_lt (d : Director) : deviceId d < 2 ^ 64 := fld_lt _ _ _

theorem sideNum_lt (d : Director) : sideNum d < 256 := by
  unfold sideNum; split <;> decide

theorem kudenWord_lt (d : Director) : kudenWord d < 65536 := by
  unfold kudenWord; split <;> decide

/-- DEV_INFO's payload (R460): its length, and the fields that name the device. -/
theorem devInfo_answers {s : State} {mb : Nat} {c : Cmd} (hdue : Due s mb 0x0101 c) :
    ∃ t p, exec (.devInfo mb) s = .next t ∧ Answered t.dir mb c stOK p ∧ p.length = 64
      ∧ leAt p 0 2 = part s.dir ∧ byteAt p 2 = 0x0B ∧ byteAt p 3 = sideNum s.dir ∧ leAt p 4 2 = kudenWord s.dir
      ∧ leAt p 20 8 = deviceId s.dir := by
  have hrun : exec (.devInfo mb) s = onCmd s mb 0x0101 _ := rfl
  obtain ⟨t, hnext, hans, -⟩ := answered_of_due hrun hdue rfl rfl (by decide)
  have hpart : part (dirStart s.dir) % 65536 = part s.dir := Nat.mod_eq_of_lt (part_lt _)
  have hside : sideNum (dirStart s.dir) % 256 = sideNum s.dir := Nat.mod_eq_of_lt (sideNum_lt _)
  have hkuden : kudenWord (dirStart s.dir) % 65536 = kudenWord s.dir := Nat.mod_eq_of_lt (kudenWord_lt _)
  have hid : deviceId (dirStart s.dir) % 18446744073709551616 = deviceId s.dir := Nat.mod_eq_of_lt (deviceId_lt _)
  refine ⟨t, _, hnext, hans, ?_, ?_, ?_, ?_, ?_, ?_⟩
  · simp [b1, b2, b4]
  · simp [leAt_toLE_append, b2, hpart]
  · simp [byteAt_append_of_le, byteAt_toLE_append, b1, b2, devRev]
  · simp [byteAt_append_of_le, byteAt_toLE_append, b1, b2, hside]
  · simp [leAt_append_of_le, leAt_toLE_append, b1, b2, hkuden]
  · simp [leAt_append_of_le, leAt_toLE_append, b1, b2, b4, hid]

/-- DEV_STATUS's payload (R461): its length, and the cycle number it begins with. -/
theorem devStatus_answers {s : State} {mb : Nat} {c : Cmd} (hdue : Due s mb 0x0102 c) :
    ∃ t p, exec (.devStatus mb) s = .next t ∧ Answered t.dir mb c stOK p ∧ p.length = 32
      ∧ leAt p 0 4 = (if s.dir.cfg.baked then (cyc s.dir).toNat else 0xFFFFFFFF) := by
  have hrun : exec (.devStatus mb) s = onCmd s mb 0x0102 _ := rfl
  obtain ⟨t, hnext, hans, -⟩ := answered_of_due hrun hdue rfl rfl (by decide)
  refine ⟨t, _, hnext, hans, ?_, ?_⟩
  · simp [b1, b4]
  · have hcyc : (if s.dir.cfg.baked then (cyc s.dir).toNat else 0xFFFFFFFF) < 256 ^ 4 := by
      split
      · exact (cyc s.dir).isLt
      · decide
    simp only [List.append_assoc, b4, leAt_toLE_append]
    exact Nat.mod_eq_of_lt hcyc

/-! Reset -/

/-- This director is AUTHORITY of an arm in MANUAL, AUTO or HOLD, which bars DEV_RESET with MODE 0 (R462). -/
def holdsArm (d : Director) : Bool := (List.range 6).any fun a => (arm d a).role = .authority && operating (arm d a).mode

theorem holdsArm_eq_true {d : Director} {a : Nat} (ha : a < 6) (hrole : (arm d a).role = .authority)
    (hmode : operating (arm d a).mode = true) : holdsArm d = true :=
  List.any_eq_true.mpr ⟨a, List.mem_range.mpr ha, by simp [hrole, hmode]⟩

theorem holdsArm_eq_false {d : Director} (h : ∀ a, a < 6 → (arm d a).role ≠ .authority ∨ operating (arm d a).mode = false) :
    holdsArm d = false := by
  rw [holdsArm, List.any_eq_false]
  intro a ha
  rcases h a (List.mem_range.mp ha) with hrole | hmode
  · simp [hrole]
  · simp [hmode]

/-- The checks of DEV_RESET, in the order of R436 (R462). -/
def resetChecks (d : Director) (p : List Byte) : List (Bool × Nat) :=
  [(byteAt p 4 = 0 && holdsArm d, stState), (leAt p 0 4 != 0x51554E5A || 1 < byteAt p 4 || !allZero (sub p 5 3), stRange)]

/-- The reset is due 10 ms later (R462). -/
def resetScheduled (d : Director) : Director := { d with frz := { d.frz with resetDue := true } }

theorem exec_devReset (mb : Nat) (s : State) : exec (.devReset mb) s =
    onCmd s mb 0x0103 fun d c => guarded d mb (resetChecks d c.payload) fun d => respond (resetScheduled d) mb stOK [] := rfl

theorem resetChecks_pass {d : Director} {p : List Byte} (hconfirm : leAt p 0 4 = 0x51554E5A) (hmode : byteAt p 4 ≤ 1)
    (hzero : allZero (sub p 5 3) = true) (hfree : byteAt p 4 = 1 ∨ holdsArm d = false) : ∀ x ∈ resetChecks d p, x.1 = false := by
  have hbar : (decide (byteAt p 4 = 0) && holdsArm d) = false := by
    rcases hfree with hone | hnone
    · simp [hone]
    · simp [hnone]
  simp [resetChecks, hbar, hconfirm, hmode, hzero]

/-- DEV_RESET with its CONFIRM word and a MODE that is no bar answers OK and schedules the reset. -/
theorem devReset_answers {s : State} {mb : Nat} {c : Cmd} (hdue : Due s mb 0x0103 c)
    (hpass : ∀ x ∈ resetChecks (dirStart s.dir) c.payload, x.1 = false) :
    ∃ t, exec (.devReset mb) s = .next t ∧ Answered t.dir mb c stOK [] ∧ t.dir.frz.resetDue = true := by
  obtain ⟨t, hnext, hans, hrest, -⟩ := answered_of_due (exec_devReset mb s) hdue (guarded_pass hpass) rfl (by decide)
  exact ⟨t, hnext, hans, congrArg Freeze.resetDue hrest.frz⟩

/-- With MODE 0 a director that holds an arm refuses DEV_RESET, and nothing is scheduled. -/
theorem devReset_refused {s : State} {mb : Nat} {c : Cmd} (hdue : Due s mb 0x0103 c) (hmode : byteAt c.payload 4 = 0)
    (hheld : holdsArm s.dir = true) :
    ∃ t, exec (.devReset mb) s = .next t ∧ Answered t.dir mb c stState [] ∧ t.dir.frz = s.dir.frz := by
  have hfail : firstFail (resetChecks (dirStart s.dir) c.payload) = some stState := by
    have hheld' : holdsArm (dirStart s.dir) = true := hheld
    simp [resetChecks, firstFail, hmode, hheld']
  obtain ⟨t, hnext, hans, hrest, -⟩ := answered_of_due (exec_devReset mb s) hdue (guarded_fail hfail) rfl (by decide)
  exact ⟨t, hnext, hans, hrest.frz⟩

/-- A reset writes no memory but the vector table. -/
theorem directorReset_writes (d : Director) (h : d.writes = []) : ∀ w ∈ (directorReset d).writes, w.dest = .msix := by
  simp [directorReset, h]

/-- The reset that is due leads to FUSE_LOAD with the fuses as they were; flash, DDR4 and the cell stay (R535). -/
theorem devResetExecute_resets {s : State} (hres : s.dir.frz.resetDue = true) (hfrozen : s.dir.frz.frozen = false) :
    ∃ t, exec .devResetExecute s = .next t ∧ t.dir.boot.state = .fuseLoad ∧ t.dir.boot.fuseA = s.dir.boot.fuseA
      ∧ t.dir.boot.fuseB = s.dir.boot.fuseB ∧ t.dir.boot.side = s.dir.boot.side ∧ t.dir.mbs = [] ∧ t.dir.frz.resetDue = false
      ∧ t.mem.flash = s.mem.flash ∧ t.mem.ddr = s.mem.ddr ∧ t.cell = s.cell := by
  obtain ⟨t, pba, armed, trig, x, hnext, hdir, hcell, -, -, hmem⟩ :=
    onDir_next s fun d => if d.frz.resetDue && !d.frz.frozen then directorReset d else d
  have hgo : ((dirStart s.dir).frz.resetDue && !(dirStart s.dir).frz.frozen) = true := by simp [dirStart, hres, hfrozen]
  rw [if_pos hgo] at hdir hmem
  have hkeeps : ∀ i, sameMem .msix i = false → memGet t.mem i = memGet s.mem i := fun i hi => by
    rw [hmem]
    exact applyWrites_other fun w hw => by rwa [directorReset_writes _ rfl w hw]
  refine ⟨t, hnext, ?_, ?_, ?_, ?_, ?_, ?_, hkeeps .flash rfl, hkeeps .ddr rfl, hcell⟩ <;> rw [hdir] <;> rfl

/-- Settles O18: each row answers what it makes of the director, and a due reset is that of `directorReset`. -/
theorem deviceCommands : Obligations.DeviceCommands := by
  unfold Obligations.DeviceCommands
  refine ⟨⟨fun s mb c h => devEcho_answers h, fun s mb c h => devInfo_answers h, fun s mb c h => devStatus_answers h⟩,
    fun s mb c h hconfirm hmode hzero hfree => devReset_answers h
      (resetChecks_pass hconfirm hmode hzero (hfree.imp_right (holdsArm_eq_false (d := dirStart s.dir)))),
    fun s mb c a h hmode ha hrole hop => devReset_refused h hmode (holdsArm_eq_true ha hrole hop),
    fun s hres hfrozen => devResetExecute_resets hres hfrozen⟩

end Sys2Proof.Machine
end

section
/-! PROOF. Staging a configuration and discarding a session (R440, R442, R466 to R469). -/

namespace Sys2Proof.Machine

/-! Sections -/

@[simp] theorem padTo_length (n : Nat) (bs : List Byte) : (padTo n bs).length = n := by
  simp [padTo]

theorem resize_length {n : Nat} (h : n ≠ 0) (bs : List Byte) : (resize n bs).length = n := by
  rw [resize, if_neg h, padTo_length]

/-- A section with `data` written over it at `ofs` (R467). -/
def overwritten (cur : List Byte) (ofs : Nat) (data : List Byte) : List Byte :=
  cur.take ofs ++ data ++ cur.drop (ofs + data.length)

theorem overwritten_length {cur data : List Byte} {ofs : Nat} (h : ofs + data.length ≤ cur.length) :
    (overwritten cur ofs data).length = cur.length := by
  simp only [overwritten, List.length_append, List.length_take, List.length_drop]
  omega

/-- What was written reads back from the section. -/
theorem sub_overwritten {cur data : List Byte} {ofs : Nat} (h : ofs + data.length ≤ cur.length) :
    sub (overwritten cur ofs data) ofs data.length = data := by
  have htake : (cur.take ofs).length = ofs := List.length_take_of_le (by omega)
  rw [overwritten, List.append_assoc, sub, List.drop_left' htake, List.take_left]

/-- Beyond the end of the bytes a field reads 0. -/
theorem leAt_of_length_le {bs : List Byte} {a : Nat} (h : bs.length ≤ a) (n : Nat) : leAt bs a n = 0 := by
  rw [leAt, sub, List.drop_of_length_le h, List.take_nil, leNat]

/-- The two bytes that name a section come back as they were sent. -/
theorem sectionBytes_eq {p : List Byte} (h : 2 ≤ p.length) : b1 (byteAt p 0) ++ b1 (byteAt p 1) = p.take 2 := by
  match p, h with
  | x :: y :: _, _ => simp [b1, toLE, byteAt]

/-! CFG_STAGE_WRITE -/

/-- The staged section that a CFG_STAGE_WRITE names, brought to its SIZE (R467). -/
def sectionResized (d : Director) (p : List Byte) : List Byte :=
  resize (leAt p 4 4) (tget [] (secKey (byteAt p 0) (byteAt p 1)) (stagedImage d))

/-- The section as it stands after a CFG_STAGE_WRITE with this payload (R467). -/
def stageWritten (d : Director) (p : List Byte) : List Byte := overwritten (sectionResized d p) (leAt p 8 4) (p.drop 12)

/-- The session that a CFG_STAGE_WRITE opens or continues, with its section in the staging area. -/
def stageOpened (d : Director) (i : Iface) (p : List Byte) : Director :=
  modCfg d fun x => { x with
    staged := tset (secKey (byteAt p 0) (byteAt p 1)) (stageWritten d p) (stagedImage d), session := some i }

/-- What CFG_STAGE_WRITE refuses with RANGE (R467). -/
def stageWriteBad (d : Director) (p : List Byte) : Bool :=
  match sectMax (byteAt p 0) (byteAt p 1) with
  | none => true
  | some m => leAt p 2 2 != 0 || decide (m < leAt p 4 4)
    || decide ((sectionResized d p).length < leAt p 8 4 + (p.drop 12).length)

theorem exec_cfgStageWrite (mb : Nat) (s : State) : exec (.cfgStageWrite mb) s =
    onCmd s mb 0x0200 fun d c => guarded d mb [(stageWriteBad d c.payload, stRange), (stagingBusy d c.iface, stBusy)] fun d =>
      respond (stageOpened d c.iface c.payload) mb stOK (b1 (byteAt c.payload 0) ++ b1 (byteAt c.payload 1) ++ zeros 2
        ++ b4 (stageWritten d c.payload).length ++ b4 (crc32c (stageWritten d c.payload))) := rfl

/-- A payload of CFG_STAGE_WRITE that brings the section to a length and writes within it. -/
structure StageWriteFits (p : List Byte) (m : Nat) : Prop where
  max    : sectMax (byteAt p 0) (byteAt p 1) = some m
  zero   : leAt p 2 2 = 0
  size   : leAt p 4 4 ≤ m
  sized  : leAt p 4 4 ≠ 0
  within : leAt p 8 4 + (p.drop 12).length ≤ leAt p 4 4

section
variable {p : List Byte} {m : Nat} (h : StageWriteFits p m) (d : Director)
include h

theorem sectionResized_length : (sectionResized d p).length = leAt p 4 4 := resize_length h.sized _

theorem stageWrite_within : leAt p 8 4 + (p.drop 12).length ≤ (sectionResized d p).length :=
  h.within.trans (sectionResized_length h d).ge

theorem stageWritten_length : (stageWritten d p).length = leAt p 4 4 :=
  (overwritten_length (stageWrite_within h d)).trans (sectionResized_length h d)

theorem sub_stageWritten : sub (stageWritten d p) (leAt p 8 4) (p.drop 12).length = p.drop 12 :=
  sub_overwritten (stageWrite_within h d)

theorem stageWriteBad_eq_false : stageWriteBad d p = false := by
  have hmax : ¬ m < leAt p 4 4 := Nat.not_lt.mpr h.size
  have hwithin : ¬ (sectionResized d p).length < leAt p 8 4 + (p.drop 12).length := Nat.not_lt.mpr (stageWrite_within h d)
  rw [stageWriteBad, h.max]
  simp only [h.zero, hmax, hwithin]
  rfl

/-- A SIZE other than 0 lies within the payload. -/
theorem stageWrite_named : 2 ≤ p.length := by
  by_contra hshort
  exact h.sized (leAt_of_length_le (by omega) 4)

end

/-- No bake is scheduled or offered, and the other interface holds no session (R440). -/
theorem stagingBusy_eq_false {d : Director} {i : Iface} (hbake : d.cfg.bake = none) (hoffer : d.cfg.offer = none)
    (hsession : ∀ j, d.cfg.session = some j → j = i) : stagingBusy d i = false := by
  rw [stagingBusy, hbake, hoffer]
  cases hs : d.cfg.session with
  | none => rfl
  | some j => simp [hsession j hs]

/-- A CFG_STAGE_WRITE that fits and that nothing bars leaves its section staged and answers its length and CRC (R467). -/
theorem cfgStageWrite_answers {s : State} {mb m : Nat} {c : Cmd} (hdue : Due s mb 0x0200 c) (hfits : StageWriteFits c.payload m)
    (hbusy : stagingBusy s.dir c.iface = false) :
    ∃ t, exec (.cfgStageWrite mb) s = .next t ∧ t.dir.cfg = (stageOpened s.dir c.iface c.payload).cfg
      ∧ Answered t.dir mb c stOK (c.payload.take 2 ++ [0, 0] ++ toLE 4 (stageWritten s.dir c.payload).length
          ++ toLE 4 (crc32c (stageWritten s.dir c.payload))) := by
  have hpass : ∀ x ∈ [(stageWriteBad (dirStart s.dir) c.payload, stRange), (stagingBusy (dirStart s.dir) c.iface, stBusy)], x.1 = false :=
    List.forall_mem_cons.mpr ⟨stageWriteBad_eq_false hfits _, List.forall_mem_singleton.mpr hbusy⟩
  obtain ⟨t, hnext, hans, hrest, -⟩ := answered_of_due (exec_cfgStageWrite mb s) hdue (guarded_pass hpass) rfl (by decide)
  rw [sectionBytes_eq (stageWrite_named hfits)] at hans
  exact ⟨t, hnext, hrest.cfg, hans⟩

/-! CFG_STAGE_READ -/

/-- The section that a CFG_STAGE_READ names: of the staging area (WHICH 0) or in force (R468). -/
def sectionAsked (d : Director) (p : List Byte) : List Byte :=
  tget [] (secKey (byteAt p 0) (byteAt p 1)) (if byteAt p 2 = 0 then stagedImage d else d.cfg.inForce)

/-- What CFG_STAGE_READ refuses with RANGE (R468). -/
def stageReadBad (d : Director) (p : List Byte) : Bool :=
  (sectMax (byteAt p 0) (byteAt p 1)).isNone || 1 < byteAt p 2 || byteAt p 3 != 0 || leAt p 10 2 != 0 || leAt p 8 2 = 0
    || 4068 < leAt p 8 2 || decide ((sectionAsked d p).length < leAt p 4 4 + leAt p 8 2)

/-- The answer of CFG_STAGE_READ: length and CRC of the section, four zero bytes, and the data (R468). -/
def stageReadPayload (d : Director) (p : List Byte) : List Byte :=
  b4 (sectionAsked d p).length ++ b4 (crc32c (sectionAsked d p)) ++ zeros 4 ++ sub (sectionAsked d p) (leAt p 4 4) (leAt p 8 2)

theorem exec_cfgStageRead (mb : Nat) (s : State) : exec (.cfgStageRead mb) s =
    onCmd s mb 0x0201 fun d c => guarded d mb [(stageReadBad d c.payload, stRange)] fun d =>
      respond d mb stOK (stageReadPayload d c.payload) := rfl

theorem stageReadPayload_drop (d : Director) (p : List Byte) :
    (stageReadPayload d p).drop 12 = sub (sectionAsked d p) (leAt p 4 4) (leAt p 8 2) :=
  List.drop_left' (by simp [b4])

theorem stageReadPayload_length {d : Director} {p : List Byte} (h : leAt p 4 4 + leAt p 8 2 ≤ (sectionAsked d p).length) :
    (stageReadPayload d p).length = 12 + leAt p 8 2 := by
  simp only [stageReadPayload, b4, sub, List.length_append, toLE_length, zeros_length, List.length_take, List.length_drop]
  omega

theorem sectionAsked_inForce {d : Director} {p : List Byte} (h : byteAt p 2 ≠ 0) :
    sectionAsked d p = tget [] (secKey (byteAt p 0) (byteAt p 1)) d.cfg.inForce := by
  rw [sectionAsked, if_neg h]

theorem stageReadBad_eq_false {d : Director} {p : List Byte} (hlisted : (sectMax (byteAt p 0) (byteAt p 1)).isSome)
    (hwhich : byteAt p 2 ≤ 1) (hzero : byteAt p 3 = 0) (hreserved : leAt p 10 2 = 0) (hpos : 0 < leAt p 8 2)
    (hcount : leAt p 8 2 ≤ 4068) (hwithin : leAt p 4 4 + leAt p 8 2 ≤ (sectionAsked d p).length) : stageReadBad d p = false := by
  simp [stageReadBad, hlisted, hwhich, hzero, hreserved, hpos.ne', hcount, hwithin]

/-- CFG_STAGE_READ within its section answers, and changes no configuration. -/
theorem cfgStageRead_answers {s : State} {mb : Nat} {c : Cmd} (hdue : Due s mb 0x0201 c) (hgood : stageReadBad s.dir c.payload = false) :
    ∃ t, exec (.cfgStageRead mb) s = .next t ∧ Answered t.dir mb c stOK (stageReadPayload s.dir c.payload) ∧ t.dir.cfg = s.dir.cfg := by
  have hpass : ∀ x ∈ [(stageReadBad (dirStart s.dir) c.payload, stRange)], x.1 = false := List.forall_mem_singleton.mpr hgood
  obtain ⟨t, hnext, hans, hrest, -⟩ := answered_of_due (exec_cfgStageRead mb s) hdue (guarded_pass hpass) rfl (by decide)
  exact ⟨t, hnext, hans, hrest.cfg⟩

/-! Taking a bake back leaves the mailboxes and the configuration in force. -/

/-- Neither the mailboxes nor the state of the configuration differ. -/
def KeepsMbsCfg (t d : Director) : Prop := t.mbs = d.mbs ∧ t.cfg = d.cfg

theorem KeepsMbsCfg.trans {u t d : Director} (h : KeepsMbsCfg u t) (h' : KeepsMbsCfg t d) : KeepsMbsCfg u d :=
  ⟨h.1.trans h'.1, h.2.trans h'.2⟩

theorem foldl_keepsMbsCfg {α : Type} {f : Director → α → Director} (h : ∀ d x, KeepsMbsCfg (f d x) d) (l : List α) (d : Director) :
    KeepsMbsCfg (l.foldl f d) d := by
  induction l generalizing d with
  | nil => exact ⟨rfl, rfl⟩
  | cons x r ih => exact (ih (f d x)).trans (h d x)

theorem mgmtTo_keepsMbsCfg (d : Director) (id mtype : Nat) (body : List Byte) (r : MgmtRec → MgmtRec) :
    KeepsMbsCfg (mgmtTo d id mtype body r) d := by
  unfold mgmtTo
  split <;> exact ⟨rfl, rfl⟩

theorem stageCell_keepsMbsCfg (d : Director) (id : Nat) (b : Cycle) (runs : List (Nat × List Nat)) :
    KeepsMbsCfg (stageCell d id b runs) d := by
  unfold stageCell
  split
  · exact ⟨rfl, rfl⟩
  · exact (foldl_keepsMbsCfg (fun d _ => mgmtTo_keepsMbsCfg d ..) runs _).trans ⟨rfl, rfl⟩

theorem stageCells_keepsMbsCfg (d : Director) (b : Cycle) (runs : Director → Nat → List (Nat × List Nat)) (ids : List Nat) :
    KeepsMbsCfg (ids.foldl (fun e id => stageCell e id b (runs e id)) d) d :=
  foldl_keepsMbsCfg (fun e id => stageCell_keepsMbsCfg e id b (runs e id)) ids d

theorem fixLengths_keepsMbsCfg (d : Director) : KeepsMbsCfg (fixLengths d) d := ⟨rfl, rfl⟩

theorem drainControl_keepsMbsCfg (d : Director) : KeepsMbsCfg (drainControl d) d := by
  unfold drainControl
  split
  · split <;> exact ⟨rfl, rfl⟩
  · exact ⟨rfl, rfl⟩

theorem bakeNote_keepsMbsCfg (d : Director) (kind rule : Nat) (b : Cycle) : KeepsMbsCfg (bakeNote d kind rule b) d := by
  unfold bakeNote
  split
  · exact (drainControl_keepsMbsCfg _).trans ⟨rfl, rfl⟩
  · exact ⟨rfl, rfl⟩

/-- Replacing the cells' pending values changes no mailbox, and of the configuration only the note of the replacement (R466). -/
theorem unstageAll_keeps (d : Director) (b : Cycle) (new : Cfg) :
    (unstageAll d b new).mbs = d.mbs ∧ (unstageAll d b new).cfg = { d.cfg with undo := some b } := by
  have hkept := stageCells_keepsMbsCfg (dropStages d) b
  exact ⟨(hkept _ _).1, congrArg (fun c : CfgState => { c with undo := some b }) (hkept _ _).2⟩

/-- From `d` to `t` the scheduled bake is gone; the mailboxes and the sections in force are as they were (R442). -/
def BakeGone (t d : Director) : Prop := t.mbs = d.mbs ∧ t.cfg.bake = none ∧ t.cfg.inForce = d.cfg.inForce

theorem KeepsMbsCfg.bakeGone {u t d : Director} (h : KeepsMbsCfg u t) (h' : BakeGone t d) : BakeGone u d := by
  obtain ⟨hmbs, hcfg⟩ := h
  rwa [BakeGone, hmbs, hcfg]

theorem fixLengths_if_keepsMbsCfg (d : Director) : KeepsMbsCfg (if d.time.running then fixLengths d else d) d := by
  split
  · exact fixLengths_keepsMbsCfg d
  · exact ⟨rfl, rfl⟩

theorem dropBake_bakeGone {d : Director} {k : Bake} (h : d.cfg.bake = some k) (status : Nat) : BakeGone (dropBake d status) d := by
  have hcleared : BakeGone (modCfg (if k.staged then unstageAll d k.b (parseAll k.content) else d) fun x =>
      { x with bake := none, status := status }) d := by
    split
    · obtain ⟨hmbs, hcfg⟩ := unstageAll_keeps d k.b (parseAll k.content)
      have hforce : (unstageAll d k.b (parseAll k.content)).cfg.inForce = d.cfg.inForce := by rw [hcfg]
      exact ⟨hmbs, rfl, hforce⟩
    · exact ⟨rfl, rfl, rfl⟩
  rw [dropBake, h]
  exact (fixLengths_if_keepsMbsCfg _).bakeGone hcleared

/-! CFG_DISCARD -/

/-- The scheduled bake, where it is this director's own and not the twin's. -/
def ownBake (d : Director) : Option Bake := match d.cfg.bake with | some k => if k.own then some k else none | none => none

/-- A staged bake is past the cycle until which CFG_DISCARD takes it back (R466, R469). -/
def discardLate (d : Director) : Bool :=
  match ownBake d with | some k => k.staged && 0 < cycleDiff (cyc d) (k.b - 256) | none => false

/-- The director's own scheduled bake is taken back, and the twin told (R442). -/
def bakeTaken (d : Director) : Director :=
  match ownBake d with | some k => bakeNote (dropBake d 0) 0x85 0 k.b | none => d

/-- The session is closed (R469). -/
def sessionClosed (d : Director) : Director := modCfg d fun x => { x with session := none, staged := [] }

/-- What bars CFG_DISCARD of the session of interface `i` (R469). -/
def discardChecks (d : Director) (i : Iface) (c : Cmd) : List (Bool × Nat) :=
  [(i = c.iface && discardLate d, stState), (i ≠ c.iface || d.cfg.offer.isSome, stBusy)]

theorem exec_cfgDiscard (mb : Nat) (s : State) : exec (.cfgDiscard mb) s =
    onCmd s mb 0x0202 fun d c => match d.cfg.session with
      | none => respond d mb stOK []
      | some i => guarded d mb (discardChecks d i c) fun d => respond (sessionClosed (bakeTaken d)) mb stOK [] := rfl

/-- With no offer under way the session's own interface passes in time. -/
theorem discardChecks_pass {d : Director} (c : Cmd) (hlate : discardLate d = false) (hoffer : d.cfg.offer = none) :
    ∀ x ∈ discardChecks d c.iface c, x.1 = false := by
  simp [discardChecks, hlate, hoffer]

/-- The other interface is told BUSY. -/
theorem discardChecks_other {d : Director} {i : Iface} {c : Cmd} (hi : i ≠ c.iface) :
    firstFail (discardChecks d i c) = some stBusy := by
  simp [discardChecks, firstFail, hi]

section
variable {d : Director}

theorem ownBake_of_none (h : d.cfg.bake = none) : ownBake d = none := by rw [ownBake, h]

theorem ownBake_of_own {k : Bake} (h : d.cfg.bake = some k) (hown : k.own = true) : ownBake d = some k := by
  rw [ownBake, h]
  exact if_pos hown

theorem discardLate_of_none (h : ownBake d = none) : discardLate d = false := by rw [discardLate, h]

/-- Until B − 256 a staged bake is in time to be taken back; one that is not staged always is (R466). -/
theorem discardLate_of_inTime {k : Bake} (h : ownBake d = some k) (htime : k.staged = true → cycleDiff (cyc d) (k.b - 256) ≤ 0) :
    discardLate d = false := by
  rw [discardLate, h]
  simpa using htime

theorem bakeTaken_of_none (h : ownBake d = none) : bakeTaken d = d := by rw [bakeTaken, h]

theorem bakeTaken_bakeGone {k : Bake} (h : d.cfg.bake = some k) (hown : k.own = true) : BakeGone (bakeTaken d) d := by
  rw [bakeTaken, ownBake_of_own h hown]
  exact (bakeNote_keepsMbsCfg _ 0x85 0 k.b).bakeGone (dropBake_bakeGone h 0)

end

/-- Without a session CFG_DISCARD answers OK and has no effect. -/
theorem cfgDiscard_noSession {s : State} {mb : Nat} {c : Cmd} (hdue : Due s mb 0x0202 c) (hsession : s.dir.cfg.session = none) :
    ∃ t, exec (.cfgDiscard mb) s = .next t ∧ Answered t.dir mb c stOK [] ∧ t.mem = s.mem
      ∧ t.dir = { s.dir with mbs := t.dir.mbs, host := t.dir.host, tx := t.dir.tx, writes := t.dir.writes } := by
  have hstart : (dirStart s.dir).cfg.session = none := hsession
  obtain ⟨t, hnext, hans, hrest, -, hmem⟩ :=
    answered_of_due (d := dirStart s.dir) (exec_cfgDiscard mb s) hdue (by rw [hstart]) rfl (by decide)
  exact ⟨t, hnext, hans, hmem, hrest⟩

/-- With a session CFG_DISCARD goes on to its checks. -/
theorem cfgDiscard_answers {s : State} {mb st : Nat} {c : Cmd} {i : Iface} {d : Director} (hdue : Due s mb 0x0202 c)
    (hsession : s.dir.cfg.session = some i)
    (hf : guarded (dirStart s.dir) mb (discardChecks (dirStart s.dir) i c) (fun d => respond (sessionClosed (bakeTaken d)) mb stOK [])
      = respond d mb st []) (hmbs : d.mbs = s.dir.mbs) (hst : st ≠ stAuth) :
    ∃ t, exec (.cfgDiscard mb) s = .next t ∧ Answered t.dir mb c st [] ∧ t.dir.cfg = d.cfg := by
  have hstart : (dirStart s.dir).cfg.session = some i := hsession
  obtain ⟨t, hnext, hans, hrest, -⟩ := answered_of_due (exec_cfgDiscard mb s) hdue (by rw [hstart]; exact hf) hmbs hst
  exact ⟨t, hnext, hans, hrest.cfg⟩

/-- From its own interface, in time and with no offer under way, CFG_DISCARD closes the session over what the taking
back of its bake leaves. -/
theorem cfgDiscard_closes {s : State} {mb : Nat} {c : Cmd} (hdue : Due s mb 0x0202 c) (hsession : s.dir.cfg.session = some c.iface)
    (hlate : discardLate s.dir = false) (hoffer : s.dir.cfg.offer = none) {d : Director} (htaken : bakeTaken (dirStart s.dir) = d)
    (hmbs : d.mbs = s.dir.mbs) :
    ∃ t, exec (.cfgDiscard mb) s = .next t ∧ Answered t.dir mb c stOK [] ∧ t.dir.cfg.session = none
      ∧ t.dir.cfg.bake = d.cfg.bake ∧ t.dir.cfg.inForce = d.cfg.inForce := by
  have hpass := discardChecks_pass (d := dirStart s.dir) c hlate hoffer
  obtain ⟨t, hnext, hans, hcfg⟩ := cfgDiscard_answers (d := sessionClosed d) hdue hsession
    (by rw [guarded_pass hpass, htaken]) hmbs (by decide)
  refine ⟨t, hnext, hans, ?_, ?_, ?_⟩ <;> rw [hcfg] <;> rfl

/-- From the other interface CFG_DISCARD answers BUSY and leaves the configuration (R440, R469). -/
theorem cfgDiscard_otherInterface {s : State} {mb : Nat} {c : Cmd} {i : Iface} (hdue : Due s mb 0x0202 c)
    (hsession : s.dir.cfg.session = some i) (hi : i ≠ c.iface) :
    ∃ t, exec (.cfgDiscard mb) s = .next t ∧ Answered t.dir mb c stBusy [] ∧ t.dir.cfg = s.dir.cfg :=
  cfgDiscard_answers (d := dirStart s.dir) hdue hsession (guarded_fail (discardChecks_other hi)) rfl (by decide)

/-- Settles O19: each staging command answers from the section it names, and CFG_DISCARD by who holds the session and
whether it has a bake to take back. -/
theorem stagingAndDiscarding : Obligations.StagingAndDiscarding := by
  unfold Obligations.StagingAndDiscarding
  refine ⟨⟨fun s mb c m hdue hbake hoffer hsession hmax hzero hsize hsized hwithin => ?_,
      fun s mb c hdue hlisted hwhich hzero hreserved hpos hcount hwithin => ?_⟩,
    fun s mb c hdue hsession => cfgDiscard_noSession hdue hsession,
    fun s mb c hdue hsession hbake hoffer => ?_, fun s mb c k hdue hsession hbake hown hoffer htime => ?_,
    fun s mb c i hdue hsession hi => cfgDiscard_otherInterface hdue hsession hi⟩
  · have hfits : StageWriteFits c.payload m := ⟨hmax, hzero, hsize, hsized, hwithin⟩
    obtain ⟨t, hnext, hcfg, hans⟩ := cfgStageWrite_answers hdue hfits (stagingBusy_eq_false hbake hoffer hsession)
    refine ⟨t, stageWritten s.dir c.payload, hnext, ?_, stageWritten_length hfits _, ?_, sub_stageWritten hfits _, hans, ?_⟩
    · rw [hcfg]; rfl
    · rw [hcfg]; exact tget_tset_same [] _ _ _
    · rw [hcfg]; rfl
  · have hsect : sectionAsked s.dir c.payload = tget [] (byteAt c.payload 0 * 256 + byteAt c.payload 1) s.dir.cfg.inForce :=
      sectionAsked_inForce (by omega)
    rw [← hsect] at hwithin ⊢
    obtain ⟨t, hnext, hans, hcfg⟩ := cfgStageRead_answers hdue
      (stageReadBad_eq_false hlisted hwhich.le hzero hreserved hpos hcount hwithin)
    exact ⟨t, _, hnext, hans, stageReadPayload_length hwithin, stageReadPayload_drop _ _, hcfg⟩
  · have hnone := ownBake_of_none hbake
    obtain ⟨t, hnext, hans, hclosed, -, hforce⟩ :=
      cfgDiscard_closes hdue hsession (discardLate_of_none hnone) hoffer (bakeTaken_of_none hnone) rfl
    exact ⟨t, hnext, hans, hclosed, hforce⟩
  · have hlate := discardLate_of_inTime (ownBake_of_own hbake hown) htime
    obtain ⟨hmbs, hgone, hforce⟩ := bakeTaken_bakeGone (d := dirStart s.dir) hbake hown
    obtain ⟨t, hnext, hans, hclosed, hbake', hforce'⟩ := cfgDiscard_closes hdue hsession hlate hoffer rfl hmbs
    exact ⟨t, hnext, hans, hclosed, hbake'.trans hgone, hforce'.trans hforce⟩

end Sys2Proof.Machine
end

section
/-! PROOF. The commands of the event group: the enable mask and the map of vectors (R449, R530, R531). -/

namespace Sys2Proof.Machine

theorem OnlyAnswers.ring {t d : Director} (h : OnlyAnswers t d) : t.ring = d.ring := by
  rw [OnlyAnswers] at h; rw [h]

/-! EVT_ENABLE -/

theorem reservedSources_getLsbD_iff {x : Nat} (hx : x < 256) : reservedSources.getLsbD x = true ↔ 198 ≤ x ∧ x ≤ 207 := by
  rw [reservedSources, BitVec.getLsbD_ofNat, Nat.testBit_mul_two_pow, Nat.testBit_two_pow_sub_one]
  simp only [Bool.and_eq_true, decide_eq_true_eq]
  omega

/-- The mask that EVT_ENABLE leaves in force, by OP, MASK and the mask before (R530). -/
def enableAfter (op : Nat) (m old : BitVec 256) : BitVec 256 :=
  match op with
  | 1 => m &&& (~~~reservedSources ||| old)
  | 2 => old ||| (m &&& ~~~reservedSources)
  | 3 => old &&& ~~~m
  | _ => old

/-- A source outside the reserved ones is set, enabled or disabled as OP says. -/
theorem enableAfter_getLsbD {x : Nat} (hx : x < 256) (hfree : reservedSources.getLsbD x = false) (m old : BitVec 256) :
    (enableAfter 1 m old).getLsbD x = m.getLsbD x
      ∧ (enableAfter 2 m old).getLsbD x = (old.getLsbD x || m.getLsbD x)
      ∧ (enableAfter 3 m old).getLsbD x = (old.getLsbD x && !m.getLsbD x) := by
  simp only [enableAfter, BitVec.getLsbD_and, BitVec.getLsbD_or, BitVec.getLsbD_not, hx, hfree]
  simp

/-- No OP enables a reserved source (R530). -/
theorem enableAfter_reserved {x : Nat} (hreserved : reservedSources.getLsbD x = true) {old : BitVec 256}
    (hold : old.getLsbD x = false) (op : Nat) (m : BitVec 256) : (enableAfter op m old).getLsbD x = false := by
  unfold enableAfter
  split <;> simp [hreserved, hold]

/-- The MASK field of EVT_ENABLE. -/
def enableMask (p : List Byte) : BitVec 256 := BitVec.ofNat 256 (leAt p 4 32)

theorem enableMask_getLsbD {x : Nat} (hx : x < 256) (p : List Byte) : (enableMask p).getLsbD x = (leAt p 4 32).testBit x := by
  rw [enableMask, BitVec.getLsbD_ofNat, decide_eq_true hx, Bool.true_and]

/-- The director with the mask that EVT_ENABLE leaves. -/
def maskChanged (d : Director) (p : List Byte) : Director :=
  modRing d fun r => { r with enable := enableAfter (byteAt p 0) (enableMask p) d.ring.enable }

theorem exec_evtEnable (mb : Nat) (s : State) : exec (.evtEnable mb) s =
    onCmd s mb 0x0B00 fun d c => guarded d mb [(3 < byteAt c.payload 0 || !allZero (sub c.payload 1 3), stRange)] fun d =>
      respond (maskChanged d c.payload) mb stOK (toLE 32 (maskChanged d c.payload).ring.enable.toNat) := rfl

/-- EVT_ENABLE with an OP of the table answers the mask it leaves. -/
theorem evtEnable_answers {s : State} {mb : Nat} {c : Cmd} (hdue : Due s mb 0x0B00 c) (hop : byteAt c.payload 0 ≤ 3)
    (hzero : allZero (sub c.payload 1 3) = true) :
    ∃ t, exec (.evtEnable mb) s = .next t ∧ Answered t.dir mb c stOK (toLE 32 t.dir.ring.enable.toNat)
      ∧ t.dir.ring = (maskChanged s.dir c.payload).ring := by
  obtain ⟨t, hnext, hans, hrest, -⟩ := answered_of_due (exec_evtEnable mb s) hdue
    (guarded_pass (List.forall_mem_singleton.mpr (by simp [hop, hzero]))) rfl (by decide)
  rw [← hrest.ring] at hans
  exact ⟨t, hnext, hans, hrest.ring⟩

/-! EVT_VECTOR_MAP -/

/-- What an index maps to before EVT_VECTOR_MAP has written it (R449). -/
def vectorDefault (i : Nat) : Nat := if i < 256 then i / 8 else 0

theorem mapIndex_eq (d : Director) (i : Nat) : mapIndex d i = tget (vectorDefault i) i d.ring.vectors := by
  unfold mapIndex vectorDefault
  split
  · rfl
  · next h => rw [mbxVector, Nat.add_sub_cancel' (Nat.le_of_not_lt h)]

/-- The table with the vectors `vs` at the indices from `first` on (R531). -/
def vectorsWritten (first : Nat) (vs : List Byte) (t : Table Nat) : Table Nat :=
  (withIdx vs).foldl (fun t (j, v) => tset (first + j) v.toNat t) t

theorem withIdx_concat {α : Type} (l : List α) (a : α) : withIdx (l ++ [a]) = withIdx l ++ [(l.length, a)] := by
  simp [withIdx, List.range_succ, List.zip_append]

theorem vectorsWritten_concat (first : Nat) (vs : List Byte) (v : Byte) (t : Table Nat) :
    vectorsWritten first (vs ++ [v]) t = tset (first + vs.length) v.toNat (vectorsWritten first vs t) := by
  rw [vectorsWritten, withIdx_concat, List.foldl_append]
  rfl

/-- Indices outside those written read as before. -/
theorem tget_vectorsWritten_outside {first y : Nat} {vs : List Byte} (h : y < first ∨ first + vs.length ≤ y) (dflt : Nat)
    (t : Table Nat) : tget dflt y (vectorsWritten first vs t) = tget dflt y t := by
  induction vs using List.reverseRecOn with
  | nil => rfl
  | append_singleton vs v ih =>
    rw [List.length_append, List.length_singleton] at h
    rw [vectorsWritten_concat, tget_tset_other _ (by omega), ih (by omega)]

/-- The written indices read what was written. -/
theorem tget_vectorsWritten_inside {first j : Nat} {vs : List Byte} (h : j < vs.length) (dflt : Nat) (t : Table Nat) :
    tget dflt (first + j) (vectorsWritten first vs t) = vs[j].toNat := by
  induction vs using List.reverseRecOn with
  | nil => exact absurd h (Nat.not_lt_zero j)
  | append_singleton vs v ih =>
    rw [vectorsWritten_concat]
    by_cases hlast : j = vs.length
    · subst hlast
      rw [tget_tset_same, List.getElem_concat_length rfl]
    · have hj : j < vs.length := by rw [List.length_append, List.length_singleton] at h; omega
      rw [tget_tset_other _ (by omega), ih hj, List.getElem_append_left hj]

/-- What EVT_VECTOR_MAP refuses with RANGE (R531). -/
def vectorMapBad (p : List Byte) : Bool :=
  1 < byteAt p 4 || !allZero (sub p 5 3) || 260 < leAt p 0 2 + leAt p 2 2 || (byteAt p 4 = 1 && (p.drop 8).any fun v => 31 < v.toNat)

/-- The director with its map written as EVT_VECTOR_MAP says: with OP 1 only. -/
def mapWritten (d : Director) (p : List Byte) : Director :=
  if byteAt p 4 = 1 then modRing d fun r => { r with vectors := vectorsWritten (leAt p 0 2) (p.drop 8) r.vectors } else d

/-- The map in force for the indices that EVT_VECTOR_MAP names. -/
def mapRead (d : Director) (p : List Byte) : List Byte := (List.range (leAt p 2 2)).flatMap fun j => b1 (mapIndex d (leAt p 0 2 + j))

theorem mapRead_length (d : Director) (p : List Byte) : (mapRead d p).length = leAt p 2 2 := by
  simp [mapRead, b1, List.length_flatMap]

theorem mapWritten_mbs (d : Director) (p : List Byte) : (mapWritten d p).mbs = d.mbs := by
  unfold mapWritten; split <;> rfl

theorem mapWritten_ring_of_read {d : Director} {p : List Byte} (h : byteAt p 4 = 0) : (mapWritten d p).ring = d.ring := by
  rw [mapWritten, if_neg (by omega)]

theorem mapWritten_ring_of_write {d : Director} {p : List Byte} (h : byteAt p 4 = 1) :
    (mapWritten d p).ring = { d.ring with vectors := vectorsWritten (leAt p 0 2) (p.drop 8) d.ring.vectors } := by
  rw [mapWritten, if_pos h, modRing_ring]

theorem exec_evtVectorMap (mb : Nat) (s : State) : exec (.evtVectorMap mb) s =
    onCmd s mb 0x0B01 fun d c => guarded d mb [(vectorMapBad c.payload, stRange)] fun d =>
      respond (mapWritten d c.payload) mb stOK
        (b2 (leAt c.payload 0 2) ++ b2 (leAt c.payload 2 2) ++ zeros 4 ++ mapRead (mapWritten d c.payload) c.payload) := rfl

/-- EVT_VECTOR_MAP within its ranges answers eight bytes and then the map that it leaves in force. -/
theorem evtVectorMap_answers {s : State} {mb : Nat} {c : Cmd} (hdue : Due s mb 0x0B01 c) (hgood : vectorMapBad c.payload = false) :
    ∃ t hdr, exec (.evtVectorMap mb) s = .next t ∧ hdr.length = 8
      ∧ Answered t.dir mb c stOK (hdr ++ mapRead (mapWritten (dirStart s.dir) c.payload) c.payload)
      ∧ t.dir.ring = (mapWritten (dirStart s.dir) c.payload).ring := by
  obtain ⟨t, hnext, hans, hrest, -⟩ := answered_of_due (exec_evtVectorMap mb s) hdue
    (guarded_pass (List.forall_mem_singleton.mpr hgood)) (mapWritten_mbs _ _) (by decide)
  exact ⟨t, _, hnext, by simp [b2], hans, hrest.ring⟩

/-- The map depends on the event ring's state alone. -/
theorem mapRead_congr {t d : Director} (h : t.ring = d.ring) (p : List Byte) : mapRead t p = mapRead d p := by
  simp only [mapRead, mapIndex_eq, h]

/-- Settles O31: each bit of the mask by its OP, and each index of the map by whether it was written. -/
theorem eventCommands : Obligations.EventCommands := by
  unfold Obligations.EventCommands
  refine ⟨fun s mb c hdue hop hzero => ?_, fun s mb c hdue hread hzero hrange => ?_,
    fun s mb c x n hdue hwrite hzero hx hn hlen hvs hrange => ?_⟩
  · obtain ⟨t, hnext, hans, hring⟩ := evtEnable_answers hdue hop hzero
    refine ⟨t, hnext, hans, ?_⟩
    rw [hring]
    refine ⟨fun hop0 => ?_, fun x hx => ?_, fun x hlo hhi hold => ?_, rfl⟩
    · simp [maskChanged, hop0, enableAfter]
    · have hlt : x < 256 := by omega
      have hfree : reservedSources.getLsbD x = false := by
        rw [← Bool.not_eq_true, reservedSources_getLsbD_iff hlt]; omega
      obtain ⟨hset, hadd, htake⟩ := enableAfter_getLsbD hlt hfree (enableMask c.payload) s.dir.ring.enable
      rw [enableMask_getLsbD hlt] at hset hadd htake
      simp only [maskChanged, modRing_ring]
      exact ⟨fun h => h ▸ hset, fun h => h ▸ hadd, fun h => h ▸ htake⟩
    · have hreserved : reservedSources.getLsbD x = true := (reservedSources_getLsbD_iff (by omega)).mpr ⟨hlo, hhi⟩
      exact enableAfter_reserved hreserved hold _ _
  · have hgood : vectorMapBad c.payload = false := by simp [vectorMapBad, hread, hzero, hrange]
    obtain ⟨t, hdr, hnext, hhdr, hans, hring⟩ := evtVectorMap_answers hdue hgood
    have hkept : (mapWritten (dirStart s.dir) c.payload).ring = s.dir.ring := mapWritten_ring_of_read hread
    refine ⟨t, _, hnext, hans, ?_, ?_, hring.trans hkept⟩
    · rw [List.length_append, hhdr, mapRead_length]
    · rw [List.drop_left' hhdr, mapRead_congr hkept]; rfl
  · have hgood : vectorMapBad c.payload = false := by
      have hany : ((c.payload.drop 8).any fun v => decide (31 < v.toNat)) = false :=
        List.any_eq_false.mpr fun v hv => by simpa using hvs v hv
      simp only [vectorMapBad, hwrite, hzero, hx, hn, hany]
      simpa using hrange
    obtain ⟨t, hdr, hnext, -, hans, hring⟩ := evtVectorMap_answers hdue hgood
    rw [mapWritten_ring_of_write hwrite, hx] at hring
    refine ⟨t, _, hnext, hans, fun j hj => ?_, fun y hy => ?_, by rw [hring]; rfl⟩
    · rw [mapIndex_eq, hring, tget_vectorsWritten_inside hj]
    · rw [mapIndex_eq, mapIndex_eq, hring, tget_vectorsWritten_outside (by omega)]; rfl

end Sys2Proof.Machine
end

section
/-! PROOF. Nonces, and the commands that need an authorisation block (R521, R522, R525, R526, R600, R601). -/

namespace Sys2Proof.Machine

/-! Big-endian fields -/

theorem beNat_reverse (bs : List Byte) : beNat bs.reverse = leNat bs := by
  rw [beNat, List.foldl_reverse]
  induction bs with
  | nil => rfl
  | cons b r ih => rw [List.foldr_cons, ih, leNat]; omega

theorem toBE_length (k n : Nat) : (toBE k n).length = k := by rw [toBE, List.length_reverse, toLE_length]

theorem beAt_toBE_append (k n : Nat) (r : List Byte) : beAt (toBE k n ++ r) 0 k = n % 256 ^ k := by
  rw [beAt, sub, List.drop_zero, List.take_left' (toBE_length k n), toBE, beNat_reverse, leNat_toLE]

/-! What an event and a log entry leave of the director -/

/-- An event changes the event ring alone. -/
theorem raise_eq (d : Director) (source detail : Nat) (data : List Byte) :
    raise d source detail data = { d with ring := (raise d source detail data).ring } := by
  unfold raise; split <;> rfl

@[simp] theorem raise_sec (d : Director) (a b : Nat) (l : List Byte) : (raise d a b l).sec = d.sec := by rw [raise_eq]
@[simp] theorem raise_boot (d : Director) (a b : Nat) (l : List Byte) : (raise d a b l).boot = d.boot := by rw [raise_eq]
@[simp] theorem raise_writes (d : Director) (a b : Nat) (l : List Byte) : (raise d a b l).writes = d.writes := by rw [raise_eq]

/-- An event of a source that is enabled is decided (R445, R446). -/
theorem raise_decides {d : Director} {source : Nat} (h : Enabled d source) (detail : Nat) (data : List Byte) :
    Decided (raise d source detail data) source detail data := by
  obtain ⟨hlive, hbit⟩ := h
  rw [Decided, raise_decided, hlive, hbit]
  exact ⟨_, List.mem_append_right _ (List.mem_singleton.mpr rfl), rfl, rfl, rfl⟩

/-- A log entry counts on and moves the log's place; it writes flash (R539). -/
theorem logAppend_eq (d : Director) (kind slot result version : Nat) (data : List Byte) :
    logAppend d kind slot result version data =
      { d with boot := { d.boot with logSeq := d.boot.logSeq + 1, logPos := (d.boot.logPos + 32) % 1048576 }
               writes := (logAppend d kind slot result version data).writes } := by
  simp only [logAppend]; split <;> rfl

section
variable (d : Director) (kind slot result version : Nat) (data : List Byte)

@[simp] theorem logAppend_mbs : (logAppend d kind slot result version data).mbs = d.mbs := by rw [logAppend_eq]
@[simp] theorem logAppend_sec : (logAppend d kind slot result version data).sec = d.sec := by rw [logAppend_eq]
@[simp] theorem logAppend_logSeq : (logAppend d kind slot result version data).boot.logSeq = d.boot.logSeq + 1 := by rw [logAppend_eq]
@[simp] theorem logAppend_fuseA : (logAppend d kind slot result version data).boot.fuseA = d.boot.fuseA := by rw [logAppend_eq]
@[simp] theorem logAppend_fuseB : (logAppend d kind slot result version data).boot.fuseB = d.boot.fuseB := by rw [logAppend_eq]

end

theorem OnlyAnswers.sec {t d : Director} (h : OnlyAnswers t d) : t.sec = d.sec := by
  rw [OnlyAnswers] at h; rw [h]

theorem OnlyAnswers.boot {t d : Director} (h : OnlyAnswers t d) : t.boot = d.boot := by
  rw [OnlyAnswers] at h; rw [h]

/-! Nonces -/

theorem nonceOf_congr {t d : Director} (h : t.sec = d.sec) (i : Iface) : nonceOf t i = nonceOf d i := by
  cases i <;> simp only [nonceOf, h]

@[simp] theorem nonceOf_dropNonce (d : Director) (i : Iface) : nonceOf (dropNonce d i) i = none := by cases i <;> rfl

@[simp] theorem dropNonce_cert (d : Director) (i : Iface) : (dropNonce d i).sec.cert = d.sec.cert := by cases i <;> rfl

/-- The director with a nonce and its instant outstanding on an interface. -/
def nonceIssued (d : Director) (i : Iface) (v : BitVec 128 × Nat) : Director :=
  modSec d fun k => match i with | .pcie => { k with noncePcie := some v } | .spi => { k with nonceSpi := some v }

@[simp] theorem nonceOf_nonceIssued_same (d : Director) (i : Iface) (v : BitVec 128 × Nat) :
    nonceOf (nonceIssued d i v) i = some v := by cases i <;> rfl

theorem nonceOf_nonceIssued_other (d : Director) {i j : Iface} (h : j ≠ i) (v : BitVec 128 × Nat) :
    nonceOf (nonceIssued d i v) j = nonceOf d j := by
  match i, j with
  | .pcie, .spi | .spi, .pcie => rfl
  | .pcie, .pcie | .spi, .spi => exact absurd rfl h

theorem exec_secNonce (mb : Nat) (s : State) : exec (.secNonce mb) s =
    onCmd s mb 0x0A00 fun d c => respond (nonceIssued d c.iface (BitVec.ofNat 128 (nonce128 s.fresh 0), d.time.raw)) mb stOK
      (toBE 16 (nonce128 s.fresh 0) ++ toLE 8 (deviceId d)) := rfl

/-- SEC_NONCE answers the nonce it draws and leaves it outstanding on its interface alone (R522). -/
theorem secNonce_answers {s : State} {mb : Nat} {c : Cmd} (hdue : Due s mb 0x0A00 c) :
    ∃ t p v, exec (.secNonce mb) s = .next t ∧ Answered t.dir mb c stOK p ∧ p.length = 24
      ∧ v = BitVec.ofNat 128 (nonce128 s.fresh 0) ∧ beAt p 0 16 = v.toNat ∧ leAt p 16 8 = deviceId s.dir
      ∧ nonceOf t.dir c.iface = some (v, s.dir.time.raw) ∧ ∀ j, j ≠ c.iface → nonceOf t.dir j = nonceOf s.dir j := by
  obtain ⟨t, hnext, hans, hrest, -⟩ := answered_of_due (exec_secNonce mb s) hdue rfl rfl (by decide)
  have hid : deviceId (dirStart s.dir) % 256 ^ 8 = deviceId s.dir := Nat.mod_eq_of_lt (deviceId_lt _)
  refine ⟨t, _, _, hnext, hans, ?_, rfl, ?_, ?_, ?_, fun j hj => ?_⟩
  · rw [List.length_append, toBE_length, toLE_length]
  · rw [beAt_toBE_append, BitVec.toNat_ofNat]; norm_num
  · rw [leAt_append_of_le (toBE_length 16 _).le, toBE_length, ← List.append_nil (toLE 8 _), leAt_toLE_append, hid]
  · rw [nonceOf_congr hrest.sec, nonceOf_nonceIssued_same]; rfl
  · rw [nonceOf_congr hrest.sec, nonceOf_nonceIssued_other _ hj]; rfl

/-! The authorisation block -/

/-- Without a nonce outstanding no block authorises (R521). -/
theorem authOk_of_noNonce {d : Director} {c : Cmd} (h : nonceOf d c.iface = none) (key : List Byte) : authOk d c key = false := by
  rw [authOk, h]
  rfl

/-- A block whose nonce is old, or is not the one outstanding, does not authorise (R521, R522). -/
theorem authOk_of_badNonce {d : Director} {c : Cmd} {v : BitVec 128} {issued : Nat} (h : nonceOf d c.iface = some (v, issued))
    (hbad : issued + 75000000000 < d.time.raw ∨ v.toNat ≠ beAt c.payload (c.payload.length - 80) 16) (key : List Byte) :
    authOk d c key = false := by
  rw [authOk, h]
  rcases hbad with hold | hother
  · have hlate : decide (d.time.raw ≤ issued + nonceLife) = false := decide_eq_false (Nat.not_le.mpr hold)
    simp [hlate]
  · simp [hother]

theorem authorised_pass {d : Director} {mb : Nat} {c : Cmd} {key : List Byte} {l : List (Bool × Nat)} {f : Director → Director}
    (hauth : authOk d c key = true) (h : ∀ x ∈ l, x.1 = false) : authorised d mb c key l f = f (dropNonce d c.iface) :=
  guarded_pass (List.forall_mem_cons.mpr ⟨by rw [hauth]; rfl, h⟩)

/-- Without authorisation the answer is AUTH before any other check, and the nonce is spent all the same (R521). -/
theorem authorised_fail {d : Director} {mb : Nat} {c : Cmd} {key : List Byte} {l : List (Bool × Nat)} {f : Director → Director}
    (hauth : authOk d c key = false) : authorised d mb c key l f = respond (dropNonce d c.iface) mb stAuth [] :=
  guarded_fail (by rw [hauth]; rfl)

/-- An answer AUTH raises source 209 with the opcode (R601). -/
theorem respond_auth {d : Director} {n : Nat} {c : Cmd} (hc : (mbx d n).cmd = some c) (p : List Byte) : respond d n stAuth p =
    raise (trigVector (modMbx d n (doneWith (rspOf c stAuth p))) (mbxVector d n)) 209 0x01 (b2 c.opcode.toNat) := by
  rw [respond, hc]
  exact if_pos rfl

theorem respond_auth_decides {d : Director} {n : Nat} {c : Cmd} (hc : (mbx d n).cmd = some c) (h : Enabled d 209) (p : List Byte) :
    Decided (respond d n stAuth p) 209 0x01 (b2 c.opcode.toNat) := by
  rw [respond_auth hc]
  exact raise_decides (d := trigVector (modMbx ..) _) h 0x01 _

/-- A due command that is refused for its authorisation answers AUTH, spends its nonce, writes no memory and is
reported where source 209 is enabled. -/
theorem authRefused_of_due {i : Instr} {s : State} {mb op : Nat} {c : Cmd} {f : Director → Cmd → Director}
    (hrun : exec i s = onCmd s mb op f) (hdue : Due s mb op c)
    (hf : f (dirStart s.dir) c = respond (dropNonce (dirStart s.dir) c.iface) mb stAuth []) :
    ∃ t, exec i s = .next t ∧ Answered t.dir mb c stAuth [] ∧ nonceOf t.dir c.iface = none ∧ t.mem = s.mem
      ∧ (Enabled s.dir 209 → Decided t.dir 209 1 (b2 op)) := by
  obtain ⟨hmb, hserves, hactive, hcmd, hop, hwait⟩ := hdue
  obtain ⟨t, pba, armed, trig, x, hnext, hdir, -, -, -, hmem⟩ := onCmd_next f hmb hcmd hserves hactive hop hwait
  have hc : (mbx (dropNonce (dirStart s.dir) c.iface) mb).cmd = some c := hcmd
  rw [hf] at hdir hmem
  refine ⟨t, hrun.trans hnext, ?_, ?_, ?_, fun henabled => ?_⟩
  · have hbox : mbx t.dir mb = doneWith (rspOf c stAuth []) (mbx (dropNonce (dirStart s.dir) c.iface) mb) := by
      rw [hdir, ← respond_mbx hc]; rfl
    rw [Answered, hbox]
    exact ⟨rfl, rfl⟩
  · have hsec : t.dir.sec = (dropNonce (dirStart s.dir) c.iface).sec := by
      rw [hdir, respond_auth hc]; exact raise_sec _ _ _ _
    rw [nonceOf_congr hsec, nonceOf_dropNonce]
  · rw [hmem, respond_auth hc, raise_writes]; rfl
  · rw [hdir, ← hop]
    exact respond_auth_decides hc henabled []

/-! SEC_IMAGE_ACTIVATE -/

/-- What SEC_IMAGE_ACTIVATE refuses once it is authorised (R525). -/
def activateChecks (d : Director) (p : List Byte) : List (Bool × Nat) :=
  [(byteAt p 0 ≤ 1 && !(slotWrite d (byteAt p 0)).verified, stState), (1 < byteAt p 0 || !allZero (sub p 1 3), stRange)]

/-- The log entry that makes a slot the first tried at the next boot (R525, R539). -/
def slotPreferred (m : Stores) (d : Director) (i : Nat) : Director := logAppend d 2 i 0 (imgVersion m d i).toNat []

theorem exec_secImageActivate (mb : Nat) (s : State) : exec (.secImageActivate mb) s =
    onCmd s mb 0x0A03 fun d c => authorised d mb c (ownerKeyInForce s.mem d) (activateChecks d c.payload) fun d =>
      respond (slotPreferred s.mem d (byteAt c.payload 0)) mb stOK (b1 (byteAt c.payload 0) ++ zeros 3) := rfl

theorem activateChecks_pass {d : Director} {p : List Byte} (hslot : byteAt p 0 ≤ 1) (hzero : allZero (sub p 1 3) = true)
    (hverified : (slotWrite d (byteAt p 0)).verified = true) : ∀ x ∈ activateChecks d p, x.1 = false := by
  simp [activateChecks, hslot, hzero, hverified]

theorem secImageActivate_answers {s : State} {mb : Nat} {c : Cmd} (hdue : Due s mb 0x0A03 c)
    (hauth : authOk s.dir c (ownerKeyInForce s.mem s.dir) = true) (hpass : ∀ x ∈ activateChecks s.dir c.payload, x.1 = false) :
    ∃ t, exec (.secImageActivate mb) s = .next t ∧ Answered t.dir mb c stOK (b1 (byteAt c.payload 0) ++ zeros 3)
      ∧ nonceOf t.dir c.iface = none ∧ t.dir.boot.logSeq = s.dir.boot.logSeq + 1 := by
  obtain ⟨t, hnext, hans, hrest, -⟩ := answered_of_due (exec_secImageActivate mb s) hdue
    (authorised_pass (d := dirStart s.dir) hauth hpass) (logAppend_mbs ..) (by decide)
  refine ⟨t, hnext, hans, ?_, ?_⟩
  · rw [nonceOf_congr (hrest.sec.trans (logAppend_sec ..)), nonceOf_dropNonce]
  · rw [hrest.boot]
    exact logAppend_logSeq ..

theorem secImageActivate_refused {s : State} {mb : Nat} {c : Cmd} (hdue : Due s mb 0x0A03 c)
    (hauth : authOk s.dir c (ownerKeyInForce s.mem s.dir) = false) :
    ∃ t, exec (.secImageActivate mb) s = .next t ∧ Answered t.dir mb c stAuth [] ∧ nonceOf t.dir c.iface = none ∧ t.mem = s.mem
      ∧ (Enabled s.dir 209 → Decided t.dir 209 1 (b2 0x0A03)) :=
  authRefused_of_due (exec_secImageActivate mb s) hdue (authorised_fail (d := dirStart s.dir) hauth)

/-! SEC_OWNER_UPDATE -/

/-- The object that SEC_OWNER_UPDATE carries (R526). -/
def updateObject (p : List Byte) : List Byte := sub p 4 (leAt p 2 2)

/-- The key that must have signed: that of the object itself for the first owner key (R526, R600). -/
def updateKey (m : Stores) (d : Director) (p : List Byte) : List Byte :=
  if byteAt p 0 = 1 && (fusedOwnerHash d).isNone then updateObject p else ownerKeyInForce m d

/-- The object has the format of its kind (R526, R600, R601). -/
def updateFits (m : Stores) (d : Director) (p : List Byte) : Bool :=
  if byteAt p 0 = 1 then leAt p 2 2 = 64 && onCurve (updateObject p)
  else byteAt p 0 = 2 && leAt p 2 2 = 112 && certGood m d (updateObject p)

/-- What SEC_OWNER_UPDATE refuses once it is authorised (R526, R600). -/
def updateChecks (m : Stores) (d : Director) (p : List Byte) : List (Bool × Nat) :=
  [(byteAt p 1 ≠ 0 || !updateFits m d p, stRange), (byteAt p 0 = 1 && (freeHash d).isNone, stResource)]

/-- The director with the object of SEC_OWNER_UPDATE installed. -/
def ownerUpdated (d : Director) (p : List Byte) : Director :=
  if byteAt p 0 = 1 then (match freeHash d with | some n => installOwner d n (updateObject p) | none => d)
  else installCert d (updateObject p)

theorem exec_secOwnerUpdate (mb : Nat) (s : State) : exec (.secOwnerUpdate mb) s =
    onCmd s mb 0x0A04 fun d c => authorised d mb c (updateKey s.mem d c.payload) (updateChecks s.mem d c.payload) fun d =>
      respond (ownerUpdated d c.payload) mb stOK (b1 (byteAt c.payload 0) ++ zeros 3) := rfl

/-- An authorised SEC_OWNER_UPDATE that passes its checks answers, with its object installed. -/
theorem secOwnerUpdate_answers {s : State} {mb : Nat} {c : Cmd} {d : Director} (hdue : Due s mb 0x0A04 c)
    (hauth : authOk s.dir c (updateKey s.mem s.dir c.payload) = true)
    (hpass : ∀ x ∈ updateChecks s.mem s.dir c.payload, x.1 = false)
    (hd : ownerUpdated (dropNonce (dirStart s.dir) c.iface) c.payload = d) (hmbs : d.mbs = s.dir.mbs) :
    ∃ t, exec (.secOwnerUpdate mb) s = .next t ∧ Answered t.dir mb c stOK (b1 (byteAt c.payload 0) ++ zeros 3)
      ∧ t.dir.sec = d.sec ∧ t.dir.boot = d.boot := by
  obtain ⟨t, hnext, hans, hrest, -⟩ := answered_of_due (d := d) (exec_secOwnerUpdate mb s) hdue
    ((authorised_pass (d := dirStart s.dir) hauth hpass).trans (by rw [hd])) hmbs (by decide)
  exact ⟨t, hnext, hans, hrest.sec, hrest.boot⟩

/-- A certificate installed is the one in force, and leaves mailboxes, nonces and fuses (R601). -/
theorem installCert_replaces (d : Director) (cert : List Byte) :
    (installCert d cert).mbs = d.mbs ∧ (installCert d cert).sec.cert = cert
      ∧ (∀ i, nonceOf (installCert d cert) i = nonceOf d i) ∧ (installCert d cert).boot.fuseA = d.boot.fuseA := by
  refine ⟨?_, ?_, fun i => ?_, ?_⟩
  · simp [installCert]
  · simp [installCert]
  · cases i <;> simp [installCert, nonceOf]
  · simp [installCert]

/-- An owner key installed sets its hash in both copies of the fuses, and leaves mailboxes and keys (R536, R600). -/
theorem installOwner_burns (d : Director) (n : Nat) (key : List Byte) :
    (installOwner d n key).mbs = d.mbs ∧ (installOwner d n key).sec = d.sec
      ∧ (installOwner d n key).boot.fuseA = d.boot.fuseA ||| BitVec.ofNat 4096 ((sha256 key).toNat * 2 ^ (1440 + 256 * n))
      ∧ (installOwner d n key).boot.fuseB = d.boot.fuseB ||| BitVec.ofNat 4096 ((sha256 key).toNat * 2 ^ (1440 + 256 * n)) := by
  simp [installOwner, burn]

/-- OBJECT 0x02: an authorised certificate for this director replaces the one in force (R526, R601). -/
theorem secOwnerUpdate_certificate {s : State} {mb : Nat} {c : Cmd} (hdue : Due s mb 0x0A04 c) (hobject : byteAt c.payload 0 = 2)
    (hzero : byteAt c.payload 1 = 0) (hsize : leAt c.payload 2 2 = 112)
    (hauth : authOk s.dir c (ownerKeyInForce s.mem s.dir) = true) (hgood : certGood s.mem s.dir (sub c.payload 4 112) = true) :
    ∃ t, exec (.secOwnerUpdate mb) s = .next t ∧ Answered t.dir mb c stOK [2, 0, 0, 0] ∧ t.dir.sec.cert = sub c.payload 4 112
      ∧ nonceOf t.dir c.iface = none ∧ t.dir.boot.fuseA = s.dir.boot.fuseA := by
  have hobj : updateObject c.payload = sub c.payload 4 112 := by rw [updateObject, hsize]
  have hkey : updateKey s.mem s.dir c.payload = ownerKeyInForce s.mem s.dir := by simp [updateKey, hobject]
  have hpass : ∀ x ∈ updateChecks s.mem s.dir c.payload, x.1 = false := by
    simp [updateChecks, updateFits, hobject, hzero, hsize, hobj, hgood]
  have hinstalled : ownerUpdated (dropNonce (dirStart s.dir) c.iface) c.payload
      = installCert (dropNonce (dirStart s.dir) c.iface) (sub c.payload 4 112) := by
    rw [ownerUpdated, if_neg (by omega), hobj]
  obtain ⟨hmbs, hcert, hnonce, hfuse⟩ := installCert_replaces (dropNonce (dirStart s.dir) c.iface) (sub c.payload 4 112)
  obtain ⟨t, hnext, hans, hsec, hboot⟩ := secOwnerUpdate_answers hdue (by rwa [hkey]) hpass hinstalled hmbs
  rw [hobject] at hans
  refine ⟨t, hnext, hans, ?_, ?_, ?_⟩
  · rw [hsec, hcert]
  · rw [nonceOf_congr hsec, hnonce, nonceOf_dropNonce]
  · rw [hboot, hfuse]; rfl

/-- OBJECT 0x01: an authorised owner key is installed in the free hash (R526, R600). -/
theorem secOwnerUpdate_ownerKey {s : State} {mb n : Nat} {c : Cmd} {key : List Byte} (hdue : Due s mb 0x0A04 c)
    (hobject : byteAt c.payload 0 = 1) (hzero : byteAt c.payload 1 = 0) (hsize : leAt c.payload 2 2 = 64)
    (hobj : updateObject c.payload = key) (hcurve : onCurve key = true) (hfree : freeHash s.dir = some n)
    (hauth : authOk s.dir c (if (fusedOwnerHash s.dir).isNone then key else ownerKeyInForce s.mem s.dir) = true) :
    ∃ t, exec (.secOwnerUpdate mb) s = .next t ∧ Answered t.dir mb c stOK [1, 0, 0, 0] ∧ nonceOf t.dir c.iface = none
      ∧ t.dir.boot.fuseA = s.dir.boot.fuseA ||| BitVec.ofNat 4096 ((sha256 key).toNat * 2 ^ (1440 + 256 * n))
      ∧ t.dir.boot.fuseB = s.dir.boot.fuseB ||| BitVec.ofNat 4096 ((sha256 key).toNat * 2 ^ (1440 + 256 * n))
      ∧ t.dir.sec.cert = s.dir.sec.cert := by
  have hkey : updateKey s.mem s.dir c.payload = if (fusedOwnerHash s.dir).isNone then key else ownerKeyInForce s.mem s.dir := by
    simp [updateKey, hobject, hobj]
  have hpass : ∀ x ∈ updateChecks s.mem s.dir c.payload, x.1 = false := by
    simp [updateChecks, updateFits, hobject, hzero, hsize, hobj, hcurve, hfree]
  have hinstalled : ownerUpdated (dropNonce (dirStart s.dir) c.iface) c.payload
      = installOwner (dropNonce (dirStart s.dir) c.iface) n key := by
    have hfree' : freeHash (dropNonce (dirStart s.dir) c.iface) = some n := hfree
    rw [ownerUpdated, if_pos hobject, hfree', hobj]
  obtain ⟨hmbs, hsame, hfuseA, hfuseB⟩ := installOwner_burns (dropNonce (dirStart s.dir) c.iface) n key
  obtain ⟨t, hnext, hans, hsec, hboot⟩ := secOwnerUpdate_answers hdue (by rwa [hkey]) hpass hinstalled hmbs
  have hsec' := hsec.trans hsame
  rw [hobject] at hans
  refine ⟨t, hnext, hans, ?_, ?_, ?_, ?_⟩
  · rw [nonceOf_congr hsec', nonceOf_dropNonce]
  · rw [hboot, hfuseA]; rfl
  · rw [hboot, hfuseB]; rfl
  · rw [hsec', dropNonce_cert]; rfl

/-- Settles O29: a nonce is drawn for one interface, and each authorised command goes by the check of its block, which
spends the nonce whether it passes or not. -/
theorem noncesAndAuthorisation : Obligations.NoncesAndAuthorisation := by
  unfold Obligations.NoncesAndAuthorisation
  refine ⟨fun s mb c hdue => secNonce_answers hdue, fun d c v issued key hnonce hbad => authOk_of_badNonce hnonce hbad key,
    fun s mb c i hdue hauth hi hslot hzero hverified => ?_, fun s mb c hdue hauth => secImageActivate_refused hdue hauth,
    fun s mb c hdue hnone => ?_,
    fun s mb c hdue hobject hzero hsize hauth hgood => secOwnerUpdate_certificate hdue hobject hzero hsize hauth hgood,
    fun s mb c n key hdue hobject hzero hsize hkey hcurve hfree hauth =>
      secOwnerUpdate_ownerKey hdue hobject hzero hsize (by rw [updateObject, hsize, hkey]) hcurve hfree hauth⟩
  · subst hi
    obtain ⟨t, hnext, hans, hrest⟩ := secImageActivate_answers hdue hauth (activateChecks_pass hslot hzero hverified)
    have hb : b1 (byteAt c.payload 0) ++ zeros 3 = [BitVec.ofNat 8 (byteAt c.payload 0), 0, 0, 0] := rfl
    exact ⟨t, hnext, hb ▸ hans, hrest⟩
  · obtain ⟨t, hnext, hans, -, hmem, -⟩ := secImageActivate_refused hdue (authOk_of_noNonce hnone _)
    exact ⟨t, hnext, hans, hmem⟩

end Sys2Proof.Machine
end

section
/-! PROOF. What holds of every command: it acts on one chip, completes when its unit exists, leaves the queue and keeps
the memories canonical (R449; assumptions 2, 6 and 7). -/

namespace Sys2Proof.Machine

/-! The shape of a command -/

/-- The outcome of a command in state `s`: it is refused unless `unit` holds, and acts on the cell controller where
`cell` holds, on the director elsewhere. -/
inductive RunsAs (s : State) : (unit cell : Bool) → Host.Outcome State Fault Refusal → Prop
  | director (f : Director → Director) : RunsAs s true false (onDir s f)
  | directorUnit (p : Bool) (f : Director → Director) : RunsAs s p false (ifUnit p (onDir s f))
  | cell (f : Cell → Cell) : RunsAs s true true (onCell s f)
  | cellUnit (p : Bool) (f : Cell → Cell) : RunsAs s p true (ifUnit p (onCell s f))

/-- A checker of a cell's link belongs to the cell controller, any other to the director (R388). -/
theorem exec_prbsCheckerResync_runsAs (k : LaneKind) (index errors : Nat) (s : State) :
    RunsAs s (wellFormed (.prbsCheckerResync k index errors)) (actsOnCell (.prbsCheckerResync k index errors))
      (exec (.prbsCheckerResync k index errors) s) := by
  cases k with
  | tree | skeund | timePort => exact .directorUnit ..
  | cellLink => exact .cellUnit ..

/-- Every command acts on the chip and asks for the unit that the vocabulary of the statements names. -/
theorem exec_runsAs (i : Instr) (s : State) : RunsAs s (wellFormed i) (actsOnCell i) (exec i s) := by
  match i with
  | .cycleStart | .mirrorAccept | .treeSilenceEnd | .skeundEpochTimeout | .twinAliveLost | .twinAliveHealthy | .watchdogReset
  | .timeMarkSend | .twinServoUpdate | .timeStep | .holdoverExpire | .refOffset | .ppsOutPulse .. | .rootPllUnlock | .refLoss
  | .refReturn | .rootPllLock | .laneStatusSend | .laneStatusReceive .. | .widthChange | .skeundKeyOfferReceive .. | .skeundKeyRetry
  | .sessionKeyRoll | .recordIntervalWrite .. | .triggerDecide | .autoTrigger | .segmentClose | .recorderRearm | .mbxRing ..
  | .mbxDoneClear .. | .ringRejectClear .. | .mbxWindowWrite .. | .evtTailWrite .. | .evtLostRead | .spiCrcFailRead
  | .timeSnapLoRead .. | .registerWriteOther .. | .spiRead .. | .spiWrite .. | .spiReadCrc .. | .spiWriteCrc ..
  | .spiUnknownInstruction .. | .pcieReset | .eventEntryWrite | .overflowEntryWrite | .bakeRecheck | .bakeApply
  | .paramStageConfirmDeadline | .devResetExecute | .resetAssert | .resetNRise .. | .fuseLoadDone | .imageLoadDone
  | .releaseStepDone .. | .releaseStepTimeout | .arbRaise | .freezeNLow .. | .freezeDrainLimit | .freezeDrainEnd ..
  | .frzDataCapture .. | .glazeWordVisit .. | .glazePassEnd | .glazeLate | .patrolBurst .. | .arbiterRecompute | .grantApplyDone
  | .thermalSample .. | .watchdogLapse | .diagFreezeStart | .preferredDomainReturn | .skeundKeyAge | .supervisorSramUeReset =>
    unfold exec; exact .director _
  | .aceStep .. | .sort .. | .orderAssembly .. | .orderFrameLaunch .. | .repeatCopyLaunch .. | .blockInAssert ..
  | .slotBurstReceive .. | .quarantine .. | .cellLost .. | .initialProving .. | .provingBlock .. | .joinBurstReceive ..
  | .joinKeyDerived .. | .joinExchangeTimeout .. | .quarHoldExpire .. | .cellParamReadTimeout .. | .cellPatchSend ..
  | .skeundFrameReceive .. | .handoverYieldTimeout .. | .timeMarkReceive .. | .ptpSyncReceive .. | .ptpAnnounceReceive ..
  | .announceTimeout .. | .pdelayReqSend .. | .pdelayReqReceive .. | .pdelayRespReceive .. | .pdelayTimeout ..
  | .timePortFrameLaunch .. | .timePortLinkChange .. | .ppsInEdge .. | .ppsMiss .. | .trainingFrameSend .. | .trainingFrameReceive ..
  | .laneTrainTimeout .. | .laneTrainRetry .. | .laneLost .. | .laneRetrainDone .. | .treeRekeyStart .. | .rekeyDone ..
  | .tqDataRead .. | .mailboxTake .. | .jobDispatch .. | .jobRelease .. | .commandTimeout .. | .commandApplyResponse ..
  | .grantWait .. | .estimatorUpdate .. | .calTreeRotate .. | .retrainHoldoffEnd .. | .timePortFrameDiscard .. | .devEcho ..
  | .devInfo .. | .devStatus .. | .devReset .. | .cfgStageWrite .. | .cfgStageRead .. | .cfgDiscard .. | .cfgBake ..
  | .cfgBakeStatus .. | .cfgDigest .. | .cellState .. | .cellParamRead .. | .cellParamWrite .. | .cellFaultClear ..
  | .cellGateEnable .. | .cellRelease .. | .cellInject .. | .cellEepromRead .. | .armStatus .. | .armMode .. | .armManualInput ..
  | .armReference .. | .armInject .. | .armBlock .. | .armUnblock .. | .balExclude .. | .balRankRead .. | .balCalRead ..
  | .balCalReset .. | .balEdgeReset .. | .redLeaseMap .. | .redClaim .. | .redIsolate .. | .redHandover .. | .timeSnapshot ..
  | .timeDomain .. | .timeSet .. | .timeRebase .. | .recStatus .. | .recStart .. | .recStop .. | .recTrigger .. | .recRelease ..
  | .recHeader .. | .recExport .. | .recMissLog .. | .diagCounters .. | .diagEdge .. | .diagEdgeRead .. | .diagEdgeLearned ..
  | .diagTx .. | .diagPrbs .. | .diagBitslip .. | .diagTrace .. | .diagFreeze .. | .diagCellFreeze .. | .secNonce ..
  | .secImageWrite .. | .secImageVerify .. | .secImageActivate .. | .secOwnerUpdate .. | .secRekey .. | .secCellPatch ..
  | .secLogRead .. | .evtEnable .. | .evtVectorMap .. =>
    unfold exec; exact .directorUnit ..
  | .cellPowerOn | .cellPowerOff | .cellFuseLoaded | .cellEepromLoaded .. | .cellNrst | .frameReceive .. | .urgentBlockReceive ..
  | .cellCycleStart | .leaseDecision | .orderExecute .. | .trimEdge | .deadtimeExpire | .cellCycleEnd | .holdLimit
  | .sampleConversion .. | .averagingSlot .. | .housekeepingSlot .. | .injectedResult .. | .selfCalStart .. | .selfCalEnd ..
  | .slotBurstSend .. | .mgmtBurstSend .. | .joinBurstSend .. | .joinAckTimeout .. | .joinNakWaitEnd .. | .joinExchangeAbandon ..
  | .linkSilenceListen .. | .ov1Trip .. | .ov1Rearm | .ov2Trip .. | .uvChange .. | .dsatFault .. | .gdpgLow .. | .vstgRise ..
  | .vstgFall .. | .lossOfSignal .. | .cellHoldoverExpire .. | .signalReturn .. | .clockLock | .clockLockLost .. | .steeringChange ..
  | .babbleTrip .. | .tsenseEdge .. | .wearEntryWrite | .eepromWriteDone .. | .cPrbsUpdate .. | .cPrbsErrRead | .cMemDataCapture ..
  | .cMemDataUpdate .. | .gdpgHigh =>
    unfold exec; exact .cell _
  | .prbsCheckerResync k index errors => exact exec_prbsCheckerResync_runsAs k index errors s

/-! What the outcome of a command can be -/

theorem RunsAs.unit {s : State} {unit cell : Bool} {o : Host.Outcome State Fault Refusal} (h : RunsAs s unit cell o) :
    (unit = true → Completes s o) ∧ (unit = false → o = .refused .noSuchUnit) := by
  cases h with
  | director f => exact ⟨fun _ => completes_dir s f, nofun⟩
  | cell f => exact ⟨fun _ => completes_cell s f, nofun⟩
  | directorUnit p f => exact ⟨fun hp => completes_unit hp (completes_dir s f), fun hp => by rw [hp, ifUnit_false]⟩
  | cellUnit p f => exact ⟨fun hp => completes_unit hp (completes_cell s f), fun hp => by rw [hp, ifUnit_false]⟩

/-- An outcome that is a next state is what the command made of its own chip. -/
theorem RunsAs.next {s t : State} {unit cell : Bool} {o : Host.Outcome State Fault Refusal} (h : RunsAs s unit cell o)
    (ho : o = .next t) : if cell then ∃ f, onCell s f = .next t else ∃ f, onDir s f = .next t := by
  cases h with
  | director f => exact ⟨f, ho⟩
  | cell f => exact ⟨f, ho⟩
  | directorUnit p f => cases unit with
    | true => exact ⟨f, ho⟩
    | false => cases ho
  | cellUnit p f => cases unit with
    | true => exact ⟨f, ho⟩
    | false => cases ho

theorem exec_next_cases {i : Instr} {s t : State} (h : exec i s = .next t) :
    if actsOnCell i then ∃ f, onCell s f = .next t else ∃ f, onDir s f = .next t :=
  (exec_runsAs i s).next h

/-- What a command of the director leaves as it was. -/
theorem onDir_frame {s t : State} {f : Director → Director} (h : onDir s f = .next t) :
    t.cell = s.cell ∧ t.pending = s.pending ∧ t.fresh = s.fresh + 1 := by
  cases h
  exact ⟨rfl, rfl, rfl⟩

/-- What a command of the cell controller leaves as it was. -/
theorem onCell_frame {s t : State} {f : Cell → Cell} (h : onCell s f = .next t) :
    t.dir = s.dir ∧ t.pending = s.pending ∧ t.fresh = s.fresh + 1 := by
  cases h
  exact ⟨rfl, rfl, rfl⟩

theorem exec_next_frame {i : Instr} {s t : State} (h : exec i s = .next t) :
    (if actsOnCell i then t.dir = s.dir else t.cell = s.cell) ∧ t.pending = s.pending ∧ t.fresh = s.fresh + 1 := by
  have hcases := exec_next_cases h
  split at hcases
  · next hcell =>
    obtain ⟨f, hf⟩ := hcases
    rw [if_pos hcell]
    exact onCell_frame hf
  · next hdir =>
    obtain ⟨f, hf⟩ := hcases
    rw [if_neg hdir]
    exact onDir_frame hf

/-! The canonical form of the memories -/

/-- The ten memories of `memWf` are all there are: window numbers beyond 2 name the last window. -/
theorem memWf_iff (m : Stores) : memWf m = true ↔ m.wf := by
  constructor
  · intro h i
    simp only [memWf, List.all_cons, List.all_nil, Bool.and_eq_true] at h
    obtain ⟨hflash, hddr, hring, hmsix, hw0, hw1, hw2, hw3, heeprom, hnv, -⟩ := h
    match i with
    | .flash => exact hflash
    | .ddr => exact hddr
    | .ring => exact hring
    | .msix => exact hmsix
    | .window 0 => exact hw0
    | .window 1 => exact hw1
    | .window 2 => exact hw2
    | .window (n + 3) => exact hw3
    | .eeprom => exact heeprom
    | .nv => exact hnv
  · exact fun h => List.all_eq_true.mpr fun i _ => h i

/-- A director's command keeps the invariant: its writes reach the memories and its vectors settle (R449). -/
theorem onDir_inv {s t : State} {f : Director → Director} (h : onDir s f = .next t) (hs : Inv s) : Inv t := by
  obtain ⟨hmem, -, hcell, -⟩ := hs
  cases h
  refine ⟨(memWf_iff _).mpr (applyWrites_wf _ ((memWf_iff _).mp hmem)), ?_, hcell, settleVectors_trig _ _⟩
  obtain ⟨p, a, g, x, hsettled⟩ := settleVectors_settled
    (applyWrites s.mem (f (dirStart s.dir)).writes) { f (dirStart s.dir) with writes := [] }
  exact congrArg Director.writes hsettled

/-- A cell's command keeps the invariant. -/
theorem onCell_inv {s t : State} {f : Cell → Cell} (h : onCell s f = .next t) (hs : Inv s) : Inv t := by
  obtain ⟨hmem, hdir, -, htrig⟩ := hs
  cases h
  exact ⟨(memWf_iff _).mpr (applyWrites_wf _ ((memWf_iff _).mp hmem)), hdir, rfl, htrig⟩

theorem exec_inv {i : Instr} {s t : State} (h : exec i s = .next t) (hs : Inv s) : Inv t := by
  have hcases := exec_next_cases h
  split at hcases
  · obtain ⟨f, hf⟩ := hcases
    exact onCell_inv hf hs
  · obtain ⟨f, hf⟩ := hcases
    exact onDir_inv hf hs

/-! Steps -/

theorem step_of_nil {s : State} (h : s.pending = []) : step s = .next s := by rw [step, h]

theorem step_of_cons {s : State} {i : Instr} {rest : List Instr} (h : s.pending = i :: rest) :
    step s = exec i { s with pending := rest } := by rw [step, h]

/-- Settles O1. -/
theorem stepRunsTheFrontCommand : Obligations.StepRunsTheFrontCommand :=
  fun _ _ _ => step_of_cons rfl

/-- Settles O2. -/
theorem stepIdlesOnAnEmptyQueue : Obligations.StepIdlesOnAnEmptyQueue := fun _ h => step_of_nil h

/-- Settles O3, by the shape that every command has. -/
theorem wellFormedCommandsComplete : Obligations.WellFormedCommandsComplete := by
  intro i s
  obtain ⟨hcomplete, hrefused⟩ := (exec_runsAs i s).unit
  refine ⟨fun hw => ?_, hrefused⟩
  obtain ⟨f, hf⟩ | ⟨f, hf⟩ := hcomplete hw <;> exact ⟨_, hf⟩

/-- Settles O4. -/
theorem commandsLeaveTheQueue : Obligations.CommandsLeaveTheQueue := fun _ _ _ h => (exec_next_frame h).2

/-- Settles O8. -/
theorem commandsActOnOneChip : Obligations.CommandsActOnOneChip := fun _ _ _ h => (exec_next_frame h).1

/-- Settles O5: an idle step changes nothing, and every command keeps the invariant. -/
theorem everyStepKeepsTheMemoriesCanonical : Obligations.EveryStepKeepsTheMemoriesCanonical := by
  intro s t hs h
  cases hq : s.pending with
  | nil =>
    rw [step_of_nil hq] at h
    cases h
    exact hs
  | cons i rest =>
    rw [step_of_cons hq] at h
    exact exec_inv h hs

/-- Settles O6. -/
theorem resetIsSafe : Obligations.ResetIsSafe := by
  unfold Obligations.ResetIsSafe
  exact ⟨⟨by decide, rfl, rfl, rfl⟩, rfl⟩

/-- Settles O7: the front command of a safe queue is well formed, so it completes, keeps the invariant and leaves the
queue's rest, which is safe. -/
theorem safeStatesStaySafe : Obligations.SafeStatesStaySafe := by
  rintro s ⟨hinv, hsafe⟩
  cases hq : s.pending with
  | nil => exact ⟨s, step_of_nil hq, hinv, hsafe⟩
  | cons i rest =>
    rw [hq, List.all_cons, Bool.and_eq_true] at hsafe
    obtain ⟨hi, hrest⟩ := hsafe
    obtain ⟨t, ht⟩ := (wellFormedCommandsComplete i { s with pending := rest }).1 hi
    obtain ⟨hpending, -⟩ := commandsLeaveTheQueue i _ t ht
    exact ⟨t, (step_of_cons hq).trans ht, exec_inv ht hinv, by rw [hpending]; exact hrest⟩

/-! Bytes written read back -/

theorem sameMem_eq {i k : MemId} (hi : ∀ n, i = .window n → n < 4) (hk : ∀ n, k = .window n → n < 4)
    (h : sameMem i k = true) : i = k := by
  cases i with
  | window a => cases k with
    | window b =>
      have ha := hi a rfl
      have hb := hk b rfl
      have hab : min a 3 = min b 3 := of_decide_eq_true h
      have : a = b := by omega
      rw [this]
    | _ => cases h
  | _ => exact of_decide_eq_true h

theorem memGet_of_sameMem {i k : MemId} (h : sameMem i k = true) (m : Stores) : memGet m i = memGet m k := by
  have hset := memGet_memSet m i k (memGet m i)
  rw [if_pos h] at hset
  rw [← hset]
  cases i with
  | window a => match a with | 0 | 1 | 2 | _ + 3 => rfl
  | _ => rfl

/-- The bytes of a write stand at its addresses. -/
theorem rdByte_applyWrite_inside {m : Stores} (w : MemWrite) (hm : m.wf) {j : Nat} (h : j < w.data.length) :
    rdByte (applyWrite m w) w.dest (w.addr + j) = w.data[j] := by
  rw [rdByte, applyWrite, memGet_memSet_same]
  exact read_writeList_inside w.data (hm w.dest) h

/-- A write leaves every byte beside its addresses, and every other memory. -/
theorem rdByte_applyWrite_outside (m : Stores) (w : MemWrite) {k : MemId} {x : Nat}
    (h : sameMem w.dest k = false ∨ x < w.addr ∨ w.addr + w.data.length ≤ x) :
    rdByte (applyWrite m w) k x = rdByte m k x := by
  rw [rdByte, applyWrite, memGet_memSet]
  split
  · next hsame =>
    have hout : x < w.addr ∨ w.addr + w.data.length ≤ x := h.resolve_left (by rw [hsame]; exact Bool.noConfusion)
    rw [← sameMem_default hsame, read_writeList_outside w.data hout, rdByte, ← sameMem_default hsame, memGet_of_sameMem hsame]
  · rfl

/-- Settles O9. -/
theorem writesReadBack : Obligations.WritesReadBack := by
  intro m i a bs hm hi
  refine ⟨fun j h => rdByte_applyWrite_inside ⟨i, a, bs⟩ ((memWf_iff m).mp hm) h, fun k hk x hx => ?_⟩
  refine rdByte_applyWrite_outside m ⟨i, a, bs⟩ (hx.imp_left fun hne => ?_)
  exact Bool.eq_false_iff.mpr fun hsame => hne (sameMem_eq hi hk hsame).symm


end Sys2Proof.Machine
end

section
/-! PROOF. What a director's command leaves when it is done: its vectors settled and its writes in the memories (R422,
R449). -/

namespace Sys2Proof.Machine

/-- A command that made `d` of the director led from `s` to `t`: the vectors of `d` settled, its writes in the memories. -/
structure Reached (s t : State) (d : Director) : Prop where
  dir : ∃ p a g x, t.dir = settled { d with writes := [] } p a g x
  mem : t.mem = applyWrites s.mem d.writes

theorem onDir_reaches {s : State} {o : Host.Outcome State Fault Refusal} {f : Director → Director} {d : Director}
    (ho : o = onDir s f) (hf : f (dirStart s.dir) = d) : ∃ t, o = .next t ∧ Reached s t d := by
  obtain ⟨t, p, a, g, x, hnext, hdir, -, -, -, hmem⟩ := onDir_next s f
  rw [hf] at hdir hmem
  exact ⟨t, ho.trans hnext, ⟨p, a, g, x, hdir⟩, hmem⟩

/-- The same for a command about a unit, where the unit exists. -/
theorem unit_reaches {s : State} {o : Host.Outcome State Fault Refusal} {p : Bool} {f : Director → Director} {d : Director}
    (ho : o = ifUnit p (onDir s f)) (hp : p = true) (hf : f (dirStart s.dir) = d) : ∃ t, o = .next t ∧ Reached s t d := by
  rw [hp, ifUnit_true] at ho
  exact onDir_reaches ho hf

namespace Reached
variable {s t : State} {d : Director} (h : Reached s t d)
include h

/-- Whatever does not depend on vectors, transmissions and writes is as the command made it. -/
theorem get {α : Type} (view : Director → α)
    (hview : ∀ p a g x, view (settled { d with writes := [] } p a g x) = view d) : view t.dir = view d := by
  obtain ⟨p, a, g, x, hdir⟩ := h.dir
  rw [hdir, hview]

theorem boot : t.dir.boot = d.boot := h.get Director.boot fun _ _ _ _ => rfl
theorem mbs : t.dir.mbs = d.mbs := h.get Director.mbs fun _ _ _ _ => rfl
theorem ring : t.dir.ring = d.ring := h.get Director.ring fun _ _ _ _ => rfl
theorem disp : t.dir.disp = d.disp := h.get Director.disp fun _ _ _ _ => rfl
theorem cfg : t.dir.cfg = d.cfg := h.get Director.cfg fun _ _ _ _ => rfl
theorem sec : t.dir.sec = d.sec := h.get Director.sec fun _ _ _ _ => rfl
theorem frz : t.dir.frz = d.frz := h.get Director.frz fun _ _ _ _ => rfl
theorem arms : t.dir.arms = d.arms := h.get Director.arms fun _ _ _ _ => rfl
theorem ports : t.dir.ports = d.ports := h.get Director.ports fun _ _ _ _ => rfl
theorem cells : t.dir.cells = d.cells := h.get Director.cells fun _ _ _ _ => rfl
theorem time : t.dir.time = d.time := h.get Director.time fun _ _ _ _ => rfl
theorem sk : t.dir.sk = d.sk := h.get Director.sk fun _ _ _ _ => rfl
theorem rcd : t.dir.rcd = d.rcd := h.get Director.rcd fun _ _ _ _ => rfl
theorem tqs : t.dir.tqs = d.tqs := h.get Director.tqs fun _ _ _ _ => rfl
theorem bg : t.dir.bg = d.bg := h.get Director.bg fun _ _ _ _ => rfl
theorem pins : t.dir.pins = d.pins := h.get Director.pins fun _ _ _ _ => rfl
theorem prbs : t.dir.prbs = d.prbs := h.get Director.prbs fun _ _ _ _ => rfl
theorem patching : t.dir.patching = d.patching := h.get Director.patching fun _ _ _ _ => rfl
theorem arm (a : Nat) : Machine.arm t.dir a = Machine.arm d a := h.get (Machine.arm · a) fun _ _ _ _ => rfl
theorem port (n : Nat) : Machine.port t.dir n = Machine.port d n := h.get (Machine.port · n) fun _ _ _ _ => rfl
theorem cellRec (id : Nat) : Machine.cellRec t.dir id = Machine.cellRec d id := h.get (Machine.cellRec · id) fun _ _ _ _ => rfl
theorem mbx (n : Nat) : Machine.mbx t.dir n = Machine.mbx d n := h.get (Machine.mbx · n) fun _ _ _ _ => rfl
theorem lane (n : Nat) : Machine.lane t.dir n = Machine.lane d n := h.get (Machine.lane · n) fun _ _ _ _ => rfl

/-- What the command sent stands before the messages of its vectors. -/
theorem tx : ∃ x, t.dir.tx = d.tx ++ x := by
  obtain ⟨p, a, g, x, hdir⟩ := h.dir
  exact ⟨x, by rw [hdir]; rfl⟩

theorem mem_of_quiet (hw : d.writes = []) : t.mem = s.mem := by
  rw [h.mem, hw, applyWrites_nil]

theorem mem_of_write {w : MemWrite} (hw : d.writes = [w]) : t.mem = applyWrite s.mem w := by
  rw [h.mem, hw]
  rfl

theorem decided {source detail : Nat} {data : List Byte} (hd : Decided d source detail data) :
    Decided t.dir source detail data := by
  rwa [Decided, h.ring]

end Reached

end Sys2Proof.Machine
end

section
/-! PROOF. Mailboxes and the registers of the host (R21, R426, R428, R430, R431, R444). -/

namespace Sys2Proof.Machine

/-! One bit of a mailbox mask -/

theorem maskBits_twoPow {n : Nat} (h : n < 4) : maskBits 4 (BitVec.twoPow 4 n).toNat = [n] := by
  revert n
  decide

section
variable {n : Nat} (h : n < 4) (d : Director)
include h

theorem ringBits_twoPow (i : Iface) : ringBits d i (BitVec.twoPow 4 n) =
    if (mbx d n).state = .idle then modMbx d n fun x => { x with state := .pending, iface := i, rungAt := d.time.raw }
    else hostEvent (modMbx d n fun x => { x with reject := true }) 0x02 := by
  rw [ringBits, maskBits_twoPow h, List.foldl_cons, List.foldl_nil]

theorem rejectBits_twoPow : rejectBits d (BitVec.twoPow 4 n) = modMbx d n fun x => { x with reject := false } := by
  rw [rejectBits, maskBits_twoPow h, List.foldl_cons, List.foldl_nil]

theorem doneBits_twoPow (m : Stores) : doneBits m d (BitVec.twoPow 4 n) =
    if (mbx d n).state = .done then rearm m (modMbx d n fun x => { x with state := .idle }) else d := by
  rw [doneBits, maskBits_twoPow h]
  by_cases hdone : (mbx d n).state = .done <;> simp [hdone]

end

theorem hostEvent_mbs (d : Director) (detail : Nat) : (hostEvent d detail).mbs = d.mbs := raise_mbs ..

/-- MBX_RING through an interface that is up (R430, R431). -/
theorem mbxRing_reaches {s : State} {i : Iface} (hup : ifaceUp s.dir i = true) (bits : BitVec 4) :
    ∃ t, exec (.mbxRing i bits) s = .next t ∧ Reached s t (ringBits (dirStart s.dir) i bits) :=
  onDir_reaches (o := execMbxRing i bits s) rfl (if_pos hup)

theorem mbxDoneClear_reaches {s : State} (hup : regsUp s.dir = true) (bits : BitVec 4) :
    ∃ t, exec (.mbxDoneClear bits) s = .next t ∧ Reached s t (doneBits s.mem (dirStart s.dir) bits) :=
  onDir_reaches (o := execMbxDoneClear bits s) rfl (if_pos hup)

theorem ringRejectClear_reaches {s : State} (hup : regsUp s.dir = true) (bits : BitVec 4) :
    ∃ t, exec (.ringRejectClear bits) s = .next t ∧ Reached s t (rejectBits (dirStart s.dir) bits) :=
  onDir_reaches (o := execRingRejectClear bits s) rfl (if_pos hup)

/-- A command that changed one mailbox and wrote nothing leaves the others and the memories. -/
theorem reached_oneMailbox {s t : State} {d : Director} {n : Nat} {f : Mailbox → Mailbox} (h : Reached s t d)
    (hmbs : d.mbs = (modMbx s.dir n f).mbs) (hw : d.writes = []) :
    mbx t.dir n = f (mbx s.dir n) ∧ (∀ k, k ≠ n → mbx t.dir k = mbx s.dir k) ∧ t.mem = s.mem := by
  have hmbx : ∀ k, mbx t.dir k = mbx (modMbx s.dir n f) k := fun k => by rw [h.mbx, mbx, hmbs, mbx]
  exact ⟨by rw [hmbx, mbx_modMbx], fun k hk => by rw [hmbx, mbx_modMbx_other _ hk], h.mem_of_quiet hw⟩

/-- Settles O11: each of the three acts on the one mailbox that its mask names. -/
theorem mailboxBits : Obligations.MailboxBits := by
  unfold Obligations.MailboxBits
  refine ⟨fun s i n hn hup => ?_, fun s n hn hup => ⟨?_, ?_⟩⟩
  · obtain ⟨t, hnext, h⟩ := mbxRing_reaches hup (BitVec.twoPow 4 n)
    have hstart : mbx (dirStart s.dir) n = mbx s.dir n := rfl
    rw [ringBits_twoPow hn, hstart] at h
    refine ⟨t, hnext, ?_⟩
    split at h
    · next hidle => rw [if_pos hidle]; exact reached_oneMailbox h rfl rfl
    · next hbusy => rw [if_neg hbusy]; exact reached_oneMailbox h (hostEvent_mbs ..) (raise_writes ..)
  · obtain ⟨t, hnext, h⟩ := mbxDoneClear_reaches hup (BitVec.twoPow 4 n)
    have hstart : mbx (dirStart s.dir) n = mbx s.dir n := rfl
    rw [doneBits_twoPow hn, hstart] at h
    refine ⟨t, hnext, ?_⟩
    split at h
    · next hdone => rw [if_pos hdone]; exact reached_oneMailbox (f := fun x => { x with state := .idle }) h rfl rfl
    · next hother => rw [if_neg hother]; exact ⟨h.mbx n, fun k _ => h.mbx k, h.mem_of_quiet rfl⟩
  · obtain ⟨t, hnext, h⟩ := ringRejectClear_reaches hup (BitVec.twoPow 4 n)
    rw [rejectBits_twoPow hn] at h
    exact ⟨t, hnext, reached_oneMailbox h rfl rfl⟩

/-! Register writes -/

theorem hostEvent_decides {d : Director} (h : Enabled d 97) (detail : Nat) : Decided (hostEvent d detail) 97 detail [] :=
  raise_decides h detail []

/-- A host event joins the decided events and leaves the rest of the ring. -/
theorem hostEvent_tail (d : Director) (detail : Nat) : (hostEvent d detail).ring.tail = d.ring.tail := by
  unfold hostEvent raise
  split <;> rfl

theorem evtTailWrite_reaches {s : State} (hup : regsUp s.dir = true) (v : BitVec 32) :
    ∃ t, exec (.evtTailWrite v) s = .next t ∧ Reached s t (tailWrite s.mem (dirStart s.dir) v.toNat) :=
  onDir_reaches (o := execEvtTailWrite v s) rfl (if_pos hup)

/-- A write to BAR0 that is not a whole aligned word (R21, R426). -/
theorem registerWriteOther_partial {s : State} {i : Iface} {o : Nat} (ho : o < 0x1000) (hup : ifaceUp s.dir i = true)
    (v : BitVec 32) :
    ∃ t, exec (.registerWriteOther i o v false) s = .next t ∧ Reached s t (hostEvent (dirStart s.dir) 0x05) := by
  have hup' : ifaceUp (dirStart s.dir) i = true := hup
  have hcommand : ¬ o = pciCommand := by rw [pciCommand]; omega
  exact onDir_reaches (o := execRegisterWriteOther i o v false s) rfl (by simp [hup', hcommand, Nat.not_le.mpr ho])

/-- A whole word of BAR0 (R426, R428). -/
theorem registerWriteOther_whole {s : State} {i : Iface} {o : Nat} (ho : o < 0x1000) (hup : ifaceUp s.dir i = true)
    (halign : o % 4 = 0) (v : BitVec 32) :
    ∃ t, exec (.registerWriteOther i o v true) s = .next t ∧ Reached s t (regWrite s.mem (dirStart s.dir) i o v.toNat) := by
  have hup' : ifaceUp (dirStart s.dir) i = true := hup
  have hcommand : ¬ o = pciCommand := by rw [pciCommand]; omega
  exact onDir_reaches (o := execRegisterWriteOther i o v true s) rfl (by simp [hup', hcommand, Nat.not_le.mpr ho, halign])

/-- An offset without a writable register takes no write (R428). -/
theorem regWrite_unwritable {o : Nat} (hring : o ≠ 0x010) (hstatus : o ≠ 0x014) (htail : o ≠ 0x024)
    (hmsix : ¬(0x800 ≤ o ∧ o < 0xA00)) (m : Stores) (d : Director) (i : Iface) (v : Nat) : regWrite m d i o v = d := by
  unfold regWrite
  rw [if_neg (by simpa using hmsix)]
  split
  · exact absurd rfl hring
  · exact absurd rfl hstatus
  · exact absurd rfl htail
  · rfl

/-- Settles O13: TAIL moves unless the unread count would grow, and BAR0 takes whole words of its writable registers only. -/
theorem hostRegisterWrites : Obligations.HostRegisterWrites := by
  unfold Obligations.HostRegisterWrites
  refine ⟨fun s v hup => ?_, fun s i o v ho hup => ⟨?_, fun halign hring hstatus htail hmsix => ?_⟩⟩
  · obtain ⟨t, hnext, h⟩ := evtTailWrite_reaches hup v
    have hsplit : tailWrite s.mem (dirStart s.dir) v.toNat =
        if unread s.dir < (s.dir.ring.head + 2048 - v.toNat % 2048) % 2048 then hostEvent (dirStart s.dir) 0x03
        else rearm s.mem (modRing (dirStart s.dir) fun r => { r with tail := v.toNat % 2048 }) := rfl
    rw [hsplit] at h
    refine ⟨t, hnext, ?_⟩
    split at h
    · next hmore =>
      rw [if_pos hmore, h.ring]
      exact ⟨h.mem_of_quiet (raise_writes ..), hostEvent_tail .., fun he => h.decided (hostEvent_decides (d := dirStart _) he 0x03)⟩
    · next hfewer =>
      rw [if_neg hfewer]
      exact ⟨h.mem_of_quiet rfl, h.ring⟩
  · obtain ⟨t, hnext, h⟩ := registerWriteOther_partial ho hup v
    exact ⟨t, hnext, h.mem_of_quiet (raise_writes ..), h.mbs.trans (hostEvent_mbs ..),
      fun he => h.decided (hostEvent_decides (d := dirStart _) he 0x05)⟩
  · obtain ⟨t, hnext, h⟩ := registerWriteOther_whole ho hup halign v
    rw [regWrite_unwritable hring hstatus htail hmsix] at h
    exact ⟨t, hnext, h.mem_of_quiet rfl, h.mbs, h.ring⟩

end Sys2Proof.Machine
end

section
/-! PROOF. Jobs of the dispatcher, commands taken from their windows, and the answers of waiting ones (R430 to R438, R451
to R454, R482). -/

namespace Sys2Proof.Machine

/-! The trace -/

/-- A trace entry joins the trace and changes nothing else (R454). -/
theorem trace_eq (d : Director) (kind core level : Nat) (flow : Option (Nat × BitVec 16)) (id : Word) :
    trace d kind core level flow id = modDisp d fun x => { x with trace := (trace d kind core level flow id).disp.trace } := by
  unfold trace
  split <;> rfl

section
variable (d : Director) (kind core level : Nat) (flow : Option (Nat × BitVec 16)) (id : Word)

@[simp] theorem levelQ_trace (l : Nat) : levelQ (trace d kind core level flow id) l = levelQ d l := by rw [trace_eq]; rfl
@[simp] theorem coreJob_trace (c : Nat) : coreJob (trace d kind core level flow id) c = coreJob d c := by rw [trace_eq]; rfl
@[simp] theorem flowOf_trace (f : Nat) : flowOf (trace d kind core level flow id) f = flowOf d f := by rw [trace_eq]; rfl
@[simp] theorem trace_mbs : (trace d kind core level flow id).mbs = d.mbs := by rw [trace_eq]; rfl
@[simp] theorem trace_boot : (trace d kind core level flow id).boot = d.boot := by rw [trace_eq]; rfl
@[simp] theorem trace_writes : (trace d kind core level flow id).writes = d.writes := by rw [trace_eq]; rfl

end

/-! Submitting a job -/

/-- A level with room takes the job of a mailbox at its end, unless the flow holds it to another level (R452, R453). -/
theorem submit_mailbox {d : Director} {level n : Nat} (hroom : (levelQ d level).length < 256)
    (hflow : (flowOf d n).next = (flowOf d n).release ∨ (flowOf d n).level = level) :
    ∃ e j, submit d level (some n) (some n) = (e, true) ∧ levelQ e level = levelQ d level ++ [j] ∧ j.mb = some n
      ∧ j.level = level ∧ e.mbs = d.mbs ∧ e.boot = d.boot ∧ e.writes = d.writes := by
  have hfree : (decide (256 ≤ (levelQ d level).length)
      || ((flowOf d n).next != (flowOf d n).release && (flowOf d n).level != level)) = false := by
    rcases hflow with h | h <;> simp [h, hroom]
  unfold submit
  simp only [hfree, Bool.false_eq_true, if_false]
  refine ⟨_, { id := d.disp.nextId, level := level, flow := some (n, (flowOf d n).next), mb := some n }, rfl, ?_, rfl, rfl, ?_, ?_, ?_⟩
  · rw [levelQ_trace]
    exact tget_tset_same [] level _ _
  · rw [trace_mbs]; rfl
  · rw [trace_boot]; rfl
  · rw [trace_writes]; rfl

/-! Taking a command -/

/-- The command that the window of mailbox `n` spells (R434). -/
def windowCmd (m : Stores) (x : Mailbox) (n : Nat) : Cmd :=
  { opcode := BitVec.ofNat 16 (leAt (rdBytes m (.window n) 0 16) 0 2)
    flags := BitVec.ofNat 8 (byteAt (rdBytes m (.window n) 0 16) 2), tag := BitVec.ofNat 8 (byteAt (rdBytes m (.window n) 0 16) 3)
    sequence := BitVec.ofNat 32 (leAt (rdBytes m (.window n) 0 16) 6 4)
    payload := rdBytes m (.window n) 16 (leAt (rdBytes m (.window n) 0 16) 4 2), iface := x.iface, rungAt := x.rungAt }

/-- The mailbox ACTIVE with a command. -/
def activeWith (c : Cmd) (x : Mailbox) : Mailbox := { x with state := .active, rsp := none, cmd := some c }

theorem leNat_lt (l : List Byte) : leNat l < 256 ^ l.length := by
  induction l with
  | nil => exact Nat.one_pos
  | cons b r ih =>
    have hb := b.isLt
    rw [leNat, List.length_cons, Nat.pow_succ']
    omega

/-- A field of `n` bytes is below 256 to the `n`. -/
theorem leAt_lt (l : List Byte) (a n : Nat) : leAt l a n < 256 ^ n :=
  (leNat_lt _).trans_le (Nat.pow_le_pow_right (by norm_num) (List.length_take_le ..))

theorem windowCmd_opcode (m : Stores) (x : Mailbox) (n : Nat) :
    (windowCmd m x n).opcode.toNat = leAt (rdBytes m (.window n) 0 16) 0 2 :=
  (BitVec.toNat_ofNat ..).trans (Nat.mod_eq_of_lt (leAt_lt _ 0 2))

theorem windowCmd_sequence (m : Stores) (x : Mailbox) (n : Nat) :
    (windowCmd m x n).sequence.toNat = leAt (rdBytes m (.window n) 0 16) 6 4 :=
  (BitVec.toNat_ofNat ..).trans (Nat.mod_eq_of_lt (leAt_lt _ 6 4))

/-- The last response answers the same command again (R436 step 4). -/
def repeats (x : Mailbox) (c : Cmd) : Bool :=
  match x.last with | some r => r.opcode = c.opcode && r.sequence = c.sequence | none => false

theorem repeats_eq_false {x : Mailbox} {c : Cmd}
    (h : ∀ r, x.last = some r → r.opcode.toNat ≠ c.opcode.toNat ∨ r.sequence.toNat ≠ c.sequence.toNat) : repeats x c = false := by
  unfold repeats
  split
  · next r hr =>
    rcases h r hr with hne | hne
    · have hop : r.opcode ≠ c.opcode := fun e => hne (congrArg BitVec.toNat e)
      simp [hop]
    · have hseq : r.sequence ≠ c.sequence := fun e => hne (congrArg BitVec.toNat e)
      simp [hseq]
  · rfl

/-- A command that passes the checks of R436 and repeats no other stays ACTIVE for its row. -/
theorem takeCommand_accepts {m : Stores} {d : Director} {n : Nat}
    (hhead : headFails (d.boot.state = .safe) (rdBytes m (.window n) 0 16) = none)
    (hlen : leAt (rdBytes m (.window n) 0 16) 4 2 ≤ 4080) (hrepeat : repeats (mbx d n) (windowCmd m (mbx d n) n) = false)
    (hfits : lenFits (leAt (rdBytes m (.window n) 0 16) 0 2) (leAt (rdBytes m (.window n) 0 16) 4 2)
      (rdBytes m (.window n) 16 (leAt (rdBytes m (.window n) 0 16) 4 2)) = true) :
    takeCommand m d n = modMbx d n (activeWith (windowCmd m (mbx d n) n)) := by
  have hfits' := hfits
  rw [← windowCmd_opcode m (mbx d n) n] at hfits'
  unfold takeCommand
  simp only [if_pos hlen]
  split
  · next st hst => exact absurd (hst.symm.trans hhead) nofun
  · exact (if_neg (Bool.eq_false_iff.mp hrepeat)).trans (if_pos hfits')

theorem mailboxTake_reaches {s : State} {n : Nat} {e : Director} (hn : n < 4) (hserves : serves s.dir = true)
    (hdrain : s.dir.frz.draining = false) (hpending : (mbx s.dir n).state = .pending)
    (hfirst : ∀ k, k < n → (mbx s.dir k).state ≠ .pending) (hsubmit : submit (dirStart s.dir) (mbxLevel n) (some n) (some n) = (e, true)) :
    ∃ t, exec (.mailboxTake n) s = .next t ∧ Reached s t (takeCommand s.mem e n) := by
  have hserves' : serves (dirStart s.dir) = true := hserves
  have hdrain' : (dirStart s.dir).frz.draining = false := hdrain
  have hpending' : (mbx (dirStart s.dir) n).state = .pending := hpending
  have hfirst' : ∀ k, k < n → (mbx (dirStart s.dir) k).state ≠ .pending := hfirst
  have hturn : ((List.range n).all fun k => (mbx (dirStart s.dir) k).state != .pending
      || decide (256 ≤ (levelQ (dirStart s.dir) (mbxLevel k)).length)) = true :=
    List.all_eq_true.mpr fun k hk => by simp [hfirst' k (List.mem_range.mp hk)]
  refine unit_reaches (o := execMailboxTake n s) rfl (decide_eq_true hn) ?_
  simp [hserves', hdrain', hpending', hturn, hsubmit]

/-! Cores -/

/-- The highest level that holds a job is the first found. -/
theorem find_highestLevel {p : Nat → Bool} {l : Nat} (hl : l < 8) (hp : p l = true) (habove : ∀ k, l < k → k < 8 → p k = false) :
    [7, 6, 5, 4, 3, 2, 1, 0].find? p = some l := by
  interval_cases l <;> simp [hp, habove]

/-- A core without a job takes the oldest of the highest level that holds one (R451). -/
theorem dispatchJob_takes {d : Director} {core l : Nat} {j : Job} {r : List Job} (hfree : coreJob d core = none) (hl : l < 8)
    (hlevel : levelQ d l = j :: r) (habove : ∀ k, l < k → k < 8 → levelQ d k = []) :
    coreJob (dispatchJob d core none) core = some j ∧ levelQ (dispatchJob d core none) l = r := by
  have hfind : [7, 6, 5, 4, 3, 2, 1, 0].find? (fun l => !(levelQ d l).isEmpty) = some l :=
    find_highestLevel hl (by rw [hlevel]; rfl) fun k hlt hk => by rw [habove k hlt hk]; rfl
  have hrun : dispatchJob d core none = trace (modDisp d fun x =>
      { x with levels := tset l r x.levels, cores := tset core (some j) x.cores }) 2 core l j.flow j.id := by
    unfold dispatchJob
    rw [hfree, hfind]
    simp only [hlevel]
    rfl
  rw [hrun, coreJob_trace, levelQ_trace]
  exact ⟨tget_tset_same none core _ _, tget_tset_same [] l _ _⟩

theorem jobDispatch_reaches {s : State} {core : Nat} (hcore : core < 4) (hserves : serves s.dir = true) :
    ∃ t, exec (.jobDispatch core none) s = .next t ∧ Reached s t (dispatchJob (serveWatchdog (dirStart s.dir)) core none) :=
  unit_reaches (o := execJobDispatch core none s) rfl (decide_eq_true hcore) (if_pos hserves)

/-- Releasing tickets leaves the cores. -/
theorem coreJob_releaseFrom (n : Nat) (d : Director) (f core : Nat) : coreJob (releaseFrom n d f) core = coreJob d core := by
  induction n generalizing d with
  | zero => rfl
  | succ n ih =>
    unfold releaseFrom
    dsimp only
    split
    · simp only [ih]
      split
      · exact coreJob_trace ..
      · rfl
    · rfl

/-- The one completed ticket of a flow, which is its next, is released (R453). -/
theorem releaseFrom_one {d : Director} {f core : Nat} {id : Word} {tk : BitVec 16} {rel : Bool}
    (hfin : (flowOf d f).finished = [(tk.toNat, core, id, rel)]) (hnext : tk = (flowOf d f).release) :
    (flowOf (releaseFrom 1 d f) f).release = tk + 1 := by
  unfold releaseFrom
  have hfind : (flowOf d f).finished.find? (fun x => x.1 = (flowOf d f).release.toNat) = some (tk.toNat, core, id, rel) := by
    rw [hfin, hnext]
    simp
  simp only [hfind, releaseFrom]
  have hset : ∀ w, flowOf (modDisp d fun x => { x with flows := tset f w x.flows }) f = w := fun w =>
    tget_tset_same ({} : Flow) f w d.disp.flows
  split
  · rw [flowOf_trace, hset, hnext]
  · rw [hset, hnext]

/-- The director once core `core` has given up its job `j`. -/
def jobEnded (d : Director) (core : Nat) (j : Job) : Director :=
  trace (modDisp d fun x => { x with cores := tset core none x.cores }) 3 core j.level j.flow j.id

/-- The director once the ticket of the ended job is completed (R453). -/
def ticketDone (d : Director) (core : Nat) (j : Job) (releases : Bool) (f : Nat) (t : BitVec 16) : Director :=
  modDisp d fun x => { x with flows := tmod {} f (fun w => { w with finished := tset t.toNat (core, j.id, releases) w.finished }) x.flows }

/-- What JOB_RELEASE makes of a director whose core holds `j` (R453, R454). -/
def jobReleased (d : Director) (core : Nat) (j : Job) (releases : Bool) : Director :=
  match j.flow with
  | none => jobEnded d core j
  | some (f, t) => releaseFrom (flowOf (ticketDone (jobEnded d core j) core j releases f t) f).finished.length
      (ticketDone (jobEnded d core j) core j releases f t) f

theorem jobRelease_reaches {s : State} {core : Nat} {j : Job} (hcore : core < 4) (hserves : serves s.dir = true)
    (hjob : coreJob s.dir core = some j) (releases : Bool) :
    ∃ t, exec (.jobRelease core releases) s = .next t ∧ Reached s t (jobReleased (dirStart s.dir) core j releases) := by
  have hserves' : serves (dirStart s.dir) = true := hserves
  have hjob' : coreJob (dirStart s.dir) core = some j := hjob
  refine unit_reaches (o := execJobRelease core releases s) rfl (decide_eq_true hcore) ?_
  simp only [hjob', hserves', Bool.not_true, Bool.false_eq_true, if_false]
  rfl

theorem coreJob_jobEnded (d : Director) (core : Nat) (j : Job) : coreJob (jobEnded d core j) core = none := by
  rw [jobEnded, coreJob_trace]
  exact tget_tset_same none core _ _

theorem coreJob_jobReleased (d : Director) (core : Nat) (j : Job) (releases : Bool) :
    coreJob (jobReleased d core j releases) core = none := by
  unfold jobReleased
  split
  · exact coreJob_jobEnded d core j
  · rw [coreJob_releaseFrom]
    exact coreJob_jobEnded d core j

/-- A ticket that is its flow's next, with no other waiting, is released with its job (R453). -/
theorem jobReleased_release {d : Director} {core f : Nat} {j : Job} {tk : BitVec 16} (releases : Bool) (hflow : j.flow = some (f, tk))
    (hnext : tk = (flowOf d f).release) (hfin : (flowOf d f).finished = []) :
    (flowOf (jobReleased d core j releases) f).release = tk + 1 := by
  have hended : flowOf (jobEnded d core j) f = flowOf d f := by rw [jobEnded, flowOf_trace]; rfl
  have hdone : flowOf (ticketDone (jobEnded d core j) core j releases f tk) f =
      { flowOf d f with finished := [(tk.toNat, core, j.id, releases)] } := by
    rw [ticketDone, flowOf, modDisp_disp, tget_tmod_same, ← flowOf, hended, hfin]
    rfl
  rw [jobReleased, hflow]
  simp only [hdone, List.length_singleton]
  exact releaseFrom_one (core := core) (id := j.id) (rel := releases) (by rw [hdone]) (by rw [hdone]; exact hnext)

/-- Settles O15: a mailbox's turn submits its job and copies its command; a free core takes the oldest job of the highest
level, and gives its ticket back when it is done. -/
theorem commandsBecomeJobs : Obligations.CommandsBecomeJobs := by
  unfold Obligations.CommandsBecomeJobs
  refine ⟨fun s n hn hserves hdrain hpending hfirst hroom hflow hhead hlen hlast hfits => ?_,
    fun s core l j r hcore hserves hfree hl hlevel habove => ?_, fun s core j releases hcore hserves hjob => ?_⟩
  · obtain ⟨e, j, hsubmit, hlevel, hmb, hjl, hmbs, hboot, hw⟩ := submit_mailbox (d := dirStart s.dir) hroom hflow
    have hx : mbx e n = mbx s.dir n := by rw [mbx, hmbs]; rfl
    have hrepeat : repeats (mbx e n) (windowCmd s.mem (mbx e n) n) = false :=
      repeats_eq_false fun r hr => by rw [windowCmd_opcode, windowCmd_sequence]; exact hlast r (hx ▸ hr)
    obtain ⟨t, hnext, h⟩ := mailboxTake_reaches hn hserves hdrain hpending hfirst hsubmit
    rw [takeCommand_accepts (by rw [hboot]; exact hhead) hlen hrepeat hfits, hx] at h
    have hbox : mbx t.dir n = activeWith (windowCmd s.mem (mbx s.dir n) n) (mbx s.dir n) := by rw [h.mbx, mbx_modMbx, hx]
    refine ⟨t, windowCmd s.mem (mbx s.dir n) n, hnext, ?_, ?_, windowCmd_opcode .., rfl, rfl, rfl, h.mem_of_quiet hw, j, ?_, hmb, hjl⟩
    · rw [hbox]; rfl
    · rw [hbox]; rfl
    · rw [levelQ, h.disp]; exact hlevel
  · obtain ⟨t, hnext, h⟩ := jobDispatch_reaches hcore hserves
    obtain ⟨hjob, hrest⟩ := dispatchJob_takes (d := serveWatchdog (dirStart s.dir)) hfree hl hlevel habove
    exact ⟨t, hnext, by rw [coreJob, h.disp]; exact hjob, by rw [levelQ, h.disp]; exact hrest⟩
  · obtain ⟨t, hnext, h⟩ := jobRelease_reaches hcore hserves hjob releases
    refine ⟨t, hnext, ?_, fun f tk hflow hnext hfin => ?_⟩
    · rw [coreJob, h.disp]
      exact coreJob_jobReleased ..
    · rw [flowOf, h.disp]
      exact jobReleased_release (d := dirStart s.dir) releases hflow hnext hfin

/-! The event ring -/

theorem entryBytes_length (seq : Word) (e : Event) : (entryBytes seq e).length = 32 := by
  simp [entryBytes, b4, b2, b1]

/-- An entry of the ring in its memory. -/
def entryWrite (d : Director) (e : Event) : MemWrite :=
  { dest := .ring, addr := 32 * (d.ring.head % 2048), data := entryBytes d.ring.seq e }

/-- EVENT_ENTRY_WRITE with room for the entry (R443). -/
theorem eventEntryWrite_room {s : State} {e : Event} {r : List Event} (hserves : serves s.dir = true)
    (hdecided : s.dir.ring.decided = e :: r) (hroom : unread s.dir < 2047) :
    ∃ t, exec .eventEntryWrite s = .next t ∧ Reached s t (writeEntry (modRing (dirStart s.dir) fun x => { x with decided := r }) e) := by
  refine onDir_reaches (o := execEventEntryWrite s) rfl ?_
  have hdecided' : (dirStart s.dir).ring.decided = e :: r := hdecided
  have hserves' : serves (dirStart s.dir) = true := hserves
  have hroom' : unread (modRing (dirStart s.dir) fun x => { x with decided := r }) < 2047 := hroom
  simp [hdecided', hserves', hroom']

/-- EVENT_ENTRY_WRITE with the ring full (R443). -/
theorem eventEntryWrite_full {s : State} {e : Event} {r : List Event} (hserves : serves s.dir = true)
    (hdecided : s.dir.ring.decided = e :: r) (hfull : 2047 ≤ unread s.dir) :
    ∃ t, exec .eventEntryWrite s = .next t ∧ Reached s t (modRing (dirStart s.dir) fun x => { x with
      decided := r, lost := satInc x.lost, ovf := true, ovfCount := satInc x.ovfCount
      ovfFirst := if x.ovf then x.ovfFirst else e.time }) := by
  refine onDir_reaches (o := execEventEntryWrite s) rfl ?_
  have hdecided' : (dirStart s.dir).ring.decided = e :: r := hdecided
  have hserves' : serves (dirStart s.dir) = true := hserves
  have hfull' : ¬ unread (modRing (dirStart s.dir) fun x => { x with decided := r }) < 2047 := Nat.not_lt.mpr hfull
  simp only [hdecided', hserves', hfull', Bool.not_true, Bool.false_eq_true, if_false]
  rfl

/-- The entry that reports an overflow (R443). -/
def overflowEvent (d : Director) : Event :=
  { source := 96, detail := 1, time := d.ring.ovfFirst, flags := 1
    data := b4 d.ring.ovfCount.toNat ++ toLE 8 (d.ring.ovfFirst.toNat % 2 ^ 64) }

theorem overflowEntryWrite_reaches {s : State} (hserves : serves s.dir = true) (hovf : s.dir.ring.ovf = true)
    (hroom : unread s.dir ≤ 2045) (henabled : s.dir.ring.enable.getLsbD 96 = true) :
    ∃ t, exec .overflowEntryWrite s = .next t ∧ Reached s t
      (writeEntry (modRing (dirStart s.dir) fun x => { x with ovf := false, ovfCount := 0 }) (overflowEvent s.dir)) := by
  refine onDir_reaches (o := execOverflowEntryWrite s) rfl ?_
  have hovf' : (dirStart s.dir).ring.ovf = true := hovf
  have hserves' : serves (dirStart s.dir) = true := hserves
  have hroom' : ¬ 2045 < unread (dirStart s.dir) := Nat.not_lt.mpr hroom
  have henabled' : (dirStart s.dir).ring.enable.getLsbD 96 = true := henabled
  simp only [hovf', hserves', hroom', Bool.not_true, Bool.or_false, decide_false, Bool.false_eq_true, if_false]
  exact if_pos henabled'

/-- The bytes of a written entry stand at its place, and the other bytes of every memory stay. -/
theorem entryWrite_bytes {s : State} {d : Director} {e : Event} (hm : memWf s.mem = true) :
    (∀ i, i < 32 → rdByte (applyWrite s.mem (entryWrite d e)) .ring (32 * (d.ring.head % 2048) + i) = (entryBytes d.ring.seq e).getD i 0)
      ∧ ∀ k, OtherBytesKept s.mem (applyWrite s.mem (entryWrite d e)) .ring (32 * (d.ring.head % 2048)) 32 k := by
  have hlen := entryBytes_length d.ring.seq e
  refine ⟨fun i hi => ?_, fun k x hx => ?_⟩
  · have hi' : i < (entryWrite d e).data.length := by rw [entryWrite, hlen]; exact hi
    rw [List.getD_eq_getElem _ _ (by rw [hlen]; exact hi)]
    exact rdByte_applyWrite_inside (entryWrite d e) ((memWf_iff _).mp hm) hi'
  · refine rdByte_applyWrite_outside s.mem (entryWrite d e) ?_
    rw [show (entryWrite d e).data.length = 32 from hlen]
    refine hx.imp_left fun hne => Bool.eq_false_iff.mpr fun hsame => hne ?_
    cases k with
    | ring => rfl
    | _ => cases hsame

/-- Settles O16: while the ring has room its next place takes the entry; a full ring counts it. -/
theorem writingRingEntries : Obligations.WritingRingEntries := by
  unfold Obligations.WritingRingEntries
  refine ⟨fun s e r hserves hdecided => ⟨fun hroom hm => ?_, fun hfull => ?_⟩, fun s hserves hovf hroom henabled => ?_⟩
  · obtain ⟨t, hnext, h⟩ := eventEntryWrite_room hserves hdecided hroom
    obtain ⟨hbytes, hother⟩ := entryWrite_bytes (d := s.dir) (e := e) hm
    have hmem : t.mem = applyWrite s.mem (entryWrite s.dir e) := h.mem_of_write rfl
    refine ⟨t, hnext, ?_⟩
    rw [hmem, h.ring]
    exact ⟨rfl, rfl, rfl, hbytes, hother⟩
  · obtain ⟨t, hnext, h⟩ := eventEntryWrite_full hserves hdecided hfull
    refine ⟨t, hnext, ?_, ?_, ?_, ?_, h.mem_of_quiet rfl⟩ <;> rw [h.ring] <;> rfl
  · obtain ⟨t, hnext, h⟩ := overflowEntryWrite_reaches hserves hovf hroom henabled
    have hmem : t.mem = applyWrite s.mem (entryWrite s.dir (overflowEvent s.dir)) := h.mem_of_write rfl
    refine ⟨t, hnext, by rw [h.ring]; rfl, by rw [h.ring]; rfl, fun hm => ?_⟩
    obtain ⟨hbytes, -⟩ := entryWrite_bytes (d := s.dir) (e := overflowEvent s.dir) hm
    rw [hmem, hbytes 4 (by norm_num), hbytes 5 (by norm_num)]
    exact ⟨rfl, rfl⟩

/-! Answers of waiting commands -/

/-- A command that waits for a cell or for the twin. -/
def waitsAfar (w : Wait) : Bool := match w with | .cell _ _ => true | .twin => true | _ => false

/-- A director whose ports hold no record for mailbox `n`, with what a timed-out command had begun withdrawn (R438). -/
def withdrawn (d : Director) (n : Nat) (c : Cmd) : Director :=
  { d with
    ports := d.ports.map fun (k, p) => (k, { p with mgmt := p.mgmt.filter fun r => r.why != .cmd n })
    sec := if c.wait = .twin && c.opcode = 0x0A05 then { d.sec with skOffer := none } else d.sec
    cfg := if c.wait = .twin && c.opcode = 0x0203 then { d.cfg with offer := none } else d.cfg }

theorem commandTimeout_reaches {s : State} {n : Nat} {c : Cmd} (hn : n < 4) (hserves : serves s.dir = true)
    (hcmd : (mbx s.dir n).cmd = some c) (hwaits : waitsAfar c.wait = true)
    (hlate : c.rungAt + classLimit s.dir c.opcode.toNat < s.dir.time.raw) :
    ∃ t, exec (.commandTimeout n) s = .next t ∧ Reached s t (refuse (withdrawn (dirStart s.dir) n c) n stTimeout) := by
  refine unit_reaches (o := execCommandTimeout n s) rfl (decide_eq_true hn) ?_
  have hcmd' : (mbx (dirStart s.dir) n).cmd = some c := hcmd
  have hserves' : serves (dirStart s.dir) = true := hserves
  have hlate' : ¬ (dirStart s.dir).time.raw ≤ c.rungAt + classLimit (dirStart s.dir) c.opcode.toNat := Nat.not_le.mpr hlate
  have hpass : (!serves (dirStart s.dir) || !waitsAfar c.wait
      || decide ((dirStart s.dir).time.raw ≤ c.rungAt + classLimit (dirStart s.dir) c.opcode.toNat)) = false := by
    simp [hserves', hwaits, hlate']
  simp only [hcmd']
  exact if_neg (Bool.eq_false_iff.mp hpass)

theorem commandApplyResponse_reaches {s : State} {n : Nat} {c : Cmd} {st : BitVec 8} {p : List Byte} (hn : n < 4)
    (hserves : serves s.dir = true) (hcmd : (mbx s.dir n).cmd = some c) (hout : c.outcome = some (st, p)) :
    ∃ t, exec (.commandApplyResponse n) s = .next t ∧ Reached s t (respond (dirStart s.dir) n st.toNat p) := by
  refine unit_reaches (o := execCommandApplyResponse n s) rfl (decide_eq_true hn) ?_
  have hcmd' : (mbx (dirStart s.dir) n).cmd = some c := hcmd
  simp only [hcmd', hout]
  exact if_pos hserves

/-- A response once its command has run stands in its mailbox (R430, R435). -/
theorem reached_answered {s t : State} {d : Director} {n st : Nat} {c : Cmd} {p : List Byte} (h : Reached s t (respond d n st p))
    (hc : (mbx d n).cmd = some c) : Answered t.dir n c st p := by
  rw [Answered, h.mbx, respond_mbx hc]
  exact ⟨rfl, rfl⟩

/-- A response changes mailboxes, vectors and the event ring only (R430, R601). -/
theorem respond_frame (d : Director) (n st : Nat) (p : List Byte) :
    (respond d n st p).writes = d.writes ∧ (respond d n st p).arms = d.arms := by
  unfold respond
  split
  · exact ⟨rfl, rfl⟩
  · dsimp only
    split
    · exact ⟨raise_writes .., by rw [raise_eq]; rfl⟩
    · exact ⟨rfl, rfl⟩

/-- Settles O17: both rows answer the command of their mailbox. -/
theorem appliedAndTimedOutCommandsAnswer : Obligations.AppliedAndTimedOutCommandsAnswer := by
  unfold Obligations.AppliedAndTimedOutCommandsAnswer
  refine ⟨fun s n c hn hserves hcmd hwait hlate => ?_, fun s n c st p hn hserves hcmd hout => ?_⟩
  · have hwaits : waitsAfar c.wait = true := by
      rcases hwait with ⟨i, k, hw⟩ | hw <;> rw [hw] <;> rfl
    obtain ⟨t, hnext, h⟩ := commandTimeout_reaches hn hserves hcmd hwaits hlate
    exact ⟨t, hnext, reached_answered h hcmd, h.mem_of_quiet (respond_frame ..).1⟩
  · obtain ⟨t, hnext, h⟩ := commandApplyResponse_reaches hn hserves hcmd hout
    obtain ⟨hw, harms⟩ := respond_frame (dirStart s.dir) n st.toNat p
    exact ⟨t, hnext, reached_answered h hcmd, h.mem_of_quiet hw, h.arms.trans harms⟩

end Sys2Proof.Machine
end

section
/-! PROOF. What the operations on domains and on the controlling source leave of the director (R345, R348 to R350). -/

namespace Sys2Proof.Machine

/-- What every step of a fold keeps, the fold keeps. -/
theorem foldl_keeps {α β : Type} {view : Director → β} {f : Director → α → Director} (h : ∀ d x, view (f d x) = view d)
    (l : List α) (d : Director) : view (l.foldl f d) = view d := by
  induction l generalizing d with
  | nil => rfl
  | cons x r ih => rw [List.foldl_cons, ih, h]

@[simp] theorem raise_time (d : Director) (a b : Nat) (l : List Byte) : (raise d a b l).time = d.time := by rw [raise_eq]
@[simp] theorem raise_arms (d : Director) (a b : Nat) (l : List Byte) : (raise d a b l).arms = d.arms := by rw [raise_eq]
@[simp] theorem raise_cfg (d : Director) (a b : Nat) (l : List Byte) : (raise d a b l).cfg = d.cfg := by rw [raise_eq]
@[simp] theorem raise_sk (d : Director) (a b : Nat) (l : List Byte) : (raise d a b l).sk = d.sk := by rw [raise_eq]
@[simp] theorem raise_ports (d : Director) (a b : Nat) (l : List Byte) : (raise d a b l).ports = d.ports := by rw [raise_eq]
@[simp] theorem raise_cells (d : Director) (a b : Nat) (l : List Byte) : (raise d a b l).cells = d.cells := by rw [raise_eq]
@[simp] theorem raise_rcd (d : Director) (a b : Nat) (l : List Byte) : (raise d a b l).rcd = d.rcd := by rw [raise_eq]
@[simp] theorem raise_frz (d : Director) (a b : Nat) (l : List Byte) : (raise d a b l).frz = d.frz := by rw [raise_eq]
@[simp] theorem raise_pins (d : Director) (a b : Nat) (l : List Byte) : (raise d a b l).pins = d.pins := by rw [raise_eq]
@[simp] theorem raise_bg (d : Director) (a b : Nat) (l : List Byte) : (raise d a b l).bg = d.bg := by rw [raise_eq]
@[simp] theorem raise_tx (d : Director) (a b : Nat) (l : List Byte) : (raise d a b l).tx = d.tx := by rw [raise_eq]

@[simp] theorem raise_enable (d : Director) (a b : Nat) (l : List Byte) : (raise d a b l).ring.enable = d.ring.enable := by
  unfold raise
  split <;> rfl

/-- A source is enabled by the part and the mask alone (R446). -/
theorem Enabled.of_eq {d e : Director} {source : Nat} (h : Enabled d source) (hboot : e.boot = d.boot)
    (henable : e.ring.enable = d.ring.enable) : Enabled e source := by
  have hpart : part e = part d := by unfold part fuses; rw [hboot]
  obtain ⟨hlive, hbit⟩ := h
  rw [sourceLive] at hlive
  rw [Enabled, sourceLive, hpart, henable]
  exact ⟨hlive, hbit⟩

/-- An event raised last, of a source that was enabled before, is decided. -/
theorem reached_decides {s t : State} {d : Director} {source detail : Nat} {data : List Byte}
    (h : Reached s t (raise d source detail data)) (he : Enabled s.dir source) (hboot : d.boot = s.dir.boot)
    (henable : d.ring.enable = s.dir.ring.enable) : Decided t.dir source detail data :=
  h.decided (raise_decides (he.of_eq hboot henable) detail data)

/-! The director without what steers converter time -/

/-- What of the time state the operations of R345 to R350 leave. -/
def steerlessTime (t : TimeState) : TimeState :=
  { t with
    mode := .unqualified, source := .none_, holdAt := none, cNext := 0, cPend := none, prop := 0, domA := {}, domB := {}
    switches := 0, epoch := none, treesOff := false }

/-- The director without its domains, its controlling source and what follows from it, its tree streams, and the events
decided: the rest is what the operations of R345 to R350 leave as it was. -/
def steerless (d : Director) : Director :=
  { d with ports := [], tx := [], ring := { d.ring with decided := [] }, time := steerlessTime d.time }

theorem modTime_steerless {d : Director} {f : TimeState → TimeState} (h : steerlessTime (f d.time) = steerlessTime d.time) :
    steerless (modTime d f) = steerless d := by
  unfold steerless modTime
  rw [h]

theorem modDom_steerless (d : Director) (i : Nat) (f : Domain → Domain) : steerless (modDom d i f) = steerless d := by
  refine modTime_steerless ?_
  split <;> rfl

theorem startStream_steerless (d : Director) (n : Nat) : steerless (startStream d n) = steerless d := rfl

theorem setEpoch_steerlessTime (t : TimeState) : steerlessTime (setEpoch t) = steerlessTime t := by
  unfold setEpoch
  split <;> rfl

theorem raise_steerless (d : Director) (source detail : Nat) (data : List Byte) :
    steerless (raise d source detail data) = steerless d := by
  unfold raise
  split <;> rfl

theorem setDomMode_steerless (d : Director) (i : Nat) (m : DomMode) : steerless (setDomMode d i m) = steerless d := by
  unfold setDomMode
  dsimp only
  split
  · rfl
  · rw [raise_steerless, modDom_steerless]

theorem lightTrees_steerless (d : Director) : steerless (lightTrees d) = steerless d :=
  foldl_keeps startStream_steerless _ d

theorem setTimeMode_steerless (d : Director) (m : TimeMode) : steerless (setTimeMode d m) = steerless d := by
  unfold setTimeMode
  dsimp only
  split
  · rfl
  · rw [raise_steerless, lightTrees_steerless]
    refine modTime_steerless ?_
    split
    · rw [setEpoch_steerlessTime]; rfl
    · rfl

theorem reSource_steerless (d : Director) (at_ : Int) : steerless (reSource d at_) = steerless d := by
  unfold reSource
  dsimp only
  rw [setTimeMode_steerless]
  split
  · rfl
  · split
    · rfl
    · split
      · rfl
      · rw [raise_steerless]; rfl

theorem toListening_steerless (d : Director) (i : Nat) : steerless (toListening d i) = steerless d := by
  unfold toListening
  split
  · rfl
  · rw [reSource_steerless, setDomMode_steerless, modDom_steerless]

theorem newBaseline_steerless (d : Director) (i : Nat) : steerless (newBaseline d i) = steerless d := by
  rw [newBaseline, reSource_steerless, setDomMode_steerless, modDom_steerless]

theorem dropMaster_steerless (d : Director) (i p : Nat) : steerless (dropMaster d i p) = steerless d := by
  unfold dropMaster
  dsimp only
  split
  · exact modDom_steerless ..
  · rw [modDom_steerless, toListening_steerless, modDom_steerless]

theorem tryAcquire_steerless (d : Director) (i : Nat) : steerless (tryAcquire d i) = steerless d := by
  unfold tryAcquire
  split
  · split
    · exact newBaseline_steerless d i
    · rfl
  · rfl

/-- A time port whose link is lost, before its masters are dropped (R345, R367). -/
def tportCleared (d : Director) (p : Nat) : Director :=
  modTport d p fun t => { t with up := false, delays := [], ratio := [], req := none, unanswered := 0, queue := [] }

theorem portDown_steerless (d : Director) (p : Nat) : steerless (portDown d p) = steerless (tportCleared d p) :=
  foldl_keeps (view := steerless) (f := fun d i => tryAcquire (dropMaster d i p) i)
    (fun d i => by rw [tryAcquire_steerless, dropMaster_steerless]) [0, 1] (tportCleared d p)

section
variable {t d : Director} (h : steerless t = steerless d)
include h

/-- A view that does not see what `steerless` leaves out is the same of both directors. -/
theorem view_of_steerless {α : Type} (view : Director → α) (hview : ∀ d, view (steerless d) = view d) : view t = view d := by
  rw [← hview t, h, hview]

theorem tport_of_steerless (p : Nat) : tport t p = tport d p := view_of_steerless h (tport · p) fun _ => rfl
theorem pps_of_steerless (i : Nat) : pps t i = pps d i := view_of_steerless h (pps · i) fun _ => rfl
theorem now_of_steerless : t.time.now = d.time.now := view_of_steerless h (·.time.now) fun _ => rfl
theorem enabled_of_steerless {source : Nat} (he : Enabled d source) : Enabled t source :=
  he.of_eq (view_of_steerless h (·.boot) fun _ => rfl) (view_of_steerless h (·.ring.enable) fun _ => rfl)

end

/-! One domain, one time port, one PPS input -/

section
variable (d : Director) {i j : Nat} (f : Domain → Domain) (g : TimePort → TimePort) (k : PpsIn → PpsIn)

theorem tport_modTport_same (p : Nat) : tport (modTport d p g) p = g (tport d p) := by
  unfold tport modTport
  by_cases hp : p = 0 <;> simp [hp]

theorem pps_modPps_same (n : Nat) : pps (modPps d n k) n = k (pps d n) := by
  unfold pps modPps
  by_cases hn : n = 0 <;> simp [hn]

theorem timeAt_modTport (p : Nat) (tick : Int) : timeAt (modTport d p g) tick = timeAt d tick := by
  unfold timeAt modTport modTime
  dsimp only
  split <;> rfl

theorem dom_modDom_same (n : Nat) : dom (modDom d n f) n = f (dom d n) := by
  unfold dom modDom
  by_cases hn : n = 0 <;> simp [hn]

end


end Sys2Proof.Machine
end

section
/-! PROOF. Frames, links and discards of the time ports (R342, R392 to R394). -/

namespace Sys2Proof.Machine

section
variable {s : State} {p : Nat} (hp : p < 2) (hworks : works s.dir = true)
include hp hworks

/-- TIME_PORT_FRAME_LAUNCH of a port that is up: the head of its queue leaves, or is late (R342). -/
theorem timePortFrameLaunch_reaches {lt : Int} {o : List Byte} {r : List (Int × List Byte)} (hup : (tport s.dir p).up = true)
    (hq : (tport s.dir p).queue = (lt, o) :: r) (tick : Nat) :
    ∃ t, exec (.timePortFrameLaunch p tick) s = .next t ∧ Reached s t
      (if lt - toFrac (timeAt s.dir tick) < 2000 * nsFrac then
        raise (modTport (modTport (dirStart s.dir) p fun t => { t with queue := r }) p fun t => { t with launchLate := satInc t.launchLate })
          71 0x01 (b1 p)
      else send (modTport (dirStart s.dir) p fun t => { t with queue := r }) (.eth p lt o)) := by
  have hworks' : works (dirStart s.dir) = true := hworks
  have hup' : (tport (dirStart s.dir) p).up = true := hup
  have hq' : (tport (dirStart s.dir) p).queue = (lt, o) :: r := hq
  refine unit_reaches (o := execTimePortFrameLaunch p tick s) rfl (decide_eq_true hp) ?_
  simp only [hq', hworks', hup', Bool.not_true, Bool.or_self, Bool.false_eq_true, if_false, timeAt_modTport]
  rfl

/-- What a link event makes of its time port (R392, R393). -/
def linkChanged (d : Director) (p : Nat) : LinkEvent → Director
  | .anegDone => if tpAneg d p then modTport d p fun t => { t with up := true } else d
  | .synced => if tpAneg d p then d else modTport d p fun t => { t with up := true }
  | .down => if !(tport d p).up then d else
      raise (portDown (modTport d p fun t => { t with linkDown := satInc t.linkDown }) p) 71 0x08 (b1 p)
  | .badSpeed => if tpSgmii d p && !(tport d p).up then raise d 71 0x09 (b1 p) else d

theorem timePortLinkChange_reaches (ev : LinkEvent) :
    ∃ t, exec (.timePortLinkChange p ev) s = .next t ∧ Reached s t (linkChanged (dirStart s.dir) p ev) := by
  have hworks' : works (dirStart s.dir) = true := hworks
  refine unit_reaches (o := execTimePortLinkChange p ev s) rfl (decide_eq_true hp) ?_
  simp only [hworks', Bool.not_true, Bool.false_eq_true, if_false]
  cases ev <;> rfl

/-- What a discarded frame counts (R340, R394). -/
def frameDiscarded (cause : DiscardCause) (t : TimePort) : TimePort :=
  match cause with
  | .badFcs => { t with fcsErr := satInc t.fcsErr }
  | .unsupported => { t with msgDiscard := satInc t.msgDiscard }
  | _ => { t with rxDiscard := satInc t.rxDiscard }

theorem timePortFrameDiscard_reaches (hup : (tport s.dir p).up = true) (w : DiscardCause) :
    ∃ t, exec (.timePortFrameDiscard p w) s = .next t ∧ Reached s t (modTport (dirStart s.dir) p (frameDiscarded w)) := by
  have hworks' : works (dirStart s.dir) = true := hworks
  have hup' : (tport (dirStart s.dir) p).up = true := hup
  refine unit_reaches (o := execTimePortFrameDiscard p w s) rfl (decide_eq_true hp) ?_
  simp only [hworks', hup', Bool.not_true, Bool.or_self, Bool.false_eq_true, if_false]
  cases w <;> rfl

end

theorem reached_tport {s t : State} {d : Director} (h : Reached s t d) (p : Nat) : tport t.dir p = tport d p :=
  h.get (tport · p) fun _ _ _ _ => rfl

theorem raise_tport (d : Director) (source detail : Nat) (data : List Byte) (p : Nat) :
    tport (raise d source detail data) p = tport d p := by rw [tport, raise_time, tport]

/-- Settles O44: each row changes its own port; a link that goes down keeps its count through the loss of its masters. -/
theorem timePorts : Obligations.TimePorts := by
  unfold Obligations.TimePorts
  refine ⟨fun s p tick lt o r hp hworks hup hq hlate => ?_, fun s p tick lt o r hp hworks hup hq hearly => ?_,
    fun s p hp hworks haneg => ?_, fun s p hp hworks haneg => ?_, fun s p hp hworks hsgmii hdown => ?_,
    fun s p hp hworks hup => ?_, fun s p w hp hworks hup => ?_⟩
  · obtain ⟨t, hnext, h⟩ := timePortFrameLaunch_reaches hp hworks hup hq tick
    rw [if_pos hlate] at h
    have hport : tport t.dir p = { tport s.dir p with queue := r, launchLate := satInc (tport s.dir p).launchLate } := by
      rw [reached_tport h, raise_tport, tport_modTport_same, tport_modTport_same]; rfl
    exact ⟨t, hnext, by rw [hport], by rw [hport], fun he => reached_decides h he rfl rfl⟩
  · obtain ⟨t, hnext, h⟩ := timePortFrameLaunch_reaches hp hworks hup hq tick
    rw [if_neg (not_lt.mpr hearly)] at h
    obtain ⟨x, hx⟩ := h.tx
    refine ⟨t, hnext, ?_, by rw [hx]; simp⟩
    have hsend : ∀ d x, tport (send d x) p = tport d p := fun _ _ => rfl
    rw [reached_tport h, hsend, tport_modTport_same]
  · obtain ⟨t, hnext, h⟩ := timePortLinkChange_reaches hp hworks .anegDone
    rw [linkChanged, if_pos (show tpAneg (dirStart s.dir) p = true from haneg)] at h
    exact ⟨t, hnext, by rw [reached_tport h, tport_modTport_same]⟩
  · obtain ⟨t, hnext, h⟩ := timePortLinkChange_reaches hp hworks .synced
    rw [linkChanged, if_neg (show ¬tpAneg (dirStart s.dir) p = true from Bool.eq_false_iff.mp haneg)] at h
    exact ⟨t, hnext, by rw [reached_tport h, tport_modTport_same]⟩
  · obtain ⟨t, hnext, h⟩ := timePortLinkChange_reaches hp hworks .badSpeed
    have hbad : (tpSgmii (dirStart s.dir) p && !(tport (dirStart s.dir) p).up) = true := by
      rw [show tpSgmii (dirStart s.dir) p = true from hsgmii, show (tport (dirStart s.dir) p).up = false from hdown]; rfl
    rw [linkChanged, if_pos hbad] at h
    refine ⟨t, hnext, ?_, fun he => reached_decides h he rfl rfl⟩
    rw [reached_tport h, raise_tport]
    exact hdown
  · obtain ⟨t, hnext, h⟩ := timePortLinkChange_reaches hp hworks .down
    have hup' : (tport (dirStart s.dir) p).up = true := hup
    rw [linkChanged, if_neg (by rw [hup']; simp)] at h
    have hkept := portDown_steerless (modTport (dirStart s.dir) p fun t => { t with linkDown := satInc t.linkDown }) p
    have hport : tport t.dir p = { tport s.dir p with
        up := false, delays := [], ratio := [], req := none, unanswered := 0, queue := [], linkDown := satInc (tport s.dir p).linkDown } := by
      rw [reached_tport h, raise_tport, tport_of_steerless hkept, tportCleared, tport_modTport_same, tport_modTport_same]
      rfl
    refine ⟨t, hnext, ?_, ?_, ?_, fun he => h.decided (raise_decides (enabled_of_steerless hkept (he.of_eq rfl rfl)) _ _)⟩ <;> rw [hport]
  · obtain ⟨t, hnext, h⟩ := timePortFrameDiscard_reaches hp hworks hup w
    have hport : tport t.dir p = frameDiscarded w (tport s.dir p) := by
      rw [reached_tport h, tport_modTport_same]; rfl
    refine ⟨t, hnext, ?_⟩
    rw [hport]
    cases w <;> exact ⟨rfl, rfl, rfl⟩

end Sys2Proof.Machine
end

section
/-! PROOF. Steps of converter time, holdover, the reference offset and the PPS pins (R336 to R339, R350, R352, R353). -/

namespace Sys2Proof.Machine

/-! Deciding a command's outcome -/

/-- A decided outcome waits in its mailbox, and nothing else changes (R482). -/
theorem decide_eq_mbs (d : Director) (mb : Option Nat) (status : Nat) (payload : List Byte) :
    decide_ d mb status payload = { d with mbs := (decide_ d mb status payload).mbs } := by
  cases mb <;> rfl

@[simp] theorem decide_time (d : Director) (mb : Option Nat) (st : Nat) (p : List Byte) : (decide_ d mb st p).time = d.time := by
  rw [decide_eq_mbs]

@[simp] theorem decide_ring (d : Director) (mb : Option Nat) (st : Nat) (p : List Byte) : (decide_ d mb st p).ring = d.ring := by
  rw [decide_eq_mbs]

/-! TIME_STEP -/

/-- What a step whose cycle has come makes of a director (R338, R339, R504). -/
def stepTaken (d : Director) (p : PendStep) : Director :=
  if !stepAllowed d then decide_ (raise (modTime d fun t => { t with step := none }) 68 0x02 (b4 p.cycle.toNat)) p.mb stState []
  else
    let delta := match p.target with | some v => v - toFrac d.time.now | none => p.delta
    decide_ (raise (modTime (jump d delta) fun t => { t with step := none, stepped := some p.cycle, steps := satInc t.steps })
      68 0x01 (b4 p.cycle.toNat ++ b8z (delta / nsFrac))) p.mb stOK (b4 p.cycle.toNat ++ b8z (delta / nsFrac))

theorem timeStep_reaches {s : State} {p : PendStep} (hworks : works s.dir = true) (hrun : s.dir.time.running = true)
    (hstep : s.dir.time.step = some p) (hcycle : p.cycle = cyc s.dir) :
    ∃ t, exec .timeStep s = .next t ∧ Reached s t (stepTaken (dirStart s.dir) p) := by
  have hworks' : works (dirStart s.dir) = true := hworks
  have hrun' : (dirStart s.dir).time.running = true := hrun
  have hstep' : (dirStart s.dir).time.step = some p := hstep
  have hcycle' : p.cycle = cyc (dirStart s.dir) := hcycle
  refine onDir_reaches (o := execTimeStep s) rfl ?_
  simp only [hworks', hrun', hstep', hcycle'.symm, ne_eq, not_true_eq_false, decide_false, Bool.not_true, Bool.or_self,
    Bool.false_eq_true, if_false]
  rfl

theorem allArms_iff {d : Director} {f : ArmMode → Bool} : allArms d f = true ↔ ∀ a, a < 6 → f (arm d a).mode = true := by
  rw [allArms, List.all_eq_true]
  exact forall_congr' fun a => imp_congr_left List.mem_range

/-! Holdover and the reference offset -/

theorem lightTrees_time (d : Director) : (lightTrees d).time = d.time := foldl_keeps (view := Director.time) (f := startStream) (fun _ _ => rfl) _ d
theorem lightTrees_ring (d : Director) : (lightTrees d).ring = d.ring := foldl_keeps (view := Director.ring) (f := startStream) (fun _ _ => rfl) _ d
theorem lightTrees_boot (d : Director) : (lightTrees d).boot = d.boot := foldl_keeps (view := Director.boot) (f := startStream) (fun _ _ => rfl) _ d

theorem setEpoch_mode (t : TimeState) : (setEpoch t).mode = t.mode := by
  unfold setEpoch
  split <;> rfl

theorem setTimeMode_of_eq {d : Director} {m : TimeMode} (h : d.time.mode = m) : setTimeMode d m = d := if_pos h

/-- The director in a new state of converter time, before its event (R350). -/
def modeSet (d : Director) (m : TimeMode) : Director :=
  lightTrees (modTime d fun t =>
    let t := { t with mode := m }
    if d.time.mode = .unqualified then setEpoch { t with treesOff := false } else t)

theorem setTimeMode_of_ne {d : Director} {m : TimeMode} (h : d.time.mode ≠ m) :
    setTimeMode d m = raise (modeSet d m) 68 0x06 (b1 (timeCode d.time.mode) ++ b1 (timeCode m)) := if_neg h

theorem setTimeMode_mode (d : Director) (m : TimeMode) : (setTimeMode d m).time.mode = m := by
  by_cases h : d.time.mode = m
  · rw [setTimeMode_of_eq h, h]
  · rw [setTimeMode_of_ne h, raise_time, modeSet, lightTrees_time, modTime_time]
    dsimp only
    split
    · exact setEpoch_mode _
    · rfl

theorem holdoverExpire_reaches {s : State} {h : Int} (hat : s.dir.time.holdAt = some h) (hmode : s.dir.time.mode = .holdover)
    (hlate : h + tp s.dir 17 0 600 * secUnit < s.dir.time.now) :
    ∃ t, exec .holdoverExpire s = .next t ∧ Reached s t (setTimeMode (dirStart s.dir) .freeRun) := by
  have hat' : (dirStart s.dir).time.holdAt = some h := hat
  have hdue : (decide ((dirStart s.dir).time.mode = .holdover)
      && decide (h + tp (dirStart s.dir) 17 0 600 * secUnit < (dirStart s.dir).time.now)) = true :=
    Bool.and_eq_true_iff.mpr ⟨decide_eq_true hmode, decide_eq_true hlate⟩
  refine onDir_reaches (o := execHoldoverExpire s) rfl ?_
  simp only [hat']
  exact if_pos hdue

theorem refOffset_reaches {s : State} {x : Int} (hat : s.dir.time.refAt = some x) (hsent : s.dir.time.refSent = false)
    (hdue : x + 60 * secUnit ≤ s.dir.time.now) :
    ∃ t, exec .refOffset s = .next t ∧ Reached s t
      (raise (modTime (dirStart s.dir) fun t => { t with refSent := true }) 68 0x05 (b4z (s.dir.time.domA.integ / 2 ^ 24))) := by
  have hat' : (dirStart s.dir).time.refAt = some x := hat
  have hpass : ((dirStart s.dir).time.refSent || decide ((dirStart s.dir).time.now < x + 60 * secUnit)) = false := by
    rw [show (dirStart s.dir).time.refSent = false from hsent, Bool.false_or]
    exact decide_eq_false (not_lt.mpr hdue)
  refine onDir_reaches (o := execRefOffset s) rfl ?_
  simp only [hat']
  exact if_neg (Bool.eq_false_iff.mp hpass)

/-! The PPS inputs through the operations on offsets -/

/-- From `d` to `t` the PPS inputs lose nothing but the origin of their instants, and that only before cycle numbers run. -/
structure PpsKept (t d : Director) : Prop where
  running : t.time.running = d.time.running
  misses : ∀ i, (pps t i).misses = (pps d i).misses
  glitch : ∀ i, (pps t i).glitch = (pps d i).glitch
  edge : ∀ i, (pps t i).lastEdge.isSome = (pps d i).lastEdge.isSome
  exact_ : d.time.running = true → ∀ i, (pps t i).lastEdge = (pps d i).lastEdge

theorem PpsKept.refl (d : Director) : PpsKept d d := ⟨rfl, fun _ => rfl, fun _ => rfl, fun _ => rfl, fun _ _ => rfl⟩

theorem PpsKept.trans {u t d : Director} (h : PpsKept u t) (h' : PpsKept t d) : PpsKept u d :=
  ⟨h.running.trans h'.running, fun i => (h.misses i).trans (h'.misses i), fun i => (h.glitch i).trans (h'.glitch i),
    fun i => (h.edge i).trans (h'.edge i), fun hr i => (h.exact_ (h'.running.trans hr) i).trans (h'.exact_ hr i)⟩

theorem PpsKept.ite {p : Prop} [Decidable p] {t u d : Director} (h : PpsKept t d) (h' : PpsKept u d) : PpsKept (if p then t else u) d := by
  split
  · exact h
  · exact h'

theorem PpsKept.of_pps {t d : Director} (hrun : t.time.running = d.time.running) (h : ∀ i, pps t i = pps d i) : PpsKept t d :=
  ⟨hrun, fun i => by rw [h], fun i => by rw [h], fun i => by rw [h], fun _ i => by rw [h]⟩

theorem PpsKept.of_steerless {t d : Director} (h : steerless t = steerless d) : PpsKept t d :=
  .of_pps (view_of_steerless h (·.time.running) fun _ => rfl) (pps_of_steerless h)

theorem foldl_ppsKept {α : Type} {f : Director → α → Director} (h : ∀ d x, PpsKept (f d x) d) (l : List α) (d : Director) :
    PpsKept (l.foldl f d) d := by
  induction l generalizing d with
  | nil => exact .refl d
  | cons x r ih => exact (ih (f d x)).trans (h d x)

/-- A step that is asked for waits, or before cycle numbers run moves the instants kept at once (R338, R351). -/
theorem askStep_ppsKept (d : Director) (delta : Int) : PpsKept (askStep d delta) d := by
  unfold askStep
  split
  · next hidle =>
    have hpps : ∀ i, pps (modTime d fun t => rebase { t with now := t.now + ofFrac delta } delta) i =
        { pps d i with lastEdge := (pps d i).lastEdge.map (· + delta), devAt := (pps d i).devAt.map (· + delta)
                       missAt := (pps d i).missAt.map (· + delta), glitchAt := (pps d i).glitchAt.map (· + delta) } := fun i => by
      unfold pps
      split <;> rfl
    refine ⟨rfl, fun i => by rw [hpps], fun i => by rw [hpps], fun i => by rw [hpps, Option.isSome_map], fun hr => ?_⟩
    rw [hr] at hidle
    exact absurd hidle (by decide)
  · split
    · exact .refl d
    · exact .of_pps rfl fun _ => rfl

theorem noteRef_pps (d : Director) (at_ : Int) : PpsKept (noteRef d at_) d := by
  unfold noteRef modTime
  dsimp only
  split <;> exact .of_pps rfl fun _ => rfl

theorem raise_ppsKept (d : Director) (a b : Nat) (l : List Byte) : PpsKept (raise d a b l) d := .of_steerless (raise_steerless ..)

/-- FREQ_LIMITED counts, and is reported once in 1,000 updates (R346). -/
def limitNoted (d : Director) : Director :=
  let go := match d.time.limitedAt with | some u => decide (u + 1000 ≤ d.time.updates) | none => true
  let d := modTime d fun t => { t with limited := satInc t.limited, limitedAt := if go then some t.updates else t.limitedAt }
  if go then raise d 68 0x04 (b4 d.time.limited.toNat) else d

/-- The director with the integrator, the proportional term and the correction of a run of the servo. -/
def servoSet (d : Director) (i p c : Int) : Director :=
  commitC (modTime (setI d i) fun t => { t with prop := p, updates := t.updates + 1 }) c

/-- A run of the servo sets its terms, and notes a correction at the limit (R346). -/
theorem servo_eq (d : Director) (theta dt at_ : Int) : ∃ i p c, servo d theta dt at_ =
    noteRef (if (freqLim d).natAbs < (i + p).natAbs then limitNoted (servoSet d i p c) else servoSet d i p c) at_ :=
  ⟨_, _, _, rfl⟩

theorem limitNoted_ppsKept (d : Director) : PpsKept (limitNoted d) d := by
  have hcount : ∀ f : TimeState → Option Nat,
      PpsKept (modTime d fun t => { t with limited := satInc t.limited, limitedAt := f t }) d := fun _ => .of_pps rfl fun _ => rfl
  unfold limitNoted
  exact .ite ((raise_ppsKept ..).trans (hcount _)) (hcount _)

theorem servo_ppsKept (d : Director) (theta dt at_ : Int) : PpsKept (servo d theta dt at_) d := by
  obtain ⟨i, p, c, hservo⟩ := servo_eq d theta dt at_
  have hset : PpsKept (servoSet d i p c) d := .of_pps rfl fun _ => rfl
  rw [hservo]
  exact (noteRef_pps _ _).trans (.ite ((limitNoted_ppsKept _).trans hset) hset)

theorem modDom_ppsKept (d : Director) (i : Nat) (f : Domain → Domain) : PpsKept (modDom d i f) d := .of_steerless (modDom_steerless ..)
theorem setDomMode_ppsKept (d : Director) (i : Nat) (m : DomMode) : PpsKept (setDomMode d i m) d := .of_steerless (setDomMode_steerless ..)
theorem reSource_ppsKept (d : Director) (at_ : Int) : PpsKept (reSource d at_) d := .of_steerless (reSource_steerless ..)

/-- What an accepted offset makes of its domain's state (R345). -/
def offsetState (d : Director) (i : Nat) (theta at_ : Int) (mode : DomMode) (win : List Int) : Director :=
  match mode with
  | .acquiring =>
    if lockCount d ≤ win.length && within (lockNs d) win && (!(decide (d.time.source = srcOf i)) || theta.natAbs ≤ (lockNs d).natAbs) then
      setDomMode (modDom d i fun x => { x with lockedAt := some at_ }) i .locked
    else d
  | .locked =>
    let s := win.foldl (· + ·) 0
    if (4 * lockNs d * win.length).natAbs < (theta * win.length - s).natAbs then setDomMode d i .acquiring else d
  | _ => d

/-- What an accepted offset of the domain that controls makes of converter time (R337, R346, R351). -/
def offsetServed (d : Director) (i : Nat) (theta dt at_ : Int) : Director :=
  if d.time.mode = .unqualified then
    let d := askStep d (-theta)
    let d := setI d 0
    setTimeMode (modTime d fun t => { t with source := srcOf i, holdAt := none }) .acquiring
  else if d.time.source = srcOf i then
    if nsParm d 11 100000 < theta.natAbs && stepAllowed d then askStep d (-theta)
    else if dt = 0 then d else servo d theta dt at_
  else d

/-- An accepted offset, step by step. -/
theorem acceptOffset_eq (d : Director) (i : Nat) (theta at_ : Int) : acceptOffset d i theta at_ =
    reSource (offsetServed (offsetState
      (modDom d i fun x => { x with theta := some (theta, at_), rejects := 0, window := (theta :: (dom d i).window).take (lockCount d) })
      i theta at_ (dom d i).mode ((theta :: (dom d i).window).take (lockCount d))) i theta
      (match (dom d i).theta with | some (_, a) => at_ - a | none => 0) at_) at_ := by
  unfold acceptOffset offsetServed offsetState
  rfl

theorem offsetState_ppsKept (d : Director) (i : Nat) (theta at_ : Int) (mode : DomMode) (win : List Int) :
    PpsKept (offsetState d i theta at_ mode win) d := by
  cases mode with
  | acquiring => exact .ite ((setDomMode_ppsKept ..).trans (modDom_ppsKept ..)) (.refl d)
  | locked => exact .ite (setDomMode_ppsKept ..) (.refl d)
  | disabled | listening | suspect => exact .refl d

theorem setTimeMode_ppsKept (d : Director) (m : TimeMode) : PpsKept (setTimeMode d m) d := .of_steerless (setTimeMode_steerless ..)

theorem offsetServed_ppsKept (d : Director) (i : Nat) (theta dt at_ : Int) : PpsKept (offsetServed d i theta dt at_) d := by
  have hsource : PpsKept (modTime (setI (askStep d (-theta)) 0) fun t => { t with source := srcOf i, holdAt := none })
      (askStep d (-theta)) := .of_pps rfl fun _ => rfl
  unfold offsetServed
  exact .ite ((setTimeMode_ppsKept ..).trans (hsource.trans (askStep_ppsKept ..)))
    (.ite (.ite (askStep_ppsKept ..) (.ite (.refl d) (servo_ppsKept ..))) (.refl d))

theorem acceptOffset_ppsKept (d : Director) (i : Nat) (theta at_ : Int) : PpsKept (acceptOffset d i theta at_) d := by
  rw [acceptOffset_eq]
  exact (reSource_ppsKept ..).trans ((offsetServed_ppsKept ..).trans ((offsetState_ppsKept ..).trans (modDom_ppsKept ..)))

/-- A rejected offset counts, and the first in each 1,000 is reported (R347). -/
def offsetRejected (d : Director) (i : Nat) : Director :=
  let d := modDom d i fun x => { x with rejects := x.rejects + 1, ofsReject := satInc x.ofsReject, rejected := x.rejected + 1 }
  if (dom d i).rejected % 1000 = 1 then raise d (69 + i) 0x02 (b4 (dom d i).ofsReject.toNat) else d

theorem offsetRejected_ppsKept (d : Director) (i : Nat) : PpsKept (offsetRejected d i) d :=
  .ite ((raise_ppsKept ..).trans (modDom_ppsKept ..)) (modDom_ppsKept ..)

/-- Every way an offset is taken or set aside leaves the PPS inputs (R345, R347). -/
theorem offsetIn_ppsKept (d : Director) (i : Nat) (theta at_ : Int) : PpsKept (offsetIn d i theta at_) d := by
  unfold offsetIn
  dsimp only
  split
  · exact .refl d
  · exact .refl d
  · exact .ite ((reSource_ppsKept ..).trans ((setDomMode_ppsKept ..).trans (modDom_ppsKept ..))) (modDom_ppsKept ..)
  · split
    · split
      · exact .ite ((acceptOffset_ppsKept ..).trans (modDom_ppsKept ..)) (modDom_ppsKept ..)
      · exact modDom_ppsKept ..
    · have hsuspect : PpsKept (reSource (setDomMode (modDom (offsetRejected d i) i fun x => { x with regain := [] }) i .suspect) at_) d :=
        (reSource_ppsKept ..).trans ((setDomMode_ppsKept ..).trans ((modDom_ppsKept ..).trans (offsetRejected_ppsKept d i)))
      exact .ite (acceptOffset_ppsKept ..) (.ite hsuspect (offsetRejected_ppsKept d i))

/-! The PPS rows -/

/-- An edge one second after the last, within 1 ms (R352). -/
def edgeGood (x : PpsIn) (t : Int) : Bool :=
  match x.lastEdge with | some l => decide ((t - l - secFrac).natAbs ≤ 1000000 * 65536) | none => false

/-- The edge comes too soon after the last (R352). -/
def edgeSoon (x : PpsIn) (t : Int) : Bool := match x.lastEdge with | some l => decide (t - l < 900000000 * nsFrac) | none => false

theorem edgeSoon_eq_false {x : PpsIn} {t : Int} (h : ∀ l, x.lastEdge = some l → 900000000 * nsFrac ≤ t - l) : edgeSoon x t = false := by
  unfold edgeSoon
  split
  · next l hl => exact decide_eq_false (not_lt.mpr (h l hl))
  · rfl

section
variable {s : State} {i : Nat} (hi : i < 2) (hworks : works s.dir = true)
include hi hworks

/-- The instant of an edge at an input (R352). -/
def edgeAt (d : Director) (i : Nat) (stamp : Int) : Int := stamp - psFrac (parmZ (timeS (cfg d)) 23 i 0)

/-- An edge less than 0.9 s after the last counts as a glitch (R352). -/
def glitched (d : Director) (i : Nat) (t : Int) : Director :=
  let ev := minutePast (pps d i).glitchAt t
  let d := modPps d i fun x => { x with glitch := satInc x.glitch, glitchAt := if ev then some t else x.glitchAt }
  if ev then raise d 71 0x04 (b1 i) else d

/-- An edge that is taken, before the domains bound to the input hear of it (R352). -/
def edgeTaken (d : Director) (i : Nat) (t : Int) (good : Bool) : Director :=
  let dev := t - roundHalfUp t secFrac.toNat * secFrac
  let d' := modPps d i fun x => { x with lastEdge := some t, misses := 0, good := x.good || good }
  if decide (1000 * 65536 < dev.natAbs) && minutePast (pps d i).devAt t then
    raise (modPps d' i fun x => { x with devAt := some t }) 71 0x05 (b1 i ++ zeros 3 ++ b4z (dev / nsFrac))
  else d'

/-- What an edge means to a domain bound to its input (R345, R352). -/
def edgeHeard (i : Nat) (t : Int) (good : Bool) (d : Director) (k : Nat) : Director :=
  let d := modDom d k fun x => { x with port := some (2 + i) }
  if (dom d k).mode = .listening then (if good then newBaseline d k else d) else
  let d := modDom d k fun x => { x with theta := x.theta.map fun (v, _) => (v, ofFrac t - secUnit) }
  offsetIn (modDom d k fun x => { x with syncRx := satInc x.syncRx }) k (t - roundHalfUp t secFrac.toNat * secFrac) (ofFrac t)

theorem ppsInEdge_glitch {l : Int} (stamp : FracNs) (hlast : (pps s.dir i).lastEdge = some l)
    (hsoon : edgeAt s.dir i stamp - l < 900000000 * nsFrac) :
    ∃ t, exec (.ppsInEdge i stamp) s = .next t ∧ Reached s t (glitched (dirStart s.dir) i (edgeAt s.dir i stamp)) := by
  have hworks' : works (dirStart s.dir) = true := hworks
  have hlast' : (pps (dirStart s.dir) i).lastEdge = some l := hlast
  refine unit_reaches (o := execPpsInEdge i stamp s) rfl (decide_eq_true hi) ?_
  simp only [hworks', hlast', Bool.not_true, Bool.false_eq_true, if_false]
  exact if_pos (decide_eq_true hsoon)

theorem ppsInEdge_taken (stamp : FracNs)
    (hlast : ∀ l, (pps s.dir i).lastEdge = some l → 900000000 * nsFrac ≤ edgeAt s.dir i stamp - l) :
    ∃ t d, exec (.ppsInEdge i stamp) s = .next t ∧ d = edgeTaken (dirStart s.dir) i (edgeAt s.dir i stamp) (edgeGood (pps s.dir i) (edgeAt s.dir i stamp))
      ∧ Reached s t ((ppsDom d i).foldl (edgeHeard i (edgeAt s.dir i stamp) (edgeGood (pps s.dir i) (edgeAt s.dir i stamp))) d) := by
  have hworks' : works (dirStart s.dir) = true := hworks
  obtain ⟨t, hnext, h⟩ := unit_reaches (o := execPpsInEdge i stamp s) rfl (decide_eq_true hi)
    ((if_neg (by rw [hworks']; simp)).trans (if_neg (Bool.eq_false_iff.mp (edgeSoon_eq_false hlast))))
  exact ⟨t, _, hnext, rfl, h⟩

end

section
variable (d : Director) (i : Nat) (t : Int)

theorem pps_raise (a b : Nat) (l : List Byte) (k : Nat) : pps (raise d a b l) k = pps d k := by rw [pps, raise_time, pps]

/-- A glitch is counted and is no edge (R352). -/
theorem pps_glitched : ∃ at_, pps (glitched d i t) i = { pps d i with glitch := satInc (pps d i).glitch, glitchAt := at_ } := by
  unfold glitched
  dsimp only
  split
  · exact ⟨_, by rw [pps_raise, pps_modPps_same]⟩
  · exact ⟨_, pps_modPps_same ..⟩

theorem modPps_doms (f : PpsIn → PpsIn) : (modPps d i f).time.domA = d.time.domA ∧ (modPps d i f).time.domB = d.time.domB
    ∧ (modPps d i f).time.running = d.time.running := by
  unfold modPps modTime
  dsimp only
  split <;> exact ⟨rfl, rfl, rfl⟩

theorem glitched_doms : (glitched d i t).time.domA = d.time.domA ∧ (glitched d i t).time.domB = d.time.domB := by
  unfold glitched
  dsimp only
  split
  · rw [raise_time]; exact ⟨(modPps_doms ..).1, (modPps_doms ..).2.1⟩
  · exact ⟨(modPps_doms ..).1, (modPps_doms ..).2.1⟩

theorem edgeTaken_pps (good : Bool) : (pps (edgeTaken d i t good) i).lastEdge = some t ∧ (pps (edgeTaken d i t good) i).misses = 0
    ∧ (pps (edgeTaken d i t good) i).glitch = (pps d i).glitch ∧ (edgeTaken d i t good).time.running = d.time.running := by
  unfold edgeTaken
  dsimp only
  split
  · rw [pps_raise, pps_modPps_same, pps_modPps_same, raise_time, (modPps_doms ..).2.2, (modPps_doms ..).2.2]
    exact ⟨rfl, rfl, rfl, rfl⟩
  · rw [pps_modPps_same, (modPps_doms ..).2.2]
    exact ⟨rfl, rfl, rfl, rfl⟩

theorem edgeHeard_ppsKept (good : Bool) (k : Nat) : PpsKept (edgeHeard i t good d k) d := by
  have hbound : PpsKept (modDom d k fun x => { x with port := some (2 + i) }) d := modDom_ppsKept ..
  exact .ite (.ite ((PpsKept.of_steerless (newBaseline_steerless ..)).trans hbound) hbound)
    ((offsetIn_ppsKept ..).trans ((modDom_ppsKept ..).trans ((modDom_ppsKept ..).trans hbound)))

end

/-- What a missing edge counts (R352). -/
def missCounted (now : Int) (ev : Bool) (x : PpsIn) : PpsIn :=
  { x with miss := satInc x.miss, misses := x.misses + 1, good := x.good && x.misses + 1 < 3
           missAt := if ev then some now else x.missAt }

/-- A missing edge is reported, which it is once in a minute (R352). -/
def missReports (d : Director) (i : Nat) : Bool := minutePast (pps d i).missAt (toFrac d.time.now)

/-- A missing edge is counted, and reported once in a minute (R352). -/
def missNoted (d : Director) (i : Nat) : Director :=
  let d' := modPps d i (missCounted (toFrac d.time.now) (missReports d i))
  if missReports d i then raise d' 71 0x03 (b1 i) else d'

/-- The third missing edge in a row sends the domains of the input back to LISTENING (R352). -/
def ppsMissed (d : Director) (i : Nat) : Director :=
  if 3 ≤ (pps (missNoted d i) i).misses then (ppsDom (missNoted d i) i).foldl toListening (missNoted d i) else missNoted d i

theorem ppsMiss_reaches {s : State} {i : Nat} (hi : i < 2) (hworks : works s.dir = true) :
    ∃ t, exec (.ppsMiss i) s = .next t ∧ Reached s t (ppsMissed (dirStart s.dir) i) := by
  have hworks' : works (dirStart s.dir) = true := hworks
  refine unit_reaches (o := execPpsMiss i s) rfl (decide_eq_true hi) ?_
  simp only [hworks', Bool.not_true, Bool.false_eq_true, if_false]
  rfl

theorem pps_ppsMissed (d : Director) (i : Nat) : pps (ppsMissed d i) i = missCounted (toFrac d.time.now) (missReports d i) (pps d i) := by
  have hnoted : pps (missNoted d i) i = missCounted (toFrac d.time.now) (missReports d i) (pps d i) := by
    unfold missNoted
    dsimp only
    split
    · rw [pps_raise, pps_modPps_same]
    · exact pps_modPps_same ..
  have hkept : ∀ (l : List Nat) d, steerless (l.foldl toListening d) = steerless d :=
    fun l d => foldl_keeps (f := toListening) toListening_steerless l d
  unfold ppsMissed
  split
  · rw [pps_of_steerless (hkept _ _), hnoted]
  · exact hnoted

/-- The level of PPS_OUT at a tick: it rises at the tick nearest the second and falls on command (R353). -/
def ppsOutSet (d : Director) (rise : Bool) (tick : Nat) : Director :=
  if !d.time.pllLock || !(inRun d || d.boot.state = .released) then { d with pins := { d.pins with ppsOut := false } } else
  let t := timeAt d tick - parmZ (timeS (cfg d)) 24 0 0 * tickUnit
  let dev := t - roundHalfUp t secUnit.toNat * secUnit
  if !rise then { d with pins := { d.pins with ppsOut := false } }
  else if 2 * dev.natAbs ≤ (tickInc d.time.c).natAbs then { d with pins := { d.pins with ppsOut := true } }
  else d

theorem ppsOutPulse_reaches (s : State) (rise : Bool) (tick : Nat) :
    ∃ t, exec (.ppsOutPulse rise tick) s = .next t ∧ Reached s t (ppsOutSet (dirStart s.dir) rise tick) :=
  onDir_reaches (o := execPpsOutPulse rise tick s) rfl rfl

theorem ppsOutSet_fall (d : Director) (tick : Nat) : ppsOutSet d false tick = { d with pins := { d.pins with ppsOut := false } } := by
  unfold ppsOutSet
  split <;> rfl

theorem ppsOutSet_rise {d : Director} {tick : Nat} {x : Int} (hlock : d.time.pllLock = true) (hrun : inRun d = true)
    (hx : x = timeAt d tick - parmZ (timeS (cfg d)) 24 0 0 * tickUnit) : ppsOutSet d true tick =
      if 2 * (x - roundHalfUp x secUnit.toNat * secUnit).natAbs ≤ (tickInc d.time.c).natAbs then
        { d with pins := { d.pins with ppsOut := true } } else d := by
  subst hx
  simp [ppsOutSet, hlock, hrun]

/-- The Δ of a pending step at the present start tick (R338, R504). -/
def stepDelta (d : Director) (p : PendStep) : Int := match p.target with | some v => v - toFrac d.time.now | none => p.delta

theorem stepTaken_allowed {d : Director} (p : PendStep) (h : stepAllowed d = true) : stepTaken d p =
    decide_ (raise (modTime (jump d (stepDelta d p)) fun t => { t with step := none, stepped := some p.cycle, steps := satInc t.steps })
      68 0x01 (b4 p.cycle.toNat ++ b8z (stepDelta d p / nsFrac))) p.mb stOK (b4 p.cycle.toNat ++ b8z (stepDelta d p / nsFrac)) :=
  if_neg (by rw [h]; simp)

theorem stepTaken_barred {d : Director} (p : PendStep) (h : stepAllowed d = false) : stepTaken d p =
    decide_ (raise (modTime d fun t => { t with step := none }) 68 0x02 (b4 p.cycle.toNat)) p.mb stState [] :=
  if_pos (by rw [h]; rfl)

/-- Settles O45: the rows of a step, of holdover and of the reference offset act on the time state alone, and an edge at
a PPS input is a glitch, or is taken and heard by the domains bound to it. -/
theorem stepsHoldoverAndPps : Obligations.StepsHoldoverAndPps := by
  unfold Obligations.StepsHoldoverAndPps
  refine ⟨⟨fun s p delta hworks hrun hstep hcycle hdelta harms => ?_, fun s p a hworks hrun hstep hcycle ha hmode => ?_,
      fun s h hat hmode hlate => ?_, fun s x hat hsent hdue => ?_⟩,
    fun s i stamp l hi hworks hlast hsoon => ?_, fun s i stamp hi hworks hlast => ?_, fun s i hi hworks => ?_,
    fun s tick x hlock hinRun hx => ?_, fun s tick => ?_⟩
  · obtain ⟨t, hnext, h⟩ := timeStep_reaches hworks hrun hstep hcycle
    rw [stepTaken_allowed (d := dirStart s.dir) p (allArms_iff.mpr harms)] at h
    have hjump : t.dir.time = (modTime (jump (dirStart s.dir) delta) fun t =>
        { t with step := none, stepped := some p.cycle, steps := satInc t.steps }).time := by
      rw [h.time, decide_time, raise_time, hdelta]; rfl
    refine ⟨t, hnext, by rw [hjump]; rfl, by rw [hjump]; rfl, by rw [hjump]; rfl, by rw [cyc, hjump]; rfl, fun he => ?_⟩
    obtain ⟨e, hmem, hsource, hdetail, -⟩ := raise_decides (d := modTime (jump (dirStart s.dir) (stepDelta (dirStart s.dir) p)) fun t =>
      { t with step := none, stepped := some p.cycle, steps := satInc t.steps }) (he.of_eq rfl rfl) 0x01
      (b4 p.cycle.toNat ++ b8z (stepDelta (dirStart s.dir) p / nsFrac))
    exact ⟨e, by rw [h.ring, decide_ring]; exact hmem, hsource, hdetail⟩
  · obtain ⟨t, hnext, h⟩ := timeStep_reaches hworks hrun hstep hcycle
    have hbarred : stepAllowed (dirStart s.dir) = false :=
      Bool.eq_false_iff.mpr fun hall => Bool.eq_false_iff.mp hmode (allArms_iff.mp hall a ha)
    rw [stepTaken_barred p hbarred] at h
    refine ⟨t, hnext, by rw [h.time, decide_time, raise_time]; rfl, by rw [h.time, decide_time, raise_time]; rfl, fun he => ?_⟩
    rw [Decided, h.ring, decide_ring]
    exact raise_decides (d := modTime (dirStart s.dir) fun t => { t with step := none }) (he.of_eq rfl rfl) 0x02 (b4 p.cycle.toNat)
  · obtain ⟨t, hnext, hr⟩ := holdoverExpire_reaches hat hmode hlate
    have hne : (dirStart s.dir).time.mode ≠ .freeRun := fun e => by rw [show (dirStart s.dir).time.mode = .holdover from hmode] at e; cases e
    refine ⟨t, hnext, by rw [hr.time, setTimeMode_mode], ?_, fun he => ?_⟩
    · rw [hr.time]; exact now_of_steerless (d := dirStart s.dir) (setTimeMode_steerless ..)
    · rw [setTimeMode_of_ne hne, show (dirStart s.dir).time.mode = .holdover from hmode] at hr
      exact reached_decides hr he (by rw [modeSet, lightTrees_boot]; rfl) (by rw [modeSet, lightTrees_ring]; rfl)
  · obtain ⟨t, hnext, h⟩ := refOffset_reaches hat hsent hdue
    refine ⟨t, hnext, by rw [h.time, raise_time]; rfl, by rw [h.time, raise_time]; rfl, fun he => ?_⟩
    obtain ⟨e, hmem, hsource, hdetail, -⟩ := reached_decides h he rfl rfl
    exact ⟨e, hmem, hsource, hdetail⟩
  · obtain ⟨t, hnext, h⟩ := ppsInEdge_glitch hi hworks stamp hlast hsoon
    obtain ⟨at_, hpps⟩ := pps_glitched (dirStart s.dir) i (edgeAt s.dir i stamp)
    obtain ⟨hA, hB⟩ := glitched_doms (dirStart s.dir) i (edgeAt s.dir i stamp)
    have hinput : pps t.dir i = pps (glitched (dirStart s.dir) i (edgeAt s.dir i stamp)) i := h.get (pps · i) fun _ _ _ _ => rfl
    refine ⟨t, hnext, ?_, ?_, by rw [h.time]; exact hA, by rw [h.time]; exact hB⟩
    · rw [hinput, hpps]; rfl
    · rw [hinput, hpps]; exact hlast
  · obtain ⟨t, d, hnext, hd, h⟩ := ppsInEdge_taken hi hworks stamp hlast
    obtain ⟨hedge, hmisses, hglitch, hrun⟩ := edgeTaken_pps (dirStart s.dir) i (edgeAt s.dir i stamp) (edgeGood (pps s.dir i) (edgeAt s.dir i stamp))
    rw [← hd] at hedge hmisses hglitch hrun
    have hkept := foldl_ppsKept (fun d k => edgeHeard_ppsKept d i (edgeAt s.dir i stamp) (edgeGood (pps s.dir i) (edgeAt s.dir i stamp)) k) (ppsDom d i) d
    have hinput : pps t.dir i = pps _ i := h.get (pps · i) fun _ _ _ _ => rfl
    refine ⟨t, hnext, ?_, fun hr => ?_, ?_, ?_⟩
    · rw [hinput, hkept.edge, hedge]; rfl
    · rw [hinput, hkept.exact_ (hrun.trans hr), hedge]; rfl
    · rw [hinput, hkept.misses, hmisses]
    · rw [hinput, hkept.glitch, hglitch]; rfl
  · obtain ⟨t, hnext, h⟩ := ppsMiss_reaches hi hworks
    have hinput : pps t.dir i = missCounted (toFrac s.dir.time.now) (missReports s.dir i) (pps s.dir i) :=
      (h.get (pps · i) fun _ _ _ _ => rfl).trans (pps_ppsMissed ..)
    refine ⟨t, hnext, by rw [hinput]; rfl, by rw [hinput]; rfl, fun hmisses => ?_⟩
    rw [hinput]
    simp [missCounted, hmisses]
  · obtain ⟨t, hnext, h⟩ := ppsOutPulse_reaches s true tick
    rw [ppsOutSet_rise (d := dirStart s.dir) hlock hinRun hx] at h
    have hc : (dirStart s.dir).time.c = s.dir.time.c := rfl
    rw [hc] at h
    refine ⟨t, hnext, ?_⟩
    split at h
    · next hnear => rw [if_pos hnear, h.pins]; exact ⟨h.time, rfl⟩
    · next hfar => rw [if_neg hfar]; exact ⟨h.time, h.pins⟩
  · obtain ⟨t, hnext, h⟩ := ppsOutPulse_reaches s false tick
    rw [ppsOutSet_fall] at h
    exact ⟨t, hnext, by rw [h.pins], by rw [h.time]; rfl⟩

end Sys2Proof.Machine
end

section
/-! PROOF. Time marks, the twin servo, the silence of the trees, the own epoch and the preferred domain (R346, R348,
R354 to R356, R549, R550). -/

namespace Sys2Proof.Machine

theorem ite_keeps {β : Type} {view : Director → β} {x : β} {p : Prop} [Decidable p] {t u : Director} (h : view t = x) (h' : view u = x) :
    view (if p then t else u) = x := by
  split
  · exact h
  · exact h'

/-! Time marks sent -/

theorem sendSk_tx (d : Director) (lg : Nat) (code : BitVec 32) (seed : BitVec 31) (bytes : List Byte) :
    Tx.skeund lg code bytes (skLine code seed bytes) ∈ (sendSk d lg code seed bytes).tx := by
  simp [sendSk, send]

/-- What a time mark says of the twin's last mark, and of a step that is pending (R354). -/
def markPrev (d : Director) : Nat := match d.time.marksOwn.find? (·.1 + 1 = cyc d) with | some (_, _, some (r, _)) => r | _ => 0xFFFFFFFF

def markStep (d : Director) : Nat × Nat := match d.time.step with | some p => (1, fld p.cycle.toNat 27 0) | none => (0, 0)

/-- The 16 bytes of a time mark before its tag (R354). -/
def markBody (d : Director) : List Byte :=
  toBE 4 (cyc d).toNat ++ toBE 4 markTx ++ toBE 4 (markPrev d)
    ++ toBE 4 (timeCode d.time.mode * 2 ^ 29 + (markStep d).1 * 2 ^ 28 + (markStep d).2)

/-- A time mark: body, tag and CRC (R354, R369). -/
def markBytes (d : Director) (tag : Nat) : List Byte :=
  markBody d ++ toBE 8 tag ++ toBE 4 (crc32c (markBody d ++ toBE 8 tag))

theorem markBytes_length (d : Director) (tag : Nat) : (markBytes d tag).length = 28 := by
  simp [markBytes, markBody, toBE_length]

theorem beAt_markBytes (d : Director) (tag : Nat) : beAt (markBytes d tag) 0 4 = (cyc d).toNat := by
  have hlt := (cyc d).isLt
  rw [markBytes, markBody, List.append_assoc, List.append_assoc, List.append_assoc, List.append_assoc, beAt_toBE_append]
  exact Nat.mod_eq_of_lt (by omega)

/-- The director that has noted the departure of the mark of its cycle (R354). -/
def markNoted (d : Director) : Director :=
  if d.time.marksOwn.any (·.1 = cyc d) then d else modTime d fun t => { t with marksOwn := ((cyc d, markTx, none) :: t.marksOwn).take 4 }

theorem markNoted_now (d : Director) : (markNoted d).time.now = d.time.now := ite_keeps (view := (·.time.now)) rfl rfl

theorem timeMarkSend_reaches {s : State} {l : Nat} {r : List Nat} {k : Key} (hlanes : lanesInUse s.dir = l :: r) (hworks : works s.dir = true)
    (hactive : s.dir.sk.active = true) (hrun : s.dir.time.running = true) (hkey : skKeyAt s.dir (cyc s.dir) = some k) :
    ∃ t tag, exec .timeMarkSend s = .next t
      ∧ Reached s t (sendSk (markNoted (dirStart s.dir)) l 0x96695AA5 fixedSeed (markBytes (dirStart s.dir) tag)) := by
  have hlanes' : lanesInUse (dirStart s.dir) = l :: r := hlanes
  have hworks' : works (dirStart s.dir) = true := hworks
  have hactive' : (dirStart s.dir).sk.active = true := hactive
  have hrun' : (dirStart s.dir).time.running = true := hrun
  have hkey' : skKeyAt (dirStart s.dir) (cyc (dirStart s.dir)) = some k := hkey
  obtain ⟨tag, htag⟩ : ∃ tag, markTag (dirStart s.dir) (sideNum (dirStart s.dir)) l (cyc (dirStart s.dir)) (markBody (dirStart s.dir)) = some tag := by
    rw [markTag, hkey']
    exact ⟨_, rfl⟩
  refine (onDir_reaches (o := execTimeMarkSend s) rfl ?_).imp fun t h => ⟨tag, h⟩
  simp only [hlanes', hworks', hactive', hrun', Bool.not_true, Bool.or_self, Bool.false_eq_true, if_false]
  split
  · next tag' htag' =>
    cases htag.symm.trans htag'
    rfl
  · next hnone => cases htag.symm.trans hnone


/-! Time marks received -/

/-- What a mark of the twin says of its state and of its steps (R354). -/
def markHeard (d : Director) (w : Nat) : Director :=
  modTime d fun t => { t with twinState := timeOf (fld w 31 29), twinStep := if bit w 28 then some (fld w 27 0) else none, twinSeen := true }

/-- The first time a director takes from its twin (R351, R357). -/
def firstTime (d : Director) (fresh : Nat) (st : TimeMode) : Director :=
  if d.time.mode = .unqualified && st != .unqualified then
    let d := modTime d fun t =>
      let now := ofFrac ((Config.freeValue fresh 0).toNat * 65536)
      let t := rebase { t with now := now } (toFrac (now - t.now))
      { t with source := if follower d then .twin else .none_, holdAt := if follower d then none else some now }
    setTimeMode d .acquiring
  else d

/-- The arrival of a mark, kept with the own mark of its cycle (R354). -/
def markKept (d : Director) (c : Cycle) (arrival twinTx : Nat) : Director :=
  modTime d fun t => { t with marksOwn := if t.marksOwn.any (·.1 = c) then t.marksOwn.map fun (k, x, r) => if k = c then (k, x, some (arrival, twinTx)) else (k, x, r)
                                          else ((c, markTx, some (arrival, twinTx)) :: t.marksOwn).take 4 }

/-- The twin's lead of the cycle before (R355). -/
def leadNoted (d : Director) (c : Cycle) (twinRx : Nat) : Director :=
  match d.time.marksOwn.find? (·.1 + 1 = c) with
  | some (k, tx, some (rx, twinTx)) =>
    if twinRx = 0xFFFFFFFF then d else
    let sk := parmZ (timeS (cfg d)) 26 0 0
    let e2 : Int := ((rx : Int) - twinTx) - ((twinRx : Int) - tx) + (if sideNum d = 0 then sk else -sk)
    modTime d fun t => { t with eps := ((k, e2) :: t.eps).take 16 }
  | _ => d

/-- A step announced by the lead (R356). -/
def stepHeard (d : Director) (fresh : Nat) : Director :=
  match d.time.twinStep with
  | some lo =>
    let k := (List.range 64).find? fun j => fld (addCyc (cyc d) j).toNat 27 0 = lo
    match k with
    | some j =>
      if d.time.source = .twin && 1 ≤ j && d.time.step.isNone then
        modTime d fun t => { t with step := some { cycle := addCyc t.cycle j, delta := signed 64 (Config.freeValue fresh 1).toNat, target := none, mb := none } }
      else d
    | none => d
  | none => d

/-- A valid mark, step by step. -/
theorem markIn_eq (d : Director) (fresh : Nat) (body : List Byte) (arrival : Nat) : ∃ e, markIn d fresh body arrival = reSource e e.time.now
    ∧ e = stepHeard (leadNoted (markKept (epochCheck (firstTime (markHeard d (beAt body 12 4)) fresh (timeOf (fld (beAt body 12 4) 31 29)))
      (BitVec.ofNat 32 (beAt body 0 4))) (BitVec.ofNat 32 (beAt body 0 4)) arrival (beAt body 4 4)) (BitVec.ofNat 32 (beAt body 0 4)) (beAt body 8 4)) fresh :=
  ⟨_, rfl, rfl⟩

/-- What a mark sets and nothing after it in the same row changes. -/
def markView (d : Director) : Bool × TimeMode × Skeund := (d.time.twinSeen, d.time.twinState, d.sk)

theorem markView_of_steerless {t d : Director} (h : steerless t = steerless d) : markView t = markView d :=
  view_of_steerless h markView fun _ => rfl

theorem firstTime_markView (d : Director) (fresh : Nat) (st : TimeMode) : markView (firstTime d fresh st) = markView d :=
  ite_keeps ((markView_of_steerless (setTimeMode_steerless ..)).trans rfl) rfl

theorem darken_markView (d : Director) (n : Nat) : markView (darken d n) = markView d := ite_keeps rfl rfl

theorem darkTrees_markView (d : Director) : markView (darkTrees d) = markView d := foldl_keeps darken_markView _ d

theorem adoptEpoch_markView (d : Director) (c : Cycle) : markView (adoptEpoch d c) = markView d := rfl

theorem silenceTrees_markView (d : Director) : markView (silenceTrees d) = markView d := darkTrees_markView d

theorem epochCheck_markView (d : Director) (c : Cycle) : markView (epochCheck d c) = markView d := by
  have hsilent : markView (modTime (silenceTrees (adoptEpoch d c)) fun t => { t with silentTo := some (t.starts + 64), mismatch := false }) = markView d :=
    (silenceTrees_markView (adoptEpoch d c)).trans (adoptEpoch_markView d c)
  unfold epochCheck
  exact ite_keeps rfl (ite_keeps (ite_keeps rfl rfl) (ite_keeps rfl (ite_keeps hsilent (ite_keeps rfl
    ((markView_of_steerless (raise_steerless ..)).trans rfl)))))

theorem leadNoted_markView (d : Director) (c : Cycle) (twinRx : Nat) : markView (leadNoted d c twinRx) = markView d := by
  unfold leadNoted
  split
  · exact ite_keeps rfl rfl
  · rfl

theorem stepHeard_markView (d : Director) (fresh : Nat) : markView (stepHeard d fresh) = markView d := by
  unfold stepHeard
  split
  · dsimp only
    split
    · exact ite_keeps rfl rfl
    · rfl
  · rfl

theorem markIn_markView (d : Director) (fresh : Nat) (body : List Byte) (arrival : Nat) :
    markView (markIn d fresh body arrival) = (true, timeOf (fld (beAt body 12 4) 31 29), d.sk) := by
  obtain ⟨e, hrun, he⟩ := markIn_eq d fresh body arrival
  rw [hrun, markView_of_steerless (reSource_steerless e _), he, stepHeard_markView, leadNoted_markView]
  exact (epochCheck_markView ..).trans (firstTime_markView ..)

section
variable {s : State} {l : Nat} {f : SkFrame} (hl : l < 4) (hworks : works s.dir = true) (hactive : s.dir.sk.active = true)
  (htype : f.typeCode = 0x96695AA5) (hown : s.dir.sk.ownOk.getLsbD (physLane s.dir l) = true)
include hl hworks hactive htype hown

/-- A frame of the mark type on a lane that carries traffic is looked at (R354, R383). -/
theorem timeMarkReceive_reaches {d : Director}
    (hd : (if f.violation || decide (f.bytes.length ≠ 28) || decide (crc32c (f.bytes.take 24) ≠ beAt f.bytes 24 4) then
        modLane (dirStart s.dir) l fun x => { x with crcFail := satInc x.crcFail, crcRun := x.crcRun + 1 }
      else
        let e := modLane (dirStart s.dir) l fun x => { x with crcRun := 0 }
        if markTag e (1 - sideNum e) (physLane s.dir l) (BitVec.ofNat 32 (beAt (f.bytes.take 16) 0 4)) (f.bytes.take 16)
            = some (beAt f.bytes 16 8) then
          if (lanesInUse e).head? = some (physLane s.dir l) then markIn e s.fresh (f.bytes.take 16) f.arrival.toNat else e
        else
          let e := modLane e l fun x => { x with tagFail := satInc x.tagFail }
          if e.sec.skKey.isNone then e else raiseLim e (limKey (52 + l) 4 0) (52 + l) 0x04 (b4 (lane e l).tagFail.toNat)) = d) :
    ∃ t, exec (.timeMarkReceive l f) s = .next t ∧ Reached s t d := by
  have hworks' : works (dirStart s.dir) = true := hworks
  have hactive' : (dirStart s.dir).sk.active = true := hactive
  have hown' : (dirStart s.dir).sk.ownOk.getLsbD (physLane (dirStart s.dir) l) = true := hown
  refine unit_reaches (o := execTimeMarkReceive l f s) rfl (decide_eq_true hl) ?_
  rw [← hd]
  simp only [hworks', hactive', hown', htype, ne_eq, not_true_eq_false, decide_false, Bool.not_true, Bool.or_self, Bool.false_eq_true, if_false]
  rfl

theorem timeMarkReceive_bad (hbad : f.violation = true ∨ f.bytes.length ≠ 28 ∨ crc32c (f.bytes.take 24) ≠ beAt f.bytes 24 4) :
    ∃ t, exec (.timeMarkReceive l f) s = .next t
      ∧ Reached s t (modLane (dirStart s.dir) l fun x => { x with crcFail := satInc x.crcFail, crcRun := x.crcRun + 1 }) := by
  refine timeMarkReceive_reaches hl hworks hactive htype hown (if_pos ?_)
  simpa [or_assoc] using hbad

theorem timeMarkReceive_good {r : List Nat} (hclean : f.violation = false) (hlen : f.bytes.length = 28)
    (hcrc : crc32c (f.bytes.take 24) = beAt f.bytes 24 4) (hlanes : lanesInUse s.dir = physLane s.dir l :: r)
    (htag : markTag s.dir (1 - sideNum s.dir) (physLane s.dir l) (BitVec.ofNat 32 (beAt (f.bytes.take 16) 0 4)) (f.bytes.take 16)
      = some (beAt f.bytes 16 8)) :
    ∃ t, exec (.timeMarkReceive l f) s = .next t
      ∧ Reached s t (markIn (modLane (dirStart s.dir) l fun x => { x with crcRun := 0 }) s.fresh (f.bytes.take 16) f.arrival.toNat) := by
  refine timeMarkReceive_reaches hl hworks hactive htype hown ((if_neg ?_).trans ((if_pos htag).trans (if_pos ?_)))
  · simp [hclean, hlen, hcrc]
  · exact congrArg List.head? hlanes


end

/-! The twin servo -/

theorem freqLim_nonneg (d : Director) : 0 ≤ freqLim d := by
  unfold freqLim
  dsimp only
  split
  · exact le_min (by positivity) (by positivity)
  · positivity

theorem clampInt_within {lo hi : Int} (h : lo ≤ hi) (i : Int) : lo ≤ clampInt lo hi i ∧ clampInt lo hi i ≤ hi := by
  unfold clampInt
  split
  · exact ⟨le_rfl, h⟩
  · split
    · exact ⟨h, le_rfl⟩
    · constructor <;> omega

theorem twinUsable_congr {t d : Director} (hboot : t.boot = d.boot) (hcfg : t.cfg = d.cfg) (hsk : t.sk = d.sk)
    (hstate : t.time.twinState = d.time.twinState) (heps : t.time.eps = d.time.eps) (hcyc : cyc t = cyc d) : twinUsable t = twinUsable d := by
  unfold twinUsable follower compared cfg sideNum
  rw [hboot, hcfg, hsk, hstate, heps, hcyc]

/-- With a twin it can use, a director that follows its twin goes on following it (R348, R356). -/
theorem reSource_twin {d : Director} (hsource : d.time.source = .twin) (husable : twinUsable d = true) (at_ : Int) :
    reSource d at_ = setTimeMode d (sourceState d) := by
  have hchoice : chooseSource d at_ = .twin := if_pos husable
  unfold reSource
  simp only [hchoice, hsource, if_true, ite_self]


section
variable {β : Type} {view : TimeState → β}

theorem setEpoch_view (hview : ∀ t m e o, view { t with mode := m, epoch := e, treesOff := o } = view t) (t : TimeState) : view (setEpoch t) = view t := by
  unfold setEpoch
  split
  · rfl
  · exact hview t t.mode _ t.treesOff

/-- A change of mode touches of the time state the mode, the epoch and the silence of the trees alone (R350). -/
theorem setTimeMode_view (hview : ∀ t m e o, view { t with mode := m, epoch := e, treesOff := o } = view t) (d : Director) (m : TimeMode) :
    view (setTimeMode d m).time = view d.time := by
  by_cases h : d.time.mode = m
  · rw [setTimeMode_of_eq h]
  · rw [setTimeMode_of_ne h, raise_time, modeSet, lightTrees_time, modTime_time]
    dsimp only
    split
    · exact (setEpoch_view hview _).trans (hview d.time m d.time.epoch false)
    · exact hview d.time m d.time.epoch d.time.treesOff

end

/-- The twin's lead as a correction, and the two terms that the follower's servo makes of it (R356). -/
def twinLead (d : Director) : Int := (leadSum d).1 * 1953125 * 2 ^ 31 / ((leadSum d).2 * planN (cfg d))
def twinIntegral (d : Director) : Int := (dom d 0).integ - twinLead d / 8
def twinProp (d : Director) : Int := -clampInt (-(tp d 10 0 10000 * ppb)) (tp d 10 0 10000 * ppb) (twinLead d / 2)

/-- The terms and the correction of a run of the follower's servo (R356). -/
def twinSet (d : Director) (i p c : Int) : Director := commitC (setI (modTime d fun t => { t with prop := p }) i) c

def twinServed (d : Director) : Director :=
  twinSet d (twinIntegral d) (twinProp d) (clampInt (-(freqLim d)) (freqLim d) (twinIntegral d + twinProp d))

theorem noteRef_keeps {β : Type} {view : TimeState → β} (hview : ∀ t a b, view { t with refAt := a, refSent := b } = view t) (d : Director) (at_ : Int) :
    view (noteRef d at_).time = view d.time := by
  unfold noteRef
  rw [modTime_time]
  split
  · exact hview d.time _ d.time.refSent
  · exact hview d.time none false

section
variable {s : State} (hworks : works s.dir = true) (hsource : s.dir.time.source = .twin) (husable : twinUsable s.dir = true)
  (hsome : s.dir.time.eps ≠ [])
include hworks hsource husable hsome

/-- TWIN_SERVO_UPDATE of a director that follows a usable twin: a step for a large lead, else a run of the servo. -/
theorem twinServoUpdate_reaches : ∃ t, exec .twinServoUpdate s = .next t ∧ Reached s t
    (if 80000 * (leadSum s.dir).2 < (leadSum s.dir).1.natAbs && stepAllowed s.dir then
        askStep (dirStart s.dir) (-((leadSum s.dir).1 * 4096 / (5 * ((leadSum s.dir).2 : Int))))
      else reSource (noteRef (twinServed (dirStart s.dir)) (twinServed (dirStart s.dir)).time.now) (twinServed (dirStart s.dir)).time.now) := by
  have hworks' : works (dirStart s.dir) = true := hworks
  have hsource' : (dirStart s.dir).time.source = .twin := hsource
  have husable' : twinUsable (dirStart s.dir) = true := husable
  have hn : (leadSum (dirStart s.dir)).2 ≠ 0 := fun h => hsome (List.length_eq_zero_iff.mp h)
  refine onDir_reaches (o := execTwinServoUpdate s) rfl ?_
  simp only [hworks', hsource', husable', hn, ne_eq, not_true_eq_false, decide_false, Bool.not_true, Bool.or_self, Bool.false_eq_true, if_false]
  rfl

end

section
variable (d : Director) (i p c at_ : Int)

theorem twinSet_time : (noteRef (twinSet d i p c) at_).time.source = d.time.source ∧ (noteRef (twinSet d i p c) at_).time.now = d.time.now
    ∧ (noteRef (twinSet d i p c) at_).time.cPend = some c :=
  ⟨noteRef_keeps (view := (·.source)) (fun _ _ _ => rfl) _ _, noteRef_keeps (view := (·.now)) (fun _ _ _ => rfl) _ _,
    noteRef_keeps (view := (·.cPend)) (fun _ _ _ => rfl) _ _⟩

theorem twinUsable_noteRef : twinUsable (noteRef d at_) = twinUsable d := by
  have hcycle : (noteRef d at_).time.cycle = d.time.cycle := noteRef_keeps (view := (·.cycle)) (fun _ _ _ => rfl) _ _
  exact twinUsable_congr rfl rfl rfl (noteRef_keeps (view := (·.twinState)) (fun _ _ _ => rfl) _ _)
    (noteRef_keeps (view := (·.eps)) (fun _ _ _ => rfl) _ _) hcycle

theorem twinUsable_twinSet : twinUsable (twinSet d i p c) = twinUsable d := rfl

end

theorem askStep_pending {d : Director} (hrun : d.time.running = true) (hstep : d.time.step = none) (delta : Int) :
    askStep d delta = modTime d fun t => { t with step := some { cycle := t.cycle + 2, delta := delta, target := none, mb := none } } := by
  simp [askStep, hrun, hstep]

/-! Tree silence, the own epoch and the preferred domain -/

theorem treeSilenceEnd_reaches {s : State} {k : Nat} (hsilent : s.dir.time.silentTo = some k) (hdue : k ≤ s.dir.time.starts) :
    ∃ t, exec .treeSilenceEnd s = .next t ∧ Reached s t (lightTrees (modTime (dirStart s.dir) fun t => { t with silentTo := none })) := by
  have hsilent' : (dirStart s.dir).time.silentTo = some k := hsilent
  refine onDir_reaches (o := execTreeSilenceEnd s) rfl ?_
  simp only [hsilent']
  exact if_pos hdue

theorem startStream_stream (d : Director) (n m : Nat) :
    (port (startStream d n) m).stream.isSome = (decide (m = n) || (port d m).stream.isSome) := by
  unfold startStream
  by_cases h : m = n
  · subst h; rw [port_modPort]; simp
  · rw [port_modPort_other _ h, decide_eq_false h, Bool.false_or]; rfl

theorem startStreams_stream (l : List Nat) (d : Director) (m : Nat) :
    (port (l.foldl startStream d) m).stream.isSome = (decide (m ∈ l) || (port d m).stream.isSome) := by
  induction l generalizing d with
  | nil => simp
  | cons n r ih => rw [List.foldl_cons, ih, startStream_stream]; by_cases h : m = n <;> simp [h]

/-- Lighting the trees starts the stream of every port of the part that may carry one (R68). -/
theorem lightTrees_stream {d : Director} (hlit : treesLit d = true) {n : Nat} (hn : n ∈ ports (part d)) (htest : (port d n).prbs.testMode = false) :
    (port (lightTrees d) n).stream.isSome = true := by
  rw [lightTrees, startStreams_stream]
  cases h : (port d n).stream.isSome with
  | true => exact Bool.or_true _
  | false =>
    have hnone : (port d n).stream.isNone = true := by simpa using h
    simp [hn, hlit, hnone, htest]

theorem skeundEpochTimeout_reaches {s : State} (hworks : works s.dir = true) (hactive : s.dir.sk.active = false)
    (hsending : s.dir.time.sending = false) (hdue : s.dir.time.ownFrom + 12500000000 < s.dir.time.raw) :
    ∃ t, exec .skeundEpochTimeout s = .next t ∧ Reached s t (modTime (dirStart s.dir) fun t => { t with ownEpoch := true }) := by
  have hworks' : works (dirStart s.dir) = true := hworks
  have hactive' : (dirStart s.dir).sk.active = false := hactive
  have hsending' : (dirStart s.dir).time.sending = false := hsending
  refine onDir_reaches (o := execSkeundEpochTimeout s) rfl (if_pos ?_)
  simp only [hworks', hactive', hsending', Bool.not_false, Bool.and_self, Bool.true_and, decide_eq_true_eq]
  exact hdue

theorem preferredDomainReturn_reaches {s : State} (hworks : works s.dir = true) :
    ∃ t, exec .preferredDomainReturn s = .next t ∧ Reached s t (reSource (dirStart s.dir) s.dir.time.now) :=
  onDir_reaches (o := execPreferredDomainReturn s) rfl (if_pos hworks)

theorem srcOf_other (p : Nat) : srcOf (1 - p) ≠ srcOf p := by
  unfold srcOf
  rcases p with _ | p <;> simp

theorem srcOf_ne_none (p : Nat) : srcOf p ≠ .none_ := by
  unfold srcOf
  split <;> simp

/-- The preferred domain, locked for 60 s, is chosen before the other (R348). -/
theorem chooseSource_preferred {d : Director} {at_ x : Int} (husable : twinUsable d = false) (hmode : (dom d (tp d 2 0 0)).mode = .locked)
    (hlocked : (dom d (tp d 2 0 0)).lockedAt = some x) (hlong : x + 60 * secUnit ≤ at_) : chooseSource d at_ = srcOf (tp d 2 0 0) := by
  unfold chooseSource
  dsimp only
  rw [if_neg (by rw [husable]; simp), if_pos]
  rw [hmode, hlocked]
  simp [hlong]

/-- The state of a time that a locked domain controls is LOCKED (R350). -/
theorem sourceState_locked {d : Director} {p : Nat} (hsource : d.time.source = srcOf p) (hmode : (dom d p).mode = .locked) :
    sourceState d = .locked := by
  unfold sourceState
  rw [hsource]
  by_cases hp : p = 0
  · subst hp; simp [srcOf, srcDom, hmode]
  · have h1 : dom d 1 = dom d p := by simp [dom, hp]
    simp [srcOf, srcDom, hp, h1, hmode]

/-- The director under a new controlling source, before its event (R348, R349). -/
def switched (d : Director) (p : Nat) : Director :=
  modTime (setI d d.time.c) fun t => { t with source := srcOf p, prop := 0, holdAt := none, switches := satInc t.switches }

theorem reSource_switches {d : Director} {at_ : Int} {p : Nat} (hmode : d.time.mode ≠ .unqualified) (hchoice : chooseSource d at_ = srcOf p)
    (hold : d.time.source ≠ srcOf p) : ∃ data, reSource d at_ =
      setTimeMode (raise (switched d p) 68 0x03 data) (sourceState (raise (switched d p) 68 0x03 data)) := by
  unfold reSource
  simp only [hchoice, hmode, hold.symm, srcOf_ne_none, if_false]
  exact ⟨_, rfl⟩

/-- Settles O42: each row reaches the director of its named operation, of which the lemmas above say what it keeps. -/
theorem timeMarksAndEpochs : Obligations.TimeMarksAndEpochs := by
  unfold Obligations.TimeMarksAndEpochs
  refine ⟨⟨fun s l r k hlanes hworks hactive hrun hkey => ?_, fun s l f hl hworks hactive htype hown hbad => ?_,
      fun s l f r hl hworks hactive htype hown hclean hlen hcrc hlanes htag => ?_⟩,
    fun s hworks hsource husable hsome hsmall => ?_, fun s hworks hsource husable hsome hrun hlarge harms hstep => ?_,
    fun s k hsilent hdue => ?_, fun s hworks hactive hsending hdue => ?_,
    fun s p x hworks hmode husable hp hdom hlocked hlong hsource => ?_⟩
  · obtain ⟨t, tag, hnext, h⟩ := timeMarkSend_reaches hlanes hworks hactive hrun hkey
    obtain ⟨x, hx⟩ := h.tx
    refine ⟨t, _, skLine 0x96695AA5 fixedSeed (markBytes (dirStart s.dir) tag), hnext, ?_, markBytes_length (dirStart s.dir) tag,
      beAt_markBytes (dirStart s.dir) tag, ?_⟩
    · rw [hx]; exact List.mem_append_left _ (sendSk_tx ..)
    · rw [h.time]; exact markNoted_now (dirStart s.dir)
  · obtain ⟨t, hnext, h⟩ := timeMarkReceive_bad hl hworks hactive htype hown hbad
    have hlane := (h.lane l).trans (lane_modLane ..)
    exact ⟨t, hnext, by rw [hlane]; rfl, h.time⟩
  · obtain ⟨t, hnext, h⟩ := timeMarkReceive_good hl hworks hactive htype hown hclean hlen hcrc hlanes htag
    have hview := markIn_markView (modLane (dirStart s.dir) l fun x => { x with crcRun := 0 }) s.fresh (f.bytes.take 16) f.arrival.toNat
    rw [markView, ← h.time, ← h.sk] at hview
    obtain ⟨hseen, hrest⟩ := Prod.ext_iff.mp hview
    obtain ⟨hstate, hsk⟩ := Prod.ext_iff.mp hrest
    refine ⟨t, hnext, hseen, hstate, ?_⟩
    rw [lane, show t.dir.sk = _ from hsk]
    exact congrArg Lane.crcRun (lane_modLane (dirStart s.dir) l fun x => { x with crcRun := 0 })
  · obtain ⟨t, hnext, h⟩ := twinServoUpdate_reaches hworks hsource husable hsome
    rw [if_neg (by simp [hsmall]), twinServed] at h
    generalize (twinSet (dirStart s.dir) _ _ _).time.now = at_ at h
    obtain ⟨hkept, hnow, hpend⟩ := twinSet_time (dirStart s.dir) (twinIntegral (dirStart s.dir)) (twinProp (dirStart s.dir))
      (clampInt (-(freqLim s.dir)) (freqLim s.dir) (twinIntegral (dirStart s.dir) + twinProp (dirStart s.dir))) at_
    replace h := reSource_twin (hkept.trans hsource) ((twinUsable_noteRef ..).trans ((twinUsable_twinSet ..).trans husable)) at_ ▸ h
    obtain ⟨hlow, hhigh⟩ := clampInt_within (neg_le_self (freqLim_nonneg s.dir)) (twinIntegral (dirStart s.dir) + twinProp (dirStart s.dir))
    refine ⟨t, _, hnext, ?_, hlow, hhigh, ?_, ?_⟩
    · rw [h.time, setTimeMode_view (view := (·.cPend)) (fun _ _ _ _ => rfl)]; exact hpend
    · rw [h.time, setTimeMode_view (view := (·.now)) (fun _ _ _ _ => rfl)]; exact hnow
    · rw [h.time, setTimeMode_view (view := (·.source)) (fun _ _ _ _ => rfl)]; exact hkept.trans hsource
  · obtain ⟨t, hnext, h⟩ := twinServoUpdate_reaches hworks hsource husable hsome
    have hallowed : stepAllowed s.dir = true := allArms_iff.mpr harms
    rw [if_pos (by simp [hlarge, hallowed]), askStep_pending (d := dirStart s.dir) hrun hstep] at h
    exact ⟨t, _, hnext, by rw [h.time]; rfl, rfl, rfl, rfl, by rw [h.time]; rfl⟩
  · obtain ⟨t, hnext, h⟩ := treeSilenceEnd_reaches hsilent hdue
    refine ⟨t, hnext, by rw [h.time, lightTrees_time]; rfl, by rw [cyc, h.time, lightTrees_time]; rfl, fun hworks hlit n hn htest => ?_⟩
    obtain ⟨⟨hrun, hfrz⟩, hlock⟩ : (inRun s.dir = true ∧ s.dir.frz.frozen = false) ∧ s.dir.time.pllLock = true := by simpa [works] using hworks
    rw [h.port]
    refine lightTrees_stream (d := modTime (dirStart s.dir) fun t => { t with silentTo := none }) ?_ hn htest
    change ((decide (s.dir.boot.state = .released) || inRun s.dir) && !s.dir.frz.frozen && s.dir.time.pllLock && !s.dir.time.treesOff && true) = true
    rw [hrun, hfrz, hlock, hlit, Bool.or_true]
    rfl
  · obtain ⟨t, hnext, h⟩ := skeundEpochTimeout_reaches hworks hactive hsending hdue
    exact ⟨t, hnext, by rw [h.time]; rfl, by rw [cyc, h.time]; rfl⟩
  · obtain ⟨t, hnext, h⟩ := preferredDomainReturn_reaches hworks
    subst hp
    have hchoice : chooseSource (dirStart s.dir) s.dir.time.now = srcOf (tp s.dir 2 0 0) :=
      chooseSource_preferred (d := dirStart s.dir) husable hdom hlocked hlong
    have hold : (dirStart s.dir).time.source ≠ srcOf (tp s.dir 2 0 0) := fun e => srcOf_other (tp s.dir 2 0 0) (hsource.symm.trans e)
    obtain ⟨data, hre⟩ := reSource_switches (d := dirStart s.dir) hmode hchoice hold
    have htime : (raise (switched (dirStart s.dir) (tp s.dir 2 0 0)) 68 0x03 data).time = (switched (dirStart s.dir) (tp s.dir 2 0 0)).time :=
      raise_time ..
    have hsrc := (congrArg TimeState.source htime).trans (rfl : _ = srcOf (tp s.dir 2 0 0))
    have hdom' : (dom (raise (switched (dirStart s.dir) (tp s.dir 2 0 0)) 68 0x03 data) (tp s.dir 2 0 0)).mode = .locked := by
      have hkept : (dom (switched (dirStart s.dir) (tp s.dir 2 0 0)) (tp s.dir 2 0 0)).mode = (dom s.dir (tp s.dir 2 0 0)).mode := by
        unfold dom; split <;> rfl
      rw [dom, htime, ← dom, hkept, hdom]
    rw [hre, sourceState_locked hsrc hdom'] at h
    refine ⟨t, hnext, ?_, ?_, by rw [h.time, setTimeMode_mode]⟩
    · rw [h.time, setTimeMode_view (view := (·.source)) (fun _ _ _ _ => rfl), hsrc]
    · rw [h.time, setTimeMode_view (view := (·.switches)) (fun _ _ _ _ => rfl), htime]; rfl

end Sys2Proof.Machine
end

section
/-! PROOF. A Sync that two domains take (R343, R345, R351). -/

namespace Sys2Proof.Machine

/-- Both domains are bound to TP0 under one domain number. Domain 0 has no baseline; domain 1 awaits the second offset of
its own. Converter time is UNQUALIFIED and no cycle numbers run. -/
def twoDomains : State :=
  { State.reset with
    dir := { State.reset.dir with
      boot := { State.reset.dir.boot with state := .run }
      cfg := { parsed := [(secKey 0x04 0, [{ pid := 4, elem := 0, data := [0, 0, 0, 0] }, { pid := 6, elem := 0, data := [3, 0, 0, 0] }])] }
      time := { State.reset.dir.time with
        pllLock := true
        tp0 := { up := true, delays := [0] }
        domA := { mode := .acquiring, port := some 0 }
        domB := { mode := .acquiring, port := some 0, base := [(1, 0)] } } } }

/-- A Sync whose offset is 2^-16 ns at every domain of TP0. -/
def oneSync : SyncMsg := { domain := 0, wellFormed := true, origin := 0, corr := -Config.linkDelay [0], t2 := 1 }

theorem theta_of_corr (l : Int) : (1 : Int) - (0 + -l + l + 0) = 1 := by omega

/-- A Sync as a domain of a port takes it (R343). -/
def syncHeard (d : Director) (i : Nat) : Director :=
  offsetIn (modDom d i fun x => { x with syncRx := satInc x.syncRx }) i (1 - (0 + -Config.linkDelay [0] + Config.linkDelay [0] + 0)) (ofFrac 1)

theorem twoDomains_sync : ∃ t, exec (.ptpSyncReceive 0 oneSync) twoDomains = .next t
    ∧ Reached twoDomains t (syncHeard (syncHeard (dirStart twoDomains.dir) 0) 1) := by
  refine unit_reaches (o := execPtpSyncReceive 0 oneSync twoDomains) rfl rfl ?_
  rfl

/-- The offset of domain 1 steps converter time, and with it the baseline that domain 0 has just begun (R351). -/
theorem syncHeard_base : ((dom (syncHeard (syncHeard (dirStart twoDomains.dir) 0) 1) 0).base.map Prod.fst) = [0] := by
  unfold syncHeard
  rw [theta_of_corr]
  decide +kernel

/-- Refutes O43: where the second domain of a port takes the Sync too and steps converter time, the baseline of the first,
begun by the same Sync, moves with it. -/
theorem not_ptpAndPeerDelay : ¬ Obligations.PtpAndPeerDelay := by
  unfold Obligations.PtpAndPeerDelay
  rintro ⟨⟨-, hsync, -⟩, -⟩
  obtain ⟨t, hnext, -, hbase⟩ := hsync twoDomains 0 oneSync 0 (by decide) (by decide) rfl rfl rfl rfl rfl rfl rfl (by decide) (.inl rfl)
  obtain ⟨u, hnext', h⟩ := twoDomains_sync
  obtain rfl : t = u := by injection hnext.symm.trans hnext'
  have hfirst : (dom t.dir 0).base.map Prod.fst = [0] := by
    rw [dom, h.time]
    exact syncHeard_base
  rw [hbase (by decide) rfl rfl] at hfirst
  have htheta : (1 : Int) - (0 + -Config.linkDelay [0] + Config.linkDelay [0] + 0) = 0 := (List.cons.inj hfirst).1
  rw [theta_of_corr] at htheta
  exact absurd htheta (by decide)

end Sys2Proof.Machine
end

section
/-! PROOF. The root PLL and its reference: loss and return (R361, R362). -/

namespace Sys2Proof.Machine

/-! The clocks stop -/

theorem darken_rcd (d : Director) (n : Nat) : (darken d n).rcd = d.rcd := ite_keeps (view := Director.rcd) rfl rfl
theorem darken_time (d : Director) (n : Nat) : (darken d n).time = d.time := ite_keeps (view := Director.time) rfl rfl
theorem darkTrees_rcd (d : Director) : (darkTrees d).rcd = d.rcd := foldl_keeps (view := Director.rcd) (f := darken) darken_rcd _ d
theorem darkTrees_time (d : Director) : (darkTrees d).time = d.time := foldl_keeps (view := Director.time) (f := darken) darken_time _ d
theorem darkLanes_rcd (d : Director) : (darkLanes d).rcd = d.rcd := ite_keeps (view := Director.rcd) rfl rfl
theorem darkLanes_time (d : Director) : (darkLanes d).time = d.time := ite_keeps (view := Director.time) rfl rfl

theorem recStopped_time (d : Director) : (recStopped d).time = d.time := ite_keeps (view := Director.time) rfl (raise_time ..)

theorem recStopped_mode (d : Director) : (recStopped d).rcd.mode = .stopped := by
  unfold recStopped
  split
  · next h => exact h
  · rw [raise_rcd]; rfl

theorem abandonSeg_time (d : Director) : (abandonSeg d).time = d.time := by
  unfold abandonSeg
  refine ite_keeps (view := Director.time) rfl ((recStopped_time _).trans ?_)
  split <;> rfl

theorem abandonSeg_mode (d : Director) : (abandonSeg d).rcd.mode = .stopped := by
  unfold abandonSeg
  split
  · next h => exact h
  · exact recStopped_mode _

theorem clocksStop_rcd (d : Director) : (clocksStop d).rcd.mode = .stopped := by
  have h : (clocksStop d).rcd = (darkLanes (darkTrees (abandonSeg (modTime d fun t => { t with pllLock := false, treesOff := true })))).rcd := rfl
  rw [h, darkLanes_rcd, darkTrees_rcd, abandonSeg_mode]

theorem clocksStop_time (d : Director) : (clocksStop d).time = { d.time with pllLock := false, treesOff := true } := by
  have h : (clocksStop d).time = (darkLanes (darkTrees (abandonSeg (modTime d fun t => { t with pllLock := false, treesOff := true })))).time := rfl
  rw [h, darkLanes_time, darkTrees_time, abandonSeg_time, modTime_time]

theorem tget_map {β : Type} (f : β → β) (x : β) (k : Nat) (t : Table β) :
    tget (f x) k (t.map fun (n, v) => (n, f v)) = f (tget x k t) := by
  induction t with
  | nil => rfl
  | cons p r ih =>
    rw [List.map_cons, tget, tget]
    split
    · rfl
    · exact ih

/-- No frame waits on any port once the clocks have stopped (R361). -/
theorem clocksStop_frame (d : Director) (n : Nat) : (port (clocksStop d) n).frame = none :=
  congrArg Port.frame (tget_map (fun p : Port => { p with frame := none, subs := [], joinOpen := none }) {} n _)

/-! The lock and the reference -/

theorem rootPllUnlock_reaches {s : State} (hlock : s.dir.time.pllLock = true) : ∃ t, exec .rootPllUnlock s = .next t
    ∧ Reached s t (clocksStop (modTime (dirStart s.dir) fun t => { t with oweUnlock := true, rootUnlock := satInc t.rootUnlock })) :=
  onDir_reaches (o := execRootPllUnlock s) rfl (if_neg (by rw [show (dirStart s.dir).time.pllLock = true from hlock]; simp))

/-- The director that has lost its reference (R361). -/
def refLost (d : Director) : Director :=
  modTime d fun t => { t with refOk := false, oweRefLoss := true, refLoss := satInc t.refLoss }

theorem refLoss_reaches {s : State} (href : s.dir.time.refOk = true) : ∃ t, exec .refLoss s = .next t
    ∧ Reached s t (if s.dir.time.pllLock then clocksStop (refLost (dirStart s.dir)) else refLost (dirStart s.dir)) :=
  onDir_reaches (o := execRefLoss s) rfl (if_neg (by rw [show (dirStart s.dir).time.refOk = true from href]; simp))

theorem refReturn_reaches (s : State) :
    ∃ t, exec .refReturn s = .next t ∧ Reached s t (modTime (dirStart s.dir) fun t => { t with refOk := true }) :=
  onDir_reaches (o := execRefReturn s) rfl rfl

theorem lightLanes_view {β : Type} {view : Director → β} (hlit : ∀ d b, view { d with sk := { d.sk with lit := b } } = view d)
    (hsend : ∀ d x, view (send d x) = view d) (d : Director) : view (lightLanes d) = view d := by
  unfold lightLanes
  exact ite_keeps rfl ((foldl_keeps (fun d _ => hsend d _) _ _).trans (hlit d true))

/-! The lock comes back in RUN -/

/-- The arms of a director that resumes start from OFF (R362). -/
def armsOff (d : Director) (a : Nat) : Director :=
  modArm (changeMode d a .off 5) a fun x => { x with mirror := none, missed := true, sync := false, goodRun := 0, held := 0 }

/-- What a director that resumes clears after its time and its arms (R362). -/
def resumed (d : Director) : Director :=
  let d := relockCells d
  let d := modSk d fun k => { k with lastMirror := none, twinRole := [], twinMode := [] }
  let d := modRcd d fun r => { r with segs := r.segs.map fun (i, m) => (i, if m = .abandoned then .free else m) }
  let d := { d with
    pins := { d.pins with alive := d.pins.served }
    bg := { d.bg with patrolAt := 0 } }
  let d := if d.time.oweUnlock then raise d 71 0x06 [] else d
  let d := if d.time.oweRefLoss then raise d 71 0x07 [] else d
  modTime d fun t => { t with oweUnlock := false, oweRefLoss := false }

theorem rootPllLock_released {s : State} (hlock : s.dir.time.pllLock = false) (href : s.dir.time.refOk = true)
    (hstate : s.dir.boot.state = .released) (hstep : 2 ≤ s.dir.boot.step) (hfrz : s.dir.frz.frozen = false) :
    ∃ t, exec .rootPllLock s = .next t ∧ Reached s t (lightLanes (modTime (dirStart s.dir) fun t => { t with pllLock := true })) := by
  have hlock' : (dirStart s.dir).time.pllLock = false := hlock
  have href' : (dirStart s.dir).time.refOk = true := href
  have hfrz' : (dirStart s.dir).frz.frozen = false := hfrz
  have hstate' : (dirStart s.dir).boot.state = .released := hstate
  have hstep' : 2 ≤ (dirStart s.dir).boot.step := hstep
  refine onDir_reaches (o := execRootPllLock s) rfl ?_
  rw [if_neg (by rw [hlock', href', hfrz']; simp), if_pos (by simp [hstate', hstep'])]

theorem rootPllLock_run {s : State} (hlock : s.dir.time.pllLock = false) (href : s.dir.time.refOk = true)
    (hstate : s.dir.boot.state = .run) (hfrz : s.dir.frz.frozen = false) :
    ∃ t e, exec .rootPllLock s = .next t ∧ Reached s t (resumed e) ∧ e = (List.range 6).foldl armsOff
      (relockTime (linkDown (lightLanes (modTime (dirStart s.dir) fun t => { t with pllLock := true }))) s.fresh) := by
  have hlock' : (dirStart s.dir).time.pllLock = false := hlock
  have href' : (dirStart s.dir).time.refOk = true := href
  have hfrz' : (dirStart s.dir).frz.frozen = false := hfrz
  have hstate' : (dirStart s.dir).boot.state = .run := hstate
  obtain ⟨t, hnext, h⟩ := onDir_reaches (o := execRootPllLock s) rfl rfl
  rw [if_neg (by rw [hlock', href', hfrz']; simp), if_neg (by simp [hstate']), if_neg (by simp [inRun, hstate'])] at h
  dsimp only at h
  generalize hfold : List.foldl _ _ (List.range 6) = e at h
  exact ⟨t, e, hnext, h, hfold.symm⟩

section
variable (d : Director) (a : Nat)

theorem endInjection_time : (endInjection d a).time = d.time := by
  unfold endInjection
  split
  · rfl
  · rw [raise_time]; rfl

theorem endInjection_arm {b : Nat} (h : b ≠ a) : arm (endInjection d a) b = arm d b := by
  unfold endInjection
  split
  · rfl
  · rw [arm, raise_arms]; exact arm_modArm_other d h _

theorem changeMode_time (m : ArmMode) (cause : Nat) : (changeMode d a m cause).time = d.time :=
  ite_keeps (view := Director.time) rfl ((raise_time ..).trans (endInjection_time d a))

theorem changeMode_mode (m : ArmMode) (cause : Nat) : (arm (changeMode d a m cause) a).mode = m := by
  unfold changeMode
  dsimp only
  split
  · next h => exact h
  · rw [modeEvent, arm, raise_arms]; exact congrArg Arm.mode (arm_modArm ..)

theorem changeMode_arm_other (m : ArmMode) (cause : Nat) {b : Nat} (h : b ≠ a) : arm (changeMode d a m cause) b = arm d b := by
  unfold changeMode
  dsimp only
  split
  · rfl
  · rw [modeEvent, arm, raise_arms]; exact (arm_modArm_other _ h _).trans (endInjection_arm d a h)

theorem armsOff_time : (armsOff d a).time = d.time := changeMode_time ..

theorem armsOff_mode (b : Nat) : (arm (armsOff d a) b).mode = if b = a then .off else (arm d b).mode := by
  unfold armsOff
  split
  · next h => subst h; rw [arm_modArm]; exact changeMode_mode ..
  · next h => rw [arm_modArm_other _ h, changeMode_arm_other _ _ _ _ h]

end

/-- The arms of a list are OFF once each has been switched off. -/
theorem foldl_armsOff_mode (l : List Nat) (d : Director) (b : Nat) :
    (arm (l.foldl armsOff d) b).mode = if b ∈ l then .off else (arm d b).mode := by
  induction l generalizing d with
  | nil => simp
  | cons a r ih =>
    rw [List.foldl_cons, ih, armsOff_mode]
    by_cases hr : b ∈ r <;> by_cases ha : b = a <;> simp [hr, ha]

theorem resumed_time (d : Director) : (resumed d).time = { d.time with oweUnlock := false, oweRefLoss := false } := by
  unfold resumed
  rw [modTime_time]
  refine congrArg (fun t : TimeState => { t with oweUnlock := false, oweRefLoss := false }) ?_
  exact ite_keeps (view := Director.time) ((raise_time ..).trans (ite_keeps (view := Director.time) (raise_time ..) rfl))
    (ite_keeps (view := Director.time) (raise_time ..) rfl)

theorem resumed_arms (d : Director) : (resumed d).arms = d.arms := by
  unfold resumed
  exact ite_keeps (view := Director.arms) ((raise_arms ..).trans (ite_keeps (view := Director.arms) (raise_arms ..) rfl))
    (ite_keeps (view := Director.arms) (raise_arms ..) rfl)

/-! Answers of commands -/

/-- What answers a command changes: its mailbox, the vectors of the host, and the events decided. -/
theorem respond_view {β : Type} {view : Director → β} (hview : ∀ d m h r, view { d with mbs := m, host := h, ring := r } = view d)
    (d : Director) (n st : Nat) (p : List Byte) : view (respond d n st p) = view d := by
  have hraise : ∀ e a b l, view (raise e a b l) = view e := fun e a b l => by
    rw [raise_eq]; exact hview e e.mbs e.host _
  unfold respond
  split
  · rfl
  · next c _ =>
    have hanswer : view (trigVector (modMbx d n (doneWith (rspOf c st p))) (mbxVector d n)) = view d := hview d _ _ d.ring
    exact ite_keeps ((hraise ..).trans hanswer) hanswer

/-- The commands that waited for a key of the link are answered, as the link leaves ACTIVE (R527). -/
def keyWaitsEnded (d : Director) : Director :=
  [0, 1, 2, 3].foldl (fun d mb => match (mbx d mb).cmd with
    | some c => if c.wait = .key && byteAt c.payload 0 = 2 then refuse d mb stTimeout else d
    | none => d) d

theorem keyWaitsEnded_view {β : Type} {view : Director → β} (hview : ∀ d m h r, view { d with mbs := m, host := h, ring := r } = view d)
    (d : Director) : view (keyWaitsEnded d) = view d := by
  refine foldl_keeps (fun d mb => ?_) _ d
  split
  · exact ite_keeps (respond_view hview d mb stTimeout []) rfl
  · rfl

theorem linkDown_pllLock (d : Director) : (linkDown d).time.pllLock = d.time.pllLock := by
  unfold linkDown
  refine (view_of_steerless (reSource_steerless ..) (·.time.pllLock) fun _ => rfl).trans ?_
  exact keyWaitsEnded_view (view := (·.time.pllLock)) (fun _ _ _ _ => rfl) d

/-! Converter time after a relock -/

theorem portDown_pllLock (d : Director) (p : Nat) : (portDown d p).time.pllLock = d.time.pllLock :=
  (view_of_steerless (portDown_steerless d p) (·.time.pllLock) fun _ => rfl).trans (by unfold tportCleared modTport; dsimp only [modTime]; split <;> rfl)

theorem toListening_pllLock (d : Director) (i : Nat) : (toListening d i).time.pllLock = d.time.pllLock :=
  view_of_steerless (toListening_steerless d i) (·.time.pllLock) fun _ => rfl

/-- Time is UNQUALIFIED and no cycle numbers run once the PLL locks again, and the lock stands (R362). -/
theorem relockTime_time (d : Director) (fresh : Nat) : (relockTime d fresh).time.mode = .unqualified
    ∧ (relockTime d fresh).time.running = false ∧ (relockTime d fresh).time.pllLock = d.time.pllLock := by
  have hports : ([0, 1].foldl portDown d).time.pllLock = d.time.pllLock :=
    foldl_keeps (view := (·.time.pllLock)) (f := portDown) portDown_pllLock _ d
  have hdoms : ([0, 1].foldl toListening ([0, 1].foldl portDown d)).time.pllLock = d.time.pllLock :=
    (foldl_keeps (view := (·.time.pllLock)) (f := toListening) toListening_pllLock _ _).trans hports
  unfold relockTime
  refine ⟨setTimeMode_mode .., setTimeMode_view (view := (·.running)) (fun _ _ _ _ => rfl) _ _,
    (setTimeMode_view (view := (·.pllLock)) (fun _ _ _ _ => rfl) _ _).trans hdoms⟩

/-- The arms are switched off under the time of the relock (R362). -/
theorem relocked {d e : Director} {fresh : Nat} (hoff : e = (List.range 6).foldl armsOff (relockTime d fresh)) :
    e.time.mode = .unqualified ∧ e.time.running = false ∧ e.time.pllLock = d.time.pllLock ∧ ∀ a, a < 6 → (arm e a).mode = .off := by
  have htime : e.time = (relockTime d fresh).time :=
    (congrArg Director.time hoff).trans (foldl_keeps (view := Director.time) (f := armsOff) armsOff_time _ _)
  rw [htime]
  obtain ⟨hmode, hrun, hlock⟩ := relockTime_time d fresh
  refine ⟨hmode, hrun, hlock, fun a ha => ?_⟩
  rw [hoff, foldl_armsOff_mode, if_pos (List.mem_range.mpr ha)]

/-- Settles O46: the clocks stop through the recorder, the trees and the lanes; in RUN the relock resets time, link and
arms in turn. -/
theorem clocksStopAndReturn : Obligations.ClocksStopAndReturn := by
  unfold Obligations.ClocksStopAndReturn
  refine ⟨fun s hlock => ?_, fun s href => ?_, fun s => ?_, fun s hlock href hstate hstep hfrz => ?_, fun s hlock href hstate hfrz => ?_⟩
  · obtain ⟨t, hnext, h⟩ := rootPllUnlock_reaches hlock
    refine ⟨t, hnext, by rw [h.time, clocksStop_time], by rw [h.time, clocksStop_time]; rfl, by rw [h.pins]; rfl, by rw [h.pins]; rfl,
      by rw [h.rcd, clocksStop_rcd], fun n => by rw [h.port, clocksStop_frame]⟩
  · obtain ⟨t, hnext, h⟩ := refLoss_reaches href
    refine ⟨t, hnext, ?_, ?_, fun hlock => ?_⟩
    · rw [h.time]
      exact ite_keeps (view := (·.time.refOk)) (congrArg TimeState.refOk (clocksStop_time _)) rfl
    · rw [h.time]
      exact ite_keeps (view := (·.time.refLoss)) (congrArg TimeState.refLoss (clocksStop_time _)) rfl
    · rw [if_pos hlock] at h
      exact ⟨by rw [h.time, clocksStop_time], by rw [h.pins]; rfl⟩
  · obtain ⟨t, hnext, h⟩ := refReturn_reaches s
    exact ⟨t, hnext, by rw [h.time]; rfl, by rw [h.time]; rfl, h.arms⟩
  · obtain ⟨t, hnext, h⟩ := rootPllLock_released hlock href hstate hstep hfrz
    refine ⟨t, hnext, ?_, ?_, ?_⟩
    · rw [h.time]; exact lightLanes_view (view := (·.time.pllLock)) (fun _ _ => rfl) (fun _ _ => rfl) _
    · rw [h.boot]; exact lightLanes_view (view := (·.boot)) (fun _ _ => rfl) (fun _ _ => rfl) _
    · rw [h.arms]; exact lightLanes_view (view := (·.arms)) (fun _ _ => rfl) (fun _ _ => rfl) _
  · obtain ⟨t, e, hnext, h, hoff⟩ := rootPllLock_run hlock href hstate hfrz
    obtain ⟨hmode, hrun, hkept, hmodes⟩ := relocked hoff
    rw [linkDown_pllLock] at hkept
    have htime := h.time.trans (resumed_time e)
    refine ⟨t, hnext, ?_, by rw [htime]; exact hrun, by rw [htime]; exact hmode, fun a ha => ?_⟩
    · rw [htime]
      exact hkept.trans (lightLanes_view (view := (·.time.pllLock)) (fun _ _ => rfl) (fun _ _ => rfl) _)
    · rw [h.arm, arm, resumed_arms]; exact hmodes a ha

end Sys2Proof.Machine
end

section
/-! PROOF. Training of the Skeund lanes, their status and width (R368, R375 to R384). -/

namespace Sys2Proof.Machine

/-! Bytes -/

theorem toLE_leNat (bs : List Byte) : toLE bs.length (leNat bs) = bs := by
  induction bs with
  | nil => rfl
  | cons b r ih =>
    have hb := b.isLt
    rw [List.length_cons, toLE, leNat]
    refine congrArg₂ List.cons (BitVec.eq_of_toNat_eq ?_) ?_
    · rw [BitVec.toNat_ofNat]; omega
    · rw [show (b.toNat + 256 * leNat r) / 256 = leNat r by omega, ih]

theorem beNat_eq (bs : List Byte) : beNat bs = leNat bs.reverse := by rw [← beNat_reverse, List.reverse_reverse]

theorem toBE_beNat (bs : List Byte) : toBE bs.length (beNat bs) = bs := by
  have h := toLE_leNat bs.reverse
  rw [List.length_reverse] at h
  rw [toBE, beNat_eq, h, List.reverse_reverse]

theorem beNat_lt (bs : List Byte) : beNat bs < 256 ^ bs.length := by
  rw [beNat_eq, ← List.length_reverse]
  exact leNat_lt _

/-! Training frames sent -/

/-- In DETECT a lane sends under the preset of its configuration (R378). -/
def trainStart (d : Director) (p : Nat) : Director :=
  if (lane d p).mode = .detect then
    modLane d p fun l => { l with pre := (firPreset (skPreset d)).1, post := (firPreset (skPreset d)).2 } else d

/-- The 24 bytes of a training frame before its CRC (R376). -/
def trainBody (d : Director) (p : Nat) : List Byte :=
  let l := lane d p
  let id := l.mode = .ident
  b1 (if id then 2 else 1) ++ b1 p ++ b1 (laneCode l.mode * 16) ++ b1 l.req.toNat ++ b1 l.rsp.toNat ++ b1 l.pre ++ b1 l.post
    ++ b1 (if id then l.sendIdx else 0) ++ toBE 16 (if id then (identItem d true l.sendIdx).toNat else 0)

/-- The lane after a frame: IDENT_EXCHANGE goes to the next item (R381). -/
def trainNext (d : Director) (p : Nat) : Director :=
  modLane d p fun l => { l with sendIdx := if (lane d p).mode = .ident then ((lane d p).sendIdx + 1) % 6 else 0 }

theorem trainBody_length (d : Director) (p : Nat) : (trainBody d p).length = 24 := by
  simp [trainBody, b1, toBE_length]

theorem trainBody_first (d : Director) (p : Nat) : byteAt (trainBody d p) 0 = if (lane d p).mode = .ident then 2 else 1 := by
  unfold trainBody
  dsimp only
  split <;> rfl

/-- The frame as a number. -/
def trainWord (d : Director) (p : Nat) : BitVec 192 := BitVec.ofNat 192 (beNat (trainBody d p))

/-- The frame as a number spells its bytes. -/
theorem toBE_train (d : Director) (p : Nat) : toBE 24 (trainWord d p).toNat = trainBody d p := by
  have hlt := beNat_lt (trainBody d p)
  have hbytes := toBE_beNat (trainBody d p)
  rw [trainBody_length] at hlt hbytes
  rw [trainWord, BitVec.toNat_ofNat, Nat.mod_eq_of_lt (by simpa using hlt), hbytes]

theorem trainingFrameSend_reaches {s : State} {l : Nat} (hl : l < 4) (htrains : trains s.dir l = true) :
    ∃ t line fill, exec (.trainingFrameSend l) s = .next t ∧ Reached s t
      (send (send (trainNext (trainStart (dirStart s.dir) l) l)
        (.train l (trainWord (trainStart (dirStart s.dir) l) l)
          (BitVec.ofNat 32 (crc32c (trainBody (trainStart (dirStart s.dir) l) l))) line)) fill) := by
  have htrains' : trains (dirStart s.dir) l = true := htrains
  obtain ⟨t, hnext, h⟩ := unit_reaches (o := execTrainingFrameSend l s) rfl (decide_eq_true hl) (if_neg (by rw [htrains']; simp))
  exact ⟨t, _, _, hnext, h⟩

theorem trainStart_mode (d : Director) (p : Nat) : (lane (trainStart d p) p).mode = (lane d p).mode :=
  ite_keeps (view := fun e => (lane e p).mode) ((congrArg Lane.mode (lane_modLane ..)).trans rfl) rfl

theorem trainStart_preset {d : Director} {p : Nat} (h : (lane d p).mode = .detect) :
    (lane (trainStart d p) p).pre = (firPreset (skPreset d)).1 ∧ (lane (trainStart d p) p).post = (firPreset (skPreset d)).2 := by
  rw [trainStart, if_pos h, lane_modLane]
  exact ⟨rfl, rfl⟩

/-! Training frames received -/

/-- What a frame says of the twin's state (R376). -/
def twinHeard (d : Director) (p : Nat) (f : TrainFrame) : Director :=
  modLane d p fun l => { l with twinMode := match f.state.toNat with
    | 0 => .detect | 1 => .equalize | 2 => .align | 3 => .ident | 4 => .active | _ => l.twinMode }

/-- DETECT ends with the first good frame, which settles the polarity (R375, R376). -/
def detected (f : TrainFrame) (l : Lane) : Lane :=
  { l with
    mode := .equalize, frames := 0, walk := 0, best := 0, eye := f.eye, req := 0, rsp := 0
    pol := l.pol ^^ f.inverted, polFlip := if f.inverted then satInc l.polFlip else l.polFlip }

section
variable {s : State} {l : Nat} {f : TrainFrame} (hl : l < 4) (htrains : trains s.dir l = true) (hhold : (lane s.dir l).holdoff = false)
  (hten : (lane s.dir l).holdTen = false) (hmanual : (skPrbs s.dir l).manual = false)
include hl htrains hhold hten hmanual

theorem trainingFrameReceive_bad (hmode : (lane s.dir l).mode = .detect) (hcrc : f.crcOk = false) :
    ∃ t, exec (.trainingFrameReceive l f) s = .next t ∧ Reached s t (dirStart s.dir) := by
  have htrains' : trains (dirStart s.dir) l = true := htrains
  have hhold' : (lane (dirStart s.dir) l).holdoff = false := hhold
  have hten' : (lane (dirStart s.dir) l).holdTen = false := hten
  have hmanual' : (skPrbs (dirStart s.dir) l).manual = false := hmanual
  have hmode' : (lane (dirStart s.dir) l).mode = .detect := hmode
  refine unit_reaches (o := execTrainingFrameReceive l f s) rfl (decide_eq_true hl) ?_
  simp [htrains', hhold', hten', hmanual', hmode', hcrc]

theorem trainingFrameReceive_detect (hmode : (lane s.dir l).mode = .detect) (hcrc : f.crcOk = true) (hkind : f.kind = 1) :
    ∃ t, exec (.trainingFrameReceive l f) s = .next t
      ∧ Reached s t (modLane (twinHeard (dirStart s.dir) l f) l (detected f)) := by
  have htrains' : trains (dirStart s.dir) l = true := htrains
  have hhold' : (lane (dirStart s.dir) l).holdoff = false := hhold
  have hten' : (lane (dirStart s.dir) l).holdTen = false := hten
  have hmanual' : (skPrbs (dirStart s.dir) l).manual = false := hmanual
  have hmode' : (lane (dirStart s.dir) l).mode = .detect := hmode
  refine unit_reaches (o := execTrainingFrameReceive l f s) rfl (decide_eq_true hl) ?_
  rw [if_neg (by simp [htrains', hhold', hten', hmanual', hmode']), if_neg (by simp [hcrc, hkind])]
  dsimp only
  rw [hmode']
  rfl

theorem trainingFrameReceive_ident (hmode : (lane s.dir l).mode = .ident) (hcrc : f.crcOk = true) (hkind : f.kind = 2)
    (hinv : f.inverted = false) :
    ∃ t, exec (.trainingFrameReceive l f) s = .next t ∧ Reached s t (identLane (twinHeard (dirStart s.dir) l f) s.fresh l f) := by
  have htrains' : trains (dirStart s.dir) l = true := htrains
  have hhold' : (lane (dirStart s.dir) l).holdoff = false := hhold
  have hten' : (lane (dirStart s.dir) l).holdTen = false := hten
  have hmanual' : (skPrbs (dirStart s.dir) l).manual = false := hmanual
  have hmode' : (lane (dirStart s.dir) l).mode = .ident := hmode
  refine unit_reaches (o := execTrainingFrameReceive l f s) rfl (decide_eq_true hl) ?_
  rw [if_neg (by simp [htrains', hhold', hten', hmanual', hinv]), if_neg (by simp [hcrc, hkind])]
  dsimp only
  rw [hmode']
  rfl

end

theorem find?_tset_same {β : Type} (k : Nat) (v : β) (t : Table β) : (tset k v t).find? (·.1 = k) = some (k, v) := by
  induction t with
  | nil => simp [tset]
  | cons p r ih =>
    obtain ⟨j, w⟩ := p
    rw [tset]
    split
    · simp
    · next hne => split <;> simp [hne, ih]

theorem find?_tset_other {β : Type} {j k : Nat} (h : j ≠ k) (v : β) (t : Table β) : (tset k v t).find? (·.1 = j) = t.find? (·.1 = j) := by
  induction t with
  | nil => simp [tset, h.symm]
  | cons p r ih =>
    obtain ⟨i, w⟩ := p
    rw [tset]
    split
    · next hi => subst hi; simp [h.symm]
    · split
      · simp [h.symm]
      · rw [List.find?_cons, List.find?_cons, ih]

/-! What control frames leave of the link -/

theorem lane_modLane_view {β : Type} {view : Lane → β} {f : Lane → Lane} (h : ∀ x, view (f x) = view x) (d : Director) (p l : Nat) :
    view (lane (modLane d p f) l) = view (lane d l) := by
  by_cases hp : l = p
  · rw [hp, lane_modLane, h]
  · rw [lane_modLane_other d hp]

/-- What of the link a control frame leaves: all but its queue and the frame counts of its lanes (R371). -/
def linkView (d : Director) (l : Nat) : Bool × Option Nat × Bool × Nat × BitVec 4 × LaneMode :=
  (d.sk.active, d.sk.identBad, d.sk.statusDue, d.sk.statusAt, d.sk.ownOk, (lane d l).mode)

theorem linkView_eq {t d : Director} {l : Nat} (h : linkView t l = linkView d l) :
    t.sk.active = d.sk.active ∧ t.sk.identBad = d.sk.identBad ∧ t.sk.statusDue = d.sk.statusDue ∧ t.sk.statusAt = d.sk.statusAt
      ∧ t.sk.ownOk = d.sk.ownOk ∧ (lane t l).mode = (lane d l).mode := by
  simpa only [linkView, Prod.mk.injEq] using h

theorem bumpFseq_linkView (d : Director) (lg l : Nat) : linkView (bumpFseq d lg) l = linkView d l := by
  have hmode : (lane (bumpFseq d lg) l).mode = (lane d l).mode := 
    lane_modLane_view (view := Lane.mode) (f := fun l => { l with fseq := l.fseq + 1 }) (fun _ => rfl) d _ l
  unfold linkView
  rw [hmode]
  rfl

theorem drainControl_linkView (d : Director) (l : Nat) : linkView (drainControl d) l = linkView d l := by
  unfold drainControl
  split
  · exact ite_keeps (view := (linkView · l)) rfl (bumpFseq_linkView ..)
  · rfl

theorem sendOffer_linkView (d : Director) (fresh l : Nat) : linkView (sendOffer d fresh) l = linkView d l := by
  unfold sendOffer
  exact ite_keeps (view := (linkView · l)) rfl (drainControl_linkView ..)

/-! A lane joins the link -/

/-- The lanes that join, and what the link then sees (R375, R383). -/
def lanesJoined (d : Director) (ps : List Nat) : Director :=
  let d := ps.foldl (fun d p => modLane d p fun l => { l with mode := .active, crcRun := 0, rejoined := none }) d
  let bits := ps.foldl (fun b p => b ||| BitVec.twoPow 4 (logLane d p)) (0 : BitVec 4)
  modSk d fun k => { k with active := true, ownOk := k.ownOk ||| bits, twinOk := k.twinOk ||| bits, statusDue := true, change := true }

/-- A link that has just become ACTIVE begins under its width, without a key (R383, R599). -/
def linkBegun (d : Director) (fresh : Nat) : Director :=
  let (w, b) := bestWidth d
  let d := modSk d fun k => { k with width := w, base := b, change := false, parts := [], blocks := [], queue := [] }
  let d := (List.range 6).foldl (fun d a => modArm d a fun x => { x with sync := false, slowSeen := [], goodRun := 0, missRun := 0 }) d
  let d := { d with sec := { d.sec with skKey := none, skNext := none, skPrev := none, skOffer := none, skRetryAt := none } }
  sendOffer (modTime d fun t => { t with twinSeen := false, eps := [], marksOwn := [] }) fresh

theorem laneActive_eq (d : Director) (fresh : Nat) (ps : List Nat) :
    laneActive d fresh ps = if !(!d.sk.active) then lanesJoined d ps else linkBegun (lanesJoined d ps) fresh := rfl

theorem linkBegun_linkView (d : Director) (fresh l : Nat) : linkView (linkBegun d fresh) l = linkView d l := by
  unfold linkBegun
  dsimp only
  refine (sendOffer_linkView ..).trans ?_
  generalize hfold : List.foldl _ _ (List.range 6) = e
  have hkept : linkView e l = linkView d l := by
    rw [← hfold]
    refine (foldl_keeps (view := (linkView · l)) (fun _ _ => ?_) _ _).trans rfl
    rfl
  exact hkept

theorem lane_joined (ps : List Nat) (d : Director) (l : Nat) :
    (lane (ps.foldl (fun d p => modLane d p fun l => { l with mode := .active, crcRun := 0, rejoined := none }) d) l).mode
      = if l ∈ ps then .active else (lane d l).mode := by
  induction ps generalizing d with
  | nil => simp
  | cons p r ih =>
    rw [List.foldl_cons, ih]
    by_cases hp : l = p
    · subst hp; rw [lane_modLane]; simp
    · rw [lane_modLane_other d hp]; simp [hp]

theorem laneActive_link (d : Director) (fresh : Nat) {ps : List Nat} {l : Nat} (hl : l ∈ ps) :
    (laneActive d fresh ps).sk.active = true ∧ (lane (laneActive d fresh ps) l).mode = .active
      ∧ (laneActive d fresh ps).sk.identBad = d.sk.identBad := by
  have hview : linkView (laneActive d fresh ps) l = linkView (lanesJoined d ps) l := by
    rw [laneActive_eq]
    exact ite_keeps (view := (linkView · l)) rfl (linkBegun_linkView ..)
  have hbad : (lanesJoined d ps).sk.identBad = d.sk.identBad := foldl_keeps (view := (·.sk.identBad))
    (f := fun d p => modLane d p fun l => { l with mode := .active, crcRun := 0, rejoined := none }) (fun _ _ => rfl) ps d
  have hmode : (lane (lanesJoined d ps) l).mode = .active := (lane_joined ps d l).trans (if_pos hl)
  obtain ⟨hactive, hident, -, -, -, hlane⟩ := linkView_eq hview
  exact ⟨hactive, hlane.trans hmode, hident.trans hbad⟩

/-- The identity with the item of a frame (R381). -/
def identHeard (d : Director) (p : Nat) (f : TrainFrame) : Director := modLane d p fun l => { l with ident := tset f.index.toNat f.data l.ident }

/-- The identity that agrees in every item (R381). -/
def identAgreed (d : Director) (p : Nat) (f : TrainFrame) : Director := modSk (identHeard d p f) fun k => { k with identBad := none }

/-- The last item of the identity that agrees brings the lanes of IDENT_EXCHANGE into the link (R381). -/
theorem identLane_complete {d : Director} {fresh p : Nat} {f : TrainFrame} (hkind : f.kind = 2) (hindex : f.index.toNat ≤ 5)
    (hdata : f.data = identItem d false f.index.toNat)
    (hitems : ∀ j, j < 6 → j ≠ f.index.toNat → ((lane d p).ident.find? (·.1 = j)).map (·.2) = some (identItem d false j)) :
    identLane d fresh p f = laneActive (identAgreed d p f) fresh ([0, 1, 2, 3].filter fun q => (lane (identAgreed d p f) q).mode = .ident) := by
  have hident : (lane (identHeard d p f) p).ident = tset f.index.toNat f.data (lane d p).ident := congrArg Lane.ident (lane_modLane ..)
  have hall : ((List.range 6).all fun j => decide ((((lane (identHeard d p f) p).ident.find? (·.1 = j)).map (·.2))
      = some (identItem d false j))) = true := by
    refine List.all_eq_true.mpr fun j hj => decide_eq_true ?_
    rw [hident]
    by_cases h : j = f.index.toNat
    · rw [h, find?_tset_same, Option.map_some, hdata]
    · rw [find?_tset_other h, hitems j (List.mem_range.mp hj) h]
  have hgood : ¬(decide (f.kind ≠ 2) || decide (5 < f.index.toNat)) = true := by simp [hkind, hindex]
  unfold identLane
  exact (if_neg hgood).trans ((if_neg (not_not_intro hdata)).trans (if_pos hall))

theorem mem_identAgreed {d : Director} {p : Nat} (f : TrainFrame) (hp : p < 4) (hmode : (lane d p).mode = .ident) :
    p ∈ [0, 1, 2, 3].filter fun q => (lane (identAgreed d p f) q).mode = .ident := by
  have hkept : (lane (identHeard d p f) p).mode = .ident := by rw [identHeard, lane_modLane]; exact hmode
  exact List.mem_filter.mpr ⟨by simp; omega, decide_eq_true hkept⟩

/-! Training that fails, and its hold-off -/

/-- A lane whose training state did not end in time (R375, R379). -/
def trainFailed (d : Director) (l : Nat) : Director :=
  let d' := raise d (52 + l) 0x01 (b1 (laneCode (lane d l).mode))
  let d' := if (lane d l).mode = .align then modSk d' fun k => { k with mapBad := false } else d'
  modLane d' l fun l => { l with mode := .detect, holdoff := true, heard := none, req := 0, rsp := 0, trainFail := satInc l.trainFail }

/-- EQUALIZE that ends at its limit with an eye that will do (R379). -/
def equalized (d : Director) (l : Nat) : Director :=
  modLane d l fun l => { l with mode := .align, eye := l.best, req := 0x02, heard := none }

section
variable {s : State} {l : Nat} (hl : l < 4) (htrains : trains s.dir l = true)
include hl htrains

theorem laneTrainTimeout_fails (hmode : (lane s.dir l).mode = .align ∨ ((lane s.dir l).mode = .equalize ∧ (lane s.dir l).best < 48)
      ∨ ((lane s.dir l).mode = .ident ∧ s.dir.sk.identBad = none)) :
    ∃ t, exec (.laneTrainTimeout l) s = .next t ∧ Reached s t (trainFailed (dirStart s.dir) l) := by
  have htrains' : trains (dirStart s.dir) l = true := htrains
  have hdetect : ¬((!trains (dirStart s.dir) l || decide ((lane (dirStart s.dir) l).mode = .detect)) = true) := by
    have hne : (lane (dirStart s.dir) l).mode ≠ .detect := by
      rcases hmode with h | ⟨h, -⟩ | ⟨h, -⟩ <;> exact fun e => by cases h.symm.trans e
    simp [htrains', hne]
  have heye : ¬((decide ((lane (dirStart s.dir) l).mode = .equalize) && decide (48 ≤ (lane (dirStart s.dir) l).best)) = true) := by
    rw [Bool.and_eq_true, decide_eq_true_eq, decide_eq_true_eq]
    rcases hmode with h | ⟨-, h⟩ | ⟨h, -⟩
    · exact fun e => by cases h.symm.trans e.1
    · exact fun e => absurd e.2 (not_le.mpr h)
    · exact fun e => by cases h.symm.trans e.1
  have hbad : ¬((decide ((lane (dirStart s.dir) l).mode = .ident) && (dirStart s.dir).sk.identBad.isSome) = true) := by
    rw [Bool.and_eq_true, decide_eq_true_eq]
    rcases hmode with h | ⟨h, -⟩ | ⟨-, h⟩
    · exact fun e => by cases h.symm.trans e.1
    · exact fun e => by cases h.symm.trans e.1
    · exact fun e => by
        rw [show (dirStart s.dir).sk.identBad = none from h] at e
        cases e.2
  exact unit_reaches (o := execLaneTrainTimeout l s) rfl (decide_eq_true hl)
    ((if_neg hdetect).trans ((if_neg heye).trans (if_neg hbad)))

theorem laneTrainTimeout_equalized (hmode : (lane s.dir l).mode = .equalize) (hbest : 48 ≤ (lane s.dir l).best) :
    ∃ t, exec (.laneTrainTimeout l) s = .next t ∧ Reached s t (equalized (dirStart s.dir) l) := by
  have htrains' : trains (dirStart s.dir) l = true := htrains
  have hmode' : (lane (dirStart s.dir) l).mode = .equalize := hmode
  have hbest' : 48 ≤ (lane (dirStart s.dir) l).best := hbest
  refine unit_reaches (o := execLaneTrainTimeout l s) rfl (decide_eq_true hl)
    ((if_neg ?_).trans (if_pos ?_))
  · simp [htrains', hmode']
  · simp [hmode', hbest']

end

theorem trainFailed_lane (d : Director) (l : Nat) : lane (trainFailed d l) l =
    { lane d l with mode := .detect, holdoff := true, heard := none, req := 0, rsp := 0, trainFail := satInc (lane d l).trainFail } := by
  have hraise : lane (raise d (52 + l) 0x01 (b1 (laneCode (lane d l).mode))) l = lane d l := by rw [lane, raise_sk, lane]
  have hkept : lane (if (lane d l).mode = .align then modSk (raise d (52 + l) 0x01 (b1 (laneCode (lane d l).mode))) fun k => { k with mapBad := false }
      else raise d (52 + l) 0x01 (b1 (laneCode (lane d l).mode))) l = lane d l := ite_keeps (view := (lane · l)) hraise hraise
  unfold trainFailed
  dsimp only
  rw [lane_modLane, hkept]

theorem trainFailed_ring (d : Director) (l : Nat) :
    (trainFailed d l).ring = (raise d (52 + l) 0x01 (b1 (laneCode (lane d l).mode))).ring :=
  ite_keeps (view := Director.ring) rfl rfl

theorem laneTrainRetry_reaches {s : State} {l : Nat} (hl : l < 4) (hworks : works s.dir = true) :
    ∃ t, exec (.laneTrainRetry l) s = .next t ∧ Reached s t (modLane (dirStart s.dir) l fun l => { l with holdoff := false }) :=
  unit_reaches (o := execLaneTrainRetry l s) rfl (decide_eq_true hl) (if_pos hworks)

/-! Lane status and width -/

theorem laneStatusSend_reaches {s : State} (hworks : works s.dir = true) (hactive : s.dir.sk.active = true) (hdue : s.dir.sk.statusDue = true) :
    ∃ t x, exec .laneStatusSend s = .next t ∧ Reached s t
      (drainControl (queueControl (modSk (dirStart s.dir) fun k => { k with statusDue := false, statusAt := s.dir.time.starts }) 0x23 x)) := by
  have hworks' : works (dirStart s.dir) = true := hworks
  have hactive' : (dirStart s.dir).sk.active = true := hactive
  have hdue' : (dirStart s.dir).sk.statusDue = true := hdue
  obtain ⟨t, hnext, h⟩ := onDir_reaches (o := execLaneStatusSend s) rfl (if_neg (by simp [hworks', hactive', hdue']))
  exact ⟨t, _, hnext, h⟩

/-- The lanes that the twin no longer sees (R383). -/
def lanesLost (d : Director) (ok : BitVec 4) : List Nat :=
  (List.range 4).filter fun lg => d.sk.twinOk.getLsbD lg && !ok.getLsbD lg && (lane d (physLane d lg)).mode = .active

/-- A lane of the link begins its retraining (R385). -/
def laneRetrained (d : Director) (lg : Nat) : Director := startRetrain d (physLane d lg) (soonAgain d (physLane d lg))

/-- The lanes that the twin no longer sees retrain (R383, R385). -/
def lanesRetrained (d : Director) (ok : BitVec 4) : Director :=
  (lanesLost d ok).foldl laneRetrained
    (modSk d fun k => { k with twinOk := ok, change := true })

theorem laneStatusReceive_reaches {s : State} {ok : BitVec 4} (hworks : works s.dir = true) (hactive : s.dir.sk.active = true)
    (hok : ok ≠ s.dir.sk.twinOk) :
    ∃ t, exec (.laneStatusReceive ok) s = .next t ∧ Reached s t (checkLink (lanesRetrained (dirStart s.dir) ok)) := by
  have hworks' : works (dirStart s.dir) = true := hworks
  have hactive' : (dirStart s.dir).sk.active = true := hactive
  have hin : laneStatusIn (dirStart s.dir) ok = checkLink (lanesRetrained (dirStart s.dir) ok) := if_neg hok
  exact onDir_reaches (o := execLaneStatusReceive ok s) rfl ((if_pos (by rw [hworks', hactive']; rfl)).trans hin)

theorem foldl_keeps_of_mem {α β : Type} {view : Director → β} {f : Director → α → Director} {l : List α}
    (h : ∀ x ∈ l, ∀ d, view (f d x) = view d) (d : Director) : view (l.foldl f d) = view d := by
  induction l generalizing d with
  | nil => rfl
  | cons x r ih => rw [List.foldl_cons, ih fun y hy => h y (List.mem_cons_of_mem _ hy), h x List.mem_cons_self]

theorem physLane_inj {d : Director} {a b : Nat} (ha : a < 4) (hb : b < 4) (h : physLane d a = physLane d b) : a = b := by
  unfold physLane at h
  split at h <;> omega

/-- A lane that the twin still sees is untouched, and so are the fields of the link (R383). -/
theorem lanesRetrained_link {d : Director} {ok : BitVec 4} {lg : Nat} (hlg : lg < 4) (hseen : ok.getLsbD lg = true) :
    (lanesRetrained d ok).sk.twinOk = ok ∧ (lanesRetrained d ok).sk.change = true ∧ (lanesRetrained d ok).sk.active = d.sk.active
      ∧ (lanesRetrained d ok).sk.ownOk = d.sk.ownOk
      ∧ lane (lanesRetrained d ok) (physLane (lanesRetrained d ok) lg) = lane d (physLane d lg) := by
  refine ⟨?_, ?_, ?_, ?_, ?_⟩
  · exact foldl_keeps_of_mem (view := (·.sk.twinOk)) (f := laneRetrained) (fun _ _ _ => rfl) _
  · exact foldl_keeps_of_mem (view := (·.sk.change)) (f := laneRetrained) (fun _ _ _ => rfl) _
  · exact foldl_keeps_of_mem (view := (·.sk.active)) (f := laneRetrained) (fun _ _ _ => rfl) _
  · exact foldl_keeps_of_mem (view := (·.sk.ownOk)) (f := laneRetrained) (fun _ _ _ => rfl) _
  · refine foldl_keeps_of_mem (view := fun e => lane e (physLane e lg)) (fun x hx e => ?_) _
    obtain ⟨hrange, hlost⟩ := List.mem_filter.mp hx
    have hne : x ≠ lg := fun h => by rw [h, hseen] at hlost; simp at hlost
    exact lane_modLane_other e (fun h => hne (physLane_inj (List.mem_range.mp hrange) hlg h.symm)) _

theorem bestWidth_of_healthy {d : Director} {lg : Nat} (hlg : lg < 4) (h : laneHealthy d lg = true) : (bestWidth d).1 ≠ 0 := by
  unfold bestWidth
  dsimp only
  split
  · simp
  · split
    · simp
    · split
      · simp
      · split
        · simp
        · next hnone => exact absurd h (List.find?_eq_none.mp hnone lg (by simp; omega))

theorem checkLink_healthy {d : Director} (h : (bestWidth d).1 ≠ 0) : checkLink d = d := if_neg (by simp [h])

/-- The link under another width (R384). -/
def widthSet (d : Director) : Director := modSk d fun k => { k with change := false, width := (bestWidth d).1, base := (bestWidth d).2 }

theorem widthChange_reaches {s : State} (hworks : works s.dir = true) (hactive : s.dir.sk.active = true) (hchange : s.dir.sk.change = true)
    (hwidth : (bestWidth s.dir).1 ≠ 0) (hnew : bestWidth s.dir ≠ (s.dir.sk.width, s.dir.sk.base)) :
    ∃ t, exec .widthChange s = .next t ∧ Reached s t
      (raise (modSk (widthSet (dirStart s.dir)) fun k => { k with widthChanges := satInc k.widthChanges }) 52 0x12
        (b1 s.dir.sk.width ++ b1 (bestWidth s.dir).1)) := by
  have hworks' : works (dirStart s.dir) = true := hworks
  have hactive' : (dirStart s.dir).sk.active = true := hactive
  have hchange' : (dirStart s.dir).sk.change = true := hchange
  have hsame : ¬(decide ((bestWidth (dirStart s.dir)).1 = (dirStart s.dir).sk.width ∧ (bestWidth (dirStart s.dir)).2 = (dirStart s.dir).sk.base)
      || decide ((bestWidth (dirStart s.dir)).1 = 0)) = true := by
    rw [Bool.or_eq_true, decide_eq_true_eq, decide_eq_true_eq]
    rintro (h | h)
    · exact hnew (Prod.ext_iff.mpr h)
    · exact hwidth h
  refine onDir_reaches (o := execWidthChange s) rfl ((if_neg ?_).trans ?_)
  · simp [hworks', hactive', hchange']
  · dsimp only
    rw [if_neg (by simpa using hsame)]
    rfl

/-- Settles O47: a training frame is its 24 bytes, each state of training has its own row, and control frames leave the
link's lanes. -/
theorem laneTraining : Obligations.LaneTraining := by
  unfold Obligations.LaneTraining
  refine ⟨fun s l hl htrains => ?_, fun s l f hl htrains hhold hten hmanual hmode => ⟨fun hcrc => ?_, fun hcrc hkind => ?_⟩,
    fun s l f hl htrains hhold hten hmanual hmode hcrc hkind hinv hindex hdata hitems => ?_,
    fun s l hl htrains hmode => ?_, fun s l hl htrains hmode hbest => ?_, fun s l hl hworks => ?_,
    fun s hworks hactive hdue => ?_, fun s ok lg hworks hactive hok hlg hown hseen hmode => ?_,
    fun s hworks hactive hchange hwidth hnew => ?_⟩
  · obtain ⟨t, line, fill, hnext, h⟩ := trainingFrameSend_reaches hl htrains
    obtain ⟨x, hx⟩ := h.tx
    have hsend : ∀ d x, lane (send d x) l = lane d l := fun _ _ => rfl
    have hlane := h.lane l
    rw [hsend, hsend, trainNext, lane_modLane] at hlane
    refine ⟨t, trainWord (trainStart (dirStart s.dir) l) l, line, hnext, ?_, ?_, ?_, fun hmode => ?_⟩
    · rw [hx, toBE_train]; simp [send]
    · rw [toBE_train, trainBody_first, trainStart_mode]; rfl
    · rw [hlane]; exact trainStart_mode (dirStart s.dir) l
    · rw [hlane]; exact trainStart_preset (d := dirStart s.dir) hmode
  · obtain ⟨t, hnext, h⟩ := trainingFrameReceive_bad hl htrains hhold hten hmanual hmode hcrc
    exact ⟨t, hnext, h.sk⟩
  · obtain ⟨t, hnext, h⟩ := trainingFrameReceive_detect hl htrains hhold hten hmanual hmode hcrc hkind
    have hlane := (h.lane l).trans (lane_modLane ..)
    rw [twinHeard, lane_modLane] at hlane
    refine ⟨t, hnext, by rw [hlane]; rfl, by rw [hlane]; rfl, by rw [hlane]; rfl, fun k hk => ?_⟩
    rw [h.lane, lane_modLane_other _ hk, twinHeard, lane_modLane_other _ hk]
    rfl
  · obtain ⟨t, hnext, h⟩ := trainingFrameReceive_ident hl htrains hhold hten hmanual hmode hcrc hkind hinv
    have hmode' : (lane (twinHeard (dirStart s.dir) l f) l).mode = .ident := by rw [twinHeard, lane_modLane]; exact hmode
    have hident : (lane (twinHeard (dirStart s.dir) l f) l).ident = (lane s.dir l).ident := by rw [twinHeard, lane_modLane]; rfl
    rw [identLane_complete (d := twinHeard (dirStart s.dir) l f) hkind hindex hdata fun j hj hne => by rw [hident]; exact hitems j hj hne] at h
    obtain ⟨hactive, hlane, hbad⟩ := laneActive_link (identAgreed (twinHeard (dirStart s.dir) l f) l f) s.fresh (mem_identAgreed f hl hmode')
    exact ⟨t, hnext, by rw [h.sk]; exact hactive, by rw [h.lane]; exact hlane, by rw [h.sk]; exact hbad⟩
  · obtain ⟨t, hnext, h⟩ := laneTrainTimeout_fails hl htrains hmode
    have hlane := (h.lane l).trans (trainFailed_lane ..)
    refine ⟨t, hnext, by rw [hlane], by rw [hlane], by rw [hlane]; rfl, fun he => ?_⟩
    rw [Decided, h.ring, trainFailed_ring]
    exact raise_decides (d := dirStart s.dir) (he.of_eq rfl rfl) 0x01 _
  · obtain ⟨t, hnext, h⟩ := laneTrainTimeout_equalized hl htrains hmode hbest
    have hlane := (h.lane l).trans (lane_modLane ..)
    exact ⟨t, hnext, by rw [hlane], by rw [hlane]; rfl⟩
  · obtain ⟨t, hnext, h⟩ := laneTrainRetry_reaches hl hworks
    have hlane := (h.lane l).trans (lane_modLane ..)
    exact ⟨t, hnext, by rw [hlane], by rw [hlane]; rfl, h.ring⟩
  · obtain ⟨t, x, hnext, h⟩ := laneStatusSend_reaches hworks hactive hdue
    obtain ⟨-, -, hnone, hat, hown, -⟩ := linkView_eq (drainControl_linkView
      (queueControl (modSk (dirStart s.dir) fun k => { k with statusDue := false, statusAt := s.dir.time.starts }) 0x23 x) 0)
    exact ⟨t, hnext, by rw [h.sk]; exact hnone, by rw [h.sk]; exact hat, by rw [h.sk]; exact hown⟩
  · obtain ⟨t, hnext, h⟩ := laneStatusReceive_reaches hworks hactive hok
    obtain ⟨htwin, hchange, hact, hown', hlane⟩ := lanesRetrained_link (d := dirStart s.dir) hlg hseen
    have hhealthy : laneHealthy (lanesRetrained (dirStart s.dir) ok) lg = true := by
      have hmode' : (lane (dirStart s.dir) (physLane (dirStart s.dir) lg)).mode = .active := hmode
      have hown'' : (dirStart s.dir).sk.ownOk.getLsbD lg = true := hown
      rw [laneHealthy, hlane, htwin, hown', hown'', hseen, hmode']
      rfl
    rw [checkLink_healthy (bestWidth_of_healthy hlg hhealthy)] at h
    exact ⟨t, hnext, by rw [h.sk, htwin], by rw [h.sk, hchange], by rw [h.sk, hact]; exact hactive⟩
  · obtain ⟨t, hnext, h⟩ := widthChange_reaches hworks hactive hchange hwidth hnew
    refine ⟨t, hnext, by rw [h.sk, raise_sk]; rfl, by rw [h.sk, raise_sk]; rfl, by rw [h.sk, raise_sk]; rfl,
      fun he => reached_decides h he rfl rfl⟩

end Sys2Proof.Machine
end

section
/-! PROOF. Lost lanes, retraining and the PRBS checkers (R382, R385, R386, R389). -/

namespace Sys2Proof.Machine

/-! Events decided before an operation stay decided -/

/-- Every event decided in `d` is decided in `t`. -/
structure EventsKept (t d : Director) : Prop where
  mem : ∀ e ∈ d.ring.decided, e ∈ t.ring.decided

theorem EventsKept.of_ring {t d : Director} (h : t.ring.decided = d.ring.decided) : EventsKept t d := ⟨fun e he => by rwa [h]⟩

theorem EventsKept.refl (d : Director) : EventsKept d d := .of_ring rfl

theorem EventsKept.trans {u t d : Director} (h : EventsKept u t) (h' : EventsKept t d) : EventsKept u d := ⟨fun e he => h.mem e (h'.mem e he)⟩

theorem EventsKept.ite {p : Prop} [Decidable p] {t u d : Director} (h : EventsKept t d) (h' : EventsKept u d) :
    EventsKept (if p then t else u) d := by
  split
  · exact h
  · exact h'

theorem EventsKept.decided {t d : Director} (h : EventsKept t d) {source detail : Nat} {data : List Byte}
    (hd : Decided d source detail data) : Decided t source detail data := by
  obtain ⟨e, he, hsource⟩ := hd
  exact ⟨e, h.mem e he, hsource⟩

theorem foldl_eventsKept {α : Type} {f : Director → α → Director} (h : ∀ d x, EventsKept (f d x) d) (l : List α) (d : Director) :
    EventsKept (l.foldl f d) d := by
  induction l generalizing d with
  | nil => exact .refl d
  | cons x r ih => exact (ih (f d x)).trans (h d x)

theorem raise_eventsKept (d : Director) (source detail : Nat) (data : List Byte) : EventsKept (raise d source detail data) d := by
  unfold raise
  split
  · exact ⟨fun e he => List.mem_append_left _ he⟩
  · exact .refl d

theorem respond_eventsKept (d : Director) (n st : Nat) (p : List Byte) : EventsKept (respond d n st p) d := by
  unfold respond
  split
  · exact .refl d
  · exact .ite ((raise_eventsKept ..).trans (.of_ring rfl)) (.of_ring rfl)

theorem lightTrees_eventsKept (d : Director) : EventsKept (lightTrees d) d := .of_ring (congrArg EventRing.decided (lightTrees_ring d))

theorem setTimeMode_eventsKept (d : Director) (m : TimeMode) : EventsKept (setTimeMode d m) d := by
  unfold setTimeMode
  exact .ite (.refl d) ((raise_eventsKept ..).trans ((lightTrees_eventsKept _).trans (.of_ring rfl)))

theorem reSource_eventsKept (d : Director) (at_ : Int) : EventsKept (reSource d at_) d := by
  unfold reSource
  exact (setTimeMode_eventsKept ..).trans (.ite (.refl d) (.ite (.refl d) (.ite (.of_ring rfl) ((raise_eventsKept ..).trans (.of_ring rfl)))))

theorem keyWaitsEnded_eventsKept (d : Director) : EventsKept (keyWaitsEnded d) d := by
  refine foldl_eventsKept (fun d mb => ?_) _ d
  split
  · exact .ite (respond_eventsKept ..) (.refl d)
  · exact .refl d

/-! The link goes down -/

/-- A lane of a link that has left ACTIVE (R386). -/
def laneDown (l : Lane) : Lane :=
  { l with mode := .detect, retrain := false, prbsRun := false, holdTen := false, heard := none, ident := [], crcRun := 0, rejoined := none, req := 0, rsp := 0 }

theorem linkDown_lanes (d : Director) : (linkDown d).sk.lanes = d.sk.lanes.map fun (p, l) => (p, laneDown l) := by
  have hkept : (keyWaitsEnded d).sk = d.sk := keyWaitsEnded_view (view := Director.sk) (fun _ _ _ _ => rfl) d
  unfold linkDown
  refine (view_of_steerless (reSource_steerless ..) (·.sk.lanes) fun _ => rfl).trans ?_
  exact congrArg (fun k : Skeund => k.lanes.map fun (p, l) => (p, laneDown l)) hkept

theorem linkDown_lane (d : Director) (l : Nat) : lane (linkDown d) l = laneDown (lane d l) := by
  rw [lane, linkDown_lanes]
  exact tget_map laneDown {} l d.sk.lanes

theorem linkDown_eventsKept (d : Director) : EventsKept (linkDown d) d := by
  unfold linkDown
  refine (reSource_eventsKept ..).trans (EventsKept.trans (t := keyWaitsEnded d) (.of_ring ?_) (keyWaitsEnded_eventsKept d))
  rfl

/-- A lane that is not ACTIVE stays so when the link is checked, and its counts stay (R386). -/
theorem checkLink_lane {d : Director} {l : Nat} (h : (lane d l).mode ≠ .active) :
    (lane (checkLink d) l).mode ≠ .active ∧ (lane (checkLink d) l).lockLoss = (lane d l).lockLoss := by
  unfold checkLink
  split
  · rw [linkDown_lane]; exact ⟨fun h => LaneMode.noConfusion h, rfl⟩
  · exact ⟨h, rfl⟩

theorem checkLink_eventsKept (d : Director) : EventsKept (checkLink d) d := .ite (linkDown_eventsKept d) (.refl d)

/-! A lane is lost -/

/-- The code of a lane's loss (R382). -/
def causeCode (w : LaneCause) : Nat := match w with | .cdr => 1 | .crc => 2 | .noDelimiter => 3

/-- A lane that has lost lock, counted and reported (R382). -/
def lossNoted (d : Director) (l : Nat) (w : LaneCause) : Director :=
  raise (modLane d l fun l => { l with lockLoss := satInc l.lockLoss, crcRun := 0 }) (52 + l) 0x02 (b1 (causeCode w))

/-- A lost lane retrains and is healthy here no more (R382, R385). -/
def laneGone (d : Director) (l : Nat) (w : LaneCause) : Director :=
  modSk (startRetrain (lossNoted d l w) l (soonAgain (lossNoted d l w) l)) fun k =>
    { k with ownOk := k.ownOk &&& ~~~(BitVec.twoPow 4 (logLane (startRetrain (lossNoted d l w) l (soonAgain (lossNoted d l w) l)) l))
             statusDue := true, change := true }

theorem laneLost_reaches {s : State} {l : Nat} {w : LaneCause} (hl : l < 4) (hworks : works s.dir = true)
    (hmode : (lane s.dir l).mode = .active) (hrun : w = .crc → 4 ≤ (lane s.dir l).crcRun) :
    ∃ t, exec (.laneLost l w) s = .next t ∧ Reached s t (checkLink (laneGone (dirStart s.dir) l w)) := by
  have hworks' : works (dirStart s.dir) = true := hworks
  have hmode' : (lane (dirStart s.dir) l).mode = .active := hmode
  refine unit_reaches (o := execLaneLost l w s) rfl (decide_eq_true hl) ((if_neg ?_).trans ?_)
  · have hshort : ¬(w = .crc ∧ (lane (dirStart s.dir) l).crcRun < 4) := fun h => absurd h.2 (not_lt.mpr (hrun h.1))
    rw [hworks', hmode']
    simpa using hshort
  · cases w <;> rfl

theorem laneGone_lane (d : Director) (l : Nat) (w : LaneCause) :
    (lane (laneGone d l w) l).mode ≠ .active ∧ (lane (laneGone d l w) l).lockLoss = satInc (lane d l).lockLoss := by
  have hnoted : lane (lossNoted d l w) l = { lane d l with lockLoss := satInc (lane d l).lockLoss, crcRun := 0 } := by
    rw [lossNoted, lane, raise_sk]; exact lane_modLane ..
  have hgone : lane (laneGone d l w) l = lane (startRetrain (lossNoted d l w) l (soonAgain (lossNoted d l w) l)) l := rfl
  rw [hgone, startRetrain, lane_modLane, hnoted]
  refine ⟨?_, rfl⟩
  dsimp only
  split <;> simp

theorem laneGone_ring (d : Director) (l : Nat) (w : LaneCause) : (laneGone d l w).ring = (lossNoted d l w).ring := rfl

/-! Retraining -/

theorem retrainHoldoffEnd_reaches {s : State} {l : Nat} (hl : l < 4) (hworks : works s.dir = true) (hten : (lane s.dir l).holdTen = true) :
    ∃ t, exec (.retrainHoldoffEnd l) s = .next t ∧ Reached s t (startRetrain (dirStart s.dir) l false) := by
  have hworks' : works (dirStart s.dir) = true := hworks
  have hten' : (lane (dirStart s.dir) l).holdTen = true := hten
  exact unit_reaches (o := execRetrainHoldoffEnd l s) rfl (decide_eq_true hl) (if_pos (by rw [hworks', hten']; rfl))

/-- A lane that has retrained joins again (R385). -/
def laneRejoined (d : Director) (l : Nat) : Director :=
  let d' := modLane d l fun l => { l with mode := .active, retrain := false, prbsRun := false, rejoined := some d.time.raw, retrains := satInc l.retrains }
  modSk d' fun k => { k with ownOk := k.ownOk ||| BitVec.twoPow 4 (logLane d' l), statusDue := true, change := true }

theorem laneRetrainDone_reaches {s : State} {l : Nat} (hl : l < 4) (hworks : works s.dir = true) (hactive : s.dir.sk.active = true)
    (hretrain : (lane s.dir l).retrain = true) (hprbs : (lane s.dir l).prbsRun = true) (hgrant : tget 0 (2 + l) s.dir.bg.grants ≠ 0) :
    ∃ t, exec (.laneRetrainDone l) s = .next t ∧ Reached s t (raise (laneRejoined (dirStart s.dir) l) (52 + l) 0x03 []) := by
  have hworks' : works (dirStart s.dir) = true := hworks
  have hactive' : (dirStart s.dir).sk.active = true := hactive
  have hretrain' : (lane (dirStart s.dir) l).retrain = true := hretrain
  have hprbs' : (lane (dirStart s.dir) l).prbsRun = true := hprbs
  have hgrant' : tget 0 (2 + l) (dirStart s.dir).bg.grants ≠ 0 := hgrant
  exact unit_reaches (o := execLaneRetrainDone l s) rfl (decide_eq_true hl)
    (if_neg (by simp [hworks', hactive', hretrain', hprbs', hgrant']))

theorem laneRejoined_lane (d : Director) (l : Nat) : (lane (laneRejoined d l) l).mode = .active
    ∧ (lane (laneRejoined d l) l).retrains = satInc (lane d l).retrains := by
  have hlane : lane (laneRejoined d l) l = lane (modLane d l fun l =>
    { l with mode := .active, retrain := false, prbsRun := false, rejoined := some d.time.raw, retrains := satInc l.retrains }) l := rfl
  rw [hlane, lane_modLane]
  exact ⟨rfl, rfl⟩

theorem laneRejoined_own (d : Director) {l : Nat} (hl : l < 4) : (laneRejoined d l).sk.ownOk.getLsbD (physLane d l) = true := by
  have hlog : physLane d l < 4 := by unfold physLane; split <;> omega
  show (d.sk.ownOk ||| BitVec.twoPow 4 (physLane d l)).getLsbD (physLane d l) = true
  simp [hlog]

/-! PRBS checkers -/

theorem prbsCheckerResync_tree {s : State} {n : Nat} (e : Nat) (hn : n < 52) (hworks : works s.dir = true) :
    ∃ t, exec (.prbsCheckerResync .tree n e) s = .next t
      ∧ Reached s t (modPort (dirStart s.dir) n fun p => { p with prbs := prbsWindow e p.prbs }) :=
  unit_reaches (o := execPrbsCheckerResync .tree n e s) rfl (decide_eq_true hn) (if_pos hworks)

/-- A checker of the lanes or of the time ports at the end of its 1,024 bits (R389). -/
def prbsChecked (d : Director) (k e : Nat) : Director := { d with prbs := tmod {} k (prbsWindow e) d.prbs }

theorem prbsCheckerResync_skeund {s : State} {n : Nat} (e : Nat) (hn : n < 4) (hworks : works s.dir = true) :
    ∃ t, exec (.prbsCheckerResync .skeund n e) s = .next t ∧ Reached s t (prbsChecked (dirStart s.dir) n e) :=
  unit_reaches (o := execPrbsCheckerResync .skeund n e s) rfl (decide_eq_true hn) (if_pos hworks)

theorem prbsCheckerResync_timePort {s : State} {n : Nat} (e : Nat) (hn : n < 2) (hworks : works s.dir = true) :
    ∃ t, exec (.prbsCheckerResync .timePort n e) s = .next t ∧ Reached s t (prbsChecked (dirStart s.dir) (4 + n) e) :=
  unit_reaches (o := execPrbsCheckerResync .timePort n e s) rfl (decide_eq_true hn) (if_pos hworks)

theorem skPrbs_prbsChecked (d : Director) (k e : Nat) : skPrbs (prbsChecked d k e) k = prbsWindow e (skPrbs d k) := tget_tmod_same _ _ _ _

theorem prbsWindow_locked {p : Prbs} (e : Nat) (hcheck : p.check = true) (hlocked : p.locked = true) :
    (prbsWindow e p).err = satAdd p.err e ∧ (prbsWindow e p).resync = (if 256 ≤ e then satInc p.resync else p.resync)
      ∧ (prbsWindow e p).locked = true := by
  simp only [prbsWindow, hcheck, hlocked, Bool.not_true, Bool.false_eq_true, if_false, if_true]
  split <;> exact ⟨rfl, rfl, rfl⟩

theorem prbsWindow_unlocked {p : Prbs} (e : Nat) (hcheck : p.check = true) (hlocked : p.locked = false) :
    (prbsWindow e p).locked = true ∧ (prbsWindow e p).err = p.err ∧ (prbsWindow e p).resync = p.resync := by
  simp only [prbsWindow, hcheck, hlocked, Bool.not_true, Bool.false_eq_true, if_false]
  split <;> exact ⟨rfl, rfl, rfl⟩

/-! Commands of the cell controller -/

/-- A command ends in the cell controller `c`, with its writes made; the director is as it was. -/
structure CellReached (s t : State) (c : Cell) : Prop where
  cell : t.cell = { c with writes := [] }
  dir : t.dir = s.dir
  mem : t.mem = applyWrites s.mem c.writes

theorem onCell_reaches {s : State} {o : Host.Outcome State Fault Refusal} {f : Cell → Cell} {c : Cell}
    (ho : o = onCell s f) (hf : f (cellStart s.cell) = c) : ∃ t, o = .next t ∧ CellReached s t c := by
  subst hf
  exact ⟨_, ho, rfl, rfl, rfl⟩

theorem unitCell_reaches {s : State} {o : Host.Outcome State Fault Refusal} {p : Bool} {f : Cell → Cell} {c : Cell}
    (ho : o = ifUnit p (onCell s f)) (hp : p = true) (hf : f (cellStart s.cell) = c) : ∃ t, o = .next t ∧ CellReached s t c := by
  rw [hp, ifUnit_true] at ho
  exact onCell_reaches ho hf

theorem prbsCheckerResync_cell {s : State} {n : Nat} (e : Nat) (hn : n < 2) (hmode : s.cell.mode ≠ .unpowered)
    (hcheck : s.cell.prbs.getLsbD 11 = true) (hlink : s.cell.prbs.getLsbD 15 = decide (n = 1)) :
    ∃ t, exec (.prbsCheckerResync .cellLink n e) s = .next t
      ∧ CellReached s t { cellStart s.cell with
          prbsErr := if s.cell.prbsLock then satAdd s.cell.prbsErr e else s.cell.prbsErr, prbsLock := true } := by
  have hmode' : (cellStart s.cell).mode ≠ .unpowered := hmode
  have hcheck' : (cellStart s.cell).prbs.getLsbD 11 = true := hcheck
  have hlink' : (cellStart s.cell).prbs.getLsbD 15 = decide (n = 1) := hlink
  refine unitCell_reaches (o := execPrbsCheckerResync .cellLink n e s) rfl (decide_eq_true hn) (if_neg ?_)
  rw [hcheck', hlink', bne_self_eq_false, decide_eq_false hmode']
  decide

/-- Settles O48: a lane that is lost stays out of the link whether or not the link goes down with it; the checkers work on
their own window of bits. -/
theorem laneLossAndRetraining : Obligations.LaneLossAndRetraining := by
  unfold Obligations.LaneLossAndRetraining
  refine ⟨fun s l w hl hworks hmode hrun => ?_, fun s l hl hworks hten => ?_, fun s l hl hworks hactive hretrain hprbs hgrant => ?_,
    fun s n e hn hworks hcheck hlocked => ?_, fun s n e hn hworks hcheck hlocked => ?_, fun s n e hn hworks hcheck hlocked => ?_,
    fun s n e hn hmode hcheck hlink => ?_⟩
  · obtain ⟨t, hnext, h⟩ := laneLost_reaches hl hworks hmode hrun
    obtain ⟨hgone, hloss⟩ := laneGone_lane (dirStart s.dir) l w
    obtain ⟨hkept, hcount⟩ := checkLink_lane hgone
    refine ⟨t, hnext, by rw [h.lane]; exact hkept, by rw [h.lane, hcount, hloss]; rfl, fun he => h.decided ?_⟩
    refine (checkLink_eventsKept _).decided ?_
    rw [Decided, laneGone_ring]
    exact raise_decides (d := modLane (dirStart s.dir) l fun l => { l with lockLoss := satInc l.lockLoss, crcRun := 0 }) (he.of_eq rfl rfl)
      0x02 (b1 (causeCode w))
  · obtain ⟨t, hnext, h⟩ := retrainHoldoffEnd_reaches hl hworks hten
    have hlane := (h.lane l).trans (lane_modLane ..)
    refine ⟨t, hnext, by rw [hlane]; rfl, by rw [hlane], by rw [hlane], fun k hk => ?_⟩
    rw [h.lane]
    exact lane_modLane_other (dirStart s.dir) hk _
  · obtain ⟨t, hnext, h⟩ := laneRetrainDone_reaches hl hworks hactive hretrain hprbs hgrant
    obtain ⟨hmode, hcount⟩ := laneRejoined_lane (dirStart s.dir) l
    have hlane : lane t.dir l = lane (laneRejoined (dirStart s.dir) l) l := (h.lane l).trans (by rw [lane, raise_sk, lane])
    exact ⟨t, hnext, by rw [hlane, hmode], by rw [hlane, hcount]; rfl, by rw [h.sk, raise_sk]; exact laneRejoined_own (dirStart s.dir) hl,
      by rw [h.sk, raise_sk]; rfl, fun he => reached_decides h he rfl rfl⟩
  · obtain ⟨t, hnext, h⟩ := prbsCheckerResync_tree e hn hworks
    have hport := (h.port n).trans (port_modPort ..)
    obtain ⟨herr, hresync, hlock⟩ := prbsWindow_locked e hcheck hlocked
    refine ⟨t, hnext, by rw [hport]; exact herr, by rw [hport]; exact hresync, by rw [hport]; exact hlock, fun k hk => ?_⟩
    rw [h.port, port_modPort_other _ hk]
    rfl
  · obtain ⟨t, hnext, h⟩ := prbsCheckerResync_skeund e hn hworks
    obtain ⟨herr, hresync, hlock⟩ := prbsWindow_locked e hcheck hlocked
    have hprbs : skPrbs t.dir n = prbsWindow e (skPrbs s.dir n) := (h.get (skPrbs · n) fun _ _ _ _ => rfl).trans (skPrbs_prbsChecked ..)
    exact ⟨t, hnext, by rw [hprbs, herr], by rw [hprbs, hresync], by rw [hprbs, hlock]⟩
  · obtain ⟨t, hnext, h⟩ := prbsCheckerResync_timePort e hn hworks
    obtain ⟨hlock, herr, hresync⟩ := prbsWindow_unlocked e hcheck hlocked
    have hprbs : skPrbs t.dir (4 + n) = prbsWindow e (skPrbs s.dir (4 + n)) :=
      (h.get (skPrbs · (4 + n)) fun _ _ _ _ => rfl).trans (skPrbs_prbsChecked ..)
    exact ⟨t, hnext, by rw [hprbs, hlock], by rw [hprbs, herr], by rw [hprbs, hresync]⟩
  · obtain ⟨t, hnext, h⟩ := prbsCheckerResync_cell e hn hmode hcheck hlink
    exact ⟨t, hnext, by rw [h.cell], by rw [h.cell]⟩

end Sys2Proof.Machine
end

section
/-! PROOF. Key offers and key succession (R592, R596 to R599). -/

namespace Sys2Proof.Machine

/-! What messages to the twin and to the cells leave -/

theorem drainControl_secTime (d : Director) : (drainControl d).sec = d.sec ∧ (drainControl d).time = d.time := by
  unfold drainControl
  split
  · split <;> exact ⟨rfl, rfl⟩
  · exact ⟨rfl, rfl⟩

/-- A record for a cell stands in a port's list, and nothing else changes. -/
theorem mgmtTo_view {β : Type} {view : Director → β} (hview : ∀ d n f, view (modPort d n f) = view d)
    (d : Director) (id mtype : Nat) (body : List Byte) (r : MgmtRec → MgmtRec) : view (mgmtTo d id mtype body r) = view d := by
  unfold mgmtTo
  split
  · rfl
  · exact hview ..

theorem sendOffer_sec {d : Director} (fresh : Nat) (hside : sideNum d = 0) (hactive : d.sk.active = true) :
    ∃ o e, (sendOffer d fresh).sec = { d.sec with skOffer := some o, skEph := e, skRetryAt := some (d.time.raw + tenSeconds) } := by
  unfold sendOffer
  rw [if_neg (by simp [hside, hactive])]
  exact ⟨_, _, (drainControl_secTime _).1⟩

/-! Keys of the link -/

theorem keyAgreed_sec (d : Director) : (keyAgreed d).sec = d.sec := by
  unfold keyAgreed
  refine ite_keeps (view := Director.sec) (foldl_keeps (view := Director.sec) (f := fun d mb => setWait d mb .key) (fun _ _ => rfl) _ d)
    (foldl_keeps (fun d mb => ?_) _ d)
  split
  · exact respond_view (view := Director.sec) (fun _ _ _ _ => rfl) d mb stOK _
  · rfl

/-- The first key of a link comes into force at once, under no successor (R599). -/
theorem installSkKey_first {d : Director} (k : Key) (sw : Cycle) (h : d.sec.skKey = none) :
    (installSkKey d k sw).sec = { d.sec with
      skOffer := none, skRetryAt := none, skKey := some k, skPrev := none, skSince := d.time.raw, skSinceCycle := cyc d, skNext := none } := by
  unfold installSkKey
  dsimp only
  rw [h, Option.isNone_none, Bool.true_or, if_pos rfl]

/-- The successor of a key waits for its cycle (R599). -/
theorem installSkKey_next {d : Director} (k : Key) {sw : Cycle} (h : d.sec.skKey.isSome = true) (hsw : sw ≠ 0) :
    (installSkKey d k sw).sec = { d.sec with skOffer := none, skRetryAt := none, skNext := some (k, sw) } := by
  obtain ⟨old, hold⟩ := Option.isSome_iff_exists.mp h
  have hlater : ¬(d.sec.skKey.isNone || decide (sw = 0)) = true := by rw [hold, decide_eq_false hsw]; simp
  exact congrArg Director.sec (if_neg hlater)

theorem installSkKey_isSome (d : Director) (k : Key) (sw : Cycle) : (installSkKey d k sw).sec.skKey.isSome = true := by
  by_cases hsw : sw = 0
  · unfold installSkKey
    rw [if_pos (by simp [hsw])]
    rfl
  · cases hkey : d.sec.skKey with
    | none => rw [installSkKey_first k sw hkey]; rfl
    | some old =>
      have hold : d.sec.skKey.isSome = true := by rw [hkey]; rfl
      rw [installSkKey_next k hold hsw]
      exact hold

/-- The checks of an offer or answer (R592, R599). -/
def keyGood (d : Director) (p signed_ : List Byte) : Bool :=
  allZero (sub p 1 3) && allZero (sub p 57 7) && twinCertOk d (sub p 64 112)
    && ecdsaVerify (sub (sub p 64 112) 15 33) (sha256 signed_) (sub p 176 64) && onCurve (sub p 24 33)

theorem keyGood_eq {d : Director} {p signed_ : List Byte} (hfirst : allZero (sub p 1 3) = true) (hsecond : allZero (sub p 57 7) = true)
    (hcert : twinCertOk d (sub p 64 112) = true)
    (hsig : ecdsaVerify (sub (sub p 64 112) 15 33) (sha256 signed_) (sub p 176 64) = true) (hcurve : onCurve (sub p 24 33) = true) :
    keyGood d p signed_ = true := by
  rw [keyGood, hfirst, hsecond, hcert, hsig, hcurve]
  rfl

section
variable {d : Director} {p : List Byte} (fresh : Nat) (hlen : p.length = 240)
include hlen

/-- Side Y answers an offer that verifies under a key of its own drawing, or sets it aside (R599). -/
theorem keyIn_offer (hside : sideNum d = 1) (hmsg : byteAt p 0 = 1) :
    (keyGood d p (p.take 176) = false → keyIn d fresh p = twinAuthFail d)
    ∧ (keyGood d p (p.take 176) = true → ∃ e k, e.sec = d.sec ∧ e.time = d.time
        ∧ keyIn d fresh p = keyAgreed (installSkKey e k (BitVec.ofNat 32 (beAt p 4 4)))) := by
  have hturn : (decide (byteAt p 0 = 1) && decide (sideNum d = 1)) = true := by rw [hmsg, hside]; rfl
  have hlen' : ¬p.length ≠ 240 := not_not_intro hlen
  refine ⟨fun hbad => ?_, fun hgood => ?_⟩
  · have hfail : (!keyGood d p (p.take 176)) = true := by rw [hbad]; rfl
    exact (if_neg hlen').trans ((if_pos hturn).trans (if_pos hfail))
  · have hpass : ¬(!keyGood d p (p.take 176)) = true := by rw [hgood]; decide
    obtain ⟨x, hx⟩ : ∃ x, keyIn d fresh p = keyAgreed (installSkKey (drainControl (queueControl d 0x20 x))
        (skeundKey (drawScalar fresh 2) (sub p 24 33) (p.take 176) (keyMsg d 2 (BitVec.ofNat 32 (beAt p 4 4)) (nonce128 fresh 0) (drawScalar fresh 2)))
        (BitVec.ofNat 32 (beAt p 4 4))) := ⟨_, (if_neg hlen').trans ((if_pos hturn).trans (if_neg hpass))⟩
    obtain ⟨hsec, htime⟩ := drainControl_secTime (queueControl d 0x20 x)
    exact ⟨_, _, hsec, htime, hx⟩

/-- Side X takes the key of an answer that verifies (R599). -/
theorem keyIn_answer {o : List Byte} (hside : sideNum d = 0) (hmsg : byteAt p 0 = 2) (hoffer : d.sec.skOffer = some o)
    (hgood : keyGood d p (o ++ p.take 176) = true) :
    keyIn d fresh p = keyAgreed (installSkKey d (skeundKey d.sec.skEph (sub p 24 33) o (p.take 176)) (BitVec.ofNat 32 (beAt o 4 4))) := by
  have hlen' : ¬p.length ≠ 240 := not_not_intro hlen
  have hother : ¬(decide (byteAt p 0 = 1) && decide (sideNum d = 1)) = true := by rw [hmsg]; simp
  have hturn : (decide (byteAt p 0 = 2) && decide (sideNum d = 0)) = true := by rw [hmsg, hside]; rfl
  have hpass : ¬(!keyGood d p (o ++ p.take 176)) = true := by rw [hgood]; decide
  refine (if_neg hlen').trans ((if_neg hother).trans ((if_pos hturn).trans ?_))
  rw [hoffer]
  exact if_neg hpass

end

theorem skeundKeyOfferReceive_reaches {s : State} (p : List Byte) (hworks : works s.dir = true) (hactive : s.dir.sk.active = true) :
    ∃ t, exec (.skeundKeyOfferReceive p) s = .next t ∧ Reached s t (keyIn (dirStart s.dir) s.fresh p) :=
  onDir_reaches (o := execSkeundKeyOfferReceive p s) rfl
    (if_pos (by rw [show works (dirStart s.dir) = true from hworks, show (dirStart s.dir).sk.active = true from hactive]; rfl))

theorem skeundKeyRetry_reaches {s : State} {x : Nat} (hworks : works s.dir = true) (hat : s.dir.sec.skRetryAt = some x)
    (hdue : x < s.dir.time.raw) : ∃ t, exec .skeundKeyRetry s = .next t
      ∧ Reached s t (sendOffer { dirStart s.dir with sec := { s.dir.sec with skRetryAt := none } } s.fresh) := by
  have hworks' : works (dirStart s.dir) = true := hworks
  have hat' : (dirStart s.dir).sec.skRetryAt = some x := hat
  have hdue' : x < (dirStart s.dir).time.raw := hdue
  refine onDir_reaches (o := execSkeundKeyRetry s) rfl ?_
  simp only [hat']
  exact if_pos (by rw [hworks']; exact decide_eq_true hdue')

theorem skeundKeyAge_reaches {s : State} (hworks : works s.dir = true) (hactive : s.dir.sk.active = true)
    (hkey : s.dir.sec.skKey.isSome = true) (hnext : s.dir.sec.skNext = none) (hoffer : s.dir.sec.skOffer = none)
    (haged : keyAged s.dir s.dir.sec.skSince s.dir.sec.skSinceCycle = true) :
    ∃ t, exec .skeundKeyAge s = .next t ∧ Reached s t (sendOffer (dirStart s.dir) s.fresh) := by
  have hworks' : works (dirStart s.dir) = true := hworks
  have hactive' : (dirStart s.dir).sk.active = true := hactive
  have hkey' : (dirStart s.dir).sec.skKey.isSome = true := hkey
  have hnext' : (dirStart s.dir).sec.skNext = none := hnext
  have hoffer' : (dirStart s.dir).sec.skOffer = none := hoffer
  have haged' : keyAged (dirStart s.dir) (dirStart s.dir).sec.skSince (dirStart s.dir).sec.skSinceCycle = true := haged
  exact onDir_reaches (o := execSkeundKeyAge s) rfl (if_pos (by rw [hworks', hactive', hkey', hnext', hoffer', haged']; rfl))

/-! Keys of the trees and of the cells -/

/-- A tree's next key, drawn and waiting for its cycle (R597). -/
def treeDrawn (d : Director) (fresh n : Nat) : Director :=
  { d with sec := { d.sec with
      trees := tset n { treeKey d n with next := some (BitVec.ofNat 128 (nonce128 fresh (2 * n)), addCyc (cyc d) 4097) } d.sec.trees } }

theorem startRekey_sec {d : Director} (fresh : Nat) {n : Nat} (h : (treeKey d n).next = none) :
    (startRekey d fresh n).sec = (treeDrawn d fresh n).sec := by
  have hnone : ¬(treeKey d n).next.isSome = true := by rw [h]; decide
  unfold startRekey
  refine (congrArg Director.sec (if_neg hnone)).trans ?_
  exact foldl_keeps (view := Director.sec) (fun d id => mgmtTo_view (view := Director.sec) (fun _ _ _ => rfl) d id ..) _ (treeDrawn d fresh n)

theorem treeRekeyStart_reaches {s : State} {n : Nat} (hn : n < 52) (hworks : works s.dir = true) (hhere : portHere (part s.dir) n = true)
    (hrun : s.dir.time.running = true) (hvalid : (treeKey s.dir n).valid = true)
    (haged : keyAged s.dir (treeKey s.dir n).since (treeKey s.dir n).sinceCycle = true) :
    ∃ t, exec (.treeRekeyStart n) s = .next t ∧ Reached s t (startRekey (dirStart s.dir) s.fresh n) := by
  have hworks' : works (dirStart s.dir) = true := hworks
  have hhere' : portHere (part (dirStart s.dir)) n = true := hhere
  have hrun' : (dirStart s.dir).time.running = true := hrun
  have hvalid' : (treeKey (dirStart s.dir) n).valid = true := hvalid
  have haged' : keyAged (dirStart s.dir) (treeKey (dirStart s.dir) n).since (treeKey (dirStart s.dir) n).sinceCycle = true := haged
  exact unit_reaches (o := execTreeRekeyStart n s) rfl (decide_eq_true hn)
    (if_pos (by rw [hworks', hhere', hrun', hvalid', haged']; rfl))

/-- A tree whose rekeying is over (R598). -/
def treeRekeyed (d : Director) (n : Nat) : Director :=
  { d with sec := { d.sec with trees := tset n { treeKey d n with rekeyed := none } d.sec.trees } }

theorem rekeyDone_reaches {s : State} {n : Nat} {fr : Cycle} (hn : n < 52) (hworks : works s.dir = true)
    (hrekeyed : (treeKey s.dir n).rekeyed = some fr) (hdue : 0 ≤ cycleDiff (cyc s.dir) (fr + 2)) :
    ∃ t data e, exec (.rekeyDone n) s = .next t ∧ Reached s t e ∧ (e = raise (treeRekeyed (dirStart s.dir) n) 210 0x01 data
      ∨ ∃ data', e = raise (raise (treeRekeyed (dirStart s.dir) n) 210 0x01 data) 210 0x02 data') := by
  have hworks' : works (dirStart s.dir) = true := hworks
  have hrekeyed' : (treeKey (dirStart s.dir) n).rekeyed = some fr := hrekeyed
  have hdue' : ¬cycleDiff (cyc (dirStart s.dir)) (fr + 2) < 0 := not_lt.mpr hdue
  obtain ⟨t, hnext, h⟩ := unit_reaches (o := execRekeyDone n s) rfl (decide_eq_true hn) rfl
  dsimp only at h
  rw [hrekeyed'] at h
  dsimp only at h
  rw [if_neg (by rw [hworks', decide_eq_false hdue']; decide)] at h
  split at h
  · exact ⟨t, _, _, hnext, h, .inr ⟨_, rfl⟩⟩
  · exact ⟨t, _, _, hnext, h, .inl rfl⟩

theorem sessionKeyRoll_reaches {s : State} (hworks : works s.dir = true) (hrun : s.dir.time.running = true)
    (hcycle : (cyc s.dir).toNat % rollPeriod (planN (cfg s.dir)) = 0) (hrolled : s.dir.sec.rolledAt ≠ some (cyc s.dir)) :
    ∃ t, exec .sessionKeyRoll s = .next t ∧ Reached s t { dirStart s.dir with
      sec := { s.dir.sec with rolledAt := some (cyc s.dir) }
      cells := s.dir.cells.map fun (id, r) => (id, { r with key := r.key.map fun k => nextSession k (cyc s.dir) }) } := by
  have hworks' : works (dirStart s.dir) = true := hworks
  have hrun' : (dirStart s.dir).time.running = true := hrun
  have hcycle' : (cyc (dirStart s.dir)).toNat % rollPeriod (planN (cfg (dirStart s.dir))) = 0 := hcycle
  have hrolled' : (dirStart s.dir).sec.rolledAt ≠ some (cyc (dirStart s.dir)) := hrolled
  exact onDir_reaches (o := execSessionKeyRoll s) rfl (if_neg (by simp [hworks', hrun', hcycle', hrolled']))

/-- Settles O49: an offer is set aside or agreed, and an agreement changes the key through `installSkKey` alone; keys of trees
and cells each have their own row. -/
theorem keys : Obligations.Keys := by
  unfold Obligations.Keys
  refine ⟨fun s p hworks hactive hside hlen hmsg hbad => ?_, fun s p hworks hactive hside hlen hmsg hfirst hsecond hcert hsig hcurve => ?_,
    fun s p o hworks hactive hside hlen hmsg hoffer hfirst hsecond hcert hsig hcurve hnone => ?_,
    fun s x hworks hactive hside hat hdue => ?_, fun s hworks hactive hside hkey hnext hoffer haged => ?_,
    fun s n hn hworks hhere hrun hvalid haged hnone => ?_, fun s n fr hn hworks hrekeyed hdue => ?_,
    fun s hworks hrun hcycle hrolled => ?_⟩
  · obtain ⟨t, hnext, h⟩ := skeundKeyOfferReceive_reaches p hworks hactive
    have hfail : keyGood (dirStart s.dir) p (p.take 176) = false := by rw [keyGood, hbad]; rfl
    rw [(keyIn_offer (d := dirStart s.dir) s.fresh hlen hside hmsg).1 hfail, twinAuthFail] at h
    exact ⟨t, hnext, by rw [h.sec, raise_sec]; rfl, by rw [h.sec, raise_sec]; rfl, fun he => reached_decides h he rfl rfl⟩
  · obtain ⟨t, hnext, h⟩ := skeundKeyOfferReceive_reaches p hworks hactive
    obtain ⟨e, k, hsec, htime, hin⟩ := (keyIn_offer (d := dirStart s.dir) s.fresh hlen hside hmsg).2
      (keyGood_eq hfirst hsecond hcert hsig hcurve)
    rw [hin] at h
    have hkept := h.sec.trans (keyAgreed_sec _)
    have hcyc : cyc e = cyc s.dir := by rw [cyc, htime]; rfl
    refine ⟨t, hnext, by rw [hkept]; exact installSkKey_isSome .., fun hnone => ?_, fun hsome hsw => ?_⟩
    · rw [hkept, installSkKey_first _ _ (by rw [hsec]; exact hnone)]
      exact ⟨rfl, hcyc⟩
    · have hlt : beAt p 4 4 < 2 ^ 32 := lt_of_lt_of_le (beNat_lt _) (Nat.pow_le_pow_right (n := 256) (by decide) (List.length_take_le 4 _))
      have hsw' : BitVec.ofNat 32 (beAt p 4 4) ≠ 0 := fun hzero => hsw <| by
        have := congrArg BitVec.toNat hzero
        rwa [BitVec.toNat_ofNat, Nat.mod_eq_of_lt hlt] at this
      rw [hkept, installSkKey_next _ (by rw [hsec]; exact hsome) hsw', hsec]
      exact ⟨rfl, k, rfl⟩
  · obtain ⟨t, hnext, h⟩ := skeundKeyOfferReceive_reaches p hworks hactive
    rw [keyIn_answer (d := dirStart s.dir) s.fresh hlen hside hmsg hoffer (keyGood_eq hfirst hsecond hcert hsig hcurve)] at h
    have hkept := h.sec.trans (keyAgreed_sec _)
    rw [installSkKey_first (d := dirStart s.dir) _ _ hnone] at hkept
    exact ⟨t, hnext, by rw [hkept]; rfl, by rw [hkept], by rw [hkept]⟩
  · obtain ⟨t, hnext, h⟩ := skeundKeyRetry_reaches hworks hat hdue
    obtain ⟨o, e, hsec⟩ := sendOffer_sec (d := { dirStart s.dir with sec := { s.dir.sec with skRetryAt := none } }) s.fresh hside hactive
    exact ⟨t, hnext, by rw [h.sec, hsec]; rfl, by rw [h.sec, hsec], by rw [h.sec, hsec]; rfl⟩
  · obtain ⟨t, hnext', h⟩ := skeundKeyAge_reaches hworks hactive hkey hnext hoffer haged
    obtain ⟨o, e, hsec⟩ := sendOffer_sec (d := dirStart s.dir) s.fresh hside hactive
    exact ⟨t, hnext', by rw [h.sec, hsec]; rfl, by rw [h.sec, hsec]; rfl⟩
  · obtain ⟨t, hnext, h⟩ := treeRekeyStart_reaches hn hworks hhere hrun hvalid haged
    have hsec := h.sec.trans (startRekey_sec (d := dirStart s.dir) s.fresh hnone)
    have hsame : treeKey t.dir n = { treeKey s.dir n with
        next := some (BitVec.ofNat 128 (nonce128 s.fresh (2 * n)), addCyc (cyc s.dir) 4097) } := by
      rw [treeKey, hsec]; exact tget_tset_same ..
    refine ⟨t, _, hnext, by rw [hsame], by rw [hsame], fun m hm => ?_⟩
    rw [treeKey, hsec]
    exact tget_tset_other _ hm _ _
  · obtain ⟨t, data, e, hnext, h, hraised⟩ := rekeyDone_reaches hn hworks hrekeyed hdue
    have hsec : e.sec = (treeRekeyed (dirStart s.dir) n).sec := by
      rcases hraised with rfl | ⟨data', rfl⟩
      · exact raise_sec ..
      · exact (raise_sec ..).trans (raise_sec ..)
    have hevents : EventsKept e (raise (treeRekeyed (dirStart s.dir) n) 210 0x01 data) := by
      rcases hraised with rfl | ⟨data', rfl⟩
      · exact .refl _
      · exact raise_eventsKept ..
    have hsame : treeKey t.dir n = { treeKey s.dir n with rekeyed := none } := by rw [treeKey, h.sec, hsec]; exact tget_tset_same ..
    refine ⟨t, hnext, by rw [hsame], by rw [hsame], fun he => ?_⟩
    obtain ⟨x, hmem, hsource, hdetail, -⟩ := raise_decides (d := treeRekeyed (dirStart s.dir) n) (he.of_eq rfl rfl) 0x01 data
    exact ⟨x, by rw [h.ring]; exact hevents.mem x hmem, hsource, hdetail⟩
  · obtain ⟨t, hnext, h⟩ := sessionKeyRoll_reaches hworks hrun hcycle hrolled
    refine ⟨t, hnext, by rw [h.sec], fun id => ?_⟩
    rw [h.cellRec]
    exact congrArg CellRec.key (tget_map (fun r : CellRec => { r with key := r.key.map fun k => nextSession k (cyc s.dir) }) {} id s.dir.cells)

end Sys2Proof.Machine
end

section
/-! PROOF. Records, triggers and the automatic trigger (R399, R406 to R414). -/

namespace Sys2Proof.Machine

/-! Events, and bytes written to DDR4 -/

section
variable {β : Type} {view : Director → β} (hview : ∀ d r, view { d with ring := r } = view d)
include hview

theorem raise_view (d : Director) (source detail : Nat) (data : List Byte) : view (raise d source detail data) = view d := by
  rw [raise_eq, hview]

theorem raiseLim_view (d : Director) (key source detail : Nat) (data : List Byte) : view (raiseLim d key source detail data) = view d := by
  unfold raiseLim
  exact ite_keeps ((raise_view hview ..).trans (hview ..)) rfl

end

/-- What a write leaves of every other byte. -/
theorem otherBytesKept_ddr (m : Stores) (a : Nat) (bs : List Byte) (k : MemId) :
    OtherBytesKept m (applyWrite m { dest := .ddr, addr := a, data := bs }) .ddr a bs.length k := by
  refine fun x hx => rdByte_applyWrite_outside m _ (hx.imp_left fun hne => ?_)
  cases k with
  | ddr => exact absurd rfl hne
  | _ => rfl

/-! Records -/

/-- The flag byte of a record (R400). -/
def recordFlags (d : Director) (i : Nat) (ti : Option Nat) (bs : List Byte) : Nat :=
  byteAt bs 18 + b2n (ti = some i) + 2 * b2n d.rcd.dropBefore

/-- A record stored in its slot of DDR4, or dropped for want of room in staging (R399, R408). -/
def recordTaken (d : Director) (room : Bool) (i : Nat) (ti : Option Nat) (bs : List Byte) : Director :=
  if room then
    let d := putMem d { dest := .ddr, addr := slotAddr d i, data := bs.take 18 ++ b1 (recordFlags d i ti bs) ++ bs.drop 19 }
    modRcd d fun r => { r with stored := r.stored + 1, dropBefore := false }
  else
    let d := modRcd d fun r => { r with drops := satInc r.drops, dropCnt := satInc r.dropCnt, dropBefore := true, sawDrop := true }
    raiseLim d (limKey 76 0 0) 76 0 (b4 d.rcd.dropCnt.toNat)

/-- A record of a TRIGGERED segment counts its post-trigger intervals, the last of which closes it (R404, R406). -/
def postCounted (d : Director) (i : Nat) : Option Nat → Director
  | some t =>
    let d := if t < i then modRcd d fun r => { r with post := i - t } else d
    if t + d.rcd.postLen ≤ i then modRcd d fun r => { r with mode := .closing, ready := [], interval := [] } else d
  | none => d

/-- The interval of the trigger taken (R406). -/
def trigInterval (d : Director) : Option Nat := match d.rcd.trig with | some t => some (intervalOf d t.cycle) | none => none

theorem recordIntervalWrite_reaches {s : State} {c0 : Cycle} {bs : List Byte} {r : List (Cycle × List Byte)} (room : Bool)
    (hready : s.dir.rcd.ready = (c0, bs) :: r) (hworks : works s.dir = true) (hrec : recording s.dir = true) :
    ∃ t, exec (.recordIntervalWrite room) s = .next t ∧ Reached s t
      (postCounted (recordTaken (modRcd (dirStart s.dir) fun x => { x with ready := r }) room (intervalOf s.dir c0) (trigInterval s.dir) bs)
        (intervalOf s.dir c0) (trigInterval s.dir)) := by
  have hready' : (dirStart s.dir).rcd.ready = (c0, bs) :: r := hready
  have hworks' : works (dirStart s.dir) = true := hworks
  have hrec' : recording (dirStart s.dir) = true := hrec
  obtain ⟨t, hnext, h⟩ := onDir_reaches (o := execRecordIntervalWrite room s) rfl rfl
  rw [hready'] at h
  dsimp only at h
  rw [if_neg (by rw [hworks', hrec']; decide)] at h
  exact ⟨t, hnext, h⟩

theorem trigInterval_none {d : Director} (h : d.rcd.trig = none) : trigInterval d = none := by rw [trigInterval, h]

theorem trigInterval_some {d : Director} {t : Trigger} (h : d.rcd.trig = some t) : trigInterval d = some (intervalOf d t.cycle) := by
  rw [trigInterval, h]

/-- A record that is stored changes of the recorder its count and its note of a drop. -/
theorem recordTaken_room (d : Director) (i : Nat) (ti : Option Nat) (bs : List Byte) :
    (recordTaken d true i ti bs).rcd = { d.rcd with stored := d.rcd.stored + 1, dropBefore := false }
    ∧ (recordTaken d true i ti bs).writes =
        { dest := .ddr, addr := slotAddr d i, data := bs.take 18 ++ b1 (recordFlags d i ti bs) ++ bs.drop 19 } :: d.writes := ⟨rfl, rfl⟩

theorem recordTaken_full (d : Director) (i : Nat) (ti : Option Nat) (bs : List Byte) :
    (recordTaken d false i ti bs).rcd =
        { d.rcd with drops := satInc d.rcd.drops, dropCnt := satInc d.rcd.dropCnt, dropBefore := true, sawDrop := true }
    ∧ (recordTaken d false i ti bs).writes = d.writes :=
  ⟨raiseLim_view (view := Director.rcd) (fun _ _ => rfl) .., raiseLim_view (view := Director.writes) (fun _ _ => rfl) ..⟩

/-- Stored or dropped, a record leaves the mode, the trigger's length and the records after it. -/
theorem recordTaken_kept (d : Director) (room : Bool) (i : Nat) (ti : Option Nat) (bs : List Byte) :
    (recordTaken d room i ti bs).rcd.mode = d.rcd.mode ∧ (recordTaken d room i ti bs).rcd.postLen = d.rcd.postLen
      ∧ (recordTaken d room i ti bs).rcd.ready = d.rcd.ready := by
  cases room with
  | true => exact ⟨rfl, rfl, rfl⟩
  | false => rw [(recordTaken_full d i ti bs).1]; exact ⟨rfl, rfl, rfl⟩

/-- The record's bytes with the flags in their place have its length, and differ from it in byte 18 alone. -/
theorem flagged_length {bs : List Byte} (f : Nat) (h : 19 ≤ bs.length) : (bs.take 18 ++ b1 f ++ bs.drop 19).length = bs.length := by
  simp [b1]; omega

theorem flagged_getElem {bs : List Byte} (f : Nat) (h : 19 ≤ bs.length) {j : Nat} (hj : j < bs.length) (hne : j ≠ 18) :
    (bs.take 18 ++ b1 f ++ bs.drop 19)[j]'(by rw [flagged_length f h]; exact hj) = bs[j] := by
  have hone : (b1 f).length = 1 := toLE_length 1 f
  by_cases hlow : j < 18
  · rw [List.getElem_append_left (by simp [hone]; omega), List.getElem_append_left (by simp; omega), List.getElem_take]
  · rw [List.getElem_append_right (by simp [hone]; omega), List.getElem_drop]
    congr 1
    simp [hone]
    omega

theorem postCounted_triggered {d : Director} {i t : Nat} :
    (t + d.rcd.postLen ≤ i → (postCounted d i (some t)).rcd.mode = .closing ∧ (postCounted d i (some t)).rcd.ready = [])
    ∧ (i < t + d.rcd.postLen → (postCounted d i (some t)).rcd.mode = d.rcd.mode ∧ (postCounted d i (some t)).rcd.ready = d.rcd.ready) := by
  have hlen : (if t < i then modRcd d fun r => { r with post := i - t } else d).rcd.postLen = d.rcd.postLen :=
    ite_keeps (view := (·.rcd.postLen)) rfl rfl
  unfold postCounted
  dsimp only
  rw [hlen]
  refine ⟨fun h => ?_, fun h => ?_⟩
  · rw [if_pos h]; exact ⟨rfl, rfl⟩
  · rw [if_neg (not_le.mpr h)]
    exact ⟨ite_keeps (view := (·.rcd.mode)) rfl rfl, ite_keeps (view := (·.rcd.ready)) rfl rfl⟩

/-! Triggers -/

theorem foldl_fixed_of_mem {α β : Type} {f : β → α → β} {l : List α} {a : β} (h : ∀ x ∈ l, f a x = a) : l.foldl f a = a := by
  induction l with
  | nil => rfl
  | cons x r ih => rw [List.foldl_cons, h x List.mem_cons_self, ih fun y hy => h y (List.mem_cons_of_mem _ hy)]

/-- No trigger unit is configured: none runs. -/
theorem runUnits_none {d : Director} {k : Cycle} (h : ∀ i, i < 64 → rp d 11 i 0 = 0) : runUnits d k = (d, []) :=
  foldl_fixed_of_mem fun i hi => if_pos (h i (List.mem_range.mp hi))

/-- No pattern is configured: it only keeps the match of its cycle (R413). -/
theorem patternFires_none {d : Director} {k : Cycle} (h : rp d 22 0 0 = 0) :
    ∃ hit, patternFires d k = (modRcd d fun r => { r with patPrev := some hit }, false) := by
  unfold patternFires
  rw [h]
  exact ⟨_, rfl⟩

/-- The record of the trigger interval is marked where it already stands in DDR4 (R400). -/
def trigMarked (m : Stores) (d : Director) (k : Cycle) (t : Trigger) : Director :=
  if cycleDiff (addCyc d.rcd.armAt ((intervalOf d t.cycle + 1) * max 1 (recRed (cfg d)))) (k + 1) ≤ 0
      && !d.rcd.ready.any (fun x => intervalOf d x.1 = intervalOf d t.cycle) then
    putMem d { dest := .ddr, addr := slotAddr d (intervalOf d t.cycle) + 18, data := [rdByte m .ddr (slotAddr d (intervalOf d t.cycle) + 18) ||| 1] }
  else d

/-- The trigger of a command (R409, R509). -/
def cmdTrigger (d : Director) (k : Cycle) : Trigger := mkTrigger d 3 0 false k 0 0 false

/-- The point of a command is decided with its cycle (R409, R509). -/
def pointAsked (d : Director) : Director := modRcd d fun r => { r with pCmd := none }

/-- The trigger of a command, taken in an ARMED segment (R406, R409). -/
def pointTaken (m : Stores) (d : Director) (k : Cycle) : Director :=
  trigMarked m (takeTrigger (pointAsked d) (cmdTrigger (pointAsked d) k) [] false) k (cmdTrigger (pointAsked d) k)

theorem earliest_singleton (t : Trigger) : earliest [t] = some t := rfl

section
variable {m : Stores} {d u e : Director} {k : Cycle} (hk : k = cyc d - 2) (hbase : (baseOf d k).isSome = true)
  (hnew : d.rcd.decided ≠ some k) (hrun : runUnits (modRcd d fun r => { r with decided := some k }) k = (u, []))
  (hpat : patternFires u k = (e, false)) (hauto : e.rcd.autoPoint = none) (hfrz : e.rcd.pFreeze = none)
include hk hbase hnew hrun hpat hauto hfrz

/-- With no point due, deciding the cycle is all (R409). -/
theorem triggerDecide_idle (hcmd : e.rcd.pCmd = none) : triggerDecide m d = e := by
  have hgo : ¬(decide (d.rcd.decided = some k) || (baseOf d k).isNone) = true := by
    simp [hnew, Option.isSome_iff_ne_none.mp hbase]
  have hnone : earliest [] = none := rfl
  unfold triggerDecide
  rw [← hk]
  refine (if_neg hgo).trans ?_
  simp only [hrun, hpat, hauto, hcmd, hfrz, reduceCtorEq, if_false, Option.isSome_none, Bool.false_eq_true, List.append_nil,
    List.filter_nil, hnone, ite_self, List.foldl_nil, List.any_nil, answerTrigger, decide_]

section
variable {mb : Nat} (hcmd : e.rcd.pCmd = some (k, mb))
include hcmd

/-- The point of a command is taken in ARMED, where it lies in a record (R406, R409, R509). -/
theorem triggerDecide_armed (hmode : e.rcd.mode = .armed) (hdrain : e.frz.draining = false) (hin : 0 ≤ cycleDiff k e.rcd.armAt) :
    triggerDecide m d = answerTrigger (pointTaken m e k) (some mb) ((pointTaken m e k).rcd.seg.getD 0xFF) 1 k := by
  have hgo : ¬(decide (d.rcd.decided = some k) || (baseOf d k).isNone) = true := by
    simp [hnew, Option.isSome_iff_ne_none.mp hbase]
  have hfrz' : (pointAsked e).rcd.pFreeze = none := hfrz
  have hmode' : (pointAsked e).rcd.mode = .armed := hmode
  have hdrain' : (pointAsked e).frz.draining = false := hdrain
  have hcycle : (mkTrigger (pointAsked e) 3 0 false k 0 0 false).cycle = k := rfl
  have hcause : (mkTrigger (pointAsked e) 3 0 false k 0 0 false).cause = 3 := rfl
  have hfreeze : (mkTrigger (pointAsked e) 3 0 false k 0 0 false).freeze = false := rfl
  have hin' : 0 ≤ cycleDiff k (pointAsked e).rcd.armAt := hin
  unfold triggerDecide
  rw [← hk]
  refine (if_neg hgo).trans ?_
  simp only [hrun, hpat, hauto, hcmd, reduceCtorEq, if_false, if_true, Option.isSome_some, Bool.false_eq_true, List.append_nil,
    List.nil_append, ite_self]
  rw [← pointAsked]
  simp only [hfrz', hmode', hdrain', reduceCtorEq, if_false, if_true, List.append_nil, List.filter_cons, List.filter_nil, hcycle, hin',
    decide_true, earliest_singleton, List.erase_nil, List.foldl_nil, hcause, hfreeze, List.any_nil, Bool.false_eq_true]
  rfl

/-- In TRIGGERED the point of a command is a missed trigger (R409, R509). -/
theorem triggerDecide_triggered (hmode : e.rcd.mode = .triggered) :
    triggerDecide m d = answerTrigger (missTrigger (pointAsked e) (cmdTrigger (pointAsked e) k)) (some mb)
      ((missTrigger (pointAsked e) (cmdTrigger (pointAsked e) k)).rcd.seg.getD 0xFF) 0 k := by
  have hgo : ¬(decide (d.rcd.decided = some k) || (baseOf d k).isNone) = true := by
    simp [hnew, Option.isSome_iff_ne_none.mp hbase]
  have hfrz' : (pointAsked e).rcd.pFreeze = none := hfrz
  have hmode' : (pointAsked e).rcd.mode = .triggered := hmode
  have hother : inTrigCycle (pointAsked e) (mkTrigger (pointAsked e) 3 0 false k 0 0 false) = false := by
    rw [inTrigCycle, hmode']; rfl
  have hfreeze : (mkTrigger (pointAsked e) 3 0 false k 0 0 false).freeze = false := rfl
  unfold triggerDecide
  rw [← hk]
  refine (if_neg hgo).trans ?_
  simp only [hrun, hpat, hauto, hcmd, reduceCtorEq, if_false, if_true, Option.isSome_some, Bool.false_eq_true, List.append_nil,
    List.nil_append, ite_self]
  rw [← pointAsked]
  simp only [hfrz', hmode', reduceCtorEq, if_false, List.append_nil, List.foldl_cons, List.foldl_nil, hother, List.any_cons, List.any_nil,
    hfreeze, Bool.or_self, Bool.false_eq_true]
  rfl

end

end

theorem trigMarked_kept (m : Stores) (d : Director) (k : Cycle) (t : Trigger) :
    (trigMarked m d k t).rcd = d.rcd ∧ (trigMarked m d k t).mbs = d.mbs ∧ (trigMarked m d k t).ring = d.ring :=
  ⟨ite_keeps (view := Director.rcd) rfl rfl, ite_keeps (view := Director.mbs) rfl rfl, ite_keeps (view := Director.ring) rfl rfl⟩

/-- The event of a trigger taken, before the segment is marked (R406). -/
def trigRaised (d : Director) (t : Trigger) (sg : Nat) : Director :=
  raise (modRcd d fun r =>
    { r with
      mode := .triggered, trig := some t, preAct := min d.rcd.preLen (intervalOf d t.cycle)
      firstSlot := (intervalOf d t.cycle + max 1 d.rcd.cap - min d.rcd.preLen (intervalOf d t.cycle) % max 1 d.rcd.cap) % max 1 d.rcd.cap
      units := if t.cause = 0 && t.cycle = t.cycle then 0 ||| BitVec.twoPow 64 t.unit else 0, autoPoint := none })
    73 0x00 (b1 sg ++ b1 t.cause ++ zeros 2 ++ b4 t.cycle.toNat)

theorem takeTrigger_eq {d : Director} {sg : Nat} (t : Trigger) (hseg : d.rcd.seg = some sg) :
    takeTrigger d t [] false = setSeg (trigRaised d t sg) sg .triggered := by
  unfold takeTrigger trigRaised
  simp only [hseg, Option.getD_some, List.foldl_cons, List.foldl_nil, Bool.false_eq_true, if_false]

theorem pointTaken_kept {m : Stores} {e : Director} {k : Cycle} {sg : Nat} (hseg : e.rcd.seg = some sg) :
    (pointTaken m e k).rcd.mode = .triggered ∧ (pointTaken m e k).rcd.trig = some (cmdTrigger (pointAsked e) k)
      ∧ segMode (pointTaken m e k) sg = .triggered ∧ (pointTaken m e k).rcd.pCmd = none ∧ (pointTaken m e k).rcd.seg = some sg
      ∧ (pointTaken m e k).mbs = e.mbs ∧ (pointTaken m e k).ring = (trigRaised (pointAsked e) (cmdTrigger (pointAsked e) k) sg).ring := by
  obtain ⟨hrcd, hmbs, hring⟩ := trigMarked_kept m (takeTrigger (pointAsked e) (cmdTrigger (pointAsked e) k) [] false) k (cmdTrigger (pointAsked e) k)
  have htake := takeTrigger_eq (d := pointAsked e) (cmdTrigger (pointAsked e) k) hseg
  have hraised : (trigRaised (pointAsked e) (cmdTrigger (pointAsked e) k) sg).rcd = _ := raise_rcd ..
  rw [htake] at hrcd hmbs hring
  unfold pointTaken
  rw [segMode, htake, hrcd, hmbs, hring, setSeg, modRcd, hraised]
  exact ⟨rfl, rfl, tget_tset_same .., rfl, hseg, raise_mbs .., rfl⟩

theorem missTrigger_rcd (d : Director) (t : Trigger) : ∃ x, (missTrigger d t).rcd =
    { d.rcd with missed := satInc d.rcd.missed, missLog := (x :: d.rcd.missLog).take 8 } :=
  ⟨_, raiseLim_view (view := Director.rcd) (fun _ _ => rfl) ..⟩

theorem missTrigger_mbs (d : Director) (t : Trigger) : (missTrigger d t).mbs = d.mbs := raiseLim_view (view := Director.mbs) (fun _ _ => rfl) ..

/-- The answer of a command's point waits in its mailbox, and nothing else changes (R509). -/
theorem answerTrigger_eq (d : Director) (mb seg taken : Nat) (k : Cycle) {c : Cmd} (hc : (mbx d mb).cmd = some c) :
    (mbx (answerTrigger d (some mb) seg taken k) mb).cmd = some { c with outcome := some (0, b1 seg ++ b1 taken ++ zeros 2 ++ b4 k.toNat) }
    ∧ (answerTrigger d (some mb) seg taken k).rcd = d.rcd ∧ (answerTrigger d (some mb) seg taken k).ring = d.ring := by
  refine ⟨?_, rfl, rfl⟩
  rw [answerTrigger, decide_, modCmd, mbx_modMbx, hc]
  rfl

/-- The point of a command, missed in TRIGGERED (R409). -/
def pointMissed (e : Director) (k : Cycle) : Director := missTrigger (pointAsked e) (cmdTrigger (pointAsked e) k)

theorem pointMissed_kept (e : Director) (k : Cycle) :
    (pointMissed e k).rcd.mode = e.rcd.mode ∧ (pointMissed e k).rcd.trig = e.rcd.trig ∧ (pointMissed e k).rcd.seg = e.rcd.seg
      ∧ (pointMissed e k).rcd.missed = satInc e.rcd.missed ∧ (pointMissed e k).rcd.missLog.length = min 8 (e.rcd.missLog.length + 1)
      ∧ (pointMissed e k).mbs = e.mbs := by
  obtain ⟨x, hmiss⟩ := missTrigger_rcd (pointAsked e) (cmdTrigger (pointAsked e) k)
  unfold pointMissed
  rw [hmiss, missTrigger_mbs, List.length_take, List.length_cons]
  exact ⟨rfl, rfl, rfl, rfl, rfl, rfl⟩

/-- The cycle decided, with the match of its pattern (R409, R413). -/
def pointDecided (d : Director) (k : Cycle) (hit : Bool) : Director :=
  modRcd (modRcd d fun r => { r with decided := some k }) fun r => { r with patPrev := some hit }

theorem triggerDecide_reaches {s : State} (hworks : works s.dir = true) (hrun : s.dir.time.running = true) :
    ∃ t, exec .triggerDecide s = .next t ∧ Reached s t (triggerDecide s.mem (dirStart s.dir)) := by
  have hworks' : works (dirStart s.dir) = true := hworks
  have hrun' : (dirStart s.dir).time.running = true := hrun
  exact onDir_reaches (o := execTriggerDecide s) rfl (if_pos (by rw [hworks', hrun']; rfl))

theorem trigRaised_decides {d : Director} (he : Enabled d 73) (t : Trigger) (sg : Nat) :
    Decided (trigRaised d t sg) 73 0x00 (b1 sg ++ b1 t.cause ++ zeros 2 ++ b4 t.cycle.toNat) := by
  refine raise_decides ?_ 0x00 _
  exact he.of_eq rfl rfl

section
variable {s : State} {k : Cycle} (hworks : works s.dir = true) (hrun : s.dir.time.running = true) (hk : k = cyc s.dir - 2)
  (hbase : (baseOf s.dir k).isSome = true) (hnew : s.dir.rcd.decided ≠ some k) (hunits : ∀ i, i < 64 → rp s.dir 11 i 0 = 0)
  (hpat : rp s.dir 22 0 0 = 0) (hauto : s.dir.rcd.autoPoint = none) (hfrz : s.dir.rcd.pFreeze = none)
include hworks hrun hk hbase hnew hunits hpat hauto hfrz

theorem triggerDecide_none (hcmd : s.dir.rcd.pCmd = none) :
    ∃ t hit, exec .triggerDecide s = .next t ∧ Reached s t (pointDecided (dirStart s.dir) k hit) := by
  obtain ⟨hit, hhit⟩ := patternFires_none (d := modRcd (dirStart s.dir) fun r => { r with decided := some k }) (k := k) hpat
  obtain ⟨t, hnext, h⟩ := triggerDecide_reaches hworks hrun
  rw [triggerDecide_idle (d := dirStart s.dir) hk hbase hnew (runUnits_none hunits) hhit hauto hfrz hcmd] at h
  exact ⟨t, hit, hnext, h⟩

theorem triggerDecide_take {mb : Nat} (hcmd : s.dir.rcd.pCmd = some (k, mb)) (hmode : s.dir.rcd.mode = .armed)
    (hdrain : s.dir.frz.draining = false) (hin : 0 ≤ cycleDiff k s.dir.rcd.armAt) :
    ∃ t hit, exec .triggerDecide s = .next t ∧ Reached s t (answerTrigger (pointTaken s.mem (pointDecided (dirStart s.dir) k hit) k) (some mb)
      ((pointTaken s.mem (pointDecided (dirStart s.dir) k hit) k).rcd.seg.getD 0xFF) 1 k) := by
  obtain ⟨hit, hhit⟩ := patternFires_none (d := modRcd (dirStart s.dir) fun r => { r with decided := some k }) (k := k) hpat
  obtain ⟨t, hnext, h⟩ := triggerDecide_reaches hworks hrun
  rw [triggerDecide_armed (d := dirStart s.dir) hk hbase hnew (runUnits_none hunits) hhit hauto hfrz hcmd hmode hdrain hin] at h
  exact ⟨t, hit, hnext, h⟩

theorem triggerDecide_miss {mb : Nat} (hcmd : s.dir.rcd.pCmd = some (k, mb)) (hmode : s.dir.rcd.mode = .triggered) :
    ∃ t hit, exec .triggerDecide s = .next t ∧ Reached s t (answerTrigger (pointMissed (pointDecided (dirStart s.dir) k hit) k) (some mb)
      ((pointMissed (pointDecided (dirStart s.dir) k hit) k).rcd.seg.getD 0xFF) 0 k) := by
  obtain ⟨hit, hhit⟩ := patternFires_none (d := modRcd (dirStart s.dir) fun r => { r with decided := some k }) (k := k) hpat
  obtain ⟨t, hnext, h⟩ := triggerDecide_reaches hworks hrun
  rw [triggerDecide_triggered (d := dirStart s.dir) hk hbase hnew (runUnits_none hunits) hhit hauto hfrz hcmd hmode] at h
  exact ⟨t, hit, hnext, h⟩

end

theorem autoTrigger_reaches {s : State} (hworks : works s.dir = true) (hmode : s.dir.rcd.mode = .armed) (hn : rp s.dir 7 0 0 ≠ 0)
    (hdue : rp s.dir 7 0 0 ≤ s.dir.rcd.autoRun) (hpoint : s.dir.rcd.autoPoint = none) :
    ∃ t, exec .autoTrigger s = .next t ∧ Reached s t (modRcd (dirStart s.dir) fun r =>
      { r with autoPoint := some (addCyc r.armAt (r.autoRun * max 1 (recRed (cfg s.dir)))) }) := by
  have hworks' : works (dirStart s.dir) = true := hworks
  have hmode' : (dirStart s.dir).rcd.mode = .armed := hmode
  have hn' : rp (dirStart s.dir) 7 0 0 ≠ 0 := hn
  have hdue' : rp (dirStart s.dir) 7 0 0 ≤ (dirStart s.dir).rcd.autoRun := hdue
  have hpoint' : (dirStart s.dir).rcd.autoPoint = none := hpoint
  exact onDir_reaches (o := execAutoTrigger s) rfl (if_pos (by simp [hworks', hmode', hn', hdue', hpoint']))

/-- Settles O50: a record goes to its slot or is dropped; deciding a cycle without configured units turns on the command's
point alone. -/
theorem recordsAndTriggers : Obligations.RecordsAndTriggers := by
  unfold Obligations.RecordsAndTriggers
  refine ⟨fun s c0 bs r hinv hworks hmode htrig hready hlen => ⟨?_, ?_⟩, fun s c0 bs r tr room hworks hmode htrig hready => ?_,
    fun s k hworks hrun hk hbase hnew hunits hpat hauto hfrz hdrain => ?_, fun s hworks hmode hn hdue hpoint => ?_⟩
  · obtain ⟨t, hnext, h⟩ := recordIntervalWrite_reaches true hready hworks (by simp [recording, hmode])
    rw [trigInterval_none htrig] at h
    obtain ⟨hrcd, hwrites⟩ := recordTaken_room (modRcd (dirStart s.dir) fun x => { x with ready := r }) (intervalOf s.dir c0) none bs
    have hmem := h.mem_of_write hwrites
    have hwf := (memWf_iff s.mem).mp hinv.1
    refine ⟨t, hnext, by rw [h.rcd]; rfl, by rw [h.rcd]; rfl, by rw [h.rcd]; exact hmode, fun j hj hne => ?_, fun k _ => ?_⟩
    · rw [hmem, ← flagged_getElem (recordFlags (modRcd (dirStart s.dir) fun x => { x with ready := r }) (intervalOf s.dir c0) none bs) hlen hj hne]
      exact rdByte_applyWrite_inside _ hwf _
    · rw [hmem, ← flagged_length (recordFlags (modRcd (dirStart s.dir) fun x => { x with ready := r }) (intervalOf s.dir c0) none bs) hlen]
      exact otherBytesKept_ddr s.mem _ _ k
  · obtain ⟨t, hnext, h⟩ := recordIntervalWrite_reaches false hready hworks (by simp [recording, hmode])
    rw [trigInterval_none htrig] at h
    obtain ⟨hrcd, hwrites⟩ := recordTaken_full (modRcd (dirStart s.dir) fun x => { x with ready := r }) (intervalOf s.dir c0) none bs
    have hrcd' := h.rcd.trans hrcd
    refine ⟨t, hnext, by rw [hrcd']; rfl, by rw [hrcd']; rfl, h.mem_of_quiet hwrites, ?_, ?_, ?_⟩ <;> rw [hrcd'] <;> rfl
  · obtain ⟨t, hnext, h⟩ := recordIntervalWrite_reaches room hready hworks (by simp [recording, hmode])
    rw [trigInterval_some htrig] at h
    obtain ⟨hkept, hpost, hrest⟩ := recordTaken_kept (modRcd (dirStart s.dir) fun x => { x with ready := r }) room (intervalOf s.dir c0)
      (some (intervalOf s.dir tr.cycle)) bs
    obtain ⟨hclose, hopen⟩ := postCounted_triggered (d := recordTaken (modRcd (dirStart s.dir) fun x => { x with ready := r }) room
      (intervalOf s.dir c0) (some (intervalOf s.dir tr.cycle)) bs) (i := intervalOf s.dir c0) (t := intervalOf s.dir tr.cycle)
    rw [hpost] at hclose hopen
    rw [hkept, hrest] at hopen
    refine ⟨t, hnext, fun hlate => by rw [h.rcd]; exact hclose hlate, fun hearly => ?_⟩
    obtain ⟨hm, hr⟩ := hopen hearly
    rw [h.rcd]
    exact ⟨hm.trans hmode, hr⟩
  · refine ⟨fun hcmd => ?_, fun mb c sg hcmd hc hseg hmode hin => ?_, fun mb c sg hcmd hc hseg hmode => ?_⟩
    · obtain ⟨t, hit, hnext, h⟩ := triggerDecide_none hworks hrun hk hbase hnew hunits hpat hauto hfrz hcmd
      exact ⟨t, hnext, by rw [h.rcd]; rfl, by rw [h.rcd]; rfl, by rw [h.rcd]; rfl, by rw [h.rcd]; rfl, h.mem_of_quiet rfl⟩
    · obtain ⟨t, hit, hnext, h⟩ := triggerDecide_take hworks hrun hk hbase hnew hunits hpat hauto hfrz hcmd hmode hdrain hin
      obtain ⟨hmode', htrig, hsg, hpcmd, hseg', hmbs, hring⟩ := pointTaken_kept (m := s.mem) (k := k) (e := pointDecided (dirStart s.dir) k hit) hseg
      rw [hseg', Option.getD_some] at h
      have hc' : (mbx (pointTaken s.mem (pointDecided (dirStart s.dir) k hit) k) mb).cmd = some c := by rw [mbx, hmbs]; exact hc
      obtain ⟨hanswer, hrcd, hring'⟩ := answerTrigger_eq _ mb sg 1 k hc'
      have hrcd' := h.rcd.trans hrcd
      refine ⟨t, _, hnext, by rw [hrcd']; exact hmode', by rw [hrcd']; exact htrig, rfl, rfl,
        by rw [segMode, hrcd']; exact hsg, by rw [hrcd']; exact hpcmd, by rw [h.mbx]; exact hanswer, fun he => ?_⟩
      rw [Decided, h.ring, hring', hring]
      exact trigRaised_decides (d := pointAsked (pointDecided (dirStart s.dir) k hit)) (he.of_eq rfl rfl) _ sg
    · obtain ⟨t, hit, hnext, h⟩ := triggerDecide_miss hworks hrun hk hbase hnew hunits hpat hauto hfrz hcmd hmode
      obtain ⟨hmode', htrig, hseg', hmissed, hlog, hmbs⟩ := pointMissed_kept (pointDecided (dirStart s.dir) k hit) k
      have hseg'' : (pointMissed (pointDecided (dirStart s.dir) k hit) k).rcd.seg = some sg := hseg'.trans hseg
      have hc' : (mbx (pointMissed (pointDecided (dirStart s.dir) k hit) k) mb).cmd = some c := by rw [mbx, hmbs]; exact hc
      rw [hseg'', Option.getD_some] at h
      obtain ⟨hanswer, hrcd, -⟩ := answerTrigger_eq _ mb sg 0 k hc'
      have hrcd' := h.rcd.trans hrcd
      exact ⟨t, hnext, by rw [hrcd']; exact hmode'.trans hmode, by rw [hrcd']; exact htrig, by rw [hrcd']; exact hmissed,
        by rw [hrcd']; exact hlog, by rw [h.mbx]; exact hanswer⟩
  · obtain ⟨t, hnext, h⟩ := autoTrigger_reaches hworks hmode hn hdue hpoint
    exact ⟨t, hnext, by rw [h.rcd]; rfl, by rw [h.rcd]; exact hmode⟩

end Sys2Proof.Machine
end

section
/-! PROOF. Closing and rearming segments, and the telemetry queues (R403, R404, R407, R419). -/

namespace Sys2Proof.Machine

/-! Segments -/

theorem segHeader_length (d : Director) (i : Nat) : (segHeader d i).length = 128 := by
  unfold segHeader
  extract_lets c r t x
  have hx : x.length = 124 := by
    simp only [x, List.length_append, b1, b2, b4, time96Le, toLE_length, zeros_length, List.length_cons, List.length_nil]
  rw [List.length_append, hx, b4, toLE_length]

/-- What follows the close of a segment: a stop, or the segment to arm next (R404). -/
def closedOn (d : Director) (i : Nat) : Director :=
  let d := if d.frz.draining then { d with frz := { d.frz with seg := i } } else d
  if d.rcd.stopAfter || d.frz.draining then recStopped d else
  match nextAfter d i with
  | some j => modRcd d fun r => { r with nextSeg := some j, armAt := cyc d }
  | none => recStopped d

/-- A segment closed under its header (R403). -/
def segClosed (d : Director) (i : Nat) : Director :=
  raise (setSeg (putMem d { dest := .ddr, addr := segStart d i, data := segHeader d i }) i .closed) 74 0x00 (b1 i)

theorem segmentClose_reaches {s : State} {i : Nat} (hworks : works s.dir = true) (hseg : s.dir.rcd.seg = some i)
    (hmode : s.dir.rcd.mode = .closing) (hnext : s.dir.rcd.nextSeg = none) :
    ∃ t, exec .segmentClose s = .next t ∧ Reached s t (closedOn (segClosed (dirStart s.dir) i) i) := by
  have hworks' : works (dirStart s.dir) = true := hworks
  have hseg' : (dirStart s.dir).rcd.seg = some i := hseg
  have hmode' : (dirStart s.dir).rcd.mode = .closing := hmode
  have hnext' : (dirStart s.dir).rcd.nextSeg = none := hnext
  refine onDir_reaches (o := execSegmentClose s) rfl ?_
  simp only [hseg']
  refine (if_neg ?_).trans rfl
  simp [hworks', hmode', hnext']

theorem recStopped_view {β : Type} {view : Director → β} (hring : ∀ d r, view { d with ring := r } = view d)
    (hrcd : ∀ d, view (modRcd d fun r => { r with mode := .stopped, nextSeg := none, stopAfter := false, ready := [], interval := []
                                                  autoRun := 0, autoPoint := none }) = view d) (d : Director) :
    view (recStopped d) = view d := by
  unfold recStopped
  exact ite_keeps rfl ((raise_view hring ..).trans (hrcd d))

theorem closedOn_view {β : Type} {view : Director → β} (hfrz : ∀ d f, view { d with frz := f } = view d)
    (hring : ∀ d r, view { d with ring := r } = view d)
    (hstop : ∀ d, view (modRcd d fun r => { r with mode := .stopped, nextSeg := none, stopAfter := false, ready := [], interval := []
                                                   autoRun := 0, autoPoint := none }) = view d)
    (hnext : ∀ d j c, view (modRcd d fun r => { r with nextSeg := some j, armAt := c }) = view d) (d : Director) (i : Nat) :
    view (closedOn d i) = view d := by
  have hkept : view (if d.frz.draining then { d with frz := { d.frz with seg := i } } else d) = view d := ite_keeps (hfrz ..) rfl
  unfold closedOn
  refine ite_keeps ((recStopped_view hring hstop _).trans hkept) ?_
  split
  · exact (hnext ..).trans hkept
  · exact (recStopped_view hring hstop _).trans hkept

theorem recStopped_eventsKept (d : Director) : EventsKept (recStopped d) d :=
  .ite (.refl d) ((raise_eventsKept ..).trans (.of_ring rfl))

theorem closedOn_eventsKept (d : Director) (i : Nat) : EventsKept (closedOn d i) d := by
  have hkept : EventsKept (if d.frz.draining then { d with frz := { d.frz with seg := i } } else d) d := .ite (.of_ring rfl) (.refl d)
  unfold closedOn
  refine .ite ((recStopped_eventsKept _).trans hkept) ?_
  split
  · refine EventsKept.trans (t := if d.frz.draining then { d with frz := { d.frz with seg := i } } else d) (.of_ring ?_) hkept
    rfl
  · exact (recStopped_eventsKept _).trans hkept

theorem segClosed_kept (d : Director) (i : Nat) : segMode (segClosed d i) i = .closed
    ∧ (segClosed d i).writes = { dest := .ddr, addr := segStart d i, data := segHeader d i } :: d.writes := by
  unfold segClosed
  rw [segMode, raise_rcd, raise_writes]
  exact ⟨tget_tset_same .., rfl⟩

theorem segClosed_decides {d : Director} (he : Enabled d 74) (i : Nat) : Decided (segClosed d i) 74 0 (toLE 1 i) := by
  unfold segClosed
  refine raise_decides (he.of_eq ?_ ?_) 0x00 (b1 i) <;> rfl

/-- Bytes just written at an address read back from there on. -/
theorem rdByte_written {m m' : Stores} {a : Nat} {bs : List Byte} (hm : m.wf) (hm' : m' = applyWrite m { dest := .ddr, addr := a, data := bs })
    {j : Nat} (hj : j < bs.length) : rdByte m' .ddr (a + j) = bs.getD j 0 := by
  rw [hm', List.getD_eq_getElem _ _ hj]
  exact rdByte_applyWrite_inside { dest := .ddr, addr := a, data := bs } hm hj

theorem recorderRearm_reaches {s : State} {j : Nat} (hworks : works s.dir = true) (hrun : s.dir.time.running = true)
    (hmode : s.dir.rcd.mode = .closing) (hnext : s.dir.rcd.nextSeg = some j) (hbound : boundaryAt s.dir (cyc s.dir) = cyc s.dir)
    (hlater : 0 < cycleDiff (cyc s.dir) s.dir.rcd.armAt) :
    ∃ t, exec .recorderRearm s = .next t ∧ Reached s t (armSeg (dirStart s.dir) j (cyc s.dir)) := by
  have hworks' : works (dirStart s.dir) = true := hworks
  have hrun' : (dirStart s.dir).time.running = true := hrun
  have hmode' : (dirStart s.dir).rcd.mode = .closing := hmode
  have hnext' : (dirStart s.dir).rcd.nextSeg = some j := hnext
  have hbound' : boundaryAt (dirStart s.dir) (cyc (dirStart s.dir)) = cyc (dirStart s.dir) := hbound
  have hlater' : 0 < cycleDiff (cyc (dirStart s.dir)) (dirStart s.dir).rcd.armAt := hlater
  refine onDir_reaches (o := execRecorderRearm s) rfl ?_
  simp only [hnext']
  refine (if_pos ?_).trans rfl
  simp [hworks', hrun', hmode', hbound', hlater']

/-- The shape of arming (R402, R404, R407). The capacity and the parameters are variables here: with them in place the
kernel computes the clamp of the pre- and post-trigger lengths. -/
theorem armSeg_shape (d : Director) (i : Nat) (at_ : Cycle) : ∃ e cl w f,
    armSeg d i at_ = setSeg (modRcd (putMem (if cl != 0 then raise e 72 0x02 (b1 i) else e) w) f) i .armed
      ∧ e.mbs = d.mbs ∧ (segMode d i = .closed → e.rcd.overwrite = satInc d.rcd.overwrite)
      ∧ ∀ r, (f r).mode = .armed ∧ (f r).seg = some i ∧ (f r).armAt = at_ ∧ (f r).stored = 0 ∧ (f r).overwrite = r.overwrite := by
  obtain ⟨arm, harm⟩ : ∃ f, f = armSeg := ⟨_, rfl⟩
  rw [← harm]
  delta armSeg at harm
  generalize segCap = capOf at harm
  generalize rp = rpOf at harm
  rw [harm]
  beta_reduce
  extract_lets over_ noted cap pre post
  have hmbs : noted.mbs = d.mbs := by
    simp only [noted]
    exact ite_keeps (raise_mbs ..) rfl
  have hnoted : segMode d i = .closed → noted.rcd.overwrite = satInc d.rcd.overwrite := by
    intro hclosed
    simp only [noted, over_]
    rw [if_pos hclosed, raise_rcd]
    rfl
  clear_value noted cap pre post
  generalize (if cap < post + 1 then _ else _ : Nat × Nat × Nat) = lens
  obtain ⟨pl, ql, cl⟩ := lens
  exact ⟨noted, cl, _, _, rfl, hmbs, hnoted, fun r => ⟨rfl, rfl, rfl, rfl, rfl⟩⟩

theorem armSeg_kept (d : Director) (i : Nat) (at_ : Cycle) :
    (armSeg d i at_).rcd.mode = .armed ∧ (armSeg d i at_).rcd.seg = some i ∧ (armSeg d i at_).rcd.armAt = at_
      ∧ segMode (armSeg d i at_) i = .armed ∧ (armSeg d i at_).rcd.stored = 0
      ∧ (segMode d i = .closed → (armSeg d i at_).rcd.overwrite = satInc d.rcd.overwrite) := by
  obtain ⟨e, cl, w, f, harm, -, hover, hf⟩ := armSeg_shape d i at_
  have hclamp : (if cl != 0 then raise e 72 0x02 (b1 i) else e).rcd = e.rcd := ite_keeps (raise_rcd ..) rfl
  generalize (if cl != 0 then raise e 72 0x02 (b1 i) else e) = e' at harm hclamp
  rw [harm]
  obtain ⟨hmode, hseg, hat, hstored, hkept⟩ := hf e'.rcd
  exact ⟨hmode, hseg, hat, tget_tset_same .., hstored, fun hclosed => hkept.trans ((congrArg _ hclamp).trans (hover hclosed))⟩

theorem armSeg_mbs (d : Director) (i : Nat) (at_ : Cycle) : (armSeg d i at_).mbs = d.mbs := by
  obtain ⟨e, cl, w, f, harm, hmbs, -, -⟩ := armSeg_shape d i at_
  rw [harm]
  exact (ite_keeps (raise_mbs ..) rfl).trans hmbs

/-! Telemetry queues -/

/-- The unread bytes of a queue. -/
def tqBytes (l : List TqItem) : List Byte := l.flatMap fun i => i.bytes.drop i.read

theorem tqUsed_eq (l : List TqItem) : tqUsed l = (tqBytes l).length := by
  have hsum : ∀ n, l.foldl (fun n i => n + (i.bytes.length - i.read)) n = n + (tqBytes l).length := by
    induction l with
    | nil => simp [tqBytes]
    | cons i r ih => intro n; rw [List.foldl_cons, ih]; simp [tqBytes]; omega
  rw [tqUsed, hsum, Nat.zero_add]

/-- Taking bytes from a queue splits its unread bytes (R419). -/
theorem tqTake_bytes (n : Nat) (l : List TqItem) : (tqTake n l).1 = (tqBytes l).take n ∧ tqBytes (tqTake n l).2 = (tqBytes l).drop n := by
  induction l generalizing n with
  | nil => simp [tqTake, tqBytes]
  | cons i r ih =>
    have hbytes : tqBytes (i :: r) = i.bytes.drop i.read ++ tqBytes r := rfl
    unfold tqTake
    dsimp only
    split
    · next hzero => subst hzero; exact ⟨rfl, rfl⟩
    · split
      · next hall =>
        obtain ⟨hbs, hrest⟩ := ih (n - (i.bytes.drop i.read).length)
        rw [hbytes, List.take_append, List.take_of_length_le hall, List.drop_append, List.drop_of_length_le hall, ← hbs, ← hrest]
        exact ⟨rfl, rfl⟩
      · next hpart =>
        have hle : n ≤ (i.bytes.drop i.read).length := Nat.le_of_lt (not_le.mp hpart)
        rw [hbytes, List.take_append_of_le_length hle, List.drop_append_of_le_length hle, List.drop_drop]
        exact ⟨rfl, rfl⟩

theorem toLE_zero (n : Nat) : toLE n 0 = zeros n := by
  induction n with
  | zero => rfl
  | succ n ih => rw [toLE, Nat.zero_div, ih]; rfl

theorem toLE_leNat_short (k : Nat) (bs : List Byte) : toLE (bs.length + k) (leNat bs) = bs ++ zeros k := by
  induction bs with
  | nil => rw [leNat, List.length_nil, Nat.zero_add, toLE_zero]; rfl
  | cons b r ih =>
    have hb := b.isLt
    rw [List.length_cons, Nat.add_right_comm, toLE, leNat, List.cons_append]
    refine congrArg₂ List.cons (BitVec.eq_of_toNat_eq ?_) ?_
    · rw [BitVec.toNat_ofNat]; omega
    · rw [show (b.toNat + 256 * leNat r) / 256 = leNat r by omega, ih]

/-- A word of a queue's data port spells the bytes it carries, padded with zeros (R419). -/
theorem toLE_word {bs : List Byte} (h : bs.length ≤ 16) : toLE 16 (BitVec.ofNat 128 (leNat bs)).toNat = padTo 16 bs := by
  have hlt : leNat bs < 2 ^ 128 := lt_of_lt_of_le (leNat_lt bs) (Nat.pow_le_pow_right (n := 256) (by decide) h)
  have hpad := toLE_leNat_short (16 - bs.length) bs
  rw [Nat.add_sub_cancel' h] at hpad
  rw [BitVec.toNat_ofNat, Nat.mod_eq_of_lt hlt, hpad, padTo, List.take_append, List.take_of_length_le h, zeros, zeros, List.take_replicate,
    Nat.min_eq_left (by omega)]

/-- What a read of a data port makes of its queue (R419). -/
def tqRead (t : Tq) : Tq :=
  if tqUsed t.items = 0 then { t with word := 0 }
  else { t with items := (tqTake 16 t.items).2, word := BitVec.ofNat 128 (leNat (tqTake 16 t.items).1) }

theorem tqRead_word (t : Tq) : toLE 16 (tqRead t).word.toNat = padTo 16 ((tqBytes t.items).take 16)
    ∧ tqUsed (tqRead t).items + min 16 (tqUsed t.items) = tqUsed t.items := by
  obtain ⟨hbs, hrest⟩ := tqTake_bytes 16 t.items
  unfold tqRead
  split
  · next hnone =>
    have hempty : tqBytes t.items = [] := List.length_eq_zero_iff.mp (tqUsed_eq t.items ▸ hnone)
    rw [hempty, hnone, List.take_nil]
    exact ⟨show toLE 16 (0 : BitVec 128).toNat = padTo 16 [] by decide, rfl⟩
  · dsimp only
    rw [toLE_word (by rw [hbs]; exact List.length_take_le ..), hbs, tqUsed_eq, hrest, tqUsed_eq, List.length_drop]
    exact ⟨rfl, by omega⟩

theorem tqDataRead_reaches {s : State} {q : Nat} (hq : q < 6) (hworks : works s.dir = true) :
    ∃ t d, exec (.tqDataRead q) s = .next t ∧ Reached s t d ∧ d.writes = [] ∧ d.tqs = tmod {} q (fun _ => tqRead (tq s.dir q)) s.dir.tqs := by
  have hworks' : works (dirStart s.dir) = true := hworks
  obtain ⟨t, hnext, h⟩ := unit_reaches (o := execTqDataRead q s) rfl (decide_eq_true hq)
    (if_neg (by rw [hworks']; decide))
  dsimp only at h
  split at h
  · next hnone =>
    refine ⟨t, _, hnext, h, rfl, ?_⟩
    rw [tqRead, if_pos (show tqUsed (tq s.dir q).items = 0 from hnone)]
    rfl
  · next hsome =>
    refine ⟨t, _, hnext, h, rfl, ?_⟩
    rw [tqRead, if_neg (show ¬tqUsed (tq s.dir q).items = 0 from hsome)]
    rfl

/-- Settles O51: a close writes the header and leaves the rest of memory to the steps after it; a read of a queue takes its
next bytes. -/
theorem segmentsAndQueues : Obligations.SegmentsAndQueues := by
  unfold Obligations.SegmentsAndQueues
  refine ⟨fun s i hinv hworks hseg hmode hnone => ?_, fun s j hworks hrun hmode hnextSeg hbound hlater => ?_, fun s q hq hworks => ?_⟩
  · obtain ⟨t, hnext, h⟩ := segmentClose_reaches hworks hseg hmode hnone
    obtain ⟨hclosed, hwrites⟩ := segClosed_kept (dirStart s.dir) i
    have hmem : t.mem = applyWrite s.mem { dest := .ddr, addr := segStart s.dir i, data := segHeader s.dir i } :=
      h.mem_of_write ((closedOn_view (view := Director.writes) (fun _ _ => rfl) (fun _ _ => rfl) (fun _ => rfl) (fun _ _ _ => rfl) _ i).trans hwrites)
    have hlen := segHeader_length s.dir i
    refine ⟨t, hnext, ?_, fun j hj => ?_, fun k _ => ?_, fun he => h.decided ?_⟩
    · rw [segMode, h.rcd]
      exact (closedOn_view (view := (segMode · i)) (fun _ _ => rfl) (fun _ _ => rfl) (fun _ => rfl) (fun _ _ _ => rfl) _ i).trans hclosed
    · exact rdByte_written ((memWf_iff s.mem).mp hinv.1) hmem (by rw [hlen]; exact hj)
    · rw [hmem, ← hlen]
      exact otherBytesKept_ddr s.mem _ _ k
    · exact (closedOn_eventsKept _ i).decided (segClosed_decides (d := dirStart s.dir) (he.of_eq rfl rfl) i)
  · obtain ⟨t, hnext, h⟩ := recorderRearm_reaches hworks hrun hmode hnextSeg hbound hlater
    obtain ⟨harmed, hseg, hat, hsegMode, hstored, hover⟩ := armSeg_kept (dirStart s.dir) j (cyc s.dir)
    refine ⟨t, hnext, by rw [h.rcd, harmed], by rw [h.rcd, hseg], by rw [h.rcd, hat], by rw [segMode, h.rcd]; exact hsegMode,
      by rw [h.rcd, hstored], fun hclosed => ?_⟩
    rw [h.rcd]
    exact hover hclosed
  · obtain ⟨t, d, hnext, h, hwrites, htqs⟩ := tqDataRead_reaches hq hworks
    have hsame : tq t.dir q = tqRead (tq s.dir q) := by rw [tq, h.tqs, htqs]; exact tget_tmod_same ..
    obtain ⟨hword, hused⟩ := tqRead_word (tq s.dir q)
    refine ⟨t, hnext, by rw [hsame]; exact hword, by rw [hsame]; exact hused, fun k hk => ?_, h.mem_of_quiet hwrites⟩
    rw [tq, h.tqs, htqs]
    exact tget_tmod_other _ hk _ _

end Sys2Proof.Machine
end

section
/-! PROOF. What holds of every mailbox command that is due (R430 to R436, R456). -/

namespace Sys2Proof.Machine

/-! The director a command starts from is the state's -/

@[simp] theorem dirStart_frame (d : Director) :
    (dirStart d).boot = d.boot ∧ (dirStart d).host = d.host ∧ (dirStart d).mbs = d.mbs ∧ (dirStart d).ring = d.ring
      ∧ (dirStart d).disp = d.disp ∧ (dirStart d).cfg = d.cfg ∧ (dirStart d).sec = d.sec ∧ (dirStart d).frz = d.frz
      ∧ (dirStart d).arms = d.arms ∧ (dirStart d).ports = d.ports ∧ (dirStart d).cells = d.cells ∧ (dirStart d).time = d.time
      ∧ (dirStart d).sk = d.sk ∧ (dirStart d).rcd = d.rcd ∧ (dirStart d).tqs = d.tqs ∧ (dirStart d).bg = d.bg
      ∧ (dirStart d).pins = d.pins ∧ (dirStart d).prbs = d.prbs ∧ (dirStart d).tx = [] ∧ (dirStart d).writes = [] := by
  and_intros <;> rfl

@[simp] theorem dirStart_accessors (d : Director) :
    (∀ a, arm (dirStart d) a = arm d a) ∧ (∀ n, port (dirStart d) n = port d n) ∧ (∀ i, cellRec (dirStart d) i = cellRec d i)
      ∧ (∀ n, mbx (dirStart d) n = mbx d n) ∧ (∀ i, dom (dirStart d) i = dom d i) ∧ (∀ n, lane (dirStart d) n = lane d n)
      ∧ cfg (dirStart d) = cfg d ∧ part (dirStart d) = part d ∧ cyc (dirStart d) = cyc d := by
  and_intros <;> intros <;> rfl

/-! Running -/

theorem due_reaches {i : Instr} {s : State} {mb op : Nat} {c : Cmd} {f : Director → Cmd → Director} {d : Director}
    (hrun : exec i s = onCmd s mb op f) (hdue : Due s mb op c) (hf : f (dirStart s.dir) c = d) :
    ∃ t, exec i s = .next t ∧ Reached s t d := by
  obtain ⟨hmb, hserves, hactive, hcmd, hop, hwait⟩ := hdue
  obtain ⟨t, p, a, g, x, hnext, hdir, -, -, -, hmem⟩ := onCmd_next f hmb hcmd hserves hactive hop hwait
  rw [hf] at hdir hmem
  exact ⟨t, hrun.trans hnext, ⟨p, a, g, x, hdir⟩, hmem⟩

theorem setWait_cmd {d : Director} {n : Nat} {c : Cmd} (hc : (mbx d n).cmd = some c) (w : Wait) :
    (mbx (setWait d n w) n).cmd = some { c with wait := w } := by
  rw [setWait, mbx_modMbx]
  exact congrArg (Option.map _) hc

/-- A due command whose row makes `d` of the director and waits. -/
theorem due_waits {i : Instr} {s : State} {mb op : Nat} {c : Cmd} {f : Director → Cmd → Director} {d : Director} {w : Wait}
    (hrun : exec i s = onCmd s mb op f) (hdue : Due s mb op c) (hf : f (dirStart s.dir) c = setWait d mb w) (hmbs : d.mbs = s.dir.mbs) :
    ∃ t, exec i s = .next t ∧ (mbx t.dir mb).cmd = some { c with wait := w } ∧ Reached s t (setWait d mb w) := by
  obtain ⟨t, hnext, h⟩ := due_reaches hrun hdue hf
  obtain ⟨-, -, -, hcmd, -, -⟩ := hdue
  refine ⟨t, hnext, ?_, h⟩
  rw [h.mbx]
  refine setWait_cmd ?_ w
  rw [mbx, hmbs]
  exact hcmd

/-- A due command that is refused leaves all but its mailbox. -/
theorem due_refused {i : Instr} {s : State} {mb op st : Nat} {c : Cmd} {f : Director → Cmd → Director}
    (hrun : exec i s = onCmd s mb op f) (hdue : Due s mb op c) (hf : f (dirStart s.dir) c = refuse (dirStart s.dir) mb st)
    (hst : st ≠ stAuth) : ∃ t, exec i s = .next t ∧ Answered t.dir mb c st [] ∧ OnlyAnswers t.dir (dirStart s.dir) := by
  obtain ⟨t, hnext, hans, honly, -, -⟩ := answered_of_due hrun hdue hf rfl hst
  exact ⟨t, hnext, hans, honly⟩

/-- What only answers leaves every part of the director that is no mailbox, host interface or output. -/
theorem OnlyAnswers.view {β : Type} {t d : Director} (h : OnlyAnswers t d) (view : Director → β)
    (hview : ∀ m i x w, view { d with mbs := m, host := i, tx := x, writes := w } = view d) : view t = view d := by
  rw [OnlyAnswers] at h
  rw [h]
  exact hview ..

theorem OnlyAnswers.arms {t d : Director} (h : OnlyAnswers t d) : t.arms = d.arms := h.view (·.arms) fun _ _ _ _ => rfl
theorem OnlyAnswers.ports {t d : Director} (h : OnlyAnswers t d) : t.ports = d.ports := h.view (·.ports) fun _ _ _ _ => rfl
theorem OnlyAnswers.cells {t d : Director} (h : OnlyAnswers t d) : t.cells = d.cells := h.view (·.cells) fun _ _ _ _ => rfl
theorem OnlyAnswers.time {t d : Director} (h : OnlyAnswers t d) : t.time = d.time := h.view (·.time) fun _ _ _ _ => rfl
theorem OnlyAnswers.rcd {t d : Director} (h : OnlyAnswers t d) : t.rcd = d.rcd := h.view (·.rcd) fun _ _ _ _ => rfl

/-! Checks -/

/-- A cycle that the APPLY checks accept (R456). -/
theorem applyChecks_pass {d : Director} {ap : Nat} (hbaked : d.cfg.baked = true) (hearly : 2 ≤ cycleDiff (BitVec.ofNat 32 ap) (cyc d))
    (hlate : cycleDiff (BitVec.ofNat 32 ap) (cyc d) ≤ 65536) : ∀ x ∈ applyChecks d ap, x.1 = false := by
  simp [applyChecks, hbaked, not_lt.mpr hearly, hlate]

theorem natIn_iff {x lo hi : Nat} : natIn x lo hi = true ↔ lo ≤ x ∧ x ≤ hi := by simp [natIn]

/-! Payloads -/

@[simp] theorem b1_length (n : Nat) : (b1 n).length = 1 := toLE_length ..
@[simp] theorem b2_length (n : Nat) : (b2 n).length = 2 := toLE_length ..
@[simp] theorem b4_length (n : Nat) : (b4 n).length = 4 := toLE_length ..
@[simp] theorem b4z_length (i : Int) : (b4z i).length = 4 := toLE_length ..
@[simp] theorem b8z_length (i : Int) : (b8z i).length = 8 := toLE_length ..
@[simp] theorem b4c_length (i : Int) : (b4c i).length = 4 := toLE_length ..
@[simp] theorem time96Le_length (i : Int) : (time96Le i).length = 12 := toLE_length ..

theorem byteAt_b1 (n : Nat) (r : List Byte) : byteAt (b1 n ++ r) 0 = n % 256 := byteAt_toLE_append n r

theorem byteAt_b1_next (n o : Nat) (r : List Byte) : byteAt (b1 n ++ r) (o + 1) = byteAt r o := rfl

theorem leAt_skip {a : List Byte} {k : Nat} (h : a.length = k) (r : List Byte) (o n : Nat) : leAt (a ++ r) (k + o) n = leAt r o n := by
  rw [leAt_append_of_le (by omega), h, Nat.add_sub_cancel_left]

theorem leAt_word (w : BitVec 32) (r : List Byte) : leAt (b4 w.toNat ++ r) 0 4 = w.toNat :=
  (leAt_toLE_append ..).trans (Nat.mod_eq_of_lt w.isLt)

end Sys2Proof.Machine
end

section
/-! PROOF. The time group (R502 to R505). -/

namespace Sys2Proof.Machine

theorem timeSnapshot_answers {s : State} {mb : Nat} {c : Cmd} (tick : Nat) (hdue : Due s mb 0x0700 c) :
    ∃ t p, exec (.timeSnapshot mb tick) s = .next t ∧ Answered t.dir mb c stOK p ∧ p.length = 36
      ∧ p.take 12 = toLE 12 (time96 (s.dir.time.now + tick * tickInc s.dir.time.c)).toNat ∧ leAt p 12 4 = (cyc s.dir).toNat
      ∧ t.dir.time = s.dir.time := by
  obtain ⟨t, hnext, hans, honly, -, -⟩ := answered_of_due (i := .timeSnapshot mb tick) rfl hdue rfl rfl (by decide)
  refine ⟨t, _, hnext, hans, ?_, ?_, ?_, honly.time⟩
  · have hlead : (if compared (dirStart s.dir) then b4z (leadD (dirStart s.dir)) else b4 0x80000000).length = 4 := by split <;> simp
    rw [List.length_append, hlead]
    simp
  · simp only [List.append_assoc]
    exact List.take_left' (time96Le_length _)
  · simp only [List.append_assoc]
    exact (leAt_skip (time96Le_length _) _ 0 4).trans (leAt_word ..)

theorem domCode_lt (m : DomMode) : domCode m < 256 := by cases m <;> decide

theorem timeDomain_answers {s : State} {mb : Nat} {c : Cmd} (hdue : Due s mb 0x0701 c) (hdom : byteAt c.payload 0 ≤ 1)
    (hzero : allZero (sub c.payload 1 3) = true) :
    ∃ t p, exec (.timeDomain mb) s = .next t ∧ Answered t.dir mb c stOK p ∧ p.length = 40
      ∧ byteAt p 0 = domCode (dom s.dir (byteAt c.payload 0)).mode ∧ t.dir.time = s.dir.time := by
  obtain ⟨t, hnext, hans, honly, -, -⟩ := answered_of_due (i := .timeDomain mb) rfl hdue
    (guarded_pass (by simp [hdom, hzero])) rfl (by decide)
  refine ⟨t, _, hnext, hans, ?_, ?_, honly.time⟩
  · simp [toBE_length]
  · simp only [List.append_assoc]
    exact (byteAt_b1 ..).trans (Nat.mod_eq_of_lt (domCode_lt _))

/-- TIME_SET before its step (R504). -/
theorem timeSet_waits {s : State} {mb at_ : Nat} {c : Cmd} (hdue : Due s mb 0x0702 c) (hat : leAt c.payload 12 4 = at_)
    (hbaked : s.dir.cfg.baked = true) (hoff : ∀ a, a < 6 → offPre (arm s.dir a).mode = true) (hno : ∀ a, a < 6 → (arm s.dir a).pMode = none)
    (hsource : s.dir.time.source ≠ .twin) (hns : fld (leAt c.payload 0 12) 47 16 ≤ 999999999) (hzero : leAt c.payload 16 4 = 0)
    (hearly : 2 ≤ cycleDiff (BitVec.ofNat 32 at_) (cyc s.dir)) (hlate : cycleDiff (BitVec.ofNat 32 at_) (cyc s.dir) ≤ 65536)
    (hfree : s.dir.time.step = none) :
    ∃ t q, exec (.timeSet mb) s = .next t ∧ t.dir.time.step = some q ∧ q.cycle = BitVec.ofNat 32 at_ ∧ q.mb = some mb
      ∧ q.target = some (toFrac (ofTime96 (leAt c.payload 0 12))) ∧ t.dir.time.now = s.dir.time.now
      ∧ (mbx t.dir mb).cmd = some { c with wait := .apply (BitVec.ofNat 32 at_) } := by
  subst hat
  have hallowed : stepAllowed (dirStart s.dir) = true := allArms_iff.mpr hoff
  have hscheduled : modeScheduled (dirStart s.dir) (leAt c.payload 12 4) = false := by
    rw [modeScheduled, List.any_eq_false]
    intro a ha
    simp [hno a (List.mem_range.mp ha)]
  have hpass : ∀ x ∈ [(!s.dir.cfg.baked || !stepAllowed (dirStart s.dir) || modeScheduled (dirStart s.dir) (leAt c.payload 12 4)
      || decide (s.dir.time.source = .twin), stState), (999999999 < fld (leAt c.payload 0 12) 47 16 || leAt c.payload 16 4 != 0, stRange)]
        ++ applyChecks (dirStart s.dir) (leAt c.payload 12 4) ++ [(s.dir.time.step.isSome, stBusy)], x.1 = false := by
    refine List.forall_mem_append.mpr ⟨List.forall_mem_append.mpr ⟨?_, applyChecks_pass hbaked hearly hlate⟩, ?_⟩
    · simp [hbaked, hallowed, hscheduled, hsource, hns, hzero]
    · simp [hfree]
  obtain ⟨t, hnext, hcmd, h⟩ := due_waits (i := .timeSet mb) rfl hdue (guarded_pass hpass) rfl
  have hstep := congrArg TimeState.step h.time
  have hnow := congrArg TimeState.now h.time
  exact ⟨t, _, hnext, hstep, rfl, rfl, rfl, hnow, hcmd⟩

theorem timeSet_refused {s : State} {mb a : Nat} {c : Cmd} (hdue : Due s mb 0x0702 c) (ha : a < 6) (hoff : offPre (arm s.dir a).mode = false) :
    ∃ t, exec (.timeSet mb) s = .next t ∧ Answered t.dir mb c stState [] ∧ t.dir.time = s.dir.time := by
  have hbarred : stepAllowed (dirStart s.dir) = false := by
    rw [Bool.eq_false_iff]
    intro hall
    exact absurd (allArms_iff.mp hall a ha) (by simp [hoff])
  obtain ⟨t, hnext, hans, honly⟩ := due_refused (i := .timeSet mb) (st := stState) rfl hdue (guarded_fail (by simp [hbarred, firstFail])) (by decide)
  exact ⟨t, hnext, hans, honly.time⟩

/-- Choosing the source again leaves the modes and the offsets of the domains (R348, R349). -/
theorem reSource_dom {β : Type} {view : Domain → β} (hview : ∀ x i, view { x with integ := i } = view x) (d : Director) (at_ : Int) (i : Nat) :
    view (dom (reSource d at_) i) = view (dom d i) := by
  have hmode : ∀ e m, view (dom (setTimeMode e m) i) = view (dom e i) := fun e m =>
    setTimeMode_view (view := fun t => view (if i = 0 then t.domA else t.domB)) (fun _ _ _ _ => rfl) e m
  have hinteg : ∀ e j, view (dom (setI e j) i) = view (dom e i) := fun e j => by
    unfold dom setI modTime
    split
    · exact hview ..
    · exact hview ..
  have hraise : ∀ e a b l, view (dom (raise e a b l) i) = view (dom e i) := fun e a b l => by rw [dom, raise_time, ← dom]
  unfold reSource
  refine (hmode ..).trans (ite_keeps (view := fun e => view (dom e i)) rfl ?_)
  extract_lets choice old
  refine ite_keeps (view := fun e => view (dom e i)) rfl (ite_keeps (view := fun e => view (dom e i)) rfl ?_)
  exact (hraise ..).trans (hinteg d d.time.c)

theorem setDomMode_dom_same (d : Director) (i : Nat) (m : DomMode) : dom (setDomMode d i m) i = { dom d i with mode := m } := by
  unfold setDomMode
  extract_lets old
  split
  · next heq => rw [← heq]
  · rw [dom, raise_time, ← dom, dom_modDom_same]

/-- A new baseline begins without an offset (R347). -/
theorem newBaseline_dom (d : Director) (i : Nat) : (dom (newBaseline d i) i).mode = .acquiring ∧ (dom (newBaseline d i) i).theta = none := by
  unfold newBaseline
  rw [reSource_dom (view := Domain.mode) (fun _ _ => rfl), reSource_dom (view := Domain.theta) (fun _ _ => rfl), setDomMode_dom_same,
    dom_modDom_same]
  exact ⟨rfl, rfl⟩

theorem timeRebase_answers {s : State} {mb : Nat} {c : Cmd} (hdue : Due s mb 0x0703 c) (hdom : byteAt c.payload 0 ≤ 1)
    (hzero : allZero (sub c.payload 1 3) = true) (hsuspect : (dom s.dir (byteAt c.payload 0)).mode = .suspect) :
    ∃ t, exec (.timeRebase mb) s = .next t ∧ Answered t.dir mb c stOK [] ∧ (dom t.dir (byteAt c.payload 0)).mode = .acquiring
      ∧ (dom t.dir (byteAt c.payload 0)).theta = none := by
  obtain ⟨t, hnext, hans, honly, -, -⟩ := answered_of_due (i := .timeRebase mb) rfl hdue
    (guarded_pass (by simp [hdom, hzero, hsuspect])) (view_of_steerless (newBaseline_steerless ..) Director.mbs fun _ => rfl) (by decide)
  obtain ⟨hmode, htheta⟩ := newBaseline_dom (dirStart s.dir) (byteAt c.payload 0)
  have htime := honly.time
  exact ⟨t, hnext, hans, by rw [dom, htime]; exact hmode, by rw [dom, htime]; exact htheta⟩

theorem timeRebase_refused {s : State} {mb : Nat} {c : Cmd} (hdue : Due s mb 0x0703 c) (hdom : byteAt c.payload 0 ≤ 1)
    (hclean : (dom s.dir (byteAt c.payload 0)).mode ≠ .suspect) :
    ∃ t, exec (.timeRebase mb) s = .next t ∧ Answered t.dir mb c stState [] ∧ t.dir.time = s.dir.time := by
  obtain ⟨t, hnext, hans, honly⟩ := due_refused (i := .timeRebase mb) (st := stState) rfl hdue
    (guarded_fail (by simp [hdom, hclean, firstFail])) (by decide)
  exact ⟨t, hnext, hans, honly.time⟩

/-- Settles O26: every row of the group answers or names its step. -/
theorem timeCommands : Obligations.TimeCommands := by
  unfold Obligations.TimeCommands
  exact ⟨fun s mb c tick hdue => timeSnapshot_answers tick hdue, fun s mb c => timeDomain_answers, fun s mb c at_ => timeSet_waits,
    fun s mb c a => timeSet_refused, fun s mb c => timeRebase_answers, fun s mb c => timeRebase_refused⟩

end Sys2Proof.Machine
end

section
/-! PROOF. The redundancy group (R326, R498 to R501). -/

namespace Sys2Proof.Machine

theorem roleCode_lt (r : Role) : roleCode r < 256 := by cases r <;> decide

theorem armOk_of_lt {a : Nat} (ha : a < 6) : armOk a = true := decide_eq_true ha

theorem redLeaseMap_answers {s : State} {mb a : Nat} {c : Cmd} (hdue : Due s mb 0x0600 c) (harm : byteAt c.payload 0 = a) (ha : a < 6)
    (hzero : allZero (sub c.payload 1 3) = true) :
    ∃ t p, exec (.redLeaseMap mb) s = .next t ∧ Answered t.dir mb c stOK p ∧ p.length = 144 ∧ byteAt p 0 = a
      ∧ byteAt p 1 = roleCode (arm s.dir a).role ∧ t.dir.arms = s.dir.arms := by
  subst harm
  obtain ⟨t, hnext, hans, honly, -, -⟩ := answered_of_due (i := .redLeaseMap mb) rfl hdue
    (guarded_pass (by simp [armOk_of_lt ha, hzero])) rfl (by decide)
  refine ⟨t, _, hnext, hans, by simp, ?_, ?_, honly.arms⟩
  · simp only [List.append_assoc]
    exact (byteAt_b1 ..).trans (Nat.mod_eq_of_lt (by omega))
  · simp only [List.append_assoc]
    exact (byteAt_b1_next _ 0 _).trans ((byteAt_b1 ..).trans (Nat.mod_eq_of_lt (roleCode_lt _)))

/-- An arm command that queues an order and waits for its step (R456). -/
theorem armOrder_waits {i : Instr} {s : State} {mb op a : Nat} {c : Cmd} {f : Director → Cmd → Director} {g : Arm → Arm} {w : Wait}
    (hrun : exec i s = onCmd s mb op f) (hdue : Due s mb op c) (hf : f (dirStart s.dir) c = setWait (modArm (dirStart s.dir) a g) mb w) :
    ∃ t, exec i s = .next t ∧ arm t.dir a = g (arm s.dir a) ∧ (mbx t.dir mb).cmd = some { c with wait := w } := by
  obtain ⟨t, hnext, hcmd, h⟩ := due_waits hrun hdue hf rfl
  refine ⟨t, hnext, ?_, hcmd⟩
  rw [h.arm]
  exact arm_modArm (dirStart s.dir) a g

theorem redClaim_waits {s : State} {mb a n ap : Nat} {c : Cmd} (hdue : Due s mb 0x0601 c) (harm : byteAt c.payload 0 = a) (ha : a < 6)
    (hzero : byteAt c.payload 1 = 0) (hn : leAt c.payload 2 2 = n) (hlo : 1 ≤ n) (hhi : n ≤ 64) (hlen : c.payload.length = 8 + 2 * n)
    (hap : leAt c.payload 4 4 = ap) (hbaked : s.dir.cfg.baked = true) (hrole : (arm s.dir a).role ≠ .isolated)
    (hslots : ∀ q, q ∈ slotsOf c.payload → q ≤ 511 ∧ configured (cfg s.dir) (a * 512 + q) = true)
    (hearly : 2 ≤ cycleDiff (BitVec.ofNat 32 ap) (cyc s.dir)) (hlate : cycleDiff (BitVec.ofNat 32 ap) (cyc s.dir) ≤ 65536) :
    ∃ t q, exec (.redClaim mb) s = .next t ∧ (arm t.dir a).pClaim = (arm s.dir a).pClaim ++ [q] ∧ q.apply = BitVec.ofNat 32 ap
      ∧ q.slots = slotsOf c.payload ∧ (mbx t.dir mb).cmd = some { c with wait := .apply (BitVec.ofNat 32 ap) } := by
  subst harm hn hap
  have hall : ((slotsOf c.payload).any fun q => 511 < q || !configured (cfg s.dir) (byteAt c.payload 0 * 512 + q)) = false := by
    rw [List.any_eq_false]
    intro q hq
    obtain ⟨hle, hconf⟩ := hslots q hq
    simp [hle, hconf]
  obtain ⟨t, hnext, hq, hcmd⟩ := armOrder_waits (i := .redClaim mb) rfl hdue (guarded_pass (List.forall_mem_append.mpr
    ⟨by simp [hlen, hbaked, armOk_of_lt ha, hrole, hzero, natIn_iff.mpr ⟨hlo, hhi⟩, hall],
      applyChecks_pass (d := dirStart s.dir) hbaked hearly hlate⟩))
  exact ⟨t, _, hnext, congrArg Arm.pClaim hq, rfl, rfl, hcmd⟩

theorem redIsolate_waits {s : State} {mb a ap : Nat} {c : Cmd} (hdue : Due s mb 0x0602 c) (harm : byteAt c.payload 0 = a) (ha : a < 6)
    (hflag : byteAt c.payload 1 ≤ 1) (hzero : leAt c.payload 2 2 = 0) (hap : leAt c.payload 4 4 = ap) (hbaked : s.dir.cfg.baked = true)
    (htwin : byteAt c.payload 1 = 1 → (arm s.dir a).role = .authority → energised (arm s.dir a).mode = true → twinShadow s.dir a = true)
    (hearly : 2 ≤ cycleDiff (BitVec.ofNat 32 ap) (cyc s.dir)) (hlate : cycleDiff (BitVec.ofNat 32 ap) (cyc s.dir) ≤ 65536) :
    ∃ t q, exec (.redIsolate mb) s = .next t ∧ (arm t.dir a).pIsolate = (arm s.dir a).pIsolate ++ [q] ∧ q.apply = BitVec.ofNat 32 ap
      ∧ (q.flag = true ↔ byteAt c.payload 1 = 1) ∧ (arm t.dir a).role = (arm s.dir a).role
      ∧ (mbx t.dir mb).cmd = some { c with wait := .apply (BitVec.ofNat 32 ap) } := by
  subst harm hap
  have htwin' : twinShadow (dirStart s.dir) (byteAt c.payload 0) = twinShadow s.dir (byteAt c.payload 0) := rfl
  obtain ⟨t, hnext, hq, hcmd⟩ := armOrder_waits (i := .redIsolate mb) rfl hdue (guarded_pass (List.forall_mem_append.mpr
    ⟨by simpa [hbaked, armOk_of_lt ha, not_lt.mpr hflag, hzero, htwin'] using htwin,
      applyChecks_pass (d := dirStart s.dir) hbaked hearly hlate⟩))
  have hrole := congrArg Arm.role hq
  exact ⟨t, _, hnext, congrArg Arm.pIsolate hq, rfl, decide_eq_true_iff, hrole, hcmd⟩

theorem redHandover_waits {s : State} {mb a h : Nat} {c : Cmd} (hdue : Due s mb 0x0603 c) (harm : byteAt c.payload 0 = a) (ha : a < 6)
    (hzero : allZero (sub c.payload 1 3) = true) (hh : leAt c.payload 4 4 = h) (hbaked : s.dir.cfg.baked = true)
    (hrole : (arm s.dir a).role = .authority) (htwin : tget 0xFF a s.dir.sk.twinRole = 2)
    (hmode : (arm s.dir a).mode = .precharge ∨ operating (arm s.dir a).mode = true) (hfree : (arm s.dir a).pHandover = none)
    (hyield : (arm s.dir a).yielding = none)
    (hearly : 2 ≤ cycleDiff (BitVec.ofNat 32 h) (cyc s.dir)) (hlate : cycleDiff (BitVec.ofNat 32 h) (cyc s.dir) ≤ 65536) :
    ∃ t, exec (.redHandover mb) s = .next t ∧ (arm t.dir a).pHandover = some (BitVec.ofNat 32 h, some mb)
      ∧ (mbx t.dir mb).cmd = some { c with wait := .apply (BitVec.ofNat 32 h) } := by
  subst harm hh
  have htwin' : twinShadow (dirStart s.dir) (byteAt c.payload 0) = true := decide_eq_true htwin
  have henergised : energised (arm s.dir (byteAt c.payload 0)).mode = true := by simpa [energised] using hmode
  obtain ⟨t, hnext, hq, hcmd⟩ := armOrder_waits (i := .redHandover mb) rfl hdue (guarded_pass (List.forall_mem_append.mpr
    ⟨List.forall_mem_append.mpr ⟨by simp [hbaked, armOk_of_lt ha, hrole, htwin', henergised, hzero],
      applyChecks_pass (d := dirStart s.dir) hbaked hearly hlate⟩, by simp [hfree, hyield]⟩))
  exact ⟨t, hnext, congrArg Arm.pHandover hq, hcmd⟩

theorem redHandover_refused {s : State} {mb a : Nat} {c : Cmd} (hdue : Due s mb 0x0603 c) (harm : byteAt c.payload 0 = a) (ha : a < 6)
    (hrole : (arm s.dir a).role ≠ .authority) :
    ∃ t, exec (.redHandover mb) s = .next t ∧ Answered t.dir mb c stState [] ∧ t.dir.arms = s.dir.arms := by
  subst harm
  obtain ⟨t, hnext, hans, honly⟩ := due_refused (i := .redHandover mb) (st := stState) rfl hdue
    (guarded_fail (by simp [armOk_of_lt ha, hrole, firstFail])) (by decide)
  exact ⟨t, hnext, hans, honly.arms⟩

/-- Settles O25: every row of the group answers, waits for its step or is refused. -/
theorem redundancyCommands : Obligations.RedundancyCommands := by
  unfold Obligations.RedundancyCommands
  exact ⟨fun s mb c a => redLeaseMap_answers, fun s mb c a n ap => redClaim_waits, fun s mb c a ap => redIsolate_waits,
    fun s mb c a h => redHandover_waits, fun s mb c a => redHandover_refused⟩

end Sys2Proof.Machine
end

section
/-! PROOF. The recorder group (R404, R405, R506 to R512). -/

namespace Sys2Proof.Machine

theorem Mem.readList_length (b : Byte) (a n : Nat) (m : Mem) : (Mem.readList b a n m).length = n := by
  induction n generalizing a with
  | zero => rfl
  | succ n ih => rw [Mem.readList, List.length_cons, ih]

@[simp] theorem rdBytes_length (m : Stores) (i : MemId) (a n : Nat) : (rdBytes m i a n).length = n := Mem.readList_length ..

theorem recCode_lt (m : RecMode) : recCode m < 256 := by cases m <;> decide

theorem recStatus_answers {s : State} {mb : Nat} {c : Cmd} (hdue : Due s mb 0x0800 c) :
    ∃ t p, exec (.recStatus mb) s = .next t ∧ Answered t.dir mb c stOK p ∧ p.length = 32 ∧ byteAt p 0 = recCode s.dir.rcd.mode
      ∧ t.dir.rcd = s.dir.rcd := by
  obtain ⟨t, hnext, hans, honly, -, -⟩ := answered_of_due (i := .recStatus mb) rfl hdue rfl rfl (by decide)
  refine ⟨t, _, hnext, hans, ?_, ?_, honly.rcd⟩
  · simp [List.length_flatMap]
  · simp only [List.append_assoc]
    exact (byteAt_b1 ..).trans (Nat.mod_eq_of_lt (recCode_lt _))

theorem recStart_answers {s : State} {mb i : Nat} {c : Cmd} (hdue : Due s mb 0x0801 c) (hstopped : s.dir.rcd.mode = .stopped)
    (hbaked : s.dir.cfg.baked = true) (hfree : firstFree s.dir = some i) (hfits : drainFits s.dir = true) :
    ∃ t p, exec (.recStart mb) s = .next t ∧ Answered t.dir mb c stOK p ∧ p.length = 8 ∧ byteAt p 0 = i % 256 ∧ t.dir.rcd.mode = .armed
      ∧ t.dir.rcd.seg = some i ∧ segMode t.dir i = .armed := by
  have hfree' : firstFree (dirStart s.dir) = some i := hfree
  have hfits' : drainFits (dirStart s.dir) = true := hfits
  obtain ⟨hmode, hseg, -, hsegMode, -, -⟩ := armSeg_kept (dirStart s.dir) i (boundaryAt (dirStart s.dir) (cyc (dirStart s.dir) + 2))
  obtain ⟨t, hnext, hans, honly, -, -⟩ := answered_of_due (i := .recStart mb) (st := stOK)
    (d := armSeg (dirStart s.dir) i (boundaryAt (dirStart s.dir) (cyc (dirStart s.dir) + 2))) rfl hdue
    ((guarded_pass (by simp [hstopped, hbaked, hfree', hfits'])).trans (by rw [hfree'])) (armSeg_mbs ..) (by decide)
  refine ⟨t, _, hnext, hans, by simp, ?_, by rw [honly.rcd, hmode], by rw [honly.rcd, hseg], by rw [segMode, honly.rcd]; exact hsegMode⟩
  simp only [List.append_assoc]
  exact byteAt_b1 ..

theorem recStart_refused {s : State} {mb : Nat} {c : Cmd} (hdue : Due s mb 0x0801 c) (hrun : s.dir.rcd.mode ≠ .stopped) :
    ∃ t, exec (.recStart mb) s = .next t ∧ Answered t.dir mb c stState [] ∧ t.dir.rcd = s.dir.rcd := by
  obtain ⟨t, hnext, hans, honly⟩ := due_refused (i := .recStart mb) (st := stState) rfl hdue
    (guarded_fail (by simp [hrun, firstFail])) (by decide)
  exact ⟨t, hnext, hans, honly.rcd⟩

/-! Stopping -/

theorem segInUse_of {d : Director} {i : Nat} (hmode : d.rcd.mode ≠ .stopped) (hseg : d.rcd.seg = some i) : segInUse d = i := by
  rw [segInUse, if_neg hmode, hseg]
  rfl

theorem recStopped_mbs (d : Director) : (recStopped d).mbs = d.mbs := recStopped_view (fun _ _ => rfl) (fun _ => rfl) d

theorem recStopped_segMode (d : Director) (i : Nat) : segMode (recStopped d) i = segMode d i :=
  recStopped_view (view := (segMode · i)) (fun _ _ => rfl) (fun _ => rfl) d

/-- What REC_STOP makes of the recorder (R405, R508). -/
def recStopping (d : Director) : Director :=
  match d.rcd.mode with
  | .stopped => d
  | .armed => recStopped (setSeg d (segInUse d) .free)
  | .triggered => modRcd (closeNow d) fun r => { r with stopAfter := true }
  | .closing => if d.rcd.nextSeg.isSome then recStopped d else modRcd d fun r => { r with stopAfter := true }

/-- The payload of REC_STOP (R508). -/
def stopPayload (d : Director) (i : Nat) : List Byte := b1 i ++ b1 (if i = 0xFF then 0xFF else segCode (segMode d i)) ++ zeros 2

theorem recStop_answers {s : State} {mb i : Nat} {c : Cmd} {d : Director} (hdue : Due s mb 0x0802 c) (hi : segInUse s.dir = i)
    (hd : recStopping (dirStart s.dir) = d) (hmbs : d.mbs = s.dir.mbs) :
    ∃ t, exec (.recStop mb) s = .next t ∧ Answered t.dir mb c stOK (stopPayload d i) ∧ t.dir.rcd = d.rcd := by
  subst hi hd
  obtain ⟨t, hnext, hans, honly, -, -⟩ := answered_of_due (i := .recStop mb) rfl hdue rfl hmbs (by decide)
  exact ⟨t, hnext, hans, honly.rcd⟩

theorem stopPayload_known {d : Director} {i : Nat} (hi : i < 16) :
    stopPayload d i = [BitVec.ofNat 8 i, BitVec.ofNat 8 (segCode (segMode d i)), 0, 0] := by
  rw [stopPayload, if_neg (by omega)]
  rfl

theorem recStop_armed {s : State} {mb i : Nat} {c : Cmd} (hdue : Due s mb 0x0802 c) (hmode : s.dir.rcd.mode = .armed)
    (hseg : s.dir.rcd.seg = some i) (hi : i < 16) :
    ∃ t, exec (.recStop mb) s = .next t ∧ Answered t.dir mb c stOK [BitVec.ofNat 8 i, 0, 0, 0] ∧ t.dir.rcd.mode = .stopped
      ∧ segMode t.dir i = .free := by
  have huse : segInUse s.dir = i := segInUse_of (by rw [hmode]; decide) hseg
  have hmode' : (dirStart s.dir).rcd.mode = .armed := hmode
  have hfree : segMode (recStopped (setSeg (dirStart s.dir) i .free)) i = .free := (recStopped_segMode ..).trans (tget_tset_same ..)
  obtain ⟨t, hnext, hans, hrcd⟩ := recStop_answers (d := recStopped (setSeg (dirStart s.dir) i .free)) hdue huse
    (by rw [recStopping, hmode']; exact congrArg (fun j => recStopped (setSeg _ j _)) huse) (recStopped_mbs _)
  rw [stopPayload_known hi, hfree] at hans
  exact ⟨t, hnext, hans, by rw [hrcd, recStopped_mode], by rw [segMode, hrcd]; exact hfree⟩

theorem recStop_triggered {s : State} {mb i : Nat} {c : Cmd} (hdue : Due s mb 0x0802 c) (hmode : s.dir.rcd.mode = .triggered)
    (hseg : s.dir.rcd.seg = some i) (hi : i < 16) (htrig : segMode s.dir i = .triggered) :
    ∃ t, exec (.recStop mb) s = .next t ∧ Answered t.dir mb c stOK [BitVec.ofNat 8 i, 2, 0, 0] ∧ t.dir.rcd.mode = .closing
      ∧ t.dir.rcd.stopAfter = true := by
  have huse : segInUse s.dir = i := segInUse_of (by rw [hmode]; decide) hseg
  have hmode' : (dirStart s.dir).rcd.mode = .triggered := hmode
  have hkept : segMode (modRcd (closeNow (dirStart s.dir)) fun r => { r with stopAfter := true }) i = .triggered := htrig
  obtain ⟨t, hnext, hans, hrcd⟩ := recStop_answers (d := modRcd (closeNow (dirStart s.dir)) fun r => { r with stopAfter := true }) hdue huse
    (by rw [recStopping, hmode']) rfl
  rw [stopPayload_known hi, hkept] at hans
  exact ⟨t, hnext, hans, by rw [hrcd]; rfl, by rw [hrcd]; rfl⟩

theorem recStop_stopped {s : State} {mb : Nat} {c : Cmd} (hdue : Due s mb 0x0802 c) (hmode : s.dir.rcd.mode = .stopped) :
    ∃ t, exec (.recStop mb) s = .next t ∧ Answered t.dir mb c stOK [0xFF, 0xFF, 0, 0] ∧ t.dir.rcd = s.dir.rcd := by
  have hmode' : (dirStart s.dir).rcd.mode = .stopped := hmode
  exact recStop_answers (d := dirStart s.dir) hdue (if_pos hmode) (by rw [recStopping, hmode']) rfl

/-! Triggers and segments -/

theorem recTrigger_waits {s : State} {mb ap : Nat} {c : Cmd} (hdue : Due s mb 0x0803 c) (hap : leAt c.payload 0 4 = ap)
    (hbaked : s.dir.cfg.baked = true) (hfree : s.dir.rcd.pCmd = none)
    (hearly : 2 ≤ cycleDiff (BitVec.ofNat 32 ap) (cyc s.dir)) (hlate : cycleDiff (BitVec.ofNat 32 ap) (cyc s.dir) ≤ 65536) :
    ∃ t, exec (.recTrigger mb) s = .next t ∧ t.dir.rcd.pCmd = some (BitVec.ofNat 32 ap, mb)
      ∧ (mbx t.dir mb).cmd = some { c with wait := .apply (BitVec.ofNat 32 ap) } := by
  subst hap
  obtain ⟨t, hnext, hcmd, h⟩ := due_waits (i := .recTrigger mb) rfl hdue (guarded_pass (List.forall_mem_append.mpr
    ⟨applyChecks_pass (d := dirStart s.dir) hbaked hearly hlate, by simp [hfree]⟩)) rfl
  exact ⟨t, hnext, congrArg Recorder.pCmd h.rcd, hcmd⟩

/-- A CLOSED segment passes the conditions of R510. -/
theorem segChecks_pass {d : Director} {p : List Byte} (hzero : allZero (sub p 1 3) = true) (hi : byteAt p 0 < segCount (cfg d))
    (hclosed : segMode d (byteAt p 0) = .closed) : ∀ x ∈ segChecks d p, x.1 = false := by
  simp [segChecks, hzero, hi, hclosed]

theorem recRelease_answers {s : State} {mb i : Nat} {c : Cmd} (hdue : Due s mb 0x0804 c) (hseg : byteAt c.payload 0 = i)
    (hzero : allZero (sub c.payload 1 3) = true) (hi : i < segCount (cfg s.dir)) (hclosed : segMode s.dir i = .closed) :
    ∃ t, exec (.recRelease mb) s = .next t ∧ Answered t.dir mb c stOK [] ∧ segMode t.dir i = .free
      ∧ ∀ j, j ≠ i → segMode t.dir j = segMode s.dir j := by
  subst hseg
  obtain ⟨t, hnext, hans, honly, -, -⟩ := answered_of_due (i := .recRelease mb) rfl hdue
    (guarded_pass (segChecks_pass (d := dirStart s.dir) hzero hi hclosed)) rfl (by decide)
  have hrcd := honly.rcd
  refine ⟨t, hnext, hans, ?_, fun j hj => ?_⟩
  · rw [segMode, hrcd]
    exact tget_tset_same ..
  · rw [segMode, hrcd]
    exact tget_tset_other _ hj _ _

theorem recHeader_answers {s : State} {mb i : Nat} {c : Cmd} (hdue : Due s mb 0x0805 c) (hseg : byteAt c.payload 0 = i)
    (hzero : allZero (sub c.payload 1 3) = true) (hi : i < segCount (cfg s.dir)) (hclosed : segMode s.dir i = .closed) :
    ∃ t, exec (.recHeader mb) s = .next t ∧ Answered t.dir mb c stOK (rdBytes s.mem .ddr (segBase (cfg s.dir) i * 1048576) 128)
      ∧ t.mem = s.mem := by
  subst hseg
  obtain ⟨t, hnext, hans, -, -, hmem⟩ := answered_of_due (i := .recHeader mb) rfl hdue
    (guarded_pass (segChecks_pass (d := dirStart s.dir) hzero hi hclosed)) rfl (by decide)
  exact ⟨t, hnext, hans, hmem⟩

theorem recExport_answers {s : State} {mb i n : Nat} {c : Cmd} (hdue : Due s mb 0x0806 c) (hseg : byteAt c.payload 0 = i)
    (hzero : allZero (sub c.payload 1 3) = true) (hi : i < segCount (cfg s.dir)) (hclosed : segMode s.dir i = .closed)
    (hn : leAt c.payload 12 4 = n) (hlo : 1 ≤ n) (hhi : n ≤ 4064) (hwithin : leAt c.payload 4 8 + n ≤ segLen s.dir i) (ue : Bool) :
    ∃ t p, exec (.recExport mb ue) s = .next t ∧ Answered t.dir mb c stOK p ∧ p.length = 16 + n ∧ byteAt p 1 = (if ue then 1 else 0)
      ∧ p.drop 16 = rdBytes s.mem .ddr (segBase (cfg s.dir) i * 1048576 + leAt c.payload 4 8) n ∧ t.mem = s.mem := by
  subst hseg hn
  have hwithin' : leAt c.payload 4 8 + leAt c.payload 12 4 ≤ segLen (dirStart s.dir) (byteAt c.payload 0) := hwithin
  obtain ⟨t, hnext, hans, -, -, hmem⟩ := answered_of_due (i := .recExport mb ue) rfl hdue
    (guarded_pass (List.forall_mem_append.mpr ⟨segChecks_pass (d := dirStart s.dir) hzero hi hclosed,
      by simp [natIn_iff.mpr ⟨hlo, hhi⟩, hwithin']⟩)) (ite_keeps (view := Director.mbs) (raise_mbs ..) rfl) (by decide)
  have hstart : segStart (if ue then ddrUncorrected (dirStart s.dir) else dirStart s.dir) (byteAt c.payload 0)
      = segBase (cfg s.dir) (byteAt c.payload 0) * 1048576 := by
    have hcfg : cfg (if ue then ddrUncorrected (dirStart s.dir) else dirStart s.dir) = cfg s.dir := by
      refine ite_keeps (view := cfg) ?_ rfl
      exact congrArg CfgState.parsed (raise_cfg ..)
    rw [segStart, mib, hcfg]
  rw [hstart] at hans
  refine ⟨t, _, hnext, hans, ?_, ?_, ?_, ?_⟩
  · simp only [List.length_append, b1_length, b2_length, zeros_length, toLE_length, rdBytes_length]
  · simp only [List.append_assoc]
    refine (byteAt_b1_next _ 0 _).trans ((byteAt_b1 ..).trans ?_)
    cases ue <;> rfl
  · exact List.drop_left' (by simp)
  · rw [hmem, ite_keeps (view := Director.writes) (x := []) (raise_writes ..) rfl]
    rfl

theorem recMissLog_answers {s : State} {mb : Nat} {c : Cmd} (hdue : Due s mb 0x0807 c) (hclear : byteAt c.payload 0 ≤ 1)
    (hzero : allZero (sub c.payload 1 3) = true) :
    ∃ t p, exec (.recMissLog mb) s = .next t ∧ Answered t.dir mb c stOK p ∧ p.length = 136 ∧ leAt p 0 4 = s.dir.rcd.missed.toNat
      ∧ (byteAt c.payload 0 = 1 → t.dir.rcd.missed = 0 ∧ t.dir.rcd.missLog = []) ∧ (byteAt c.payload 0 = 0 → t.dir.rcd = s.dir.rcd) := by
  obtain ⟨t, hnext, hans, honly, -, -⟩ := answered_of_due (i := .recMissLog mb) rfl hdue
    (guarded_pass (by simp [hclear, hzero])) (ite_keeps (view := Director.mbs) rfl rfl) (by decide)
  refine ⟨t, _, hnext, hans, by simp, ?_, fun hone => ?_, fun hnone => ?_⟩
  · simp only [List.append_assoc]
    exact leAt_word ..
  · rw [honly.rcd, if_pos hone]
    exact ⟨rfl, rfl⟩
  · rw [honly.rcd, if_neg (by omega)]
    rfl

/-- Settles O27: every row of the group answers, waits for its step or is refused. -/
theorem recorderCommands : Obligations.RecorderCommands := by
  unfold Obligations.RecorderCommands
  exact ⟨fun s mb c => recStatus_answers, fun s mb c i => recStart_answers, fun s mb c => recStart_refused, fun s mb c i => recStop_armed,
    fun s mb c i => recStop_triggered, fun s mb c => recStop_stopped, fun s mb c ap => recTrigger_waits, fun s mb c i => recRelease_answers,
    fun s mb c i => recHeader_answers, fun s mb c i n => recExport_answers, fun s mb c => recMissLog_answers⟩

end Sys2Proof.Machine
end

section
/-! PROOF. The cells group (R473 to R481). -/

namespace Sys2Proof.Machine

/-! Records for a cell -/

theorem mgmtTo_mgmt {d : Director} {id n : Nat} (h : cellPort (part d) id = some n) (mtype : Nat) (body : List Byte) (r : MgmtRec → MgmtRec) :
    (port (mgmtTo d id mtype body r) n).mgmt = (port d n).mgmt ++ [r { mtype := mtype, dest := cellSlot id, body := body, cell := some id }] := by
  unfold mgmtTo
  rw [h]
  exact congrArg Port.mgmt (port_modPort ..)

theorem mgmtTo_part (d : Director) (id mtype : Nat) (body : List Byte) (r : MgmtRec → MgmtRec) : part (mgmtTo d id mtype body r) = part d :=
  mgmtTo_view (fun _ _ _ => rfl) ..

theorem mgmtTo_mbs (d : Director) (id mtype : Nat) (body : List Byte) (r : MgmtRec → MgmtRec) : (mgmtTo d id mtype body r).mbs = d.mbs :=
  mgmtTo_view (fun _ _ _ => rfl) ..

theorem mgmtTo_cells (d : Director) (id mtype : Nat) (body : List Byte) (r : MgmtRec → MgmtRec) : (mgmtTo d id mtype body r).cells = d.cells :=
  mgmtTo_view (fun _ _ _ => rfl) ..

/-- A class C command that queues a record for its cell and waits for the answer (R474). -/
theorem cellRecord_waits {i : Instr} {s : State} {mb op id mtype n : Nat} {c : Cmd} {f : Director → Cmd → Director} {d : Director}
    {body : List Byte} {r : MgmtRec → MgmtRec} (hrun : exec i s = onCmd s mb op f) (hdue : Due s mb op c)
    (hf : f (dirStart s.dir) c = awaitCell (mgmtTo d id mtype body r) mb id) (hmbs : d.mbs = s.dir.mbs) (hpart : part d = part s.dir)
    (hport : cellPort (part s.dir) id = some n) :
    ∃ t, exec i s = .next t ∧ (mbx t.dir mb).cmd = some { c with wait := .cell id 0 } ∧ t.dir.cells = d.cells
      ∧ (port t.dir n).mgmt = (port d n).mgmt ++ [r { mtype := mtype, dest := cellSlot id, body := body, cell := some id }] := by
  obtain ⟨t, hnext, hcmd, h⟩ := due_waits hrun hdue hf ((mgmtTo_mbs ..).trans hmbs)
  refine ⟨t, hnext, hcmd, h.cells.trans (mgmtTo_cells ..), ?_⟩
  rw [h.port]
  exact mgmtTo_mgmt (by rw [hpart]; exact hport) mtype body r

/-! Conditions -/

theorem isNode_of_le {id : Nat} (h : 3072 ≤ id) : isNode id = true := by
  rw [isNode, decide_eq_true_iff]
  exact h

/-- A proven cell passes the conditions of R474. -/
theorem cellChecks_pass {d : Director} {id : Nat} (hvalid : cellValid d id = true) (hproven : (cellRec d id).link = .proven) {write : Bool}
    (hrole : write = true → 3072 ≤ id ∨ (arm d (id / 512)).role = .authority) : ∀ x ∈ cellChecks d id write, x.1 = false := by
  have hauth : write = true → isNode id = false → (arm d (cellArm id)).role ≠ .authority → offPre (arm d (cellArm id)).mode = true := by
    intro hwrite hcell hother
    obtain hnode | hauth := hrole hwrite
    · rw [isNode_of_le hnode] at hcell
      cases hcell
    · exact absurd hauth hother
  simp only [cellChecks, hvalid, hproven]
  simpa using hauth

/-! Reading and releasing -/

theorem cellEntry_length (d : Director) (id : Nat) : (cellEntry d id).length = 16 := by
  unfold cellEntry
  extract_lets head
  have hhead : head.length = 4 := by simp [head]
  split <;> simp [hhead]

theorem cellState_answers {s : State} {mb : Nat} {c : Cmd} (hdue : Due s mb 0x0300 c) (hlo : 0 < leAt c.payload 2 2)
    (hhi : leAt c.payload 2 2 ≤ 255) (hwithin : leAt c.payload 0 2 + leAt c.payload 2 2 ≤ 3168) :
    ∃ t p, exec (.cellState mb) s = .next t ∧ Answered t.dir mb c stOK p ∧ p.length = 16 * leAt c.payload 2 2 ∧ t.dir.cells = s.dir.cells := by
  obtain ⟨t, hnext, hans, honly, -, -⟩ := answered_of_due (i := .cellState mb) rfl hdue
    (guarded_pass (by simp [hhi, hwithin]; omega)) rfl (by decide)
  refine ⟨t, _, hnext, hans, ?_, honly.cells⟩
  rw [List.length_flatMap, List.map_congr_left (fun j _ => cellEntry_length _ _), List.map_const', List.sum_replicate, List.length_range,
    smul_eq_mul, Nat.mul_comm]

theorem cellRelease_answers {s : State} {mb id : Nat} {c : Cmd} (hdue : Due s mb 0x0305 c) (hid : leAt c.payload 0 2 = id)
    (hzero : leAt c.payload 2 2 = 0) (hvalid : cellValid s.dir id = true) :
    ∃ t, exec (.cellRelease mb) s = .next t ∧ Answered t.dir mb c stOK [] ∧ (cellRec t.dir id).held = false
      ∧ ((cellRec s.dir id).held = true ∨ (cellRec s.dir id).link = .quarantined → (cellRec t.dir id).entries = 0)
      ∧ ((cellRec s.dir id).held = false → (cellRec s.dir id).link ≠ .quarantined → cellRec t.dir id = cellRec s.dir id)
      ∧ ∀ j, j ≠ id → cellRec t.dir j = cellRec s.dir j := by
  subst hid
  have hvalid' : cellValid (dirStart s.dir) (leAt c.payload 0 2) = true := hvalid
  obtain ⟨t, hnext, hans, honly, -, -⟩ := answered_of_due (i := .cellRelease mb) rfl hdue
    (guarded_pass (by simp [hvalid', hzero])) rfl (by decide)
  have hcells := honly.cells
  have hsame : cellRec t.dir (leAt c.payload 0 2) = if (cellRec s.dir (leAt c.payload 0 2)).held
      || decide ((cellRec s.dir (leAt c.payload 0 2)).link = .quarantined) then { cellRec s.dir (leAt c.payload 0 2) with held := false, entries := 0 }
      else cellRec s.dir (leAt c.payload 0 2) := by
    rw [cellRec, hcells]
    exact tget_tmod_same ..
  refine ⟨t, hnext, hans, ?_, fun hin => ?_, fun hfree hlink => ?_, fun j hj => ?_⟩
  · rw [hsame]
    split
    · rfl
    · next hout => cases hheld : (cellRec s.dir (leAt c.payload 0 2)).held <;> simp_all
  · rw [hsame, if_pos (by simpa using hin)]
  · rw [hsame, if_neg (by simp [hfree, hlink])]
  · rw [cellRec, hcells]
    exact tget_tmod_other _ hj _ _

theorem cellInject_waits {s : State} {mb id ap : Nat} {c : Cmd} (hdue : Due s mb 0x0306 c) (hbaked : s.dir.cfg.baked = true)
    (hid : leAt c.payload 0 2 = id) (hzero : leAt c.payload 2 2 = 0) (hvalid : cellValid s.dir id = true) (hcell : id < 3072)
    (hap : leAt c.payload 4 4 = ap) (hearly : 2 ≤ cycleDiff (BitVec.ofNat 32 ap) (cyc s.dir))
    (hlate : cycleDiff (BitVec.ofNat 32 ap) (cyc s.dir) ≤ 65536) (hroom : (arm s.dir (id / 512)).pInject.length < 8) :
    ∃ t q, exec (.cellInject mb) s = .next t ∧ (arm t.dir (id / 512)).pInject = (arm s.dir (id / 512)).pInject ++ [q]
      ∧ q.apply = BitVec.ofNat 32 ap ∧ q.slots = [id % 512] ∧ (mbx t.dir mb).cmd = some { c with wait := .apply (BitVec.ofNat 32 ap) } := by
  subst hid hap
  have hvalid' : cellValid (dirStart s.dir) (leAt c.payload 0 2) = true := hvalid
  obtain ⟨t, hnext, hq, hcmd⟩ := armOrder_waits (i := .cellInject mb) rfl hdue (guarded_pass (List.forall_mem_append.mpr
    ⟨List.forall_mem_append.mpr ⟨by simp [hbaked, hvalid', isNode, hcell, hzero], applyChecks_pass (d := dirStart s.dir) hbaked hearly hlate⟩,
      by simp [cellArm, hroom]⟩))
  exact ⟨t, _, hnext, congrArg Arm.pInject hq, rfl, rfl, hcmd⟩

/-! Records that read -/

section
variable {s : State} {mb id n : Nat} {c : Cmd} (hid : leAt c.payload 0 2 = id) (hvalid : cellValid s.dir id = true)
  (hproven : (cellRec s.dir id).link = .proven) (hport : cellPort (part s.dir) id = some n)
include hid hvalid hproven

theorem cellParamRead_waits (hport : cellPort (part s.dir) id = some n) (hdue : Due s mb 0x0301 c) (hlo : 0 < byteAt c.payload 4)
    (hhi : byteAt c.payload 4 ≤ 4) (hzero : allZero (sub c.payload 5 3) = true) :
    ∃ t r, exec (.cellParamRead mb) s = .next t ∧ (mbx t.dir mb).cmd = some { c with wait := .cell id 0 }
      ∧ (port t.dir n).mgmt = (port s.dir n).mgmt ++ [r] ∧ r.mtype = 0x0C ∧ r.why = .cmd mb ∧ r.cell = some id
      ∧ r.body = readBody (leAt c.payload 2 2) (byteAt c.payload 4) := by
  subst hid
  obtain ⟨t, hnext, hcmd, -, hmgmt⟩ := cellRecord_waits (i := .cellParamRead mb) (d := dirStart s.dir) rfl hdue
    (guarded_pass (List.forall_mem_append.mpr ⟨cellChecks_pass (d := dirStart s.dir) hvalid hproven (by simp),
      by simp [hhi, hzero]; omega⟩)) rfl rfl hport
  exact ⟨t, _, hnext, hcmd, hmgmt, rfl, rfl, rfl, rfl⟩

theorem cellEepromRead_waits (hport : cellPort (part s.dir) id = some n) (hdue : Due s mb 0x0307 c) (hblock : byteAt c.payload 2 ≤ 2)
    (hzero : byteAt c.payload 3 = 0) (hlo : 0 < leAt c.payload 6 2) (hhi : leAt c.payload 6 2 ≤ 60) :
    ∃ t r, exec (.cellEepromRead mb) s = .next t ∧ (mbx t.dir mb).cmd = some { c with wait := .cell id 0 }
      ∧ (port t.dir n).mgmt = (port s.dir n).mgmt ++ [r] ∧ r.mtype = 0x0F ∧ r.why = .cmd mb ∧ r.cell = some id := by
  subst hid
  obtain ⟨t, hnext, hcmd, -, hmgmt⟩ := cellRecord_waits (i := .cellEepromRead mb) (d := dirStart s.dir) rfl hdue
    (guarded_pass (List.forall_mem_append.mpr ⟨cellChecks_pass (d := dirStart s.dir) hvalid hproven (by simp),
      by simp [hblock, hzero, hhi]; omega⟩)) rfl rfl hport
  exact ⟨t, _, hnext, hcmd, hmgmt, rfl, rfl, rfl⟩

/-! Records that write -/

theorem cellParamWrite_waits (hport : cellPort (part s.dir) id = some n) (hdue : Due s mb 0x0302 c)
    (hrole : 3072 ≤ id ∨ (arm s.dir (id / 512)).role = .authority) (hlo : 0 < byteAt c.payload 4) (hhi : byteAt c.payload 4 ≤ 12)
    (hzero : allZero (sub c.payload 5 3) = true) (hfree : ∀ j, j < byteAt c.payload 4 → writeBarred s.dir id (leAt c.payload 2 2 + j) = false) :
    ∃ t r q, exec (.cellParamWrite mb) s = .next t ∧ (mbx t.dir mb).cmd = some { c with wait := .cell id 0 }
      ∧ (port t.dir n).mgmt = (port s.dir n).mgmt ++ [r, q] ∧ r.mtype = 0x0B ∧ r.secure = some id ∧ q.mtype = 0x0C ∧ q.why = .cmd mb
      ∧ r.body = writeBody (leAt c.payload 2 2) ((List.range (byteAt c.payload 4)).map fun j => leAt c.payload (8 + 4 * j) 4) := by
  subst hid
  have hall : ((List.range (byteAt c.payload 4)).any fun j => writeBarred (dirStart s.dir) (leAt c.payload 0 2) (leAt c.payload 2 2 + j)) = false := by
    rw [List.any_eq_false]
    intro j hj
    rw [Bool.not_eq_true]
    exact hfree j (List.mem_range.mp hj)
  obtain ⟨t, hnext, hcmd, -, hmgmt⟩ := cellRecord_waits (i := .cellParamWrite mb) rfl hdue
    (guarded_pass (List.forall_mem_append.mpr ⟨cellChecks_pass (d := dirStart s.dir) hvalid hproven fun _ => hrole,
      by simp only [hall]; simp [hhi, hzero]; omega⟩)) (mgmtTo_mbs ..) (mgmtTo_part ..) hport
  rw [mgmtTo_mgmt (d := dirStart s.dir) hport, List.append_assoc] at hmgmt
  exact ⟨t, _, _, hnext, hcmd, hmgmt, rfl, rfl, rfl, rfl, rfl⟩

theorem cellFaultClear_waits (hport : cellPort (part s.dir) id = some n) (hdue : Due s mb 0x0303 c)
    (hrole : 3072 ≤ id ∨ (arm s.dir (id / 512)).role = .authority) (hlo : 0 < byteAt c.payload 2) (hhi : byteAt c.payload 2 ≤ 3)
    (hzero : byteAt c.payload 3 = 0) :
    ∃ t r, exec (.cellFaultClear mb) s = .next t ∧ (mbx t.dir mb).cmd = some { c with wait := .cell id 0 }
      ∧ (port t.dir n).mgmt = (port s.dir n).mgmt ++ [r] ∧ r.mtype = 0x0B ∧ r.secure = some id ∧ r.body = writeBody 0x15 [byteAt c.payload 2] := by
  subst hid
  obtain ⟨t, hnext, hcmd, -, hmgmt⟩ := cellRecord_waits (i := .cellFaultClear mb) (d := dirStart s.dir) rfl hdue
    (guarded_pass (List.forall_mem_append.mpr ⟨cellChecks_pass (d := dirStart s.dir) hvalid hproven fun _ => hrole,
      by simp [hhi, hzero]; omega⟩)) rfl rfl hport
  exact ⟨t, _, hnext, hcmd, hmgmt, rfl, rfl, rfl⟩

theorem cellGateEnable_waits (hport : cellPort (part s.dir) id = some n) (hdue : Due s mb 0x0304 c)
    (hrole : 3072 ≤ id ∨ (arm s.dir (id / 512)).role = .authority) (hhi : byteAt c.payload 2 ≤ 1) (hzero : byteAt c.payload 3 = 0)
    (hsealed : byteAt c.payload 2 = 1 → (cellRec s.dir id).sealed = true) :
    ∃ t r, exec (.cellGateEnable mb) s = .next t ∧ (mbx t.dir mb).cmd = some { c with wait := .cell id 0 }
      ∧ (cellRec t.dir id).gateHold = decide (byteAt c.payload 2 = 0) ∧ r.body = writeBody 0x14 [byteAt c.payload 2]
      ∧ (port t.dir n).mgmt = (port s.dir n).mgmt ++ [r] ∧ r.mtype = 0x0B ∧ r.secure = some id := by
  subst hid
  obtain ⟨t, hnext, hcmd, hcells, hmgmt⟩ := cellRecord_waits (i := .cellGateEnable mb) rfl hdue
    (guarded_pass (List.forall_mem_append.mpr ⟨List.forall_mem_cons.mpr ⟨by simpa [hhi] using fun _ => hsealed,
      cellChecks_pass (d := dirStart s.dir) hvalid hproven fun _ => hrole⟩, by simp [hhi, hzero]⟩)) rfl rfl hport
  refine ⟨t, _, hnext, hcmd, ?_, rfl, hmgmt, rfl, rfl⟩
  rw [cellRec, hcells, ← cellRec, cellRec_modRec]
end

/-- A command for a cell that is not proven is refused (R474). -/
theorem cellFaultClear_refused {s : State} {mb id : Nat} {c : Cmd} (hdue : Due s mb 0x0303 c) (hid : leAt c.payload 0 2 = id)
    (hvalid : cellValid s.dir id = true) (hlink : (cellRec s.dir id).link ≠ .proven) :
    ∃ t, exec (.cellFaultClear mb) s = .next t ∧ Answered t.dir mb c stState [] ∧ t.dir.ports = s.dir.ports := by
  subst hid
  have hvalid' : cellValid (dirStart s.dir) (leAt c.payload 0 2) = true := hvalid
  have hlink' : ((cellRec s.dir (leAt c.payload 0 2)).link != .proven) = true := bne_iff_ne.mpr hlink
  obtain ⟨t, hnext, hans, honly⟩ := due_refused (i := .cellFaultClear mb) (st := stState) rfl hdue
    (guarded_fail (by simp [cellChecks, hvalid', hlink', firstFail])) (by decide)
  exact ⟨t, hnext, hans, honly.ports⟩

/-- Settles O23: every row of the group answers, queues its record, pends or is refused. -/
theorem cellCommands : Obligations.CellCommands := by
  unfold Obligations.CellCommands
  exact ⟨fun s mb c => cellState_answers, fun s mb c id => cellRelease_answers,
    fun s mb c id ap hdue hbaked hid hzero hvalid hcell hap hearly hlate hroom =>
      cellInject_waits hdue hbaked hid hzero hvalid hcell hap hearly hlate hroom,
    fun s mb c id n hdue hid hvalid hproven hlo hhi hzero hport => cellParamRead_waits hid hvalid hproven hport hdue hlo hhi hzero,
    fun s mb c id n hdue hid hvalid hproven hblock hzero hlo hhi hport => cellEepromRead_waits hid hvalid hproven hport hdue hblock hzero hlo hhi,
    fun s mb c id n hdue hid hvalid hproven hrole hlo hhi hzero hfree hport =>
      cellParamWrite_waits hid hvalid hproven hport hdue hrole hlo hhi hzero hfree,
    fun s mb c id n hdue hid hvalid hproven hrole hlo hhi hzero hport =>
      cellFaultClear_waits hid hvalid hproven hport hdue hrole hlo hhi hzero,
    fun s mb c id n hdue hid hvalid hproven hrole hhi hzero hsealed hport =>
      cellGateEnable_waits hid hvalid hproven hport hdue hrole hhi hzero hsealed,
    fun s mb c id => cellFaultClear_refused⟩

end Sys2Proof.Machine
end

section
/-! PROOF. The arm control and balancing groups (R482 to R495). -/

namespace Sys2Proof.Machine

/-! What forwarding and a BLOCK request leave -/

theorem drainControl_view {β : Type} {view : Director → β} (hview : ∀ d k x, view { d with sk := k, tx := x } = view d) (d : Director) :
    view (drainControl d) = view d := by
  unfold drainControl
  split
  · exact ite_keeps rfl (hview d _ _)
  · rfl

/-- A forwarded command stands in the link's queue or in a frame (R316). -/
theorem forward_view {β : Type} {view : Director → β} (hview : ∀ d k x, view { d with sk := k, tx := x } = view d) (d : Director) (c : Cmd) :
    view (forward d c) = view d :=
  (drainControl_view hview _).trans (hview d _ d.tx)

section
variable {β : Type} {view : Director → β} (hview : ∀ d c p r x, view { d with cells := c, ports := p, rcd := r, tx := x } = view d)
include hview

theorem resent_view (d : Director) (n : Nat) (oc : Cycle) (f : SentRec → SentRec) : view (resent d n oc f) = view d :=
  foldl_keeps (view := view) (fun d _ => hview d _ d.ports d.rcd d.tx) _ d

theorem urgentPort_view (d : Director) (n tick : Nat) : view (urgentPort d n tick) = view d := by
  unfold urgentPort
  extract_lets t0 ts sent dealt
  have hsent : view sent = view d := foldl_keeps (view := view) (fun d _ => hview d d.cells _ d.rcd _) ts d
  have hdealt : view dealt = view d := by
    clear_value ts sent
    simp only [dealt]
    split
    · next f _ =>
      exact ite_keeps ((hview sent sent.cells _ sent.rcd sent.tx).trans hsent)
        (ite_keeps hsent ((resent_view hview ..).trans ((hview sent sent.cells _ sent.rcd sent.tx).trans hsent)))
    · exact hsent
  exact (hview dealt dealt.cells dealt.ports _ dealt.tx).trans hdealt

/-- An urgent block frame changes the ports, what cells were sent and the recorder's mark (R58, R397). -/
theorem urgentArms_view (d : Director) (as : List Nat) (tick : Nat) : view (urgentArms d as tick) = view d :=
  foldl_keeps (view := view) (f := fun d n => urgentPort d n tick) (fun d n => urgentPort_view hview d n tick) _ d
end

theorem endInjection_mbs (d : Director) (a : Nat) : (endInjection d a).mbs = d.mbs := by
  unfold endInjection
  split
  · rfl
  · exact raise_mbs ..

theorem changeMode_mbs (d : Director) (a : Nat) (m : ArmMode) (cause : Nat) : (changeMode d a m cause).mbs = d.mbs :=
  ite_keeps (view := Director.mbs) rfl ((raise_mbs ..).trans (endInjection_mbs d a))

theorem enterBlocked_mode (d : Director) (a cause : Nat) : (arm (enterBlocked d a cause) a).mode = .blocked := by
  rw [enterBlocked, arm_modArm]
  exact changeMode_mode ..

theorem enterBlocked_arm_other (d : Director) {a b : Nat} (h : b ≠ a) (cause : Nat) : arm (enterBlocked d a cause) b = arm d b := by
  rw [enterBlocked, arm_modArm_other _ h]
  exact changeMode_arm_other d a _ _ h

/-- A BLOCK request blocks its arm and leaves the others (R61). -/
theorem blockRequest_mode (d : Director) (a cause tick b : Nat) :
    (arm (blockRequest d a cause tick) b).mode = if b = a then .blocked else (arm d b).mode := by
  rw [blockRequest, urgentArms_view (view := fun d => (arm d b).mode) fun _ _ _ _ _ => rfl]
  split
  · next h => subst h; exact enterBlocked_mode ..
  · next h => rw [enterBlocked_arm_other d h]

theorem blockRequest_mbs (d : Director) (a cause tick : Nat) : (blockRequest d a cause tick).mbs = d.mbs := by
  rw [blockRequest, urgentArms_view (view := Director.mbs) fun _ _ _ _ _ => rfl]
  exact changeMode_mbs d a _ cause

theorem acceptBlock_mbs (d : Director) (as : List Nat) (tick : Nat) : (acceptBlock d as tick).mbs = d.mbs :=
  foldl_keeps (view := Director.mbs) (f := fun d a => blockRequest d a 1 tick) (fun d a => blockRequest_mbs d a 1 tick) as d

/-- The arms blocked after the requests are those named and those blocked before (R489). -/
theorem acceptBlock_mode (d : Director) (as : List Nat) (tick b : Nat) :
    (arm (acceptBlock d as tick) b).mode = if b ∈ as then .blocked else (arm d b).mode := by
  induction as generalizing d with
  | nil => rfl
  | cons a r ih =>
    have hstep : acceptBlock d (a :: r) tick = acceptBlock (blockRequest d a 1 tick) r tick := rfl
    rw [hstep, ih, blockRequest_mode]
    by_cases hr : b ∈ r
    · simp [hr]
    · by_cases ha : b = a <;> simp [hr, ha]

/-! Arm commands that wait for their step -/

/-- An accepted class A command of an arm (R482, R456). -/
theorem takeArm_waits {i : Instr} {s : State} {mb op a ap : Nat} {c : Cmd} {f : Director → Cmd → Director} {acc : Director → Director}
    {g : Arm → Arm} (hrun : exec i s = onCmd s mb op f) (hdue : Due s mb op c) (hf : f (dirStart s.dir) c = takeArm (dirStart s.dir) mb c ap acc)
    (hacc : acc (dirStart s.dir) = modArm (dirStart s.dir) a g) :
    ∃ t, exec i s = .next t ∧ arm t.dir a = g (arm s.dir a) ∧ (mbx t.dir mb).cmd = some { c with wait := .apply (BitVec.ofNat 32 ap) } := by
  obtain ⟨t, hnext, hcmd, h⟩ := due_waits hrun hdue hf
    ((forward_view (view := Director.mbs) (fun _ _ _ => rfl) _ _).trans (by rw [hacc]; rfl))
  refine ⟨t, hnext, ?_, hcmd⟩
  rw [h.arm]
  refine (forward_view (view := (arm · a)) (fun _ _ _ => rfl) _ _).trans ?_
  rw [hacc]
  exact arm_modArm (dirStart s.dir) a g

theorem noAuthority_pass {d : Director} {a : Nat} (h : (arm d a).role = .authority) : (noAuthority d a).1 = false := by simp [noAuthority, h]

theorem finite_all {p : List Byte} (h : ∀ j, j < 8 → finiteAt p (8 + 4 * j) = true) : ((List.range 8).all fun j => finiteAt p (8 + 4 * j)) = true :=
  List.all_eq_true.mpr fun j hj => h j (List.mem_range.mp hj)

theorem bakeBars_none {d : Director} (h : d.cfg.bake = none) (ap : Nat) (e : Director → Director) : bakeBars d ap e = false := by
  rw [bakeBars, h]

theorem stepBars_none {d : Director} (h : d.time.step = none) (a ap : Nat) (m : ArmMode) : stepBars d a ap m = false := by
  rw [stepBars, h]

theorem expectedMode_none {d : Director} {a : Nat} (h : (arm d a).pMode = none) (ap : Nat) : expectedMode d a ap = (arm d a).mode := by
  rw [expectedMode, h]

theorem modeCode_lt (m : ArmMode) : modeCode m < 256 := by cases m <;> decide

theorem f32Le_length (l : List F32) : (f32Le l).length = 4 * l.length := by
  simp [f32Le, List.length_flatMap, Nat.mul_comm]

theorem vecN_length (n : Nat) (l : List F32) : (vecN n l).length = n := by simp [vecN]

section
variable {s : State} {mb a ap : Nat} {c : Cmd} (harm : byteAt c.payload 0 = a) (ha : a < 6)
include harm ha

theorem armStatus_answers (hdue : Due s mb 0x0400 c) (hzero : allZero (sub c.payload 1 3) = true) :
    ∃ t p, exec (.armStatus mb) s = .next t ∧ Answered t.dir mb c stOK p ∧ p.length = 216 ∧ byteAt p 0 = modeCode (arm s.dir a).mode
      ∧ byteAt p 1 = roleCode (arm s.dir a).role ∧ t.dir.arms = s.dir.arms := by
  subst harm
  obtain ⟨t, hnext, hans, honly, -, -⟩ := answered_of_due (i := .armStatus mb) rfl hdue
    (guarded_pass (by simp [armOk_of_lt ha, hzero])) rfl (by decide)
  refine ⟨t, _, hnext, hans, ?_, ?_, ?_, honly.arms⟩
  · simp [List.length_flatMap, Function.comp_def, f32Le_length, vecN_length]
  · simp only [List.append_assoc]
    exact (byteAt_b1 ..).trans (Nat.mod_eq_of_lt (modeCode_lt _))
  · simp only [List.append_assoc]
    exact (byteAt_b1_next _ 0 _).trans ((byteAt_b1 ..).trans (Nat.mod_eq_of_lt (roleCode_lt _)))

variable (hap : leAt c.payload 4 4 = ap) (hbaked : s.dir.cfg.baked = true) (hearly : 2 ≤ cycleDiff (BitVec.ofNat 32 ap) (cyc s.dir))
  (hlate : cycleDiff (BitVec.ofNat 32 ap) (cyc s.dir) ≤ 65536)
include hap hbaked hearly hlate

theorem armMode_waits (hdue : Due s mb 0x0401 c) (hknown : byteAt c.payload 1 ≤ 4) (hzero : leAt c.payload 2 2 = 0)
    (hfree : (arm s.dir a).pMode = none)
    (hrole : (arm s.dir a).role = .authority ∨ ((arm s.dir a).role ≠ .isolated ∧ freeChange (arm s.dir a).mode (modeOf (byteAt c.payload 1)) = true))
    (htable : inTable (arm s.dir a).mode (modeOf (byteAt c.payload 1)) = true)
    (hform : if (arm s.dir a).mode = .precharge ∧ byteAt c.payload 1 = 2 then c.payload.length = 40 ∧ ∀ j, j < 8 → finiteAt c.payload (8 + 4 * j) = true
      else c.payload.length = 8)
    (hbake : s.dir.cfg.bake = none) (hstep : s.dir.time.step = none) (htest : testBars s.dir a (modeOf (byteAt c.payload 1)) = false) :
    ∃ t q, exec (.armMode mb) s = .next t ∧ (arm t.dir a).pMode = some q ∧ q.apply = BitVec.ofNat 32 ap ∧ q.target = modeOf (byteAt c.payload 1)
      ∧ q.force = c.flags.getLsbD 0 ∧ q.uMan = f32sAt c.payload 8 8 ∧ (arm t.dir a).mode = (arm s.dir a).mode
      ∧ (mbx t.dir mb).cmd = some { c with wait := .apply (BitVec.ofNat 32 ap) } := by
  subst harm hap
  have hcur : expectedMode (dirStart s.dir) (byteAt c.payload 0) (leAt c.payload 4 4) = (arm s.dir (byteAt c.payload 0)).mode :=
    expectedMode_none (d := dirStart s.dir) hfree _
  have hbars : modeBarred (dirStart s.dir) (byteAt c.payload 0) (leAt c.payload 4 4) (modeOf (byteAt c.payload 1)) = false := by
    have htest' : testBars (dirStart s.dir) (byteAt c.payload 0) (modeOf (byteAt c.payload 1)) = false := htest
    rw [modeBarred, bakeBars_none (d := dirStart s.dir) hbake, stepBars_none (d := dirStart s.dir) hstep, htest']
    rfl
  have hauth : (if freeChange (arm s.dir (byteAt c.payload 0)).mode (modeOf (byteAt c.payload 1)) then
      decide ((arm s.dir (byteAt c.payload 0)).role = .isolated) else decide ((arm s.dir (byteAt c.payload 0)).role ≠ .authority)) = false := by
    obtain hauth | ⟨hother, hchange⟩ := hrole
    · simp [hauth]
    · simp [hchange, hother]
  obtain ⟨t, hnext, hq, hcmd⟩ := takeArm_waits (i := .armMode mb) (a := byteAt c.payload 0) rfl hdue (guarded_pass (List.forall_mem_append.mpr
    ⟨List.forall_mem_append.mpr ⟨by
      simp only [hcur, hbars, armOk_of_lt ha, dirStart_accessors, hauth, htable]
      split at hform
      · next hu =>
        obtain ⟨hlen, hfinite⟩ := hform
        simp [hu.1, hu.2, hlen, hbaked, hzero, finite_all hfinite]
      · next hu =>
        have hno : (decide ((arm s.dir (byteAt c.payload 0)).mode = .precharge) && decide (byteAt c.payload 1 = 2)) = false := by simpa using hu
        simp only [Bool.true_and, hno]
        simp [hform, hbaked, hzero, hknown], applyChecks_pass (d := dirStart s.dir) hbaked hearly hlate⟩, by simp [hfree]⟩)) rfl
  have hmode := congrArg Arm.mode hq
  exact ⟨t, _, hnext, congrArg Arm.pMode hq, rfl, rfl, rfl, rfl, hmode, hcmd⟩

theorem armUnblock_waits (hdue : Due s mb 0x0406 c) (hknown : byteAt c.payload 1 ≤ 2) (hzero : leAt c.payload 2 2 = 0)
    (hfinite : byteAt c.payload 1 = 2 → ∀ j, j < 8 → finiteAt c.payload (8 + 4 * j) = true) (hrole : (arm s.dir a).role = .authority)
    (hfree : (arm s.dir a).pMode = none) (hbake : s.dir.cfg.bake = none) :
    ∃ t q, exec (.armUnblock mb) s = .next t ∧ (arm t.dir a).pMode = some q ∧ q.apply = BitVec.ofNat 32 ap ∧ q.unblock = true
      ∧ q.target = modeOf (byteAt c.payload 1) ∧ (arm t.dir a).mode = (arm s.dir a).mode
      ∧ (mbx t.dir mb).cmd = some { c with wait := .apply (BitVec.ofNat 32 ap) } := by
  subst harm hap
  have hall : (decide (byteAt c.payload 1 = 2) && !(List.range 8).all fun j => finiteAt c.payload (8 + 4 * j)) = false := by
    by_cases htwo : byteAt c.payload 1 = 2
    · rw [finite_all (hfinite htwo)]
      simp
    · simp [htwo]
  obtain ⟨t, hnext, hq, hcmd⟩ := takeArm_waits (i := .armUnblock mb) (a := byteAt c.payload 0) rfl hdue (guarded_pass (List.forall_mem_append.mpr
    ⟨List.forall_mem_append.mpr ⟨List.forall_mem_cons.mpr ⟨noAuthority_pass (d := dirStart s.dir) hrole,
      by simp only [bakeBars_none (d := dirStart s.dir) hbake, hall]; simp [hbaked, armOk_of_lt ha, hknown, hzero]⟩,
      applyChecks_pass (d := dirStart s.dir) hbaked hearly hlate⟩, by simp [hfree]⟩)) rfl
  have hmode := congrArg Arm.mode hq
  exact ⟨t, _, hnext, congrArg Arm.pMode hq, rfl, rfl, rfl, hmode, hcmd⟩

theorem armManualInput_waits (hdue : Due s mb 0x0402 c) (hzero : allZero (sub c.payload 1 3) = true) (hrole : (arm s.dir a).role = .authority)
    (hroom : setFull (arm s.dir a).pManual ap = false)
    (hvalues : ∀ j, j < 8 → finiteAt c.payload (8 + 4 * j) = true ∧ (dimM (cfg s.dir) a ≤ j → leAt c.payload (8 + 4 * j) 4 % 2 ^ 31 = 0)) :
    ∃ t q, exec (.armManualInput mb) s = .next t ∧ (arm t.dir a).pManual = (arm s.dir a).pManual ++ [q] ∧ q.apply = BitVec.ofNat 32 ap
      ∧ q.values = f32sAt c.payload 8 8 ∧ (arm t.dir a).uMan = (arm s.dir a).uMan
      ∧ (mbx t.dir mb).cmd = some { c with wait := .apply (BitVec.ofNat 32 ap) } := by
  subst harm hap
  have hall : ((List.range 8).any fun j => !finiteAt c.payload (8 + 4 * j)
      || (decide (dimM (cfg (dirStart s.dir)) (byteAt c.payload 0) ≤ j) && leAt c.payload (8 + 4 * j) 4 % 2 ^ 31 != 0)) = false := by
    rw [List.any_eq_false]
    intro j hj
    obtain ⟨hfinite, hrest⟩ := hvalues j (List.mem_range.mp hj)
    simpa [hfinite] using hrest
  obtain ⟨t, hnext, hq, hcmd⟩ := takeArm_waits (i := .armManualInput mb) (a := byteAt c.payload 0) rfl hdue (guarded_pass (List.forall_mem_append.mpr
    ⟨List.forall_mem_append.mpr ⟨List.forall_mem_cons.mpr ⟨noAuthority_pass (d := dirStart s.dir) hrole,
      by simp only [hall]; simp [hbaked, armOk_of_lt ha, hzero]⟩,
      applyChecks_pass (d := dirStart s.dir) hbaked hearly hlate⟩, by simp [hroom]⟩)) rfl
  have hman := congrArg Arm.uMan hq
  exact ⟨t, _, hnext, congrArg Arm.pManual hq, rfl, rfl, hman, hcmd⟩

theorem armReference_waits (hdue : Due s mb 0x0403 c) (hmask : byteAt c.payload 1 ≠ 0) (hdim : byteAt c.payload 1 < 2 ^ dimR (cfg s.dir) a)
    (hzero : leAt c.payload 2 2 = 0) (hrole : (arm s.dir a).role = .authority)
    (hfinite : ∀ j, j < 8 → finiteAt c.payload (8 + 4 * j) = true) (hroom : setFull (arm s.dir a).pRef ap = false) :
    ∃ t q, exec (.armReference mb) s = .next t ∧ (arm t.dir a).pRef = (arm s.dir a).pRef ++ [q] ∧ q.apply = BitVec.ofNat 32 ap
      ∧ q.mask = byteAt c.payload 1 ∧ q.values = f32sAt c.payload 8 8 ∧ (mbx t.dir mb).cmd = some { c with wait := .apply (BitVec.ofNat 32 ap) } := by
  subst harm hap
  obtain ⟨t, hnext, hq, hcmd⟩ := takeArm_waits (i := .armReference mb) (a := byteAt c.payload 0) rfl hdue (guarded_pass (List.forall_mem_append.mpr
    ⟨List.forall_mem_append.mpr ⟨List.forall_mem_cons.mpr ⟨noAuthority_pass (d := dirStart s.dir) hrole,
      by simp only [finite_all hfinite]; simp [hbaked, armOk_of_lt ha, hmask, hdim, hzero]⟩,
      applyChecks_pass (d := dirStart s.dir) hbaked hearly hlate⟩, by simp [hroom]⟩)) rfl
  exact ⟨t, _, hnext, congrArg Arm.pRef hq, rfl, rfl, rfl, hcmd⟩

theorem armInject_starts (hdue : Due s mb 0x0404 c) (hfields : injectFields s.dir c.payload = true) (hwave : byteAt c.payload 3 ≠ 0)
    (hrole : (arm s.dir a).role = .authority) (hpend : (arm s.dir a).pInj = none) (hrun : (arm s.dir a).inj = none) :
    ∃ t q, exec (.armInject mb) s = .next t ∧ (arm t.dir a).pInj = some q ∧ q.start = BitVec.ofNat 32 ap ∧ q.wave = byteAt c.payload 3
      ∧ q.length = leAt c.payload 8 4 ∧ q.target = byteAt c.payload 1 ∧ q.index = byteAt c.payload 2 ∧ q.amp = f32At c.payload 12
      ∧ (mbx t.dir mb).cmd = some { c with wait := .apply (BitVec.ofNat 32 ap) } := by
  subst harm hap
  have hfields' : injectFields (dirStart s.dir) c.payload = true := hfields
  obtain ⟨t, hnext, hq, hcmd⟩ := takeArm_waits (i := .armInject mb) (a := byteAt c.payload 0) rfl hdue (guarded_pass (List.forall_mem_append.mpr
    ⟨List.forall_mem_append.mpr ⟨List.forall_mem_cons.mpr ⟨noAuthority_pass (d := dirStart s.dir) hrole, by simp [hbaked, hfields']⟩,
      applyChecks_pass (d := dirStart s.dir) hbaked hearly hlate⟩, by simp [hwave, hpend, hrun]⟩)) (if_neg hwave)
  exact ⟨t, _, hnext, congrArg Arm.pInj hq, rfl, rfl, rfl, rfl, rfl, rfl, hcmd⟩

theorem armInject_stops (hdue : Due s mb 0x0404 c) (hfields : injectFields s.dir c.payload = true) (hwave : byteAt c.payload 3 = 0)
    (hrole : (arm s.dir a).role = .authority) (hpend : (arm s.dir a).pStop = none) :
    ∃ t, exec (.armInject mb) s = .next t ∧ (arm t.dir a).pStop = some (BitVec.ofNat 32 ap, some mb) ∧ (arm t.dir a).inj = (arm s.dir a).inj
      ∧ (mbx t.dir mb).cmd = some { c with wait := .apply (BitVec.ofNat 32 ap) } := by
  subst harm hap
  have hfields' : injectFields (dirStart s.dir) c.payload = true := hfields
  obtain ⟨t, hnext, hq, hcmd⟩ := takeArm_waits (i := .armInject mb) (a := byteAt c.payload 0) rfl hdue (guarded_pass (List.forall_mem_append.mpr
    ⟨List.forall_mem_append.mpr ⟨List.forall_mem_cons.mpr ⟨noAuthority_pass (d := dirStart s.dir) hrole, by simp [hbaked, hfields']⟩,
      applyChecks_pass (d := dirStart s.dir) hbaked hearly hlate⟩, by simp [hwave, hpend]⟩)) (if_pos hwave)
  have hinj := congrArg Arm.inj hq
  exact ⟨t, hnext, congrArg Arm.pStop hq, hinj, hcmd⟩

theorem balExclude_waits {n : Nat} (hdue : Due s mb 0x0500 c) (hop : byteAt c.payload 1 ≤ 1) (hn : leAt c.payload 2 2 = n) (hlo : 1 ≤ n)
    (hhi : n ≤ 64) (hlen : c.payload.length = 8 + 2 * n) (hrole : (arm s.dir a).role = .authority)
    (hslots : ∀ q, q ∈ slotsOf c.payload → q ≤ 511 ∧ configured (cfg s.dir) (a * 512 + q) = true)
    (hroom : setFull (arm s.dir a).pExclude ap = false)
    (hmany : byteAt c.payload 1 = 1 → ((arm s.dir a).excluded ++ slotsOf c.payload).eraseDups.length ≤ 64) :
    ∃ t q, exec (.balExclude mb) s = .next t ∧ (arm t.dir a).pExclude = (arm s.dir a).pExclude ++ [q] ∧ q.apply = BitVec.ofNat 32 ap
      ∧ q.mask = byteAt c.payload 1 ∧ q.slots = slotsOf c.payload ∧ (arm t.dir a).excluded = (arm s.dir a).excluded
      ∧ (mbx t.dir mb).cmd = some { c with wait := .apply (BitVec.ofNat 32 ap) } := by
  subst harm hn hap
  have hall : ((slotsOf c.payload).any fun q => 511 < q || !configured (cfg s.dir) (byteAt c.payload 0 * 512 + q)) = false := by
    rw [List.any_eq_false]
    intro q hq
    obtain ⟨hle, hconf⟩ := hslots q hq
    simp [hle, hconf]
  obtain ⟨t, hnext, hq, hcmd⟩ := takeArm_waits (i := .balExclude mb) (a := byteAt c.payload 0) rfl hdue (guarded_pass (List.forall_mem_append.mpr
    ⟨List.forall_mem_append.mpr ⟨List.forall_mem_cons.mpr ⟨by simp [hlen], List.forall_mem_cons.mpr ⟨noAuthority_pass (d := dirStart s.dir) hrole,
        by simp [hbaked, armOk_of_lt ha, hop, natIn_iff.mpr ⟨hlo, hhi⟩, hall]⟩⟩,
      applyChecks_pass (d := dirStart s.dir) hbaked hearly hlate⟩, by simpa [hroom] using hmany⟩)) rfl
  have hexcl := congrArg Arm.excluded hq
  exact ⟨t, _, hnext, congrArg Arm.pExclude hq, rfl, rfl, rfl, hexcl, hcmd⟩

end

theorem flatMap_length_const {α : Type} {f : α → List Byte} {k : Nat} {l : List α} (h : ∀ x ∈ l, (f x).length = k) :
    (l.flatMap f).length = k * l.length := by
  rw [List.length_flatMap, List.map_congr_left h, List.map_const', List.sum_replicate, smul_eq_mul, Nat.mul_comm]

/-! ARM_BLOCK -/

theorem nodup_eraseDups (l : List Nat) : l.eraseDups.Nodup := by
  induction hn : l.length using Nat.strongRecOn generalizing l with
  | _ n ih =>
    cases l with
    | nil => exact List.nodup_nil
    | cons a r =>
      have hlen : (r.filter fun b => !b == a).length < n := by
        have hle := List.length_filter_le (fun b => !b == a) r
        rw [List.length_cons] at hn
        omega
      rw [List.eraseDups_cons, List.nodup_cons, List.mem_eraseDups, List.mem_filter]
      exact ⟨by simp, ih _ hlen _ rfl⟩

theorem foldl_twoPow (l : List Nat) (n : Nat) : l.foldl (fun a i => a + 2 ^ i) n = n + (l.map (2 ^ ·)).sum := by
  induction l generalizing n with
  | nil => rfl
  | cons i r ih => rw [List.foldl_cons, ih, List.map_cons, List.sum_cons, Nat.add_assoc]

/-- A mask shows the bits of its list. -/
theorem maskOf_testBit (l : List Nat) (a : Nat) : (maskOf l).testBit a = true ↔ a ∈ l := by
  rw [maskOf, foldl_twoPow, Nat.zero_add, ← List.sum_toFinset _ (nodup_eraseDups l), ← Nat.mem_bitIndices, ← List.mem_toFinset,
    Finset.toFinset_bitIndices_sum_two_pow, List.mem_toFinset, List.mem_eraseDups]
theorem armBlock_answers {s : State} {mb tick a : Nat} {c : Cmd} (hdue : Due s mb 0x0405 c) (hmask : byteAt c.payload 0 < 64)
    (hzero : allZero (sub c.payload 1 3) = true) (ha : a < 6) (hbit : (byteAt c.payload 0).testBit a = true)
    (hrole : (arm s.dir a).role ≠ .isolated) :
    ∃ t p, exec (.armBlock mb tick) s = .next t ∧ Answered t.dir mb c stOK p ∧ (arm t.dir a).mode = .blocked ∧ p.length = 4
      ∧ (byteAt p 0).testBit a = true := by
  have hmem : a ∈ blockable (dirStart s.dir) (byteAt c.payload 0) := by
    simp [blockable, maskBits, idxs, ha, bit, hbit, hrole]
  have hblocked : (arm (forward (acceptBlock (dirStart s.dir) (blockable (dirStart s.dir) (byteAt c.payload 0)) tick) c) a).mode = .blocked := by
    rw [forward_view (view := (arm · a)) fun _ _ _ => rfl, acceptBlock_mode, if_pos hmem]
  have hnone : (blockable (dirStart s.dir) (byteAt c.payload 0)).isEmpty = false := by
    rw [List.isEmpty_eq_false_iff]
    exact List.ne_nil_of_mem hmem
  obtain ⟨t, hnext, hans, honly, -, -⟩ := answered_of_due (i := .armBlock mb tick) rfl hdue
    (guarded_pass (by simp [hmask, hnone, hzero]; omega))
    ((forward_view (view := Director.mbs) (fun _ _ _ => rfl) _ _).trans (acceptBlock_mbs ..)) (by decide)
  refine ⟨t, _, hnext, hans, ?_, by simp, ?_⟩
  · rw [arm, honly.arms, ← arm]
    exact hblocked
  · rw [byteAt_b1, show (256 : Nat) = 2 ^ 8 from rfl, Nat.testBit_mod_two_pow, (maskOf_testBit _ a).mpr (by simp [ha, hblocked])]
    simp; omega

theorem armBlock_refused {s : State} {mb tick : Nat} {c : Cmd} (hdue : Due s mb 0x0405 c) (hmask : byteAt c.payload 0 < 64)
    (hisolated : ∀ a, a < 6 → (byteAt c.payload 0).testBit a = true → (arm s.dir a).role = .isolated) :
    ∃ t, exec (.armBlock mb tick) s = .next t ∧ Answered t.dir mb c stNoAuth [] ∧ t.dir.arms = s.dir.arms := by
  have hnone : (blockable (dirStart s.dir) (byteAt c.payload 0)).isEmpty = true := by
    rw [List.isEmpty_iff, blockable, List.filter_eq_nil_iff]
    intro a ha
    simp only [maskBits, idxs, List.mem_filter, List.mem_range] at ha
    obtain ⟨hlt, hbit⟩ := ha
    have hrole : (arm s.dir a).role = .isolated := hisolated a hlt (by simpa [bit] using hbit)
    simp [hrole]
  obtain ⟨t, hnext, hans, honly⟩ := due_refused (i := .armBlock mb tick) (st := stNoAuth) rfl hdue
    (guarded_fail (by simp [hmask, hnone, firstFail])) (by decide)
  exact ⟨t, hnext, hans, honly.arms⟩

/-! Balancing -/

theorem balRankRead_refused {s : State} {mb a : Nat} {c : Cmd} (hdue : Due s mb 0x0501 c) (harm : byteAt c.payload 0 = a) (ha : a < 6) (hnone : (arm s.dir a).ranked = none) :
    ∃ t, exec (.balRankRead mb) s = .next t ∧ Answered t.dir mb c stState [] := by
  subst harm
  obtain ⟨t, hnext, hans, -⟩ := due_refused (i := .balRankRead mb) (st := stState) rfl hdue
    (guarded_fail (by simp [armOk_of_lt ha, hnone, firstFail])) (by decide)
  exact ⟨t, hnext, hans⟩

theorem balRankRead_answers {s : State} {mb a : Nat} {c : Cmd} {k : Cycle} (hdue : Due s mb 0x0501 c) (harm : byteAt c.payload 0 = a) (ha : a < 6) (hzero : allZero (sub c.payload 1 3) = true)
    (hranked : (arm s.dir a).ranked = some k) :
    ∃ t p, exec (.balRankRead mb) s = .next t ∧ Answered t.dir mb c stOK p ∧ p.length = 2320 ∧ leAt p 0 4 = k.toNat := by
  subst harm
  obtain ⟨t, hnext, hans, honly, -, -⟩ := answered_of_due (i := .balRankRead mb) rfl hdue
    (guarded_pass (by simp [armOk_of_lt ha, hzero, hranked])) rfl (by decide)
  refine ⟨t, _, hnext, hans, ?_, ?_⟩
  · simp only [List.length_append, flatMap_length_const fun _ _ => b4_length _, b1_length, b2_length, b4_length, zeros_length, nibbles,
      List.length_map, List.length_range]
  · simp only [List.append_assoc]
    refine (leAt_word ..).trans ?_
    simp [hranked]

/-- The conditions of R493 and R494 for a tree that is configured, or for all. -/
theorem calChecks_pass {d : Director} {p : List Byte} {all : Bool} (ha : byteAt p 0 < 6) (hzero : leAt p 2 2 = 0)
    (hrole : (arm d (byteAt p 0)).role = .authority) (hcal : parm (armS (cfg d) (byteAt p 0)) 50 0 0 ≠ 0)
    (htree : (all = true ∧ byteAt p 1 = 0xFF) ∨ ∃ n, portOf (part d) (byteAt p 0) (byteAt p 1) = some n ∧ treeOn (cfg d) (part d) n = true) :
    ∀ x ∈ calChecks d p all, x.1 = false := by
  refine List.forall_mem_cons.mpr ⟨noAuthority_pass hrole, ?_⟩
  obtain ⟨hall, hff⟩ | ⟨n, hport, hon⟩ := htree
  · simp [armOk_of_lt ha, hcal, hzero, hall, hff]
  · simp [armOk_of_lt ha, hcal, hzero, hport, hon]

theorem balCalRead_answers {s : State} {mb a x n : Nat} {c : Cmd} (hdue : Due s mb 0x0502 c) (harm : byteAt c.payload 0 = a) (ha : a < 6)
    (hx : byteAt c.payload 1 = x) (hzero : leAt c.payload 2 2 = 0) (hrole : (arm s.dir a).role = .authority)
    (hcal : parm (armS (cfg s.dir) a) 50 0 0 ≠ 0) (hport : portOf (part s.dir) a x = some n) (hon : treeOn (cfg s.dir) (part s.dir) n = true) :
    ∃ t p, exec (.balCalRead mb) s = .next t ∧ Answered t.dir mb c stOK p ∧ p.length = 1064 := by
  subst harm hx
  obtain ⟨t, hnext, hans, -, -, -⟩ := answered_of_due (i := .balCalRead mb) rfl hdue
    (guarded_pass (calChecks_pass (d := dirStart s.dir) (p := c.payload) ha hzero hrole hcal (.inr ⟨n, hport, hon⟩))) rfl (by decide)
  refine ⟨t, _, hnext, hans, ?_⟩
  simp only [List.length_append, flatMap_length_const fun _ _ => toLE_length _ _, b1_length, b4_length, zeros_length,
    List.length_map, List.length_range]

theorem balCalReset_answers {s : State} {mb a : Nat} {c : Cmd} (hdue : Due s mb 0x0503 c) (harm : byteAt c.payload 0 = a)
    (hpass : ∀ x ∈ calChecks s.dir c.payload true, x.1 = false) :
    ∃ t, exec (.balCalReset mb) s = .next t ∧ Answered t.dir mb c stOK [] ∧ arm t.dir a = { arm s.dir a with
      est := { (arm s.dir a).est with
        theta := if byteAt c.payload 1 = 0xFF then [] else tdel (byteAt c.payload 1) (arm s.dir a).est.theta
        cov := if byteAt c.payload 1 = 0xFF then [] else tdel (byteAt c.payload 1) (arm s.dir a).est.cov } } := by
  subst harm
  obtain ⟨t, hnext, hans, honly, -, -⟩ := answered_of_due (i := .balCalReset mb) rfl hdue (guarded_pass (l := calChecks (dirStart s.dir) c.payload true) hpass)
    (forward_view (view := Director.mbs) (fun _ _ _ => rfl) _ _) (by decide)
  refine ⟨t, hnext, hans, ?_⟩
  rw [arm, honly.arms, ← arm, forward_view (view := (arm · (byteAt c.payload 0))) fun _ _ _ => rfl]
  exact arm_modArm (dirStart s.dir) _ _

/-! Learned delays -/

theorem tget_of_absent {β : Type} (b : β) {k : Nat} {l : Table β} (h : (l.any fun x => decide (x.1 = k)) = false) : tget b k l = b := by
  induction l with
  | nil => rfl
  | cons x r ih =>
    obtain ⟨hx, hr⟩ := Bool.or_eq_false_iff.mp (List.any_cons.symm.trans h)
    rw [tget, if_neg (of_decide_eq_false hx)]
    exact ih hr

/-- The learned delays of one cell cleared, where the cell is known (R495). -/
def learnedCleared (d : Director) (id : Nat) : Director :=
  if (d.cells.any fun x => x.1 = id) then modRec d id fun r => { r with learned := [] } else d

theorem learnedCleared_same (d : Director) (id : Nat) : (cellRec (learnedCleared d id) id).learned = [] := by
  unfold learnedCleared
  split
  · rw [cellRec_modRec]
  · next h =>
    rw [cellRec, tget_of_absent]
    exact Bool.eq_false_iff.mpr h

theorem learnedCleared_other {d : Director} {id j : Nat} (h : j ≠ id) : cellRec (learnedCleared d id) j = cellRec d j :=
  ite_keeps (view := (cellRec · j)) (cellRec_modRec_other d h _) rfl

theorem learnedCleared_keeps {d : Director} {id j : Nat} (h : (cellRec d j).learned = []) : (cellRec (learnedCleared d id) j).learned = [] := by
  by_cases hj : j = id
  · subst hj; exact learnedCleared_same d j
  · rw [learnedCleared_other hj]; exact h

theorem foldl_learnedCleared (l : List Nat) (d : Director) (a j : Nat) :
    (j ∈ l ∨ (cellRec d (a * 512 + j)).learned = [] →
        (cellRec (l.foldl (fun d q => learnedCleared d (a * 512 + q)) d) (a * 512 + j)).learned = [])
      ∧ ∀ id, (∀ q ∈ l, id ≠ a * 512 + q) → cellRec (l.foldl (fun d q => learnedCleared d (a * 512 + q)) d) id = cellRec d id := by
  induction l generalizing d with
  | nil => exact ⟨fun h => h.resolve_left List.not_mem_nil, fun _ _ => rfl⟩
  | cons q r ih =>
    obtain ⟨hclear, hkept⟩ := ih (learnedCleared d (a * 512 + q))
    refine ⟨fun h => hclear ?_, fun id hid => ?_⟩
    · obtain hmem | hdone := h
      · obtain hj | hr := List.mem_cons.mp hmem
        · subst hj; exact .inr (learnedCleared_same ..)
        · exact .inl hr
      · exact .inr (learnedCleared_keeps hdone)
    · rw [List.foldl_cons, hkept id fun x hx => hid x (List.mem_cons_of_mem _ hx), learnedCleared_other (hid q List.mem_cons_self)]

theorem acceptEdgeReset_eq (d : Director) (p : List Byte) : acceptEdgeReset d p =
    (if leAt p 2 2 = 0xFFFF then List.range 512 else [leAt p 2 2]).foldl (fun d q => learnedCleared d (byteAt p 0 * 512 + q)) d := rfl

theorem balEdgeReset_answers {s : State} {mb a q : Nat} {c : Cmd} (hdue : Due s mb 0x0504 c) (harm : byteAt c.payload 0 = a) (ha : a < 6)
    (hzero : byteAt c.payload 1 = 0) (hpos : leAt c.payload 2 2 = q) (hq : q ≤ 511 ∨ q = 0xFFFF) (hrole : (arm s.dir a).role = .authority) :
    ∃ t, exec (.balEdgeReset mb) s = .next t ∧ Answered t.dir mb c stOK []
      ∧ (∀ j, j < 512 → (j = q ∨ q = 0xFFFF) → (cellRec t.dir (a * 512 + j)).learned = [])
      ∧ ∀ id, (id < a * 512 ∨ a * 512 + 512 ≤ id) → cellRec t.dir id = cellRec s.dir id := by
  subst harm hpos
  have hmbs : (forward (acceptEdgeReset (dirStart s.dir) c.payload) c).mbs = s.dir.mbs :=
    (forward_view (view := Director.mbs) (fun _ _ _ => rfl) _ _).trans
      (foldl_keeps (view := Director.mbs) (f := fun d q => learnedCleared d (byteAt c.payload 0 * 512 + q))
        (fun _ _ => ite_keeps (view := Director.mbs) rfl rfl) _ _)
  obtain ⟨t, hnext, hans, honly, -, -⟩ := answered_of_due (i := .balEdgeReset mb) rfl hdue
    (guarded_pass (List.forall_mem_cons.mpr ⟨noAuthority_pass (d := dirStart s.dir) hrole, by simp [armOk_of_lt ha, hzero]; omega⟩)) hmbs (by decide)
  have hcells : ∀ id, cellRec t.dir id = cellRec (acceptEdgeReset (dirStart s.dir) c.payload) id := fun id => by
    rw [cellRec, honly.cells, ← cellRec, forward_view (view := (cellRec · id)) fun _ _ _ => rfl]
  refine ⟨t, hnext, hans, fun j hj hnamed => ?_, fun id hout => ?_⟩
  · rw [hcells, acceptEdgeReset_eq]
    refine (foldl_learnedCleared _ _ _ j).1 (.inl ?_)
    split
    · exact List.mem_range.mpr hj
    · next hne => exact List.mem_singleton.mpr (hnamed.resolve_right hne)
  · rw [hcells, acceptEdgeReset_eq]
    refine (foldl_learnedCleared _ _ _ 0).2 id fun x hx => ?_
    have hlt : x < 512 := by
      split at hx
      · exact List.mem_range.mp hx
      · rw [List.mem_singleton] at hx; omega
    omega

/-- Settles O24: every row of the two groups answers, waits for its step or is refused. -/
theorem armAndBalancingCommands : Obligations.ArmAndBalancingCommands := by
  unfold Obligations.ArmAndBalancingCommands
  refine ⟨⟨?_, ?_, ?_, ?_, ?_, ?_, ?_, ?_, ?_⟩, ?_, ?_, ?_, ?_, ?_, ?_, ?_⟩
  · exact fun s mb c a hdue harm ha hzero => armStatus_answers harm ha hdue hzero
  · exact fun s mb c a ap hdue harm ha hknown hzero hap hfree hrole htable hform hbaked hbake hstep htest hearly hlate =>
      armMode_waits harm ha hap hbaked hearly hlate hdue hknown hzero hfree hrole htable hform hbake hstep htest
  · exact fun s mb c a ap hdue harm ha hknown hzero hfinite hap hrole hfree hbaked hbake hearly hlate =>
      armUnblock_waits harm ha hap hbaked hearly hlate hdue hknown hzero hfinite hrole hfree hbake
  · exact fun s mb c a ap hdue harm ha hzero hap hrole hbaked hroom hvalues hearly hlate =>
      armManualInput_waits harm ha hap hbaked hearly hlate hdue hzero hrole hroom hvalues
  · exact fun s mb c a ap hdue harm ha hmask hdim hzero hap hrole hbaked hfinite hroom hearly hlate =>
      armReference_waits harm ha hap hbaked hearly hlate hdue hmask hdim hzero hrole hfinite hroom
  · exact fun s mb c a ap hdue harm ha hfields hwave hap hrole hbaked hpend hrun hearly hlate =>
      armInject_starts harm ha hap hbaked hearly hlate hdue hfields hwave hrole hpend hrun
  · exact fun s mb c a ap hdue harm ha hfields hwave hap hrole hbaked hpend hearly hlate =>
      armInject_stops harm ha hap hbaked hearly hlate hdue hfields hwave hrole hpend
  · exact fun s mb c tick a hdue hmask hzero ha hbit hrole => armBlock_answers hdue hmask hzero ha hbit hrole
  · exact fun s mb c tick => armBlock_refused
  · exact fun s mb c a n ap hdue harm ha hop hn hlo hhi hlen hap hrole hbaked hslots hroom hmany hearly hlate =>
      balExclude_waits harm ha hap hbaked hearly hlate hdue hop hn hlo hhi hlen hrole hslots hroom hmany
  · exact fun s mb c a k => balRankRead_answers
  · exact fun s mb c a => balRankRead_refused
  · exact fun s mb c a x n => balCalRead_answers
  · intro s mb c a hdue harm ha hall hzero hrole hcal
    subst harm
    obtain ⟨t, hnext, hans, hsame⟩ := balCalReset_answers hdue rfl (calChecks_pass ha hzero hrole hcal (.inl ⟨rfl, hall⟩))
    rw [if_pos hall, if_pos hall] at hsame
    exact ⟨t, hnext, hans, by rw [hsame], by rw [hsame]⟩
  · intro s mb c a x n hdue harm ha hx hzero hne hrole hcal hport hon
    subst harm hx
    obtain ⟨t, hnext, hans, hsame⟩ := balCalReset_answers hdue rfl (calChecks_pass ha hzero hrole hcal (.inr ⟨n, hport, hon⟩))
    rw [if_neg hne, if_neg hne] at hsame
    exact ⟨t, hnext, hans, by rw [hsame], by rw [hsame]⟩
  · exact fun s mb c a q => balEdgeReset_answers

end Sys2Proof.Machine
end

section
/-! PROOF. The diagnostics group (R513 to R520). -/

namespace Sys2Proof.Machine

/-! Counters -/

/-- Clearing any of these counters leaves the mailboxes. -/
structure KeepMbs (l : List Counter) : Prop where
  of_mem : ∀ k ∈ l, ∀ d, (k.clear d).mbs = d.mbs

theorem keepMbs_nil : KeepMbs [] ↔ True := iff_true_intro ⟨fun _ h => absurd h List.not_mem_nil⟩

theorem keepMbs_cons (k : Counter) (l : List Counter) : KeepMbs (k :: l) ↔ (∀ d, (k.clear d).mbs = d.mbs) ∧ KeepMbs l :=
  ⟨fun h => ⟨h.of_mem k List.mem_cons_self, ⟨fun j hj => h.of_mem j (List.mem_cons_of_mem _ hj)⟩⟩,
    fun ⟨hk, hl⟩ => ⟨List.forall_mem_cons.mpr ⟨hk, hl.of_mem⟩⟩⟩

theorem keepMbs_append (l m : List Counter) : KeepMbs (l ++ m) ↔ KeepMbs l ∧ KeepMbs m :=
  ⟨fun h => ⟨⟨fun k hk => h.of_mem k (List.mem_append_left _ hk)⟩, ⟨fun k hk => h.of_mem k (List.mem_append_right _ hk)⟩⟩,
    fun ⟨hl, hm⟩ => ⟨List.forall_mem_append.mpr ⟨hl.of_mem, hm.of_mem⟩⟩⟩

theorem keepMbs_map {α : Type} {f : α → Counter} (h : ∀ x d, ((f x).clear d).mbs = d.mbs) (l : List α) : KeepMbs (l.map f) :=
  ⟨List.forall_mem_map.mpr fun x _ => h x⟩

theorem ctrCell_mbs (get : CellCounters → Word) (clr : CellCounters → CellCounters) (id : Option Nat) (d : Director) :
    ((ctrCell get clr id).clear d).mbs = d.mbs := by cases id <;> rfl

theorem ctrArmTab_keepMbs (a n : Nat) (get : ArmCounters → Table Word) (put : Table Word → ArmCounters → ArmCounters) :
    KeepMbs (ctrArmTab a n get put) := keepMbs_map (fun _ _ => rfl) _

theorem scopePort_keepMbs (d : Director) (n : Nat) : KeepMbs (scopePort d n) := by
  unfold scopePort
  extract_lets cells per
  have hper : ∀ get clr, KeepMbs (per get clr) := fun get clr => keepMbs_map (ctrCell_mbs get clr) _
  clear_value per
  simp only [keepMbs_append, keepMbs_cons, keepMbs_nil, hper, and_true, true_and]
  and_intros <;> exact fun _ => rfl

theorem scopeArm_keepMbs (a : Nat) : KeepMbs (scopeArm a) := by
  unfold scopeArm
  extract_lets per
  have hper : ∀ get clr, KeepMbs (per get clr) := fun get clr => keepMbs_map (fun _ => ctrCell_mbs get clr _) _
  clear_value per
  simp only [keepMbs_append, keepMbs_cons, keepMbs_nil, hper, ctrArmTab_keepMbs, and_true]
  and_intros <;> exact fun _ => rfl

theorem scopeCell_keepMbs (id : Nat) : KeepMbs (scopeCell id) := by
  refine keepMbs_map (fun k d => ?_) _
  dsimp only
  split <;> rfl

theorem scopeTime_keepMbs : KeepMbs scopeTime := by
  simp only [scopeTime, ctrDom, ctrTp, ctrPps, List.map_cons, List.map_nil, keepMbs_append, keepMbs_cons, keepMbs_nil, and_true]
  and_intros <;> exact fun _ => rfl

theorem scopeLanes_keepMbs : KeepMbs scopeLanes := by
  simp only [scopeLanes, ctrLane, ctrTp, List.map_cons, List.map_nil, keepMbs_append, keepMbs_cons, keepMbs_nil, and_true]
  and_intros <;> exact fun _ => rfl

theorem scopeRec_keepMbs : KeepMbs scopeRec := by
  simp only [scopeRec, keepMbs_append, keepMbs_cons, keepMbs_nil, and_true]
  exact ⟨⟨⟨⟨fun _ => rfl, fun _ => rfl, fun _ => rfl⟩, keepMbs_map (fun _ _ => rfl) _⟩, fun _ => rfl⟩, keepMbs_map (fun _ _ => rfl) _⟩

theorem scopeBg_keepMbs : KeepMbs scopeBg := by
  simp only [scopeBg, keepMbs_append, keepMbs_cons, keepMbs_nil, and_true]
  exact ⟨⟨⟨fun _ => rfl, fun _ => rfl, fun _ => rfl, fun _ => rfl, fun _ => rfl, fun _ => rfl⟩, keepMbs_map (fun _ _ => rfl) _⟩,
    keepMbs_map (fun _ _ => rfl) _⟩

theorem scopeOf_keepMbs {d : Director} {scope index : Nat} {l : List Counter} (h : scopeOf d scope index = some l) : KeepMbs l := by
  unfold scopeOf at h
  split at h
  all_goals simp only [Option.ite_none_right_eq_some, Option.some.injEq, reduceCtorEq] at h
  · exact h.2 ▸ scopePort_keepMbs d index
  · exact h.2 ▸ scopeCell_keepMbs index
  · exact h.2 ▸ scopeArm_keepMbs index
  · exact h.2 ▸ scopeTime_keepMbs
  · exact h.2 ▸ scopeLanes_keepMbs
  · exact h.2 ▸ scopeRec_keepMbs
  · exact h.2 ▸ scopeBg_keepMbs

theorem clearAll_mbs {l : List Counter} (h : KeepMbs l) (d : Director) : (l.foldl (fun d k => k.clear d) d).mbs = d.mbs :=
  foldl_keeps_of_mem (view := Director.mbs) (f := fun d (k : Counter) => k.clear d) h.of_mem d

/-- The counters of a request (R513). -/
def asked (p : List Byte) (l : List Counter) : List Counter := (l.drop (leAt p 4 2)).take (leAt p 6 2)

/-- The director after a read of counters, cleared where the request asks for it (R513). -/
def countersRead (d : Director) (p : List Byte) (l : List Counter) : Director :=
  if byteAt p 1 = 1 then (asked p l).foldl (fun d k => k.clear d) d else d

theorem diagCounters_answers {s : State} {mb : Nat} {c : Cmd} {l : List Counter} (hdue : Due s mb 0x0900 c)
    (hscope : scopeOf s.dir (byteAt c.payload 0) (leAt c.payload 2 2) = some l) (hclear : byteAt c.payload 1 ≤ 1)
    (hlo : 1 ≤ leAt c.payload 6 2) (hhi : leAt c.payload 6 2 ≤ 1016) (hwithin : leAt c.payload 4 2 + leAt c.payload 6 2 ≤ l.length) :
    ∃ t, exec (.diagCounters mb) s = .next t ∧ Answered t.dir mb c stOK ([byteAt c.payload 0, 0].map (BitVec.ofNat 8) ++ sub c.payload 2 6
        ++ (asked c.payload l).flatMap fun k => b4 (k.get (dirStart s.dir)).toNat)
      ∧ OnlyAnswers t.dir (countersRead (dirStart s.dir) c.payload l) := by
  have hscope' : scopeOf (dirStart s.dir) (byteAt c.payload 0) (leAt c.payload 2 2) = some l := hscope
  have hkeeps : KeepMbs (asked c.payload l) :=
    ⟨fun k hk => (scopeOf_keepMbs hscope).of_mem k (List.mem_of_mem_drop (List.mem_of_mem_take hk))⟩
  have hmbs : (countersRead (dirStart s.dir) c.payload l).mbs = s.dir.mbs := ite_keeps (view := Director.mbs) (clearAll_mbs hkeeps _) rfl
  obtain ⟨t, hnext, hans, honly, -, -⟩ := answered_of_due (i := .diagCounters mb) (st := stOK) (d := countersRead (dirStart s.dir) c.payload l)
    rfl hdue ((guarded_pass (by simp [hscope', hclear, natIn_iff.mpr ⟨hlo, hhi⟩, hwithin])).trans (by simp only [hscope', Option.getD_some]; rfl))
    hmbs (by decide)
  exact ⟨t, hnext, hans, honly⟩

theorem diagCounters_reads {s : State} {mb : Nat} {c : Cmd} {l : List Counter} (hdue : Due s mb 0x0900 c)
    (hscope : scopeOf s.dir (byteAt c.payload 0) (leAt c.payload 2 2) = some l) (hclear : byteAt c.payload 1 ≤ 1)
    (hlo : 1 ≤ leAt c.payload 6 2) (hhi : leAt c.payload 6 2 ≤ 1016) (hwithin : leAt c.payload 4 2 + leAt c.payload 6 2 ≤ l.length)
    (hlen : 8 ≤ c.payload.length) :
    ∃ t p, exec (.diagCounters mb) s = .next t ∧ Answered t.dir mb c stOK p ∧ p.length = 8 + 4 * leAt c.payload 6 2
      ∧ p.drop 8 = ((l.drop (leAt c.payload 4 2)).take (leAt c.payload 6 2)).flatMap fun k => b4 (k.get (dirStart s.dir)).toNat := by
  obtain ⟨t, hnext, hans, -⟩ := diagCounters_answers hdue hscope hclear hlo hhi hwithin
  have hhead : ([byteAt c.payload 0, 0].map (BitVec.ofNat 8) ++ sub c.payload 2 6).length = 8 := by
    rw [List.length_append, sub, List.length_take, List.length_drop, List.length_map]
    simp only [List.length_cons, List.length_nil]
    omega
  refine ⟨t, _, hnext, hans, ?_, List.drop_left' hhead⟩
  rw [List.length_append, hhead, flatMap_length_const fun _ _ => b4_length _, asked, List.length_take, List.length_drop,
    Nat.min_eq_left (by omega)]

theorem cons_append {α : Type} {x : α} {l : List α} (h : ∃ r, l = x :: r) (m : List α) : ∃ r, l ++ m = x :: r := by
  obtain ⟨r, rfl⟩ := h
  exact ⟨r ++ m, rfl⟩

/-- The first counter of an arm counts its overruns (R279). -/
theorem scopeArm_first (a : Nat) : ∃ r, scopeArm a = ctrArm a (·.overrun) (fun t => { t with overrun := 0 }) :: r := by
  unfold scopeArm
  extract_lets per
  iterate 18 refine cons_append ?_ _
  exact ⟨_, rfl⟩

theorem diagCounters_clears {s : State} {mb a : Nat} {c : Cmd} (hdue : Due s mb 0x0900 c) (hscope : byteAt c.payload 0 = 3)
    (harm : leAt c.payload 2 2 = a) (ha : a < 6) (hclear : byteAt c.payload 1 = 1) (hfirst : leAt c.payload 4 2 = 0) (hone : leAt c.payload 6 2 = 1) :
    ∃ t, exec (.diagCounters mb) s = .next t ∧ (arm t.dir a).cnt = { (arm s.dir a).cnt with overrun := 0 } ∧ t.dir.cells = s.dir.cells := by
  subst harm
  obtain ⟨r, hr⟩ := scopeArm_first (leAt c.payload 2 2)
  have hl : scopeOf s.dir (byteAt c.payload 0) (leAt c.payload 2 2) = some (scopeArm (leAt c.payload 2 2)) := by
    rw [hscope, scopeOf, if_pos ha]
  obtain ⟨t, hnext, -, honly⟩ := diagCounters_answers hdue hl (by omega) (by omega) (by omega) (by rw [hr, List.length_cons]; omega)
  have hasked : asked c.payload (scopeArm (leAt c.payload 2 2)) = [ctrArm (leAt c.payload 2 2) (·.overrun) fun t => { t with overrun := 0 }] := by
    rw [asked, hfirst, hone, hr]
    rfl
  have harms := honly.arms
  have hcells := honly.cells
  rw [countersRead, if_pos hclear, hasked] at harms hcells
  refine ⟨t, hnext, ?_, hcells⟩
  rw [arm, harms, List.foldl_cons, List.foldl_nil, ← arm]
  exact congrArg Arm.cnt (arm_modArm ..)

/-! Cells -/

section
variable {s : State} {mb id n : Nat} {c : Cmd} (hid : leAt c.payload 0 2 = id) (hvalid : cellValid s.dir id = true)
  (hproven : (cellRec s.dir id).link = .proven) (hrole : 3072 ≤ id ∨ (arm s.dir (id / 512)).role = .authority)
  (hport : cellPort (part s.dir) id = some n)
include hid hvalid hproven hrole hport

theorem diagEdge_waits (hdue : Due s mb 0x0901 c) (hmode : byteAt c.payload 2 ≤ 2) (hzero : byteAt c.payload 3 = 0)
    (hfew : byteAt c.payload 2 ≠ 0 → (s.dir.cells.filter fun (i, r) => i != id && r.diagMode != 0 && cellPort (part s.dir) i = some n).length < 2) :
    ∃ t r, exec (.diagEdge mb) s = .next t ∧ (mbx t.dir mb).cmd = some { c with wait := .cell id 0 }
      ∧ (port t.dir n).mgmt = (port s.dir n).mgmt ++ [r] ∧ r.mtype = 0x11 ∧ r.why = .cmd mb ∧ r.body = b1 (byteAt c.payload 2) ++ zeros 3 := by
  subst hid
  have hroom : (byteAt c.payload 2 != 0 && decide (2 ≤ (s.dir.cells.filter fun (i, r) =>
      i != leAt c.payload 0 2 && r.diagMode != 0 && cellPort (part s.dir) i = some n).length)) = false := by
    by_cases hnone : byteAt c.payload 2 = 0
    · simp [hnone]
    · rw [decide_eq_false (not_le.mpr (hfew hnone)), Bool.and_false]
  obtain ⟨t, hnext, hcmd, -, hmgmt⟩ := cellRecord_waits (i := .diagEdge mb) (d := dirStart s.dir) rfl hdue
    (guarded_pass (List.forall_mem_append.mpr ⟨cellChecks_pass (d := dirStart s.dir) hvalid hproven fun _ => hrole,
      List.forall_mem_cons.mpr ⟨by simp [hmode, hzero], List.forall_mem_singleton.mpr (by simp only [dirStart_frame, dirStart_accessors, hport]; exact hroom)⟩⟩)) rfl rfl hport
  exact ⟨t, _, hnext, hcmd, hmgmt, rfl, rfl, rfl⟩

theorem diagTx_waits (hdue : Due s mb 0x0904 c) (hon : byteAt c.payload 2 ≤ 1) (hzero : byteAt c.payload 3 = 0) :
    ∃ t r, exec (.diagTx mb) s = .next t ∧ (mbx t.dir mb).cmd = some { c with wait := .cell id 0 }
      ∧ (port t.dir n).mgmt = (port s.dir n).mgmt ++ [r] ∧ r.mtype = (if byteAt c.payload 2 = 0 then 0x09 else 0x0A) ∧ r.copies = 2
      ∧ r.secure = some id := by
  subst hid
  obtain ⟨t, hnext, hcmd, -, hmgmt⟩ := cellRecord_waits (i := .diagTx mb) (d := dirStart s.dir) rfl hdue
    (guarded_pass (List.forall_mem_append.mpr ⟨cellChecks_pass (d := dirStart s.dir) hvalid hproven fun _ => hrole,
      by simp [hon, hzero]⟩)) rfl rfl hport
  exact ⟨t, _, hnext, hcmd, hmgmt, rfl, rfl, rfl⟩

theorem diagCellFreeze_waits (hdue : Due s mb 0x0909 c) (hzero : leAt c.payload 2 2 = 0) :
    ∃ t r, exec (.diagCellFreeze mb) s = .next t ∧ (mbx t.dir mb).cmd = some { c with wait := .cell id 0 }
      ∧ (port t.dir n).mgmt = (port s.dir n).mgmt ++ [r] ∧ r.mtype = 0x10 ∧ r.copies = 2 ∧ r.secure = some id := by
  subst hid
  obtain ⟨t, hnext, hcmd, -, hmgmt⟩ := cellRecord_waits (i := .diagCellFreeze mb) (d := dirStart s.dir) rfl hdue
    (guarded_pass (List.forall_mem_append.mpr ⟨cellChecks_pass (d := dirStart s.dir) hvalid hproven fun _ => hrole, by simp [hzero]⟩)) rfl rfl hport
  exact ⟨t, _, hnext, hcmd, hmgmt, rfl, rfl, rfl⟩
end

theorem diagEdgeRead_answers {s : State} {mb : Nat} {c : Cmd} (hdue : Due s mb 0x0902 c) (hlo : 1 ≤ leAt c.payload 0 2)
    (hhi : leAt c.payload 0 2 ≤ 169) (hzero : leAt c.payload 2 2 = 0) :
    ∃ t p, exec (.diagEdgeRead mb) s = .next t ∧ Answered t.dir mb c stOK p ∧ p.length = 4 + 24 * min (leAt c.payload 0 2) s.dir.diagBuf.length
      ∧ t.dir.diagBuf = s.dir.diagBuf.drop (leAt c.payload 0 2) ∧ t.dir.diagLost = 0 := by
  obtain ⟨t, hnext, hans, honly, -, -⟩ := answered_of_due (i := .diagEdgeRead mb) rfl hdue
    (guarded_pass (by simp [natIn_iff.mpr ⟨hlo, hhi⟩, hzero])) rfl (by decide)
  refine ⟨t, _, hnext, hans, ?_, honly.view (·.diagBuf) fun _ _ _ _ => rfl, honly.view (·.diagLost) fun _ _ _ _ => rfl⟩
  have hentry : ∀ x ∈ (dirStart s.dir).diagBuf.take (leAt c.payload 0 2), (b2 x.1 ++ zeros 2 ++ padTo 20 x.2).length = 24 := fun x _ => by simp
  rw [List.length_append, flatMap_length_const hentry, List.length_take]
  simp
  rfl

theorem diagEdgeLearned_answers {s : State} {mb : Nat} {c : Cmd} (hdue : Due s mb 0x0903 c) (harm : byteAt c.payload 0 < 6)
    (hzero : byteAt c.payload 1 = 0) (hpos : leAt c.payload 2 2 ≤ 511) (hlen : 4 ≤ c.payload.length) :
    ∃ t p, exec (.diagEdgeLearned mb) s = .next t ∧ Answered t.dir mb c stOK p ∧ p.length = 36 ∧ t.dir.cells = s.dir.cells := by
  obtain ⟨t, hnext, hans, honly, -, -⟩ := answered_of_due (i := .diagEdgeLearned mb) rfl hdue
    (guarded_pass (by simp [armOk_of_lt harm, hzero, hpos])) rfl (by decide)
  refine ⟨t, _, hnext, hans, ?_, honly.cells⟩
  rw [List.length_append, List.length_take, Nat.min_eq_left hlen, flatMap_length_const fun _ _ => b4_length _, learnedWords, List.length_map,
    List.length_range]

end Sys2Proof.Machine
end

section
/-! PROOF. Test modes, the trace and the freeze (R388 to R391, R454, R518 to R520). -/

namespace Sys2Proof.Machine

/-! PRBS units -/

theorem prbsOf_modPrbs (d : Director) (k i : Nat) (f : Prbs → Prbs) : prbsOf (modPrbs d k i f) k i = f (prbsOf d k i) := by
  unfold prbsOf modPrbs
  split
  · exact congrArg Port.prbs (port_modPort ..)
  · exact tget_tmod_same ..
  · split
    · exact absurd rfl ‹_›
    · exact absurd rfl ‹_›
    · exact tget_tmod_same ..

/-- The units stand in the ports and in a table of their own. -/
theorem prbsOf_of {t d : Director} (hports : ∀ n, (port t n).prbs = (port d n).prbs) (hprbs : t.prbs = d.prbs) (k i : Nat) : prbsOf t k i = prbsOf d k i := by
  unfold prbsOf
  split
  · exact hports i
  · rw [skPrbs, hprbs, skPrbs]
  · rw [skPrbs, hprbs, skPrbs]

theorem modPrbs_mbs (d : Director) (k i : Nat) (f : Prbs → Prbs) : (modPrbs d k i f).mbs = d.mbs := by
  unfold modPrbs
  split <;> rfl

theorem startStream_prbs (d : Director) (n m : Nat) : (port (startStream d n) m).prbs = (port d m).prbs := by
  by_cases h : m = n
  · subst h
    rw [startStream, port_modPort]
    rfl
  · rw [startStream, port_modPort_other _ h]
    rfl

theorem lightTrees_prbsOf (d : Director) (k i : Nat) : prbsOf (lightTrees d) k i = prbsOf d k i :=
  prbsOf_of (fun n => foldl_keeps (view := fun d => (port d n).prbs) (f := startStream) (fun d m => startStream_prbs d m n) _ d)
    (foldl_keeps (view := Director.prbs) (f := startStream) (fun _ _ => rfl) _ d) k i

theorem lightTrees_mbs (d : Director) : (lightTrees d).mbs = d.mbs := foldl_keeps (view := Director.mbs) (f := startStream) (fun _ _ => rfl) _ d

/-! Leaving service -/

/-- The commands that wait for a key end with the link; no other mailbox changes (R527). -/
theorem keyWaitsEnded_mbx {d : Director} {n : Nat} {c : Cmd} (hc : (mbx d n).cmd = some c) (hw : c.wait ≠ .key) :
    mbx (keyWaitsEnded d) n = mbx d n := by
  have hfold : ∀ (l : List Nat) (e : Director), mbx e n = mbx d n → mbx (l.foldl (fun d mb => match (mbx d mb).cmd with
      | some c => if c.wait = .key && byteAt c.payload 0 = 2 then refuse d mb stTimeout else d
      | none => d) e) n = mbx d n := by
    intro l
    induction l with
    | nil => exact fun _ he => he
    | cons mb r ih =>
      intro e he
      refine ih _ ?_
      dsimp only
      split
      · next c' hc' =>
        by_cases hmb : n = mb
        · subst hmb
          rw [he, hc] at hc'
          cases hc'
          rw [if_neg (by simp [hw])]
          exact he
        · refine ite_keeps (view := (mbx · n)) ?_ he
          exact (respond_mbx_other hmb (by decide) []).trans he
      · exact he
  exact hfold _ d rfl

theorem linkDown_mbx {d : Director} {n : Nat} {c : Cmd} (hc : (mbx d n).cmd = some c) (hw : c.wait ≠ .key) : mbx (linkDown d) n = mbx d n := by
  have hmbs : (linkDown d).mbs = (keyWaitsEnded d).mbs := (view_of_steerless (reSource_steerless ..) Director.mbs fun _ => rfl).trans rfl
  rw [mbx, hmbs]
  exact keyWaitsEnded_mbx hc hw

theorem leaveService_mbx {d : Director} {n k i : Nat} {c : Cmd} (hc : (mbx d n).cmd = some c) (hw : c.wait ≠ .key) :
    mbx (leaveService d k i) n = mbx d n := by
  unfold leaveService
  split
  · refine (foldl_keeps (view := (mbx · n)) (f := fun d id => modRec d id listenRec) (fun _ _ => rfl) _ _).trans ?_
    have hmbs : (darken d i).mbs = d.mbs := ite_keeps (view := Director.mbs) rfl rfl
    exact congrArg (tget {} n) hmbs
  · refine ite_keeps (view := (mbx · n)) rfl (ite_keeps (view := (mbx · n)) ?_ rfl)
    exact linkDown_mbx hc hw
  · have hmbs := view_of_steerless (portDown_steerless (modTport d i fun t => { t with prbsTest := true }) i) Director.mbs fun _ => rfl
    rw [mbx, hmbs]
    rfl

/-! DIAG_PRBS -/

/-- What DIAG_PRBS reports of a unit (R518). -/
def prbsReport (x : Prbs) : List Byte := b1 (b2n x.locked) ++ b1 x.pattern ++ zeros 2 ++ b4 x.err.toNat ++ b4 x.resync.toNat

theorem prbsReport_length (x : Prbs) : (prbsReport x).length = 12 := by simp [prbsReport]

/-- A lane back in service (R390). -/
def testEnded (d : Director) (k i : Nat) : Director :=
  let d := modPrbs d k i fun x => { x with testMode := false, gen := false, check := false, locked := false }
  let d := if k = 2 then modTport d i fun t => { t with prbsTest := false } else d
  if k = 0 then lightTrees d else d

/-- A lane in test mode with its generator and checker set (R388 to R390). -/
def testBegun (d : Director) (k i : Nat) (p : List Byte) : Director :=
  let d := if (prbsOf d k i).testMode then d else leaveService d k i
  let d := if k = 0 then send d (if bit (byteAt p 4) 0 then .prbs i (byteAt p 3) else .dark i) else d
  modPrbs d k i fun x => { x with testMode := true, pattern := byteAt p 3, gen := bit (byteAt p 4) 0, check := bit (byteAt p 4) 1
                                  locked := false, slips := if x.testMode then x.slips else 0 }

theorem testEnded_mbs (d : Director) (k i : Nat) : (testEnded d k i).mbs = d.mbs := by
  have hend := modPrbs_mbs d k i fun x => { x with testMode := false, gen := false, check := false, locked := false }
  have hport := ite_keeps (view := Director.mbs) (p := k = 2)
    (t := modTport (modPrbs d k i fun x => { x with testMode := false, gen := false, check := false, locked := false }) i fun t => { t with prbsTest := false }) hend hend
  exact ite_keeps (view := Director.mbs) ((lightTrees_mbs _).trans hport) hport

theorem testEnded_prbs (d : Director) (k i : Nat) : prbsOf (testEnded d k i) k i =
    { prbsOf d k i with testMode := false, gen := false, check := false, locked := false } := by
  have hend := prbsOf_modPrbs d k i fun x => { x with testMode := false, gen := false, check := false, locked := false }
  have hport := ite_keeps (view := (prbsOf · k i)) (p := k = 2)
    (t := modTport (modPrbs d k i fun x => { x with testMode := false, gen := false, check := false, locked := false }) i fun t => { t with prbsTest := false })
    ((prbsOf_of (fun _ => rfl) rfl k i).trans hend) hend
  exact ite_keeps (view := (prbsOf · k i)) ((lightTrees_prbsOf ..).trans hport) hport

theorem testBegun_cmd {d : Director} {n k i : Nat} {c : Cmd} (p : List Byte) (hc : (mbx d n).cmd = some c) (hw : c.wait ≠ .key) :
    (mbx (testBegun d k i p) n).cmd = some c := by
  have hleft : mbx (if (prbsOf d k i).testMode then d else leaveService d k i) n = mbx d n :=
    ite_keeps (view := (mbx · n)) rfl (leaveService_mbx hc hw)
  have hsent : mbx (if k = 0 then send (if (prbsOf d k i).testMode then d else leaveService d k i)
      (if bit (byteAt p 4) 0 then .prbs i (byteAt p 3) else .dark i) else (if (prbsOf d k i).testMode then d else leaveService d k i)) n = mbx d n :=
    ite_keeps (view := (mbx · n)) hleft hleft
  rw [← hsent] at hc
  rw [testBegun, mbx, modPrbs_mbs]
  exact hc

theorem testBegun_prbs (d : Director) (k i : Nat) (p : List Byte) : (prbsOf (testBegun d k i p) k i).testMode = true
    ∧ (prbsOf (testBegun d k i p) k i).pattern = byteAt p 3 ∧ (prbsOf (testBegun d k i p) k i).gen = bit (byteAt p 4) 0
    ∧ (prbsOf (testBegun d k i p) k i).check = bit (byteAt p 4) 1 := by
  rw [testBegun, prbsOf_modPrbs]
  exact ⟨rfl, rfl, rfl, rfl⟩

/-- A director reached by an answer shows the units as it had them before. -/
theorem Reached.prbsOf {s t : State} {d : Director} {n st : Nat} {p : List Byte} (h : Reached s t (respond d n st p)) (k i : Nat) :
    prbsOf t.dir k i = prbsOf d k i := by
  refine prbsOf_of (fun m => ?_) ?_ k i
  · rw [h.port]
    exact congrArg Port.prbs (respond_view (view := fun d => Machine.port d m) (fun _ _ _ _ => rfl) ..)
  · rw [h.prbs]
    exact respond_view (view := Director.prbs) (fun _ _ _ _ => rfl) ..

section
variable {s : State} {mb k i : Nat} {c : Cmd} (hk : byteAt c.payload 0 = k) (hi : byteAt c.payload 1 = i)
include hk hi

/-- An accepted DIAG_PRBS answers the unit it leaves, and its counts are cleared by a read (R518). -/
theorem diagPrbs_answers (hdue : Due s mb 0x0905 c) (hknown : laneKnown s.dir k i = true) (hop : byteAt c.payload 2 ≤ 2)
    (hpat : byteAt c.payload 3 ≤ 3) (hen : byteAt c.payload 4 ≤ 3) (hzero : allZero (sub c.payload 5 3) = true)
    (hallowed : byteAt c.payload 2 = 1 → testAllowed s.dir k i = true) {d : Director}
    (hd : (match byteAt c.payload 2 with
      | 0 => testEnded (dirStart s.dir) k i
      | 1 => testBegun (dirStart s.dir) k i c.payload
      | _ => dirStart s.dir) = d) :
    ∃ t, exec (.diagPrbs mb) s = .next t
      ∧ Reached s t (respond (if byteAt c.payload 2 = 2 then modPrbs d k i fun x => { x with err := 0, resync := 0 } else d) mb stOK
          (prbsReport (prbsOf d k i))) := by
  subst hk hi hd
  have hknown' : laneKnown (dirStart s.dir) (byteAt c.payload 0) (byteAt c.payload 1) = true := hknown
  have hallowed' : byteAt c.payload 2 = 1 → testAllowed (dirStart s.dir) (byteAt c.payload 0) (byteAt c.payload 1) = true := hallowed
  refine due_reaches (i := .diagPrbs mb) rfl hdue ((guarded_pass ?_).trans ?_)
  · simpa [hknown', hop, hpat, hen, hzero] using hallowed'
  · rfl

theorem diagPrbs_reports (hdue : Due s mb 0x0905 c) (hknown : laneKnown s.dir k i = true) (hop : byteAt c.payload 2 ≤ 2)
    (hpat : byteAt c.payload 3 ≤ 3) (hen : byteAt c.payload 4 ≤ 3) (hzero : allZero (sub c.payload 5 3) = true)
    (hallowed : byteAt c.payload 2 = 1 → testAllowed s.dir k i = true) :
    ∃ t p, exec (.diagPrbs mb) s = .next t ∧ Answered t.dir mb c stOK p ∧ p.length = 12
      ∧ (byteAt c.payload 2 = 0 → (prbsOf t.dir k i).testMode = false ∧ (prbsOf t.dir k i).gen = false ∧ (prbsOf t.dir k i).check = false)
      ∧ (byteAt c.payload 2 = 1 → (prbsOf t.dir k i).testMode = true ∧ (prbsOf t.dir k i).pattern = byteAt c.payload 3
          ∧ (prbsOf t.dir k i).gen = bit (byteAt c.payload 4) 0 ∧ (prbsOf t.dir k i).check = bit (byteAt c.payload 4) 1)
      ∧ (byteAt c.payload 2 = 2 → prbsOf t.dir k i = { prbsOf s.dir k i with err := 0, resync := 0 }
          ∧ p.drop 4 = b4 (prbsOf s.dir k i).err.toNat ++ b4 (prbsOf s.dir k i).resync.toNat) := by
  have hanswers := fun d => diagPrbs_answers hk hi hdue hknown hop hpat hen hzero hallowed (d := d)
  obtain ⟨-, -, -, hcmd, -, hwait⟩ := hdue
  have hkey : c.wait ≠ .key := by rw [hwait]; decide
  obtain hzero | hone | htwo : byteAt c.payload 2 = 0 ∨ byteAt c.payload 2 = 1 ∨ byteAt c.payload 2 = 2 := by omega
  · obtain ⟨t, hnext, h⟩ := hanswers (testEnded (dirStart s.dir) k i) (by rw [hzero]; rfl)
    rw [hzero, if_neg (by decide)] at h
    have hprbs : prbsOf t.dir k i = _ := (h.prbsOf k i).trans (testEnded_prbs (dirStart s.dir) k i)
    refine ⟨t, _, hnext, reached_answered h ?_, prbsReport_length _, fun _ => ?_, by simp [hzero], by simp [hzero]⟩
    · rw [mbx, testEnded_mbs]
      exact hcmd
    · rw [hprbs]
      exact ⟨rfl, rfl, rfl⟩
  · obtain ⟨t, hnext, h⟩ := hanswers (testBegun (dirStart s.dir) k i c.payload) (by rw [hone]; rfl)
    rw [hone, if_neg (by decide)] at h
    refine ⟨t, _, hnext, reached_answered h (testBegun_cmd (d := dirStart s.dir) _ hcmd hkey), prbsReport_length _, by simp [hone], fun _ => ?_,
      by simp [hone]⟩
    rw [h.prbsOf]
    exact testBegun_prbs ..
  · obtain ⟨t, hnext, h⟩ := hanswers (dirStart s.dir) (by rw [htwo]; rfl)
    rw [htwo, if_pos rfl] at h
    refine ⟨t, _, hnext, reached_answered h ?_, prbsReport_length _, by simp [htwo], by simp [htwo], fun _ => ⟨?_, rfl⟩⟩
    · rw [mbx, modPrbs_mbs]
      exact hcmd
    · rw [h.prbsOf, prbsOf_modPrbs]
      rfl

theorem diagPrbs_refused (hdue : Due s mb 0x0905 c) (hkind : k = 1) (hlane : i < 4) (hop : byteAt c.payload 2 = 1) {a : Nat} (ha : a < 6)
    (hmode : (arm s.dir a).mode ≠ .off) : ∃ t, exec (.diagPrbs mb) s = .next t ∧ Answered t.dir mb c stState [] ∧ t.dir.prbs = s.dir.prbs := by
  subst hk hi
  have hbarred : testAllowed (dirStart s.dir) 1 (byteAt c.payload 1) = false := by
    rw [Bool.eq_false_iff]
    intro hall
    have hoff : allArms (dirStart s.dir) (fun m => decide (m = .off)) = true := hall
    exact hmode (of_decide_eq_true (allArms_iff.mp hoff a ha))
  obtain ⟨t, hnext, hans, honly⟩ := due_refused (i := .diagPrbs mb) (st := stState) rfl hdue
    (guarded_fail (by simp only [hkind, hbarred]; simp [laneKnown, hlane, hop, firstFail])) (by decide)
  exact ⟨t, hnext, hans, honly.view (·.prbs) fun _ _ _ _ => rfl⟩
end

/-! DIAG_BITSLIP -/

/-- What an operation of DIAG_BITSLIP makes of a unit (R391, R519). -/
def slipped (op : Nat) (x : Prbs) : Prbs :=
  match op with
  | 0 => { x with slips := (x.slips + 1) % 32 }
  | 1 => x
  | 2 => { x with manual := true, slips := 0 }
  | _ => { x with manual := false }

theorem diagBitslip_answers {s : State} {mb k i : Nat} {c : Cmd} (line : List Bool) (hdue : Due s mb 0x0906 c) (hk : byteAt c.payload 0 = k)
    (hkind : k = 1 ∨ k = 2) (hi : byteAt c.payload 1 = i) (hknown : laneKnown s.dir k i = true) (hop : byteAt c.payload 2 ≤ 3)
    (hzero : byteAt c.payload 3 = 0) (htest : byteAt c.payload 2 ≤ 1 → (prbsOf s.dir k i).testMode = true ∨ (prbsOf s.dir k i).manual = true)
    (halign : byteAt c.payload 2 = 2 → k = 1 ∧ (lane s.dir i).mode = .align) :
    ∃ t, exec (.diagBitslip mb line) s = .next t ∧ prbsOf t.dir k i = slipped (byteAt c.payload 2) (prbsOf s.dir k i)
      ∧ Answered t.dir mb c stOK (b1 (prbsOf t.dir k i).slips ++ [0]
          ++ b2 (if byteAt c.payload 2 = 1 then matchCount line (prbsOf t.dir k i).slips (leAt c.payload 4 4) else 0)) := by
  subst hk hi
  have hknown' : laneKnown (dirStart s.dir) (byteAt c.payload 0) (byteAt c.payload 1) = true := hknown
  have htest' : (decide (byteAt c.payload 2 ≤ 1) && !((prbsOf (dirStart s.dir) (byteAt c.payload 0) (byteAt c.payload 1)).testMode
      || (prbsOf (dirStart s.dir) (byteAt c.payload 0) (byteAt c.payload 1)).manual)) = false := by
    by_cases hfirst : byteAt c.payload 2 ≤ 1
    · have hset := Bool.or_eq_true_iff.mpr (htest hfirst)
      exact (congrArg (_ && !·) hset).trans (Bool.and_false _)
    · rw [decide_eq_false hfirst, Bool.false_and]
  have halign' : (decide (byteAt c.payload 2 = 2) && !(decide (byteAt c.payload 0 = 1)
      && decide ((lane (dirStart s.dir) (byteAt c.payload 1)).mode = .align))) = false := by
    simpa using halign
  have hkindOk : (decide (byteAt c.payload 0 = 1) || decide (byteAt c.payload 0 = 2)) = true := by simpa using hkind
  obtain ⟨t, hnext, h⟩ := due_reaches (i := .diagBitslip mb line)
    (d := respond (modPrbs (dirStart s.dir) (byteAt c.payload 0) (byteAt c.payload 1) (slipped (byteAt c.payload 2))) mb stOK
      (b1 (prbsOf (modPrbs (dirStart s.dir) (byteAt c.payload 0) (byteAt c.payload 1) (slipped (byteAt c.payload 2))) (byteAt c.payload 0) (byteAt c.payload 1)).slips
        ++ [0] ++ b2 (if byteAt c.payload 2 = 1 then matchCount line (prbsOf (modPrbs (dirStart s.dir) (byteAt c.payload 0) (byteAt c.payload 1)
          (slipped (byteAt c.payload 2))) (byteAt c.payload 0) (byteAt c.payload 1)).slips (leAt c.payload 4 4) else 0))) rfl hdue
    ((guarded_pass (by simp only [hkindOk, hknown', htest', halign']; simp [hop, hzero])).trans rfl)
  have hprbs := h.prbsOf (byteAt c.payload 0) (byteAt c.payload 1)
  obtain ⟨-, -, -, hcmd, -, -⟩ := hdue
  refine ⟨t, hnext, hprbs.trans (prbsOf_modPrbs ..), ?_⟩
  rw [hprbs]
  refine reached_answered h ?_
  rw [mbx, modPrbs_mbs]
  exact hcmd

/-! Trace and freeze -/

/-- What an operation of DIAG_TRACE makes of the director (R454, R520). -/
def traceSet (op : Nat) (d : Director) : Director :=
  match op with
  | 1 => modDisp d fun x => { x with tracing := false }
  | 2 => modDisp d fun x => { x with tracing := true, trace := [] }
  | _ => d

theorem traceSet_mbs (op : Nat) (d : Director) : (traceSet op d).mbs = d.mbs := by
  unfold traceSet
  split <;> rfl

theorem diagTrace_answers {s : State} {mb : Nat} {c : Cmd} (hdue : Due s mb 0x0907 c) (hop : byteAt c.payload 0 ≤ 2)
    (hzero : byteAt c.payload 1 = 0) (hzero' : leAt c.payload 6 2 = 0)
    (hread : byteAt c.payload 0 = 0 → s.dir.disp.tracing = false ∧ 1 ≤ leAt c.payload 4 2 ∧ leAt c.payload 4 2 ≤ 254
      ∧ leAt c.payload 2 2 + leAt c.payload 4 2 ≤ s.dir.disp.trace.length)
    (hset : byteAt c.payload 0 ≠ 0 → leAt c.payload 4 2 = 0) :
    ∃ t p, exec (.diagTrace mb) s = .next t ∧ Answered t.dir mb c stOK p
      ∧ (byteAt c.payload 0 = 0 → t.dir.disp = s.dir.disp
          ∧ p.drop 8 = ((s.dir.disp.trace.reverse.drop (leAt c.payload 2 2)).take (leAt c.payload 4 2)).flatMap fun e => toLE 16 e.toNat)
      ∧ (byteAt c.payload 0 = 1 → t.dir.disp.tracing = false ∧ t.dir.disp.trace = s.dir.disp.trace)
      ∧ (byteAt c.payload 0 = 2 → t.dir.disp.tracing = true ∧ t.dir.disp.trace = []) := by
  have hstate : (decide (byteAt c.payload 0 = 0) && s.dir.disp.tracing) = false := by
    by_cases h : byteAt c.payload 0 = 0
    · simp [hread h]
    · simp [h]
  have hrange : (if byteAt c.payload 0 = 0 then !natIn (leAt c.payload 4 2) 1 254 || decide (s.dir.disp.trace.length < leAt c.payload 2 2 + leAt c.payload 4 2)
      else leAt c.payload 4 2 != 0) = false := by
    split
    · next h =>
      obtain ⟨-, hlo, hhi, hwithin⟩ := hread h
      simp [natIn_iff.mpr ⟨hlo, hhi⟩, hwithin]
    · next h => simp [hset h]
  obtain ⟨t, hnext, hans, honly, -, -⟩ := answered_of_due (i := .diagTrace mb) (d := traceSet (byteAt c.payload 0) (dirStart s.dir)) rfl hdue
    ((guarded_pass (by simp only [dirStart_frame, hstate, hrange]; simp [hop, hzero, hzero'])).trans rfl) (traceSet_mbs ..) (by decide)
  have hdisp := honly.view (·.disp) fun _ _ _ _ => rfl
  refine ⟨t, _, hnext, hans, fun h => ?_, fun h => ?_, fun h => ?_⟩
  · rw [h] at hdisp
    refine ⟨hdisp, ?_⟩
    rw [h]
    exact List.drop_left' (by simp)
  · rw [hdisp, h]
    exact ⟨rfl, rfl⟩
  · rw [hdisp, h]
    exact ⟨rfl, rfl⟩

theorem diagFreeze_answers {s : State} {mb : Nat} {c : Cmd} (hdue : Due s mb 0x0908 c) (hconfirm : leAt c.payload 0 4 = 0x465A5251)
    (hzero : leAt c.payload 4 4 = 0) :
    ∃ t, exec (.diagFreeze mb) s = .next t ∧ Answered t.dir mb c stOK [] ∧ t.dir.frz.armedCmd = true ∧ t.dir.frz.frozen = s.dir.frz.frozen := by
  obtain ⟨t, hnext, hans, honly, -, -⟩ := answered_of_due (i := .diagFreeze mb) rfl hdue
    (guarded_pass (by simp [hconfirm, hzero])) rfl (by decide)
  have hfrz := honly.frz
  have hfrozen := congrArg Freeze.frozen hfrz
  exact ⟨t, hnext, hans, congrArg Freeze.armedCmd hfrz, hfrozen⟩

theorem diagFreeze_refused {s : State} {mb : Nat} {c : Cmd} (hdue : Due s mb 0x0908 c) (hconfirm : leAt c.payload 0 4 ≠ 0x465A5251) :
    ∃ t, exec (.diagFreeze mb) s = .next t ∧ Answered t.dir mb c stRange [] ∧ t.dir.frz = s.dir.frz := by
  have hbad : (leAt c.payload 0 4 != 0x465A5251) = true := bne_iff_ne.mpr hconfirm
  obtain ⟨t, hnext, hans, honly⟩ := due_refused (i := .diagFreeze mb) (st := stRange) rfl hdue
    (guarded_fail (by rw [hbad, Bool.true_or]; rfl)) (by decide)
  exact ⟨t, hnext, hans, honly.frz⟩

/-- Settles O28: every row of the group answers, queues its record or is refused. -/
theorem diagnosticsCommands : Obligations.DiagnosticsCommands := by
  unfold Obligations.DiagnosticsCommands
  refine ⟨?_, ?_, ?_, ?_, ?_, ?_, ?_, ?_, ?_, ?_, ?_, ?_, ?_⟩
  · exact fun s mb c l => diagCounters_reads
  · exact fun s mb c a => diagCounters_clears
  · exact fun s mb c id n hdue hid hvalid hproven hrole hmode hzero hport hfew =>
      diagEdge_waits hid hvalid hproven hrole hport hdue hmode hzero hfew
  · exact fun s mb c => diagEdgeRead_answers
  · exact fun s mb c => diagEdgeLearned_answers
  · exact fun s mb c id n hdue hid hvalid hproven hrole hon hzero hport => diagTx_waits hid hvalid hproven hrole hport hdue hon hzero
  · exact fun s mb c id n hdue hid hvalid hproven hrole hzero hport => diagCellFreeze_waits hid hvalid hproven hrole hport hdue hzero
  · exact fun s mb c k i hdue hk hi hknown hop hpat hen hzero hallowed => diagPrbs_reports hk hi hdue hknown hop hpat hen hzero hallowed
  · exact fun s mb c i a hdue hk hi hlane hop ha hmode => diagPrbs_refused hk hi hdue rfl hlane hop ha hmode
  · intro s mb c line k i hdue hk hkind hi hknown hop hzero htest halign
    obtain ⟨t, hnext, hprbs, hans⟩ := diagBitslip_answers line hdue hk hkind hi hknown hop hzero htest halign
    refine ⟨t, hnext, hprbs, ?_⟩
    by_cases hone : byteAt c.payload 2 = 1
    · have hsame : prbsOf t.dir k i = prbsOf s.dir k i := by rw [hprbs, hone]; rfl
      rw [hsame] at hans ⊢
      exact hans
    · rw [if_neg hone] at hans ⊢
      exact hans
  · exact fun s mb c => diagTrace_answers
  · exact fun s mb c => diagFreeze_answers
  · exact fun s mb c => diagFreeze_refused

end Sys2Proof.Machine
end

section
/-! PROOF. The security group (R523 to R529, R597, R599, R603). -/

namespace Sys2Proof.Machine

/-! Bytes of a memory -/

theorem Mem.readList_eq_map (b : Byte) (a n : Nat) (m : Mem) : Mem.readList b a n m = (List.range n).map fun j => Mem.read b (a + j) m := by
  induction n generalizing a with
  | zero => rfl
  | succ n ih =>
    rw [Mem.readList, ih, List.range_succ_eq_map, List.map_cons, List.map_map]
    exact congrArg _ (List.map_congr_left fun j _ => by simp [Nat.add_assoc, Nat.add_comm 1 j])

theorem rdBytes_eq_map (m : Stores) (i : MemId) (a n : Nat) : rdBytes m i a n = (List.range n).map fun j => rdByte m i (a + j) :=
  Mem.readList_eq_map ..

/-- A write reads back as a whole. -/
theorem rdBytes_applyWrite {m : Stores} (hm : m.wf) (w : MemWrite) : rdBytes (applyWrite m w) w.dest w.addr w.data.length = w.data := by
  rw [rdBytes_eq_map]
  refine List.ext_getElem (by simp) fun j hj hj' => ?_
  rw [List.getElem_map, List.getElem_range]
  exact rdByte_applyWrite_inside w hm hj'

theorem rdByte_applyWrites_other {m : Stores} {ws : List MemWrite} {k : MemId} (h : ∀ w ∈ ws, sameMem w.dest k = false) (a : Nat) :
    rdByte (applyWrites m ws) k a = rdByte m k a := by
  rw [rdByte, applyWrites_other h, rdByte]

/-! Image data -/

/-- The sectors that image data reaches first, erased (R523). -/
def sectorsErased (d : Director) (i : Nat) (ks : List Nat) : Director :=
  ks.foldl (fun d k => putMem d { dest := .flash, addr := slotBase d i + 65536 * k, data := List.replicate 65536 0xFF }) d

theorem sectorsErased_boot (d : Director) (i : Nat) (ks : List Nat) : (sectorsErased d i ks).boot = d.boot :=
  foldl_keeps (view := Director.boot)
    (f := fun d k => putMem d { dest := .flash, addr := slotBase d i + 65536 * k, data := List.replicate 65536 0xFF }) (fun _ _ => rfl) ks d

theorem sectorsErased_mbs (d : Director) (i : Nat) (ks : List Nat) : (sectorsErased d i ks).mbs = d.mbs :=
  foldl_keeps (view := Director.mbs)
    (f := fun d k => putMem d { dest := .flash, addr := slotBase d i + 65536 * k, data := List.replicate 65536 0xFF }) (fun _ _ => rfl) ks d

theorem sectorsErased_writes {d : Director} (i : Nat) (ks : List Nat) (h : ∀ w ∈ d.writes, w.dest = .flash) :
    ∀ w ∈ (sectorsErased d i ks).writes, w.dest = .flash := by
  induction ks generalizing d with
  | nil => exact h
  | cons k r ih =>
    refine ih ?_
    rw [putMem_writes]
    exact List.forall_mem_cons.mpr ⟨rfl, h⟩

/-- The record of the writes of a slot begins anew at offset 0 (R523). -/
def writesBefore (d : Director) (i ofs : Nat) : SlotWrite := if ofs = 0 then {} else slotWrite d i

/-- The sectors that a write reaches first. -/
def newSectors (d : Director) (i ofs : Nat) (data : List Byte) : List Nat :=
  (sectorsOf ofs data.length).filter fun k => !(writesBefore d i ofs).erased.contains k

/-- Image data written to its slot (R523). -/
theorem writeSlot_eq (d : Director) (i ofs : Nat) (data : List Byte) : writeSlot d i ofs data =
    setSlotWrite (putMem (sectorsErased d i (newSectors d i ofs data))
        { dest := .flash, addr := slotBase (sectorsErased d i (newSectors d i ofs data)) i + ofs, data := data }) i
      { next := some (ofs + data.length), erased := (writesBefore d i ofs).erased ++ newSectors d i ofs data, verified := false } := rfl

theorem slotWrite_setSlotWrite (d : Director) (i : Nat) (w : SlotWrite) : slotWrite (setSlotWrite d i w) i = w := by
  unfold slotWrite setSlotWrite
  split <;> rfl

theorem slotBase_of_boot {t d : Director} (h : t.boot = d.boot) (i : Nat) : slotBase t i = slotBase d i := by
  simp only [slotBase, slotSize, flashSize, h]

theorem secImageWrite_answers {s : State} {mb i o : Nat} {c : Cmd} (hdue : Due s mb 0x0A01 c) (hslot : byteAt c.payload 0 = i) (hi : i ≤ 1)
    (hfree : s.dir.boot.state = .run → i ≠ s.dir.boot.slot) (hzero : allZero (sub c.payload 1 3) = true) (ho : leAt c.payload 4 4 = o)
    (hnext : o = 0 ∨ (slotWrite s.dir i).next = some o) (hwithin : o + (c.payload.length - 8) ≤ slotSize s.dir) (hmem : memWf s.mem = true) :
    ∃ t, exec (.secImageWrite mb) s = .next t
      ∧ Answered t.dir mb c stOK ([BitVec.ofNat 8 i, 0, 0, 0] ++ toLE 4 o ++ toLE 4 (crc32c (c.payload.drop 8)))
      ∧ rdBytes t.mem .flash (slotBase s.dir i + o) (c.payload.length - 8) = c.payload.drop 8
      ∧ (slotWrite t.dir i).next = some (o + (c.payload.length - 8)) ∧ (slotWrite t.dir i).verified = false
      ∧ ∀ k, k ≠ .flash → OtherBytesKept s.mem t.mem .flash 0 0 k := by
  subst hslot ho
  have hlen : (c.payload.drop 8).length = c.payload.length - 8 := List.length_drop
  have hstate : (inRun (dirStart s.dir) && decide (byteAt c.payload 0 = s.dir.boot.slot)) = false := by
    by_cases hrun : s.dir.boot.state = .run
    · rw [decide_eq_false (hfree hrun), Bool.and_false]
    · simp [inRun, hrun]
  have hrange : (leAt c.payload 4 4 != 0 && decide ((slotWrite (dirStart s.dir) (byteAt c.payload 0)).next ≠ some (leAt c.payload 4 4))) = false := by
    obtain hnone | hsome := hnext
    · simp [hnone]
    · have hsome' : (slotWrite (dirStart s.dir) (byteAt c.payload 0)).next = some (leAt c.payload 4 4) := hsome
      simp [hsome']
  have hsize : slotSize (dirStart s.dir) = slotSize s.dir := rfl
  have hmbs : (writeSlot (dirStart s.dir) (byteAt c.payload 0) (leAt c.payload 4 4) (c.payload.drop 8)).mbs = s.dir.mbs :=
    sectorsErased_mbs (dirStart s.dir) ..
  obtain ⟨t, hexec, hans, honly, -, hwritten⟩ := answered_of_due (i := .secImageWrite mb)
    (d := writeSlot (dirStart s.dir) (byteAt c.payload 0) (leAt c.payload 4 4) (c.payload.drop 8)) rfl hdue
    (guarded_pass (by simp only [hsize, dirStart_frame, hstate, hrange, hlen]; simp [hi, hzero, hwithin])) hmbs (by decide)
  have hboot := honly.boot
  have hslot : slotWrite t.dir (byteAt c.payload 0) = slotWrite (writeSlot (dirStart s.dir) (byteAt c.payload 0) (leAt c.payload 4 4) (c.payload.drop 8))
      (byteAt c.payload 0) := by rw [slotWrite, slotWrite, hboot]
  rw [writeSlot_eq, slotWrite_setSlotWrite, hlen] at hslot
  have hbase := slotBase_of_boot (sectorsErased_boot (dirStart s.dir) (byteAt c.payload 0)
    (newSectors (dirStart s.dir) (byteAt c.payload 0) (leAt c.payload 4 4) (c.payload.drop 8))) (byteAt c.payload 0)
  have hflash := sectorsErased_writes (d := dirStart s.dir) (byteAt c.payload 0)
    (newSectors (dirStart s.dir) (byteAt c.payload 0) (leAt c.payload 4 4) (c.payload.drop 8)) (fun _ h => absurd h List.not_mem_nil)
  have hmem' : t.mem = applyWrite (applyWrites s.mem (sectorsErased (dirStart s.dir) (byteAt c.payload 0)
      (newSectors (dirStart s.dir) (byteAt c.payload 0) (leAt c.payload 4 4) (c.payload.drop 8))).writes)
      { dest := .flash, addr := slotBase s.dir (byteAt c.payload 0) + leAt c.payload 4 4, data := c.payload.drop 8 } := by
    rw [hwritten, writeSlot_eq, hbase]
    rfl
  refine ⟨t, hexec, hans, ?_, by rw [hslot], by rw [hslot], fun k hk x _ => ?_⟩
  · rw [hmem', ← hlen]
    exact rdBytes_applyWrite (applyWrites_wf _ ((memWf_iff _).mp hmem))
      { dest := .flash, addr := slotBase s.dir (byteAt c.payload 0) + leAt c.payload 4 4, data := c.payload.drop 8 }
  · have hother : sameMem .flash k = false := by
      cases k with
      | flash => exact absurd rfl hk
      | _ => rfl
    rw [hmem', rdByte_applyWrite_outside _ _ (.inl hother)]
    exact rdByte_applyWrites_other (fun w hw => by rw [hflash w hw, hother]) x

theorem secImageWrite_refused {s : State} {mb : Nat} {c : Cmd} (hdue : Due s mb 0x0A01 c) (hrun : s.dir.boot.state = .run)
    (huse : byteAt c.payload 0 = s.dir.boot.slot) :
    ∃ t, exec (.secImageWrite mb) s = .next t ∧ Answered t.dir mb c stState [] ∧ t.mem = s.mem ∧ t.dir.boot = s.dir.boot := by
  obtain ⟨t, hexec, hans, honly, -, hmem⟩ := answered_of_due (i := .secImageWrite mb) (st := stState) (d := dirStart s.dir) rfl hdue
    (guarded_fail (by simp [inRun, hrun, huse, firstFail])) rfl (by decide)
  exact ⟨t, hexec, hans, hmem, honly.boot⟩

theorem secImageVerify_answers {s : State} {mb i : Nat} {c : Cmd} (hdue : Due s mb 0x0A02 c) (hslot : byteAt c.payload 0 = i) (hi : i ≤ 1)
    (hzero : allZero (sub c.payload 1 3) = true) :
    ∃ t p, exec (.secImageVerify mb) s = .next t ∧ Answered t.dir mb c stOK p ∧ p.length = 16 ∧ byteAt p 1 = imageResult s.mem s.dir i % 256
      ∧ (imageResult s.mem s.dir i = 0 → (slotWrite t.dir i).verified = true) ∧ t.mem = s.mem := by
  subst hslot
  obtain ⟨t, hexec, hans, honly, -, hmem⟩ := answered_of_due (i := .secImageVerify mb) rfl hdue
    (guarded_pass (by simp [hi, hzero])) rfl (by decide)
  have hboot := honly.boot
  refine ⟨t, _, hexec, hans, by simp, ?_, fun hgood => ?_, hmem⟩
  · simp only [List.append_assoc]
    exact (byteAt_b1_next _ 0 _).trans (byteAt_b1 ..)
  · have hgood' : imageResult s.mem (dirStart s.dir) (byteAt c.payload 0) = 0 := hgood
    rw [slotWrite, hboot, ← slotWrite, slotWrite_setSlotWrite, hgood']
    rfl

/-! Keys of the trees -/

theorem treeKey_tset (d : Director) (n m : Nat) (k : TreeKey) (h : k.next.isSome = true) (h' : k.key = (treeKey d n).key) :
    ((treeKey d m).next.isSome = true ∨ m = n → (tget {} m (tset n k d.sec.trees)).next.isSome = true)
      ∧ (tget {} m (tset n k d.sec.trees)).key = (treeKey d m).key := by
  by_cases hm : m = n
  · subst hm
    rw [tget_tset_same]
    exact ⟨fun _ => h, h'⟩
  · rw [tget_tset_other _ hm]
    exact ⟨fun hor => hor.resolve_right hm, rfl⟩

/-- A rekey draws a tree's successor and leaves the keys in force (R597). -/
theorem startRekey_trees (d : Director) (fresh n m : Nat) :
    ((treeKey d m).next.isSome = true ∨ m = n → (treeKey (startRekey d fresh n) m).next.isSome = true)
      ∧ (treeKey (startRekey d fresh n) m).key = (treeKey d m).key := by
  cases hnext : (treeKey d n).next with
  | none =>
    have hdrawn : treeKey (startRekey d fresh n) m = treeKey (treeDrawn d fresh n) m := by rw [treeKey, startRekey_sec fresh hnext, treeKey]
    rw [hdrawn]
    exact treeKey_tset d n m _ rfl rfl
  | some x =>
    have hsame : startRekey d fresh n = d := by
      unfold startRekey
      exact if_pos (by rw [hnext]; rfl)
    rw [hsame]
    refine ⟨fun hor => hor.elim id fun hm => ?_, rfl⟩
    rw [hm, hnext]
    rfl

theorem mgmtTo_rekeyMb (d : Director) (id mtype : Nat) (body : List Byte) (r : MgmtRec → MgmtRec) (m : Nat) :
    (port (mgmtTo d id mtype body r) m).rekeyMb = (port d m).rekeyMb := by
  unfold mgmtTo
  split
  · rfl
  · next n _ =>
    by_cases hm : m = n
    · subst hm
      rw [pushMgmt, port_modPort]
    · rw [pushMgmt, port_modPort_other _ hm]

theorem startRekey_view {β : Type} {view : Director → β} (hsec : ∀ d k, view { d with sec := k } = view d)
    (hmgmt : ∀ d id t b r, view (mgmtTo d id t b r) = view d) (d : Director) (fresh n : Nat) : view (startRekey d fresh n) = view d := by
  unfold startRekey
  exact ite_keeps rfl ((foldl_keeps (fun d id => hmgmt d id ..) _ _).trans (hsec d _))

/-- The mailbox that a tree's rekey answers, and the tree's successor (R527, R597). -/
def Rekeying (d : Director) (mb n : Nat) : Prop := (port d n).rekeyMb = some mb ∧ (treeKey d n).next.isSome = true

theorem rekeyPort_rekeying (d : Director) (fresh mb n m : Nat) (h : m = n ∨ Rekeying d mb m) : Rekeying (rekeyPort fresh mb d n) mb m := by
  refine ⟨?_, (startRekey_trees d fresh n m).1 (h.symm.imp_left And.right)⟩
  by_cases hm : m = n
  · subst hm
    rw [rekeyPort, port_modPort]
  · rw [rekeyPort, port_modPort_other _ hm, startRekey_view (view := fun d => (port d m).rekeyMb) (fun _ _ => rfl) (fun d id t b r => mgmtTo_rekeyMb d id t b r m)]
    exact (h.resolve_left hm).1

theorem foldl_rekeyPort (l : List Nat) (d : Director) (fresh mb m : Nat) (h : m ∈ l ∨ Rekeying d mb m) :
    Rekeying (l.foldl (rekeyPort fresh mb) d) mb m := by
  induction l generalizing d with
  | nil => exact h.resolve_left List.not_mem_nil
  | cons n r ih =>
    refine ih _ ?_
    obtain hmem | hdone := h
    · obtain hm | hr := List.mem_cons.mp hmem
      · exact .inr (rekeyPort_rekeying d fresh mb n m (.inl hm))
      · exact .inl hr
    · exact .inr (rekeyPort_rekeying d fresh mb n m (.inr hdone))

theorem foldl_rekeyPort_mbs (l : List Nat) (d : Director) (fresh mb : Nat) : (l.foldl (rekeyPort fresh mb) d).mbs = d.mbs :=
  foldl_keeps (view := Director.mbs) (f := rekeyPort fresh mb)
    (fun d n => startRekey_view (view := Director.mbs) (fun _ _ => rfl) (fun d id t b r => mgmtTo_mbs d id t b r) d fresh n) l d

/-- The trees that a SEC_REKEY names (R527). -/
def rekeyed (d : Director) (p : List Byte) : List Nat := if byteAt p 0 = 0 then ports (part d) else if byteAt p 0 = 1 then [byteAt p 1] else []

theorem secRekey_trees {s : State} {mb : Nat} {c : Cmd} (hdue : Due s mb 0x0A05 c) (hscope : byteAt c.payload 0 ≤ 1) (hzero : leAt c.payload 2 2 = 0)
    (hrun : s.dir.time.running = true) (hhere : byteAt c.payload 0 = 1 → portHere (part s.dir) (byteAt c.payload 1) = true)
    (hfree : ∀ n ∈ rekeyed s.dir c.payload, (port s.dir n).rekeyMb = none) :
    ∃ t, exec (.secRekey mb) s = .next t ∧ (mbx t.dir mb).cmd = some { c with wait := .key }
      ∧ Reached s t ((rekeyed s.dir c.payload).foldl (rekeyPort s.fresh mb) (setWait (dirStart s.dir) mb .key)) := by
  have hbusy : ((rekeyed s.dir c.payload).any fun n => (port s.dir n).rekeyMb.isSome) = false := by
    rw [List.any_eq_false]
    intro n hn
    simp [hfree n hn]
  have hpass : ∀ x ∈ [(byteAt c.payload 0 ≤ 1 && !(dirStart s.dir).time.running, stState),
      (2 < byteAt c.payload 0 || leAt c.payload 2 2 ≠ 0 || (byteAt c.payload 0 = 1 && !portHere (part (dirStart s.dir)) (byteAt c.payload 1)), stRange),
      ((rekeyed s.dir c.payload).any fun n => (port s.dir n).rekeyMb.isSome, stBusy)], x.1 = false := by
    rw [hbusy]
    simpa [hrun, hzero, show byteAt c.payload 0 ≤ 2 by omega] using hhere
  obtain ⟨t, hnext, h⟩ := due_reaches (i := .secRekey mb) rfl hdue ((guarded_pass hpass).trans (if_neg (by omega)))
  obtain ⟨-, -, -, hcmd, -, -⟩ := hdue
  refine ⟨t, hnext, ?_, h⟩
  rw [h.mbx, mbx, foldl_rekeyPort_mbs]
  exact setWait_cmd (d := dirStart s.dir) hcmd .key

theorem Rekeying.of_reached {s t : State} {d : Director} {mb n : Nat} (h : Reached s t d) (hd : Rekeying d mb n) :
    (port t.dir n).rekeyMb = some mb ∧ (treeKey t.dir n).next.isSome = true := by
  rw [h.port, treeKey, h.sec]
  exact hd

/-! The key of the link -/

/-- A request for the link's key waits for the twin or for the key, and asks where none is asked yet (R527, R599). -/
theorem rekeyLink_view {β : Type} {view : Director → β} (hmbs : ∀ d m, view { d with mbs := m } = view d)
    (hsk : ∀ d k x, view { d with sk := k, tx := x } = view d) (hoffer : ∀ d f, view (sendOffer d f) = view d) (d : Director) (fresh mb : Nat) :
    view (rekeyLink d fresh mb) = view d := by
  unfold rekeyLink
  refine ite_keeps (hmbs ..) (ite_keeps (hmbs ..) (ite_keeps ((hoffer ..).trans (hmbs ..)) ?_))
  exact (drainControl_view hsk _).trans ((hsk _ _ _).trans (hmbs d _))

theorem sendOffer_view {β : Type} {view : Director → β} (hview : ∀ d e o r k x, view { d with
      sec := { d.sec with skOffer := o, skEph := e, skRetryAt := r }, sk := k, tx := x } = view d) (d : Director) (fresh : Nat) :
    view (sendOffer d fresh) = view d := by
  unfold sendOffer
  refine ite_keeps rfl ((drainControl_view (fun d k x => hview d d.sec.skEph d.sec.skOffer d.sec.skRetryAt k x) _).trans ?_)
  exact hview d _ _ _ _ d.tx

theorem rekeyLink_kept (d : Director) (fresh mb : Nat) : (rekeyLink d fresh mb).sec.skKey = d.sec.skKey ∧ (rekeyLink d fresh mb).ports = d.ports :=
  ⟨rekeyLink_view (view := (·.sec.skKey)) (fun _ _ => rfl) (fun _ _ _ => rfl) (fun d f => sendOffer_view (view := (·.sec.skKey)) (fun _ _ _ _ _ _ => rfl) d f) ..,
    rekeyLink_view (view := Director.ports) (fun _ _ => rfl) (fun _ _ _ => rfl) (fun d f => sendOffer_view (view := Director.ports) (fun _ _ _ _ _ _ => rfl) d f) ..⟩

theorem rekeyLink_key {d : Director} (h : d.sec.skNext.isSome = true) (fresh mb : Nat) : rekeyLink d fresh mb = setWait d mb .key := if_pos h

theorem rekeyLink_mbs {d : Director} (h : d.sec.skNext = none) (fresh mb : Nat) : (rekeyLink d fresh mb).mbs = (setWait d mb .twin).mbs := by
  unfold rekeyLink
  rw [h, if_neg (by decide)]
  refine ite_keeps (view := Director.mbs) rfl (ite_keeps (view := Director.mbs) ?_ ?_)
  · exact sendOffer_view (view := Director.mbs) (fun _ _ _ _ _ _ => rfl) ..
  · exact drainControl_view (view := Director.mbs) (fun _ _ _ => rfl) _

theorem rekeyLink_offers {d : Director} (hnext : d.sec.skNext = none) (hactive : d.sk.active = true) (hside : sideNum d = 0) (fresh mb : Nat) :
    (rekeyLink d fresh mb).sec.skOffer.isSome = true := by
  unfold rekeyLink
  rw [hnext, if_neg (by decide)]
  dsimp only
  split
  · assumption
  · have hside' : sideNum (setWait d mb .twin) = 0 := hside
    rw [if_pos hside']
    obtain ⟨o, e, hsec⟩ := sendOffer_sec (d := setWait d mb .twin) fresh hside' hactive
    rw [hsec]
    rfl

theorem secRekey_link {s : State} {mb : Nat} {c : Cmd} (hdue : Due s mb 0x0A05 c) (hscope : byteAt c.payload 0 = 2) (hzero : leAt c.payload 2 2 = 0) :
    ∃ t, exec (.secRekey mb) s = .next t
      ∧ (s.dir.sec.skNext.isSome → (mbx t.dir mb).cmd = some { c with wait := .key })
      ∧ (s.dir.sec.skNext = none → (mbx t.dir mb).cmd = some { c with wait := .twin }
          ∧ (s.dir.sk.active = true → sideNum s.dir = 0 → t.dir.sec.skOffer.isSome))
      ∧ t.dir.sec.skKey = s.dir.sec.skKey ∧ t.dir.ports = s.dir.ports := by
  obtain ⟨t, hnext, h⟩ := due_reaches (i := .secRekey mb) rfl hdue ((guarded_pass (by simp [hscope, hzero])).trans (if_pos hscope))
  obtain ⟨-, -, -, hcmd, -, -⟩ := hdue
  obtain ⟨hkey, hports⟩ := rekeyLink_kept (dirStart s.dir) s.fresh mb
  refine ⟨t, hnext, fun hsome => ?_, fun hnone => ⟨?_, fun hactive hside => ?_⟩, by rw [h.sec, hkey]; rfl, by rw [h.ports, hports]; rfl⟩
  · rw [h.mbx, rekeyLink_key (d := dirStart s.dir) hsome]
    exact setWait_cmd (d := dirStart s.dir) hcmd .key
  · rw [h.mbx, mbx, rekeyLink_mbs (d := dirStart s.dir) hnone]
    exact setWait_cmd (d := dirStart s.dir) hcmd .twin
  · rw [h.sec]
    exact rekeyLink_offers (d := dirStart s.dir) hnone hactive hside s.fresh mb

/-! Patches and the log -/

theorem secCellPatch_waits {s : State} {mb id n : Nat} {c : Cmd} (hdue : Due s mb 0x0A06 c) (hid : leAt c.payload 0 2 = id)
    (hzero : leAt c.payload 2 2 = 0) (hvalid : cellValid s.dir id = true) (hproven : (cellRec s.dir id).link = .proven)
    (hrole : 3072 ≤ id ∨ (arm s.dir (id / 512)).role = .authority) (hport : cellPort (part s.dir) id = some n) :
    ∃ t r, exec (.secCellPatch mb) s = .next t ∧ (mbx t.dir mb).cmd = some { c with wait := .cell id 0 }
      ∧ (port t.dir n).mgmt = (port s.dir n).mgmt ++ [r] ∧ r.why = .cmd mb ∧ r.mtype = 0x0E ∧ r.secure = some id
      ∧ r.body = toBE 4 (leAt c.payload 4 4) ++ zeros 4 ++ (c.payload.drop 8).take 44 := by
  subst hid
  obtain ⟨t, hnext, hcmd, -, hmgmt⟩ := cellRecord_waits (i := .secCellPatch mb) (d := dirStart s.dir) rfl hdue
    (guarded_pass (List.forall_mem_append.mpr ⟨cellChecks_pass (d := dirStart s.dir) hvalid hproven fun _ => hrole, by simp [hzero]⟩)) rfl rfl hport
  exact ⟨t, _, hnext, hcmd, hmgmt, rfl, rfl, rfl, rfl⟩

theorem secLogRead_answers {s : State} {mb n : Nat} {c : Cmd} (hdue : Due s mb 0x0A07 c) (hn : leAt c.payload 4 2 = n) (hlo : 1 ≤ n)
    (hhi : n ≤ 4072) (hzero : leAt c.payload 6 2 = 0) (hwithin : leAt c.payload 0 4 + n ≤ 1048576) :
    ∃ t p, exec (.secLogRead mb) s = .next t ∧ Answered t.dir mb c stOK p ∧ p.length = 8 + n
      ∧ p.drop 8 = rdBytes s.mem .flash (logBase s.dir + leAt c.payload 0 4) n ∧ t.mem = s.mem := by
  subst hn
  have hlo' : leAt c.payload 4 2 ≠ 0 := by omega
  obtain ⟨t, hnext, hans, -, -, hmem⟩ := answered_of_due (i := .secLogRead mb) rfl hdue
    (guarded_pass (by simp [hlo', hhi, hzero, hwithin])) rfl (by decide)
  refine ⟨t, _, hnext, hans, ?_, List.drop_left' (by simp), hmem⟩
  simp only [List.length_append, b4_length, b2_length, zeros_length, rdBytes_length]

/-- Settles O30: images reach their flash, keys are drawn, patches and the log are sent. -/
theorem imagesKeysAndLog : Obligations.ImagesKeysAndLog := by
  unfold Obligations.ImagesKeysAndLog
  refine ⟨?_, ?_, ?_, ?_, ?_, ?_, ?_, ?_⟩
  · exact fun s mb c i o hdue hslot hi hfree hzero ho hnext _ _ hwithin hmem => secImageWrite_answers hdue hslot hi hfree hzero ho hnext hwithin hmem
  · exact fun s mb c => secImageWrite_refused
  · exact fun s mb c i => secImageVerify_answers
  · intro s mb c n hdue hscope hn hzero hrun hhere hfree
    have hnamed : rekeyed s.dir c.payload = [n] := by rw [rekeyed, if_neg (by omega), if_pos hscope, hn]
    obtain ⟨t, hnext, hcmd, h⟩ := secRekey_trees hdue hscope.le hzero hrun (fun _ => hn ▸ hhere) (by rw [hnamed]; simpa using hfree)
    rw [hnamed] at h
    obtain ⟨hmb, hsome⟩ := Rekeying.of_reached h (foldl_rekeyPort [n] (setWait (dirStart s.dir) mb .key) s.fresh mb n (.inl (List.mem_singleton.mpr rfl)))
    refine ⟨t, hnext, hmb, hsome, ?_, hcmd⟩
    rw [treeKey, h.sec]
    exact (startRekey_trees (setWait (dirStart s.dir) mb .key) s.fresh n n).2
  · intro s mb c hdue hscope hzero hrun hfree
    have hnamed : rekeyed s.dir c.payload = ports (part s.dir) := by rw [rekeyed, if_pos hscope]
    obtain ⟨t, hnext, hcmd, h⟩ := secRekey_trees hdue (by omega) hzero hrun (by omega) (by rw [hnamed]; exact hfree)
    rw [hnamed] at h
    exact ⟨t, hnext, fun n hn => Rekeying.of_reached h (foldl_rekeyPort _ (setWait (dirStart s.dir) mb .key) s.fresh mb n (.inl hn)), hcmd⟩
  · exact fun s mb c => secRekey_link
  · exact fun s mb c id n => secCellPatch_waits
  · exact fun s mb c n => secLogRead_answers

end Sys2Proof.Machine
end

section
/-! PROOF. Scrubbing and the DDR4 patrol settled (R563 to R567, R583, R585). -/

namespace Sys2Proof.Machine

theorem raiseLim_bg (d : Director) (key source detail : Nat) (data : List Byte) : (raiseLim d key source detail data).bg = d.bg :=
  raiseLim_view (view := Director.bg) (fun _ _ => rfl) ..

/-! Glaze passes -/

theorem glazeWordVisit_reaches {s : State} (h : scrubs s.dir = true) (addr : Nat) (k : MemKind) (ecc : EccStatus) (x : Bool) :
    ∃ t, exec (.glazeWordVisit addr k ecc x) s = .next t ∧ Reached s t (match ecc with
      | .clean => dirStart s.dir
      | .uncorrectable => sramUe (dirStart s.dir) addr (memDetail k)
      | .correctable => if x then dirStart s.dir else
        raiseLim (modBg (dirStart s.dir) fun b => { b with sramCe := satInc b.sramCe, corrected := b.corrected + 1 }) (limKey 82 1 0) 82 0x01 []) := by
  have hs : (!scrubs (dirStart s.dir)) = false := by rw [show scrubs (dirStart s.dir) = true from h]; rfl
  exact onDir_reaches (o := execGlazeWordVisit addr k ecc x s) rfl (by rw [hs]; rfl)

theorem glazeWordVisit_counts {s : State} (h : scrubs s.dir = true) (addr : Nat) (k : MemKind) :
    ∃ t, exec (.glazeWordVisit addr k .correctable false) s = .next t ∧ t.dir.bg.sramCe = satInc s.dir.bg.sramCe
      ∧ t.dir.bg.corrected = s.dir.bg.corrected + 1 ∧ t.dir.bg.sramUe = s.dir.bg.sramUe := by
  obtain ⟨t, hnext, ht⟩ := glazeWordVisit_reaches h addr k .correctable false
  have hbg := ht.bg.trans (raiseLim_bg ..)
  exact ⟨t, hnext, by rw [hbg]; rfl, by rw [hbg]; rfl, by rw [hbg]; rfl⟩

theorem glazeWordVisit_reports {s : State} (h : scrubs s.dir = true) (addr : Nat) (k : MemKind) (x : Bool) :
    ∃ t, exec (.glazeWordVisit addr k .uncorrectable x) s = .next t ∧ t.dir.bg.sramUe = satInc s.dir.bg.sramUe
      ∧ t.dir.bg.sramCe = s.dir.bg.sramCe ∧ (Enabled s.dir 102 → Decided t.dir 102 (memDetail k) (toLE 4 addr ++ toLE 1 (memDetail k))) := by
  obtain ⟨t, hnext, ht⟩ := glazeWordVisit_reaches h addr k .uncorrectable x
  have hbg := ht.bg.trans (raise_bg ..)
  exact ⟨t, hnext, by rw [hbg]; rfl, by rw [hbg]; rfl, fun he => reached_decides ht he rfl rfl⟩

theorem glazePassEnd_reaches {s : State} (h : scrubs s.dir = true) :
    ∃ t, exec .glazePassEnd s = .next t ∧ Reached s t (modBg (dirStart s.dir) fun b => { b with
      glazePasses := satInc b.glazePasses, corrected := 0, passAt := s.dir.time.raw, passLate := false
      fastOwed := if 0 < b.corrected then parm (powS (cfg s.dir)) 5 0 1 else b.fastOwed - 1 }) := by
  have hs : (!scrubs (dirStart s.dir)) = false := by rw [show scrubs (dirStart s.dir) = true from h]; rfl
  exact onDir_reaches (o := execGlazePassEnd s) rfl (by rw [hs]; rfl)

theorem glazeLate_reaches {s : State} (h : scrubs s.dir = true) (hlate : s.dir.bg.passLate = false)
    (hraw : s.dir.bg.passAt + 12500000000 < s.dir.time.raw) :
    ∃ t, exec .glazeLate s = .next t
      ∧ Reached s t (raise (modBg (dirStart s.dir) fun b => { b with passLate := true, glazeLate := satInc b.glazeLate }) 82 0x02 []) := by
  have hbar : (!scrubs (dirStart s.dir) || (dirStart s.dir).bg.passLate
      || decide ((dirStart s.dir).time.raw ≤ (dirStart s.dir).bg.passAt + tenSeconds)) = false := by
    rw [show scrubs (dirStart s.dir) = true from h, show (dirStart s.dir).bg.passLate = false from hlate, decide_eq_false]
    · rfl
    · exact not_le.mpr hraw
  exact onDir_reaches (o := execGlazeLate s) rfl (by rw [hbar]; rfl)

/-! The patrol -/

/-- What the word found makes of the director before the patrol moves on. -/
def patrolled (d : Director) : EccStatus → Bool → Director
  | .clean, _ => d
  | .correctable, c => if c then d else ddrCorrected d
  | .uncorrectable, _ => ddrUncorrected d

/-- The patrol's next burst of the installed memory. -/
def patrolMoved (d : Director) (at_ : Nat) : Director :=
  if at_ + 1 < d.boot.ddrMiB * 16384 then modBg d fun b => { b with patrolAt := at_ + 1 }
  else modBg d fun b => { b with patrolAt := 0, patrolPasses := satInc b.patrolPasses }

theorem patrolBurst_reaches {s : State} (h : scrubs s.dir = true) (hlock : s.dir.time.pllLock = true) (hddr : s.dir.boot.ddrMiB ≠ 0)
    (e : EccStatus) (c : Bool) :
    ∃ t, exec (.patrolBurst e c) s = .next t ∧ Reached s t (patrolMoved (patrolled (dirStart s.dir) e c) s.dir.bg.patrolAt) := by
  have hbar : (!scrubs (dirStart s.dir) || !(dirStart s.dir).time.pllLock || decide ((dirStart s.dir).boot.ddrMiB = 0)) = false := by
    rw [show scrubs (dirStart s.dir) = true from h, show (dirStart s.dir).time.pllLock = true from hlock, decide_eq_false]
    · rfl
    · exact hddr
  exact onDir_reaches (o := execPatrolBurst e c s) rfl (by rw [hbar]; cases e <;> rfl)

/-- The patrol's finds leave what does not hold the events and the counts of memory errors. -/
theorem patrolled_view {β : Type} {view : Director → β} (hview : ∀ d r n x u, view { d with
      ring := r, bg := { d.bg with ddrCe := n, ddrCeAt := x }, rcd := { d.rcd with ddrUe := u } } = view d)
    (d : Director) (e : EccStatus) (c : Bool) : view (patrolled d e c) = view d := by
  have hring : ∀ d r, view { d with ring := r } = view d := fun d r => hview d r d.bg.ddrCe d.bg.ddrCeAt d.rcd.ddrUe
  cases e with
  | clean => rfl
  | correctable =>
    refine ite_keeps rfl (ite_keeps ?_ ((raise_view hring ..).trans ?_))
    · exact hview d d.ring _ d.bg.ddrCeAt d.rcd.ddrUe
    · exact hview d d.ring _ _ d.rcd.ddrUe
  | uncorrectable => exact (raise_view hring ..).trans (hview d d.ring d.bg.ddrCe d.bg.ddrCeAt _)

theorem patrolMoved_view {β : Type} {view : Director → β} (hview : ∀ d a p, view { d with bg := { d.bg with patrolAt := a, patrolPasses := p } } = view d)
    (d : Director) (a : Nat) : view (patrolMoved d a) = view d :=
  ite_keeps (hview d _ _) (hview d _ _)

theorem ddrCorrected_ddrCe (d : Director) : (ddrCorrected d).bg.ddrCe = satInc d.bg.ddrCe := by
  unfold ddrCorrected
  extract_lets e quiet
  split
  · rfl
  · rw [raise_bg]; rfl

theorem ddrCorrected_rcd (d : Director) : (ddrCorrected d).rcd = d.rcd :=
  ite_keeps (view := Director.rcd) rfl (raise_rcd ..)

/-- Settles O55, command by command: a scrubbed word, the end of a pass, a late pass, and the patrol's burst. -/
theorem scrubbing : Obligations.Scrubbing := by
  unfold Obligations.Scrubbing
  refine ⟨fun s addr k h => ⟨glazeWordVisit_counts h addr k, ?_, fun x => ?_, fun x => glazeWordVisit_reports h addr k x⟩,
    fun s h => ?_, fun s h hlate hraw => ?_, fun s e c h hlock hddr => ?_⟩
  · obtain ⟨t, hnext, ht⟩ := glazeWordVisit_reaches h addr k .correctable true
    exact ⟨t, hnext, ht.bg, ht.ring⟩
  · obtain ⟨t, hnext, ht⟩ := glazeWordVisit_reaches h addr k .clean x
    exact ⟨t, hnext, ht.bg, ht.ring⟩
  · obtain ⟨t, hnext, ht⟩ := glazePassEnd_reaches h
    exact ⟨t, hnext, by rw [ht.bg]; rfl, by rw [ht.bg]; rfl, by rw [ht.bg]; rfl, by rw [ht.bg]; rfl, by rw [ht.bg]; rfl⟩
  · obtain ⟨t, hnext, ht⟩ := glazeLate_reaches h hlate hraw
    have hbg := ht.bg.trans (raise_bg ..)
    exact ⟨t, hnext, by rw [hbg]; rfl, by rw [hbg]; rfl, by rw [hbg]; rfl, fun he => reached_decides ht he rfl rfl⟩
  · obtain ⟨t, hnext, ht⟩ := patrolBurst_reaches h hlock hddr e c
    have hboot := patrolled_view (view := Director.boot) (fun _ _ _ _ _ => rfl) (dirStart s.dir) e c
    have hpasses := patrolled_view (view := (·.bg.patrolPasses)) (fun _ _ _ _ _ => rfl) (dirStart s.dir) e c
    have hwrites : (patrolMoved (patrolled (dirStart s.dir) e c) s.dir.bg.patrolAt).writes = [] :=
      (patrolMoved_view (view := Director.writes) (fun _ _ _ => rfl) ..).trans (patrolled_view (view := Director.writes) (fun _ _ _ _ _ => rfl) ..)
    have hrcd := ht.rcd.trans (patrolMoved_view (view := Director.rcd) (fun _ _ _ => rfl) ..)
    have hce : t.dir.bg.ddrCe = (patrolled (dirStart s.dir) e c).bg.ddrCe :=
      (congrArg Background.ddrCe ht.bg).trans (patrolMoved_view (view := (·.bg.ddrCe)) (fun _ _ _ => rfl) ..)
    refine ⟨t, hnext, ht.mem_of_quiet hwrites, fun hin => ?_, fun hend => ?_, fun he => ?_, fun he hc => ?_⟩
    · have hmoved := ht.bg
      rw [patrolMoved, if_pos (by rw [hboot]; exact hin)] at hmoved
      exact ⟨by rw [hmoved]; rfl, by rw [hmoved]; exact hpasses⟩
    · have hmoved := ht.bg
      rw [patrolMoved, if_neg (by rw [hboot]; exact not_lt.mpr hend)] at hmoved
      exact ⟨by rw [hmoved]; rfl, by rw [hmoved]; exact congrArg satInc hpasses⟩
    · subst he
      refine ⟨by rw [hrcd]; exact congrArg Recorder.ddrUe (raise_rcd ..), fun hen => ht.decided ?_⟩
      have hraised : Decided (ddrUncorrected (dirStart s.dir)) 77 1 [] := raise_decides (Enabled.of_eq (e := modRcd (dirStart s.dir) _) hen rfl rfl) 1 []
      rw [Decided, patrolMoved_view (view := Director.ring) (fun _ _ _ => rfl)]
      exact hraised
    · subst he hc
      exact ⟨hce.trans (ddrCorrected_ddrCe _), by rw [hrcd]; exact congrArg Recorder.ddrUe (ddrCorrected_rcd _)⟩

end Sys2Proof.Machine
end

section
/-! PROOF. The twin's liveness, the watchdog, and a yield that ends settled (R317 to R319, R326, R501, R587). -/

namespace Sys2Proof.Machine

/-- What an update of one arm keeps of every arm, the director keeps of it. -/
theorem arm_modArm_view {β : Type} {view : Arm → β} {f : Arm → Arm} (h : ∀ x, view (f x) = view x) (d : Director) (b a : Nat) :
    view (arm (modArm d b f) a) = view (arm d a) := by
  by_cases hab : a = b
  · rw [hab, arm_modArm, h]
  · rw [arm_modArm_other d hab]

/-! The twin's liveness -/

/-- The arms' counts since the loss of the twin begin anew (R319). -/
def lossCounted (d : Director) : Director := (List.range 6).foldl (fun d a => modArm d a fun x => { x with missRun := 0, sinceLost := 0 }) d

theorem lossCounted_arm {β : Type} {view : Arm → β} (hview : ∀ x m n, view { x with missRun := m, sinceLost := n } = view x) (d : Director) (a : Nat) :
    view (arm (lossCounted d) a) = view (arm d a) :=
  foldl_keeps (view := fun d => view (arm d a)) (fun d b => arm_modArm_view (fun x => hview x 0 0) d b a) _ d

theorem lossCounted_view {β : Type} {view : Director → β} (hview : ∀ d x, view { d with arms := x } = view d) (d : Director) :
    view (lossCounted d) = view d :=
  foldl_keeps (view := view) (fun d _ => hview d _) _ d

theorem twinAliveLost_reaches {s : State} (hreset : s.dir.pins.resetN = true) (hfrozen : s.dir.frz.frozen = false) (halive : s.dir.sk.twinAlive = true) :
    ∃ t, exec .twinAliveLost s = .next t ∧ Reached s t (raise (lossCounted (modSk (dirStart s.dir) fun k => { k with
      twinAlive := false, twinAliveLoss := satInc k.twinAliveLoss })) 196 0x00 []) := by
  have hbar : (!(dirStart s.dir).pins.resetN || (dirStart s.dir).frz.frozen || !(dirStart s.dir).sk.twinAlive) = false := by
    simp [hreset, hfrozen, halive]
  exact onDir_reaches (o := execTwinAliveLost s) rfl (by rw [hbar]; rfl)

theorem resetOrFrozen_no {d : Director} (hreset : d.pins.resetN = true) (hfrozen : d.frz.frozen = false) :
    (!d.pins.resetN || d.frz.frozen) = false := by simp [hreset, hfrozen]

theorem twinAliveHealthy_reaches {s : State} (hreset : s.dir.pins.resetN = true) (hfrozen : s.dir.frz.frozen = false) :
    ∃ t, exec .twinAliveHealthy s = .next t ∧ Reached s t (modSk (dirStart s.dir) fun k => { k with twinAlive := true }) :=
  onDir_reaches (o := execTwinAliveHealthy s) rfl (by rw [resetOrFrozen_no (d := dirStart s.dir) hreset hfrozen]; rfl)

theorem watchdogLapse_reaches {s : State} (hreset : s.dir.pins.resetN = true) (hfrozen : s.dir.frz.frozen = false) :
    ∃ t, exec .watchdogLapse s = .next t
      ∧ Reached s t { dirStart s.dir with pins := { s.dir.pins with served := false, alive := false } } :=
  onDir_reaches (o := execWatchdogLapse s) rfl (by rw [resetOrFrozen_no (d := dirStart s.dir) hreset hfrozen]; rfl)

/-- The reset of an unserved watchdog keeps its cause (R587). -/
theorem watchdogReset_reaches {s : State} (hreset : s.dir.pins.resetN = true) (hfrozen : s.dir.frz.frozen = false)
    (hserved : s.dir.pins.served = false) :
    ∃ t, exec .watchdogReset s = .next t ∧ t.cell = s.cell
      ∧ Reached s t { directorReset (dirStart s.dir) with boot := { (directorReset (dirStart s.dir)).boot with wdCause := true, wdOwed := true } } := by
  have hbar : (!(dirStart s.dir).pins.resetN || (dirStart s.dir).frz.frozen || (dirStart s.dir).pins.served) = false := by
    simp [hreset, hfrozen, hserved]
  obtain ⟨t, hnext, h⟩ := onDir_reaches (o := execWatchdogReset s) rfl (if_neg (Bool.eq_false_iff.mp hbar))
  exact ⟨t, hnext, (onDir_frame hnext).1, h⟩

/-! A yield that has not passed its arm on -/

/-- The yield of an arm that ends without the twin's taking it (R326, R501). -/
def yieldFailed (d : Director) (a : Nat) : Director :=
  modCntA (modArm d a fun x => { x with yielding := none, pHandover := none }) a fun c => { c with handoverFail := satInc c.handoverFail }

theorem handoverYieldTimeout_reaches {s : State} {a : Nat} {h : Cycle} (ha : a < 6) (hworks : works s.dir = true)
    (hrole : (arm s.dir a).role = .authority) (hyield : (arm s.dir a).yielding = some h)
    (hlate : 0 ≤ cycleDiff (stepOrder s.dir) (h + BitVec.ofNat 32 (leaseCycles (cfg s.dir) a + 8))) :
    ∃ t, exec (.handoverYieldTimeout a) s = .next t ∧ Reached s t (decide_ (raise (yieldFailed (dirStart s.dir) a) (56 + a) 0x1D [])
      (match (arm s.dir a).pHandover with | some (_, m) => m | none => none) stTimeout
      (b1 a ++ b1 (roleCode (arm s.dir a).role) ++ zeros 2 ++ b4 h.toNat)) := by
  have hbar : (!works s.dir || decide ((arm s.dir a).role ≠ .authority)
      || decide (cycleDiff (stepOrder s.dir) (h + BitVec.ofNat 32 (leaseCycles (cfg s.dir) a + 8)) < 0)) = false := by
    rw [hworks, hrole, decide_eq_false (not_lt.mpr hlate)]; rfl
  refine unit_reaches (o := execHandoverYieldTimeout a s) rfl (decide_eq_true ha) ?_
  have hyield' : (arm (dirStart s.dir) a).yielding = some h := hyield
  dsimp only
  rw [hyield']
  exact if_neg (by exact Bool.eq_false_iff.mp hbar)

theorem decide_arm (d : Director) (mb : Option Nat) (st : Nat) (p : List Byte) (a : Nat) : arm (decide_ d mb st p) a = arm d a := by
  rw [decide_eq_mbs]; rfl

theorem raise_arm (d : Director) (source detail : Nat) (data : List Byte) (a : Nat) : arm (raise d source detail data) a = arm d a := by
  rw [raise_eq]; rfl

theorem yieldFailed_arm (d : Director) (a : Nat) : arm (yieldFailed d a) a =
    { arm d a with yielding := none, pHandover := none, cnt := { (arm d a).cnt with handoverFail := satInc (arm d a).cnt.handoverFail } } := by
  rw [yieldFailed, modCntA, arm_modArm, arm_modArm]

/-- A waiting command learns the outcome decided for it (R482). -/
theorem decide_cmd {d : Director} {n : Nat} {c : Cmd} (hc : (mbx d n).cmd = some c) (st : Nat) (p : List Byte) :
    (mbx (decide_ d (some n) st p) n).cmd = some { c with outcome := some (BitVec.ofNat 8 st, p) } := by
  rw [decide_, modCmd, mbx_modMbx, hc]; rfl

theorem handoverYieldTimeout_ends {s : State} {a : Nat} {h : Cycle} (ha : a < 6) (hworks : works s.dir = true)
    (hrole : (arm s.dir a).role = .authority) (hyield : (arm s.dir a).yielding = some h)
    (hlate : 0 ≤ cycleDiff (stepOrder s.dir) (h + BitVec.ofNat 32 (leaseCycles (cfg s.dir) a + 8))) :
    ∃ t, exec (.handoverYieldTimeout a) s = .next t ∧ (arm t.dir a).yielding = none ∧ (arm t.dir a).role = .authority
      ∧ (arm t.dir a).cnt.handoverFail = satInc (arm s.dir a).cnt.handoverFail
      ∧ (Enabled s.dir (56 + a) → Decided t.dir (56 + a) 0x1D [])
      ∧ ∀ n c g, (arm s.dir a).pHandover = some (g, some n) → (mbx s.dir n).cmd = some c →
          (mbx t.dir n).cmd = some { c with outcome := some (11, toLE 1 a ++ [3, 0, 0] ++ toLE 4 h.toNat) } := by
  obtain ⟨t, hnext, ht⟩ := handoverYieldTimeout_reaches ha hworks hrole hyield hlate
  have harm : arm t.dir a = _ := (ht.arm a).trans ((decide_arm ..).trans ((raise_arm ..).trans (yieldFailed_arm _ a)))
  refine ⟨t, hnext, by rw [harm], by rw [harm]; exact hrole, by rw [harm]; rfl, fun he => ?_, fun n c g hp hc => ?_⟩
  · rw [Decided, ht.ring, decide_ring]
    exact raise_decides (Enabled.of_eq (e := yieldFailed (dirStart s.dir) a) he rfl rfl) _ _
  · have hc' : (mbx (raise (yieldFailed (dirStart s.dir) a) (56 + a) 0x1D []) n).cmd = some c := by
      rw [mbx, raise_mbs]; exact hc
    rw [ht.mbx, hp, hrole, decide_cmd hc']
    rfl

/-- Settles O41, command by command. -/
theorem twinAliveAndYields : Obligations.TwinAliveAndYields := by
  unfold Obligations.TwinAliveAndYields
  refine ⟨⟨fun s hreset hfrozen halive => ?_, fun s hreset hfrozen => ?_, fun s hreset hfrozen => ?_, fun s hreset hfrozen hserved => ?_⟩,
    fun s a h ha hworks hrole hyield hlate => handoverYieldTimeout_ends ha hworks hrole hyield hlate⟩
  · obtain ⟨t, hnext, h⟩ := twinAliveLost_reaches hreset hfrozen halive
    have hsk := h.sk.trans ((raise_sk ..).trans (lossCounted_view (view := Director.sk) (fun _ _ => rfl) _))
    have hmode := fun a => lossCounted_arm (view := fun x => (x.mode, x.role)) (fun _ _ _ => rfl)
      (modSk (dirStart s.dir) fun k => { k with twinAlive := false, twinAliveLoss := satInc k.twinAliveLoss }) a
    refine ⟨t, hnext, by rw [hsk]; rfl, by rw [hsk]; rfl, fun he => ?_, fun a => ?_⟩
    · exact reached_decides h he (lossCounted_view (view := Director.boot) (fun _ _ => rfl) _) (lossCounted_view (view := (·.ring.enable)) (fun _ _ => rfl) _)
    · rw [h.arm, raise_arm]
      exact Prod.mk.inj (hmode a)
  · obtain ⟨t, hnext, h⟩ := twinAliveHealthy_reaches hreset hfrozen
    exact ⟨t, hnext, by rw [h.sk]; rfl, h.arms, h.ring⟩
  · obtain ⟨t, hnext, h⟩ := watchdogLapse_reaches hreset hfrozen
    exact ⟨t, hnext, by rw [h.pins], by rw [h.pins], h.arms⟩
  · obtain ⟨t, hnext, hcell, h⟩ := watchdogReset_reaches hreset hfrozen hserved
    exact ⟨t, hnext, by rw [h.boot]; rfl, by rw [h.boot], by rw [h.arms]; rfl, hcell⟩

end Sys2Proof.Machine
end

section
/-! PROOF. What darkness and the log leave, and the reset, the fuse load and the image load settled (R532 to R537, R545, R546). -/

namespace Sys2Proof.Machine

/-! Silence -/

section
variable {β : Type} {view : Director → β} (hview : ∀ d p k x, view { d with ports := p, sk := k, tx := x } = view d)
include hview

theorem darkLanes_view (d : Director) : view (darkLanes d) = view d := ite_keeps (hview d d.ports _ _) rfl
theorem darkTrees_view (d : Director) : view (darkTrees d) = view d :=
  foldl_keeps (fun d _ => ite_keeps rfl (hview d _ d.sk _)) _ d
theorem darkened_view (d : Director) : view (darkLanes (darkTrees d)) = view d := (darkLanes_view hview _).trans (darkTrees_view hview d)

end

/-! Reset -/

/-- The vector table at its reset value (R428). -/
def resetVectors : MemWrite := { dest := .msix, addr := 0, data := ((List.range 32).map fun _ => zeros 12 ++ b4 1).flatten }

theorem resetVectors_length : resetVectors.data.length = 512 := by decide +kernel

/-- Every entry of the reset table ends with a control word that masks its vector. -/
theorem resetVectors_control : ∀ v, v < 32 → bit (leNat ((List.range 4).map fun j => resetVectors.data.getD (16 * v + 12 + j) 0)) 0 = true := by
  decide +kernel

theorem vectorMasked_reset {m : Stores} (hm : m.wf) {v : Nat} (hv : v < 32) : vectorMasked (applyWrite m resetVectors) v = true := by
  have hread : ∀ j ∈ List.range 4, rdByte (applyWrite m resetVectors) .msix (16 * v + 12 + j) = resetVectors.data.getD (16 * v + 12 + j) 0 := by
    intro j hj
    have hlt : 16 * v + 12 + j < resetVectors.data.length := by
      rw [resetVectors_length]; have := List.mem_range.mp hj; omega
    have h := rdByte_applyWrite_inside resetVectors hm hlt
    rw [show resetVectors.addr + (16 * v + 12 + j) = 16 * v + 12 + j from Nat.zero_add _] at h
    rw [List.getD_eq_getElem _ _ hlt]
    exact h
  rw [vectorMasked, rdBytes_eq_map, List.map_congr_left hread]
  exact resetVectors_control v hv

/-- A director held in reset (R533). -/
def held (d : Director) : Director :=
  { directorReset d with
    boot := { (directorReset d).boot with state := .held, wdCause := false, wdOwed := false, ueOwed := none }
    pins := { (directorReset d).pins with resetN := false } }

theorem resetAssert_reaches (s : State) : ∃ t, exec .resetAssert s = .next t ∧ t.cell = s.cell ∧ Reached s t (held (dirStart s.dir)) := by
  obtain ⟨t, hnext, h⟩ := onDir_reaches (o := execResetAssert s) rfl rfl
  exact ⟨t, hnext, (onDir_frame hnext).1, h⟩

theorem resetNRise_reaches {s : State} (hheld : s.dir.boot.state = .held) (side : Side) :
    ∃ t, exec (.resetNRise side) s = .next t ∧ Reached s t { dirStart s.dir with
      boot := { s.dir.boot with state := .fuseLoad, side := side }, pins := { s.dir.pins with resetN := true } } :=
  onDir_reaches (o := execResetNRise side s) rfl (if_neg (not_not.mpr hheld))

theorem bootWord_of_reset {d : Director} (h : d.boot.state = .held ∨ d.boot.state = .fuseLoad) : bootWord d = 1 := by
  obtain h | h := h <;> simp [bootWord, kudenWord, bootCode, h]

theorem evtHeadWord_of_reset {d : Director} (h : d.ring = {}) : evtHeadWord d = 0 := by
  rw [evtHeadWord, h]; rfl

theorem mbxStatusWord_of_reset {d : Director} (h : d.mbs = []) : mbxStatusWord d = 0 := by
  have hmbx : ∀ n, mbx d n = {} := fun n => by rw [mbx, h]; rfl
  simp only [mbxStatusWord, hmbx]; rfl

theorem freezeStatWord_of_reset {d : Director} (h : d.frz = {}) : freezeStatWord d = 0 := by
  rw [freezeStatWord, h]; rfl

theorem arbStatWord_of_reset {d : Director} (h : d.bg = {}) : arbStatWord d = 160 * 2 ^ 24 := by
  rw [arbStatWord, grantedSum, h]; rfl

/-! Fuses -/

theorem fuseLoadDone_loads {s : State} (hstate : s.dir.boot.state = .fuseLoad) (hcrc : factCrcOk s.dir = true) :
    ∃ t, exec .fuseLoadDone s = .next t ∧ t.dir.boot.state = .imageLoad ∧ t.dir.sec.ownerHash = fusedOwnerHash s.dir := by
  have hbar : (decide ((dirStart s.dir).boot.state ≠ .fuseLoad) || !factCrcOk (dirStart s.dir)) = false := by
    rw [show (dirStart s.dir).boot.state = .fuseLoad from hstate, show factCrcOk (dirStart s.dir) = true from hcrc]; rfl
  obtain ⟨t, hnext, h⟩ := onDir_reaches (o := execFuseLoadDone s) rfl (if_neg (Bool.eq_false_iff.mp hbar))
  exact ⟨t, hnext, by rw [h.boot]; rfl, by rw [h.sec]; rfl⟩

theorem fuseLoadDone_stays {s : State} (hcrc : factCrcOk s.dir = false) :
    ∃ t, exec .fuseLoadDone s = .next t ∧ t.dir.boot = s.dir.boot ∧ t.dir.sec = s.dir.sec := by
  have hbar : (decide ((dirStart s.dir).boot.state ≠ .fuseLoad) || !factCrcOk (dirStart s.dir)) = true := by
    rw [show factCrcOk (dirStart s.dir) = false from hcrc]; exact Bool.or_true _
  obtain ⟨t, hnext, h⟩ := onDir_reaches (o := execFuseLoadDone s) rfl (if_pos hbar)
  exact ⟨t, hnext, h.boot, h.sec⟩

/-! Image load -/

/-- A director with its log elsewhere and other writes owed. -/
def logMoved (d : Director) (seq boots : Word) (pos : Nat) (w : List MemWrite) : Director :=
  { d with boot := { d.boot with logSeq := seq, boots := boots, logPos := pos }, writes := w }

theorem openLog_eq (m : Stores) (d : Director) : ∃ seq boots pos, openLog m d = logMoved d seq boots pos d.writes := by
  unfold openLog
  split
  · exact ⟨_, _, _, rfl⟩
  · exact ⟨_, _, _, rfl⟩

theorem logAttempt_eq (m : Stores) (d : Director) (slot result : Nat) :
    ∃ seq pos w, logAttempt m d slot result = logMoved d seq d.boot.boots pos w := ⟨_, _, _, logAppend_eq ..⟩

theorem logMoved_logMoved (d : Director) (a b a' b' : Word) (c c' : Nat) (w w' : List MemWrite) :
    logMoved (logMoved d a b c w) a' b' c' w' = logMoved d a' b' c' w' := rfl

theorem imageResult_logMoved (m : Stores) (d : Director) (a b : Word) (c : Nat) (w : List MemWrite) (slot : Nat) :
    imageResult m (logMoved d a b c w) slot = imageResult m d slot := rfl

theorem preferredSlot_logMoved (m : Stores) (d : Director) (a b : Word) (c : Nat) (w : List MemWrite) :
    preferredSlot m (logMoved d a b c w) = preferredSlot m d := rfl

theorem enterSafe_state (d : Director) (slot : Nat) : (enterSafe d slot).boot.state = .safe :=
  darkened_view (view := (·.boot.state)) (fun _ _ _ _ => rfl) _

/-- The image that an image load takes, or SAFE (R545, R546), whatever the log says by then. -/
theorem imageLoad_takes (m : Stores) (d : Director) {p : Nat} (hp : p = if preferredSlot m d = 1 then 1 else 0) :
    (imageResult m d p = 0 → ∃ a b c w, imageLoad m d = takeImage m (logMoved d a b c w) p true none)
      ∧ (imageResult m d p ≠ 0 → imageResult m d (1 - p) = 0 →
          ∃ a b c w, imageLoad m d = takeImage m (logMoved d a b c w) (1 - p) false (some (p, imageResult m d p)))
      ∧ (imageResult m d p ≠ 0 → imageResult m d (1 - p) ≠ 0 → (imageLoad m d).boot.state = .safe) := by
  obtain ⟨a, b, c, hopen⟩ := openLog_eq m d
  unfold imageLoad
  extract_lets e q r e1 q' r2 e2
  have hq : q = p := by rw [hp]; show (if preferredSlot m (openLog m d) = 1 then 1 else 0) = _; rw [hopen, preferredSlot_logMoved]
  have hr : r = imageResult m d p := by show imageResult m (openLog m d) q = _; rw [hopen, imageResult_logMoved, hq]
  obtain ⟨a1, c1, w1, he1⟩ := logAttempt_eq m e q r
  have he1 : e1 = logMoved d a1 e.boot.boots c1 w1 := he1.trans (by rw [show e = _ from hopen, logMoved_logMoved])
  have hr2 : r2 = imageResult m d (1 - p) := by show imageResult m e1 (1 - q) = _; rw [he1, imageResult_logMoved, hq]
  obtain ⟨a2, c2, w2, he2⟩ := logAttempt_eq m e1 q' r2
  have he2 : e2 = logMoved d a2 e1.boot.boots c2 w2 := he2.trans (by rw [he1, logMoved_logMoved])
  have hq' : q' = 1 - p := congrArg (1 - ·) hq
  refine ⟨fun h0 => ⟨a1, e.boot.boots, c1, w1, ?_⟩, fun h0 h1 => ⟨a2, e1.boot.boots, c2, w2, ?_⟩, fun h0 h1 => ?_⟩
  · rw [if_pos (hr.trans h0), hq, he1]
  · rw [if_neg (by rw [hr]; exact h0), if_pos (hr2.trans h1), hq', hq, hr, he2]
  · rw [if_neg (by rw [hr]; exact h0), if_neg (by rw [hr2]; exact h1), enterSafe_state]

theorem imageLoadDone_reaches {s : State} (hstate : s.dir.boot.state = .imageLoad) :
    ∃ t, exec .imageLoadDone s = .next t ∧ Reached s t (imageLoad s.mem (dirStart s.dir)) :=
  onDir_reaches (o := execImageLoadDone s) rfl (if_pos hstate)

/-- Settles O52, command by command: the reset, its end, the fuse load, and the image load. -/
theorem resetAndBoot : Obligations.ResetAndBoot := by
  unfold Obligations.ResetAndBoot
  refine ⟨fun s hinv => ?_, fun s side hheld => ?_, fun s hstate => ⟨fuseLoadDone_loads hstate, fun hcrc => ?_⟩, fun s p hstate hp => ?_⟩
  · obtain ⟨hmem, -⟩ := hinv
    obtain ⟨t, hnext, hcell, h⟩ := resetAssert_reaches s
    have htable : t.mem = applyWrite s.mem resetVectors := h.mem_of_write rfl
    refine ⟨t, hnext, by rw [h.boot]; rfl, by rw [h.pins]; rfl, bootWord_of_reset (.inl (by rw [h.boot]; rfl)),
      mbxStatusWord_of_reset (by rw [h.mbs]; rfl), evtHeadWord_of_reset (by rw [h.ring]; rfl), by rw [h.ring]; rfl,
      by rw [h.ring]; rfl, (h.get (·.host.spiCrcFail) fun _ _ _ _ => rfl).trans rfl, freezeStatWord_of_reset (by rw [h.frz]; rfl),
      arbStatWord_of_reset (by rw [h.bg]; rfl), fun v hv => ?_, by rw [h.boot]; rfl, by rw [h.boot]; rfl, by rw [h.boot]; rfl, ?_, hcell⟩
    · rw [htable]; exact vectorMasked_reset ((memWf_iff _).mp hmem) hv
    · have hother : ∀ w ∈ [resetVectors], sameMem w.dest .flash = false := fun w hw => by rw [List.mem_singleton.mp hw]; rfl
      have hflash := applyWrites_other (m := s.mem) hother
      rw [htable]
      exact hflash
  · obtain ⟨t, hnext, h⟩ := resetNRise_reaches hheld side
    exact ⟨t, hnext, by rw [h.boot], by rw [h.boot], by rw [h.pins], bootWord_of_reset (.inr (by rw [h.boot])), h.mem_of_quiet rfl⟩
  · obtain ⟨t, hnext, hboot, hsec⟩ := fuseLoadDone_stays hcrc
    exact ⟨t, hnext, by rw [hboot]; exact hstate, hsec⟩
  · obtain ⟨t, hnext, h⟩ := imageLoadDone_reaches hstate
    obtain ⟨hfirst, hsecond, hsafe⟩ := imageLoad_takes s.mem (dirStart s.dir) hp
    refine ⟨t, hnext, fun h0 => ?_, fun h0 h1 => ?_, fun h0 h1 => by rw [h.boot]; exact hsafe h0 h1⟩
    · obtain ⟨a, b, c, w, hload⟩ := hfirst h0
      have hboot := h.boot.trans (congrArg Director.boot hload)
      exact ⟨by rw [hboot]; rfl, by rw [hboot]; rfl, by rw [hboot]; rfl, by rw [hboot]; rfl, by rw [hboot]; rfl, by rw [hboot]; rfl⟩
    · obtain ⟨a, b, c, w, hload⟩ := hsecond h0 h1
      have hboot := h.boot.trans (congrArg Director.boot hload)
      exact ⟨by rw [hboot]; rfl, by rw [hboot]; rfl, by rw [hboot]; rfl, by rw [hboot]; rfl⟩

end Sys2Proof.Machine
end

section
/-! PROOF. The release, the anti-rollback counter and the director's own resets settled (R547, R548, R586, R587). -/

namespace Sys2Proof.Machine

/-! Release steps -/

theorem releaseStepDone_reaches {s : State} (hstate : s.dir.boot.state = .released) (ok : Bool) :
    ∃ t, exec (.releaseStepDone ok) s = .next t ∧ Reached s t (stepDone s.mem s.fresh (dirStart s.dir) ok) :=
  onDir_reaches (o := execReleaseStepDone ok s) rfl (if_pos hstate)

/-- Step 1: the lock of the root PLL lights trees and lanes. -/
theorem stepDone_lock {d : Director} (h : d.boot.step = 1) (m : Stores) (fresh : Nat) (ok : Bool) :
    (stepDone m fresh d ok).boot = { d.boot with step := 2 } ∧ (stepDone m fresh d ok).time.pllLock = true := by
  rw [stepDone, h]
  constructor
  · exact (lightLanes_view (view := Director.boot) (fun _ _ => rfl) (fun _ _ => rfl) _).trans (lightTrees_boot _)
  · exact congrArg TimeState.pllLock ((lightLanes_view (view := Director.time) (fun _ _ => rfl) (fun _ _ => rfl) _).trans (lightTrees_time _))

theorem stepDone_second {d : Director} (h : d.boot.step = 2) (m : Stores) (fresh : Nat) (ok : Bool) :
    stepDone m fresh d ok = { d with boot := { d.boot with step := 3 } } := by
  rw [stepDone, h]; rfl

theorem ddrTrained_boot (d : Director) (fresh : Nat) (ok : Bool) :
    (ddrTrained d fresh ok).boot = { d.boot with step := 4, ddrMiB := if ok then d.boot.ddrFitted else 0 } := by
  unfold ddrTrained
  exact ite_keeps (view := Director.boot) (raise_boot ..) rfl

theorem stepDone_third {d : Director} (h : d.boot.step = 3) (m : Stores) (fresh : Nat) (ok : Bool) :
    (stepDone m fresh d ok).boot = { d.boot with step := 4, ddrMiB := if ok then d.boot.ddrFitted else 0 } := by
  rw [stepDone, h]
  exact ddrTrained_boot d fresh ok

theorem stepDone_fourth {d : Director} (h : d.boot.step = 4) (m : Stores) (fresh : Nat) (ok : Bool) :
    stepDone m fresh d ok = enterRun (imageInForce m d) fresh := by
  rw [stepDone, h]; rfl

/-! Step 4 and RUN -/

theorem restartDomain_steerless (d : Director) (i : Nat) : steerless (restartDomain d i) = steerless d := by
  rw [restartDomain, reSource_steerless, setDomMode_steerless, modDom_steerless]

theorem bootEvents_view {β : Type} {view : Director → β} (hview : ∀ d r f w u, view { d with
      ring := r, boot := { d.boot with fallback := f, wdOwed := w, ueOwed := u } } = view d) (d : Director) : view (bootEvents d) = view d := by
  have hring : ∀ d r, view { d with ring := r } = view d := fun d r => hview d r d.boot.fallback d.boot.wdOwed d.boot.ueOwed
  have hraise := fun d (source detail : Nat) (data : List Byte) => raise_view hring d source detail data
  unfold bootEvents
  extract_lets d1 d2 d3
  have h1 : view d1 = view d := by
    show view (match d.boot.fallback with | some (s, r) => raise d 100 0x01 (b1 s ++ b1 r) | none => d) = view d
    split
    · exact hraise ..
    · rfl
  have h2 : view d2 = view d1 := ite_keeps (hraise ..) rfl
  have h3 : view d3 = view d2 := by
    show view (match d2.boot.ueOwed with | some a => raise d2 102 0x02 (b4 a ++ b1 2) | none => d2) = view d2
    split
    · exact hraise ..
    · rfl
  exact (hview d3 d3.ring _ _ _).trans (h3.trans (h2.trans h1))

/-- The director in RUN, before its domains start. -/
def released (d : Director) (fresh : Nat) : Director :=
  (ports (part d)).foldl (drawKey fresh) (modTime { d with
    boot := { d.boot with state := .run, step := 0, runAt := d.time.raw }
    pins := { d.pins with alive := d.pins.served && d.time.pllLock } } fun t => { t with ownFrom := t.raw })

theorem enterRun_view {β : Type} {view : Director → β} (hsteer : ∀ d, view (steerless d) = view d) (hview : ∀ d r f w u b, view { d with
      ring := r, boot := { d.boot with fallback := f, wdOwed := w, ueOwed := u }, bg := b } = view d) (d : Director) (fresh : Nat) :
    view (enterRun d fresh) = view (released d fresh) := by
  have hboot : ∀ d r f w u, view { d with ring := r, boot := { d.boot with fallback := f, wdOwed := w, ueOwed := u } } = view d :=
    fun d r f w u => hview d r f w u d.bg
  have hbg : ∀ d b, view { d with bg := b } = view d := fun d b => hview d d.ring d.boot.fallback d.boot.wdOwed d.boot.ueOwed b
  refine (hbg _ _).trans ((bootEvents_view hboot _).trans ?_)
  exact foldl_keeps (fun d i => view_of_steerless (restartDomain_steerless d i) view hsteer) [0, 1] _

theorem released_view {β : Type} {view : Director → β} (hview : ∀ d t, view { d with sec := { d.sec with trees := t } } = view d)
    (d : Director) (fresh : Nat) : view (released d fresh) = view (modTime { d with
    boot := { d.boot with state := .run, step := 0, runAt := d.time.raw }
    pins := { d.pins with alive := d.pins.served && d.time.pllLock } } fun t => { t with ownFrom := t.raw }) :=
  foldl_keeps (fun d _ => hview d _) _ _

/-- Everything of a director but the sections, and what the image's configuration resets. -/
theorem sectionsPut_view {β : Type} {view : Director → β} (hview : ∀ d c, view { d with cfg := c } = view d)
    (raw : Table (List Byte)) (d : Director) : view (raw.foldl (fun d (k, b) => putSection d k b) d) = view d :=
  foldl_keeps (fun d _ => hview d _) raw d

theorem loadX0s_view {β : Type} {view : Director → β} (hview : ∀ d a, view { d with arms := a } = view d) (l : List Nat) (d : Director) :
    view (l.foldl loadX0 d) = view d :=
  foldl_keeps (fun d _ => hview d _) l d

theorem loadX0s_mode (l : List Nat) (d : Director) (a : Nat) : (arm (l.foldl loadX0 d) a).mode = (arm d a).mode :=
  foldl_keeps (view := fun d => (arm d a).mode) (f := loadX0)
    (fun d b => arm_modArm_view (view := Arm.mode) (f := fun x => { x with
      xhat := (List.range (dimN (cfg d) b)).map fun i => parmF (armS (cfg d) b) 12 i 0, rEff := List.replicate (dimR (cfg d) b) 0 }) (fun _ => rfl) d b a) l d

/-- The image's sections in force, every arm as new (R548). -/
def imageTaken (m : Stores) (d : Director) : Director :=
  let d := (imgConfig m d d.boot.slot).foldl (fun d (k, b) => putSection d k b) d
  { d with cfg := { d.cfg with baked := true }, arms := [] }

theorem imageInForce_view {β : Type} {view : Director → β}
    (hview : ∀ d r b c, view { d with ring := r, bg := b, rcd := c } = view d) (m : Stores) (d : Director) :
    view (imageInForce m d) = view ((List.range 6).foldl loadX0 (imageTaken m d)) := by
  have hring : ∀ d r, view { d with ring := r } = view d := fun d r => hview d r d.bg d.rcd
  have hbg : ∀ d f, view (modBg d f) = view d := fun d _ => hview d d.ring _ d.rcd
  have hsegs : ∀ d, view (findSegments m d) = view d := fun d => hview d d.ring d.bg _
  unfold imageInForce imageTaken
  generalize imgConfig m d d.boot.slot = raw
  refine (ite_keeps rfl ?_).trans ((hsegs _).trans (hbg _ _))
  exact foldl_keeps (fun d _ => raise_view hring d _ _ _) _ _

theorem imageTaken_baked (m : Stores) (d : Director) : (imageTaken m d).cfg.baked = true := rfl

theorem imageInForce_run (m : Stores) (d : Director) :
    (imageInForce m d).cfg.baked = true ∧ (imageInForce m d).time.raw = d.time.raw ∧ ∀ a, (arm (imageInForce m d) a).mode = .off := by
  refine ⟨?_, ?_, fun a => ?_⟩
  · refine (imageInForce_view (view := (·.cfg.baked)) (fun _ _ _ _ => rfl) m d).trans ?_
    exact (loadX0s_view (view := (·.cfg.baked)) (fun _ _ => rfl) ..).trans (imageTaken_baked m d)
  · refine (imageInForce_view (view := (·.time.raw)) (fun _ _ _ _ => rfl) m d).trans ?_
    refine (loadX0s_view (view := (·.time.raw)) (fun _ _ => rfl) ..).trans ?_
    exact sectionsPut_view (view := (·.time.raw)) (fun _ _ => rfl) _ d
  · refine (imageInForce_view (view := fun d => (arm d a).mode) (fun _ _ _ _ => rfl) m d).trans ?_
    rw [loadX0s_mode]
    rfl

theorem enterRun_run (d : Director) (fresh : Nat) :
    (enterRun d fresh).boot.state = .run ∧ (enterRun d fresh).boot.runAt = d.time.raw ∧ (enterRun d fresh).cfg.baked = d.cfg.baked
      ∧ (enterRun d fresh).arms = d.arms := by
  refine ⟨?_, ?_, ?_, ?_⟩
  · exact (enterRun_view (view := (·.boot.state)) (fun _ => rfl) (fun _ _ _ _ _ _ => rfl) d fresh).trans
      (released_view (view := (·.boot.state)) (fun _ _ => rfl) d fresh)
  · exact (enterRun_view (view := (·.boot.runAt)) (fun _ => rfl) (fun _ _ _ _ _ _ => rfl) d fresh).trans
      (released_view (view := (·.boot.runAt)) (fun _ _ => rfl) d fresh)
  · exact (enterRun_view (view := (·.cfg.baked)) (fun _ => rfl) (fun _ _ _ _ _ _ => rfl) d fresh).trans
      (released_view (view := (·.cfg.baked)) (fun _ _ => rfl) d fresh)
  · exact (enterRun_view (view := Director.arms) (fun _ => rfl) (fun _ _ _ _ _ _ => rfl) d fresh).trans
      (released_view (view := Director.arms) (fun _ _ => rfl) d fresh)

theorem kudenWord_run {d : Director} (h : d.boot.state = .run) : kudenWord d = 0x0302 := by
  rw [kudenWord, h]

/-- A source that stands for no port is enabled by the mask alone (R446). -/
theorem Enabled.of_high {d e : Director} {source : Nat} (h : Enabled d source) (hhigh : 51 < source)
    (henable : e.ring.enable = d.ring.enable) : Enabled e source := by
  obtain ⟨hlive, hbit⟩ := h
  refine ⟨?_, by rw [henable]; exact hbit⟩
  rw [sourceLive, if_neg (by omega)] at hlive ⊢
  exact hlive

/-! A step beyond its bound -/

theorem releaseStepTimeout_reaches {s : State} (hstate : s.dir.boot.state = .released) :
    ∃ t, exec .releaseStepTimeout s = .next t ∧ Reached s t (match s.dir.boot.step with
      | 1 => enterSafe (dirStart s.dir) s.dir.boot.slot
      | 3 => ddrTrained (dirStart s.dir) s.fresh false
      | 4 => enterSafe (dirStart s.dir) s.dir.boot.slot
      | _ => dirStart s.dir) :=
  onDir_reaches (o := execReleaseStepTimeout s) rfl (if_neg (not_not.mpr hstate))

theorem enterSafe_boot (d : Director) (slot : Nat) : (enterSafe d slot).boot =
    { (logAppend d 5 slot 0 d.boot.version.toNat []).boot with state := .safe, step := 0 } :=
  darkened_view (view := Director.boot) (fun _ _ _ _ => rfl) _

theorem enterSafe_release (d : Director) (slot : Nat) :
    (enterSafe d slot).boot.state = .safe ∧ (enterSafe d slot).boot.step = 0 ∧ (enterSafe d slot).boot.logSeq = d.boot.logSeq + 1 := by
  rw [enterSafe_boot]
  refine ⟨rfl, rfl, ?_⟩
  exact logAppend_logSeq d 5 slot 0 d.boot.version.toNat []

/-! The anti-rollback counter -/

theorem bit_eq_testBit (n i : Nat) : bit n i = n.testBit i := by
  rw [bit, Nat.testBit_eq_decide_div_mod_eq, Nat.shiftRight_eq_div_pow]

/-- A run of ones is counted as a whole. -/
theorem le_onesFrom {n k j i : Nat} (hjk : j ≤ k) (h : ∀ x, x < j → bit n (i + x) = true) : j ≤ onesFrom n k i := by
  induction k generalizing i j with
  | zero => omega
  | succ k ih =>
    cases j with
    | zero => exact Nat.zero_le _
    | succ j =>
      have hrest : j ≤ onesFrom n k (i + 1) := ih (by omega) fun x hx => by
        have := h (x + 1) (by omega)
        rwa [show i + (x + 1) = i + 1 + x by omega] at this
      rw [onesFrom, if_pos (by simpa using h 0 (by omega))]
      omega

theorem bit_burn (d : Director) {bits i : Nat} (h : (BitVec.ofNat 4096 bits).getLsbD i = true) : bit (fuses (burn d bits)) i = true := by
  rw [bit_eq_testBit, fuses, ← BitVec.getLsbD, BitVec.getLsbD_or]
  show ((d.boot.fuseA ||| BitVec.ofNat 4096 bits).getLsbD i || (d.boot.fuseB ||| BitVec.ofNat 4096 bits).getLsbD i) = true
  rw [BitVec.getLsbD_or, h, Bool.or_true, Bool.true_or]

/-- A level burnt into the fuses is read back by the counter (R536, R547). -/
theorem arbCounter_burn (d : Director) {level : Nat} (h : level ≤ 512) : level ≤ arbCounter (burn d ((2 ^ level - 1) * 2 ^ 2464)) := by
  refine le_onesFrom h fun x hx => ?_
  have hv : (BitVec.ofNat 4096 ((2 ^ level - 1) * 2 ^ 2464)).getLsbD (2464 + x) = true := by
    rw [BitVec.getLsbD_ofNat, Nat.testBit_mul_two_pow, Nat.testBit_two_pow_sub_one]
    simp only [Bool.and_eq_true, decide_eq_true_eq]
    omega
  exact bit_burn d hv

theorem burn_frame (d : Director) (bits : Nat) :
    (burn d bits).boot.state = d.boot.state ∧ (burn d bits).boot.logSeq = d.boot.logSeq ∧ (burn d bits).ring = d.ring := ⟨rfl, rfl, rfl⟩

theorem inRun_of_works {d : Director} (h : works d = true) : d.boot.state = .run := by
  simp only [works, inRun, Bool.and_eq_true, decide_eq_true_eq] at h
  obtain ⟨⟨hrun, -⟩, -⟩ := h
  exact hrun

theorem arbRaise_reaches {s : State} (hworks : works s.dir = true) (hpref : s.dir.boot.preferred = true)
    (hraw : s.dir.boot.runAt + 750000000000 ≤ s.dir.time.raw) (hlevel : arbCounter s.dir < fld s.dir.boot.version.toNat 31 23) :
    ∃ t, exec .arbRaise s = .next t ∧ Reached s t (raise (logAppend
      (burn (dirStart s.dir) ((2 ^ fld s.dir.boot.version.toNat 31 23 - 1) * 2 ^ 2464)) 3 s.dir.boot.slot 0
      (fld s.dir.boot.version.toNat 31 23) []) 100 0x02 []) := by
  have hbar : (!works (dirStart s.dir) || !(dirStart s.dir).boot.preferred
      || decide ((dirStart s.dir).time.raw < (dirStart s.dir).boot.runAt + 750000000000)
      || decide (fld (dirStart s.dir).boot.version.toNat 31 23 ≤ arbCounter (dirStart s.dir))) = false := by
    rw [show works (dirStart s.dir) = true from hworks, show (dirStart s.dir).boot.preferred = true from hpref,
      decide_eq_false (show ¬ (dirStart s.dir).time.raw < (dirStart s.dir).boot.runAt + 750000000000 from not_lt.mpr hraw),
      decide_eq_false (show ¬ fld (dirStart s.dir).boot.version.toNat 31 23 ≤ arbCounter (dirStart s.dir) from not_le.mpr hlevel)]
    rfl
  exact onDir_reaches (o := execArbRaise s) rfl (if_neg (Bool.eq_false_iff.mp hbar))

theorem arbRaise_raises {s : State} (hworks : works s.dir = true) (hpref : s.dir.boot.preferred = true)
    (hraw : s.dir.boot.runAt + 750000000000 ≤ s.dir.time.raw) (hlevel : arbCounter s.dir < fld s.dir.boot.version.toNat 31 23) :
    ∃ t, exec .arbRaise s = .next t ∧ fld s.dir.boot.version.toNat 31 23 ≤ arbCounter t.dir ∧ t.dir.boot.logSeq = s.dir.boot.logSeq + 1
      ∧ t.dir.boot.state = .run ∧ (Enabled s.dir 100 → Decided t.dir 100 2 []) := by
  obtain ⟨t, hnext, h⟩ := arbRaise_reaches hworks hpref hraw hlevel
  have hcounter := arbCounter_burn (dirStart s.dir) (fld_lt s.dir.boot.version.toNat 31 23).le
  obtain ⟨d, hd⟩ : ∃ d, d = burn (dirStart s.dir) ((2 ^ fld s.dir.boot.version.toNat 31 23 - 1) * 2 ^ 2464) := ⟨_, rfl⟩
  obtain ⟨hstate, hseq, henable⟩ := burn_frame (dirStart s.dir) ((2 ^ fld s.dir.boot.version.toNat 31 23 - 1) * 2 ^ 2464)
  rw [← hd] at h hcounter hstate hseq henable
  have hboot := h.boot.trans (raise_boot ..)
  have hfuses : fuses t.dir = fuses d := by rw [fuses, hboot, logAppend_fuseA, logAppend_fuseB]; rfl
  refine ⟨t, hnext, ?_, ?_, ?_, fun he => h.decided (raise_decides ?_ _ _)⟩
  · rw [arbCounter, hfuses]; exact hcounter
  · rw [hboot, logAppend_logSeq, hseq]; rfl
  · rw [hboot, logAppend_eq]
    exact hstate.trans (inRun_of_works hworks)
  · refine he.of_high (by decide) ?_
    rw [logAppend_eq]
    exact congrArg EventRing.enable henable

/-- The director after the reset for an uncorrectable word at `a` (R586). -/
def ueReset (d : Director) (a : Nat) : Director :=
  let e := directorReset (logAppend d 5 (if inRun d then d.boot.slot else 0xFF) 0 d.boot.version.toNat (b4 a))
  { e with boot := { e.boot with ueOwed := some a } }

theorem supervisorSramUeReset_reaches {s : State} {a : Nat} (hserves : serves s.dir = true) (hcause : s.dir.boot.ueCause = some a) :
    ∃ t, exec .supervisorSramUeReset s = .next t ∧ Reached s t (ueReset (dirStart s.dir) a) := by
  have hcause' : (dirStart s.dir).boot.ueCause = some a := hcause
  refine onDir_reaches (o := execSupervisorSramUeReset s) rfl ?_
  dsimp only
  rw [hcause', show serves (dirStart s.dir) = true from hserves]
  rfl

/-- The uncorrectable word that a supervisor core read is owed to the log and resets the director (R586). -/
theorem supervisorSramUeReset_resets {s : State} {a : Nat} (hserves : serves s.dir = true) (hcause : s.dir.boot.ueCause = some a) :
    ∃ t, exec .supervisorSramUeReset s = .next t ∧ t.dir.boot.state = .fuseLoad ∧ t.dir.boot.ueOwed = some a ∧ t.dir.boot.ueCause = none
      ∧ t.dir.mbs = [] := by
  obtain ⟨t, hnext, h⟩ := supervisorSramUeReset_reaches hserves hcause
  exact ⟨t, hnext, by rw [h.boot]; rfl, by rw [h.boot]; rfl, by rw [h.boot]; rfl, by rw [h.mbs]; rfl⟩

/-- Settles O53, command by command: the steps of the release, their bounds, the anti-rollback counter, and the resets. -/
theorem releaseAndResets : Obligations.ReleaseAndResets := by
  unfold Obligations.ReleaseAndResets
  refine ⟨fun s ok hstate => ?_, fun s hstate => ?_, fun s hworks hpref hraw hlevel => arbRaise_raises hworks hpref hraw hlevel,
    fun s hreset hfrozen hserved => ?_, fun s a hserves hcause => supervisorSramUeReset_resets hserves hcause⟩
  · obtain ⟨t, hnext, h⟩ := releaseStepDone_reaches hstate ok
    refine ⟨t, hnext, fun hstep => ?_, fun hstep => ?_, fun hstep => ?_, fun hstep => ?_⟩
    · obtain ⟨hboot, hlock⟩ := stepDone_lock (d := dirStart s.dir) hstep s.mem s.fresh ok
      exact ⟨by rw [h.boot, hboot], by rw [h.time]; exact hlock, by rw [h.boot, hboot]; exact hstate⟩
    · rw [stepDone_second (d := dirStart s.dir) hstep] at h
      exact ⟨by rw [h.boot], by rw [h.boot]; exact hstate⟩
    · have hboot := h.boot.trans (stepDone_third (d := dirStart s.dir) hstep s.mem s.fresh ok)
      exact ⟨by rw [hboot], by rw [hboot]; rfl, by rw [hboot]; exact hstate⟩
    · rw [stepDone_fourth (d := dirStart s.dir) hstep] at h
      obtain ⟨hbaked, hraw, hmode⟩ := imageInForce_run s.mem (dirStart s.dir)
      obtain ⟨hrun, hat, hcfg, harms⟩ := enterRun_run (imageInForce s.mem (dirStart s.dir)) s.fresh
      have hstate' : t.dir.boot.state = .run := by rw [h.boot]; exact hrun
      refine ⟨hstate', by rw [h.cfg, hcfg]; exact hbaked, by rw [h.boot, hat]; exact hraw, fun a _ => ?_, kudenWord_run hstate'⟩
      rw [h.arm, arm, harms]
      exact hmode a
  · obtain ⟨t, hnext, h⟩ := releaseStepTimeout_reaches hstate
    refine ⟨t, hnext, fun hstep => ?_, fun hstep => ?_⟩
    · have hboot : t.dir.boot = (enterSafe (dirStart s.dir) s.dir.boot.slot).boot := by
        obtain hstep | hstep := hstep <;> rw [hstep] at h <;> exact h.boot
      obtain ⟨hsafe, hzero, hseq⟩ := enterSafe_release (dirStart s.dir) s.dir.boot.slot
      exact ⟨by rw [hboot]; exact hsafe, by rw [hboot]; exact hzero, by rw [hboot]; exact hseq⟩
    · rw [hstep] at h
      have hboot := h.boot.trans (ddrTrained_boot ..)
      refine ⟨by rw [hboot], by rw [hboot]; rfl, by rw [hboot]; exact hstate, fun he => h.decided ?_⟩
      exact raise_decides (Enabled.of_high (e := { dirStart s.dir with boot := { s.dir.boot with step := 4, ddrMiB := 0 } }) he (by decide) rfl) 3 []
  · obtain ⟨t, hnext, -, h⟩ := watchdogReset_reaches hreset hfrozen hserved
    exact ⟨t, hnext, by rw [h.boot]; rfl, by rw [h.boot], by rw [h.arms]; rfl, by rw [h.boot]; rfl⟩

end Sys2Proof.Machine
end

section
/-! PROOF. Freezing and the readout of the freeze map settled (R606 to R608, R610, R611). -/

namespace Sys2Proof.Machine

/-! The start of a freeze -/

/-- A freeze may start in this boot state (R606). -/
def freezable (d : Director) : Prop := d.boot.state = .released ∨ d.boot.state = .run ∨ d.boot.state = .safe

/-- What a freeze that starts does to the freeze state. -/
def freezeBegun (d : Director) (cause : Nat) : Director :=
  { d with frz := { d.frz with
      cause := cause, draining := true, started := d.time.raw, bootAt := d.boot.state, armedCmd := false
      drain := if !d.time.pllLock then 3 else if d.rcd.mode = .stopped then 2 else 0 } }

/-- What it does to the recorder. -/
def freezeDrains (d : Director) (own : Bool) : Director :=
  if !d.time.pllLock then d else
  match d.rcd.mode with
  | .armed => modRcd d fun r => { r with pFreeze := some (cyc d) }
  | .triggered => if own then d else closeNow d
  | _ => d

theorem freezeDrains_view {β : Type} {view : Director → β} (hview : ∀ d r, view { d with rcd := r } = view d) (d : Director) (own : Bool) :
    view (freezeDrains d own) = view d := by
  unfold freezeDrains
  refine ite_keeps rfl ?_
  split
  · exact hview d _
  · exact ite_keeps rfl (hview d _)
  · rfl

theorem startFreeze_eq {d : Director} (hfreezable : freezable d) (hcause : d.frz.cause = 0) (hfrozen : d.frz.frozen = false) (cause : Nat) (own : Bool) :
    startFreeze d cause own = freezeDrains (if cause = 1 then raise (freezeBegun d cause) 197 0x00 [] else raise (freezeBegun d cause) 212 0x01 (b1 cause)) own := by
  have hlive : (decide (d.boot.state = .released) || decide (d.boot.state = .run) || decide (d.boot.state = .safe)) = true := by
    obtain h | h | h := hfreezable <;> simp [h]
  have hgo : (d.frz.cause != 0 || d.frz.frozen || !(decide (d.boot.state = .released) || decide (d.boot.state = .run) || decide (d.boot.state = .safe))) = false := by
    rw [hlive, hcause, hfrozen]; rfl
  exact if_neg (Bool.eq_false_iff.mp hgo)

theorem freezeNLow_reaches (s : State) (held : Nat) :
    ∃ t, exec (.freezeNLow held) s = .next t
      ∧ Reached s t (if s.dir.pins.resetN && 25 ≤ held then startFreeze (dirStart s.dir) 1 false else dirStart s.dir) :=
  onDir_reaches (o := execFreezeNLow held s) rfl rfl

theorem freezeNLow_starts {s : State} (hreset : s.dir.pins.resetN = true) (hfreezable : freezable s.dir) (hcause : s.dir.frz.cause = 0)
    (hfrozen : s.dir.frz.frozen = false) (held : Nat) :
    ∃ t, exec (.freezeNLow held) s = .next t
      ∧ (25 ≤ held → t.dir.frz.cause = 1 ∧ t.dir.frz.draining = true ∧ t.dir.frz.started = s.dir.time.raw ∧ (Enabled s.dir 197 → Decided t.dir 197 0 []))
      ∧ (held < 25 → t.dir.frz = s.dir.frz ∧ t.dir.rcd = s.dir.rcd) := by
  obtain ⟨t, hnext, h⟩ := freezeNLow_reaches s held
  rw [hreset, Bool.true_and] at h
  refine ⟨t, hnext, fun hlong => ?_, fun hshort => ?_⟩
  · rw [if_pos (decide_eq_true hlong), startFreeze_eq (d := dirStart s.dir) hfreezable hcause hfrozen, if_pos rfl] at h
    have hfrz := h.frz.trans ((freezeDrains_view (view := Director.frz) (fun _ _ => rfl) ..).trans (raise_frz ..))
    refine ⟨by rw [hfrz]; rfl, by rw [hfrz]; rfl, by rw [hfrz]; rfl, fun he => h.decided ?_⟩
    rw [Decided, freezeDrains_view (view := Director.ring) (fun _ _ => rfl)]
    exact raise_decides (Enabled.of_eq (e := freezeBegun (dirStart s.dir) 1) he rfl rfl) 0 []
  · rw [if_neg (by simpa using hshort)] at h
    exact ⟨h.frz, h.rcd⟩

/-- The freeze that a command armed is taken up (R520). -/
def disarmed (d : Director) : Director := { d with frz := { d.frz with armedCmd := false } }

theorem diagFreezeStart_starts {s : State} (harmed : s.dir.frz.armedCmd = true) (hfreezable : freezable s.dir) (hcause : s.dir.frz.cause = 0)
    (hfrozen : s.dir.frz.frozen = false) :
    ∃ t, exec .diagFreezeStart s = .next t ∧ t.dir.frz.cause = 2 ∧ t.dir.frz.draining = true ∧ (Enabled s.dir 212 → Decided t.dir 212 1 (toLE 1 2)) := by
  obtain ⟨t, hnext, h⟩ := onDir_reaches (o := execDiagFreezeStart s) (d := startFreeze (disarmed (dirStart s.dir)) 2 false) rfl (if_pos harmed)
  rw [startFreeze_eq (d := disarmed (dirStart s.dir)) hfreezable hcause hfrozen, if_neg (by decide)] at h
  have hfrz := h.frz.trans ((freezeDrains_view (view := Director.frz) (fun _ _ => rfl) ..).trans (raise_frz ..))
  refine ⟨t, hnext, by rw [hfrz]; rfl, by rw [hfrz]; rfl, fun he => h.decided ?_⟩
  rw [Decided, freezeDrains_view (view := Director.ring) (fun _ _ => rfl)]
  exact raise_decides (Enabled.of_eq (e := freezeBegun (disarmed (dirStart s.dir)) 2) he rfl rfl) 1 _

/-! The drain -/

theorem freezeDrainLimit_reaches {s : State} (hdrain : s.dir.frz.draining = true) (hmode : s.dir.rcd.mode ≠ .stopped)
    (hlock : s.dir.time.pllLock = true) (hlate : s.dir.frz.started + 2500000000 < s.dir.time.raw) :
    ∃ t, exec .freezeDrainLimit s = .next t ∧ Reached s t (closeAtLimit (dirStart s.dir)) := by
  have hbar : (!s.dir.frz.draining || decide (s.dir.rcd.mode = .stopped) || !s.dir.time.pllLock
      || decide (s.dir.time.raw ≤ s.dir.frz.started + 2500000000)) = false := by
    rw [hdrain, hlock, decide_eq_false hmode, decide_eq_false (not_le.mpr hlate)]; rfl
  exact onDir_reaches (o := execFreezeDrainLimit s) rfl (if_neg (Bool.eq_false_iff.mp hbar))

/-- What closing at the limit does once the header stands. -/
def limitClosed (d : Director) (i : Nat) : Director :=
  recStopped { raise (setSeg d i .closed) 74 0x00 (b1 i) with frz := { (raise (setSeg d i .closed) 74 0x00 (b1 i)).frz with seg := i, drain := 1 } }

theorem closeAtLimit_eq {d : Director} {i : Nat} (hseg : d.rcd.seg = some i) : ∃ e, closeAtLimit d = limitClosed e i := by
  unfold closeAtLimit
  rw [hseg]
  exact ⟨_, rfl⟩

/-- The segment that closes at the limit of the drain (R607), whatever trigger it took. -/
theorem closeAtLimit_closes {d : Director} {i : Nat} (hseg : d.rcd.seg = some i) :
    (closeAtLimit d).rcd.mode = .stopped ∧ segMode (closeAtLimit d) i = .closed ∧ (closeAtLimit d).frz.drain = 1
      ∧ (closeAtLimit d).frz.seg = i := by
  obtain ⟨e, he⟩ := closeAtLimit_eq hseg
  rw [he]
  refine ⟨recStopped_mode _, (recStopped_segMode _ i).trans ?_, ?_, ?_⟩
  · show segMode (raise (setSeg e i .closed) 74 0x00 (b1 i)) i = .closed
    rw [segMode, raise_rcd]
    exact tget_tset_same ..
  · exact recStopped_view (view := (·.frz.drain)) (fun _ _ => rfl) (fun _ => rfl) _
  · exact recStopped_view (view := (·.frz.seg)) (fun _ _ => rfl) (fun _ => rfl) _

/-! The frozen state -/

theorem freezeHeader_length (d : Director) (drainUs : Nat) : (freezeHeader d drainUs).length = 128 := by
  have hroles : ∀ f : Nat → Nat, ((List.range 6).flatMap fun a => b1 (f a)).length = 6 := fun f =>
    (flatMap_length_const (k := 1) fun a _ => b1_length (f a)).trans (by simp)
  simp [freezeHeader, hroles]

theorem clocksStop_view {β : Type} {view : Director → β} (hview : ∀ d g r p k x n y, view { d with
      ring := g, rcd := r, ports := p, sk := k, tx := x, pins := n, time := y } = view d) (d : Director) : view (clocksStop d) = view d := by
  have habandon : ∀ d, view (abandonSeg d) = view d := fun d => by
    unfold abandonSeg
    refine ite_keeps rfl ((recStopped_view (fun d g => hview d g d.rcd d.ports d.sk d.tx d.pins d.time)
      (fun d => hview d d.ring _ d.ports d.sk d.tx d.pins d.time) _).trans ?_)
    split
    · exact hview d d.ring _ d.ports d.sk d.tx d.pins d.time
    · rfl
  refine (hview (darkLanes (darkTrees (abandonSeg (modTime d fun t => { t with pllLock := false, treesOff := true })))) _ _ _ _ _ _ _).trans ?_
  exact (darkened_view (fun d p k x => hview d d.ring d.rcd p k x d.pins d.time) _).trans
    ((habandon _).trans (hview d d.ring d.rcd d.ports d.sk d.tx d.pins _))

theorem clearKeys_cellKey (d : Director) (id : Nat) : (cellRec (clearKeys d) id).key = none :=
  congrArg CellRec.key (tget_map (fun r : CellRec => { r with key := none }) {} id d.cells)

/-- What FROZEN holds (R608, R610). -/
theorem enterFrozen_frozen (d : Director) (fresh us : Nat) :
    (enterFrozen d fresh us).boot.state = .frozen ∧ (enterFrozen d fresh us).frz.frozen = true ∧ (enterFrozen d fresh us).frz.draining = false
      ∧ (enterFrozen d fresh us).frz.cause = d.frz.cause ∧ (enterFrozen d fresh us).sec.trees = [] ∧ (enterFrozen d fresh us).sec.skKey = none
      ∧ (∀ id, (cellRec (enterFrozen d fresh us) id).key = none) ∧ (enterFrozen d fresh us).pins.alive = false
      ∧ (enterFrozen d fresh us).pins.ppsOut = false ∧ (enterFrozen d fresh us).time.pllLock = false
      ∧ (enterFrozen d fresh us).frz.header.length = 128 := by
  have hsec : (enterFrozen d fresh us).sec = (clearKeys d).sec := clocksStop_view (view := Director.sec) (fun _ _ _ _ _ _ _ _ => rfl) _
  have hcells : (enterFrozen d fresh us).cells = (clearKeys d).cells := clocksStop_view (view := Director.cells) (fun _ _ _ _ _ _ _ _ => rfl) _
  have htime : (enterFrozen d fresh us).time = (clocksStop (clearKeys d)).time := rfl
  refine ⟨rfl, rfl, rfl, ?_, by rw [hsec]; rfl, by rw [hsec]; rfl, fun id => ?_, rfl, rfl, ?_, freezeHeader_length d us⟩
  · exact clocksStop_view (view := (·.frz.cause)) (fun _ _ _ _ _ _ _ _ => rfl) (clearKeys d)
  · rw [cellRec, hcells]; exact clearKeys_cellKey d id
  · rw [htime, clocksStop_time]

/-- The director whose clocks are gone before its recorder has drained (R608). -/
def drainBroken (d : Director) : Director := { abandonSeg d with frz := { d.frz with drain := 3 } }

theorem freezeDrainEnd_reaches {s : State} (hdrain : s.dir.frz.draining = true) (hend : s.dir.time.pllLock = false ∨ s.dir.rcd.mode = .stopped)
    (us : Nat) : ∃ t d, exec (.freezeDrainEnd us) s = .next t ∧ Reached s t (enterFrozen d s.fresh us) ∧ d.frz.cause = s.dir.frz.cause := by
  have hgo : ¬ (!s.dir.frz.draining) = true := by simp [hdrain]
  by_cases hlock : s.dir.time.pllLock = true
  · have hmode := hend.resolve_left (by simp [hlock])
    obtain ⟨t, hnext, h⟩ := onDir_reaches (o := execFreezeDrainEnd us s) rfl
      ((if_neg hgo).trans ((if_neg (by simp [dirStart, hlock])).trans (if_pos hmode)))
    exact ⟨t, _, hnext, h, rfl⟩
  · have hgone : (!(dirStart s.dir).time.pllLock) = true := by
      rw [show (dirStart s.dir).time.pllLock = false from Bool.eq_false_iff.mpr hlock]; rfl
    obtain ⟨t, hnext, h⟩ := onDir_reaches (o := execFreezeDrainEnd us s) (d := enterFrozen (drainBroken (dirStart s.dir)) s.fresh us) rfl
      ((if_neg hgo).trans (if_pos hgone))
    exact ⟨t, _, hnext, h, rfl⟩

/-! The readout -/

theorem frzDataCapture_reads (s : State) (a : Option (BitVec 24)) :
    ∃ t, exec (.frzDataCapture a) s = .next t ∧ t.dir.frz.frzAddr = a.getD s.dir.frz.frzAddr + 4 ∧ t.mem = s.mem
      ∧ (s.dir.frz.frozen = false → Replied t.dir (zeros 4) ∧ t.dir.frz.frzData = 0)
      ∧ (s.dir.frz.frozen = true → ∃ bs, bs.length = 4 ∧ Replied t.dir bs ∧ t.dir.frz.frzData.toNat = leNat bs) := by
  obtain ⟨t, hnext, h⟩ := onDir_reaches (o := execFrzDataCapture a s) rfl rfl
  obtain ⟨x, htx⟩ := h.tx
  have hreply : Replied t.dir (if (dirStart s.dir).frz.frozen then (spiData s.mem (dirStart s.dir) (a.getD s.dir.frz.frzAddr).toNat 4 0).2 else zeros 4) := by
    rw [Replied, htx]; rfl
  have hdata : t.dir.frz.frzData = BitVec.ofNat 32 (leNat
      (if (dirStart s.dir).frz.frozen then (spiData s.mem (dirStart s.dir) (a.getD s.dir.frz.frzAddr).toNat 4 0).2 else zeros 4)) := by
    rw [h.frz]; rfl
  refine ⟨t, hnext, by rw [h.frz]; rfl, h.mem_of_quiet rfl, fun hno => ?_, fun hyes => ?_⟩
  · rw [if_neg (by simp [dirStart, hno])] at hreply hdata
    exact ⟨hreply, by rw [hdata]; rfl⟩
  · rw [if_pos (by simp [dirStart, hyes])] at hreply hdata
    have hlen := spiData_length s.mem (dirStart s.dir) (a.getD s.dir.frz.frzAddr).toNat 4 0
    refine ⟨_, hlen, hreply, ?_⟩
    have hlt := leNat_lt (spiData s.mem (dirStart s.dir) (a.getD s.dir.frz.frzAddr).toNat 4 0).2
    rw [hlen] at hlt
    rw [hdata, BitVec.toNat_ofNat, Nat.mod_eq_of_lt (hlt.trans_eq (by norm_num))]

/-- Settles O54, command by command: the causes, the limit and the end of the drain, and the readout. -/
theorem freezing : Obligations.Freezing := by
  unfold Obligations.Freezing
  refine ⟨fun s held hreset hfreezable hcause hfrozen => freezeNLow_starts hreset hfreezable hcause hfrozen held,
    fun s harmed hfreezable hcause hfrozen => diagFreezeStart_starts harmed hfreezable hcause hfrozen,
    fun s i hdrain hmode hlock hlate hseg => ?_, fun s us hdrain hend => ?_, frzDataCapture_reads⟩
  · obtain ⟨t, hnext, h⟩ := freezeDrainLimit_reaches hdrain hmode hlock hlate
    obtain ⟨hstopped, hclosed, hcode, hat⟩ := closeAtLimit_closes (d := dirStart s.dir) hseg
    exact ⟨t, hnext, by rw [h.rcd]; exact hstopped, by rw [segMode, h.rcd]; exact hclosed, by rw [h.frz]; exact hcode, by rw [h.frz]; exact hat⟩
  · obtain ⟨t, d, hnext, h, hcause⟩ := freezeDrainEnd_reaches hdrain hend us
    obtain ⟨hstate, hfrozen, hdraining, hkept, htrees, hkey, hkeys, halive, hpps, hlock, hheader⟩ := enterFrozen_frozen d s.fresh us
    exact ⟨t, hnext, by rw [h.boot]; exact hstate, by rw [h.frz]; exact hfrozen, by rw [h.frz]; exact hdraining, by rw [h.frz, hkept, hcause],
      by rw [h.sec]; exact htrees, by rw [h.sec]; exact hkey, fun id => by rw [h.cellRec]; exact hkeys id, by rw [h.pins]; exact halive,
      by rw [h.pins]; exact hpps, by rw [h.time]; exact hlock, by rw [h.frz]; exact hheader⟩

end Sys2Proof.Machine
end

section
/-! PROOF. The cycle start settled (R34, R332 to R335, R549). -/

namespace Sys2Proof.Machine

/-! What a start tick does beside the clock -/

section
variable {β : Type} {view : Director → β}

theorem stageCell_view (hview : ∀ d p c, view { d with ports := p, cells := c } = view d)
    (d : Director) (id : Nat) (b : Cycle) (runs : List (Nat × List Nat)) : view (stageCell d id b runs) = view d := by
  unfold stageCell
  refine ite_keeps rfl ((foldl_keeps (fun d _ => mgmtTo_view (fun d n f => hview d _ d.cells) d ..) runs _).trans ?_)
  exact hview d d.ports _

theorem stageDue_view (hview : ∀ d p c g, view { d with ports := p, cells := c, cfg := g } = view d) (d : Director) : view (stageDue d) = view d := by
  unfold stageDue
  split
  · next b _ =>
    exact ite_keeps rfl (foldl_keeps (fun d id => stageCell_view (fun d p c => hview d p c d.cfg) d id b.b _) _ d)
  · split
    · exact ite_keeps (hview d _ _ _) rfl
    · rfl

/-- What a new key's first cycle leaves: all but the keys, the ports, and the answers to the commands that asked (R597, R599). -/
theorem applyKeys_view (hview : ∀ d m h r p s, view { d with mbs := m, host := h, ring := r, ports := p, sec := s } = view d) (d : Director) :
    view (applySkKey (applyTreeKeys d)) = view d := by
  have hanswer : ∀ d n st pl, view (respond d n st pl) = view d := respond_view fun d m h r => hview d m h r d.ports d.sec
  have hsec : ∀ d s, view { d with sec := s } = view d := fun d s => hview d d.mbs d.host d.ring d.ports s
  have hport : ∀ d n f, view (modPort d n f) = view d := fun d n f => hview d d.mbs d.host d.ring _ d.sec
  have hrekey : ∀ d n, view (rekeyAnswer d n) = view d := fun d n => by
    unfold rekeyAnswer
    split
    · rfl
    · refine ite_keeps (hport d n _) ?_
      split
      · exact (hanswer ..).trans (hport d n _)
      · exact hport d n _
  have htrees : view (applyTreeKeys d) = view d := foldl_keeps (fun d n => by
    split
    · exact ite_keeps rfl ((hrekey _ n).trans (hsec d _))
    · rfl) _ d
  refine Eq.trans ?_ htrees
  unfold applySkKey
  split
  · refine ite_keeps rfl ((foldl_keeps (fun d mb => ?_) _ _).trans (hsec _ _))
    split
    · exact ite_keeps (hanswer ..) rfl
    · rfl
  · rfl

theorem recSample_view (hview : ∀ d r, view { d with rcd := r } = view d) (d : Director) (k : Cycle) : view (recSample d k) = view d := by
  unfold recSample
  exact ite_keeps rfl (ite_keeps (hview d _) (hview d _))

theorem drainAll_view (hview : ∀ d k x, view { d with sk := k, tx := x } = view d) (d : Director) : view (drainAll d) = view d :=
  foldl_keeps (fun d _ => drainControl_view hview d) _ d

theorem countTwinDiff_view (hview : ∀ d r n, view { d with ring := r, time := { d.time with twinDiff := n } } = view d) (d : Director) :
    view (countTwinDiff d) = view d :=
  ite_keeps ((raiseLim_view (fun d r => hview d r d.time.twinDiff) ..).trans (hview d d.ring _)) rfl

end

/-- What a start tick does once the clock has moved. -/
def cycleBegun (d : Director) : Director :=
  let d := fixLengths d
  let d := applySkKey (applyTreeKeys (applyCells d))
  let d := modSk d fun k => { k with lanes := k.lanes.map fun (p, l) => (p, { l with fseq := 0 }) }
  let d := drainAll (stageDue d)
  recSample (countTwinDiff d) (cyc d - 2)

/-- It leaves of time what it does not fix for the cycle that begins. -/
theorem cycleBegun_view {β : Type} {view : TimeState → β} (hview : ∀ t l n x, view { t with len := l, lenNext := n, twinDiff := x } = view t)
    (d : Director) : view (cycleBegun d).time = view d.time := by
  unfold cycleBegun
  refine (recSample_view (view := fun d => view d.time) (fun _ _ => rfl) ..).trans ?_
  refine (countTwinDiff_view (view := fun d => view d.time) (fun d r n => hview d.time d.time.len d.time.lenNext n) _).trans ?_
  refine (drainAll_view (view := fun d => view d.time) (fun _ _ _ => rfl) _).trans ?_
  refine (stageDue_view (view := fun d => view d.time) (fun _ _ _ _ => rfl) _).trans ?_
  refine (applyKeys_view (view := fun d => view d.time) (fun _ _ _ _ _ _ => rfl) _).trans ?_
  exact hview d.time _ _ d.time.twinDiff

theorem cycleStart_reaches {s : State} (hworks : works s.dir = true) :
    ∃ t, exec .cycleStart s = .next t ∧ Reached s t (let d := keepFlags (dirStart s.dir)
      let d := if d.time.running then advanceCycle d else advanceIdle d
      if !d.time.running then d else cycleBegun d) :=
  onDir_reaches (o := execCycleStart s) rfl (if_neg (by rw [show works (dirStart s.dir) = true from hworks]; simp))

theorem keepFlags_idle {d : Director} (h : d.time.running = false) : keepFlags d = d := if_pos (by rw [h]; rfl)

theorem keepFlags_time (d : Director) : (keepFlags d).time = d.time := ite_keeps (view := Director.time) rfl rfl

/-- Cycle numbers run: the clock moves by the cycle that ends (R34, R335). -/
theorem cycleStart_running {s : State} (hworks : works s.dir = true) (hrun : s.dir.time.running = true) :
    ∃ t d, exec .cycleStart s = .next t ∧ Reached s t (cycleBegun d) ∧ d.time.cycle = s.dir.time.cycle + 1
      ∧ d.time.raw = s.dir.time.raw + s.dir.time.len ∧ d.time.now = s.dir.time.now + s.dir.time.len * tickInc s.dir.time.c
      ∧ d.time.c = s.dir.time.cNext ∧ d.time.starts = s.dir.time.starts + 1 := by
  obtain ⟨t, hnext, h⟩ := cycleStart_reaches hworks
  have htime : (keepFlags (dirStart s.dir)).time = s.dir.time := keepFlags_time _
  generalize keepFlags (dirStart s.dir) = e at h htime
  have hrun' : e.time.running = true := by rw [htime]; exact hrun
  have hgoes : ¬ (!(advanceCycle e).time.running) = true := by
    rw [show (advanceCycle e).time.running = e.time.running from rfl, hrun']; decide
  dsimp only at h
  rw [if_pos hrun', if_neg hgoes] at h
  exact ⟨t, _, hnext, h, by rw [← htime]; rfl, by rw [← htime]; rfl, by rw [← htime]; rfl, by rw [← htime]; rfl, by rw [← htime]; rfl⟩

theorem cycleStart_idle {s : State} (hworks : works s.dir = true) (hrun : s.dir.time.running = false) :
    ∃ t, exec .cycleStart s = .next t ∧ Reached s t
      (if !(advanceIdle (dirStart s.dir)).time.running then advanceIdle (dirStart s.dir) else cycleBegun (advanceIdle (dirStart s.dir))) := by
  obtain ⟨t, hnext, h⟩ := cycleStart_reaches hworks
  have hrun' : (dirStart s.dir).time.running = false := hrun
  dsimp only at h
  rw [keepFlags_idle hrun', if_neg (show ¬ (dirStart s.dir).time.running = true by rw [hrun']; decide)] at h
  exact ⟨t, hnext, h⟩

/-- Without a bake only a period passes (R34, assumption 14). -/
theorem advanceIdle_unbaked {d : Director} (h : d.cfg.baked = false) :
    advanceIdle d = modTime d fun t => shiftC (elapse t (planN (cfg d))) := by
  unfold advanceIdle
  rw [h]
  rfl

theorem planUnits_nonneg (d : Director) : 0 ≤ planUnits d := mul_nonneg (Int.natCast_nonneg _) (by decide)

/-- An epoch that has passed starts the cycle numbers at its grid's next point (R549). -/
theorem advanceIdle_epoch {d : Director} {e : Int} (hbaked : d.cfg.baked = true) (hepoch : d.time.epoch = some e) (hpast : e ≤ d.time.now) :
    ∃ t, advanceIdle d = modTime d (fun _ => t) ∧ t.running = true ∧ t.cycle = BitVec.ofInt 32 ((d.time.now - e) / planUnits d + 1)
      ∧ t.grid = e + ((d.time.now - e) / planUnits d + 1) * planUnits d ∧ t.starts = d.time.starts + 1 := by
  have heff : (if d.cfg.baked = true then d.time.epoch else none) = some e := (if_pos hbaked).trans hepoch
  unfold advanceIdle
  dsimp only
  rw [heff]
  have hpos : 0 ≤ (d.time.now - e) / planUnits d := Int.ediv_nonneg (by omega) (planUnits_nonneg d)
  dsimp only
  rw [if_neg (not_lt.mpr hpast), if_neg]
  · exact ⟨_, rfl, rfl, rfl, rfl, rfl⟩
  · rw [Bool.and_eq_true, decide_eq_true_eq]
    omega

/-- Settles O32: the clock at a start tick with cycle numbers, before them, and at the first of them. -/
theorem cyclesStart : Obligations.CyclesStart := by
  unfold Obligations.CyclesStart
  refine ⟨fun s hworks hrun => ?_, fun s hworks hrun hbaked => ?_, fun s e hworks hrun hbaked hepoch hpast => ?_⟩
  · obtain ⟨t, d, hnext, h, hcycle, hraw, hnow, hc, hstarts⟩ := cycleStart_running hworks hrun
    have hkept := cycleBegun_view (view := fun t => (t.cycle, t.raw, t.now, t.c, t.starts)) (fun _ _ _ _ => rfl) d
    rw [← h.time] at hkept
    simp only [Prod.mk.injEq] at hkept
    obtain ⟨h1, h2, h3, h4, h5⟩ := hkept
    exact ⟨t, hnext, h1.trans hcycle, h2.trans hraw, h3.trans hnow, h4.trans hc, h5.trans hstarts⟩
  · obtain ⟨t, hnext, h⟩ := cycleStart_idle hworks hrun
    rw [advanceIdle_unbaked (d := dirStart s.dir) hbaked, if_pos (by
      show (!s.dir.time.running) = true
      rw [hrun]; rfl)] at h
    exact ⟨t, hnext, by rw [h.time]; exact hrun, by rw [cyc, h.time]; rfl, by rw [h.time]; rfl, by rw [h.arms]; rfl, h.mem_of_quiet rfl⟩
  · obtain ⟨t, hnext, h⟩ := cycleStart_idle hworks hrun
    obtain ⟨x, hidle, hgoes, hcycle, hgrid, hstarts⟩ := advanceIdle_epoch (d := dirStart s.dir) hbaked hepoch hpast
    rw [hidle, if_neg (by rw [modTime_time, hgoes]; decide)] at h
    have hkept := cycleBegun_view (view := fun t => (t.running, t.cycle, t.grid, t.starts)) (fun _ _ _ _ => rfl) (modTime (dirStart s.dir) fun _ => x)
    rw [← h.time] at hkept
    simp only [Prod.mk.injEq] at hkept
    obtain ⟨h1, h2, h3, h4⟩ := hkept
    exact ⟨t, hnext, h1.trans hgoes, h2.trans hcycle, h3.trans hgrid, h4.trans hstarts⟩

end Sys2Proof.Machine
end

section
/-! PROOF. The mirror deadline settled (R311, R314, R315, R319, R323). -/

namespace Sys2Proof.Machine

/-! Mode changes, as a whole -/

section
variable {β : Type} {view : Director → β} (hview : ∀ d r x, view { d with ring := r, arms := x } = view d)
include hview

theorem modArm_view (d : Director) (a : Nat) (f : Arm → Arm) : view (modArm d a f) = view d := hview d d.ring _

theorem raiseArms_view (d : Director) (source detail : Nat) (data : List Byte) : view (raise d source detail data) = view d :=
  raise_view (fun d r => hview d r d.arms) d source detail data

theorem endInjection_view (d : Director) (a : Nat) : view (endInjection d a) = view d := by
  unfold endInjection
  split
  · rfl
  · exact (raiseArms_view hview ..).trans (modArm_view hview ..)

theorem changeMode_view (d : Director) (a : Nat) (m : ArmMode) (cause : Nat) : view (changeMode d a m cause) = view d :=
  ite_keeps rfl ((raiseArms_view hview ..).trans ((modArm_view hview ..).trans (endInjection_view hview d a)))

theorem enterBlocked_view (d : Director) (a cause : Nat) : view (enterBlocked d a cause) = view d :=
  (modArm_view hview ..).trans (changeMode_view hview d a _ cause)

theorem setSync_view (d : Director) (a : Nat) : view (setSync d a) = view d :=
  ite_keeps ((raiseArms_view hview ..).trans (modArm_view hview ..)) rfl

theorem followMirror_view (d : Director) (a : Nat) (x : ArmMirror) : view (followMirror d a x) = view d := by
  have hmode : view (if x.mode = .blocked then (if (arm d a).mode = .blocked then d else enterBlocked d a 4) else changeMode d a x.mode 4) = view d :=
    ite_keeps (ite_keeps rfl (enterBlocked_view hview ..)) (changeMode_view hview ..)
  exact ite_keeps hmode ((modArm_view hview ..).trans hmode)

end

section
variable {β : Type} {view : Arm → β}

theorem endInjection_arm_view (hview : ∀ x i, view { x with inj := i } = view x) (d : Director) (a b : Nat) :
    view (arm (endInjection d a) b) = view (arm d b) := by
  unfold endInjection
  split
  · rfl
  · rw [raise_arm]
    exact arm_modArm_view (fun x => hview x none) d a b

theorem changeMode_arm_view (hview : ∀ x i m r, view { x with inj := i, mode := m, ramp := r } = view x) (d : Director) (a : Nat) (m : ArmMode)
    (cause b : Nat) : view (arm (changeMode d a m cause) b) = view (arm d b) := by
  refine ite_keeps (view := fun d => view (arm d b)) rfl ?_
  rw [modeEvent, raise_arm]
  exact (arm_modArm_view (fun x => hview x x.inj _ _) _ a b).trans (endInjection_arm_view (fun x i => hview x i x.mode x.ramp) d a b)

theorem enterBlocked_arm_view (hview : ∀ x i m r o, view { x with inj := i, mode := m, ramp := r, outs := o } = view x) (d : Director)
    (a cause b : Nat) : view (arm (enterBlocked d a cause) b) = view (arm d b) :=
  (arm_modArm_view (fun x => hview x x.inj x.mode x.ramp _) _ a b).trans (changeMode_arm_view (fun x i m r => hview x i m r x.outs) d a _ cause b)

/-- SYNC and what it counts are all that its check sets (R315). -/
theorem setSync_arm_view (hview : ∀ x s l, view { x with sync := s, slowSeen := l } = view x) (d : Director) (a b : Nat) :
    view (arm (setSync d a) b) = view (arm d b) := by
  refine ite_keeps (view := fun d => view (arm d b)) ?_ rfl
  rw [raise_arm]
  exact arm_modArm_view (fun x => hview x _ _) d a b

end

/-! One arm at the deadline -/

/-- The mode of a mirror that is followed, at the arm that follows it (R323). -/
def modeFollowed (d : Director) (a : Nat) (m : ArmMode) : Director :=
  if m = .blocked then (if (arm d a).mode = .blocked then d else enterBlocked d a 4) else changeMode d a m 4

theorem modeFollowed_mode (d : Director) (a : Nat) (m : ArmMode) : (arm (modeFollowed d a m) a).mode = m := by
  unfold modeFollowed
  split
  · next hm =>
    split
    · next hb => rw [hm]; exact hb
    · rw [hm]; exact enterBlocked_mode d a 4
  · exact changeMode_mode d a m 4

theorem modeFollowed_arm_view {β : Type} {view : Arm → β} (hview : ∀ x i m r o, view { x with inj := i, mode := m, ramp := r, outs := o } = view x)
    (d : Director) (a : Nat) (m : ArmMode) (b : Nat) : view (arm (modeFollowed d a m) b) = view (arm d b) :=
  ite_keeps (view := fun d => view (arm d b)) (ite_keeps (view := fun d => view (arm d b)) rfl (enterBlocked_arm_view hview ..))
    (changeMode_arm_view (fun x i m r => hview x i m r x.outs) ..)

theorem modeFollowed_arm_other (d : Director) {a b : Nat} (h : b ≠ a) (m : ArmMode) : arm (modeFollowed d a m) b = arm d b :=
  ite_keeps (view := (arm · b)) (ite_keeps (view := (arm · b)) rfl (enterBlocked_arm_other d h 4)) (changeMode_arm_other d a m 4 h)

/-- The settings that an AUTHORITY's full arm block hands to the arm that follows it (R310). -/
def settingsFollowed (c : Cfg) (a : Nat) (x : ArmMirror) (y : Arm) : Arm :=
  let v (o n : Nat) : List F32 := (List.range n).map fun i => BitVec.ofNat 32 (beAt x.bytes (o + 4 * i) 4)
  { y with
    uMan := if x.mode = .manual then v 144 (dimM c a) else y.uMan
    uHold := if x.mode = .hold then v 144 (dimM c a) else y.uHold
    rEff := v 176 (dimR c a) }

theorem followMirror_eq (d : Director) (a : Nat) (x : ArmMirror) : followMirror d a x =
    if !x.full || x.role != .authority then modeFollowed d a x.mode
    else modArm (modeFollowed d a x.mode) a (settingsFollowed (cfg (modeFollowed d a x.mode)) a x) := rfl

theorem followMirror_mode (d : Director) (a : Nat) (x : ArmMirror) : (arm (followMirror d a x) a).mode = x.mode := by
  rw [followMirror_eq]
  refine ite_keeps (view := fun d => (arm d a).mode) (modeFollowed_mode ..) ?_
  exact (arm_modArm_view (view := Arm.mode) (f := settingsFollowed _ a x) (fun _ => rfl) _ a a).trans (modeFollowed_mode ..)

theorem followMirror_arm_view {β : Type} {view : Arm → β} (hview : ∀ x i m r o u v e, view { x with
      inj := i, mode := m, ramp := r, outs := o, uMan := u, uHold := v, rEff := e } = view x) (d : Director) (a : Nat) (x : ArmMirror) (b : Nat) :
    view (arm (followMirror d a x) b) = view (arm d b) := by
  have hmode := modeFollowed_arm_view (view := view) (fun y i m r o => hview y i m r o y.uMan y.uHold y.rEff) d a x.mode b
  rw [followMirror_eq]
  refine ite_keeps (view := fun d => view (arm d b)) hmode ?_
  exact (arm_modArm_view (fun y => hview y y.inj y.mode y.ramp y.outs _ _ _) _ a b).trans hmode

theorem followMirror_arm_other (d : Director) {a b : Nat} (h : b ≠ a) (x : ArmMirror) : arm (followMirror d a x) b = arm d b := by
  rw [followMirror_eq]
  exact ite_keeps (view := (arm · b)) (modeFollowed_arm_other d h _) ((arm_modArm_other _ h _).trans (modeFollowed_arm_other d h _))

theorem setSync_arm_other (d : Director) {a b : Nat} (h : b ≠ a) : arm (setSync d a) b = arm d b :=
  ite_keeps (view := (arm · b)) ((raise_arm ..).trans (arm_modArm_other d h _)) rfl

/-- The mirror that an arm finds at its deadline (R312, R314). -/
def mirrorFound (d : Director) (a : Nat) (k : Cycle) (conv : Option (List Byte)) : Option ArmMirror :=
  match conv, twinBlock d a k with
  | some cv, some b =>
    if byteAt b 0 != a || 5 < byteAt b 1 || 3 < byteAt b 2 then none else
    some { cycle := k, mode := modeOf (byteAt b 1), role := roleOf (byteAt b 2), full := bit (byteAt cv 14) 0 && b.length = 2688, bytes := b }
  | _, _ => none

/-- An arm's mirror is kept, with the role and the mode that it brings (R314). -/
def mirrorHeld (d : Director) (a : Nat) (x : ArmMirror) : Director :=
  modSk (modArm d a fun y => { y with mirror := some x }) fun s => { s with
    twinRole := tset a (roleCode x.role) s.twinRole, twinMode := tset a (modeCode x.mode) s.twinMode }

theorem mirrorHeld_arm (d : Director) (a : Nat) (x : ArmMirror) : arm (mirrorHeld d a x) a = { arm d a with mirror := some x } :=
  arm_modArm d a fun y => { y with mirror := some x }

theorem mirrorHeld_arm_other (d : Director) {a b : Nat} (h : b ≠ a) (x : ArmMirror) : arm (mirrorHeld d a x) b = arm d b :=
  arm_modArm_other d h fun y => { y with mirror := some x }

/-- What the mirror found brings: it is kept and, by a director that is not AUTHORITY, followed (R323). -/
def mirrorTaken (d : Director) (a : Nat) (m : Option ArmMirror) : Director :=
  match m with
  | some x =>
    if (arm (mirrorHeld d a x) a).role = .shadow || (arm (mirrorHeld d a x) a).role = .cold then followMirror (mirrorHeld d a x) a x
    else mirrorHeld d a x
  | none => d

/-- A mirror that was missed (R314, R319). -/
def mirrorMissed (d : Director) (a : Nat) : Director :=
  if !d.sk.twinAlive then setSync d a else
  let d := modCntA d a fun t => { t with mirrorMiss := satInc t.mirrorMiss }
  let d := raiseLim d (limKey (56 + a) 0x19 0) (56 + a) 0x19 (b4 (arm d a).cnt.mirrorMiss.toNat)
  let run := (arm d a).missRun + 1
  if missMax (cfg d) a ≤ run then modArm d a fun y => { y with missRun := run, sync := false, slowSeen := [] }
  else setSync (modArm d a fun y => { y with missRun := run }) a

/-- What an arm's deadline notes of it. -/
def mirrorNoted (d : Director) (a : Nat) (missed accepted : Bool) (idx : Nat) : Director :=
  modArm d a fun y => { y with
    missed := missed, goodRun := if accepted then y.goodRun + 1 else 0
    slowSeen := if !accepted || y.sync || y.slowSeen.contains idx || 512 ≤ idx then y.slowSeen else idx :: y.slowSeen }

theorem mirrorArm_eq (d : Director) (a : Nat) (k : Cycle) (conv : Option (List Byte)) : ∃ missed accepted idx,
    missed = (!(match mirrorFound d a k conv with | some x => x.full | none => false) || twinDiffers d)
    ∧ accepted = (mirrorFound d a k conv).isSome
    ∧ mirrorArm d a k conv =
      (let e := mirrorNoted (mirrorTaken d a (mirrorFound d a k conv)) a missed accepted idx
       if missed then mirrorMissed e a else setSync (modArm e a fun y => { y with missRun := 0 }) a) :=
  ⟨_, _, _, rfl, rfl, rfl⟩

theorem mirrorMissed_view {β : Type} {view : Director → β} (hview : ∀ d r x, view { d with ring := r, arms := x } = view d) (d : Director) (a : Nat) :
    view (mirrorMissed d a) = view d := by
  have hcounted : view (raiseLim (modCntA d a fun t => { t with mirrorMiss := satInc t.mirrorMiss }) (limKey (56 + a) 0x19 0) (56 + a) 0x19
      (b4 (arm (modCntA d a fun t => { t with mirrorMiss := satInc t.mirrorMiss }) a).cnt.mirrorMiss.toNat)) = view d :=
    (raiseLim_view (fun d r => hview d r d.arms) ..).trans (modArm_view hview ..)
  refine ite_keeps (setSync_view hview ..) (ite_keeps ((modArm_view hview ..).trans hcounted) ?_)
  exact (setSync_view hview ..).trans ((modArm_view hview ..).trans hcounted)

theorem raiseLim_arm (d : Director) (key source detail : Nat) (data : List Byte) (a : Nat) : arm (raiseLim d key source detail data) a = arm d a :=
  raiseLim_view (view := (arm · a)) (fun _ _ => rfl) ..

/-- What of an arm a miss leaves, and that it is counted while the twin is alive (R319). -/
theorem mirrorMissed_arm_view {β : Type} {view : Arm → β} (hview : ∀ x c m s l, view { x with
      cnt := { x.cnt with mirrorMiss := c }, missRun := m, sync := s, slowSeen := l } = view x) (d : Director) (a b : Nat) :
    view (arm (mirrorMissed d a) b) = view (arm d b) := by
  have hsync : ∀ x s l, view { x with sync := s, slowSeen := l } = view x := fun x s l => hview x x.cnt.mirrorMiss x.missRun s l
  have hcounted : ∀ key data, view (arm (raiseLim (modCntA d a fun t => { t with mirrorMiss := satInc t.mirrorMiss }) key (56 + a) 0x19 data) b)
      = view (arm d b) := fun key data => by
    rw [raiseLim_arm]
    exact arm_modArm_view (fun x => hview x _ x.missRun x.sync x.slowSeen) d a b
  refine ite_keeps (view := fun d => view (arm d b)) (setSync_arm_view hsync ..) (ite_keeps (view := fun d => view (arm d b)) ?_ ?_)
  · exact (arm_modArm_view (fun x => hview x x.cnt.mirrorMiss _ _ _) _ a b).trans (hcounted ..)
  · exact (setSync_arm_view hsync ..).trans ((arm_modArm_view (fun x => hview x x.cnt.mirrorMiss _ x.sync x.slowSeen) _ a b).trans (hcounted ..))

theorem mirrorMissed_counts (d : Director) (a : Nat) :
    (arm (mirrorMissed d a) a).cnt.mirrorMiss = if d.sk.twinAlive then satInc (arm d a).cnt.mirrorMiss else (arm d a).cnt.mirrorMiss := by
  have hsync := fun d => setSync_arm_view (view := (·.cnt.mirrorMiss)) (fun _ _ _ => rfl) d a a
  have hcounted : ∀ key data, (arm (raiseLim (modCntA d a fun t => { t with mirrorMiss := satInc t.mirrorMiss }) key (56 + a) 0x19 data) a).cnt.mirrorMiss
      = satInc (arm d a).cnt.mirrorMiss := fun key data => by
    rw [raiseLim_arm]
    exact congrArg (fun x : Arm => x.cnt.mirrorMiss) (arm_modArm ..)
  unfold mirrorMissed
  by_cases halive : d.sk.twinAlive = true
  · rw [if_neg (by simp [halive]), if_pos halive]
    refine ite_keeps (view := fun d => (arm d a).cnt.mirrorMiss) ?_ ?_
    · exact (congrArg (fun x : Arm => x.cnt.mirrorMiss) (arm_modArm ..)).trans (hcounted ..)
    · exact (hsync _).trans ((congrArg (fun x : Arm => x.cnt.mirrorMiss) (arm_modArm ..)).trans (hcounted ..))
  · rw [if_pos (by simp [halive]), if_neg halive]
    exact hsync d

theorem mirrorMissed_arm_other (d : Director) {a b : Nat} (h : b ≠ a) : arm (mirrorMissed d a) b = arm d b := by
  have hcounted : ∀ key data, arm (raiseLim (modCntA d a fun t => { t with mirrorMiss := satInc t.mirrorMiss }) key (56 + a) 0x19 data) b = arm d b :=
    fun key data => by rw [raiseLim_arm]; exact arm_modArm_other d h _
  refine ite_keeps (view := (arm · b)) (setSync_arm_other d h) (ite_keeps (view := (arm · b)) ((arm_modArm_other _ h _).trans (hcounted ..)) ?_)
  exact (setSync_arm_other _ h).trans ((arm_modArm_other _ h _).trans (hcounted ..))

theorem mirrorTaken_arm_other (d : Director) {a b : Nat} (h : b ≠ a) (m : Option ArmMirror) : arm (mirrorTaken d a m) b = arm d b := by
  unfold mirrorTaken
  split
  · exact ite_keeps (view := (arm · b)) ((followMirror_arm_other _ h _).trans (mirrorHeld_arm_other d h _)) (mirrorHeld_arm_other d h _)
  · rfl

theorem mirrorTaken_view {β : Type} {view : Director → β} (hview : ∀ d r x w m, view { d with
      ring := r, arms := x, sk := { d.sk with twinRole := w, twinMode := m } } = view d) (d : Director) (a : Nat) (m : Option ArmMirror) :
    view (mirrorTaken d a m) = view d := by
  have harms : ∀ d r x, view { d with ring := r, arms := x } = view d := fun d r x => hview d r x d.sk.twinRole d.sk.twinMode
  unfold mirrorTaken
  split
  · next x =>
    have hsk : view (mirrorHeld d a x) = view d :=
      (hview _ d.ring _ _ _).trans (modArm_view harms ..)
    exact ite_keeps ((followMirror_view harms ..).trans hsk) hsk
  · rfl

/-- An arm's deadline leaves the others (R312). -/
theorem mirrorArm_arm_other (d : Director) {a b : Nat} (h : b ≠ a) (k : Cycle) (conv : Option (List Byte)) : arm (mirrorArm d a k conv) b = arm d b := by
  obtain ⟨missed, accepted, idx, -, -, heq⟩ := mirrorArm_eq d a k conv
  have hnoted : arm (mirrorNoted (mirrorTaken d a (mirrorFound d a k conv)) a missed accepted idx) b = arm d b :=
    (arm_modArm_other _ h _).trans (mirrorTaken_arm_other d h _)
  rw [heq]
  exact ite_keeps (view := (arm · b)) ((mirrorMissed_arm_other _ h).trans hnoted)
    ((setSync_arm_other _ h).trans ((arm_modArm_other _ h _).trans hnoted))

theorem mirrorArm_view {β : Type} {view : Director → β} (hview : ∀ d r x w m, view { d with
      ring := r, arms := x, sk := { d.sk with twinRole := w, twinMode := m } } = view d) (d : Director) (a : Nat) (k : Cycle)
    (conv : Option (List Byte)) : view (mirrorArm d a k conv) = view d := by
  have harms : ∀ d r x, view { d with ring := r, arms := x } = view d := fun d r x => hview d r x d.sk.twinRole d.sk.twinMode
  obtain ⟨missed, accepted, idx, -, -, heq⟩ := mirrorArm_eq d a k conv
  have hnoted : view (mirrorNoted (mirrorTaken d a (mirrorFound d a k conv)) a missed accepted idx) = view d :=
    (modArm_view harms ..).trans (mirrorTaken_view hview ..)
  rw [heq]
  exact ite_keeps ((mirrorMissed_view harms ..).trans hnoted) ((setSync_view harms ..).trans ((modArm_view harms ..).trans hnoted))

/-- A fold over the arms, seen at one of them: the step of that arm, at a director that agrees with the first. -/
theorem foldl_arm_once {β : Type} {view : Director → β} {f : Director → Nat → Director} {a : Nat}
    (hother : ∀ d b, b ≠ a → arm (f d b) a = arm d a) (hview : ∀ d b, view (f d b) = view d) {l : List Nat} (hl : l.Nodup) (ha : a ∈ l)
    (d : Director) : ∃ e, arm e a = arm d a ∧ view e = view d ∧ arm (l.foldl f d) a = arm (f e a) a := by
  induction l generalizing d with
  | nil => exact absurd ha List.not_mem_nil
  | cons b r ih =>
    obtain ⟨hb, hr⟩ := List.nodup_cons.mp hl
    by_cases hab : a = b
    · subst hab
      refine ⟨d, rfl, rfl, ?_⟩
      rw [List.foldl_cons]
      exact foldl_keeps_of_mem (view := (arm · a)) (fun x hx d => hother d x fun h => hb (h ▸ hx)) _
    · obtain ⟨e, harm, hsame, hfold⟩ := ih hr ((List.mem_cons.mp ha).resolve_left hab) (f d b)
      exact ⟨e, harm.trans (hother d b fun h => hab h.symm), hsame.trans (hview d b), hfold⟩

/-! The deadline -/

theorem takeSlow_view {β : Type} {view : Director → β} (hview : ∀ d c, view { d with cells := c } = view d) (d : Director) (conv : List Byte) :
    view (takeSlow d conv) = view d :=
  foldl_keeps (fun d _ => ite_keeps rfl (foldl_keeps (fun d _ => hview d _) _ d)) _ d

/-- What the deadline does once its arms are through. -/
def slowTaken (d : Director) (k : Cycle) (conv : Option (List Byte)) : Director :=
  match conv with
  | some cv => takeSlow (modSk d fun s => { s with lastMirror := some k }) cv
  | none => d

theorem slowTaken_arm (d : Director) (k : Cycle) (conv : Option (List Byte)) (a : Nat) : arm (slowTaken d k conv) a = arm d a := by
  unfold slowTaken
  split
  · exact takeSlow_view (view := (arm · a)) (fun _ _ => rfl) ..
  · rfl

theorem slowTaken_lastMirror (d : Director) (k : Cycle) (cv : List Byte) : (slowTaken d k (some cv)).sk.lastMirror = some k :=
  takeSlow_view (view := (·.sk.lastMirror)) (fun _ _ => rfl) ..

theorem mirrorAccept_reaches {s : State} (hworks : works s.dir = true) (hrun : s.dir.time.running = true) :
    ∃ t, exec .mirrorAccept s = .next t ∧ Reached s t (slowTaken
      ((List.range 6).foldl (fun d a => mirrorArm d a (mirrorCycle s.dir) (twinBlock s.dir 0x10 (mirrorCycle s.dir))) (dirStart s.dir))
      (mirrorCycle s.dir) (twinBlock s.dir 0x10 (mirrorCycle s.dir))) := by
  have hbar : (!works (dirStart s.dir) || !(dirStart s.dir).time.running) = false := by
    rw [show works (dirStart s.dir) = true from hworks, show (dirStart s.dir).time.running = true from hrun]; rfl
  exact onDir_reaches (o := execMirrorAccept s) rfl (if_neg (Bool.eq_false_iff.mp hbar))

/-- What an arm's deadline reads beside the arm. -/
def deadlineView (a : Nat) (k : Cycle) (d : Director) : Option (List Byte) × Bool × Bool × Cfg := (twinBlock d a k, twinDiffers d, d.sk.twinAlive, cfg d)

/-- The arm after the deadline is as its own mirror step made it. -/
theorem mirrorAccept_arm {s t : State} {k : Cycle} {conv : Option (List Byte)} {a : Nat} (ha : a < 6)
    (h : Reached s t (slowTaken ((List.range 6).foldl (fun d a => mirrorArm d a k conv) (dirStart s.dir)) k conv)) :
    ∃ e, arm e a = arm s.dir a ∧ deadlineView a k e = deadlineView a k s.dir ∧ arm t.dir a = arm (mirrorArm e a k conv) a := by
  obtain ⟨e, harm, hsame, hfold⟩ := foldl_arm_once (view := deadlineView a k) (f := fun d a => mirrorArm d a k conv)
    (fun d b hb => mirrorArm_arm_other d hb.symm k conv) (fun d b => mirrorArm_view (fun _ _ _ _ _ => rfl) d b k conv)
    List.nodup_range (List.mem_range.mpr ha) (dirStart s.dir)
  exact ⟨e, harm, hsame, by rw [h.arm, slowTaken_arm, hfold]⟩

theorem mirrorFound_none {d : Director} {a : Nat} {k : Cycle} {conv : Option (List Byte)} (h : conv = none ∨ twinBlock d a k = none) :
    mirrorFound d a k conv = none := by
  unfold mirrorFound
  obtain h | h := h
  · rw [h]
  · rw [h]
    cases conv <;> rfl

theorem mirrorFound_full {d : Director} {a : Nat} {k : Cycle} {cv b : List Byte} (hb : twinBlock d a k = some b) (hbit : bit (byteAt cv 14) 0 = true)
    (hlen : b.length = 2688) (hself : byteAt b 0 = a) (hmode : byteAt b 1 ≤ 5) (hrole : byteAt b 2 ≤ 3) : mirrorFound d a k (some cv) =
    some { cycle := k, mode := modeOf (byteAt b 1), role := roleOf (byteAt b 2), full := true, bytes := b } := by
  unfold mirrorFound
  rw [hb]
  dsimp only
  rw [if_neg (by simp [hself, hmode, hrole]), hbit, decide_eq_true hlen]
  rfl

/-- An arm without a mirror of its step (R314, R319). -/
theorem mirrorArm_missed {d : Director} {a : Nat} {k : Cycle} {conv : Option (List Byte)} (h : mirrorFound d a k conv = none) :
    (arm (mirrorArm d a k conv) a).missed = true ∧ (arm (mirrorArm d a k conv) a).goodRun = 0 ∧ (arm (mirrorArm d a k conv) a).mode = (arm d a).mode
      ∧ (arm (mirrorArm d a k conv) a).mirror = (arm d a).mirror
      ∧ (arm (mirrorArm d a k conv) a).cnt.mirrorMiss = if d.sk.twinAlive then satInc (arm d a).cnt.mirrorMiss else (arm d a).cnt.mirrorMiss := by
  obtain ⟨missed, accepted, idx, hmissed, haccepted, heq⟩ := mirrorArm_eq d a k conv
  rw [h] at hmissed haccepted heq
  subst hmissed haccepted
  have hkept := mirrorMissed_arm_view (view := fun x => (x.missed, x.goodRun, x.mode, x.mirror)) (fun _ _ _ _ _ => rfl)
    (mirrorNoted d a true false idx) a a
  have hcount := mirrorMissed_counts (mirrorNoted d a true false idx) a
  have hnoted : arm (mirrorNoted d a true false idx) a = _ := arm_modArm ..
  rw [hnoted] at hkept hcount
  simp only [Prod.mk.injEq] at hkept
  obtain ⟨h1, h2, h3, h4⟩ := hkept
  have heq' : mirrorArm d a k conv = mirrorMissed (mirrorNoted d a true false idx) a := heq
  rw [heq']
  exact ⟨h1, h2, h3, h4, hcount⟩

theorem mirrorTaken_goodRun (d : Director) (a : Nat) (x : ArmMirror) : (arm (mirrorTaken d a (some x)) a).goodRun = (arm d a).goodRun := by
  have hkept : (arm (mirrorHeld d a x) a).goodRun = (arm d a).goodRun := by rw [mirrorHeld_arm]
  exact ite_keeps (view := fun d => (arm d a).goodRun) ((followMirror_arm_view (view := Arm.goodRun) (fun _ _ _ _ _ _ _ _ => rfl) ..).trans hkept) hkept

/-- A SHADOW or COLD director follows the mirror it takes (R323). -/
theorem mirrorTaken_follows {d : Director} {a : Nat} {x : ArmMirror} (hrole : (arm d a).role = .shadow ∨ (arm d a).role = .cold) :
    (arm (mirrorTaken d a (some x)) a).mode = x.mode ∧ (x.full = true → x.role = .authority → (arm (mirrorTaken d a (some x)) a).rEff =
      (List.range (dimR (cfg d) a)).map fun i => BitVec.ofNat 32 (beAt x.bytes (176 + 4 * i) 4)) := by
  have harm : (arm (mirrorHeld d a x) a).role = (arm d a).role := by rw [mirrorHeld_arm]
  have hcfg : cfg (mirrorHeld d a x) = cfg d := rfl
  unfold mirrorTaken
  dsimp only
  generalize mirrorHeld d a x = e at harm hcfg
  rw [if_pos (by rw [harm]; simpa using hrole)]
  refine ⟨followMirror_mode e a x, fun hfull hauth => ?_⟩
  rw [followMirror_eq, if_neg (by simp [hfull, hauth]), arm_modArm, settingsFollowed]
  have hmode : cfg (modeFollowed e a x.mode) = cfg e :=
    ite_keeps (view := cfg) (ite_keeps (view := cfg) rfl (enterBlocked_view (view := cfg) (fun _ _ _ => rfl) ..))
      (changeMode_view (view := cfg) (fun _ _ _ => rfl) ..)
  dsimp only
  rw [hmode, hcfg]

/-- An arm whose full mirror arrived (R312, R315, R323). -/
theorem mirrorArm_accepted {d : Director} {a : Nat} {k : Cycle} {conv : Option (List Byte)} {x : ArmMirror} (h : mirrorFound d a k conv = some x)
    (hfull : x.full = true) (hdiffers : twinDiffers d = false) :
    (arm (mirrorArm d a k conv) a).missed = false ∧ (arm (mirrorArm d a k conv) a).missRun = 0
      ∧ (arm (mirrorArm d a k conv) a).goodRun = (arm d a).goodRun + 1
      ∧ (((arm d a).role = .shadow ∨ (arm d a).role = .cold) → (arm (mirrorArm d a k conv) a).mode = x.mode
        ∧ (x.role = .authority → (arm (mirrorArm d a k conv) a).rEff =
          (List.range (dimR (cfg d) a)).map fun i => BitVec.ofNat 32 (beAt x.bytes (176 + 4 * i) 4))) := by
  obtain ⟨missed, accepted, idx, hmissed, haccepted, heq⟩ := mirrorArm_eq d a k conv
  rw [h] at hmissed haccepted heq
  have hmissed' : missed = false := by rw [hmissed, hdiffers]; show (!x.full || false) = false; rw [hfull]; rfl
  subst haccepted
  subst hmissed'
  have heq' : mirrorArm d a k conv = setSync (modArm (mirrorNoted (mirrorTaken d a (some x)) a false true idx) a fun y => { y with missRun := 0 }) a :=
    heq
  have hdone := setSync_arm_view (view := fun x => (x.missed, x.missRun, x.goodRun, x.mode, x.rEff)) (fun _ _ _ => rfl)
    (modArm (mirrorNoted (mirrorTaken d a (some x)) a false true idx) a fun y => { y with missRun := 0 }) a a
  rw [← heq', arm_modArm, mirrorNoted, arm_modArm] at hdone
  simp only [Prod.mk.injEq] at hdone
  obtain ⟨h1, h2, h3, h4, h5⟩ := hdone
  refine ⟨h1, h2, ?_, fun hrole => ?_⟩
  · rw [h3, mirrorTaken_goodRun]; rfl
  · obtain ⟨hmode, hset⟩ := mirrorTaken_follows (d := d) (a := a) (x := x) hrole
    exact ⟨h4.trans hmode, fun hauth => h5.trans (hset hfull hauth)⟩

/-- Settles O39: an arm without a mirror of its step, and one with a full one. -/
theorem mirrorDeadline : Obligations.MirrorDeadline := by
  unfold Obligations.MirrorDeadline
  refine ⟨fun s a ha hworks hrun hnone => ?_, fun s a cv b ha hworks hrun hdiffers hconv hblock hbit hlen hself hmode hrole => ?_⟩
  · obtain ⟨t, hnext, h⟩ := mirrorAccept_reaches hworks hrun
    obtain ⟨e, harm, hsame, hstep⟩ := mirrorAccept_arm ha h
    simp only [deadlineView, Prod.mk.injEq] at hsame
    obtain ⟨hblk, -, halive, -⟩ := hsame
    have hfound : mirrorFound e a (mirrorCycle s.dir) (twinBlock s.dir 0x10 (mirrorCycle s.dir)) = none :=
      mirrorFound_none (hnone.imp_right fun hb => hblk.trans hb)
    obtain ⟨hmissed, hgood, hkeptMode, hmirror, hcount⟩ := mirrorArm_missed hfound
    rw [harm] at hkeptMode hmirror hcount
    rw [halive] at hcount
    refine ⟨t, hnext, by rw [hstep]; exact hmissed, by rw [hstep]; exact hgood, by rw [hstep]; exact hkeptMode, by rw [hstep]; exact hmirror,
      fun hconv => ?_, by rw [hstep]; exact hcount⟩
    rw [hconv] at h
    rw [h.sk]
    exact foldl_keeps (view := (·.sk.lastMirror)) (fun d b => mirrorArm_view (view := (·.sk.lastMirror)) (fun _ _ _ _ _ => rfl) d b _ none) _ _
  · obtain ⟨t, hnext, h⟩ := mirrorAccept_reaches hworks hrun
    obtain ⟨e, harm, hsame, hstep⟩ := mirrorAccept_arm ha h
    simp only [deadlineView, Prod.mk.injEq] at hsame
    obtain ⟨hblk, hdiff, -, hcfg⟩ := hsame
    rw [hconv] at h hstep
    obtain ⟨hmissed, hrunZero, hgood, hfollow⟩ := mirrorArm_accepted (mirrorFound_full (hblk.trans hblock) hbit hlen hself hmode hrole) rfl
      (hdiff.trans hdiffers)
    rw [harm] at hgood hfollow
    rw [hcfg] at hfollow
    refine ⟨t, hnext, by rw [hstep]; exact hmissed, by rw [hstep]; exact hrunZero, by rw [hstep]; exact hgood,
      by rw [h.sk]; exact slowTaken_lastMirror .., fun hfollows => ?_⟩
    obtain ⟨hmodeSet, hset⟩ := hfollow hfollows
    exact ⟨by rw [hstep]; exact hmodeSet, fun h3 => by rw [hstep]; exact hset (by rw [h3]; rfl)⟩

end Sys2Proof.Machine
end

section
/-! PROOF. CFG_BAKE as a validation, its report and the digests settled (R441, R470 to R472). -/

namespace Sys2Proof.Machine

theorem reportBytes_length (r : BakeReport) : (reportBytes r).length = 40 := by
  have htimes : ∀ f : Nat → Nat, ((List.range 6).flatMap fun a => b2 (f a)).length = 12 := fun f =>
    (flatMap_length_const (k := 2) fun a _ => b2_length (f a)).trans (by simp)
  simp only [reportBytes, List.length_append, b1_length, b2_length, b4_length, zeros_length, toLE_length, htimes]

/-- A validation that passes answers what the configuration comes to (R441 step 1). -/
theorem startBake_passes {d : Director} (h : bakeFail d (stagedImage d) = none) (mb : Nat) (b : Cycle) :
    startBake d mb b true = answerBake d mb stOK (baseReport d (parseAll (stagedImage d))) := by
  unfold startBake
  dsimp only
  rw [h]
  rfl

/-- One that fails names the rule (R441 step 1). -/
theorem startBake_fails {d : Director} {f : BakeFail} (h : bakeFail d (stagedImage d) = some f) (mb : Nat) (b : Cycle) (validate : Bool) :
    startBake d mb b validate = answerBake d mb f.status { baseReport d (parseAll (stagedImage d)) with
      rule := f.rule, cond := f.cond, section_ := f.sec, instance_ := f.inst } := by
  unfold startBake
  dsimp only
  rw [h]

theorem stagedImage_open {d : Director} {i : Iface} (h : d.cfg.session = some i) : stagedImage d = d.cfg.staged := by
  rw [stagedImage, h]; rfl

/-- A session's own validation passes the checks before the bake rules (R442, R470). -/
theorem cfgBake_validates {s : State} {mb : Nat} {c : Cmd} (hdue : Due s mb 0x0203 c) (hsession : s.dir.cfg.session = some c.iface)
    (hbake : s.dir.cfg.bake = none) (hoffer : s.dir.cfg.offer = none) (hvalidate : byteAt c.payload 4 = 1) (hzero : allZero (sub c.payload 5 3) = true) :
    ∃ t, exec (.cfgBake mb) s = .next t ∧ Reached s t (startBake (dirStart s.dir) mb (BitVec.ofNat 32 (leAt c.payload 0 4)) true) := by
  have hbusy : stagingBusy (dirStart s.dir) c.iface = false := by
    have hsession' : (dirStart s.dir).cfg.session = some c.iface := hsession
    have hbake' : (dirStart s.dir).cfg.bake = none := hbake
    have hoffer' : (dirStart s.dir).cfg.offer = none := hoffer
    rw [stagingBusy, hsession', hbake', hoffer']
    simp
  refine due_reaches (i := .cfgBake mb) rfl hdue ((guarded_pass ?_).trans ?_)
  · simp [hsession, hvalidate, hzero, hbusy]
  · simp only [hvalidate, decide_true]

theorem answerBake_answered {s t : State} {mb st : Nat} {c : Cmd} {r : BakeReport} (hcmd : (mbx s.dir mb).cmd = some c)
    (h : Reached s t (answerBake (dirStart s.dir) mb st r)) : Answered t.dir mb c st (reportBytes r) ∧ t.dir.cfg = { s.dir.cfg with report := r } := by
  refine ⟨reached_answered (d := modCfg (dirStart s.dir) fun x => { x with report := r }) h hcmd, ?_⟩
  rw [h.cfg]
  exact respond_view (view := Director.cfg) (fun _ _ _ _ => rfl) _ mb st _

/-- Settles O20, command by command: a validation that passes, one that fails, one without a session, the status and the digests. -/
theorem bakeCommands : Obligations.BakeCommands := by
  unfold Obligations.BakeCommands
  refine ⟨fun s mb c hdue hsession hbake hoffer hvalidate hzero hfail => ?_, fun s mb c f hdue hsession hbake hoffer hvalidate hzero hfail => ?_,
    fun s mb c hdue hsession => ?_, fun s mb c hdue => ?_, fun s mb c hdue => ?_⟩
  · obtain ⟨t, hnext, h⟩ := cfgBake_validates hdue hsession hbake hoffer hvalidate hzero
    have himage : stagedImage (dirStart s.dir) = s.dir.cfg.staged := stagedImage_open (d := dirStart s.dir) hsession
    rw [startBake_passes (by rw [himage]; exact hfail)] at h
    obtain ⟨-, -, -, hcmd, -, -⟩ := hdue
    obtain ⟨hans, hcfg⟩ := answerBake_answered hcmd h
    exact ⟨t, _, hnext, hans, rfl, rfl, reportBytes_length _, by rw [hcfg]; exact hbake, by rw [hcfg], by rw [hcfg]⟩
  · obtain ⟨t, hnext, h⟩ := cfgBake_validates hdue hsession hbake hoffer hvalidate hzero
    have himage : stagedImage (dirStart s.dir) = s.dir.cfg.staged := stagedImage_open (d := dirStart s.dir) hsession
    rw [startBake_fails (f := f) (by rw [himage]; exact hfail)] at h
    obtain ⟨-, -, -, hcmd, -, -⟩ := hdue
    obtain ⟨hans, hcfg⟩ := answerBake_answered hcmd h
    exact ⟨t, _, hnext, hans, rfl, by rw [hcfg]; exact hbake⟩
  · obtain ⟨t, hnext, hans, honly⟩ := due_refused (i := .cfgBake mb) (st := stState) rfl hdue
      (guarded_fail (by simp [hsession, firstFail])) (by decide)
    exact ⟨t, hnext, hans, honly.cfg⟩
  · obtain ⟨t, hnext, hans, honly, -, -⟩ := answered_of_due (i := .cfgBakeStatus mb) rfl hdue rfl rfl (by decide)
    refine ⟨t, _, hnext, hans, ?_, List.drop_left' (by simp), honly.cfg⟩
    simp only [List.length_append, b1_length, b4_length, zeros_length, reportBytes_length]
  · obtain ⟨t, hnext, hans, honly, -, -⟩ := answered_of_due (i := .cfgDigest mb) rfl hdue rfl rfl (by decide)
    refine ⟨t, _, hnext, hans, ?_, honly.cfg⟩
    rw [List.length_append, toBE_length, toBE_length]

end Sys2Proof.Machine
end

section
/-! PROOF. The recheck and the application of a scheduled bake settled (R442, R471). -/

namespace Sys2Proof.Machine

/-! The recheck -/

theorem bakeNote_view {β : Type} {view : Director → β} (hview : ∀ d k x, view { d with sk := k, tx := x } = view d) (d : Director)
    (kind rule : Nat) (b : Cycle) : view (bakeNote d kind rule b) = view d :=
  ite_keeps ((drainControl_view hview _).trans (hview d _ d.tx)) rfl

/-- A bake without stages that is dropped leaves only the configuration's state and the lengths of the cycles (R442). -/
theorem dropBake_unstaged {d : Director} {k : Bake} (hbake : d.cfg.bake = some k) (hstaged : k.staged = false) (status : Nat) :
    (dropBake d status).cfg = { d.cfg with bake := none, status := status } ∧ (dropBake d status).ring = d.ring := by
  unfold dropBake
  rw [hbake]
  dsimp only
  rw [if_neg (show ¬ k.staged = true by rw [hstaged]; decide)]
  exact ⟨ite_keeps (view := Director.cfg) rfl rfl, ite_keeps (view := Director.ring) rfl rfl⟩

theorem abandonBake_unstaged {d : Director} {k : Bake} (hbake : d.cfg.bake = some k) (hstaged : k.staged = false) (rule : Nat) :
    (abandonBake d rule).cfg = { d.cfg with bake := none, status := 3, report := { d.cfg.report with rule := rule } }
      ∧ (abandonBake d rule).ring = (raise d 98 0x02 (b2 rule)).ring := by
  obtain ⟨hcfg, hring⟩ := dropBake_unstaged (d := raise d 98 0x02 (b2 rule)) (by rw [raise_cfg]; exact hbake) hstaged 3
  refine ⟨?_, hring⟩
  rw [raise_cfg] at hcfg
  unfold abandonBake modCfg
  dsimp only
  rw [hcfg]

theorem bakeRecheck_reaches {s : State} {k : Bake} (hworks : works s.dir = true) (hrun : s.dir.time.running = true)
    (hbake : s.dir.cfg.bake = some k) (hstaged : k.staged = false) (hchecked : k.checked = false) (hat : cycleDiff k.b (cyc s.dir) = 1) :
    ∃ t, exec .bakeRecheck s = .next t ∧ Reached s t (match stateFail (dirStart s.dir) (parseAll k.content) with
      | some f => bakeNote (abandonBake (dirStart s.dir) f.rule) 0x86 f.rule k.b
      | none => modCfg (dirStart s.dir) fun c => { c with bake := some { k with checked := true } }) := by
  have hbake' : (dirStart s.dir).cfg.bake = some k := hbake
  have hat' : cycleDiff k.b (cyc (dirStart s.dir)) = 1 := hat
  refine onDir_reaches (o := execBakeRecheck s) rfl ?_
  rw [hbake']
  refine if_neg ?_
  rw [hat', show works (dirStart s.dir) = true from hworks, show (dirStart s.dir).time.running = true from hrun, hchecked, hstaged]
  decide

/-! The sections -/

/-- One section put in force, or handed to its arm's step (R50, R273). -/
def sectionInstalled (k : Bake) (d : Director) (key : Nat) : Director :=
  let bs := tget [] key k.content
  let a := key % 256
  if bs = tget [] key d.cfg.inForce then d
  else if key / 256 = 0x10 && !(armCells (parseAll k.content) a).isEmpty then modArm d a fun x => { x with pBank := some (k.b, bs) }
  else
    let n := putSection d key bs
    if key / 256 = 0x10 && armDims (cfg d) a != armDims (cfg n) a then newDims n a else n

theorem installSections_eq (d : Director) (k : Bake) : installSections d k = sectKeys.foldl (sectionInstalled k) d := rfl

theorem newDims_view {β : Type} {view : Director → β} (hview : ∀ d a, view { d with arms := a } = view d) (d : Director) (a : Nat) :
    view (newDims d a) = view d := (hview _ _).trans (hview d _)

theorem sectionInstalled_view {β : Type} {view : Director → β} (hview : ∀ d a f p, view { d with
      arms := a, cfg := { d.cfg with inForce := f, parsed := p } } = view d) (k : Bake) (d : Director) (key : Nat) :
    view (sectionInstalled k d key) = view d := by
  have harms : ∀ d a, view { d with arms := a } = view d := fun d a => hview d a d.cfg.inForce d.cfg.parsed
  have hput : view (putSection d key (tget [] key k.content)) = view d := hview d d.arms _ _
  exact ite_keeps rfl (ite_keeps (harms d _) (ite_keeps ((newDims_view harms ..).trans hput) hput))

/-- A section in force is untouched by the others. -/
theorem sectionInstalled_other (k : Bake) (d : Director) {key j : Nat} (h : key ≠ j) :
    tget [] key (sectionInstalled k d j).cfg.inForce = tget [] key d.cfg.inForce := by
  have hput : tget [] key (putSection d j (tget [] j k.content)).cfg.inForce = tget [] key d.cfg.inForce := tget_tset_other _ h _ _
  exact ite_keeps (view := fun d => tget [] key d.cfg.inForce) rfl (ite_keeps (view := fun d => tget [] key d.cfg.inForce) rfl
    (ite_keeps (view := fun d => tget [] key d.cfg.inForce) ((newDims_view (view := fun d => tget [] key d.cfg.inForce) (fun _ _ => rfl) ..).trans hput) hput))

/-- A section that no arm owns stands in force once it is installed. -/
theorem sectionInstalled_same (k : Bake) (d : Director) {key : Nat} (h : key / 256 ≠ 0x10) :
    tget [] key (sectionInstalled k d key).cfg.inForce = tget [] key k.content := by
  have hown : ∀ b : Bool, ¬ (decide (key / 256 = 0x10) && b) = true := fun b => by rw [decide_eq_false h]; simp
  unfold sectionInstalled
  dsimp only
  split
  · next heq => exact heq.symm
  · rw [if_neg (hown _), if_neg (hown _)]
    exact tget_tset_same ..

theorem sectionsInstalled_inForce (k : Bake) {key : Nat} (h : key / 256 ≠ 0x10) {l : List Nat} (hl : key ∈ l) (d : Director) :
    tget [] key (l.foldl (sectionInstalled k) d).cfg.inForce = tget [] key k.content := by
  have hkept : ∀ (l : List Nat) d, tget [] key d.cfg.inForce = tget [] key k.content →
      tget [] key (l.foldl (sectionInstalled k) d).cfg.inForce = tget [] key k.content := by
    intro l
    induction l with
    | nil => exact fun d hd => hd
    | cons j r ih =>
      refine fun d hd => ih _ ?_
      by_cases hj : key = j
      · subst hj; exact sectionInstalled_same k d h
      · exact (sectionInstalled_other k d hj).trans hd
  induction l generalizing d with
  | nil => exact absurd hl List.not_mem_nil
  | cons j r ih =>
    rw [List.foldl_cons]
    by_cases hj : key = j
    · subst hj; exact hkept r _ (sectionInstalled_same k d h)
    · exact ih ((List.mem_cons.mp hl).resolve_left hj) _

/-! The application -/

/-- The configuration's state once a bake's sections are installed (R442). -/
def bakeInstalled (d : Director) (k : Bake) : Director :=
  modCfg (installSections d k) fun c => { c with
    bake := none, status := 2, baked := true
    session := if k.own then none else c.session
    staged := if k.own then [] else c.staged }

/-- What follows from the sections that changed. -/
def bakeFollows (old : Cfg) (d : Director) : Director :=
  let d := fixLengths (clampFreq d)
  let d := applyRecorder old (applyTimeLane old d)
  let d := (List.range 6).foldl (applyTopology old) d
  let d := modBg d fun b => { b with budget := arbBudget (cfg d), reserve := reserveOf (cfg d) (part d) d.boot.ddrFitted }
  let d := recompute d
  let d := clearStages d
  (provenCells d).foldl (writeChanges old) d

theorem cycleDiff_self (c : Cycle) : cycleDiff c c = 0 := by
  rw [cycleDiff, BitVec.sub_self]; rfl

theorem bakeApply_reaches {s : State} {k : Bake} (hworks : works s.dir = true) (hrun : s.dir.time.running = true)
    (hbake : s.dir.cfg.bake = some k) (hchecked : k.checked = true) (hat : cyc s.dir = k.b) :
    ∃ t, exec .bakeApply s = .next t
      ∧ Reached s t (raise (bakeFollows (cfg s.dir) (bakeInstalled (dirStart s.dir) k)) 98 0x01 (b4 k.b.toNat)) := by
  have hbake' : (dirStart s.dir).cfg.bake = some k := hbake
  refine onDir_reaches (o := execBakeApply s) rfl ?_
  rw [hbake']
  refine if_neg ?_
  rw [show works (dirStart s.dir) = true from hworks, show (dirStart s.dir).time.running = true from hrun, hchecked,
    show cyc (dirStart s.dir) = k.b from hat, cycleDiff_self]
  decide

/-- What a bake decides of the configuration's state, and the mask of the events. -/
def bakeView (d : Director) : Option Bake × Nat × Bool × Option Iface × Table (List Byte) × BitVec 256 :=
  (d.cfg.bake, d.cfg.status, d.cfg.baked, d.cfg.session, d.cfg.inForce, d.ring.enable)

theorem raise_bakeView (d : Director) (a b : Nat) (l : List Byte) : bakeView (raise d a b l) = bakeView d := by
  rw [bakeView, raise_cfg, raise_enable, bakeView]

theorem applyTimeLane_bakeView (old : Cfg) (d : Director) : bakeView (applyTimeLane old d) = bakeView d := by
  unfold applyTimeLane
  refine (foldl_keeps (fun d p => ite_keeps ?_ rfl) [0, 1] _).trans (foldl_keeps (fun d i => ite_keeps ?_ rfl) [0, 1] d)
  · exact (view_of_steerless (portDown_steerless d p) bakeView fun _ => rfl).trans rfl
  · exact view_of_steerless (restartDomain_steerless d i) bakeView fun _ => rfl

theorem applyRecorder_bakeView (old : Cfg) (d : Director) : bakeView (applyRecorder old d) = bakeView d := by
  unfold applyRecorder
  exact ite_keeps rfl ((foldl_keeps (fun d _ => raise_bakeView d _ _ _) _ _).trans rfl)

theorem applyTopology_bakeView (old : Cfg) (d : Director) (a : Nat) : bakeView (applyTopology old d a) = bakeView d :=
  ite_keeps (view := bakeView) rfl rfl

theorem writeChanges_bakeView (old : Cfg) (d : Director) (id : Nat) : bakeView (writeChanges old d id) = bakeView d :=
  foldl_keeps (fun d _ => mgmtTo_view (view := bakeView) (fun _ _ _ => rfl) d ..) _ d

theorem bakeFollows_bakeView (old : Cfg) (d : Director) : bakeView (bakeFollows old d) = bakeView d := by
  unfold bakeFollows
  extract_lets d1 d2 d3 d4 d5 d6
  have h6 : bakeView d6 = bakeView d3 := by clear_value d3; rfl
  have h3 : bakeView d3 = bakeView d2 := foldl_keeps (applyTopology_bakeView old) _ d2
  have h2 : bakeView d2 = bakeView d1 := (applyRecorder_bakeView old _).trans (applyTimeLane_bakeView old d1)
  have h1 : bakeView d1 = bakeView d := rfl
  exact (foldl_keeps (writeChanges_bakeView old) _ d6).trans (h6.trans (h3.trans (h2.trans h1)))

/-- Settles O21: a recheck that fails, one that passes, and the application. -/
theorem theBakeTakesEffect : Obligations.TheBakeTakesEffect := by
  unfold Obligations.TheBakeTakesEffect
  refine ⟨fun s k f hworks hrun hbake hstaged hchecked hat hfail => ?_, fun s k hworks hrun hbake hstaged hchecked hat hpass => ?_,
    fun s k hworks hrun hbake hchecked hown hat => ?_⟩
  · obtain ⟨t, hnext, h⟩ := bakeRecheck_reaches hworks hrun hbake hstaged hchecked hat
    rw [show stateFail (dirStart s.dir) (parseAll k.content) = some f from hfail] at h
    obtain ⟨hcfg, hring⟩ := abandonBake_unstaged (d := dirStart s.dir) hbake hstaged f.rule
    have hcfg' := h.cfg.trans ((bakeNote_view (view := Director.cfg) (fun _ _ _ => rfl) ..).trans hcfg)
    refine ⟨t, hnext, by rw [hcfg'], by rw [hcfg'], by rw [hcfg'], by rw [hcfg']; rfl, fun he => ?_⟩
    rw [Decided, h.ring, bakeNote_view (view := Director.ring) (fun _ _ _ => rfl), hring]
    exact raise_decides (Enabled.of_eq (e := dirStart s.dir) he rfl rfl) 2 _
  · obtain ⟨t, hnext, h⟩ := bakeRecheck_reaches hworks hrun hbake hstaged hchecked hat
    rw [show stateFail (dirStart s.dir) (parseAll k.content) = none from hpass] at h
    exact ⟨t, hnext, by rw [h.cfg]; rfl, by rw [h.arms]; rfl⟩
  · obtain ⟨t, hnext, h⟩ := bakeApply_reaches hworks hrun hbake hchecked hat
    have hview := (h.get bakeView fun _ _ _ _ => rfl).trans ((raise_bakeView ..).trans (bakeFollows_bakeView ..))
    have hinstalled : (bakeInstalled (dirStart s.dir) k).ring.enable = s.dir.ring.enable := by
      show (installSections (dirStart s.dir) k).ring.enable = _
      rw [installSections_eq]
      exact foldl_keeps (view := (·.ring.enable)) (fun d key => sectionInstalled_view (view := (·.ring.enable)) (fun _ _ _ _ => rfl) k d key) _ _
    have hfollows := bakeFollows_bakeView (cfg s.dir) (bakeInstalled (dirStart s.dir) k)
    simp only [bakeView, Prod.mk.injEq] at hview hfollows
    obtain ⟨h1, h2, h3, h4, h5, -⟩ := hview
    obtain ⟨-, -, -, -, -, henable⟩ := hfollows
    refine ⟨t, hnext, h1, h2, h3, h4.trans (if_pos hown), fun key hkey harm => ?_, fun he => h.decided ?_⟩
    · rw [h5]
      exact sectionsInstalled_inForce k harm hkey _
    · exact raise_decides (he.of_high (by decide) (henable.trans hinstalled)) 1 _

end Sys2Proof.Machine
end

section
/-! PROOF. The power arbiter and the gain estimator settled (R298, R299, R577 to R580). -/

namespace Sys2Proof.Machine

/-! Grants -/

/-- What a walk grants never exceeds what it starts with (R577). -/
theorem walkGrants_sum (left : Nat) (l : List (Nat × Nat)) : ((walkGrants left l).map (·.2)).sum ≤ left := by
  induction l generalizing left with
  | nil => exact Nat.zero_le _
  | cons x r ih =>
    obtain ⟨i, n⟩ := x
    rw [walkGrants]
    split
    · next h =>
      have := ih (left - n)
      rw [List.map_cons, List.sum_cons]
      omega
    · exact ih left

theorem newGrants_sum {d : Director} (h : d.bg.hot = false) : ((newGrants d).map (·.2)).sum ≤ d.bg.budget - d.bg.reserve := by
  rw [newGrants, if_neg (by rw [h]; decide)]
  exact walkGrants_sum ..

/-- While hot only REC_DRAIN keeps its grant (R580). -/
theorem newGrants_hot {d : Director} (h : d.bg.hot = true) {g : Nat × Nat} (hg : g ∈ newGrants d) : g.1 = 0 := by
  rw [newGrants, if_pos h] at hg
  obtain ⟨-, hkeep⟩ := List.mem_filter.mp hg
  rw [Bool.and_eq_true, decide_eq_true_eq] at hkeep
  exact hkeep.1

theorem recompute_grants (d : Director) : (recompute d).bg.grants = d.bg.grants.filter (newGrants d).contains := rfl

theorem recompute_kept {d : Director} {g : Nat × Nat} (hg : g ∈ (recompute d).bg.grants) : g ∈ d.bg.grants ∧ g ∈ newGrants d := by
  rw [recompute_grants] at hg
  obtain ⟨hold, hnew⟩ := List.mem_filter.mp hg
  exact ⟨hold, List.contains_iff_mem.mp hnew⟩

/-- The grants of a recomputation stand at once or are to be applied (R578). -/
theorem recompute_toGrant (d : Director) :
    (recompute d).bg.toGrant = some (newGrants d) ∨ ((recompute d).bg.toGrant = none ∧ (recompute d).bg.grants = newGrants d) := by
  by_cases h : newGrants d = d.bg.grants.filter (newGrants d).contains
  · exact .inr ⟨if_pos h, (recompute_grants d).trans h.symm⟩
  · exact .inl (if_neg h)

theorem arbiterRecompute_reaches {s : State} (hworks : works s.dir = true) :
    ∃ t, exec .arbiterRecompute s = .next t ∧ Reached s t (recompute (dirStart s.dir)) :=
  onDir_reaches (o := execArbiterRecompute s) rfl (if_pos hworks)

/-- The retraining lanes that a grant lets start again. -/
def grantsApplied (d : Director) (new : List (Nat × Nat)) : Director :=
  ([0, 1, 2, 3].filter fun l => tget 0 (2 + l) d.bg.grants = 0 && tget 0 (2 + l) new != 0).foldl
    (fun d l => if (lane d l).retrain then startRetrain d l false else d) (modBg d fun b => { b with grants := new, toGrant := none })

theorem grantApplyDone_reaches {s : State} {new : List (Nat × Nat)} (hworks : works s.dir = true) (hto : s.dir.bg.toGrant = some new) :
    ∃ t, exec .grantApplyDone s = .next t ∧ Reached s t (grantsApplied (dirStart s.dir) new) := by
  have hto' : (dirStart s.dir).bg.toGrant = some new := hto
  refine onDir_reaches (o := execGrantApplyDone s) rfl ?_
  rw [hto']
  exact if_neg (by rw [show works (dirStart s.dir) = true from hworks]; decide)

theorem grantsApplied_view {β : Type} {view : Director → β} (hview : ∀ d k, view { d with sk := k } = view d) (d : Director)
    (new : List (Nat × Nat)) : view (grantsApplied d new) = view (modBg d fun b => { b with grants := new, toGrant := none }) :=
  foldl_keeps (fun d _ => ite_keeps (hview d _) rfl) _ _

/-! Requests that wait -/

/-- A request of a block that has waited 1 s and has not been counted (R579). -/
def waitedLong (d : Director) (block : Nat) (w : Nat × Nat × Bool) : Bool :=
  blockOf w.1 = block && !w.2.2 && w.2.1 + 1250000000 < d.time.raw

/-- The long waits of a block are counted, each once (R579). -/
def waitsCounted (d : Director) (block : Nat) : Director :=
  modBg d fun b => { b with
    arbWait := tset block (satAdd (tget 0 block b.arbWait) (d.bg.waitSince.filter (waitedLong d block)).length) b.arbWait
    waitSince := b.waitSince.map fun w => if waitedLong d block w then (w.1, w.2.1, true) else w }

/-- They are reported at most once a minute (R579). -/
def waitReported (d : Director) (block : Nat) : Director :=
  if (match d.bg.waitAt.find? (·.1 = block) with | some (_, t) => decide (d.time.now < t + minuteUnits) | none => false) then d
  else raise (modBg d fun b => { b with waitAt := tset block d.time.now b.waitAt }) 80 0x01 (b1 block)

theorem grantWait_reaches {s : State} {b : Nat} {w : Nat × Nat × Bool} (hb : b < 6) (hworks : works s.dir = true) (hw : w ∈ s.dir.bg.waitSince)
    (hlong : waitedLong s.dir b w = true) :
    ∃ t, exec (.grantWait b) s = .next t ∧ Reached s t (waitReported (waitsCounted (dirStart s.dir) b) b)
      ∧ 1 ≤ (s.dir.bg.waitSince.filter (waitedLong s.dir b)).length := by
  have hsome : 1 ≤ (s.dir.bg.waitSince.filter (waitedLong s.dir b)).length :=
    List.length_pos_of_mem (List.mem_filter.mpr ⟨hw, hlong⟩)
  have hbar : (!works s.dir || decide ((s.dir.bg.waitSince.filter (waitedLong s.dir b)).length = 0)) = false := by
    rw [hworks, decide_eq_false (by omega)]; rfl
  obtain ⟨t, hnext, h⟩ := unit_reaches (o := execGrantWait b s) rfl (decide_eq_true hb) (if_neg (Bool.eq_false_iff.mp hbar))
  exact ⟨t, hnext, h, hsome⟩

theorem waitReported_view {β : Type} {view : Background → β} (hview : ∀ b x, view { b with waitAt := x } = view b) (d : Director) (block : Nat) :
    view (waitReported d block).bg = view d.bg :=
  ite_keeps (view := fun d => view d.bg) rfl ((congrArg view (raise_bg ..)).trans (hview d.bg _))

/-! Temperature -/

/-- The warning level crossed, either way (R580). -/
def warmed (d : Director) (m : Int) : Director :=
  if !d.bg.hot && thermWarn d ≤ m then recompute (raise (modBg d fun b => { b with hot := true }) 81 0x01 [])
  else if d.bg.hot && m ≤ thermWarn d - 5 then recompute (raise (modBg d fun b => { b with hot := false }) 81 0x02 [])
  else d

/-- The critical level, reported once in an excursion (R580). -/
def critNoted (d : Director) (m : Int) : Director :=
  if 115 ≤ m then
    if d.bg.crit then d else raise (modBg d fun b => { b with crit := true }) 81 0x03 []
  else modBg d fun b => { b with crit := false }

theorem thermalSample_reaches {s : State} (hworks : works s.dir = true) (t0 t1 t2 t3 : Int) :
    ∃ t, exec (.thermalSample t0 t1 t2 t3) s = .next t
      ∧ Reached s t (critNoted (warmed (dirStart s.dir) (max (max t0 t1) (max t2 t3))) (max (max t0 t1) (max t2 t3))) :=
  onDir_reaches (o := execThermalSample t0 t1 t2 t3 s) rfl (if_neg (by rw [show works (dirStart s.dir) = true from hworks]; decide))

theorem critNoted_view {β : Type} {view : Director → β} (hview : ∀ d r c, view { d with ring := r, bg := { d.bg with crit := c } } = view d)
    (d : Director) (m : Int) : view (critNoted d m) = view d :=
  ite_keeps (ite_keeps rfl ((raise_view (fun d r => hview d r d.bg.crit) ..).trans (hview d d.ring _))) (hview d d.ring _)

theorem critNoted_eventsKept (d : Director) (m : Int) : EventsKept (critNoted d m) d :=
  .ite (.ite (.refl d) ((raise_eventsKept ..).trans (.of_ring rfl))) (.of_ring rfl)

theorem warmed_view {β : Type} {view : Director → β} (hview : ∀ d r g t w h, view { d with
      ring := r, bg := { d.bg with grants := g, toGrant := t, waitSince := w, hot := h } } = view d) (d : Director) (m : Int) :
    view (warmed d m) = view d := by
  have hring : ∀ d r, view { d with ring := r } = view d := fun d r => hview d r d.bg.grants d.bg.toGrant d.bg.waitSince d.bg.hot
  have hhot : ∀ d h, view (modBg d fun b => { b with hot := h }) = view d := fun d h => hview d d.ring d.bg.grants d.bg.toGrant d.bg.waitSince h
  have hagain : ∀ d, view (recompute d) = view d := fun d => hview d d.ring _ _ _ d.bg.hot
  exact ite_keeps ((hagain _).trans ((raise_view hring ..).trans (hhot d true)))
    (ite_keeps ((hagain _).trans ((raise_view hring ..).trans (hhot d false))) rfl)

theorem warmed_enable (d : Director) (m : Int) : (warmed d m).ring.enable = d.ring.enable :=
  ite_keeps (view := (·.ring.enable)) (raise_enable ..) (ite_keeps (view := (·.ring.enable)) (raise_enable ..) rfl)

/-- The warning level is reached: only REC_DRAIN keeps its grant (R580). -/
theorem warmed_warns {d : Director} {m : Int} (hhot : d.bg.hot = false) (hm : thermWarn d ≤ m) :
    (warmed d m).bg.hot = true ∧ (∀ g, g ∈ (warmed d m).bg.grants → g.1 = 0) ∧ (Enabled d 81 → Decided (warmed d m) 81 1 []) := by
  have heq : warmed d m = recompute (raise (modBg d fun b => { b with hot := true }) 81 0x01 []) :=
    if_pos (by rw [hhot, decide_eq_true hm]; rfl)
  have hbg : (raise (modBg d fun b => { b with hot := true }) 81 0x01 []).bg.hot = true := by rw [raise_bg]; rfl
  rw [heq]
  refine ⟨hbg, fun g hg => newGrants_hot hbg (recompute_kept hg).2, fun he => ?_⟩
  exact raise_decides (Enabled.of_eq (e := modBg d _) he rfl rfl) 1 []

/-- 5 °C below it the grants may return (R580). -/
theorem warmed_cools {d : Director} {m : Int} (hhot : d.bg.hot = true) (hm : m ≤ thermWarn d - 5) :
    (warmed d m).bg.hot = false ∧ (Enabled d 81 → Decided (warmed d m) 81 2 []) := by
  have heq : warmed d m = recompute (raise (modBg d fun b => { b with hot := false }) 81 0x02 []) :=
    (if_neg (by rw [hhot]; simp)).trans (if_pos (by rw [hhot, decide_eq_true hm]; rfl))
  have hbg : (raise (modBg d fun b => { b with hot := false }) 81 0x02 []).bg.hot = false := by rw [raise_bg]; rfl
  rw [heq]
  exact ⟨hbg, fun he => raise_decides (Enabled.of_eq (e := modBg d _) he rfl rfl) 2 []⟩

theorem warmed_stays {d : Director} {m : Int} (hhot : d.bg.hot = true) (hm : thermWarn d - 5 < m) : warmed d m = d :=
  (if_neg (by rw [hhot]; simp)).trans (if_neg (by rw [decide_eq_false (not_le.mpr hm)]; simp))

theorem critNoted_reports {d : Director} {m : Int} (hm : 115 ≤ m) (hcrit : d.bg.crit = false) :
    critNoted d m = raise (modBg d fun b => { b with crit := true }) 81 0x03 [] :=
  (if_pos hm).trans (if_neg (by rw [hcrit]; decide))

/-- What a temperature sample does, in each of the cases that R580 tells apart. -/
theorem thermalSample_acts {s : State} {t0 t1 t2 t3 m : Int} (hworks : works s.dir = true) (hm : m = max (max t0 t1) (max t2 t3)) :
    ∃ t, exec (.thermalSample t0 t1 t2 t3) s = .next t ∧ t.dir.arms = s.dir.arms
      ∧ (s.dir.bg.hot = false → thermWarn s.dir ≤ m →
          t.dir.bg.hot = true ∧ (∀ g, g ∈ t.dir.bg.grants → g.1 = 0) ∧ (Enabled s.dir 81 → Decided t.dir 81 1 []))
      ∧ (s.dir.bg.hot = true → m ≤ thermWarn s.dir - 5 → t.dir.bg.hot = false ∧ (Enabled s.dir 81 → Decided t.dir 81 2 []))
      ∧ (s.dir.bg.hot = true → thermWarn s.dir - 5 < m → t.dir.bg.hot = true ∧ t.dir.bg.grants = s.dir.bg.grants)
      ∧ (115 ≤ m → s.dir.bg.crit = false → t.dir.bg.crit = true ∧ (Enabled s.dir 81 → Decided t.dir 81 3 [])) := by
  obtain ⟨t, hnext, h⟩ := thermalSample_reaches hworks t0 t1 t2 t3
  rw [← hm] at h
  have hhot : t.dir.bg.hot = (warmed (dirStart s.dir) m).bg.hot :=
    (congrArg Background.hot h.bg).trans (critNoted_view (view := (·.bg.hot)) (fun _ _ _ => rfl) ..)
  have hgrants : t.dir.bg.grants = (warmed (dirStart s.dir) m).bg.grants :=
    (congrArg Background.grants h.bg).trans (critNoted_view (view := (·.bg.grants)) (fun _ _ _ => rfl) ..)
  have hkept : ∀ {detail}, Decided (warmed (dirStart s.dir) m) 81 detail [] → Decided t.dir 81 detail [] :=
    fun hd => h.decided ((critNoted_eventsKept _ m).decided hd)
  refine ⟨t, hnext, ?_, fun hcold hwarn => ?_, fun hwarm hcool => ?_, fun hwarm hstill => ?_, fun hcrit hfirst => ?_⟩
  · rw [h.arms, critNoted_view (view := Director.arms) (fun _ _ _ => rfl), warmed_view (view := Director.arms) (fun _ _ _ _ _ _ => rfl)]
    rfl
  · obtain ⟨h1, h2, h3⟩ := warmed_warns (d := dirStart s.dir) hcold hwarn
    exact ⟨hhot.trans h1, fun g hg => h2 g (hgrants ▸ hg), fun he => hkept (h3 he)⟩
  · obtain ⟨h1, h2⟩ := warmed_cools (d := dirStart s.dir) hwarm hcool
    exact ⟨hhot.trans h1, fun he => hkept (h2 he)⟩
  · have hsame := warmed_stays (d := dirStart s.dir) hwarm hstill
    exact ⟨by rw [hhot, hsame]; exact hwarm, by rw [hgrants, hsame]; rfl⟩
  · have hcalm : (warmed (dirStart s.dir) m).bg.crit = false :=
      (warmed_view (view := (·.bg.crit)) (fun _ _ _ _ _ _ => rfl) ..).trans hfirst
    rw [critNoted_reports hcrit hcalm] at h
    refine ⟨by rw [h.bg, raise_bg]; rfl, fun he => h.decided (raise_decides ?_ 3 [])⟩
    exact he.of_high (by decide) (warmed_enable ..)

/-! The gain estimator -/

theorem estimatorUpdate_reaches {s : State} {a : Nat} {sn : CalSnap} (ha : a < 6) (hruns : estRuns s.dir a = true)
    (hsnap : (arm s.dir a).est.snap = some sn) :
    ∃ t, exec (.estimatorUpdate a) s = .next t
      ∧ Reached s t (modArm (dirStart s.dir) a fun x => { x with est := estUpdate (cfg s.dir) a x.est sn }) := by
  have hsnap' : (arm (dirStart s.dir) a).est.snap = some sn := hsnap
  refine unit_reaches (o := execEstimatorUpdate a s) rfl (decide_eq_true ha) ?_
  rw [hsnap']
  exact if_pos hruns

theorem estUpdate_kept (c : Cfg) (a : Nat) (e : Estimator) (sn : CalSnap) :
    (estUpdate c a e sn).snap = none ∧ (estUpdate c a e sn).updates = e.updates + 1 ∧ (estUpdate c a e sn).tree = e.tree := ⟨rfl, rfl, rfl⟩

/-- What the corrections and the hand-over of a tree's estimate leave (R299, R300). -/
theorem correctCell_view {β : Type} {view : Director → β} (hview : ∀ d p c r x, view { d with ports := p, cells := c, ring := r, arms := x } = view d)
    (d : Director) (a p : Nat) (g : F64) : view (correctCell d a p g) = view d := by
  have hrec : ∀ d id f, view (modRec d id f) = view d := fun d id f => hview d d.ports _ d.ring d.arms
  have harm : ∀ d a f, view (modArm d a f) = view d := fun d a f => hview d d.ports d.cells d.ring _
  have hmgmt : ∀ d id mt b r, view (mgmtTo d id mt b r) = view d := fun d id mt b r =>
    mgmtTo_view (fun d n f => hview d _ d.cells d.ring d.arms) d id mt b r
  have hset : ∀ d id f g, view (modCellCnt (modRec d id f) id g) = view d := fun d id f g => (hrec ..).trans (hrec ..)
  unfold correctCell
  dsimp only
  refine ite_keeps rfl (ite_keeps ((raise_view (fun d r => hview d d.ports d.cells r d.arms) ..).trans ((hrec ..).trans ?_)) ?_)
  · exact (harm ..).trans ((hset ..).trans (hmgmt ..))
  · exact (harm ..).trans ((hset ..).trans (hmgmt ..))

theorem correctCell_arm_view {β : Type} {view : Arm → β} (hview : ∀ x h, view { x with est := { x.est with theta := h } } = view x)
    (d : Director) (a p : Nat) (g : F64) (b : Nat) : view (arm (correctCell d a p g) b) = view (arm d b) := by
  have hmgmt : ∀ d id mt body r, arm (mgmtTo d id mt body r) b = arm d b := fun d id mt body r =>
    mgmtTo_view (view := (arm · b)) (fun _ _ _ => rfl) d id mt body r
  have hset : ∀ d id f g, arm (modCellCnt (modRec d id f) id g) b = arm d b := fun _ _ _ _ => rfl
  unfold correctCell
  dsimp only
  refine ite_keeps (view := fun d => view (arm d b)) rfl (ite_keeps (view := fun d => view (arm d b)) ?_ ?_)
  · rw [raise_arm]
    exact (arm_modArm_view (fun x => hview x _) _ a b).trans (congrArg view ((hset ..).trans (hmgmt ..)))
  · exact (arm_modArm_view (fun x => hview x _) _ a b).trans (congrArg view ((hset ..).trans (hmgmt ..)))

theorem correctCell_arm_other (d : Director) {a b : Nat} (h : b ≠ a) (p : Nat) (g : F64) : arm (correctCell d a p g) b = arm d b := by
  have hmgmt : ∀ d id mt body r, arm (mgmtTo d id mt body r) b = arm d b := fun d id mt body r =>
    mgmtTo_view (view := (arm · b)) (fun _ _ _ => rfl) d id mt body r
  have hset : ∀ d id f g, arm (modCellCnt (modRec d id f) id g) b = arm d b := fun _ _ _ _ => rfl
  have hcnt : ∀ d id g, arm (modCellCnt d id g) b = arm d b := fun _ _ _ => rfl
  unfold correctCell
  dsimp only
  refine ite_keeps (view := (arm · b)) rfl (ite_keeps (view := (arm · b)) ?_ ?_)
  · rw [raise_arm]
    exact (hcnt ..).trans ((arm_modArm_other _ h _).trans ((hset ..).trans (hmgmt ..)))
  · exact (arm_modArm_other _ h _).trans ((hset ..).trans (hmgmt ..))

theorem sendEstimator_view {β : Type} {view : Director → β} (hview : ∀ d k x, view { d with sk := k, tx := x } = view d) (d : Director) (a t : Nat) :
    view (sendEstimator d a t) = view d :=
  ite_keeps rfl (foldl_keeps (fun d _ => hview d _ d.tx) _ d)

/-- One correction of a list of them. -/
def correctOne (a : Nat) (d : Director) (x : Nat × F64) : Director := correctCell d a x.1 x.2

/-- The corrections of a tree and its hand-over to the twin (R299, R300). -/
def treeCorrected (d : Director) (a t : Nat) (props : List (Nat × F64)) : Director :=
  drainControl (sendEstimator (props.foldl (correctOne a) d) a t)

theorem treeHanded_view {β : Type} {view : Director → β} (hview : ∀ d k x, view { d with sk := k, tx := x } = view d) (d : Director) (a t : Nat) :
    view (drainControl (sendEstimator d a t)) = view d :=
  (drainControl_view hview _).trans (sendEstimator_view hview d a t)

theorem treeCorrected_view {β : Type} {view : Director → β} (hview : ∀ d p c r x, view { d with ports := p, cells := c, ring := r, arms := x } = view d)
    (hsk : ∀ d k x, view { d with sk := k, tx := x } = view d) (d : Director) (a t : Nat) (props : List (Nat × F64)) :
    view (treeCorrected d a t props) = view d := by
  rw [treeCorrected, treeHanded_view hsk]
  exact foldl_keeps (f := correctOne a) (fun d x => correctCell_view hview d a x.1 x.2) props d

theorem treeCorrected_arm_view {β : Type} {view : Arm → β} (hview : ∀ x h, view { x with est := { x.est with theta := h } } = view x)
    (d : Director) (a t : Nat) (props : List (Nat × F64)) (b : Nat) : view (arm (treeCorrected d a t props) b) = view (arm d b) := by
  rw [treeCorrected, treeHanded_view (view := (arm · b)) fun _ _ _ => rfl]
  exact foldl_keeps (view := fun d => view (arm d b)) (f := correctOne a) (fun d x => correctCell_arm_view hview d a x.1 x.2 b) props d

theorem treeCorrected_arm_other (d : Director) {a b : Nat} (h : b ≠ a) (t : Nat) (props : List (Nat × F64)) :
    arm (treeCorrected d a t props) b = arm d b := by
  rw [treeCorrected, treeHanded_view (view := (arm · b)) fun _ _ _ => rfl]
  exact foldl_keeps (view := (arm · b)) (f := correctOne a) (fun d x => correctCell_arm_other d h x.1 x.2) props d

/-- The estimator turns to the arm's next tree. -/
def treeTurned (d : Director) (a t : Nat) : Director :=
  modArm d a fun x => { x with est := { x.est with tree := nextTree d a t, updates := 0 } }

theorem calTreeRotate_reaches {s : State} {a : Nat} (ha : a < 6) (hruns : estRuns s.dir a = true)
    (hdwell : parm (armS (cfg s.dir) a) 55 0 4096 ≤ (arm s.dir a).est.updates) :
    ∃ t props, exec (.calTreeRotate a) s = .next t
      ∧ Reached s t (treeTurned (treeCorrected (dirStart s.dir) a (arm s.dir a).est.tree props) a (arm s.dir a).est.tree) := by
  have hbar : (!estRuns s.dir a || decide ((arm s.dir a).est.updates < parm (armS (cfg s.dir) a) 55 0 4096)) = false := by
    rw [hruns, decide_eq_false (not_lt.mpr hdwell)]; rfl
  obtain ⟨t, hnext, h⟩ := unit_reaches (o := execCalTreeRotate a s) rfl (decide_eq_true ha) (if_neg (Bool.eq_false_iff.mp hbar))
  exact ⟨t, _, hnext, h⟩

/-- Settles O56, command by command: recomputation, grants, waits, temperature, and the estimator. -/
theorem powerArbiterAndEstimator : Obligations.PowerArbiterAndEstimator := by
  unfold Obligations.PowerArbiterAndEstimator
  refine ⟨⟨fun s hworks => ?_, fun s new hworks hto => ?_, fun s b w hb hworks hw hblock hcounted hlong => ?_,
    fun s t0 t1 t2 t3 m hworks hm => thermalSample_acts hworks hm⟩, fun s a sn ha hruns hsnap => ?_, fun s a ha hruns hdwell => ?_⟩
  · obtain ⟨t, hnext, h⟩ := arbiterRecompute_reaches hworks
    refine ⟨t, hnext, fun g hg => recompute_kept (d := dirStart s.dir) (by rwa [h.bg] at hg), ?_, newGrants_sum, by rw [h.arms]; rfl, by rw [h.time]; rfl⟩
    rw [h.bg]
    exact recompute_toGrant (dirStart s.dir)
  · obtain ⟨t, hnext, h⟩ := grantApplyDone_reaches hworks hto
    have hbg := h.bg.trans (grantsApplied_view (view := Director.bg) (fun _ _ => rfl) ..)
    exact ⟨t, hnext, by rw [hbg]; rfl, by rw [hbg]; rfl, h.arms.trans (grantsApplied_view (view := Director.arms) (fun _ _ => rfl) ..)⟩
  · obtain ⟨t, hnext, h, hsome⟩ := grantWait_reaches hb hworks hw (by simp [waitedLong, hblock, hcounted, hlong])
    have hwait : t.dir.bg.arbWait = (waitsCounted (dirStart s.dir) b).bg.arbWait :=
      (congrArg Background.arbWait h.bg).trans (waitReported_view (view := Background.arbWait) (fun _ _ => rfl) ..)
    have hgrants : t.dir.bg.grants = s.dir.bg.grants :=
      (congrArg Background.grants h.bg).trans (waitReported_view (view := Background.grants) (fun _ _ => rfl) ..)
    refine ⟨t, _, hnext, hsome, ?_, fun k hk => ?_, hgrants⟩
    · rw [hwait]; exact tget_tset_same ..
    · rw [hwait]; exact tget_tset_other _ hk _ _
  · obtain ⟨t, hnext, h⟩ := estimatorUpdate_reaches ha hruns hsnap
    obtain ⟨h1, h2, h3⟩ := estUpdate_kept (cfg s.dir) a (arm s.dir a).est sn
    have harm : arm t.dir a = { arm s.dir a with est := estUpdate (cfg s.dir) a (arm s.dir a).est sn } := (h.arm a).trans (arm_modArm ..)
    exact ⟨t, hnext, by rw [harm, h1], by rw [harm, h2], by rw [harm, h3], by rw [harm], fun b hb => (h.arm b).trans (arm_modArm_other _ hb _)⟩
  · obtain ⟨t, props, hnext, h⟩ := calTreeRotate_reaches ha hruns hdwell
    have hmode := treeCorrected_arm_view (view := Arm.mode) (fun _ _ => rfl) (dirStart s.dir) a (arm s.dir a).est.tree props a
    have hnextTree : nextTree (treeCorrected (dirStart s.dir) a (arm s.dir a).est.tree props) a (arm s.dir a).est.tree
        = nextTree s.dir a (arm s.dir a).est.tree :=
      treeCorrected_view (view := (nextTree · a (arm s.dir a).est.tree)) (fun _ _ _ _ _ => rfl) (fun _ _ _ => rfl) ..
    have harm := (h.arm a).trans (arm_modArm ..)
    refine ⟨t, hnext, by rw [harm], by rw [harm]; exact hnextTree, by rw [harm]; exact hmode, fun b hb => ?_⟩
    exact (h.arm b).trans ((arm_modArm_other _ hb _).trans (treeCorrected_arm_other _ hb _ props))

end Sys2Proof.Machine
end

section
/-! PROOF. Skeund frames settled: one that fails, a mirror block in one part, and a forwarded block (R316, R372, R373, R382). -/

namespace Sys2Proof.Machine

theorem skeundFrameReceive_reaches {s : State} {l : Nat} (hl : l < 4) (hworks : works s.dir = true) (hactive : s.dir.sk.active = true) (f : SkFrame) :
    ∃ t, exec (.skeundFrameReceive l f) s = .next t ∧ Reached s t (skFrameIn (dirStart s.dir) s.fresh l f) :=
  unit_reaches (o := execSkeundFrameReceive l f s) rfl (decide_eq_true hl)
    (if_pos (by rw [show works (dirStart s.dir) = true from hworks, show (dirStart s.dir).sk.active = true from hactive]; rfl))

/-- A mirror or control frame on a lane that carries traffic is judged by its form and CRC (R373, R382). -/
theorem skFrameIn_active {d : Director} {l : Nat} {f : SkFrame} (hmode : (lane d l).mode = .active) (hok : d.sk.ownOk.getLsbD (physLane d l) = true)
    (htype : f.typeCode = 0x5AA53CC3 ∨ f.typeCode = 0xA55AC33C) (fresh : Nat) : skFrameIn d fresh l f =
      if f.violation || f.bytes.length ≠ 20 + fld (beAt f.bytes 6 2) 12 0
        || crc32c (f.bytes.take (16 + fld (beAt f.bytes 6 2) 12 0)) ≠ beAt f.bytes (16 + fld (beAt f.bytes 6 2) 12 0) 4 then skBad d l true
      else skBody d fresh l (physLane d l) (f.typeCode = 0x5AA53CC3) f.bytes (f.arrival.toNat / 32) := by
  have hn : 20 + fld (beAt f.bytes 6 2) 12 0 - 4 = 16 + fld (beAt f.bytes 6 2) 12 0 := by omega
  unfold skFrameIn
  dsimp only
  rw [if_neg (by rw [hmode, hok]; decide), hn]
  obtain h | h := htype <;> rw [h, if_neg (by decide), if_neg (by decide)]

theorem skFrameIn_good {d : Director} {l : Nat} {f : SkFrame} {len : Nat} (hmode : (lane d l).mode = .active)
    (hok : d.sk.ownOk.getLsbD (physLane d l) = true) (htype : f.typeCode = 0x5AA53CC3 ∨ f.typeCode = 0xA55AC33C) (hviol : f.violation = false)
    (hlen : fld (beAt f.bytes 6 2) 12 0 = len) (hsize : f.bytes.length = 20 + len)
    (hcrc : crc32c (f.bytes.take (16 + len)) = beAt f.bytes (16 + len) 4) (fresh : Nat) :
    skFrameIn d fresh l f = skBody d fresh l (physLane d l) (f.typeCode = 0x5AA53CC3) f.bytes (f.arrival.toNat / 32) := by
  subst hlen
  rw [skFrameIn_active hmode hok htype, if_neg]
  simp [hviol, hsize, hcrc]

/-- What a frame brings once its tag verifies (R373, R599). -/
def bodyTaken (d : Director) (fresh l lg : Nat) (mirror : Bool) (bs : List Byte) (tick : Nat) : Director :=
  let d := modLane d l fun x => { x with crcRun := 0 }
  let len := fld (beAt bs 6 2) 12 0
  let p := (bs.take (8 + len)).drop 8
  if mirror then
    if byteAt bs 5 ≤ 5 || byteAt bs 5 = 0x10 then mirrorPart d lg (BitVec.ofNat 32 (beAt bs 0 4)) (byteAt bs 5) (fld (beAt bs 6 2) 15 13) p else d
  else controlIn (if !d.time.sending && !d.time.running then epochCheck d (BitVec.ofNat 32 (beAt bs 0 4)) else d) fresh (byteAt bs 5) p tick

theorem skBody_good {d : Director} {l lg : Nat} {mirror : Bool} {bs : List Byte} {k : Key} {len : Nat} (hlen : fld (beAt bs 6 2) 12 0 = len)
    (hkey : skKeyAt d (BitVec.ofNat 32 (beAt bs 0 4)) = some k)
    (htag : skTag k (skIv mirror (1 - sideNum d) lg (byteAt bs 4) (BitVec.ofNat 32 (beAt bs 0 4))) (bs.take (8 + len)) = beAt bs (8 + len) 8)
    (hwords : len % 4 = 0) (hmax : len ≤ 4096) (hwidth : (widthLanes (fld (beAt bs 6 2) 15 13) lg).isNone = false) (fresh tick : Nat) :
    skBody d fresh l lg mirror bs tick = bodyTaken d fresh l lg mirror bs tick := by
  subst hlen
  have hkey' : skKeyAt (modLane d l fun x => { x with crcRun := 0 }) (BitVec.ofNat 32 (beAt bs 0 4)) = some k := hkey
  unfold skBody
  dsimp only
  rw [hkey', if_neg, if_neg]
  · rfl
  · rw [hwidth]; simp [hwords, hmax]
  · have htag' : skTag k (skIv mirror (1 - sideNum (modLane d l fun x => { x with crcRun := 0 })) lg (byteAt bs 4) (BitVec.ofNat 32 (beAt bs 0 4)))
        (bs.take (8 + fld (beAt bs 6 2) 12 0)) = beAt bs (8 + fld (beAt bs 6 2) 12 0) 8 := htag
    dsimp only
    rw [decide_eq_true htag']
    decide

/-! A mirror block in one part -/

/-- Words of a body put together again. -/
theorem flatMap_words {n : Nat} {p : List Byte} (h : p.length = 4 * n) : ((List.range n).flatMap fun i => sub p (4 * i) 4) = p := by
  induction n generalizing p with
  | zero => exact (List.eq_nil_of_length_eq_zero h).symm
  | succ n ih =>
    have hfirst : ∀ i ∈ List.range n, sub p (4 * i) 4 = sub (p.take (4 * n)) (4 * i) 4 := fun i hi => by
      have := List.mem_range.mp hi
      rw [sub, sub, List.drop_take, List.take_take, Nat.min_eq_left (by omega)]
    rw [List.range_succ, List.flatMap_append, List.flatMap_congr hfirst, ih (by rw [List.length_take, h]; omega), List.flatMap_singleton, sub,
      List.take_of_length_le (l := p.drop (4 * n)) (by rw [List.length_drop, h]; omega), List.take_append_drop]

theorem interleave_one {p : List Byte} (h : p.length % 4 = 0) : interleave 1 [p] = p := by
  unfold interleave
  simp only [List.headD_cons, Nat.mul_one, Nat.mod_one, Nat.div_one, List.getD_cons_zero]
  exact flatMap_words (by omega)

/-- An entry that was set is the first to pass a test that no other entry passes. -/
theorem find?_tset_of {β : Type} {q : Nat × β → Bool} {k : Nat} {v : β} (hq : q (k, v) = true) (hother : ∀ j w, j ≠ k → q (j, w) = false)
    (t : Table β) : (tset k v t).find? q = some (k, v) := by
  induction t with
  | nil => rw [tset, List.find?_cons_of_pos hq]
  | cons p r ih =>
    obtain ⟨j, w⟩ := p
    rw [tset]
    split
    · exact List.find?_cons_of_pos hq
    · next hj =>
      split
      · exact List.find?_cons_of_pos hq
      · rw [List.find?_cons_of_neg (by rw [hother j w hj]; decide), ih]

/-- The parts kept once a block of a step is complete (R373). -/
def partsLeft (d : Director) (cycle : Cycle) (block : Nat) : Table (Table (Nat × List Byte)) :=
  tdel (cycle.toNat * 256 + block) (d.sk.parts.filter fun x => cycleDiff cycle (BitVec.ofNat 32 (x.1 / 256)) < 4)

/-- A block that came in one part over one lane is complete with it (R372, R373). -/
theorem mirrorPart_one (d : Director) (lg : Nat) (cycle : Cycle) {p : List Byte} (h : p.length = 256) :
    mirrorPart d lg cycle 0x10 1 p = modSk (modSk d fun k => { k with parts := partsLeft d cycle 0x10 })
      fun k => { k with blocks := tset 0x10 (cycle, p) k.blocks } := by
  have hgot : (tset lg (1, p) (tget [] (cycle.toNat * 256 + 0x10) d.sk.parts)).find? (fun x =>
      decide (x.1 = lg) && decide (x.2.1 = 1) && decide (x.2.2.length = 256)) = some (lg, 1, p) :=
    find?_tset_of (by simp [h]) (fun j w hj => by simp [hj]) _
  have hparts : ([some (lg, 1, p)].filterMap fun x : Option (Nat × Nat × List Byte) => x.map (·.2.2)) = [p] := rfl
  have hwhole := interleave_one (p := p) (by omega)
  unfold mirrorPart widthLanes
  simp only [List.range_one, List.map_cons, List.map_nil, Nat.add_zero, hgot, List.all_cons, List.all_nil, Option.isSome_some, Bool.and_self,
    if_true, hparts, hwhole, blockSizeOk, h, decide_true]
  rfl

/-- What a mirror block of one part leaves complete. -/
theorem mirrorBody_one {d : Director} {l lg : Nat} {bs : List Byte} (hlen : fld (beAt bs 6 2) 12 0 = 256) (hsize : bs.length = 276)
    (hwidth : fld (beAt bs 6 2) 15 13 = 1) (hblock : byteAt bs 5 = 0x10) (fresh tick : Nat) :
    tget (0, []) 0x10 (bodyTaken d fresh l lg true bs tick).sk.blocks = (BitVec.ofNat 32 (beAt bs 0 4), sub bs 8 256)
      ∧ (lane (bodyTaken d fresh l lg true bs tick) l).crcRun = 0 := by
  have hp : (bs.take (8 + 256)).drop 8 = sub bs 8 256 := by rw [List.drop_take, sub]
  have hplen : (sub bs 8 256).length = 256 := by rw [sub, List.length_take, List.length_drop, hsize]; rfl
  unfold bodyTaken
  dsimp only
  rw [if_pos rfl, hlen, hp, hblock, hwidth, if_pos (by decide), mirrorPart_one _ _ _ hplen]
  refine ⟨tget_tset_same .., ?_⟩
  exact congrArg Lane.crcRun (lane_modLane d l fun x => { x with crcRun := 0 })

/-! A forwarded block -/

theorem byteAt_body {bs : List Byte} {len i : Nat} (h : i < len) : byteAt ((bs.take (8 + len)).drop 8) i = byteAt bs (8 + i) := by
  rw [byteAt, byteAt, List.getD_eq_getElem?_getD, List.getD_eq_getElem?_getD, List.getElem?_drop, List.getElem?_take, if_pos (by omega)]

theorem leAt_body {bs : List Byte} {len o n : Nat} (h : o + n ≤ len) : leAt ((bs.take (8 + len)).drop 8) o n = leAt bs (8 + o) n := by
  rw [leAt, leAt, sub, sub, List.drop_take, List.drop_take, List.drop_drop, List.take_take, Nat.min_eq_left (by omega)]

theorem byteAt_drop (bs : List Byte) (k i : Nat) : byteAt (bs.drop k) i = byteAt bs (k + i) := by
  rw [byteAt, byteAt, List.getD_eq_getElem?_getD, List.getD_eq_getElem?_getD, List.getElem?_drop]

theorem forwardedIn_block (d : Director) (force : Bool) (p : List Byte) (tick : Nat) :
    forwardedIn d 0x0405 force p tick = acceptBlock d (blockable d (byteAt p 0)) tick := rfl

theorem controlIn_forwarded {p : List Byte} (h : byteAt p 0 = 0x80) (d : Director) (fresh tick : Nat) :
    controlIn d fresh 0x20 p tick = forwardedIn d (leAt p 2 2) (bit (byteAt p 1) 0) (p.drop 4) tick :=
  if_pos h

/-- A forwarded ARM_BLOCK blocks as an own one does (R316). -/
theorem blockBody_one {d : Director} {l lg len : Nat} {bs : List Byte} (hlen : fld (beAt bs 6 2) 12 0 = len) (hmin : 8 ≤ len)
    (hblock : byteAt bs 5 = 0x20) (hrun : d.time.running = true) (hcommand : byteAt bs 8 = 0x80) (hop : leAt bs 10 2 = 0x0405) (fresh tick : Nat) :
    bodyTaken d fresh l lg false bs tick = acceptBlock (modLane d l fun x => { x with crcRun := 0 }) (blockable d (byteAt bs 12)) tick := by
  have h0 : byteAt ((bs.take (8 + len)).drop 8) 0 = 0x80 := (byteAt_body (by omega)).trans hcommand
  have h2 : leAt ((bs.take (8 + len)).drop 8) 2 2 = 0x0405 := (leAt_body (by omega)).trans hop
  have h4 : byteAt (((bs.take (8 + len)).drop 8).drop 4) 0 = byteAt bs 12 := (byteAt_drop ..).trans (byteAt_body (by omega))
  have hrun' : (modLane d l fun x => { x with crcRun := 0 }).time.running = true := hrun
  unfold bodyTaken
  dsimp only
  rw [if_neg (by decide), hlen, hblock, hrun', if_neg (by simp), controlIn_forwarded h0, h2, forwardedIn_block, h4]
  rfl

theorem acceptBlock_lane (d : Director) (as : List Nat) (tick l : Nat) : lane (acceptBlock d as tick) l = lane d l :=
  foldl_keeps (view := (lane · l)) (f := fun d a => blockRequest d a 1 tick) (fun d a => by
    rw [blockRequest, urgentArms_view (view := (lane · l)) fun _ _ _ _ _ => rfl]
    exact enterBlocked_view (view := (lane · l)) (fun _ _ _ => rfl) d a 1) as d

/-- Settles O40: a frame that fails, a mirror block of one frame, and a forwarded ARM_BLOCK. -/
theorem skeundFrames : Obligations.SkeundFrames := by
  unfold Obligations.SkeundFrames
  refine ⟨fun s l f hl hworks hactive hmode hok htype hbad => ?_,
    fun s l f k len hl hworks hactive hmode hok htype hviol hlen hsize hcrc hkey htag hwidth hblock h256 => ?_,
    fun s l f k len hl hworks hactive hmode hok htype hviol hlen hsize hcrc hkey htag hwidth hblock hwords hmin hmax hrun hcommand hop => ?_⟩
  · obtain ⟨t, hnext, h⟩ := skeundFrameReceive_reaches hl hworks hactive f
    rw [skFrameIn_active (d := dirStart s.dir) hmode hok htype, if_pos (by simpa [or_assoc] using hbad)] at h
    have hlane := (h.lane l).trans (lane_modLane ..)
    exact ⟨t, hnext, by rw [hlane]; rfl, by rw [hlane]; rfl, by rw [h.sk]; rfl, by rw [h.sk]; rfl, by rw [h.arms]; rfl, by rw [h.cfg]; rfl⟩
  · obtain ⟨t, hnext, h⟩ := skeundFrameReceive_reaches hl hworks hactive f
    have hwide : (widthLanes (fld (beAt f.bytes 6 2) 15 13) (physLane (dirStart s.dir) l)).isNone = false := by rw [hwidth]; rfl
    rw [skFrameIn_good (d := dirStart s.dir) hmode hok (.inl htype) hviol hlen hsize hcrc, decide_eq_true htype,
      skBody_good (d := dirStart s.dir) (lg := physLane (dirStart s.dir) l) hlen hkey htag (by omega) (by omega) hwide] at h
    obtain ⟨hdone, hrunZero⟩ := mirrorBody_one (d := dirStart s.dir) (l := l) (lg := physLane (dirStart s.dir) l) (hlen.trans h256)
      (by rw [hsize, h256]) hwidth hblock s.fresh (f.arrival.toNat / 32)
    exact ⟨t, hnext, by rw [h.sk]; exact hdone, by rw [h.lane]; exact hrunZero⟩
  · obtain ⟨t, hnext, h⟩ := skeundFrameReceive_reaches hl hworks hactive f
    have hwide : (widthLanes (fld (beAt f.bytes 6 2) 15 13) (physLane (dirStart s.dir) l)).isNone = false := by rw [hwidth]; rfl
    rw [skFrameIn_good (d := dirStart s.dir) hmode hok (.inr htype) hviol hlen hsize hcrc,
      decide_eq_false (show ¬ f.typeCode = 0x5AA53CC3 by rw [htype]; decide), skBody_good (d := dirStart s.dir) (lg := physLane (dirStart s.dir) l) hlen hkey htag hwords hmax hwide,
      blockBody_one (d := dirStart s.dir) hlen hmin hblock hrun hcommand hop] at h
    refine ⟨t, hnext, ?_, fun a ha => ?_⟩
    · rw [h.lane, acceptBlock_lane, lane_modLane]
    · rw [h.arm, acceptBlock_mode]
      exact if_pos ha

end Sys2Proof.Machine
end

section
/-! PROOF. Proving (R90 to R92, R556). -/

namespace Sys2Proof.Machine

/-! What proving leaves -/

/-- A cell record once its proving is over (R90, R556). -/
def provenRec (r : CellRec) : CellRec := { r with
  link := .proven, errSum := 0, errCount := 0, block := none, unreported := true, everUsable := false, unusable := 0
  cfgStep := if r.keyedFrom.isSome then 2 else 1, cfgIndex := 0, retries := 0, reading := none }

/-- A cell within its tree's delay is proven (R90). -/
def provenWith (d : Director) (n id : Nat) (o : Nat × Nat) : Director :=
  raise (modPort (writeOffsets (modRec d id provenRec) id o) n fun p => { p with joinOk := satInc p.joinOk }) n 0x04 (b2 id ++ b2 o.1 ++ b2 o.2)

/-- The offsets of the round trip that a block of a cell measured (R87, R90). -/
def measured (d : Director) (n id : Nat) (sum : Int) : Nat × Nat :=
  offsetsOf (cfg d) n ((cellRec d id).dnOfs + (cellRec d id).upOfs + roundHalfUp sum 64)

theorem writeOffsets_cells (d : Director) (id : Nat) (o : Nat × Nat) : (writeOffsets d id o).cells = d.cells := mgmtTo_cells ..

theorem writeOffsets_cellRec (d : Director) (id : Nat) (o : Nat × Nat) (j : Nat) : cellRec (writeOffsets d id o) j = cellRec d j := by
  rw [cellRec, writeOffsets_cells, cellRec]

/-- The record that writes a cell's offsets (R85, R131). -/
def offsetsRecord (id : Nat) (o : Nat × Nat) : MgmtRec :=
  { secured id { mtype := 0x06, dest := cellSlot id, body := toBE 2 o.1 ++ toBE 2 o.2 ++ zeros 4, cell := some id } with cycAt := [4] }

theorem writeOffsets_mgmt {d : Director} {id n : Nat} (h : cellPort (part d) id = some n) (o : Nat × Nat) :
    (port (writeOffsets d id o) n).mgmt = (port d n).mgmt ++ [offsetsRecord id o] :=
  mgmtTo_mgmt h ..

theorem raise_port (d : Director) (source detail : Nat) (data : List Byte) (n : Nat) : port (raise d source detail data) n = port d n := by
  rw [port, raise_ports, port]

theorem raise_cellRec (d : Director) (source detail : Nat) (data : List Byte) (id : Nat) :
    cellRec (raise d source detail data) id = cellRec d id := by
  rw [cellRec, raise_cells, cellRec]

theorem port_modPort_view {β : Type} {view : Port → β} {f : Port → Port} (h : ∀ p, view (f p) = view p) (d : Director) (n m : Nat) :
    view (port (modPort d n f) m) = view (port d m) := by
  by_cases hm : m = n
  · subst hm
    rw [port_modPort, h]
  · rw [port_modPort_other _ hm]

theorem mgmtTo_port_view {β : Type} {view : Port → β} (hview : ∀ p l, view { p with mgmt := l } = view p) (d : Director) (id mtype : Nat)
    (body : List Byte) (r : MgmtRec → MgmtRec) (m : Nat) : view (port (mgmtTo d id mtype body r) m) = view (port d m) := by
  unfold mgmtTo
  split
  · rfl
  · exact port_modPort_view (fun p => hview p _) ..

theorem provenWith_cell (d : Director) (n id : Nat) (o : Nat × Nat) : cellRec (provenWith d n id o) id = provenRec (cellRec d id) :=
  (raise_cellRec ..).trans ((writeOffsets_cellRec ..).trans (cellRec_modRec d id provenRec))

theorem provenWith_port (d : Director) (n id : Nat) (o : Nat × Nat) :
    port (provenWith d n id o) n = { port (writeOffsets (modRec d id provenRec) id o) n with
      joinOk := satInc (port (writeOffsets (modRec d id provenRec) id o) n).joinOk } :=
  (raise_port ..).trans (port_modPort _ n fun p => { p with joinOk := satInc p.joinOk })

theorem dropCell_link (d : Director) (id cause : Nat) (l : CellLink) : (cellRec (dropCell d id cause l) id).link = l :=
  congrArg CellRec.link (cellRec_modRec ..)

theorem delayExcess_counts (d : Director) (n id : Nat) (o : Nat × Nat) :
    (port (delayExcess d n id o) n).delayExcess = satInc (port d n).delayExcess := by
  have hcount := congrArg Port.delayExcess (port_modPort d n fun p => { p with delayExcess := satInc p.delayExcess })
  unfold delayExcess
  dsimp only
  split
  · exact hcount
  · exact (congrArg Port.delayExcess (raise_port ..)).trans hcount

theorem refuseDelay_counts (d : Director) (n id : Nat) (o : Nat × Nat) :
    (port (refuseDelay d n id o) n).delayExcess = satInc (port d n).delayExcess :=
  (mgmtTo_port_view (view := Port.delayExcess) (fun _ _ => rfl) (delayExcess d n id o) id 0x05 ..).trans (delayExcess_counts ..)

/-! The two steps -/

theorem initialProving_reaches {s : State} {id n : Nat} {sum : Int} (hid : id < 3168) (hworks : works s.dir = true)
    (hport : cellPort (part s.dir) id = some n) (hlink : (cellRec s.dir id).link = .proving) (hblock : (cellRec s.dir id).block = some sum) :
    ∃ t, exec (.initialProving id) s = .next t ∧ Reached s t (if tooFar (cfg s.dir) n (measured s.dir n id sum)
      then refuseDelay (dirStart s.dir) n id (measured s.dir n id sum) else provenWith (dirStart s.dir) n id (measured s.dir n id sum)) := by
  have hport' : cellPort (part (dirStart s.dir)) id = some n := hport
  have hblock' : (cellRec (dirStart s.dir) id).block = some sum := hblock
  have hbar : (!works (dirStart s.dir) || (cellRec (dirStart s.dir) id).link ≠ .proving) = false := by
    rw [show works (dirStart s.dir) = true from hworks, show (cellRec (dirStart s.dir) id).link = .proving from hlink]; rfl
  refine unit_reaches (o := execInitialProving id s) rfl (decide_eq_true hid) ?_
  dsimp only
  rw [hport']
  dsimp only
  rw [hblock']
  dsimp only
  exact if_neg (Bool.eq_false_iff.mp hbar)

/-- An offset and the one in force, moved at most 80 units (R91). -/
def nearby (old new : Nat) : Nat := (clampInt ((old : Int) - 80) (old + 80) new).toNat

theorem nearby_eq {old new : Nat} (hlow : new ≤ old + 80) (hhigh : old ≤ new + 80) : nearby old new = new := by
  unfold nearby clampInt
  omega

/-- What a block of a proven cell leads to (R91, R92). -/
def reproved (d : Director) (n id : Nat) (sum : Int) : Director :=
  if sum.natAbs ≤ 512 then d else
    let o := (nearby (cellRec d id).dnOfs (measured d n id sum).1, nearby (cellRec d id).upOfs (measured d n id sum).2)
    if tooFar (cfg d) n o then refuseDelay d n id o else
      modCellCnt (writeOffsets d id o) id fun t => { t with reprove := satInc t.reprove }

/-- A cell record whose block was taken. -/
def blockTaken (r : CellRec) : CellRec := { r with block := none }

theorem provingBlock_reaches {s : State} {id n : Nat} {sum : Int} (hid : id < 3168) (hworks : works s.dir = true)
    (hport : cellPort (part s.dir) id = some n) (hlink : (cellRec s.dir id).link = .proven) (hblock : (cellRec s.dir id).block = some sum) :
    ∃ t, exec (.provingBlock id) s = .next t ∧ Reached s t (reproved (modRec (dirStart s.dir) id blockTaken) n id sum) := by
  have hport' : cellPort (part (dirStart s.dir)) id = some n := hport
  have hblock' : (cellRec (dirStart s.dir) id).block = some sum := hblock
  have hbar : (!works (dirStart s.dir) || (cellRec (dirStart s.dir) id).link ≠ .proven) = false := by
    rw [show works (dirStart s.dir) = true from hworks, show (cellRec (dirStart s.dir) id).link = .proven from hlink]; rfl
  refine unit_reaches (o := execProvingBlock id s) rfl (decide_eq_true hid) ?_
  dsimp only
  rw [hport']
  dsimp only
  rw [hblock']
  dsimp only
  rw [if_neg (Bool.eq_false_iff.mp hbar), reproved, measured, cellRec_modRec]
  rfl

/-- Settles O37: the first proving, the blocks after it, and a cell beyond the tree's delay. -/
theorem proving : Obligations.Proving := by
  unfold Obligations.Proving
  refine ⟨fun s id n sum o hid hworks hport hlink hblock ho hfar => ?_, fun s id n sum hid hworks hport hlink hblock hsmall => ?_,
    fun s id n sum o hid hworks hport hlink hblock hlarge ho hdnHigh hdnLow hupHigh hupLow hfar => ?_,
    fun s id n sum o hid hworks hport hlink hblock ho hfar => ?_⟩
  · obtain ⟨t, hnext, h⟩ := initialProving_reaches hid hworks hport hlink hblock
    have ho' : measured s.dir n id sum = o := ho.symm
    rw [ho', hfar, if_neg (by decide)] at h
    have hcell := (h.cellRec id).trans (provenWith_cell ..)
    have hrec := (h.port n).trans (provenWith_port ..)
    refine ⟨t, offsetsRecord id o, hnext, by rw [hcell]; rfl, by rw [hcell]; rfl, ?_, ?_, rfl, rfl, rfl, rfl⟩
    · rw [hrec]
      exact congrArg satInc (mgmtTo_port_view (view := Port.joinOk) (fun _ _ => rfl) ..)
    · rw [hrec]
      exact writeOffsets_mgmt (d := modRec (dirStart s.dir) id provenRec) hport o
  · obtain ⟨t, hnext, h⟩ := provingBlock_reaches hid hworks hport hlink hblock
    rw [reproved, if_pos hsmall] at h
    have hcell := (h.cellRec id).trans (cellRec_modRec ..)
    exact ⟨t, hnext, by rw [hcell]; exact hlink, by rw [hcell]; rfl, h.ports.trans rfl⟩
  · obtain ⟨t, hnext, h⟩ := provingBlock_reaches hid hworks hport hlink hblock
    have hrec : cellRec (modRec (dirStart s.dir) id blockTaken) id = blockTaken (cellRec s.dir id) := cellRec_modRec ..
    have ho' : measured (modRec (dirStart s.dir) id blockTaken) n id sum = o := by rw [measured, hrec]; exact ho.symm
    rw [reproved, if_neg (by omega), ho', hrec] at h
    rw [show nearby (blockTaken (cellRec s.dir id)).dnOfs o.1 = o.1 from nearby_eq hdnHigh hdnLow,
      show nearby (blockTaken (cellRec s.dir id)).upOfs o.2 = o.2 from nearby_eq hupHigh hupLow] at h
    dsimp only at h
    rw [if_neg (Bool.eq_false_iff.mp (show tooFar (cfg (modRec (dirStart s.dir) id blockTaken)) n o = false from hfar))] at h
    have hcell := (h.cellRec id).trans (cellRec_modRec ..)
    have hkept : cellRec (writeOffsets (modRec (dirStart s.dir) id blockTaken) id o) id = blockTaken (cellRec s.dir id) :=
      (writeOffsets_cellRec ..).trans hrec
    rw [hkept] at hcell
    refine ⟨t, offsetsRecord id o, hnext, by rw [hcell]; exact hlink, by rw [hcell]; rfl, by rw [hcell]; rfl, ?_, rfl, rfl, rfl⟩
    rw [h.port]
    exact writeOffsets_mgmt (d := modRec (dirStart s.dir) id blockTaken) hport o
  · obtain ⟨t, hnext, h⟩ := initialProving_reaches hid hworks hport hlink hblock
    have ho' : measured s.dir n id sum = o := ho.symm
    rw [ho', hfar, if_pos rfl] at h
    refine ⟨t, hnext, ?_, ?_⟩
    · rw [h.cellRec]
      exact dropCell_link ..
    · rw [h.port]
      exact refuseDelay_counts ..

end Sys2Proof.Machine
end

section
/-! PROOF. Order frames and the BLOCK_IN pins (R44, R55 to R63, R108 to R132, R290, R342). -/

namespace Sys2Proof.Machine

/-! What assembly changes: the ports, cells, arms, mailboxes and events -/

theorem foldl_pair_view {α β γ : Type} {view : Director → β} {f : Director × γ → α → Director × γ} (h : ∀ x y, view (f x y).1 = view x.1) (l : List α)
    (x : Director × γ) : view (l.foldl f x).1 = view x.1 := by
  induction l generalizing x with
  | nil => rfl
  | cons y r ih => rw [List.foldl_cons, ih, h]

section
variable {β : Type} {view : Director → β} (hview : ∀ d p c a m r, view { d with ports := p, cells := c, arms := a, mbs := m, ring := r } = view d)
include hview

theorem asm_modPort (d : Director) (n : Nat) (f : Port → Port) : view (modPort d n f) = view d := hview d _ d.cells d.arms d.mbs d.ring
theorem asm_modRec (d : Director) (id : Nat) (f : CellRec → CellRec) : view (modRec d id f) = view d := hview d d.ports _ d.arms d.mbs d.ring
theorem asm_modArm (d : Director) (a : Nat) (f : Arm → Arm) : view (modArm d a f) = view d := hview d d.ports d.cells _ d.mbs d.ring
theorem asm_modCmd (d : Director) (mb : Nat) (f : Cmd → Cmd) : view (modCmd d mb f) = view d := hview d d.ports d.cells d.arms _ d.ring
theorem asm_ring (d : Director) (r : EventRing) : view { d with ring := r } = view d := hview d d.ports d.cells d.arms d.mbs r

theorem asm_decide (d : Director) (mb : Option Nat) (st : Nat) (p : List Byte) : view (decide_ d mb st p) = view d := by
  rw [decide_eq_mbs]
  exact hview d d.ports d.cells d.arms _ d.ring

theorem slotRecord_view (d : Director) (a p n : Nat) (oc : Cycle) (nop : Bool) : view (slotRecord d a p n oc nop).1 = view d := by
  unfold slotRecord
  extract_lets id e
  have he : view e = view d := ite_keeps (asm_modArm hview ..) rfl
  clear_value e
  split
  split
  split
  · exact he
  · split
    next r cl _ =>
    extract_lets g missed h
    have hg : view g = view e := ite_keeps ((raiseLim_view (asm_ring hview) ..).trans (asm_modRec hview ..)) rfl
    have hh : view h = view g := (asm_modRec hview missed ..).trans (asm_modPort hview g ..)
    split
    · exact hg.trans he
    · exact (raiseLim_view (asm_ring hview) ..).trans (hh.trans (hg.trans he))

theorem portRecords_view (d : Director) (a t n : Nat) (oc : Cycle) (nop : Bool) : view (portRecords d a t n oc nop).1 = view d := by
  unfold portRecords
  refine foldl_pair_view (view := view) (fun x s => ?_) (List.range 64) (d, [])
  obtain ⟨e, l⟩ := x
  dsimp only
  exact slotRecord_view hview e ..

theorem noteRecords_view (d : Director) (a t n : Nat) (oc : Cycle) (recs : List Rec) : view (noteRecords d a t n oc recs) = view d := by
  unfold noteRecords
  extract_lets e here g past h j held k
  have he : view e = view d := foldl_keeps (fun d x => ite_keeps (asm_modArm hview ..) ((asm_modArm hview ..).trans (asm_modRec hview ..))) _ d
  have hg : view g = view e := foldl_keeps (fun d x => asm_decide hview ..) _ e
  have hh : view h = view g := foldl_keeps (fun d x => asm_decide hview ..) _ g
  have hk : view k = view h := (asm_modArm hview j ..).trans (asm_modArm hview h ..)
  refine (foldl_keeps (fun d q => ?_) held k).trans (hk.trans (hh.trans (hg.trans he)))
  exact ite_keeps (asm_decide hview ..) (ite_keeps (asm_modArm hview ..) (ite_keeps (asm_decide hview ..) (asm_modArm hview ..)))

theorem calOverdue_view (d : Director) (id : Nat) : view (calOverdue d id) = view d := by
  unfold calOverdue
  dsimp only
  split
  · rfl
  · exact ite_keeps ((raise_view (asm_ring hview) ..).trans (asm_modRec hview ..)) (ite_keeps (asm_modRec hview ..) rfl)

theorem cfgSkip_view (d : Director) (id : Nat) : view (cfgSkip d id) = view d := by
  unfold cfgSkip
  refine ite_keeps (asm_modRec hview ..) (ite_keeps ?_ rfl)
  split
  · exact ite_keeps (asm_modRec hview ..) rfl
  · exact asm_modRec hview ..

theorem cfgQueue_view (d : Director) (n : Nat) : view (cfgQueue d n) = view d := by
  unfold cfgQueue
  refine ite_keeps rfl ?_
  extract_lets ids ids' e
  have he : view e = view d := foldl_keeps (cfgSkip_view hview) ids' d
  clear_value e
  split
  · exact (asm_modRec hview ..).trans ((asm_modPort hview ..).trans he)
  · exact he

theorem diagSubs_view (d : Director) (n : Nat) : view (diagSubs d n) = view d :=
  foldl_keeps (fun _ _ => ite_keeps (ite_keeps rfl (asm_modPort hview ..)) rfl) _ d

theorem noteWrite_view (d : Director) (id : Nat) (body : List Byte) (cycle : Cycle) : view (noteWrite d id body cycle) = view d :=
  foldl_keeps (fun _ _ => (asm_modRec hview ..).trans (ite_keeps (asm_modArm hview ..) rfl)) _ d

theorem notePlaced_view (d : Director) (r : MgmtRec) (cycle : Cycle) : view (notePlaced d r cycle) = view d := by
  unfold notePlaced
  extract_lets at_ first e
  have he : view e = view d := by
    simp only [e]
    split
    · refine ite_keeps rfl ?_
      split
      · split
        · exact asm_modPort hview ..
        · rfl
      · exact asm_modRec hview ..
      · exact asm_modRec hview ..
      · exact asm_modRec hview ..
      · exact asm_modRec hview ..
      · exact asm_modRec hview ..
      · exact asm_modRec hview ..
      · exact noteWrite_view hview ..
      · exact asm_modRec hview ..
      · rfl
    · rfl
  clear_value e
  split
  · exact (asm_modCmd hview ..).trans he
  · split
    · exact (asm_modRec hview ..).trans he
    · exact he
  · split
    · exact (asm_modRec hview ..).trans he
    · exact he
  · exact he

theorem assignSub_view (d : Director) (n id : Nat) (cycle : Cycle) : view (assignSub d n id cycle).1 = view d := by
  unfold assignSub
  dsimp only
  split
  · exact asm_modPort hview ..
  · rfl

theorem packArea_view (k : Nat) (d : Director) (n : Nat) (cycle : Cycle) (q : List MgmtRec) (off : Nat) (acc : List Byte) (keep : List MgmtRec) :
    view (packArea k d n cycle q off acc keep).1 = view d := by
  induction k generalizing d q off acc keep with
  | zero => rfl
  | succ k ih =>
    cases q with
    | nil => rfl
    | cons r q =>
      rw [packArea]
      split
      · exact ih ..
      · split
        · split
          · next e sr hsub =>
            obtain ⟨id, -, hid⟩ := Option.map_eq_some_iff.mp hsub
            exact (ih ..).trans ((congrArg (fun x => view x.1) hid).symm.trans (assignSub_view hview ..))
          · exact ih ..
        · have hplaced := notePlaced_view hview d r cycle
          dsimp only
          split
          · split
            · split
              · next e sr hsub =>
                exact (ih ..).trans ((congrArg (fun x => view x.1) hsub).symm.trans ((assignSub_view hview ..).trans hplaced))
              · next e hsub =>
                exact (ih ..).trans ((congrArg (fun x => view x.1) hsub).symm.trans ((assignSub_view hview ..).trans hplaced))
            · exact (ih ..).trans hplaced
          · exact (ih ..).trans hplaced
end

/-! One frame of the order cycle -/

theorem foldl_records_length {α : Type} {f : Director × List Rec → α → Director × List Rec} (h : ∀ x y, (f x y).2.length = x.2.length + 1)
    (l : List α) (x : Director × List Rec) : (l.foldl f x).2.length = x.2.length + l.length := by
  induction l generalizing x with
  | nil => rfl
  | cons y r ih => rw [List.foldl_cons, ih, h, List.length_cons]; omega

theorem portRecords_length (d : Director) (a t n : Nat) (oc : Cycle) (nop : Bool) : (portRecords d a t n oc nop).2.length = 64 := by
  unfold portRecords
  refine (foldl_records_length (fun x s => ?_) (List.range 64) (d, [])).trans (by rw [List.length_range]; rfl)
  obtain ⟨e, l⟩ := x
  dsimp only
  rw [List.length_append, List.length_singleton]

theorem recBytes_length (r : Rec) : (recBytes r).length = 8 := by
  rw [recBytes, List.length_append, toBE_length, List.length_singleton]

theorem flatMap_recBytes_length (l : List Rec) : (l.flatMap recBytes).length = 8 * l.length := by
  rw [flatMap_length_const (k := 8) fun r _ => recBytes_length r]

theorem frameHeader_length (d : Director) (n : Nat) (oc : Cycle) (blocked susp join mgmt : Bool) (iarm : Nat) (sat : Bool) (clen : Nat) :
    (frameHeader d n oc blocked susp join mgmt iarm sat clen).length = 16 := by
  rw [frameHeader, List.length_append, toBE_length, toBE_length]

theorem frameHeader_cycle (d : Director) (n : Nat) (oc : Cycle) (blocked susp join mgmt : Bool) (iarm : Nat) (sat : Bool) (clen : Nat) (l : List Byte) :
    (frameHeader d n oc blocked susp join mgmt iarm sat clen ++ l).take 4 = toBE 4 oc.toNat := by
  rw [frameHeader, List.append_assoc, List.take_append_of_le_length (by rw [toBE_length]), List.take_of_length_le (by rw [toBE_length])]

/-- The records of a port with the CAL_PERMIT of its tree (R220, R568). -/
def permitted (x : Director × List Rec) (a : Nat) : Option Nat → Director × List Rec
  | some p => (modCntA (modRec x.1 (a * 512 + p) fun r => { r with permitAt := some x.1.time.starts }) a fun t => { t with calPermits := satInc t.calPermits },
      x.2.set (p % 64) (let r := x.2.getD (p % 64) nopRec; { r with flags := r.flags + 16 }))
  | none => x

theorem permitted_length (x : Director × List Rec) (a : Nat) (p : Option Nat) : (permitted x a p).2.length = x.2.length := by
  cases p with
  | none => rfl
  | some p => exact List.length_set ..

/-- What is noted of the records of a port (R290, R327, R571). -/
def recorded (c : Cfg) (x : Director × List Rec) (a t n : Nat) (oc : Cycle) : Director :=
  ((armCells c a).filter fun p => p / 64 = t).foldl (fun d p => calOverdue d (a * 512 + p)) (noteRecords x.1 a t n oc x.2)

/-- The frame of a port with its records, once the management area is packed (R108, R109, R127). -/
def framed (e : Director) (d : Director) (n : Nat) (recs : List Rec) (blocked : Bool) (iarm : Nat) (sat : Bool) : Director :=
  let oc := frameOrder d n
  let susp := slotsSuspended d n oc
  let e := diagSubs (cfgQueue e n) n
  let jw := openWindow e n oc
  let jb := match jw with
    | some (j0, jl) => [0x12, 0xFF, 8, 0] ++ toBE 4 j0 ++ toBE 2 jl ++ zeros 2
    | none => []
  let q := (port e n).mgmt
  let x := packArea (q.length + 1) e n oc q jb.length jb []
  let e := modPort x.1 n fun p => { p with
    mgmt := x.2.2, joinOpen := match jw with | some (j0, jl) => some (oc, j0, jl) | none => p.joinOpen
    built := some oc
    suspended := if susp then oc :: p.suspended.take 3 else p.suspended
    subs := p.subs.filter fun s => cycleDiff s.1 (cyc x.1) ≥ -2 }
  let hdr := frameHeader e n oc blocked susp jw.isSome (!x.2.1.isEmpty) iarm sat (lenOf d oc)
  let body := hdr ++ recs.flatMap recBytes ++ padTo 64 x.2.1
  modPort e n fun p => { p with frame := some {
    cycle := oc, body := body, depart := departOf e (frameCycle d n) (planF (cfg d)), phase := (keyFor (treeKey e n) oc).1 } }

/-- Assembly frames the records of the port's arm, or NOP on a measurement port. -/
theorem assemble_eq (d : Director) (n : Nat) : ∃ e recs blocked iarm sat, assemble d n = framed e d n recs blocked iarm sat
    ∧ recs.length = 64 ∧ (e = d ∨ ∃ a t nop p, e = recorded (cfg d) (permitted (portRecords d a t n (frameOrder d n) nop) a p) a t n (frameOrder d n)) := by
  unfold assemble
  extract_lets c k oc clen susp stepNop
  cases armOfPort (part d) n with
  | none => exact ⟨d, _, _, _, _, rfl, List.length_replicate, .inl rfl⟩
  | some y =>
    obtain ⟨a, t⟩ := y
    dsimp only
    generalize hx : portRecords d a t n oc _ = x
    generalize permitCell x.1 a t _ = p
    have hlen : (permitted x a p).2.length = 64 := by rw [permitted_length, ← hx, portRecords_length]
    refine ⟨recorded c (permitted x a p) a t n oc, (permitted x a p).2, (arm d a).mode = .blocked, (arm d a).iarm.toNat, (arm d a).iarmSat, ?_, hlen, .inr ⟨a, t, _, p, by rw [hx]⟩⟩
    cases p <;> rfl

section
variable {β : Type} {view : Director → β} (hview : ∀ d p c a m r, view { d with ports := p, cells := c, arms := a, mbs := m, ring := r } = view d)
include hview

theorem permitted_view (x : Director × List Rec) (a : Nat) (p : Option Nat) : view (permitted x a p).1 = view x.1 := by
  cases p with
  | none => rfl
  | some _ => exact (asm_modArm hview ..).trans (asm_modRec hview ..)

theorem recorded_view (c : Cfg) (x : Director × List Rec) (a t n : Nat) (oc : Cycle) : view (recorded c x a t n oc) = view x.1 :=
  (foldl_keeps (view := view) (f := fun d p => calOverdue d (a * 512 + p)) (fun d _ => calOverdue_view hview d _) _ _).trans (noteRecords_view hview ..)
end

theorem departOf_of {e d : Director} (h : (e.cfg, e.time) = (d.cfg, d.time)) (k : Cycle) (pos : Nat) : departOf e k pos = departOf d k pos := by
  obtain ⟨hcfg, htime⟩ := Prod.mk.inj h
  rw [departOf, departOf, lenOf, lenOf, cyc, cyc, cfg, cfg, hcfg, htime]

/-- What a framed port holds (R108, R109, R127). -/
theorem framed_frame {e d : Director} {n : Nat} {recs : List Rec} {blocked sat : Bool} {iarm : Nat} (hrecs : recs.length = 64)
    (hview : (e.cfg, e.time) = (d.cfg, d.time)) (hwrites : e.writes = []) :
    ∃ f, (port (framed e d n recs blocked iarm sat) n).frame = some f ∧ f.cycle = frameOrder d n ∧ f.body.length = 592
      ∧ f.body.take 4 = toBE 4 f.cycle.toNat ∧ f.depart = departOf d (frameCycle d n) (planF (cfg d)) ∧ f.first = false
      ∧ (port (framed e d n recs blocked iarm sat) n).built = some f.cycle ∧ (framed e d n recs blocked iarm sat).writes = [] := by
  unfold framed
  extract_lets oc susp g jw jb q x h hdr body
  have hg {β : Type} {view : Director → β} (hv : ∀ d p c a m r, view { d with ports := p, cells := c, arms := a, mbs := m, ring := r } = view d) :
      view g = view e := (diagSubs_view hv ..).trans (cfgQueue_view hv ..)
  have hh {β : Type} {view : Director → β} (hv : ∀ d p c a m r, view { d with ports := p, cells := c, arms := a, mbs := m, ring := r } = view d) :
      view h = view e := (asm_modPort hv ..).trans ((packArea_view hv ..).trans (hg hv))
  have hbuilt : (port h n).built = some oc := congrArg Port.built (port_modPort ..)
  have hdepart := departOf_of ((hh (view := fun d => (d.cfg, d.time)) fun _ _ _ _ _ _ => rfl).trans hview) (frameCycle d n) (planF (cfg d))
  clear_value h g
  refine ⟨_, congrArg Port.frame (port_modPort ..), rfl, ?_, ?_, hdepart, rfl, ?_, ?_⟩
  · show body.length = 592
    rw [List.length_append, List.length_append, frameHeader_length, flatMap_recBytes_length, hrecs, padTo_length]
  · show body.take 4 = toBE 4 oc.toNat
    rw [show body = hdr ++ (recs.flatMap recBytes ++ padTo 64 x.2.1) from List.append_assoc .., frameHeader_cycle]
  · exact (congrArg Port.built (port_modPort ..)).trans hbuilt
  · exact (hh (view := Director.writes) fun _ _ _ _ _ _ => rfl).trans hwrites

theorem orderAssembly_frames {s : State} {n : Nat} (hn : n < 52) (hhere : portHere (part s.dir) n = true)
    (hframes : framesOn s.dir (frameOrder s.dir n) = true) (hstream : streaming s.dir n = true) (hbuilt : (port s.dir n).built ≠ some (frameOrder s.dir n)) :
    ∃ t f, exec (.orderAssembly n) s = .next t ∧ (port t.dir n).frame = some f ∧ f.cycle = frameOrder s.dir n ∧ f.body.length = 592
      ∧ f.body.take 4 = toBE 4 f.cycle.toNat ∧ f.depart = departOf s.dir (frameCycle s.dir n) (planF (cfg s.dir))
      ∧ f.first = false ∧ (port t.dir n).built = some f.cycle ∧ t.mem = s.mem := by
  have hbar : (portHere (part (dirStart s.dir)) n && framesOn (dirStart s.dir) (frameOrder (dirStart s.dir) n) && streaming (dirStart s.dir) n
      && (port (dirStart s.dir) n).built != some (frameOrder (dirStart s.dir) n)) = true := by
    rw [show portHere (part (dirStart s.dir)) n = true from hhere, show framesOn (dirStart s.dir) (frameOrder (dirStart s.dir) n) = true from hframes,
      show streaming (dirStart s.dir) n = true from hstream]
    exact bne_iff_ne.mpr hbuilt
  obtain ⟨t, hnext, h⟩ := unit_reaches (s := s) (o := execOrderAssembly n s) rfl (decide_eq_true hn) (if_pos hbar)
  obtain ⟨e, recs, blocked, iarm, sat, heq, hlen, he⟩ := assemble_eq (dirStart s.dir) n
  have hkeeps {β : Type} {view : Director → β} (hv : ∀ d p c a m r, view { d with ports := p, cells := c, arms := a, mbs := m, ring := r } = view d) :
      view e = view (dirStart s.dir) := by
    rcases he with he | ⟨a, t, nop, p, he⟩
    · rw [he]
    · rw [he]
      exact (recorded_view hv ..).trans ((permitted_view hv ..).trans (portRecords_view hv ..))
  obtain ⟨f, hframe, hcycle, hbody, htake, hdepart, hfirst, hdone, hquiet⟩ := framed_frame (n := n) (blocked := blocked) (iarm := iarm) (sat := sat) hlen
    (hkeeps (view := fun d => (d.cfg, d.time)) fun _ _ _ _ _ _ => rfl) (hkeeps (view := Director.writes) fun _ _ _ _ _ _ => rfl)
  rw [heq] at h
  exact ⟨t, f, hnext, by rw [h.port]; exact hframe, hcycle, hbody, htake, hdepart, hfirst, by rw [h.port]; exact hdone, h.mem_of_quiet hquiet⟩

/-! The launch -/

theorem Reached.tx_mem {s t : State} {d : Director} (h : Reached s t d) {x : Tx} (hx : x ∈ d.tx) : x ∈ t.dir.tx := by
  obtain ⟨l, hl⟩ := h.tx
  rw [hl]
  exact List.mem_append_left _ hx

theorem nopFrame_body {f : OrderFrame} (hlen : f.body.length = 592) {i : Nat} (hi : i < 64) : sub (nopFrame f).body (16 + 8 * i) 8 = recBytes nopRec := by
  have hhead : (f.body.take 16).length = 16 := by rw [List.length_take, hlen]; rfl
  have hblock : (List.replicate 64 (recBytes nopRec)).flatten = (List.replicate i (recBytes nopRec)).flatten
      ++ (recBytes nopRec ++ (List.replicate (63 - i) (recBytes nopRec)).flatten) := by
    rw [← List.flatten_cons, ← List.flatten_append, ← List.replicate_succ, List.replicate_append_replicate]
    congr 2
    omega
  have hpre : ((List.replicate i (recBytes nopRec)).flatten).length = 8 * i := by
    rw [List.length_flatten, List.map_replicate, List.sum_replicate, recBytes_length]
    exact Nat.mul_comm ..
  show ((f.body.take 16 ++ (List.replicate 64 (recBytes nopRec)).flatten ++ f.body.drop 528).drop (16 + 8 * i)).take 8 = _
  rw [hblock, List.append_assoc, List.append_assoc, ← List.append_assoc (f.body.take 16),
    List.drop_left' (by rw [List.length_append, hhead, hpre]), List.append_assoc, List.take_left' (recBytes_length _)]

theorem answerLaunched_view {β : Type} {view : Director → β} (hview : ∀ d m h r, view { d with mbs := m, host := h, ring := r } = view d)
    (d : Director) (n : Nat) : view (answerLaunched d n) = view d := by
  refine foldl_keeps (fun d mb => ?_) _ d
  split
  · split
    · exact ite_keeps (respond_view hview ..) rfl
    · rfl
  · rfl

theorem answerLaunched_eventsKept (d : Director) (n : Nat) : EventsKept (answerLaunched d n) d := by
  refine foldl_eventsKept (fun d mb => ?_) _ d
  split
  · split
    · exact .ite (respond_eventsKept ..) (.refl d)
    · exact .refl d
  · exact .refl d

/-- A first copy leaves its port (R70 to R76, R110). -/
def launched (d : Director) (n : Nat) (f : OrderFrame) : Director :=
  modPort (answerLaunched (modTime (sendCopy d n f false f.depart) fun t => { t with sending := true }) n) n fun p => { p with
    frame := some { f with first := true, ticks := ceilDiv (copyLine d n f false f.depart).length 4 } }

/-- A frame that was not complete leaves as NOP and is counted (R55, R342). -/
def missedFrame (d : Director) (n : Nat) (f : OrderFrame) : Director :=
  let d := modPort d n fun p => { p with launchLate := satInc p.launchLate }
  let d := raise d n 0x09 (b4 f.cycle.toNat)
  resent (match armOfPort (part d) n with
    | some (a, _) => raise (modCntA d a fun t => { t with overrun := satInc t.overrun }) (56 + a) 0x01 []
    | none => d) n f.cycle nopSent

theorem sendCopy_tx (d : Director) (n : Nat) (f : OrderFrame) (r : Bool) (depart : Int) :
    Tx.tree n (if r then tcRepeat else tcFirst) (linePolarity d n (copyLine d n f r depart)) depart ∈ (sendCopy d n f r depart).tx := by
  unfold sendCopy sendLine send modPort
  simp

theorem sendCopy_port (d : Director) (n : Nat) (f : OrderFrame) (r : Bool) (depart : Int) :
    ∃ x, port (sendCopy d n f r depart) n = { port d n with stream := some x } :=
  ⟨_, port_modPort ..⟩

theorem launched_frame (d : Director) (n : Nat) (f : OrderFrame) :
    (port (launched d n f) n).frame = some { f with first := true, ticks := ceilDiv (copyLine d n f false f.depart).length 4 } :=
  congrArg Port.frame (port_modPort ..)

theorem launched_sending (d : Director) (n : Nat) (f : OrderFrame) : (launched d n f).time.sending = true :=
  congrArg TimeState.sending (answerLaunched_view (view := Director.time) (fun _ _ _ _ => rfl) ..)

theorem launched_tx (d : Director) (n : Nat) (f : OrderFrame) :
    Tx.tree n tcFirst (linePolarity d n (copyLine d n f false f.depart)) f.depart ∈ (launched d n f).tx := by
  rw [show (launched d n f).tx = (sendCopy d n f false f.depart).tx from
    answerLaunched_view (view := Director.tx) (fun _ _ _ _ => rfl) ..]
  exact sendCopy_tx d n f false f.depart

theorem launched_launchLate (d : Director) (n : Nat) (f : OrderFrame) : (port (launched d n f) n).launchLate = (port d n).launchLate := by
  refine (congrArg Port.launchLate (port_modPort ..)).trans ?_
  obtain ⟨x, hx⟩ := sendCopy_port d n f false f.depart
  refine (answerLaunched_view (view := fun d => (port d n).launchLate) (fun _ _ _ _ => rfl) ..).trans ?_
  show (port (sendCopy d n f false f.depart) n).launchLate = _
  rw [hx]

theorem launched_eventsKept (d : Director) (n : Nat) (f : OrderFrame) : EventsKept (launched d n f) d :=
  EventsKept.trans (t := answerLaunched (modTime (sendCopy d n f false f.depart) fun t => { t with sending := true }) n) (.of_ring rfl)
    ((answerLaunched_eventsKept ..).trans (.of_ring rfl))

/-- Only the cells' records of what was sent change (R49). -/
theorem resent_cells_view {β : Type} {view : Director → β} (hview : ∀ d c, view { d with cells := c } = view d) (d : Director) (n : Nat) (oc : Cycle)
    (f : SentRec → SentRec) : view (resent d n oc f) = view d :=
  foldl_keeps (view := view) (fun d _ => hview d _) _ d

theorem missedFrame_launchLate (d : Director) (n : Nat) (f : OrderFrame) : (port (missedFrame d n f) n).launchLate = satInc (port d n).launchLate := by
  unfold missedFrame
  extract_lets e g
  have he : (port e n).launchLate = satInc (port d n).launchLate := congrArg Port.launchLate (port_modPort ..)
  have hg : (port g n).launchLate = (port e n).launchLate := congrArg Port.launchLate (raise_port ..)
  refine (resent_cells_view (view := fun d => (port d n).launchLate) (fun _ _ => rfl) ..).trans ?_
  rw [← he, ← hg]
  split
  · exact congrArg Port.launchLate (raise_port ..)
  · rfl

theorem resent_eventsKept (d : Director) (n : Nat) (oc : Cycle) (f : SentRec → SentRec) : EventsKept (resent d n oc f) d :=
  .of_ring (resent_cells_view (view := fun d => d.ring.decided) (fun _ _ => rfl) ..)

theorem missedFrame_decides {d : Director} {n : Nat} (h : Enabled d n) (f : OrderFrame) : Decided (missedFrame d n f) n 9 (b4 f.cycle.toNat) := by
  unfold missedFrame
  extract_lets e g
  refine ((resent_eventsKept ..).trans (t := _) ?_).decided (show Decided g n 9 (b4 f.cycle.toNat) from raise_decides (Enabled.of_eq (e := e) h rfl rfl) ..)
  split
  · exact (raise_eventsKept ..).trans (.of_ring rfl)
  · exact .refl g

theorem orderFrameLaunch_reaches {s : State} {n : Nat} {f : OrderFrame} (hn : n < 52) (hframe : (port s.dir n).frame = some f) (hfirst : f.first = false)
    (hframes : framesOn s.dir f.cycle = true) (htest : (port s.dir n).prbs.testMode = false) (complete : Bool) :
    ∃ t, exec (.orderFrameLaunch n complete) s = .next t ∧ Reached s t (if complete then launched (dirStart s.dir) n f
      else launched (missedFrame (dirStart s.dir) n f) n (nopFrame f)) := by
  have hframe' : (port (dirStart s.dir) n).frame = some f := hframe
  have hbar : (!framesOn (dirStart s.dir) f.cycle || (port (dirStart s.dir) n).prbs.testMode || f.first) = false := by
    rw [show framesOn (dirStart s.dir) f.cycle = true from hframes, show (port (dirStart s.dir) n).prbs.testMode = false from htest, hfirst]; rfl
  refine unit_reaches (o := execOrderFrameLaunch n complete s) rfl (decide_eq_true hn) ?_
  dsimp only
  rw [hframe']
  dsimp only
  refine (if_neg (Bool.eq_false_iff.mp hbar)).trans ?_
  cases complete <;> rfl

theorem repeatCopyLaunch_reaches {s : State} {n : Nat} {f : OrderFrame} (hn : n < 52) (hframe : (port s.dir n).frame = some f) (hfirst : f.first = true)
    (hframes : framesOn s.dir f.cycle = true) (htest : (port s.dir n).prbs.testMode = false) (hrep : planRep (cfg s.dir) = true) :
    ∃ t, exec (.repeatCopyLaunch n) s = .next t
      ∧ Reached s t (modPort (sendCopy (dirStart s.dir) n f true (f.depart + 44000)) n fun p => { p with frame := none }) := by
  have hframe' : (port (dirStart s.dir) n).frame = some f := hframe
  have hbar : (!framesOn (dirStart s.dir) f.cycle || (port (dirStart s.dir) n).prbs.testMode || !f.first || !planRep (cfg (dirStart s.dir))) = false := by
    rw [show framesOn (dirStart s.dir) f.cycle = true from hframes, show (port (dirStart s.dir) n).prbs.testMode = false from htest, hfirst,
      show planRep (cfg (dirStart s.dir)) = true from hrep]; rfl
  refine unit_reaches (o := execRepeatCopyLaunch n s) rfl (decide_eq_true hn) ?_
  rw [hframe']
  exact if_neg (Bool.eq_false_iff.mp hbar)

/-! Urgent block frames -/

/-- The three urgent block frames of a port are on its line (R58). -/
def urgentSent (d : Director) (n : Nat) (ts : List Nat) : Director :=
  ts.foldl (fun d t => sendLine d n (.urgent n (linePolarity d n (urgentLine d n t)) t) (scrAfter 31 fixedSeed)
    (runAfter (typeRun tcUrgent) (urgentBody d n (cycleOfTick d t)))) d

theorem urgentPort_tx (d : Director) (n tick : Nat) : (urgentPort d n tick).tx
    = (urgentSent d n [boundary16 d (tick + 40), boundary16 d (boundary16 d (tick + 40) + 250), boundary16 d (boundary16 d (tick + 40) + 500)]).tx := by
  unfold urgentPort
  extract_lets t0 ts sent dealt
  have hdealt : dealt.tx = sent.tx := by
    clear_value ts sent
    simp only [dealt]
    split
    · exact ite_keeps (view := Director.tx) rfl (ite_keeps (view := Director.tx) rfl (resent_cells_view (view := Director.tx) (fun _ _ => rfl) ..))
    · rfl
  exact hdealt

theorem urgentSent_kept {d : Director} {x : Tx} (hx : x ∈ d.tx) (n : Nat) (ts : List Nat) : x ∈ (urgentSent d n ts).tx := by
  induction ts generalizing d with
  | nil => exact hx
  | cons t r ih => exact ih (List.mem_append_left _ (List.mem_append_left _ hx))

theorem urgentSent_first (d : Director) (n t : Nat) (ts : List Nat) : ∃ line, Tx.urgent n line t ∈ (urgentSent d n (t :: ts)).tx :=
  ⟨_, urgentSent_kept (List.mem_append_left _ (List.mem_append_right _ (List.mem_singleton.mpr rfl))) n ts⟩

theorem urgentPort_keeps {d : Director} {x : Tx} (hx : x ∈ d.tx) (n tick : Nat) : x ∈ (urgentPort d n tick).tx := by
  rw [urgentPort_tx]
  exact urgentSent_kept hx n _

theorem urgentPorts_keep {d : Director} {x : Tx} (hx : x ∈ d.tx) (tick : Nat) (l : List Nat) : x ∈ (l.foldl (fun d n => urgentPort d n tick) d).tx := by
  induction l generalizing d with
  | nil => exact hx
  | cons n r ih => exact ih (urgentPort_keeps hx n tick)

theorem boundary16_of {e d : Director} (h : e.time = d.time) (t : Nat) : boundary16 e t = boundary16 d t := by
  rw [boundary16, boundary16, cycleLens, cycleLens, h]

theorem urgentPorts_send {n : Nat} {l : List Nat} (h : n ∈ l) (d : Director) (tick : Nat) :
    ∃ line, Tx.urgent n line (boundary16 d (tick + 40)) ∈ (l.foldl (fun d n => urgentPort d n tick) d).tx := by
  induction l generalizing d with
  | nil => exact absurd h List.not_mem_nil
  | cons m r ih =>
    rcases List.mem_cons.mp h with rfl | h
    · have hsent := urgentSent_first d n (boundary16 d (tick + 40)) [boundary16 d (boundary16 d (tick + 40) + 250), boundary16 d (boundary16 d (tick + 40) + 500)]
      obtain ⟨line, hline⟩ := hsent
      rw [← urgentPort_tx] at hline
      exact ⟨line, urgentPorts_keep hline tick r⟩
    · obtain ⟨line, hline⟩ := ih h (urgentPort d m tick)
      rw [boundary16_of (urgentPort_view (view := Director.time) (fun _ _ _ _ _ => rfl) d m tick)] at hline
      exact ⟨line, hline⟩

/-- Every port of the arms that carries its stream sends its urgent block frame (R58, R63, R68). -/
theorem urgentArms_sends {d : Director} {n a x : Nat} {as : List Nat} (hn : n ∈ ports (part d)) (hport : armOfPort (part d) n = some (a, x)) (ha : a ∈ as)
    (hstream : streaming d n = true) (tick : Nat) : ∃ line, Tx.urgent n line (boundary16 d (tick + 40)) ∈ (urgentArms d as tick).tx := by
  refine urgentPorts_send (List.mem_filter.mpr ⟨hn, ?_⟩) d tick
  rw [hport]
  exact Bool.and_eq_true_iff.mpr ⟨List.contains_iff_mem.mpr ha, hstream⟩

theorem enterAll_arm_other (as : List Nat) (cause : Nat) {b : Nat} (h : b ∉ as) (d : Director) :
    arm (as.foldl (fun d a => enterBlocked d a cause) d) b = arm d b :=
  foldl_keeps_of_mem (view := (arm · b)) (fun a ha d => enterBlocked_arm_other d (fun hb : b = a => h (hb ▸ ha)) cause) d

theorem enterAll_mode (as : List Nat) (cause : Nat) {b : Nat} (d : Director) (h : b ∈ as ∨ (arm d b).mode = .blocked) :
    (arm (as.foldl (fun d a => enterBlocked d a cause) d) b).mode = .blocked := by
  induction as generalizing d with
  | nil => exact h.resolve_left List.not_mem_nil
  | cons a r ih =>
    refine ih (enterBlocked d a cause) ?_
    by_cases hb : b = a
    · subst hb
      exact .inr (enterBlocked_mode ..)
    · rw [enterBlocked_arm_other d hb]
      exact h.imp_left fun h => (List.mem_cons.mp h).resolve_left hb

/-! BLOCK_IN -/

/-- A pulse on a BLOCK_IN pin is held and shown to the recorder (R56, R397). -/
def pinHeld (d : Director) (pin held tick : Nat) : Director :=
  { d with pins := { d.pins with blockIn := tset pin (d.time.raw + tick + held) d.pins.blockIn }
           rcd := { d.rcd with sawBlock := d.rcd.sawBlock ||| BitVec.twoPow 4 pin } }

/-- The arms in the pin's mask block, and their ports send it at once (R56, R58). -/
def pinBlocks (d : Director) (pin tick : Nat) : Director :=
  urgentArms ((blockMask d pin).foldl (fun d a => enterBlocked d a 1) d) (blockMask d pin) (tick + 125)

theorem blockInAssert_reaches {s : State} {pin held : Nat} (hpin : pin < 4) (hheld : 125 ≤ held) (hreset : s.dir.pins.resetN = true) (tick : Nat) :
    ∃ t, exec (.blockInAssert pin held tick) s = .next t ∧ Reached s t (raise (if !inRun s.dir || s.dir.frz.frozen then pinHeld (dirStart s.dir) pin held tick
      else pinBlocks (pinHeld (dirStart s.dir) pin held tick) pin tick) (192 + pin) 0 []) := by
  have hreset' : (!(dirStart s.dir).pins.resetN) = false := by rw [show (dirStart s.dir).pins.resetN = true from hreset]; rfl
  refine unit_reaches (o := execBlockInAssert pin held tick s) rfl (decide_eq_true hpin) ?_
  dsimp only
  rw [if_neg (Bool.eq_false_iff.mp hreset'), if_neg (by omega)]
  rfl

theorem enterAll_view {β : Type} {view : Director → β} (hview : ∀ d r x, view { d with ring := r, arms := x } = view d) (as : List Nat) (cause : Nat)
    (d : Director) : view (as.foldl (fun d a => enterBlocked d a cause) d) = view d :=
  foldl_keeps (view := view) (f := fun d a => enterBlocked d a cause) (fun d a => enterBlocked_view hview d a cause) as d

theorem endInjection_enable (d : Director) (a : Nat) : (endInjection d a).ring.enable = d.ring.enable := by
  unfold endInjection
  split
  · rfl
  · exact raise_enable ..

theorem changeMode_enable (d : Director) (a : Nat) (m : ArmMode) (cause : Nat) : (changeMode d a m cause).ring.enable = d.ring.enable :=
  ite_keeps (view := fun d => d.ring.enable) rfl ((raise_enable ..).trans (endInjection_enable d a))

theorem pinBlocks_enable (d : Director) (pin tick : Nat) : (pinBlocks d pin tick).ring.enable = d.ring.enable :=
  (urgentArms_view (view := fun d => d.ring.enable) (fun _ _ _ _ _ => rfl) ..).trans
    (foldl_keeps (view := fun d => d.ring.enable) (f := fun d a => enterBlocked d a 1) (fun d a => changeMode_enable d a _ 1) _ d)

theorem pinBlocks_boot (d : Director) (pin tick : Nat) : (pinBlocks d pin tick).boot = d.boot :=
  (urgentArms_view (view := Director.boot) (fun _ _ _ _ _ => rfl) ..).trans (enterAll_view (view := Director.boot) (fun _ _ _ => rfl) _ 1 d)

theorem streaming_of {e d : Director} (h : (e.boot, e.frz, e.time, e.ports) = (d.boot, d.frz, d.time, d.ports)) (n : Nat) : streaming e n = streaming d n := by
  obtain ⟨hboot, h⟩ := Prod.mk.inj h
  obtain ⟨hfrz, h⟩ := Prod.mk.inj h
  obtain ⟨htime, hports⟩ := Prod.mk.inj h
  rw [streaming, streaming, works, works, inRun, inRun, port, port, hboot, hfrz, htime, hports]

/-- Settles O35: assembly, the two copies of a frame, and BLOCK_IN pulses. -/
theorem orderFramesAndBlockInputs : Obligations.OrderFramesAndBlockInputs := by
  unfold Obligations.OrderFramesAndBlockInputs
  refine ⟨⟨fun s n hn hhere hframes hstream hbuilt => orderAssembly_frames hn hhere hframes hstream hbuilt,
    fun s n f hn hframe hfirst hframes htest => ?_, fun s n f hn hframe hfirst hframes htest => ?_, fun s n f hn hframe hfirst hframes htest hrep => ?_⟩,
    fun s pin held tick hpin hheld hreset => ?_, fun s pin held tick hpin hheld hreset hrun hfrozen => ?_, fun s pin held tick hpin hheld hreset hstate => ?_⟩
  · obtain ⟨t, hnext, h⟩ := orderFrameLaunch_reaches hn hframe hfirst hframes htest true
    rw [if_pos rfl] at h
    exact ⟨t, _, hnext, h.tx_mem (launched_tx (dirStart s.dir) n f), by rw [h.port]; exact launched_frame (dirStart s.dir) n f, rfl,
      by rw [h.time]; exact launched_sending ..⟩
  · obtain ⟨t, hnext, h⟩ := orderFrameLaunch_reaches hn hframe hfirst hframes htest false
    rw [if_neg (by decide)] at h
    have hframe' := launched_frame (missedFrame (dirStart s.dir) n f) n (nopFrame f)
    rw [← h.port] at hframe'
    refine ⟨t, _, hnext, hframe', rfl, rfl, ⟨_, h.tx_mem (launched_tx ..)⟩, ?_, fun he => ?_, fun hlen i hi => nopFrame_body hlen hi⟩
    · rw [h.port, launched_launchLate]
      exact missedFrame_launchLate ..
    · exact h.decided ((launched_eventsKept ..).decided (missedFrame_decides (d := dirStart s.dir) he f))
  · obtain ⟨t, hnext, h⟩ := repeatCopyLaunch_reaches hn hframe hfirst hframes htest hrep
    exact ⟨t, hnext, h.tx_mem (sendCopy_tx (dirStart s.dir) n f true (f.depart + 44000)), by rw [h.port]; exact congrArg Port.frame (port_modPort ..)⟩
  · have hreset' : (!(dirStart s.dir).pins.resetN) = false := by rw [show (dirStart s.dir).pins.resetN = true from hreset]; rfl
    obtain ⟨t, hnext, h⟩ := unit_reaches (s := s) (o := execBlockInAssert pin held tick s) rfl (decide_eq_true hpin)
      ((if_neg (Bool.eq_false_iff.mp hreset')).trans (if_pos hheld))
    refine ⟨t, hnext, h.arms, ?_⟩
    rw [h.pins]
    exact tget_tmod_same ..
  · obtain ⟨t, hnext, h⟩ := blockInAssert_reaches hpin hheld hreset tick
    have hgo : (!inRun s.dir || s.dir.frz.frozen) = false := by rw [inRun, hrun, hfrozen]; rfl
    rw [hgo, if_neg (by decide)] at h
    have hmask : blockMask (pinHeld (dirStart s.dir) pin held tick) pin = blockMask s.dir pin := rfl
    have harm (a : Nat) : arm t.dir a = arm ((blockMask s.dir pin).foldl (fun d a => enterBlocked d a 1) (pinHeld (dirStart s.dir) pin held tick)) a := by
      rw [h.arm, raise_arm, pinBlocks, urgentArms_view (view := (arm · a)) fun _ _ _ _ _ => rfl, hmask]
    refine ⟨t, hnext, fun a ha => ?_, fun a ha => ?_, fun n a x hn hport ha hstream => ?_, fun he => ?_⟩
    · rw [harm, enterAll_mode _ _ _ (.inl ha)]
    · rw [harm, enterAll_arm_other _ _ ha]; rfl
    · have hpart := enterAll_view (view := part) (fun _ _ _ => rfl) (blockMask s.dir pin) 1 (pinHeld (dirStart s.dir) pin held tick)
      have htime := enterAll_view (view := Director.time) (fun _ _ _ => rfl) (blockMask s.dir pin) 1 (pinHeld (dirStart s.dir) pin held tick)
      have hview := enterAll_view (view := fun d => (d.boot, d.frz, d.time, d.ports)) (fun _ _ _ => rfl) (blockMask s.dir pin) 1 (pinHeld (dirStart s.dir) pin held tick)
      have hsent := urgentArms_sends (by rw [hpart]; exact hn) (by rw [hpart]; exact hport) ha ((streaming_of hview n).trans hstream) (tick + 125)
      obtain ⟨line, hline⟩ := hsent
      rw [boundary16_of htime] at hline
      exact ⟨line, h.tx_mem (by rw [raise_tx]; exact hline)⟩
    · exact reached_decides h he (pinBlocks_boot ..) (pinBlocks_enable ..)
  · obtain ⟨t, hnext, h⟩ := blockInAssert_reaches hpin hheld hreset tick
    have hstop : (!inRun s.dir || s.dir.frz.frozen) = true := by
      rcases hstate with hrun | hfrozen
      · rw [inRun, decide_eq_false hrun]; rfl
      · rw [hfrozen, Bool.or_true]
    rw [hstop, if_pos rfl] at h
    exact ⟨t, hnext, h.arms.trans (raise_arms ..), fun he => reached_decides h he rfl rfl⟩

end Sys2Proof.Machine
end

section
/-! PROOF. Bursts, quarantine and loss (R84, R93, R94, R102, R106, R143 to R145). -/

namespace Sys2Proof.Machine

/-! What a burst leaves on record of its cell -/

/-- The last reports of a cell, its runs of misses and absences, and its key confirmation. -/
def seenOf (r : CellRec) : Option Burst × Option Burst × Nat × Nat × Bool := (r.last, r.prev, r.misses, r.absents, r.keyConfirmed)

theorem cellRec_modRec_view {γ : Type} {view : CellRec → γ} {f : CellRec → CellRec} (h : ∀ r, view (f r) = view r) (d : Director) (j id : Nat) :
    view (cellRec (modRec d j f) id) = view (cellRec d id) := by
  by_cases hj : id = j
  · subst hj
    rw [cellRec_modRec, h]
  · rw [cellRec_modRec_other _ hj]

section
variable {β : Type} {view : Director → β}
  (hview : ∀ d m h r p b l t, view { d with mbs := m, host := h, ring := r, ports := p, diagBuf := b, diagLost := l, patching := t } = view d)
  (hrec : ∀ d j f, (∀ r, seenOf (f r) = seenOf r) → view (modRec d j f) = view d)
include hview

theorem seen_raise (d : Director) (source detail : Nat) (data : List Byte) : view (raise d source detail data) = view d :=
  raise_view (fun d r => hview d d.mbs d.host r d.ports d.diagBuf d.diagLost d.patching) ..

theorem seen_respond (d : Director) (n st : Nat) (p : List Byte) : view (respond d n st p) = view d :=
  respond_view (fun d m h r => hview d m h r d.ports d.diagBuf d.diagLost d.patching) ..

theorem seen_modPort (d : Director) (n : Nat) (f : Port → Port) : view (modPort d n f) = view d :=
  hview d d.mbs d.host d.ring _ d.diagBuf d.diagLost d.patching

theorem seen_modCmd (d : Director) (n : Nat) (f : Cmd → Cmd) : view (modCmd d n f) = view d :=
  hview d _ d.host d.ring d.ports d.diagBuf d.diagLost d.patching

theorem seen_patching (d : Director) (t : Table Nat) : view { d with patching := t } = view d :=
  hview d d.mbs d.host d.ring d.ports d.diagBuf d.diagLost t

theorem seen_mgmtTo (d : Director) (id mtype : Nat) (body : List Byte) (r : MgmtRec → MgmtRec) : view (mgmtTo d id mtype body r) = view d :=
  mgmtTo_view (seen_modPort hview) ..

theorem seen_wantSub (d : Director) (n id : Nat) : view (wantSub d n id) = view d :=
  ite_keeps rfl (seen_modPort hview ..)

theorem seen_execCheck (d : Director) (n id : Nat) (k : Cycle) (b : Option Burst) : view (execCheck d n id k b) = view d := by
  unfold execCheck
  split
  · rfl
  · refine ite_keeps rfl ?_
    dsimp only
    split
    · exact seen_raise hview ..
    · exact ite_keeps ((seen_raise hview ..).trans (ite_keeps (seen_raise hview ..) rfl)) (ite_keeps (seen_raise hview ..) rfl)

/-! Management answers -/

theorem seen_onEepromData (d : Director) (n id : Nat) (p : List Byte) : view (onEepromData d n id p) = view d := by
  unfold onEepromData
  split
  · exact ite_keeps rfl (ite_keeps (seen_respond hview ..) (ite_keeps rfl (ite_keeps (seen_respond hview ..)
      (ite_keeps ((seen_mgmtTo hview ..).trans (seen_modCmd hview ..)) ((seen_wantSub hview ..).trans (seen_modCmd hview ..))))))
  · rfl

theorem seen_patchNext (m : Stores) (d : Director) (id ofs : Nat) : view (patchNext m d id ofs) = view d := by
  unfold patchNext
  split
  · exact ite_keeps ((seen_mgmtTo hview ..).trans (seen_patching hview ..)) (seen_patching hview ..)
  · rfl

theorem seen_onPatchAck (m : Stores) (d : Director) (id : Nat) (p : List Byte) : view (onPatchAck m d id p) = view d := by
  unfold onPatchAck
  extract_lets ofs st e
  have he : view e = view d := ite_keeps (seen_raise hview ..) rfl
  clear_value e
  split
  · exact ite_keeps he (ite_keeps ((seen_respond hview ..).trans he) ((seen_mgmtTo hview ..).trans ((seen_modCmd hview ..).trans he)))
  · split
    · exact ite_keeps he (ite_keeps ((seen_patchNext hview ..).trans he) ((seen_patching hview ..).trans he))
    · exact he

theorem seen_onJoinData (d : Director) (n : Nat) (p : List Byte) : view (onJoinData d n p) = view d := by
  unfold onJoinData
  split
  · rfl
  · exact ite_keeps rfl (ite_keeps
      ((foldl_keeps (view := view) (fun _ _ => seen_modPort hview ..) _ _).trans (seen_modPort hview ..)) (seen_modPort hview ..))

theorem seen_cellClassEvent (d : Director) (id code seq : Nat) (detail : BitVec 64) : view (cellClassEvent d id code seq detail) = view d :=
  have hring (r : EventRing) : view { d with ring := r } = view d := hview d d.mbs d.host r d.ports d.diagBuf d.diagLost d.patching
  ite_keeps rfl (ite_keeps (hring _) (hring _))

include hrec

theorem seen_cfgFail (d : Director) (id step : Nat) : view (cfgFail d id step) = view d := by
  unfold cfgFail
  extract_lets e
  have he : view e = view d := hrec _ _ _ fun _ => rfl
  split
  · exact (seen_raise hview ..).trans he
  · exact he

theorem seen_cfgAnswer (d : Director) (id : Nat) (vals : List Nat) : view (cfgAnswer d id vals) = view d := by
  unfold cfgAnswer
  extract_lets r want v go
  have hgo (s : Nat) : view (go s) = view d := hrec _ _ _ fun _ => rfl
  clear_value go
  split
  · exact ite_keeps (hgo _) (ite_keeps (hgo _) (hgo _))
  · exact ite_keeps (hgo _) (hgo _)
  · exact ite_keeps (hgo _) (seen_cfgFail hview hrec ..)
  · exact ite_keeps (hgo _) (ite_keeps (seen_cfgFail hview hrec ..) (hrec _ _ _ fun _ => rfl))
  · exact hrec _ _ _ fun _ => rfl
  · rfl

theorem seen_cfgRefused (d : Director) (id idx : Nat) : view (cfgRefused d id idx) = view d := by
  unfold cfgRefused
  exact ite_keeps (ite_keeps (seen_cfgFail hview hrec ..) (hrec _ _ _ fun _ => rfl))
    (ite_keeps (ite_keeps (seen_cfgFail hview hrec ..) (hrec _ _ _ fun _ => rfl))
      (ite_keeps (ite_keeps (seen_cfgFail hview hrec ..) (hrec _ _ _ fun _ => rfl)) rfl))

theorem seen_onParamValue (d : Director) (id : Nat) (p : List Byte) : view (onParamValue d id p) = view d := by
  unfold onParamValue
  extract_lets idx cnt vals r
  refine ite_keeps (seen_cfgAnswer hview hrec ..) ?_
  split
  · exact ite_keeps (seen_respond hview ..) rfl
  · split
    · exact ite_keeps rfl (ite_keeps ((seen_mgmtTo hview ..).trans (seen_modCmd hview ..)) (ite_keeps (seen_respond hview ..) (seen_respond hview ..)))
    · rfl

theorem seen_onCellEvent (d : Director) (id : Nat) (p : List Byte) : view (onCellEvent d id p) = view d := by
  unfold onCellEvent
  extract_lets seq code detail e g h
  have he : view e = view d := seen_cellClassEvent hview ..
  have hg : view g = view e := seen_mgmtTo hview ..
  have hh : view h = view g := ite_keeps (seen_raise hview ..) rfl
  exact ite_keeps ((seen_cfgRefused hview hrec ..).trans (hh.trans (hg.trans he))) (hh.trans (hg.trans he))

/-- An answer of a management burst leaves what its cell was seen to send (R143). -/
theorem seen_onMgmt (m : Stores) (d : Director) (n i id : Nat) (k : Cycle) (p : List Byte) :
    view (onMgmt m d n i id k p) = view (tqPush d (tqOfPort d n) (tqHead 1 36 id k ++ b1 n ++ b1 i ++ zeros 2 ++ p)) := by
  unfold onMgmt
  dsimp only
  generalize tqPush d _ _ = e
  split
  · exact seen_onJoinData hview ..
  · exact seen_onParamValue hview hrec ..
  · exact seen_onCellEvent hview hrec ..
  · exact seen_onEepromData hview ..
  · exact seen_onPatchAck hview ..
  · exact ite_keeps (hview e e.mbs e.host e.ring e.ports _ e.diagLost e.patching) (hview e e.mbs e.host e.ring e.ports e.diagBuf _ e.patching)
  · rfl

/-! Reports -/

theorem seen_learnEdge (d : Director) (n id : Nat) (k : Cycle) (b : Burst) : view (learnEdge d n id k b) = view d := by
  unfold learnEdge
  extract_lets c a r src no
  have hno : view no = view d := hrec _ _ _ fun _ => rfl
  clear_value no
  refine ite_keeps rfl ?_
  split
  · exact hno
  · split
    · exact hno
    · refine ite_keeps hno ?_
      extract_lets ref_ sample l v lam e far queued g
      have he : view e = view d := hrec _ _ _ fun _ => rfl
      have hg : view g = view e := hrec _ _ _ fun _ => rfl
      exact ite_keeps ((seen_mgmtTo hview ..).trans (hg.trans he)) he

theorem seen_calOverdue (d : Director) (id : Nat) : view (calOverdue d id) = view d := by
  unfold calOverdue
  dsimp only
  split
  · rfl
  · exact ite_keeps ((seen_raise hview ..).trans (hrec _ _ _ fun _ => rfl)) (ite_keeps (hrec _ _ _ fun _ => rfl) rfl)

theorem seen_confirmations (d : Director) (id : Nat) (k : Cycle) (b : Burst) : view (confirmations d id k b) = view d := by
  unfold confirmations
  extract_lets ok done e status g
  have he : view e = view d := ite_keeps rfl (hrec _ _ _ fun _ => rfl)
  have hstatus (d : Director) (op : Nat) : view (status d op) = view d := by
    simp only [status]
    split
    · split
      · exact ite_keeps (seen_respond hview ..) rfl
      · rfl
    · rfl
  have hg : view g = view e := (hstatus ..).trans (hstatus ..)
  clear_value e g
  split
  · split
    · exact ite_keeps ((seen_respond hview ..).trans (hg.trans he)) (hg.trans he)
    · exact hg.trans he
  · exact hg.trans he
end

theorem tq_modTq (d : Director) (q : Nat) (f : Tq → Tq) : tq (modTq d q f) q = f (tq d q) := tget_tmod_same _ _ _ _

theorem tqPush_view {β : Type} {view : Director → β} (hview : ∀ d q r, view { d with tqs := q, ring := r } = view d) (d : Director) (q : Nat)
    (item : List Byte) : view (tqPush d q item) = view d := by
  unfold tqPush
  extract_lets t
  refine ite_keeps (hview d _ d.ring) ?_
  exact (raiseLim_view (fun d r => hview d d.tqs r) ..).trans (hview d _ d.ring)

theorem tqPush_items {d : Director} {q : Nat} {item : List Byte} (h : tqUsed (tq d q).items + item.length ≤ 65536) :
    (tq (tqPush d q item) q).items = (tq d q).items ++ [{ bytes := item }] := by
  unfold tqPush
  rw [if_pos h]
  exact congrArg Tq.items (tq_modTq ..)

/-- What a cell was seen to send. -/
def seen (id : Nat) (d : Director) : Option Burst × Option Burst × Nat × Nat × Bool := seenOf (cellRec d id)

theorem seen_modRec (id : Nat) (d : Director) (j : Nat) (f : CellRec → CellRec) (h : ∀ r, seenOf (f r) = seenOf r) :
    seen id (modRec d j f) = seen id d :=
  cellRec_modRec_view h d j id

theorem seen_onSlow (d : Director) (n id j : Nat) (k : Cycle) (i v : Nat) : seen j (onSlow d n id k i v) = seen j d := by
  unfold onSlow
  extract_lets e g pos
  have he : seen j e = seen j d := seen_modRec j d id _ fun _ => rfl
  have hg : seen j g = seen j e := ite_keeps (seen_calOverdue (view := seen j) (fun _ _ _ _ _ _ _ _ => rfl) (seen_modRec j) ..) rfl
  exact ite_keeps ((tqPush_view (view := seen j) (fun _ _ _ => rfl) ..).trans (hg.trans he)) (hg.trans he)

theorem confirmKey_rec (d : Director) (n id : Nat) : cellRec (confirmKey d n id) id = { cellRec d id with keyConfirmed := true } := by
  unfold confirmKey
  split
  · next h => rw [← h]
  · have hset := cellRec_modRec d id fun r => { r with keyConfirmed := true }
    dsimp only
    split
    · split
      · exact hset
      · exact hset
    · exact hset

/-- A cell record once its report is taken (R84, R90). -/
def reportedRec (pend : Bool) (err : Int) (b : Burst) (r : CellRec) : CellRec :=
  { (if pend then r else takeError r err) with prev := r.last, last := some b }

theorem seenOf_reportedRec (pend : Bool) (err : Int) (b : Burst) (r : CellRec) :
    seenOf (reportedRec pend err b r) = (some b, r.last, r.misses, r.absents, r.keyConfirmed) := by
  unfold reportedRec takeError
  cases pend with
  | true => rfl
  | false => rw [if_neg (by decide)]; split <;> [rfl; split <;> rfl]

/-- A report that passed every check becomes the cell's last one (R84, R136). -/
theorem onReport_seen {d : Director} {n id : Nat} (hnode : isNode id = false) (k : Cycle) (err : Int) (p : List Byte) :
    seen id (onReport d n id k err p)
      = (some (parseBurst k false p).1, (cellRec d id).last, (cellRec d id).misses, (cellRec d id).absents, true) := by
  unfold onReport
  rw [hnode]
  split
  next b si sv hp =>
  rw [hp]
  extract_lets e pend f g h i j
  have hview : ∀ (d : Director) m h r p b l t, seen id { d with mbs := m, host := h, ring := r, ports := p, diagBuf := b, diagLost := l, patching := t } = seen id d :=
    fun _ _ _ _ _ _ _ _ => rfl
  have hf : seen id f = (some b, (cellRec d id).last, (cellRec d id).misses, (cellRec d id).absents, true) := by
    show seenOf (cellRec (modRec e id (reportedRec pend err b)) id) = _
    rw [cellRec_modRec, seenOf_reportedRec, confirmKey_rec]
  have hg : seen id g = seen id f := seen_execCheck hview ..
  have hh : seen id h = seen id g := ite_keeps rfl (seen_learnEdge hview (seen_modRec id) ..)
  have hi : seen id i = seen id h := seen_onSlow ..
  have hj : seen id j = seen id i := seen_confirmations hview (seen_modRec id) ..
  exact ite_keeps ((seen_wantSub hview ..).trans (hj.trans (hi.trans (hh.trans (hg.trans hf))))) (hj.trans (hi.trans (hh.trans (hg.trans hf))))

/-! The checks of a burst -/

theorem checkBurst_passes {d : Director} {n id si len : Nat} {k : Cycle} {mgmt : Bool} {bits : List Bool} {bs : List Byte}
    (hbytes : burstBytes k si (len + 6) (rxLine d n bits) = some bs) (hcrc : crc16Ok bs (len + 6) = true)
    (htag : burstTagOk d n id (if mgmt then 0x13 else 0x11) si k (bs.take len) (beAt bs len 4) = true)
    (hok : (if mgmt then mgmtOk (bs.take len)
      else if isNode id then reportOk (fld (beNat (bs.take len)) 127 112) (fld (beNat (bs.take len)) 79 72) && fld (beNat (bs.take len)) 63 0 = 0
      else reportOk (fld (beNat (bs.take len)) 79 64) (fld (beNat (bs.take len)) 19 12)) = true) :
    checkBurst d n id k si len mgmt bits = (d, some (bs.take len)) := by
  unfold checkBurst
  rw [hbytes]
  dsimp only
  rw [hcrc, if_neg (by decide), htag, if_neg (by simp)]
  exact if_pos hok

/-- The record of a cell whose burst stood in its window (R84). -/
def burstSeen (r : CellRec) : CellRec := { r with misses := 0, absents := 0 }

theorem burstTagOk_of {e d : Director} {id : Nat} (hkey : (cellRec e id).key = (cellRec d id).key) (hboot : e.boot = d.boot) (n first si : Nat) (k : Cycle)
    (pay : List Byte) (tag : Nat) : burstTagOk e n id first si k pay tag = burstTagOk d n id first si k pay tag := by
  rw [burstTagOk, burstTagOk, hkey, sideNum, sideNum, hboot]

theorem crc16Ok_length {bs : List Byte} {n : Nat} (h : crc16Ok bs n = true) : bs.length = n :=
  of_decide_eq_true (Bool.and_eq_true_iff.mp h).1

/-- The arrival error of a burst within the search window (R84, R87). -/
def arrivalError (d : Director) (b : BurstSeen) : Option Int := (b.err.map (· - d.intDelay)).filter fun e => e.natAbs ≤ 128

theorem arrivalError_some {d : Director} {b : BurstSeen} {e : Int} (herr : b.err = some e) (h : (e - d.intDelay).natAbs ≤ 128) :
    arrivalError d b = some (e - d.intDelay) := by
  rw [arrivalError, herr, Option.map_some, Option.filter_some, if_pos (decide_eq_true h)]

theorem arrivalError_none {d : Director} {b : BurstSeen} (h : ∀ e, b.err = some e → 128 < (e - d.intDelay).natAbs) : arrivalError d b = none := by
  unfold arrivalError
  cases herr : b.err with
  | none => rfl
  | some e =>
    have hfar := h e herr
    rw [Option.map_some, Option.filter_some, if_neg (by simpa using hfar)]

theorem receive_absent {d : Director} {b : BurstSeen} (h : arrivalError d b = none) (m : Stores) (n id : Nat) (k : Cycle) :
    receive m d n id k none b = execCheck (modRec d id fun r => { r with
      absents := r.absents + 1, cnt := { r.cnt with burstAbsent := satInc r.cnt.burstAbsent } }) n id k none := by
  rw [arrivalError] at h
  unfold receive
  rw [h]
  rfl

theorem receive_miss {d : Director} {b : BurstSeen} {e : Int} (h : arrivalError d b = some e) (hfar : 80 < e.natAbs) (m : Stores) (n id : Nat) (k : Cycle) :
    receive m d n id k none b = execCheck (onMiss d id) n id k none := by
  rw [arrivalError] at h
  unfold receive
  rw [h]
  exact if_pos hfar

theorem receive_report {d : Director} {b : BurstSeen} {e : Int} {n id : Nat} {k : Cycle} {p : List Byte} (h : arrivalError d b = some e) (hnear : e.natAbs ≤ 80)
    (hpass : checkBurst (modRec d id burstSeen) n id k (cellSlot id) (if isNode id then 64 else 16) false b.bits = (modRec d id burstSeen, some p)) (m : Stores) :
    receive m d n id k none b = onReport (modRec d id burstSeen) n id k e p := by
  rw [arrivalError] at h
  unfold receive
  rw [h]
  refine (if_neg (by omega)).trans ?_
  dsimp only
  rw [show (modRec d id fun r => { r with misses := 0, absents := 0 }) = modRec d id burstSeen from rfl, hpass]

theorem receive_mgmt {d : Director} {b : BurstSeen} {e : Int} {n id i : Nat} {k : Cycle} {p : List Byte} (h : arrivalError d b = some e) (hnear : e.natAbs ≤ 80)
    (hpass : checkBurst (modRec d id burstSeen) n id k (64 + i) 24 true b.bits = (modRec d id burstSeen, some p)) (m : Stores) :
    receive m d n id k (some i) b = onMgmt m (modRec d id burstSeen) n i id k p := by
  rw [arrivalError] at h
  unfold receive
  rw [h]
  refine (if_neg (by omega)).trans ?_
  dsimp only
  rw [show (modRec d id fun r => { r with misses := 0, absents := 0 }) = modRec d id burstSeen from rfl, hpass]

/-! The windows -/

/-- What a burst's port and director must show for its windows to be read. -/
structure Reads (s : State) (n : Nat) : Prop where
  inRange : n < 52
  here : portHere (part s.dir) n = true
  works : works s.dir = true
  running : s.dir.time.running = true
  service : (port s.dir n).prbs.testMode = false

theorem Reads.passes {s : State} {n : Nat} (h : Reads s n) : (!portHere (part (dirStart s.dir)) n || !Machine.works (dirStart s.dir)
    || !(dirStart s.dir).time.running || (port (dirStart s.dir) n).prbs.testMode) = false := by
  rw [show portHere (part (dirStart s.dir)) n = true from h.here, show Machine.works (dirStart s.dir) = true from h.works,
    show (dirStart s.dir).time.running = true from h.running, show (port (dirStart s.dir) n).prbs.testMode = false from h.service]
  rfl

theorem slotBurst_reaches {s : State} {n i id : Nat} (h : Reads s n) (hcell : cellOfSlot (part s.dir) n i = some id)
    (hconf : configured (cfg s.dir) id = true) (hslot : slotAssigned s.dir n id (cyc s.dir) = true) (b : BurstSeen) :
    ∃ t, exec (.slotBurstReceive n (.slot i) b) s = .next t
      ∧ Reached s t (receive s.mem (burstReset (dirStart s.dir) n (.slot i)) n id (cyc s.dir) none b) := by
  have hread : (configured (cfg (burstReset (dirStart s.dir) n (.slot i))) id && slotAssigned (burstReset (dirStart s.dir) n (.slot i)) n id (cyc s.dir)) = true :=
    Bool.and_eq_true_iff.mpr ⟨hconf, hslot⟩
  refine unit_reaches (o := execSlotBurstReceive n (.slot i) b s) rfl (decide_eq_true h.inRange) ?_
  dsimp only
  rw [if_neg (Bool.eq_false_iff.mp h.passes), show cellOfSlot (part (burstReset (dirStart s.dir) n (.slot i))) n i = some id from hcell]
  exact if_pos hread

theorem subBurst_reaches {s : State} {n i id : Nat} (h : Reads s n)
    (hsub : (port s.dir n).subs.find? (fun x => x.1 = cyc s.dir && x.2.1 = i) = some (cyc s.dir, i, id)) (b : BurstSeen) :
    ∃ t, exec (.slotBurstReceive n (.sub i) b) s = .next t
      ∧ Reached s t (receive s.mem (burstReset (dirStart s.dir) n (.sub i)) n id (cyc s.dir) (some i) b) := by
  refine unit_reaches (o := execSlotBurstReceive n (.sub i) b s) rfl (decide_eq_true h.inRange) ?_
  dsimp only
  rw [if_neg (Bool.eq_false_iff.mp h.passes), show (port (burstReset (dirStart s.dir) n (.sub i)) n).subs.find?
    (fun x => x.1 = cyc (dirStart s.dir) && x.2.1 = i) = some (cyc s.dir, i, id) from hsub]
  rfl

theorem burstReset_closed {d : Director} {n : Nat} (h : (port d n).joinOpen = none) : burstReset d n .join = d := by
  unfold burstReset
  dsimp only
  rw [h]
  rfl

theorem joinWindow_reaches {s : State} {n : Nat} (h : Reads s n) (hclosed : (port s.dir n).joinOpen = none) {b : BurstSeen}
    (hlight : lightIn b.light 0 (2 * (planN (cfg s.dir) + planW (cfg s.dir) - joinJ0 (cfg s.dir) n)) = true) :
    ∃ t, exec (.slotBurstReceive n .join b) s = .next t ∧ Reached s t (stray (dirStart s.dir) n) := by
  have hclosed' : (port (dirStart s.dir) n).joinOpen = none := hclosed
  refine unit_reaches (o := execSlotBurstReceive n .join b s) rfl (decide_eq_true h.inRange) ?_
  dsimp only
  rw [if_neg (Bool.eq_false_iff.mp h.passes), burstReset_closed hclosed', hclosed']
  exact if_pos hlight

/-! Quarantine and loss -/

/-- A cell whose exchange closed listens again. -/
def relistened (r : CellRec) : CellRec :=
  { r with link := .listen, granted := none, withdrawn := none, key := none, keyConfirmed := false, pendOfs := none }

/-- A port whose exchange with a cell closed. -/
def exchangeClosed (cell : Nat) (p : Port) : Port := { p with
  exchange := none, mgmt := p.mgmt.filter (fun m => !(m.dest = 0x40 && (m.cell = none || m.cell = some cell))), subs := p.subs.filter fun s => s.2.2 != cell }

theorem closeExchange_of {d : Director} {n : Nat} {e : Exchange} (h : (port d n).exchange = some e) :
    closeExchange d n = modRec (modPort d n (exchangeClosed e.cell)) e.cell relistened := by
  unfold closeExchange
  rw [h]
  rfl

theorem closeExchange_none {d : Director} {n : Nat} (h : (port d n).exchange = none) : closeExchange d n = d := by
  unfold closeExchange
  rw [h]

theorem closeExchange_entries (d : Director) (n id : Nat) : (cellRec (closeExchange d n) id).entries = (cellRec d id).entries := by
  cases h : (port d n).exchange with
  | none => rw [closeExchange_none h]
  | some e =>
    rw [closeExchange_of h]
    exact cellRec_modRec_view (view := CellRec.entries) (f := relistened) (fun _ => rfl) (modPort d n _) e.cell id

theorem closeExchange_exchange (d : Director) (n : Nat) : (port (closeExchange d n) n).exchange = none := by
  cases h : (port d n).exchange with
  | none => rw [closeExchange_none h, h]
  | some e =>
    rw [closeExchange_of h]
    exact congrArg Port.exchange (port_modPort d n (exchangeClosed e.cell))

theorem closeExchange_view {β : Type} {view : Director → β} (hview : ∀ d p c, view { d with ports := p, cells := c } = view d) (d : Director) (n : Nat) :
    view (closeExchange d n) = view d := by
  cases h : (port d n).exchange with
  | none => rw [closeExchange_none h]
  | some e =>
    rw [closeExchange_of h]
    exact (hview _ (modPort d n _).ports _).trans (hview d _ d.cells)

/-- A joining cell that is quarantined gives up its exchange (R94). -/
def joinEnded (d : Director) (n id : Nat) : Director :=
  match (port d n).exchange with | some e => if e.cell = id then closeExchange d n else d | none => d

theorem joinEnded_entries (d : Director) (n id : Nat) : (cellRec (joinEnded d n id) id).entries = (cellRec d id).entries := by
  unfold joinEnded
  split
  · exact ite_keeps (view := fun d => (cellRec d id).entries) (closeExchange_entries ..) rfl
  · rfl

theorem joinEnded_view {β : Type} {view : Director → β} (hview : ∀ d p c, view { d with ports := p, cells := c } = view d) (d : Director) (n id : Nat) :
    view (joinEnded d n id) = view d := by
  unfold joinEnded
  split
  · exact ite_keeps (closeExchange_view hview ..) rfl
  · rfl

theorem joinEnded_exchange (d : Director) (n id : Nat) (e : Exchange) (h : (port (joinEnded d n id) n).exchange = some e) : e.cell ≠ id := by
  unfold joinEnded at h
  split at h
  · next x hx =>
    split at h
    · rw [closeExchange_exchange] at h
      exact nomatch h
    · next hid =>
      rw [hx, Option.some.injEq] at h
      exact h ▸ hid
  · next hx =>
    rw [hx] at h
    exact nomatch h

theorem joinEnded_same {d : Director} {n id : Nat} (h : ∀ e, (port d n).exchange = some e → e.cell ≠ id) : joinEnded d n id = d := by
  unfold joinEnded
  split
  · next e he => exact if_neg (h e he)
  · rfl

/-- The record that takes a cell's slot (R93). -/
def withdrawRecord (id cause : Nat) : MgmtRec :=
  { secured id { mtype := 0x05, dest := cellSlot id, body := zeros 4 ++ b1 cause ++ zeros 3, cell := some id } with copies := 2, cycAt := [0] }

theorem dropCell_mgmt {d : Director} {id n : Nat} (h : cellPort (part d) id = some n) (cause : Nat) (l : CellLink) :
    (port (dropCell d id cause l) n).mgmt = (port d n).mgmt ++ [withdrawRecord id cause] :=
  mgmtTo_mgmt (d := d) h ..

theorem dropCell_exchange (d : Director) (id cause : Nat) (l : CellLink) (n : Nat) : (port (dropCell d id cause l) n).exchange = (port d n).exchange :=
  mgmtTo_port_view (view := Port.exchange) (fun _ _ => rfl) d id 0x05 ..

/-- A record field that leaving the slot keeps. -/
theorem dropCell_rec_view {γ : Type} {view : CellRec → γ} (hview : ∀ r l m a s c b f x d e, view { r with
    link := l, misses := m, absents := a, errSum := s, errCount := c, block := b, cfgStep := f, reading := x, diagMode := d, sealed := e } = view r)
    (d : Director) (id cause : Nat) (l : CellLink) : view (cellRec (dropCell d id cause l) id) = view (cellRec d id) := by
  refine (congrArg view (cellRec_modRec ..)).trans ((hview ..).trans ?_)
  rw [cellRec, withdrawSlot, mgmtTo_cells, cellRec]

/-- A quarantined cell's record (R94). -/
def quarantinedRec (starts : Nat) (r : CellRec) : CellRec := { r with
  held := true, heldAt := starts, entries := r.entries + 1, cnt := { r.cnt with quarantine := satInc r.cnt.quarantine } }

/-- The director once a cell is in quarantine (R93, R94). -/
def quarantined (d : Director) (id : Nat) : Director :=
  modRec (dropCell d id 1 .quarantined) id (quarantinedRec (dropCell d id 1 .quarantined).time.starts)

/-- What the event of a quarantine tells (R93). -/
def quarantineData (d : Director) (id : Nat) : List Byte := b2 id ++ zeros 2 ++ b4 (cellRec d id).cnt.windowMiss.toNat

theorem quarantine_reaches {s : State} {id n : Nat} (hid : id < 3168) (hworks : works s.dir = true) (hport : cellPort (part s.dir) id = some n)
    (hlink : holdsSlot (cellRec s.dir id) = true ∨ (cellRec s.dir id).link = .joining) (hmiss : 8 ≤ (cellRec s.dir id).misses) :
    ∃ t, exec (.quarantine id) s = .next t ∧ Reached s t (raise (quarantined (joinEnded (dirStart s.dir) n id) id) n 1
      (quarantineData (quarantined (joinEnded (dirStart s.dir) n id) id) id)) := by
  have hport' : cellPort (part (dirStart s.dir)) id = some n := hport
  have hbar : (!works (dirStart s.dir) || !(holdsSlot (cellRec (dirStart s.dir) id) || (cellRec (dirStart s.dir) id).link = .joining)
      || (cellRec (dirStart s.dir) id).misses < 8) = false := by
    rw [show works (dirStart s.dir) = true from hworks, decide_eq_false (show ¬ (cellRec (dirStart s.dir) id).misses < 8 from Nat.not_lt.mpr hmiss)]
    rcases hlink with hlink | hlink
    · rw [show holdsSlot (cellRec (dirStart s.dir) id) = true from hlink]; rfl
    · rw [show (cellRec (dirStart s.dir) id).link = .joining from hlink, decide_eq_true rfl, Bool.or_true]; rfl
  refine unit_reaches (o := execQuarantine id s) rfl (decide_eq_true hid) ?_
  dsimp only
  rw [hport']
  exact if_neg (Bool.eq_false_iff.mp hbar)

theorem cellLost_reaches {s : State} {id n : Nat} (hid : id < 3168) (hworks : works s.dir = true) (hport : cellPort (part s.dir) id = some n)
    (hlink : holdsSlot (cellRec s.dir id) = true) (habsent : 64 ≤ (cellRec s.dir id).absents) :
    ∃ t, exec (.cellLost id) s = .next t
      ∧ Reached s t (raise (modCellCnt (dropCell (dirStart s.dir) id 2 .lost) id fun t => { t with lost := satInc t.lost }) n 2 (b2 id)) := by
  have hport' : cellPort (part (dirStart s.dir)) id = some n := hport
  have hbar : (!works (dirStart s.dir) || !holdsSlot (cellRec (dirStart s.dir) id) || (cellRec (dirStart s.dir) id).absents < 64) = false := by
    rw [show works (dirStart s.dir) = true from hworks, show holdsSlot (cellRec (dirStart s.dir) id) = true from hlink,
      decide_eq_false (show ¬ (cellRec (dirStart s.dir) id).absents < 64 from Nat.not_lt.mpr habsent)]; rfl
  refine unit_reaches (o := execCellLost id s) rfl (decide_eq_true hid) ?_
  dsimp only
  rw [hport']
  exact if_neg (Bool.eq_false_iff.mp hbar)

theorem quarHoldExpire_reaches {s : State} {id : Nat} (hid : id < 3168) (hworks : works s.dir = true) (hheld : (cellRec s.dir id).held = true)
    (hover : (cellRec s.dir id).heldAt + quarHold (cfg s.dir) ≤ s.dir.time.starts) :
    ∃ t, exec (.quarHoldExpire id) s = .next t ∧ Reached s t (modRec (dirStart s.dir) id fun r => { r with held := false }) := by
  have hgo : (works (dirStart s.dir) && (cellRec (dirStart s.dir) id).held
      && (cellRec (dirStart s.dir) id).heldAt + quarHold (cfg (dirStart s.dir)) ≤ (dirStart s.dir).time.starts) = true := by
    rw [show works (dirStart s.dir) = true from hworks, show (cellRec (dirStart s.dir) id).held = true from hheld]
    exact decide_eq_true hover
  exact unit_reaches (o := execQuarHoldExpire id s) rfl (decide_eq_true hid) (if_pos hgo)

theorem quarantined_rec (d : Director) (id : Nat) :
    ∃ starts, cellRec (quarantined d id) id = quarantinedRec starts (cellRec (dropCell d id 1 .quarantined) id) :=
  ⟨_, cellRec_modRec ..⟩

theorem quarantined_entries (d : Director) (id : Nat) : (cellRec (quarantined d id) id).entries = (cellRec d id).entries + 1 := by
  obtain ⟨starts, h⟩ := quarantined_rec d id
  have hkept := dropCell_rec_view (view := CellRec.entries) (fun _ _ _ _ _ _ _ _ _ _ _ => rfl) d id 1 .quarantined
  rw [h, ← hkept]
  rfl

theorem quarantined_port (d : Director) (id n : Nat) : port (quarantined d id) n = port (dropCell d id 1 .quarantined) n := rfl

theorem dropCell_view {β : Type} {view : Director → β} (hview : ∀ d p c, view { d with ports := p, cells := c } = view d) (d : Director) (id cause : Nat)
    (l : CellLink) : view (dropCell d id cause l) = view d :=
  (hview (withdrawSlot d id cause) (withdrawSlot d id cause).ports _).trans (mgmtTo_view (view := view) (fun d _ _ => hview d _ d.cells) ..)

theorem quarantine_drops {s : State} {id n : Nat} (hid : id < 3168) (hworks : works s.dir = true) (hport : cellPort (part s.dir) id = some n)
    (hlink : holdsSlot (cellRec s.dir id) = true ∨ (cellRec s.dir id).link = .joining) (hmiss : 8 ≤ (cellRec s.dir id).misses) :
    ∃ t r q, exec (.quarantine id) s = .next t ∧ (cellRec t.dir id).link = .quarantined ∧ (cellRec t.dir id).held = true
      ∧ (cellRec t.dir id).entries = (cellRec s.dir id).entries + 1 ∧ (port t.dir n).mgmt = q ++ [r] ∧ r.mtype = 0x05
      ∧ ((∀ e, (port s.dir n).exchange = some e → e.cell ≠ id) → q = (port s.dir n).mgmt) ∧ (∀ e, (port t.dir n).exchange = some e → e.cell ≠ id)
      ∧ r.copies = 2 ∧ (Enabled s.dir n → ∃ e ∈ t.dir.ring.decided, e.source = n ∧ e.detail = 1) := by
  obtain ⟨t, hnext, h⟩ := quarantine_reaches hid hworks hport hlink hmiss
  have hrec := (h.cellRec id).trans (raise_cellRec ..)
  have hports := (h.port n).trans ((raise_port ..).trans (quarantined_port ..))
  have hstart : cellPort (part (joinEnded (dirStart s.dir) n id)) id = some n :=
    (joinEnded_view (view := fun d => cellPort (part d) id) (fun _ _ _ => rfl) ..).trans hport
  have hboot : (quarantined (joinEnded (dirStart s.dir) n id) id).boot = s.dir.boot :=
    (dropCell_view (view := Director.boot) (fun _ _ _ => rfl) _ id 1 .quarantined).trans (joinEnded_view (view := Director.boot) (fun _ _ _ => rfl) ..)
  have hring : (quarantined (joinEnded (dirStart s.dir) n id) id).ring = s.dir.ring :=
    (dropCell_view (view := Director.ring) (fun _ _ _ => rfl) _ id 1 .quarantined).trans (joinEnded_view (view := Director.ring) (fun _ _ _ => rfl) ..)
  obtain ⟨starts, hquar⟩ := quarantined_rec (joinEnded (dirStart s.dir) n id) id
  refine ⟨t, withdrawRecord id 1, (port (joinEnded (dirStart s.dir) n id) n).mgmt, hnext, ?_, ?_, ?_, ?_, rfl, fun hno => ?_, fun e he => ?_, rfl, fun he => ?_⟩
  · rw [hrec, hquar]
    exact dropCell_link ..
  · rw [hrec, hquar]
    rfl
  · rw [hrec, quarantined_entries, joinEnded_entries]
    rfl
  · rw [hports, dropCell_mgmt hstart]
  · rw [joinEnded_same (d := dirStart s.dir) hno]
    rfl
  · rw [hports, dropCell_exchange] at he
    exact joinEnded_exchange _ n id e he
  · obtain ⟨e, hmem, hsource, hdetail, -⟩ := reached_decides h he hboot (congrArg EventRing.enable hring)
    exact ⟨e, hmem, hsource, hdetail⟩

theorem cellLost_drops {s : State} {id n : Nat} (hid : id < 3168) (hworks : works s.dir = true) (hport : cellPort (part s.dir) id = some n)
    (hlink : holdsSlot (cellRec s.dir id) = true) (habsent : 64 ≤ (cellRec s.dir id).absents) :
    ∃ t, exec (.cellLost id) s = .next t ∧ (cellRec t.dir id).link = .lost ∧ (cellRec t.dir id).cnt.lost = satInc (cellRec s.dir id).cnt.lost
      ∧ (Enabled s.dir n → Decided t.dir n 2 (toLE 2 id)) := by
  obtain ⟨t, hnext, h⟩ := cellLost_reaches hid hworks hport hlink habsent
  have hrec := (h.cellRec id).trans ((raise_cellRec ..).trans (cellRec_modRec (dropCell (dirStart s.dir) id 2 .lost) id
    fun c => { c with cnt := { c.cnt with lost := satInc c.cnt.lost } }))
  have hboot := dropCell_view (view := Director.boot) (fun _ _ _ => rfl) (dirStart s.dir) id 2 .lost
  have hring := dropCell_view (view := Director.ring) (fun _ _ _ => rfl) (dirStart s.dir) id 2 .lost
  have hkept := dropCell_rec_view (view := CellRec.cnt) (fun _ _ _ _ _ _ _ _ _ _ _ => rfl) (dirStart s.dir) id 2 .lost
  refine ⟨t, hnext, ?_, ?_, fun he => reached_decides h he hboot (congrArg EventRing.enable hring)⟩
  · rw [hrec]
    exact dropCell_link ..
  · rw [hrec]
    exact congrArg (satInc ·.lost) hkept

theorem windowed_rec (s : State) (n : Nat) (w : BurstWin) (id : Nat) :
    cellRec (modRec (burstReset (dirStart s.dir) n w) id burstSeen) id = burstSeen (cellRec s.dir id) :=
  (cellRec_modRec ..).trans (by unfold burstReset; exact ite_keeps (view := fun d => burstSeen (cellRec d id)) rfl rfl)

theorem burstReset_view {β : Type} {view : Director → β} (hview : ∀ d x, view { d with tx := x } = view d) (d : Director) (n : Nat) (w : BurstWin) :
    view (burstReset d n w) = view d := by
  unfold burstReset
  exact ite_keeps (hview ..) rfl

/-- A burst's tag is checked under the key the cell holds, whatever it is counted as (R145). -/
theorem windowed_tag (s : State) (n : Nat) (w : BurstWin) (id m first si : Nat) (k : Cycle) (pay : List Byte) (tag : Nat) :
    burstTagOk (modRec (burstReset (dirStart s.dir) n w) id burstSeen) m id first si k pay tag = burstTagOk s.dir m id first si k pay tag :=
  burstTagOk_of (e := modRec (burstReset (dirStart s.dir) n w) id burstSeen) (d := s.dir) ((congrArg CellRec.key (windowed_rec s n w id)).trans rfl)
    (burstReset_view (view := Director.boot) (fun _ _ => rfl) (dirStart s.dir) n w) ..

theorem slotBurst_reports {s : State} {n i id : Nat} {e : Int} {b : BurstSeen} {bs : List Byte} (h : Reads s n) (hcell : cellOfSlot (part s.dir) n i = some id)
    (hconf : configured (cfg s.dir) id = true) (hslot : slotAssigned s.dir n id (cyc s.dir) = true) (hnode : isNode id = false) (herr : b.err = some e)
    (hnear : (e - s.dir.intDelay).natAbs ≤ 80) (hbytes : burstBytes (cyc s.dir) (cellSlot id) 22 (rxLine s.dir n b.bits) = some bs) (hcrc : crc16Ok bs 22 = true)
    (htag : burstTagOk s.dir n id 0x11 (cellSlot id) (cyc s.dir) (bs.take 16) (beAt bs 16 4) = true)
    (hok : reportOk (fld (beNat (bs.take 16)) 79 64) (fld (beNat (bs.take 16)) 19 12) = true) :
    ∃ t, exec (.slotBurstReceive n (.slot i) b) s = .next t
      ∧ seenOf (cellRec t.dir id) = (some (parseBurst (cyc s.dir) false (bs.take 16)).1, (cellRec s.dir id).last, 0, 0, true) := by
  obtain ⟨t, hnext, h⟩ := slotBurst_reaches h hcell hconf hslot b
  have hrec := windowed_rec s n (.slot i) id
  have hpass : checkBurst (modRec (burstReset (dirStart s.dir) n (.slot i)) id burstSeen) n id (cyc s.dir) (cellSlot id) (if isNode id then 64 else 16) false b.bits
      = (modRec (burstReset (dirStart s.dir) n (.slot i)) id burstSeen, some (bs.take 16)) := by
    rw [hnode]
    refine checkBurst_passes (len := 16) (bs := bs) hbytes hcrc ((windowed_tag ..).trans htag) ?_
    rw [hnode]
    exact hok
  rw [receive_report (arrivalError_some (d := burstReset (dirStart s.dir) n (.slot i)) herr (Nat.le_trans hnear (by decide))) hnear hpass] at h
  refine ⟨t, hnext, (congrArg seenOf (h.cellRec id)).trans ((onReport_seen hnode ..).trans ?_)⟩
  rw [hrec]
  rfl

/-- The item of a management burst (R417). -/
def mgmtBurstItem (n i id : Nat) (k : Cycle) (p : List Byte) : List Byte := tqHead 1 36 id k ++ b1 n ++ b1 i ++ zeros 2 ++ p

theorem mgmtBurstItem_length {p : List Byte} (h : p.length = 24) (n i id : Nat) (k : Cycle) : (mgmtBurstItem n i id k p).length = 36 := by
  simp [mgmtBurstItem, tqHead, h]

theorem subBurst_queues {s : State} {n i id : Nat} {e : Int} {b : BurstSeen} {bs : List Byte} (h : Reads s n)
    (hsub : (port s.dir n).subs.find? (fun x => x.1 = cyc s.dir && x.2.1 = i) = some (cyc s.dir, i, id)) (herr : b.err = some e)
    (hnear : (e - s.dir.intDelay).natAbs ≤ 80) (hbytes : burstBytes (cyc s.dir) (64 + i) 30 (rxLine s.dir n b.bits) = some bs) (hcrc : crc16Ok bs 30 = true)
    (htag : burstTagOk s.dir n id 0x13 (64 + i) (cyc s.dir) (bs.take 24) (beAt bs 24 4) = true) (hok : mgmtOk (bs.take 24) = true)
    (hroom : tqUsed (tq s.dir (tqOfPort s.dir n)).items + 36 ≤ 65536) :
    ∃ t, exec (.slotBurstReceive n (.sub i) b) s = .next t ∧ (cellRec t.dir id).misses = 0 ∧ (cellRec t.dir id).absents = 0
      ∧ (tq t.dir (tqOfPort s.dir n)).items = (tq s.dir (tqOfPort s.dir n)).items ++ [{ bytes := mgmtBurstItem n i id (cyc s.dir) (bs.take 24) }] := by
  obtain ⟨t, hnext, h⟩ := subBurst_reaches h hsub b
  have hrec := windowed_rec s n (.sub i) id
  have hpass : checkBurst (modRec (burstReset (dirStart s.dir) n (.sub i)) id burstSeen) n id (cyc s.dir) (64 + i) 24 true b.bits
      = (modRec (burstReset (dirStart s.dir) n (.sub i)) id burstSeen, some (bs.take 24)) :=
    checkBurst_passes (bs := bs) hbytes hcrc ((windowed_tag ..).trans htag) hok
  rw [receive_mgmt (arrivalError_some (d := burstReset (dirStart s.dir) n (.sub i)) herr (Nat.le_trans hnear (by decide))) hnear hpass] at h
  have hitem : (mgmtBurstItem n i id (cyc s.dir) (bs.take 24)).length = 36 :=
    mgmtBurstItem_length (by rw [List.length_take, crc16Ok_length hcrc]; decide) ..
  have hseen : seenOf (cellRec t.dir id) = seenOf (burstSeen (cellRec s.dir id)) := (congrArg seenOf (h.cellRec id)).trans
    ((seen_onMgmt (view := seen id) (fun _ _ _ _ _ _ _ _ => rfl) (seen_modRec id) ..).trans
      ((tqPush_view (view := seen id) (fun _ _ _ => rfl) ..).trans (congrArg seenOf hrec)))
  obtain ⟨-, -, hmiss, habsent, -⟩ : _ ∧ _ ∧ _ ∧ _ ∧ _ := by simpa only [seenOf, Prod.mk.injEq] using hseen
  have htqs := h.tqs.trans (seen_onMgmt (view := Director.tqs) (fun _ _ _ _ _ _ _ _ => rfl) (fun _ _ _ _ => rfl) ..)
  refine ⟨t, hnext, hmiss, habsent, ?_⟩
  rw [tq, htqs]
  exact tqPush_items (d := modRec (burstReset (dirStart s.dir) n (.sub i)) id burstSeen) (item := mgmtBurstItem n i id (cyc s.dir) (bs.take 24)) (by rw [hitem]; exact hroom)

/-- Settles O36: bursts outside and inside their window, stray light, quarantine, and loss. -/
theorem missesQuarantineAndLoss : Obligations.MissesQuarantineAndLoss := by
  unfold Obligations.MissesQuarantineAndLoss
  refine ⟨fun s n i id e b hn hhere hworks hrun hserv hcell hconf hslot herr hfar hnear => ?_,
    fun s n i id b hn hhere hworks hrun hserv hcell hconf hslot hnone => ?_,
    fun s n i id e b bs hn hhere hworks hrun hserv hcell hconf hslot hnode herr hnear hbytes hcrc htag hok => ?_,
    fun s n i id e b bs hn hhere hworks hrun hserv hsub hkey herr hnear hbytes hcrc htag hok hroom => ?_,
    fun s n b hn hhere hworks hrun hserv hclosed hlight => ?_,
    fun s id n hid hworks hport hlink hmiss => ?_, fun s id n hid hworks hport hlink habsent => ?_, fun s id hid hworks hheld hover => ?_⟩
  · obtain ⟨t, hnext, h⟩ := slotBurst_reaches ⟨hn, hhere, hworks, hrun, hserv⟩ hcell hconf hslot b
    rw [receive_miss (arrivalError_some (d := burstReset (dirStart s.dir) n (.slot i)) herr hnear) hfar] at h
    have hrec := (h.cellRec id).trans ((seen_execCheck (view := (cellRec · id)) (fun _ _ _ _ _ _ _ _ => rfl) ..).trans (cellRec_modRec ..))
    exact ⟨t, hnext, by rw [hrec]; rfl, by rw [hrec]; rfl, by rw [hrec]; rfl⟩
  · obtain ⟨t, hnext, h⟩ := slotBurst_reaches ⟨hn, hhere, hworks, hrun, hserv⟩ hcell hconf hslot b
    rw [receive_absent (arrivalError_none (d := burstReset (dirStart s.dir) n (.slot i)) hnone)] at h
    have hrec := (h.cellRec id).trans ((seen_execCheck (view := (cellRec · id)) (fun _ _ _ _ _ _ _ _ => rfl) ..).trans (cellRec_modRec ..))
    exact ⟨t, hnext, by rw [hrec]; rfl, by rw [hrec]; rfl, by rw [hrec]; rfl⟩
  · obtain ⟨t, hnext, hseen⟩ := slotBurst_reports ⟨hn, hhere, hworks, hrun, hserv⟩ hcell hconf hslot hnode herr hnear hbytes hcrc htag hok
    obtain ⟨hlast, hprev, hmiss, habsent, hconfirmed⟩ : _ ∧ _ ∧ _ ∧ _ ∧ _ := by simpa only [seenOf, Prod.mk.injEq] using hseen
    exact ⟨t, hnext, hlast, hprev, hmiss, habsent, hconfirmed⟩
  · exact subBurst_queues ⟨hn, hhere, hworks, hrun, hserv⟩ hsub herr hnear hbytes hcrc htag hok hroom
  · obtain ⟨t, hnext, h⟩ := joinWindow_reaches ⟨hn, hhere, hworks, hrun, hserv⟩ hclosed hlight
    refine ⟨t, hnext, ?_, h.cells.trans (raiseLim_view (view := Director.cells) (fun _ _ => rfl) ..)⟩
    rw [h.port, stray, raiseLim_view (view := (port · n)) fun _ _ => rfl]
    exact congrArg Port.strayLight (port_modPort ..)
  · exact quarantine_drops hid hworks hport hlink hmiss
  · exact cellLost_drops hid hworks hport hlink habsent
  · obtain ⟨t, hnext, h⟩ := quarHoldExpire_reaches hid hworks hheld hover
    have hrec := (h.cellRec id).trans (cellRec_modRec ..)
    exact ⟨t, hnext, by rw [hrec], by rw [hrec]; rfl, by rw [hrec]; rfl⟩

end Sys2Proof.Machine
end

section
/-! PROOF. Joining, its keys, and what follows it (R96 to R101, R556, R592 to R595, R605). -/

namespace Sys2Proof.Machine

/-! Refusals -/

theorem countRefusal_port (d : Director) (n id cause : Nat) :
    port (countRefusal d n id cause) n = { port d n with joinRefused := satInc (port d n).joinRefused } :=
  ite_keeps (view := (port · n)) ((raise_port ..).trans (port_modPort ..)) ((raise_port ..).trans (port_modPort ..))

theorem pushMgmt_port_view {β : Type} {view : Port → β} (hview : ∀ p l, view { p with mgmt := l } = view p) (d : Director) (n : Nat) (r : MgmtRec) (m : Nat) :
    view (port (pushMgmt d n r) m) = view (port d m) :=
  port_modPort_view (fun p => hview p _) ..

theorem joinNak_exchange (d : Director) (n id : Nat) (nonce : BitVec 64) (cause : Nat) : (port (joinNak d n id nonce cause) n).exchange = (port d n).exchange := by
  rw [joinNak, countRefusal_port]
  exact pushMgmt_port_view (view := Port.exchange) (fun _ _ => rfl) ..

theorem closeExchange_ring (d : Director) (n : Nat) : (closeExchange d n).ring = d.ring := closeExchange_view (view := Director.ring) (fun _ _ _ => rfl) d n

theorem closeExchange_rec {d : Director} {n : Nat} {e : Exchange} (h : (port d n).exchange = some e) :
    cellRec (closeExchange d n) e.cell = relistened (cellRec d e.cell) := by
  rw [closeExchange_of h, cellRec_modRec]
  rfl

theorem closeExchange_joinRefused (d : Director) (n : Nat) : (port (closeExchange d n) n).joinRefused = (port d n).joinRefused := by
  cases h : (port d n).exchange with
  | none => rw [closeExchange_none h]
  | some e =>
    rw [closeExchange_of h]
    exact (congrArg Port.joinRefused (port_modPort d n (exchangeClosed e.cell))).trans rfl

/-- An exchange refused for its certificate or signature closes (R101, R107, R592). -/
theorem refusedExchange {d : Director} {n cause : Nat} {e : Exchange} (hex : (port d n).exchange = some e) (hcause : cause = 5 ∨ cause = 6) :
    (port (closeExchange (joinNak d n e.cell e.nonce cause) n) n).exchange = none
      ∧ (cellRec (closeExchange (joinNak d n e.cell e.nonce cause) n) e.cell).link = .listen
      ∧ (cellRec (closeExchange (joinNak d n e.cell e.nonce cause) n) e.cell).key = none
      ∧ (Enabled d 208 → Decided (closeExchange (joinNak d n e.cell e.nonce cause) n) 208 cause (b2 e.cell ++ b1 cause)) := by
  have hrec := closeExchange_rec ((joinNak_exchange d n e.cell e.nonce cause).trans hex)
  refine ⟨closeExchange_exchange .., by rw [hrec]; rfl, by rw [hrec]; rfl, fun he => ?_⟩
  have hnak : Decided (joinNak d n e.cell e.nonce cause) 208 cause (b2 e.cell ++ b1 cause) := by
    rw [joinNak, countRefusal, if_pos (by simpa using hcause)]
    refine raise_decides ?_ ..
    exact he.of_eq rfl rfl
  rw [Decided, closeExchange_ring]
  exact hnak

/-! Join bursts -/

theorem joinBurst_reaches {s : State} {n : Nat} (hn : n < 52) (hhere : portHere (part s.dir) n = true) (hworks : works s.dir = true)
    (hrun : s.dir.time.running = true) (err : Int) (bits : List Bool) :
    ∃ t, exec (.joinBurstReceive n err bits) s = .next t ∧ Reached s t (joinBurstIn (dirStart s.dir) s.fresh n err bits) := by
  have hgo : (portHere (part (dirStart s.dir)) n && works (dirStart s.dir) && (dirStart s.dir).time.running) = true := by
    rw [show portHere (part (dirStart s.dir)) n = true from hhere, show works (dirStart s.dir) = true from hworks,
      show (dirStart s.dir).time.running = true from hrun]; rfl
  exact unit_reaches (o := execJoinBurstReceive n err bits s) rfl (decide_eq_true hn) (if_pos hgo)

/-- A burst outside the open window is not searched for (R84). -/
theorem joinBurstIn_outside {d : Director} {n j0 jl : Nat} {w : Cycle} {err : Int} (hopen : (port d n).joinOpen = some (w, j0, jl))
    (hout : err < -1472 ∨ 32 * (jl : Int) < err + 1472) (fresh : Nat) (bits : List Bool) : joinBurstIn d fresh n err bits = d := by
  unfold joinBurstIn
  rw [hopen]
  refine if_pos ?_
  rcases hout with hout | hout
  · rw [decide_eq_true (show err < -(46 * 32) by omega), Bool.or_true, Bool.true_or]
  · rw [decide_eq_true (show (jl : Int) * 32 < err + 46 * 32 by omega), Bool.or_true]

/-- What a burst in the open window leads to (R96, R97, R100, R101). -/
structure InWindow (d : Director) (n : Nat) (w : Cycle) (err : Int) : Prop where
  isOpen : ∃ j0 jl, (port d n).joinOpen = some (w, j0, jl) ∧ err + 1472 ≤ 32 * (jl : Int)
  fresh : w = cyc d ∨ w + 1 = cyc d
  late : -1472 ≤ err

theorem InWindow.searched {d : Director} {n jl : Nat} {w : Cycle} {err : Int} (h : InWindow d n w err) (hjl : err + 1472 ≤ 32 * (jl : Int)) :
    (!(w = cyc d || w + 1 = cyc d) || err < -(46 * 32) || (jl : Int) * 32 < err + 46 * 32) = false := by
  have hlate := h.late
  rw [decide_eq_false (show ¬ err < -(46 * 32) by omega), decide_eq_false (show ¬ (jl : Int) * 32 < err + 46 * 32 by omega)]
  rcases h.fresh with hw | hw
  · rw [decide_eq_true hw]; rfl
  · rw [decide_eq_true hw, Bool.or_true]; rfl

theorem joinBurstIn_broken {d : Director} {n : Nat} {w : Cycle} {err : Int} {bits : List Bool} (h : InWindow d n w err)
    (hbytes : burstBytes w 72 26 (rxLine d n bits) = none) (fresh : Nat) :
    joinBurstIn d fresh n err bits = modPort (burstReset d n .join) n fun p => { p with crcFail := satInc p.crcFail } := by
  obtain ⟨j0, jl, hopen, hjl⟩ := h.isOpen
  have hline : rxLine (burstReset d n .join) n bits = rxLine d n bits := burstReset_view (view := (rxLine · n bits)) (fun _ _ => rfl) ..
  unfold joinBurstIn
  rw [hopen]
  refine (if_neg (Bool.eq_false_iff.mp (h.searched hjl))).trans ?_
  dsimp only
  rw [hline, hbytes]

/-- The exchange that an accepted join burst opens (R96, R97, R594). -/
def openedExchange (d : Director) (fresh n x : Nat) (w : Cycle) (o : Nat × Nat) : Exchange :=
  { cell := fld x 127 112, variant := fld x 111 108, deviceId := BitVec.ofNat 64 (fld x 191 128), nonce := BitVec.ofNat 64 (fld x 95 32)
    handle := (port d n).nextHandle, window := w, dn := o.1, up := o.2
    myNonce := BitVec.ofNat 128 ((Config.freeValue fresh 0).toNat * 2 ^ 64 + (Config.freeValue fresh 1).toNat)
    eph := drawScalar fresh 2, sigK := drawScalar fresh 6, stepAt := d.time.starts }

/-- A cell record whose exchange opened (R96). -/
def joiningRec (o : Nat × Nat) (handle : BitVec 16) (r : CellRec) : CellRec :=
  { r with link := .joining, dnOfs := o.1, upOfs := o.2, pendOfs := none, granted := none, withdrawn := none, key := none, keyConfirmed := false
           handle := handle, keyedFrom := none, misses := 0, absents := 0 }

/-- A port whose exchange opened (R96). -/
def exchangeOpened (e : Exchange) (p : Port) : Port :=
  { p with exchange := some e, nextHandle := if p.nextHandle = 0xFFFF then 1 else p.nextHandle + 1 }

/-- The answer to an accepted join burst (R131, R594). -/
def joinAnswered (d : Director) (n : Nat) (e : Exchange) : Director :=
  let d := pushMgmt d n { mtype := 0x01, dest := 0x41, cell := some e.cell, cycAt := [14, 18]
                          body := toBE 8 e.nonce.toNat ++ toBE 2 e.handle.toNat ++ toBE 2 e.dn ++ toBE 2 e.up ++ zeros 8 ++ b1 0xF0 ++ b1 3 }
  let d := sendJoinData d n e 1 (padTo 112 d.sec.cert)
  sendJoinData d n e 2 (toBE 16 e.myNonce.toNat ++ ecPublic e.eph)

theorem sendJoinData_view {β : Type} {view : Director → β} (hview : ∀ d n l, view (modPort d n fun p => { p with mgmt := p.mgmt ++ [l] }) = view d)
    (d : Director) (n : Nat) (e : Exchange) (kind : Nat) (bs : List Byte) : view (sendJoinData d n e kind bs) = view d :=
  foldl_keeps (view := view) (fun _ _ => hview ..) _ d

theorem joinAnswered_view {β : Type} {view : Director → β} (hview : ∀ d n l, view (modPort d n fun p => { p with mgmt := p.mgmt ++ [l] }) = view d)
    (d : Director) (n : Nat) (e : Exchange) : view (joinAnswered d n e) = view d :=
  (sendJoinData_view hview ..).trans ((sendJoinData_view hview ..).trans (hview ..))

theorem joinBurstIn_opens {d : Director} {n x : Nat} {w : Cycle} {err : Int} {bits : List Bool} {bs : List Byte} (h : InWindow d n w err)
    (hbytes : burstBytes w 72 26 (rxLine d n bits) = some bs) (hcrc : crc16Ok bs 26 = true) (hx : beNat (bs.take 24) = x) (hzero : fld x 106 104 = 0)
    (hzero' : fld x 31 0 = 0) (hidle : (port d n).exchange = none) (hfew : exchanges d < 8)
    (hcause : joinCause d n (fld x 127 112) (fld x 111 108) (fld x 107 107) (offsetsOf (cfg d) n (err - d.intDelay)) = none) (fresh : Nat) :
    ∃ g, joinBurstIn d fresh n err bits = joinAnswered (modRec (modPort g n (exchangeOpened
        (openedExchange g fresh n x w (offsetsOf (cfg d) n (err - d.intDelay))))) (fld x 127 112)
      (joiningRec (offsetsOf (cfg d) n (err - d.intDelay)) (port g n).nextHandle)) n
      (openedExchange g fresh n x w (offsetsOf (cfg d) n (err - d.intDelay))) := by
  obtain ⟨j0, jl, hopen, hjl⟩ := h.isOpen
  have hreset {β : Type} {view : Director → β} (hv : ∀ d x, view { d with tx := x } = view d) : view (burstReset d n .join) = view d :=
    burstReset_view hv ..
  refine ⟨burstReset d n .join, ?_⟩
  have hbusy : ((port (burstReset d n .join) n).exchange.isSome || 8 ≤ exchanges (burstReset d n .join)) = false := by
    rw [hreset (view := (port · n)) fun _ _ => rfl, hidle, hreset (view := exchanges) fun _ _ => rfl, decide_eq_false (Nat.not_le.mpr hfew)]; rfl
  unfold joinBurstIn
  rw [hopen]
  refine (if_neg (Bool.eq_false_iff.mp (h.searched hjl))).trans ?_
  dsimp only
  rw [hreset (view := (rxLine · n bits)) fun _ _ => rfl, hbytes]
  dsimp only
  rw [hcrc, hx, if_neg (by decide), hzero, hzero', if_neg (by decide), if_neg (Bool.eq_false_iff.mp hbusy),
    hreset (view := fun d => offsetsOf (cfg d) n (err - d.intDelay)) fun _ _ => rfl]
  have hnone : joinCause (burstReset d n .join) n (fld x 127 112) (fld x 111 108) (fld x 107 107) (offsetsOf (cfg d) n (err - d.intDelay)) = none :=
    (hreset (view := fun g => joinCause g n _ _ _ (offsetsOf (cfg d) n (err - d.intDelay))) fun _ _ => rfl).trans hcause
  rw [hnone]
  rfl

/-! The session key -/

theorem exTranscript_of {g d : Director} (h : g.boot = d.boot) (e : Exchange) : exTranscript g e = exTranscript d e := by
  rw [exTranscript, exTranscript, deviceId, deviceId, fuses, fuses, h]

/-- Every chunk of a joining cell has come, while the director works (R96, R594). -/
structure JoinComplete (s : State) (n : Nat) (e : Exchange) : Prop where
  inRange : n < 52
  works : works s.dir = true
  exchange : (port s.dir n).exchange = some e
  joining : (cellRec s.dir e.cell).link = .joining
  certificate : kindDone e 1 = true
  pubkey : kindDone e 2 = true
  signature : kindDone e 3 = true

theorem JoinComplete.passes {s : State} {n : Nat} {e : Exchange} (h : JoinComplete s n e) : (!Machine.works (dirStart s.dir)
    || (cellRec (dirStart s.dir) e.cell).link ≠ .joining || !(kindDone e 1 && kindDone e 2 && kindDone e 3)) = false := by
  rw [show Machine.works (dirStart s.dir) = true from h.works, show (cellRec (dirStart s.dir) e.cell).link = .joining from h.joining, h.certificate,
    h.pubkey, h.signature]
  rfl

/-- A cell record with its session key (R96). -/
def keyedRec (k : Key) (r : CellRec) : CellRec := { r with
  link := .proving, key := some k, keyConfirmed := false, misses := 0, absents := 0, errSum := 0, errCount := 0, block := none
  last := none, prev := none, sent := [], slow := r.slow.filter (fun p => countItem p.1), learned := r.learned, edgeRef := r.edgeRef, edgeRefAt := r.edgeRefAt
  wanted := [], staging := [], confirmed := [], hasEst := false, unreported := true, everUsable := false, unusable := 0, txDisabled := false }

/-- The slot grant and the first tree key leave for a keyed cell (R96 step 7, R122). -/
def slotGranted (d : Director) (n : Nat) (e : Exchange) : Director :=
  let d := modPort d n fun p => { p with exchange := some { e with stepAt := d.time.starts } }
  let d := pushMgmt d n { mtype := 0x04, dest := 0x40, cell := some e.cell, secure := some e.cell, cycAt := [6]
                          body := toBE 2 e.handle.toNat ++ b1 (cellSlot e.cell) ++ toBE 3 (planW (cfg d)) ++ zeros 4 }
  pushMgmt d n { firstTreeKey d n e.cell with why := .plain }

/-- The session key of an exchange (R595). -/
def sessionKey (d : Director) (e : Exchange) : Key := deriveKey (ecdhShared e.eph (e.pub.take 33)) "QZ-SESSION" (sha256 (exTranscript d e))

/-- The signature of the cell verifies, under a point of the curve (R594). -/
def exchangeSigned (d : Director) (e : Exchange) : Bool :=
  ecdsaVerify (sub e.cert 15 33) (sha256 (0x43 :: exTranscript d e)) (e.sig.take 64) && onCurve (e.pub.take 33)

theorem joinKeyDerived_reaches {s : State} {n : Nat} {e : Exchange} (h : JoinComplete s n e) :
    ∃ t, exec (.joinKeyDerived n) s = .next t ∧ Reached s t (if !cellCertOk s.dir e then closeExchange (joinNak (dirStart s.dir) n e.cell e.nonce 5) n
      else if !exchangeSigned s.dir e then closeExchange (joinNak (dirStart s.dir) n e.cell e.nonce 6) n
      else slotGranted (modRec (dirStart s.dir) e.cell (keyedRec (sessionKey s.dir e))) n e) := by
  have hex : (port (dirStart s.dir) n).exchange = some e := h.exchange
  have hscript : exTranscript (dirStart s.dir) e = exTranscript s.dir e := exTranscript_of rfl e
  have hcert : cellCertOk (dirStart s.dir) e = cellCertOk s.dir e := rfl
  refine unit_reaches (o := execJoinKeyDerived n s) rfl (decide_eq_true h.inRange) ?_
  dsimp only
  rw [hex]
  refine (if_neg (Bool.eq_false_iff.mp h.passes)).trans ?_
  rw [hscript, hcert, exchangeSigned, Bool.not_and]
  rfl

theorem slotGranted_cells (d : Director) (n : Nat) (e : Exchange) : (slotGranted d n e).cells = d.cells := rfl

theorem joinKeyDerived_refused {s : State} {n cause : Nat} {e : Exchange} (h : JoinComplete s n e) (hcause : cause = 5 ∨ cause = 6)
    (hrefused : cellCertOk s.dir e = false ∧ cause = 5 ∨ cellCertOk s.dir e = true ∧ exchangeSigned s.dir e = false ∧ cause = 6) :
    ∃ t, exec (.joinKeyDerived n) s = .next t ∧ (port t.dir n).exchange = none ∧ (cellRec t.dir e.cell).link = .listen
      ∧ (cellRec t.dir e.cell).key = none ∧ (Enabled s.dir 208 → Decided t.dir 208 cause (toLE 2 e.cell ++ [BitVec.ofNat 8 cause])) := by
  obtain ⟨t, hnext, ht⟩ := joinKeyDerived_reaches h
  have hto : Reached s t (closeExchange (joinNak (dirStart s.dir) n e.cell e.nonce cause) n) := by
    rcases hrefused with ⟨hcert, rfl⟩ | ⟨hcert, hsigned, rfl⟩
    · rw [hcert, if_pos (by decide)] at ht
      exact ht
    · rw [hcert, hsigned, if_neg (by decide), if_pos (by decide)] at ht
      exact ht
  obtain ⟨hport, hlink, hkey, hevent⟩ := refusedExchange (d := dirStart s.dir) h.exchange hcause
  have hbyte : b1 cause = [BitVec.ofNat 8 cause] := by rcases hcause with rfl | rfl <;> rfl
  rw [hbyte] at hevent
  exact ⟨t, hnext, by rw [hto.port]; exact hport, by rw [hto.cellRec]; exact hlink, by rw [hto.cellRec]; exact hkey, fun he => hto.decided (hevent he)⟩

theorem joinKeyDerived_keys {s : State} {n : Nat} {e : Exchange} (h : JoinComplete s n e) (hcert : cellCertOk s.dir e = true) (hsigned : exchangeSigned s.dir e = true) :
    ∃ t, exec (.joinKeyDerived n) s = .next t ∧ cellRec t.dir e.cell = keyedRec (sessionKey s.dir e) (cellRec s.dir e.cell) := by
  obtain ⟨t, hnext, ht⟩ := joinKeyDerived_reaches h
  rw [hcert, hsigned, if_neg (by decide), if_neg (by decide)] at ht
  refine ⟨t, hnext, (ht.cellRec e.cell).trans ?_⟩
  rw [cellRec, slotGranted_cells]
  exact cellRec_modRec ..

theorem joinExchangeTimeout_reaches {s : State} {n : Nat} {e : Exchange} (hn : n < 52) (hworks : works s.dir = true)
    (hex : (port s.dir n).exchange = some e) (hlate : e.stepAt + 64 ≤ s.dir.time.starts) :
    ∃ t, exec (.joinExchangeTimeout n) s = .next t ∧ Reached s t (closeExchange (countRefusal (dirStart s.dir) n e.cell 0x10) n) := by
  have hex' : (port (dirStart s.dir) n).exchange = some e := hex
  have hgo : (works (dirStart s.dir) && e.stepAt + 64 ≤ (dirStart s.dir).time.starts) = true :=
    Bool.and_eq_true_iff.mpr ⟨hworks, decide_eq_true hlate⟩
  refine unit_reaches (o := execJoinExchangeTimeout n s) rfl (decide_eq_true hn) ?_
  rw [hex']
  exact if_pos hgo

/-! Unanswered reads, and patches -/

theorem cellParamReadTimeout_reaches {s : State} {id i k x : Nat} (hid : id < 3168) (hworks : works s.dir = true)
    (hread : (cellRec s.dir id).reading = some (i, k, x)) (hsent : readUnsent s.dir id = false) (hlate : x + 16 ≤ s.dir.time.starts) :
    ∃ t step, exec (.cellParamReadTimeout id) s = .next t ∧ Reached s t (if 3 ≤ k then cfgFail (dirStart s.dir) id step
      else mgmtTo (modRec (dirStart s.dir) id fun r => { r with reading := some (i, k + 1, s.dir.time.starts) }) id 0x0C
        (readBody i (readCount id (cellRec s.dir id))) fun m => { m with why := .config, subs := 1 }) := by
  have hread' : (cellRec (dirStart s.dir) id).reading = some (i, k, x) := hread
  have hbar : (!works (dirStart s.dir) || readUnsent (dirStart s.dir) id || (dirStart s.dir).time.starts < x + 16) = false := by
    rw [show works (dirStart s.dir) = true from hworks, show readUnsent (dirStart s.dir) id = false from hsent,
      decide_eq_false (show ¬ (dirStart s.dir).time.starts < x + 16 from Nat.not_lt.mpr hlate)]; rfl
  obtain ⟨t, hnext, h⟩ := unit_reaches (s := s) (o := execCellParamReadTimeout id s) (d := if 3 ≤ k then cfgFail (dirStart s.dir) id
      (if (cellRec (dirStart s.dir) id).cfgStep = 20 then 2 else if (cellRec (dirStart s.dir) id).cfgStep = 510 then 5 else 3)
    else mgmtTo (modRec (dirStart s.dir) id fun r => { r with reading := some (i, k + 1, s.dir.time.starts) }) id 0x0C
      (readBody i (readCount id (cellRec s.dir id))) fun m => { m with why := .config, subs := 1 }) rfl (decide_eq_true hid) (by
    dsimp only
    rw [hread']
    exact if_neg (Bool.eq_false_iff.mp hbar))
  exact ⟨t, _, hnext, h⟩

theorem cfgFail_rec (d : Director) (id step : Nat) : cellRec (cfgFail d id step) id = { cellRec d id with cfgStep := 8, reading := none } := by
  unfold cfgFail
  extract_lets e
  have he : cellRec e id = { cellRec d id with cfgStep := 8, reading := none } := cellRec_modRec ..
  split
  · exact (raise_cellRec ..).trans he
  · exact he

/-- What the image in use must hold for a cell's patch to be sent (R605). -/
structure PatchDue (s : State) (id at_ size : Nat) (level : BitVec 18) : Prop where
  inRange : id < 3168
  works : works s.dir = true
  image : imageSection s.mem s.dir 0x83 (cellVar (cfg s.dir) id) = some (at_, size)
  known : ((cellRec s.dir id).slow.find? (·.1 = 1)) = some (1, level)
  proven : (cellRec s.dir id).link = .proven
  unsent : id ∉ s.dir.patched
  side : (if isNode id then cpReset 6 else prefSide (cfg s.dir) (id / 512)) = sideNum s.dir
  resting : ∀ a, a ∈ armsOfCell (cfg s.dir) id → offPre (arm s.dir a).mode = true
  newer : level.toNat < beNat (rdBytes s.mem .flash (at_ + 8) 4)

/-- The event of a patch that begins (R605). -/
def patchNoted (d : Director) (id : Nat) : Director := raise { d with patched := id :: d.patched } 211 0x01 (b2 id)

theorem imageSection_of {g d : Director} (h : g.boot = d.boot) (m : Stores) (type inst : Nat) : imageSection m g type inst = imageSection m d type inst := by
  rw [imageSection, imageSection, slotBase, slotBase, slotSize, slotSize, flashSize, flashSize, h]

theorem cellPatchSend_reaches {s : State} {id at_ size : Nat} {level : BitVec 18} (h : PatchDue s id at_ size level) :
    ∃ t, exec (.cellPatchSend id) s = .next t ∧ Reached s t (patchNext s.mem (patchNoted (dirStart s.dir) id) id 0) := by
  have himage : imageSection s.mem (dirStart s.dir) 0x83 (cellVar (cfg (dirStart s.dir)) id) = some (at_, size) := (imageSection_of rfl ..).trans h.image
  have hlevel : (cellRec (dirStart s.dir) id).slow.find? (·.1 = 1) = some (1, level) := h.known
  have hgo : (works (dirStart s.dir) && (cellRec (dirStart s.dir) id).link = .proven && !(dirStart s.dir).patched.contains id
      && (if isNode id then cpReset 6 else prefSide (cfg (dirStart s.dir)) (cellArm id)) = sideNum (dirStart s.dir)
      && (armsOfCell (cfg (dirStart s.dir)) id).all (fun a => offPre (arm (dirStart s.dir) a).mode)
      && level.toNat < beNat (rdBytes s.mem .flash (at_ + 8) 4)) = true := by
    have hunsent : (dirStart s.dir).patched.contains id = false := by
      rw [Bool.eq_false_iff, ne_eq, List.contains_iff_mem]
      exact h.unsent
    have hside : (if isNode id then cpReset 6 else prefSide (cfg (dirStart s.dir)) (cellArm id)) = sideNum (dirStart s.dir) := h.side
    have hrest : (armsOfCell (cfg (dirStart s.dir)) id).all (fun a => offPre (arm (dirStart s.dir) a).mode) = true := List.all_eq_true.mpr h.resting
    rw [show works (dirStart s.dir) = true from h.works, show (cellRec (dirStart s.dir) id).link = .proven from h.proven, hunsent, hrest,
      decide_eq_true h.newer, decide_eq_true hside]
    rfl
  refine unit_reaches (o := execCellPatchSend id s) rfl (decide_eq_true h.inRange) ?_
  dsimp only
  rw [himage, hlevel]
  exact if_pos hgo

theorem patchNext_view {β : Type} {view : Director → β} (hview : ∀ d t p, view { d with patching := t, ports := p } = view d) (m : Stores) (d : Director)
    (id ofs : Nat) : view (patchNext m d id ofs) = view d := by
  have hpatching (t : Table Nat) : view { d with patching := t } = view d := hview d t d.ports
  unfold patchNext
  split
  · exact ite_keeps ((mgmtTo_view (view := view) (fun d _ _ => hview d d.patching _) ..).trans (hpatching _)) (hpatching _)
  · rfl

theorem patchNext_first {m : Stores} {d : Director} {id n at_ size : Nat} (himage : imageSection m d 0x83 (cellVar (cfg d) id) = some (at_, size))
    (hsize : 0 < size) (hport : cellPort (part d) id = some n) :
    ∃ r, (port (patchNext m d id 0) n).mgmt = (port d n).mgmt ++ [r] ∧ r.mtype = 0x0E ∧ r.cell = some id := by
  unfold patchNext
  rw [himage]
  dsimp only
  rw [if_pos hsize]
  exact ⟨_, mgmtTo_mgmt (d := { d with patching := tset id 0 d.patching }) hport .., rfl, rfl⟩

theorem cellPatchSend_patches {s : State} {id at_ size : Nat} {level : BitVec 18} (h : PatchDue s id at_ size level) :
    ∃ t, exec (.cellPatchSend id) s = .next t ∧ id ∈ t.dir.patched
      ∧ (∀ n, 0 < size → cellPort (part s.dir) id = some n → ∃ r, (port t.dir n).mgmt = (port s.dir n).mgmt ++ [r] ∧ r.mtype = 0x0E ∧ r.cell = some id)
      ∧ (Enabled s.dir 211 → Decided t.dir 211 1 (toLE 2 id)) ∧ t.mem = s.mem := by
  obtain ⟨t, hnext, ht⟩ := cellPatchSend_reaches h
  have hnoted {β : Type} {view : Director → β} (hview : ∀ d l r, view { d with patched := l, ring := r } = view d) :
      view (patchNoted (dirStart s.dir) id) = view (dirStart s.dir) :=
    (raise_view (fun d r => hview d d.patched r) ..).trans (hview _ _ (dirStart s.dir).ring)
  have hboot : (patchNoted (dirStart s.dir) id).boot = s.dir.boot := hnoted (view := Director.boot) fun _ _ _ => rfl
  refine ⟨t, hnext, ?_, fun n hsize hport => ?_, fun he => ht.decided ?_, ht.mem_of_quiet ?_⟩
  · have hpatched : t.dir.patched = (patchNoted (dirStart s.dir) id).patched :=
      (ht.get Director.patched fun _ _ _ _ => rfl).trans (patchNext_view (view := Director.patched) (fun _ _ _ => rfl) ..)
    rw [hpatched, show (patchNoted (dirStart s.dir) id).patched = id :: s.dir.patched from raise_view (view := Director.patched) (fun _ _ => rfl) ..]
    exact List.mem_cons_self
  · rw [ht.port]
    have hfirst := patchNext_first (d := patchNoted (dirStart s.dir) id) (n := n) (m := s.mem) (id := id) (at_ := at_) (size := size)
      (by rw [imageSection_of hboot, hnoted (view := cfg) fun _ _ _ => rfl]; exact h.image) hsize (by rw [hnoted (view := part) fun _ _ _ => rfl]; exact hport)
    rw [hnoted (view := (port · n)) fun _ _ _ => rfl] at hfirst
    exact hfirst
  · rw [Decided, patchNext_view (view := Director.ring) fun _ _ _ => rfl]
    refine raise_decides ?_ ..
    exact he.of_eq rfl rfl
  · exact (patchNext_view (view := Director.writes) (fun _ _ _ => rfl) ..).trans (hnoted (view := Director.writes) fun _ _ _ => rfl)

/-- Settles O38: join bursts, exchanges and their keys, unanswered reads, and patches. -/
theorem joining : Obligations.Joining := by
  unfold Obligations.Joining
  refine ⟨fun s n err bits w j0 jl hn hhere hworks hrun hopen hw hlate hjl hbytes => ?_, fun s n err bits w j0 jl hn hopen hout => ?_,
    fun s n err bits bs x id w j0 jl hn hhere hworks hrun hopen hw hlate hjl hbytes hcrc hx hzero hzero' hidle hfew hid hcause => ?_,
    fun s n e hn hworks hex hlink h1 h2 h3 hcert => joinKeyDerived_refused ⟨hn, hworks, hex, hlink, h1, h2, h3⟩ (.inl rfl) (.inl ⟨hcert, rfl⟩),
    fun s n e hn hworks hex hlink h1 h2 h3 hcert hsig hcurve => ?_, fun s n e hn hworks hex hlink h1 h2 h3 hcert hsig => ?_,
    fun s n e hn hworks hex hlate => ?_, fun s id i k x hid hworks hread hsent hk hlate => ?_, fun s id i k x hid hworks hread hsent hk hlate => ?_,
    fun s id at_ size level hid hworks himage hlevel hlink hunsent hside hrest hnewer =>
      cellPatchSend_patches ⟨hid, hworks, himage, hlevel, hlink, hunsent, hside, hrest, hnewer⟩⟩
  · obtain ⟨t, hnext, h⟩ := joinBurst_reaches hn hhere hworks hrun err bits
    rw [joinBurstIn_broken (d := dirStart s.dir) ⟨⟨j0, jl, hopen, hjl⟩, hw, hlate⟩ hbytes] at h
    have hkept := burstReset_view (view := (port · n)) (fun _ _ => rfl) (dirStart s.dir) n .join
    have hport := (h.port n).trans (port_modPort ..)
    rw [hkept] at hport
    exact ⟨t, hnext, by rw [hport]; rfl, by rw [hport]; rfl, h.cells.trans (burstReset_view (view := Director.cells) (fun _ _ => rfl) ..)⟩
  · obtain ⟨t, hnext, h⟩ := unit_reaches (s := s) (o := execJoinBurstReceive n err bits s) (d := dirStart s.dir) rfl (decide_eq_true hn)
      (ite_keeps (view := fun d => d) (joinBurstIn_outside (d := dirStart s.dir) hopen hout ..) rfl)
    obtain ⟨p, a, g, x, hdir⟩ := h.dir
    exact ⟨t, hnext, by rw [hdir]; rfl⟩
  · obtain ⟨t, hnext, h⟩ := joinBurst_reaches hn hhere hworks hrun err bits
    subst hid
    obtain ⟨g, hopens⟩ := joinBurstIn_opens (d := dirStart s.dir) ⟨⟨j0, jl, hopen, hjl⟩, hw, hlate⟩ hbytes hcrc hx hzero hzero' hidle hfew hcause s.fresh
    rw [hopens] at h
    have hkept := joinAnswered_view (view := fun d => (port d n).exchange) fun d m r => pushMgmt_port_view (view := Port.exchange) (fun _ _ => rfl) d m r n
    refine ⟨t, openedExchange g s.fresh n x w (offsetsOf (cfg s.dir) n (err - s.dir.intDelay)), hnext, ?_, rfl, rfl, ?_⟩
    · rw [h.port, hkept]
      exact (congrArg Port.exchange (port_modPort ..)).trans rfl
    · rw [h.cellRec, joinAnswered_view (view := (cellRec · (fld x 127 112))) fun _ _ _ => rfl]
      exact congrArg CellRec.link (cellRec_modRec ..)
  · obtain ⟨t, hnext, hrec⟩ := joinKeyDerived_keys ⟨hn, hworks, hex, hlink, h1, h2, h3⟩ hcert (Bool.and_eq_true_iff.mpr ⟨hsig, hcurve⟩)
    exact ⟨t, hnext, by rw [hrec]; rfl, by rw [hrec]; rfl, by rw [hrec]; rfl⟩
  · obtain ⟨t, hnext, hport, hlisten, -, hevent⟩ := joinKeyDerived_refused ⟨hn, hworks, hex, hlink, h1, h2, h3⟩ (.inr rfl)
      (.inr ⟨hcert, by rw [exchangeSigned, hsig]; rfl, rfl⟩)
    exact ⟨t, hnext, hport, hlisten, hevent⟩
  · obtain ⟨t, hnext, h⟩ := joinExchangeTimeout_reaches hn hworks hex hlate
    have hopen : (port (countRefusal (dirStart s.dir) n e.cell 0x10) n).exchange = some e := by rw [countRefusal_port]; exact hex
    refine ⟨t, hnext, by rw [h.port, closeExchange_exchange], ?_, ?_⟩
    · rw [h.cellRec, closeExchange_rec hopen]; rfl
    · rw [h.port, closeExchange_joinRefused, countRefusal_port]; rfl
  · obtain ⟨t, step, hnext, h⟩ := cellParamReadTimeout_reaches hid hworks hread hsent hlate
    rw [if_neg (Nat.not_le.mpr hk)] at h
    have hrec : cellRec t.dir id = _ := (h.cellRec id).trans
      ((mgmtTo_view (view := (cellRec · id)) (fun _ _ _ => rfl) ..).trans (cellRec_modRec ..))
    exact ⟨t, hnext, by rw [hrec], by rw [hrec]; rfl⟩
  · obtain ⟨t, step, hnext, h⟩ := cellParamReadTimeout_reaches hid hworks hread hsent hlate
    rw [if_pos hk] at h
    have hrec := (h.cellRec id).trans (cfgFail_rec ..)
    exact ⟨t, hnext, by rw [hrec], by rw [hrec]⟩

end Sys2Proof.Machine
end

section
/-! PROOF. The shared operations of the cell controller: what each of them leaves (R123, R144, R160, R164, R170, R186). -/

namespace Sys2Proof.Machine

theorem ite_view {α β : Type} {view : α → β} {x : β} {p : Prop} [Decidable p] {t u : α} (h : view t = x) (h' : view u = x) :
    view (if p then t else u) = x := by
  split
  · exact h
  · exact h'

section
variable {β : Type} {view : Cell → β}

/-- Only the log of sampling conditions is kept with a change of state (R225). -/
theorem noteOk_view (hview : ∀ c o, view { c with okLog := o } = view c) (tick : Int) (f : Cell → Cell) (c : Cell) : view (noteOk tick f c) = view (f c) :=
  ite_view rfl (hview ..)

theorem resteer_view (hview : ∀ c s, view { c with steerNext := s } = view c) (c : Cell) : view (resteer c) = view c := hview ..

theorem cellEvent_view (hview : ∀ c e q l n, view { c with events := e, evtSeq := q, lostDue := l, cnt := { c.cnt with eventLost := n } } = view c)
    (c : Cell) (code : Nat) (tick : Int) (detail : Nat) : view (cellEvent c code tick detail) = view c := by
  unfold cellEvent
  dsimp only
  split
  · exact hview c _ _ _ _
  · exact hview c _ _ _ c.cnt.eventLost

theorem modLink_view (hview : ∀ c a b, view { c with la := a, lb := b } = view c) (c : Cell) (l : Link) (f : CLink → CLink) : view (modLink c l f) = view c := by
  cases l with
  | la => exact hview c _ c.lb
  | lb => exact hview c c.la _

theorem gateTo_view (hview : ∀ c g, view { c with gates := g } = view c) (c : Cell) (g : GateState) (tick : Int) : view (gateTo c g tick) = view c :=
  ite_view (hview ..) (hview ..)

theorem settle_view (hview : ∀ c m g, view { c with mode := m, gates := g } = view c) (tick : Int) (c : Cell) : view (settle tick c) = view c := by
  have hmode (c : Cell) (m : CellMode) : view { c with mode := m } = view c := hview c m c.gates
  unfold settle
  extract_lets p e
  have he : view e = view c := ite_view (hmode ..) rfl
  refine ite_view (ite_view ((hmode ..).trans he) ?_) he
  exact (hview e _ _).trans he

theorem linkToListen_view (hview : ∀ c a b m s n, view { c with la := a, lb := b, mode := m, staged := s, steerNext := n } = view c) (c : Cell) (l : Link) :
    view (linkToListen c l) = view c := by
  have hall (c : Cell) : view (allListen c) = view c := ite_view (hview c c.la c.lb _ _ c.steerNext) rfl
  exact (resteer_view (fun c s => hview c c.la c.lb c.mode c.staged s) _).trans
    ((hall _).trans (modLink_view (fun c a b => hview c a b c.mode c.staged c.steerNext) ..))
end

/-! A link in LISTEN (R85, R122, R123) -/

/-- What returning to LISTEN makes of a link. -/
def listened (x : CLink) : CLink := { x with
  mode := .listen, qual := false, first := none, last := none, placed := false, adj := 0
  dnOfs := 0, upOfs := 0, pendOfs := none, keys := [], session := none, handle := 0
  slot := none, giveUp := none, subs := [], asked := none, exch := none, pick := none
  window := none, recs := [], late := [], since := 0, deltas := [], treeId := none
  coast := 0, silent := 0, answers := [] }

theorem getLink_resteer (c : Cell) (l : Link) : getLink (resteer c) l = getLink c l := by cases l <;> rfl

theorem getLink_of {c d : Cell} (ha : c.la = d.la) (hb : c.lb = d.lb) (l : Link) : getLink c l = getLink d l := by
  cases l with
  | la => exact ha
  | lb => exact hb

theorem getLink_allListen (c : Cell) (l : Link) : getLink (allListen c) l = getLink c l := by
  unfold allListen
  exact ite_view (view := (getLink · l)) (getLink_of rfl rfl l) rfl

theorem getLink_linkToListen (c : Cell) (l : Link) : getLink (linkToListen c l) l = listened (getLink c l) := by
  rw [linkToListen, getLink_resteer, getLink_allListen]
  exact getLink_modLink ..

theorem getLink_linkToListen_other (c : Cell) (l : Link) : getLink (linkToListen c l) (otherLink l) = getLink c (otherLink l) := by
  rw [linkToListen, getLink_resteer, getLink_allListen]
  exact getLink_modLink_other ..

/-- The state of a cell after one of its links returned to LISTEN (R186). -/
theorem linkToListen_mode (c : Cell) (l : Link) : (linkToListen c l).mode = c.mode
    ∨ (c.mode = .joining ∨ c.mode = .proving) ∧ (linkToListen c l).mode = .listen := by
  have hlink (f : CLink → CLink) : (modLink c l f).mode = c.mode := modLink_view (view := Cell.mode) (fun _ _ _ => rfl) ..
  unfold linkToListen
  show (allListen _).mode = c.mode ∨ _ ∧ (allListen _).mode = .listen
  unfold allListen
  split
  · dsimp only
    rw [hlink]
    split
    · next h => exact .inr ⟨by simpa using h, rfl⟩
    · exact .inl rfl
  · exact .inl (hlink _)

theorem receives_linkToListen {c : Cell} (h : receives c = true) (l : Link) : receives (linkToListen c l) = true := by
  rcases linkToListen_mode c l with hm | ⟨-, hm⟩
  · rw [receives, hm]
    exact h
  · rw [receives, hm]
    rfl

/-! Events (R144) -/

theorem cellEvent_last (c : Cell) (code : Nat) (tick : Int) (detail : Nat) :
    ∃ l e, (cellEvent c code tick detail).events = l ++ [e] ∧ e.code = code :=
  ⟨_, _, rfl, rfl⟩

theorem cellEvent_has (c : Cell) (code : Nat) (tick : Int) (detail : Nat) : ∃ e ∈ (cellEvent c code tick detail).events, e.code = code := by
  obtain ⟨e, he, hcode, -⟩ := cellEvent_mem c code tick detail
  exact ⟨e, he, hcode⟩

/-- The newest event outlasts the next one (R144). -/
theorem cellEvent_keeps_last {c : Cell} {l : List CellEvent} {e : CellEvent} (h : c.events = l ++ [e]) (code : Nat) (tick : Int) (detail : Nat) :
    e ∈ (cellEvent c code tick detail).events := by
  unfold cellEvent
  dsimp only
  rw [h]
  refine List.mem_append_left _ ?_
  split
  · next hfull =>
    have hlong : 1 ≤ l.length := by
      simp at hfull
      omega
    rw [List.drop_append_of_le_length hlong]
    exact List.mem_append_right _ (List.mem_singleton.mpr rfl)
  · exact List.mem_append_right _ (List.mem_singleton.mpr rfl)

/-! The bypass oscillator (R153, R164, R188, R189) -/

/-- The clock core leaves its reference, and the event of it. -/
def bypassBegun (c : Cell) (cause : Nat) (tick : Int) : Cell :=
  cellEvent (modLink { c with bypass := true, locked := false, bypassCycles := 0 } c.steer fun x => { x with qual := false, first := none })
    0x10 tick (cause * 2 ^ 56)

/-- The outputs go to BYPASSED where they are live (R164). -/
def bypassGates (c : Cell) (tick : Int) : Cell :=
  if outputsLive c && !c.gates.blocked && c.variant != .node then { gateTo (cutTrim c) .bypassed tick with preempt := some tick } else c

theorem goBypass_of {c : Cell} (h : c.bypass = false) (cause : Nat) (tick : Int) :
    goBypass c cause tick = resteer (if (bypassGates (bypassBegun c cause tick) tick).variant = .node then bypassGates (bypassBegun c cause tick) tick
      else toSafeBypass (bypassGates (bypassBegun c cause tick) tick)) := by
  unfold goBypass
  rw [h]
  rfl

theorem goBypass_on {c : Cell} (h : c.bypass = true) (cause : Nat) (tick : Int) : goBypass c cause tick = c := if_pos h

section
variable {β : Type} {view : Cell → β}

theorem bypassGates_view (hview : ∀ c g p, view { c with gates := g, preempt := p } = view c) (c : Cell) (tick : Int) : view (bypassGates c tick) = view c := by
  have hgate (c : Cell) (g : Gates) : view { c with gates := g } = view c := hview c g c.preempt
  refine ite_view ?_ rfl
  exact (hview _ (gateTo (cutTrim c) .bypassed tick).gates _).trans ((gateTo_view hgate ..).trans (hgate c _))

theorem toSafeBypass_view (hview : ∀ c m, view { c with mode := m } = view c) (c : Cell) : view (toSafeBypass c) = view c := ite_view (hview ..) rfl

/-- What leaving for the bypass oscillator keeps, once it began. -/
theorem goBypass_begun (hview : ∀ c g p m s, view { c with gates := g, preempt := p, mode := m, steerNext := s } = view c) {c : Cell} (h : c.bypass = false)
    (cause : Nat) (tick : Int) : view (goBypass c cause tick) = view (bypassBegun c cause tick) := by
  have hgates := bypassGates_view (fun c g p => hview c g p c.mode c.steerNext) (bypassBegun c cause tick) tick
  rw [goBypass_of h]
  refine (resteer_view (fun c s => hview c c.gates c.preempt c.mode s) _).trans ?_
  exact ite_view hgates ((toSafeBypass_view (fun c m => hview c c.gates c.preempt m c.steerNext) _).trans hgates)

theorem goBypass_view (hview : ∀ c b k n x y e q l t g p m s, view { c with
      bypass := b, locked := k, bypassCycles := n, la := x, lb := y, events := e, evtSeq := q, lostDue := l, cnt := { c.cnt with eventLost := t }
      gates := g, preempt := p, mode := m, steerNext := s } = view c) (c : Cell) (cause : Nat) (tick : Int) : view (goBypass c cause tick) = view c := by
  cases h : c.bypass with
  | true => rw [goBypass_on h]
  | false =>
    rw [goBypass_begun (fun c g p m s => hview c c.bypass c.locked c.bypassCycles c.la c.lb c.events c.evtSeq c.lostDue c.cnt.eventLost g p m s) h]
    refine (cellEvent_view (fun c e q l t => hview c c.bypass c.locked c.bypassCycles c.la c.lb e q l t c.gates c.preempt c.mode c.steerNext) ..).trans ?_
    refine (modLink_view (fun c x y => hview c c.bypass c.locked c.bypassCycles x y c.events c.evtSeq c.lostDue c.cnt.eventLost c.gates c.preempt c.mode c.steerNext) ..).trans ?_
    exact hview c true false 0 c.la c.lb c.events c.evtSeq c.lostDue c.cnt.eventLost c.gates c.preempt c.mode c.steerNext
end

theorem bypassBegun_bypass (c : Cell) (cause : Nat) (tick : Int) : (bypassBegun c cause tick).bypass = true :=
  (cellEvent_view (view := Cell.bypass) (fun _ _ _ _ _ => rfl) ..).trans (modLink_view (view := Cell.bypass) (fun _ _ _ => rfl) ..)

theorem goBypass_bypass (c : Cell) (cause : Nat) (tick : Int) : (goBypass c cause tick).bypass = true := by
  cases h : c.bypass with
  | true => rw [goBypass_on h, h]
  | false => exact (goBypass_begun (view := Cell.bypass) (fun _ _ _ _ _ => rfl) h ..).trans (bypassBegun_bypass ..)

theorem goBypass_locked {c : Cell} (h : c.bypass = false) (cause : Nat) (tick : Int) : (goBypass c cause tick).locked = false :=
  (goBypass_begun (view := Cell.locked) (fun _ _ _ _ _ => rfl) h ..).trans
    ((cellEvent_view (view := Cell.locked) (fun _ _ _ _ _ => rfl) ..).trans (modLink_view (view := Cell.locked) (fun _ _ _ => rfl) ..))

theorem goBypass_events {c : Cell} (h : c.bypass = false) (cause : Nat) (tick : Int) : ∃ e ∈ (goBypass c cause tick).events, e.code = 0x10 := by
  rw [goBypass_begun (view := Cell.events) (fun _ _ _ _ _ => rfl) h]
  exact cellEvent_has ..

/-- A link once its clock is lost (R164). -/
def unqualified (x : CLink) : CLink := { x with qual := false, first := none }

theorem getLink_cellEvent (c : Cell) (code : Nat) (tick : Int) (detail : Nat) (l : Link) : getLink (cellEvent c code tick detail) l = getLink c l :=
  getLink_of (cellEvent_view (view := Cell.la) (fun _ _ _ _ _ => rfl) ..) (cellEvent_view (view := Cell.lb) (fun _ _ _ _ _ => rfl) ..) l

theorem getLink_bypassBegun (c : Cell) (cause : Nat) (tick : Int) : getLink (bypassBegun c cause tick) c.steer = unqualified (getLink c c.steer) := by
  rw [bypassBegun, getLink_cellEvent]
  refine (getLink_modLink ..).trans ?_
  exact congrArg unqualified (getLink_of rfl rfl _)

theorem getLink_goBypass {c : Cell} (h : c.bypass = false) (cause : Nat) (tick : Int) (l : Link) :
    getLink (goBypass c cause tick) l = getLink (bypassBegun c cause tick) l :=
  getLink_of (goBypass_begun (view := Cell.la) (fun _ _ _ _ _ => rfl) h ..) (goBypass_begun (view := Cell.lb) (fun _ _ _ _ _ => rfl) h ..) l

/-- Only the qualification of a link goes with the clock (R164). -/
theorem goBypass_link_view {γ : Type} {view : CLink → γ} (hview : ∀ x q f, view { x with qual := q, first := f } = view x) (c : Cell) (cause : Nat)
    (tick : Int) (l : Link) : view (getLink (goBypass c cause tick) l) = view (getLink c l) := by
  cases h : c.bypass with
  | true => rw [goBypass_on h]
  | false =>
    rw [getLink_goBypass h, bypassBegun, getLink_cellEvent]
    generalize hs : c.steer = k
    by_cases hl : l = k
    · subst hl
      rw [getLink_modLink, hview]
      exact congrArg view (getLink_of rfl rfl _)
    · have ho : l = otherLink k := by
        revert hl
        cases l <;> cases k <;> simp [otherLink]
      rw [ho, getLink_modLink_other]
      exact congrArg view (getLink_of rfl rfl _)

/-- The outputs of a live cell are BYPASSED and its state SAFE_BYPASS on the bypass oscillator (R164, R186). -/
theorem goBypass_live {c : Cell} (h : c.bypass = false) (hlive : outputsLive c = true) (hblocked : c.gates.blocked = false) (hnode : c.variant ≠ .node)
    (cause : Nat) (tick : Int) : (goBypass c cause tick).gates.state = .bypassed ∧ (goBypass c cause tick).mode = .safeBypass := by
  have hkept {β : Type} {view : Cell → β} (hv : ∀ c b k n x y e q l t, view { c with
      bypass := b, locked := k, bypassCycles := n, la := x, lb := y, events := e, evtSeq := q, lostDue := l, cnt := { c.cnt with eventLost := t } } = view c) :
      view (bypassBegun c cause tick) = view c :=
    (cellEvent_view (fun c e q l t => hv c c.bypass c.locked c.bypassCycles c.la c.lb e q l t) ..).trans
      ((modLink_view (fun c x y => hv c c.bypass c.locked c.bypassCycles x y c.events c.evtSeq c.lostDue c.cnt.eventLost) ..).trans
        (hv c true false 0 c.la c.lb c.events c.evtSeq c.lostDue c.cnt.eventLost))
  have hgo : (outputsLive (bypassBegun c cause tick) && !(bypassBegun c cause tick).gates.blocked && (bypassBegun c cause tick).variant != .node) = true := by
    rw [hkept (view := outputsLive) fun _ _ _ _ _ _ _ _ _ _ => rfl, hkept (view := Cell.gates) fun _ _ _ _ _ _ _ _ _ _ => rfl,
      hkept (view := Cell.variant) fun _ _ _ _ _ _ _ _ _ _ => rfl, hlive, hblocked]
    exact bne_iff_ne.mpr hnode
  have hvariant : (bypassGates (bypassBegun c cause tick) tick).variant = c.variant :=
    (bypassGates_view (view := Cell.variant) (fun _ _ _ => rfl) ..).trans (hkept (view := Cell.variant) fun _ _ _ _ _ _ _ _ _ _ => rfl)
  have hmode : (bypassGates (bypassBegun c cause tick) tick).mode = c.mode :=
    (bypassGates_view (view := Cell.mode) (fun _ _ _ => rfl) ..).trans (hkept (view := Cell.mode) fun _ _ _ _ _ _ _ _ _ _ => rfl)
  have hstate : (bypassGates (bypassBegun c cause tick) tick).gates.state = .bypassed := by
    rw [bypassGates, if_pos hgo]
    rfl
  rw [goBypass_of h, if_neg (by rw [hvariant]; exact hnode)]
  refine ⟨(toSafeBypass_view (view := fun c => c.gates.state) (fun _ _ => rfl) _).trans hstate, ?_⟩
  show (toSafeBypass _).mode = .safeBypass
  unfold toSafeBypass
  rw [hmode]
  split
  · rfl
  · next hm =>
    rw [hmode]
    have hlive' : ((c.mode = .ready ∨ c.mode = .active) ∨ c.mode = .hold) ∨ c.mode = .safeBypass := by simpa [outputsLive] using hlive
    exact hlive'.resolve_left fun h => hm (by simpa using h)

end Sys2Proof.Machine
end

section
/-! PROOF. Power, boot, patches and time of the cell controller (R152 to R165, R186, R187, R192, R235 to R238, R552, R553, R630). -/

namespace Sys2Proof.Machine

/-! Fuses and the board -/

/-- The loaded fuses put a variant in force (R552, R553). -/
def variantLoaded (c : Cell) (v : Variant) : Cell :=
  let n := (c.fuseA ||| c.fuseB).toNat
  safePattern { c with mode := .eepromLoad, variant := v, gates := { c.gates with bypDriven := v != .node }
                       meas := { c.meas with gCal := signed 24 (fld n 255 232), gUse := signed 24 (fld n 255 232) } } 0

theorem fuseLoaded_bad {c : Cell} {n : Nat} (hn : n = (c.fuseA ||| c.fuseB).toNat) (hmode : c.mode = .fuseLoad)
    (h : fld n 639 608 ≠ crc32c (toBE 76 (fld n 607 0))) : fuseLoaded c = c := by
  subst hn
  unfold fuseLoaded
  rw [if_neg (by rw [hmode]; decide)]
  exact if_pos h

theorem fuseLoaded_full {c : Cell} {n : Nat} (hn : n = (c.fuseA ||| c.fuseB).toNat) (hmode : c.mode = .fuseLoad)
    (h : fld n 639 608 = crc32c (toBE 76 (fld n 607 0))) (hv : fld n 287 280 = 2) : fuseLoaded c = variantLoaded c .full := by
  subst hn
  unfold fuseLoaded
  rw [if_neg (by rw [hmode]; decide)]
  dsimp only
  rw [hv]
  exact if_neg (not_not.mpr h)

theorem fuseLoaded_node {c : Cell} {n : Nat} (hn : n = (c.fuseA ||| c.fuseB).toNat) (hmode : c.mode = .fuseLoad)
    (h : fld n 639 608 = crc32c (toBE 76 (fld n 607 0))) (hv : fld n 287 280 = 3) : fuseLoaded c = variantLoaded c .node := by
  subst hn
  unfold fuseLoaded
  rw [if_neg (by rw [hmode]; decide)]
  dsimp only
  rw [hv]
  exact if_neg (not_not.mpr h)

theorem zeros_identity : identityOk (zeros 256) = false := by
  have h : beAt (zeros 256) 0 4 = 0 := by decide
  rw [identityOk, h]
  rfl

theorem eepromLoaded_listens (st : Stores) (img : EepromImage) {c : Cell} (h : c.mode = .eepromLoad) : (eepromLoaded st img c).mode = .listen := by
  unfold eepromLoaded
  rw [if_neg (by rw [h]; decide)]
  extract_lets m narrow rd idb cal idOk calOk pllOk pll w size slots entries best d board board' t t' t'' e
  have he : e.mode = .listen := rfl
  clear_value e
  refine ite_view (view := Cell.mode) he (ite_view (view := Cell.mode) ?_ he)
  exact (cellEvent_view (view := Cell.mode) (fun _ _ _ _ _ => rfl) ..).trans he

/-- Without a board EEPROM the cell reports it (R237, R588). -/
theorem eepromLoaded_absent (st : Stores) {img : EepromImage} (himg : img.present = false) {c : Cell} (h : c.mode = .eepromLoad) :
    ∃ e ∈ (eepromLoaded st img c).events, e.code = 0x70 := by
  unfold eepromLoaded
  rw [if_neg (by rw [h]; decide)]
  extract_lets m narrow rd idb cal idOk calOk pllOk pll w size slots entries best d board board' t t' t'' e
  have hid : idOk = false := by
    show identityOk (if !img.present then zeros 256 else _) = false
    rw [himg, if_pos (by decide), zeros_identity]
  clear_value idOk e
  subst hid
  rw [Bool.and_false, Bool.false_and, if_neg (by decide), Bool.not_false, Bool.true_or, Bool.true_or, if_pos rfl]
  exact cellEvent_has ..

/-! Signal -/

theorem steerChoice_relights {c : Cell} (hdark : (getLink c c.steer).signal = false) (hqual : (getLink c (otherLink c.steer)).qual = true)
    (hsignal : (getLink c (otherLink c.steer)).signal = true) : steerChoice c = otherLink c.steer := by
  unfold steerChoice
  extract_lets pref q byPref l o
  have hl : l = c.steer ∨ l = otherLink c.steer := by cases l <;> cases c.steer <;> simp [otherLink]
  clear_value l
  rcases hl with rfl | rfl
  · exact if_pos (by rw [hdark]; simp only [q, o, hqual, hsignal]; rfl)
  · exact if_neg (by rw [hsignal]; simp)

theorem otherLink_ne (l : Link) : otherLink l ≠ l := by cases l <;> decide

/-- A link that loses its signal at a tick (R163). -/
def signalLost (tick : Int) (x : CLink) : CLink := { x with signal := false, darkAt := if x.signal then some (x.cyc, tick) else x.darkAt }

/-- A joining link that goes dark returns to LISTEN (R101). -/
def linkDark (c : Cell) (l : Link) (tick : Int) : Cell :=
  if (getLink (modLink c l (signalLost tick)) l).mode = .joining then linkToListen (modLink c l (signalLost tick)) l else modLink c l (signalLost tick)

theorem lossOfSignal_of {c : Cell} (h : c.mode ≠ .unpowered) (l : Link) (tick : Int) : lossOfSignal l tick c = (if !receives (linkDark c l tick) then linkDark c l tick
    else if (resteer (linkDark c l tick)).dll && noReference (resteer (linkDark c l tick)) then goBypass (resteer (linkDark c l tick)) 2 tick
    else resteer (linkDark c l tick)) := if_neg h

section
variable {β : Type} {view : Cell → β}

theorem linkDark_view (hview : ∀ c a b m s n, view { c with la := a, lb := b, mode := m, staged := s, steerNext := n } = view c) (c : Cell) (l : Link)
    (tick : Int) : view (linkDark c l tick) = view c := by
  have hlink := modLink_view (view := view) (fun c a b => hview c a b c.mode c.staged c.steerNext) c l (signalLost tick)
  exact ite_view ((linkToListen_view hview ..).trans hlink) hlink
end

theorem linkDark_link_view {γ : Type} {view : CLink → γ} (hview : ∀ x, view (listened x) = view x) (c : Cell) (l : Link) (tick : Int) :
    view (getLink (linkDark c l tick) l) = view (signalLost tick (getLink c l)) := by
  have hlink : getLink (modLink c l (signalLost tick)) l = signalLost tick (getLink c l) := getLink_modLink ..
  refine ite_view (view := fun c => view (getLink c l)) ?_ (congrArg view hlink)
  rw [getLink_linkToListen, hview, hlink]

theorem linkDark_other (c : Cell) (l : Link) (tick : Int) : getLink (linkDark c l tick) (otherLink l) = getLink c (otherLink l) := by
  have hlink : getLink (modLink c l (signalLost tick)) (otherLink l) = getLink c (otherLink l) := getLink_modLink_other ..
  exact ite_view (view := (getLink · (otherLink l))) ((getLink_linkToListen_other ..).trans hlink) hlink

theorem receives_linkDark {c : Cell} (h : receives c = true) (l : Link) (tick : Int) : receives (linkDark c l tick) = true := by
  have hlink : receives (modLink c l (signalLost tick)) = true := (modLink_view (view := receives) (fun _ _ _ => rfl) ..).trans h
  exact ite_view (view := receives) (receives_linkToListen hlink l) hlink

theorem lossOfSignal_link_view {γ : Type} {view : CLink → γ} (hview : ∀ x q f, view { x with qual := q, first := f } = view x)
    (hlisten : ∀ x, view (listened x) = view x) {c : Cell} (h : c.mode ≠ .unpowered) (l : Link) (tick : Int) :
    view (getLink (lossOfSignal l tick c) l) = view (signalLost tick (getLink c l)) := by
  have hdark := linkDark_link_view hlisten c l tick
  have hsteer : view (getLink (resteer (linkDark c l tick)) l) = view (signalLost tick (getLink c l)) := by rw [getLink_resteer, hdark]
  rw [lossOfSignal_of h]
  exact ite_view (view := fun c => view (getLink c l)) hdark (ite_view (view := fun c => view (getLink c l)) ((goBypass_link_view hview ..).trans hsteer) hsteer)

/-- The steering link of a cell is dark in its link time (R163). -/
theorem linkDark_signal (c : Cell) (l : Link) (tick : Int) : (getLink (linkDark c l tick) l).signal = false :=
  linkDark_link_view (view := CLink.signal) (fun _ => rfl) c l tick

theorem linkDark_steer (c : Cell) (l : Link) (tick : Int) : (linkDark c l tick).steer = c.steer :=
  linkDark_view (view := Cell.steer) (fun _ _ _ _ _ _ => rfl) ..

theorem noReference_linkDark {c : Cell} (tick : Int) : noReference (resteer (linkDark c c.steer tick))
    = !((getLink c (otherLink c.steer)).qual && (getLink c (otherLink c.steer)).signal) := by
  have hs : (resteer (linkDark c c.steer tick)).steer = c.steer := linkDark_steer ..
  rw [noReference, steerLink, hs, getLink_resteer, getLink_resteer, linkDark_signal, linkDark_other]
  rfl

theorem lossOfSignal_steers {c : Cell} (hrecv : receives c = true) (hmode : c.mode ≠ .unpowered) (hqual : (getLink c (otherLink c.steer)).qual = true)
    (hsignal : (getLink c (otherLink c.steer)).signal = true) (tick : Int) :
    (lossOfSignal c.steer tick c).steerNext = some (otherLink c.steer) ∧ (lossOfSignal c.steer tick c).gates = c.gates := by
  have hs := linkDark_steer c c.steer tick
  have href : noReference (resteer (linkDark c c.steer tick)) = false := by rw [noReference_linkDark, hqual, hsignal]; rfl
  have hchoice : steerChoice (linkDark c c.steer tick) = otherLink c.steer := by
    have h := steerChoice_relights (c := linkDark c c.steer tick) (by rw [hs]; exact linkDark_signal ..) (by rw [hs, linkDark_other]; exact hqual)
      (by rw [hs, linkDark_other]; exact hsignal)
    rw [h, hs]
  rw [lossOfSignal_of hmode, receives_linkDark hrecv, if_neg (by decide), href, Bool.and_false, if_neg (by decide)]
  refine ⟨?_, linkDark_view (view := Cell.gates) (fun _ _ _ _ _ _ => rfl) ..⟩
  rw [resteer, hchoice, hs]
  exact if_neg (otherLink_ne _)

theorem lossOfSignal_pll {c : Cell} (hmode : c.mode ≠ .unpowered) (hdll : c.dll = false) (l : Link) (tick : Int) :
    (lossOfSignal l tick c).bypass = c.bypass ∧ (lossOfSignal l tick c).gates = c.gates := by
  have hd : (resteer (linkDark c l tick)).dll = false := (linkDark_view (view := Cell.dll) (fun _ _ _ _ _ _ => rfl) ..).trans hdll
  have hkept {β : Type} {view : Cell → β} (hv : ∀ c a b m s n, view { c with la := a, lb := b, mode := m, staged := s, steerNext := n } = view c) :
      view (lossOfSignal l tick c) = view c := by
    have hdark := linkDark_view hv c l tick
    have hsteer := (resteer_view (fun c s => hv c c.la c.lb c.mode c.staged s) (linkDark c l tick)).trans hdark
    rw [lossOfSignal_of hmode, hd, Bool.false_and, if_neg (by decide : ¬ (false = true))]
    exact ite_view hdark hsteer
  exact ⟨hkept (view := Cell.bypass) fun _ _ _ _ _ _ => rfl, hkept (view := Cell.gates) fun _ _ _ _ _ _ => rfl⟩

theorem lossOfSignal_dll {c : Cell} (hrecv : receives c = true) (hmode : c.mode ≠ .unpowered) (hdark : (getLink c (otherLink c.steer)).signal = false)
    (hdll : c.dll = true) (hbypass : c.bypass = false) (tick : Int) :
    (lossOfSignal c.steer tick c).bypass = true ∧ ∃ e ∈ (lossOfSignal c.steer tick c).events, e.code = 0x10 := by
  have href : noReference (resteer (linkDark c c.steer tick)) = true := by rw [noReference_linkDark, hdark, Bool.and_false]; rfl
  have hd : (resteer (linkDark c c.steer tick)).dll = true := (linkDark_view (view := Cell.dll) (fun _ _ _ _ _ _ => rfl) ..).trans hdll
  have hb : (resteer (linkDark c c.steer tick)).bypass = false := (linkDark_view (view := Cell.bypass) (fun _ _ _ _ _ _ => rfl) ..).trans hbypass
  rw [lossOfSignal_of hmode, receives_linkDark hrecv, if_neg (by decide), hd, href, if_pos (by decide)]
  exact ⟨goBypass_bypass .., goBypass_events hb ..⟩

/-! Clocks -/

theorem clockLock_locks {c : Cell} (h : receives c = true) : (clockLock c).locked = true ∧ (clockLock c).bypass = false := by
  have hmode : (c.mode = .unpowered || c.mode = .fuseLoad || c.mode = .eepromLoad || c.mode = .frozen) = false := by
    rw [receives, Bool.not_eq_true'] at h
    exact h
  unfold clockLock
  rw [if_neg (Bool.eq_false_iff.mp hmode)]
  exact ⟨settle_view (view := Cell.locked) (fun _ _ _ => rfl) .., settle_view (view := Cell.bypass) (fun _ _ _ => rfl) ..⟩

theorem clockLost_of {c : Cell} (h : receives c = true) (tick : Int) : clockLost tick c =
    if (getLink (goBypass c 1 tick) c.steer).mode = .joining then linkToListen (goBypass c 1 tick) c.steer else goBypass c 1 tick := by
  unfold clockLost
  rw [h]
  rfl

section
variable {c : Cell} (hrecv : receives c = true) (hbypass : c.bypass = false)
include hrecv hbypass

theorem clockLost_bypass (tick : Int) : (clockLost tick c).bypass = true ∧ (clockLost tick c).locked = false := by
  rw [clockLost_of hrecv]
  exact ⟨ite_view (view := Cell.bypass) ((linkToListen_view (view := Cell.bypass) (fun _ _ _ _ _ _ => rfl) ..).trans (goBypass_bypass ..)) (goBypass_bypass ..),
    ite_view (view := Cell.locked) ((linkToListen_view (view := Cell.locked) (fun _ _ _ _ _ _ => rfl) ..).trans (goBypass_locked hbypass ..)) (goBypass_locked hbypass ..)⟩

theorem clockLost_qual (tick : Int) : (steerLink (clockLost tick c)).qual = false := by
  have hsteer : (clockLost tick c).steer = c.steer := by
    rw [clockLost_of hrecv]
    have hg := goBypass_view (view := Cell.steer) (fun _ _ _ _ _ _ _ _ _ _ _ _ _ _ => rfl) c 1 tick
    exact ite_view (view := Cell.steer) ((linkToListen_view (view := Cell.steer) (fun _ _ _ _ _ _ => rfl) ..).trans hg) hg
  have hg : (getLink (goBypass c 1 tick) c.steer).qual = false := by rw [getLink_goBypass hbypass, getLink_bypassBegun]; rfl
  rw [steerLink, hsteer, clockLost_of hrecv]
  exact ite_view (view := fun x => (getLink x c.steer).qual) (by rw [getLink_linkToListen]; rfl) hg

theorem clockLost_event (tick : Int) : ∃ e ∈ (clockLost tick c).events, e.code = 0x10 := by
  rw [clockLost_of hrecv, ite_view (view := Cell.events) (x := (goBypass c 1 tick).events) (linkToListen_view (view := Cell.events) (fun _ _ _ _ _ _ => rfl) ..) rfl]
  exact goBypass_events hbypass ..

theorem clockLost_live (tick : Int) (hlive : outputsLive c = true) (hblocked : c.gates.blocked = false) (hnode : c.variant ≠ .node) :
    (clockLost tick c).gates.state = .bypassed ∧ (clockLost tick c).mode = .safeBypass := by
  obtain ⟨hstate, hmode⟩ := goBypass_live hbypass hlive hblocked hnode 1 tick
  have hlisten : (linkToListen (goBypass c 1 tick) c.steer).mode = .safeBypass := by
    rcases linkToListen_mode (goBypass c 1 tick) c.steer with hm | ⟨hm, -⟩
    · rw [hm, hmode]
    · rw [hmode] at hm
      exact absurd hm (by decide)
  rw [clockLost_of hrecv]
  exact ⟨ite_view (view := fun c : Cell => c.gates.state) ((linkToListen_view (view := fun c : Cell => c.gates.state) (fun _ _ _ _ _ _ => rfl) ..).trans hstate) hstate,
    ite_view (view := Cell.mode) hlisten hmode⟩
end

theorem holdoverExpire_over {c : Cell} {cy : Cycle} {k tick : Int} (hrecv : receives c = true) (href : noReference c = true)
    (hdark : (steerLink c).darkAt = some (cy, k)) (hbypass : c.bypass = false)
    (hover : (cp c 0x05 : Int) ≤ cycleDiff (cellCyc c) cy * (steerLink c).clen + tick - k) :
    (holdoverExpire tick c).bypass = true ∧ ∃ e ∈ (holdoverExpire tick c).events, e.code = 0x10 := by
  have hgo : (receives c && noReference c && holdoverOver c tick) = true := by
    rw [hrecv, href, holdoverOver, hdark]
    exact decide_eq_true hover
  rw [holdoverExpire, if_pos hgo]
  exact ⟨goBypass_bypass .., goBypass_events hbypass ..⟩

theorem holdoverExpire_early {c : Cell} {cy : Cycle} {k tick : Int} (hdark : (steerLink c).darkAt = some (cy, k))
    (hearly : cycleDiff (cellCyc c) cy * (steerLink c).clen + tick - k < (cp c 0x05 : Int)) : holdoverExpire tick c = c := by
  have hno : holdoverOver c tick = false := by
    rw [holdoverOver, hdark]
    exact decide_eq_false (Int.not_le.mpr hearly)
  rw [holdoverExpire, hno, Bool.and_false]
  rfl

/-! Steering (R154, R160, R192) -/

/-- The timebase follows its new link (R160). -/
def steered (c : Cell) (l : Link) : Cell := { c with steer := l, steerNext := none }

/-- A phase jump between the links is reported and counted (R154). -/
def jumped (c : Cell) (l : Link) (delta : Int) : Cell :=
  if delta.natAbs > 100 then
    let c := cellEvent c 0x11 0 (unsigned 32 delta * 2 ^ 32 + b2n (l = .lb) * 2 ^ 31)
    let c := { c with cnt := { c.cnt with phaseJump := wrapInc c.cnt.phaseJump } }
    modLink c l fun x => { x with qual := false, since := 0, deltas := [] }
  else c

/-- A relock of the DLL unqualifies both links (R192). -/
def dllRelocked (c : Cell) : Cell := { goBypass c 3 0 with la := unqualified (goBypass c 3 0).la, lb := unqualified (goBypass c 3 0).lb }

theorem steeringChange_of {c : Cell} {l : Link} (h : c.steerNext = some l) (delta : Int) : steeringChange delta c =
    if (jumped (steered c l) l delta).dll then resteer (dllRelocked (jumped (steered c l) l delta)) else resteer (jumped (steered c l) l delta) := by
  unfold steeringChange
  rw [h]
  rfl

theorem jumped_view {β : Type} {view : Cell → β} (hview : ∀ c a b e q l n p, view { c with
      la := a, lb := b, events := e, evtSeq := q, lostDue := l, cnt := { c.cnt with eventLost := n, phaseJump := p } } = view c) (c : Cell) (l : Link)
    (delta : Int) : view (jumped c l delta) = view c := by
  refine ite_view ?_ rfl
  refine (modLink_view (fun c a b => hview c a b c.events c.evtSeq c.lostDue c.cnt.eventLost c.cnt.phaseJump) ..).trans ?_
  refine (hview _ _ _ _ _ _ _ _).trans ?_
  exact cellEvent_view (fun c e q l n => hview c c.la c.lb e q l n c.cnt.phaseJump) ..

theorem jumped_far (c : Cell) (l : Link) {delta : Int} (h : 100 < delta.natAbs) : (getLink (jumped c l delta) l).qual = false
    ∧ (jumped c l delta).cnt.phaseJump = c.cnt.phaseJump + 1 ∧ ∃ pre e, (jumped c l delta).events = pre ++ [e] ∧ e.code = 0x11 := by
  rw [jumped, if_pos h]
  refine ⟨congrArg CLink.qual (getLink_modLink ..), ?_, ?_⟩
  · refine (modLink_view (view := fun c => c.cnt.phaseJump) (fun _ _ _ => rfl) ..).trans ?_
    exact congrArg wrapInc (cellEvent_view (view := fun c => c.cnt.phaseJump) (fun _ _ _ _ _ => rfl) ..)
  · obtain ⟨pre, e, he, hcode⟩ := cellEvent_last c 0x11 0 (unsigned 32 delta * 2 ^ 32 + b2n (l = .lb) * 2 ^ 31)
    exact ⟨pre, e, (modLink_view (view := Cell.events) (fun _ _ _ => rfl) ..).trans he, hcode⟩

theorem goBypass_keeps_last {c : Cell} {l : List CellEvent} {e : CellEvent} (h : c.events = l ++ [e]) (cause : Nat) (tick : Int) :
    e ∈ (goBypass c cause tick).events := by
  cases hb : c.bypass with
  | true => rw [goBypass_on hb, h]; exact List.mem_append_right _ (List.mem_singleton.mpr rfl)
  | false =>
    rw [goBypass_begun (view := Cell.events) (fun _ _ _ _ _ => rfl) hb]
    have hlink : (modLink { c with bypass := true, locked := false, bypassCycles := 0 } c.steer unqualified).events = l ++ [e] :=
      (modLink_view (view := Cell.events) (fun _ _ _ => rfl) ..).trans h
    exact cellEvent_keeps_last hlink ..

theorem dllRelocked_view {β : Type} {view : Cell → β} (hview : ∀ c b k n x y e q l t g p m s, view { c with
      bypass := b, locked := k, bypassCycles := n, la := x, lb := y, events := e, evtSeq := q, lostDue := l, cnt := { c.cnt with eventLost := t }
      gates := g, preempt := p, mode := m, steerNext := s } = view c) (c : Cell) : view (dllRelocked c) = view c :=
  (hview (goBypass c 3 0) (goBypass c 3 0).bypass (goBypass c 3 0).locked (goBypass c 3 0).bypassCycles _ _ (goBypass c 3 0).events (goBypass c 3 0).evtSeq
    (goBypass c 3 0).lostDue (goBypass c 3 0).cnt.eventLost (goBypass c 3 0).gates (goBypass c 3 0).preempt (goBypass c 3 0).mode (goBypass c 3 0).steerNext).trans
    (goBypass_view hview c 3 0)

theorem getLink_dllRelocked (c : Cell) (l : Link) : (getLink (dllRelocked c) l).qual = false := by cases l <;> rfl

theorem steeringChange_view {β : Type} {view : Cell → β} (hview : ∀ c b k n x y e q l t g p m s j, view { c with
      bypass := b, locked := k, bypassCycles := n, la := x, lb := y, events := e, evtSeq := q, lostDue := l, cnt := { c.cnt with eventLost := t, phaseJump := j }
      gates := g, preempt := p, mode := m, steerNext := s } = view c) {c : Cell} {l : Link} (h : c.steerNext = some l) (delta : Int) :
    view (steeringChange delta c) = view (steered c l) := by
  have hjump : view (jumped (steered c l) l delta) = view (steered c l) :=
    jumped_view (fun c a b e q l n p => hview c c.bypass c.locked c.bypassCycles a b e q l n c.gates c.preempt c.mode c.steerNext p) ..
  have hsteer (c : Cell) : view (resteer c) = view c := resteer_view (fun c s => hview c c.bypass c.locked c.bypassCycles c.la c.lb c.events c.evtSeq c.lostDue
    c.cnt.eventLost c.gates c.preempt c.mode s c.cnt.phaseJump) c
  rw [steeringChange_of h]
  exact ite_view ((hsteer _).trans ((dllRelocked_view (fun c b k n x y e q l t g p m s => hview c b k n x y e q l t g p m s c.cnt.phaseJump) _).trans hjump))
    ((hsteer _).trans hjump)

theorem steeringChange_jumps {c : Cell} {l : Link} (h : c.steerNext = some l) {delta : Int} (hfar : 100 < delta.natAbs) :
    (getLink (steeringChange delta c) l).qual = false ∧ (steeringChange delta c).cnt.phaseJump = c.cnt.phaseJump + 1
      ∧ ∃ e ∈ (steeringChange delta c).events, e.code = 0x11 := by
  obtain ⟨hqual, hcount, pre, e, hevents, hcode⟩ := jumped_far (steered c l) l hfar
  rw [steeringChange_of h]
  split
  · refine ⟨by rw [getLink_resteer, getLink_dllRelocked], ?_, e, goBypass_keeps_last hevents 3 0, hcode⟩
    exact (dllRelocked_view (view := fun c => c.cnt.phaseJump) (fun _ _ _ _ _ _ _ _ _ _ _ _ _ _ => rfl) _).trans hcount
  · refine ⟨by rw [getLink_resteer, hqual], hcount, e, ?_, hcode⟩
    show e ∈ (jumped (steered c l) l delta).events
    rw [hevents]
    exact List.mem_append_right _ (List.mem_singleton.mpr rfl)

theorem steeringChange_dll {c : Cell} {l : Link} (h : c.steerNext = some l) (hdll : c.dll = true) (delta : Int) :
    (steeringChange delta c).bypass = true ∧ (steeringChange delta c).la.qual = false ∧ (steeringChange delta c).lb.qual = false := by
  have hd : (jumped (steered c l) l delta).dll = true := (jumped_view (view := Cell.dll) (fun _ _ _ _ _ _ _ _ => rfl) ..).trans hdll
  rw [steeringChange_of h, if_pos hd]
  exact ⟨goBypass_bypass .., rfl, rfl⟩

theorem steeringChange_pll {c : Cell} {l : Link} (h : c.steerNext = some l) (hdll : c.dll = false) (delta : Int) :
    (steeringChange delta c).bypass = c.bypass ∧ (steeringChange delta c).gates = c.gates := by
  have hd : (jumped (steered c l) l delta).dll = false := (jumped_view (view := Cell.dll) (fun _ _ _ _ _ _ _ _ => rfl) ..).trans hdll
  rw [steeringChange_of h, hd, if_neg (by decide)]
  exact ⟨jumped_view (view := Cell.bypass) (fun _ _ _ _ _ _ _ _ => rfl) .., jumped_view (view := Cell.gates) (fun _ _ _ _ _ _ _ _ => rfl) ..⟩

/-- A cell command that also notes a change of the sampling conditions (R225). -/
theorem noted_reaches {s : State} {o : Host.Outcome State Fault Refusal} {f : Cell → Cell} {tick : Int} (ho : o = onCell s (noteOk tick f)) :
    ∃ t, o = .next t ∧ CellReached s t (noteOk tick f (cellStart s.cell)) := onCell_reaches ho rfl

theorem CellReached.noted {s t : State} {f : Cell → Cell} {tick : Int} (h : CellReached s t (noteOk tick f (cellStart s.cell))) {β : Type} {view : Cell → β}
    (hview : ∀ c o w, view { c with okLog := o, writes := w } = view c) : view t.cell = view (f (cellStart s.cell)) := by
  rw [h.cell]
  exact (hview _ (noteOk tick f (cellStart s.cell)).okLog []).trans (noteOk_view (fun c o => hview c o c.writes) tick f _)

/-- Settles O57: power, fuses and EEPROM, resets, and the clocks of the cell controller. -/
theorem cellPowerAndClocks : Obligations.CellPowerAndClocks := by
  unfold Obligations.CellPowerAndClocks
  refine ⟨fun s hmode => ?_, fun s => ?_, fun s n hmode hn => ?_, fun s img hmode => ?_, fun s hpower hfrozen => ?_, fun s hrecv => ?_,
    fun s tick hrecv hbypass => ?_, fun s l tick hmode => ?_, fun s l hmode => ?_, fun s tick cy k hrecv href hdark hbypass => ?_, fun s d l hnext => ?_⟩
  · obtain ⟨t, hnext, h⟩ := onCell_reaches (s := s) (o := execCellPowerOn s) rfl (if_pos hmode)
    exact ⟨t, hnext, by rw [h.cell]; rfl, by rw [h.cell]; rfl, by rw [h.cell]; rfl, by rw [h.cell]; rfl, by rw [h.cell]; rfl, by rw [h.cell]; rfl,
      by rw [h.cell]; rfl, h.mem⟩
  · obtain ⟨t, hnext, h⟩ := onCell_reaches (s := s) (o := execCellPowerOff s) rfl rfl
    exact ⟨t, hnext, by rw [h.cell]; rfl, by rw [h.cell]; rfl, by rw [h.cell]; rfl, by rw [h.cell]; rfl, by rw [h.cell], by rw [h.cell]; rfl, h.mem⟩
  · obtain ⟨t, hnext, h⟩ := onCell_reaches (s := s) (o := execCellFuseLoaded s) rfl rfl
    refine ⟨t, hnext, fun hbad => ?_, fun hgood hfull => ?_, fun hgood hnode => ?_⟩
    · rw [h.cell, fuseLoaded_bad (c := cellStart s.cell) hn hmode hbad]
      exact hmode
    · rw [h.cell, fuseLoaded_full (c := cellStart s.cell) hn hmode hgood hfull, hn]
      exact ⟨rfl, rfl, rfl, rfl⟩
    · rw [h.cell, fuseLoaded_node (c := cellStart s.cell) hn hmode hgood hnode, hn]
      exact ⟨rfl, rfl, rfl, rfl⟩
  · obtain ⟨t, hnext, h⟩ := onCell_reaches (s := s) (o := execCellEepromLoaded img s) rfl rfl
    refine ⟨t, hnext, ?_, fun himg => ?_⟩
    · rw [h.cell]
      exact eepromLoaded_listens s.mem img (c := cellStart s.cell) hmode
    · rw [h.cell]
      exact eepromLoaded_absent s.mem himg (c := cellStart s.cell) hmode
  · obtain ⟨t, hnext, h⟩ := onCell_reaches (s := s) (o := execCellNrst s) rfl rfl
    have hbar (b : Bool) (hb : s.cell.gates.latched = b) : ((cellStart s.cell).mode = .unpowered || (cellStart s.cell).mode = .frozen || (cellStart s.cell).gates.latched) = b := by
      rw [show (cellStart s.cell).gates.latched = b from hb, decide_eq_false (show ¬ (cellStart s.cell).mode = .unpowered from hpower),
        decide_eq_false (show ¬ (cellStart s.cell).mode = .frozen from hfrozen)]
      rfl
    refine ⟨t, hnext, fun hfree => ?_, fun hlatched => ?_⟩
    · rw [h.cell, if_neg (Bool.eq_false_iff.mp (hbar _ hfree))]
      exact ⟨rfl, rfl, fun l => by cases l <;> exact ⟨rfl, rfl⟩⟩
    · rw [h.cell, if_pos (hbar _ hlatched)]
      exact ⟨rfl, rfl⟩
  · obtain ⟨t, hnext, h⟩ := noted_reaches (s := s) (o := execClockLock s) rfl
    obtain ⟨hlocked, hbypass⟩ := clockLock_locks (c := cellStart s.cell) hrecv
    exact ⟨t, hnext, (h.noted (view := Cell.locked) fun _ _ _ => rfl).trans hlocked, (h.noted (view := Cell.bypass) fun _ _ _ => rfl).trans hbypass⟩
  · obtain ⟨t, hnext, h⟩ := noted_reaches (s := s) (o := execClockLockLost tick s) rfl
    obtain ⟨hon, hlocked⟩ := clockLost_bypass (c := cellStart s.cell) hrecv hbypass tick
    refine ⟨t, hnext, (h.noted (view := Cell.bypass) fun _ _ _ => rfl).trans hon, (h.noted (view := Cell.locked) fun _ _ _ => rfl).trans hlocked,
      (h.noted (view := fun c => (steerLink c).qual) fun _ _ _ => rfl).trans (clockLost_qual (c := cellStart s.cell) hrecv hbypass tick), ?_, fun hlive hblocked hnode => ?_⟩
    · rw [h.noted (view := Cell.events) fun _ _ _ => rfl]
      exact clockLost_event (c := cellStart s.cell) hrecv hbypass tick
    · obtain ⟨hstate, hmode⟩ := clockLost_live (c := cellStart s.cell) hrecv hbypass tick hlive hblocked hnode
      exact ⟨(h.noted (view := fun c => c.gates.state) fun _ _ _ => rfl).trans hstate, (h.noted (view := Cell.mode) fun _ _ _ => rfl).trans hmode⟩
  · obtain ⟨t, hnext, h⟩ := noted_reaches (s := s) (o := execLossOfSignal l tick s) rfl
    have hgates := h.noted (view := Cell.gates) fun _ _ _ => rfl
    have hbyp := h.noted (view := Cell.bypass) fun _ _ _ => rfl
    refine ⟨t, hnext, ?_, ?_, fun hrecv hl hqual hsignal => ?_, fun hdll => ?_, fun hrecv hl hdark hdll hb => ?_⟩
    · rw [h.noted (view := fun c => (getLink c l).signal) fun _ _ _ => by cases l <;> rfl]
      exact lossOfSignal_link_view (view := CLink.signal) (fun _ _ _ => rfl) (fun _ => rfl) (c := cellStart s.cell) hmode l tick
    · rw [h.noted (view := fun c => (getLink c l).darkAt) fun _ _ _ => by cases l <;> rfl]
      refine (lossOfSignal_link_view (view := CLink.darkAt) (fun _ _ _ => rfl) (fun _ => rfl) (c := cellStart s.cell) hmode l tick).trans ?_
      cases l <;> rfl
    · subst hl
      obtain ⟨hsteer, hkept⟩ := lossOfSignal_steers (c := cellStart s.cell) hrecv hmode
        (by cases s.cell.steer <;> exact hqual) hsignal tick
      exact ⟨(h.noted (view := Cell.steerNext) fun _ _ _ => rfl).trans hsteer, hgates.trans hkept⟩
    · obtain ⟨hb, hg⟩ := lossOfSignal_pll (c := cellStart s.cell) hmode hdll l tick
      exact ⟨hbyp.trans hb, hgates.trans hg⟩
    · subst hl
      obtain ⟨hon, hevent⟩ := lossOfSignal_dll (c := cellStart s.cell) hrecv hmode hdark hdll hb tick
      exact ⟨hbyp.trans hon, by rw [h.noted (view := Cell.events) fun _ _ _ => rfl]; exact hevent⟩
  · obtain ⟨t, hnext, h⟩ := onCell_reaches (s := s) (o := execSignalReturn l s) rfl (if_neg hmode)
    refine ⟨t, hnext, ?_⟩
    rw [h.cell]
    cases l <;> exact ⟨rfl, rfl, rfl, rfl⟩
  · obtain ⟨t, hnext, h⟩ := noted_reaches (s := s) (o := execCellHoldoverExpire tick s) rfl
    refine ⟨t, hnext, fun hover => ?_, fun hearly => ?_⟩
    · obtain ⟨hon, hevent⟩ := holdoverExpire_over (c := cellStart s.cell) hrecv href hdark hbypass hover
      exact ⟨(h.noted (view := Cell.bypass) fun _ _ _ => rfl).trans hon, by rw [h.noted (view := Cell.events) fun _ _ _ => rfl]; exact hevent⟩
    · have hkept := holdoverExpire_early (c := cellStart s.cell) hdark hearly
      rw [h.noted (view := Cell.bypass) fun _ _ _ => rfl, h.noted (view := Cell.gates) fun _ _ _ => rfl, hkept]
      exact ⟨hbypass, rfl⟩
  · obtain ⟨t, hgo, h⟩ := noted_reaches (s := s) (o := execSteeringChange d s) rfl
    have hstart : (cellStart s.cell).steerNext = some l := hnext
    refine ⟨t, hgo, ?_, fun hfar => ?_, fun hdll => ?_, fun hdll => ?_⟩
    · rw [h.noted (view := Cell.steer) fun _ _ _ => rfl, steeringChange_view (view := Cell.steer) (fun _ _ _ _ _ _ _ _ _ _ _ _ _ _ _ => rfl) hstart]
      rfl
    · obtain ⟨hqual, hcount, hevent⟩ := steeringChange_jumps hstart hfar
      exact ⟨(h.noted (view := fun c => (getLink c l).qual) fun _ _ _ => by cases l <;> rfl).trans hqual,
        (h.noted (view := fun c => c.cnt.phaseJump) fun _ _ _ => rfl).trans hcount, by rw [h.noted (view := Cell.events) fun _ _ _ => rfl]; exact hevent⟩
    · obtain ⟨hon, ha, hb⟩ := steeringChange_dll hstart hdll d
      exact ⟨(h.noted (view := Cell.bypass) fun _ _ _ => rfl).trans hon, (h.noted (view := fun c => c.la.qual) fun _ _ _ => rfl).trans ha,
        (h.noted (view := fun c => c.lb.qual) fun _ _ _ => rfl).trans hb⟩
    · obtain ⟨hb, hg⟩ := steeringChange_pll hstart hdll d
      exact ⟨(h.noted (view := Cell.bypass) fun _ _ _ => rfl).trans hb, (h.noted (view := Cell.gates) fun _ _ _ => rfl).trans hg⟩

end Sys2Proof.Machine
end

section
/-! PROOF. Leases, orders and gates of the cell controller (R166 to R173, R302 to R305). -/

namespace Sys2Proof.Machine

/-! Lease (R302 to R305) -/

/-- The decision begins: nothing is selected or renewed yet (R305). -/
def leaseOpened (c : Cell) : Cell := { c with decided := true, renewed := false, sel := none, selFill := false, forced := none }

/-- The block that ARM_BLOCKED forces from a frame of the order cycle (R166). -/
def leaseForced (c : Cell) : Option OrdRec :=
  ((offered c .la (decisionTick c)).filter (·.forced)).or ((offered c .lb (decisionTick c)).filter (·.forced))

/-- A free lease goes to its claimant (R305). -/
def leaseGranted (c : Cell) (a b : Option OrdRec) : Cell :=
  match c.holder, claimant c a b with
  | .none, some l => resteer { c with holder := holderOf l, lc := cp c 0x13, renewed := true
                                      cnt := { c.cnt with leaseChanges := wrapInc c.cnt.leaseChanges } }
  | _, _ => c

/-- The holder's record renews the lease; without one a SHADOW's fill record may stand in (R305). -/
def leaseSelected (c : Cell) (ofLink : Link → Option OrdRec) (forced : Option OrdRec) : Cell :=
  match holderLink c.holder with
  | none => { c with forced := forced }
  | some l =>
    match ofLink l with
    | some r => { c with sel := some r, lc := cp c 0x13, renewed := true, forced := forced }
    | none =>
      match ofLink (otherLink l) with
      | some r => if isShadow r && fillOk r && c.mode != .safeBypass then { c with sel := some r, selFill := true, forced := forced }
                  else { c with forced := forced }
      | none => { c with forced := forced }

theorem leaseRuns_variant {c : Cell} (h : leaseRuns c = true) : c.variant ≠ .node := by
  rw [leaseRuns, Bool.and_eq_true, bne_iff_ne] at h
  exact h.1

theorem leaseDecide_of {c : Cell} (hopen : c.decided = false) (hruns : leaseRuns c = true) (htick : (decisionTick c).isSome = true) :
    leaseDecide false c = leaseSelected (leaseGranted (leaseOpened c) (validRec c .la (decisionTick c)) (validRec c .lb (decisionTick c)))
      (validRec c · (decisionTick c)) (leaseForced c) := by
  have hgo : ¬ (c.decided || !false && (decisionTick c).isNone) = true := by
    rw [hopen, Option.isNone_eq_false_iff.mpr htick]
    decide
  have hpick : (fun l => validRec c l (decisionTick c)) = (fun l : Link => match l with | .la => validRec c .la (decisionTick c) | .lb => validRec c .lb (decisionTick c)) :=
    funext fun l => by cases l <;> rfl
  have hif (x : Option OrdRec) : (if (decisionTick c).isSome = true then x else none) = x := if_pos htick
  rw [hpick]
  unfold leaseDecide
  rw [if_neg hgo]
  dsimp only
  simp only [hif]
  rw [if_neg (leaseRuns_variant hruns)]
  have hopened : leaseRuns (leaseOpened c) = true := hruns
  refine (if_neg (c := (!leaseRuns (leaseOpened c)) = true) ?_).trans rfl
  rw [hopened]
  decide

theorem leaseGranted_held {c : Cell} (h : c.holder ≠ .none) (a b : Option OrdRec) : leaseGranted c a b = c := by
  unfold leaseGranted
  split
  · next hn _ => exact absurd hn h
  · rfl

/-- The side that a free lease goes to holds it (R305). -/
def leaseTaken (c : Cell) (l : Link) : Cell :=
  resteer { c with holder := holderOf l, lc := cp c 0x13, renewed := true, cnt := { c.cnt with leaseChanges := wrapInc c.cnt.leaseChanges } }

theorem leaseGranted_free {c : Cell} (h : c.holder = .none) {a b : Option OrdRec} {l : Link} (hl : claimant c a b = some l) :
    leaseGranted c a b = leaseTaken c l := by
  unfold leaseGranted
  rw [h, hl]
  rfl

theorem leaseSelected_holder {c : Cell} {l : Link} {r : OrdRec} {ofLink : Link → Option OrdRec} (hholder : holderLink c.holder = some l) (hrec : ofLink l = some r)
    (forced : Option OrdRec) : leaseSelected c ofLink forced = { c with sel := some r, lc := cp c 0x13, renewed := true, forced := forced } := by
  unfold leaseSelected
  rw [hholder]
  dsimp only
  rw [hrec]

theorem leaseSelected_view {β : Type} {view : Cell → β} (hview : ∀ c s f k, view { c with sel := s, selFill := f, forced := k } = view c) {c : Cell}
    (hrenew : ∀ s k, view { c with sel := s, lc := cp c 0x13, renewed := true, forced := k } = view c)
    (ofLink : Link → Option OrdRec) (forced : Option OrdRec) : view (leaseSelected c ofLink forced) = view c := by
  unfold leaseSelected
  split
  · exact hview c c.sel c.selFill forced
  · split
    · exact hrenew ..
    · split
      · exact ite_view (hview ..) (hview c c.sel c.selFill forced)
      · exact hview c c.sel c.selFill forced

theorem leaseDecision_renews {c : Cell} {l : Link} {r : OrdRec} (hopen : c.decided = false) (hruns : leaseRuns c = true) (hholder : holderLink c.holder = some l)
    (htick : (decisionTick c).isSome = true) (hrec : validRec c l (decisionTick c) = some r) :
    leaseDecide false c = { leaseOpened c with sel := some r, lc := cp c 0x13, renewed := true, forced := leaseForced c } := by
  have hheld : (leaseOpened c).holder ≠ .none := by
    intro h
    rw [show c.holder = .none from h] at hholder
    exact absurd hholder (by simp [holderLink])
  rw [leaseDecide_of hopen hruns htick, leaseGranted_held hheld]
  exact leaseSelected_holder (c := leaseOpened c) hholder hrec _

theorem leaseDecision_grants {c : Cell} {l : Link} (hopen : c.decided = false) (hruns : leaseRuns c = true) (hfree : c.holder = .none)
    (htick : (decisionTick c).isSome = true) (hclaim : claimant c (validRec c .la (decisionTick c)) (validRec c .lb (decisionTick c)) = some l) :
    (leaseDecide false c).holder = holderOf l ∧ (leaseDecide false c).lc = cp c 0x13 ∧ (leaseDecide false c).cnt.leaseChanges = c.cnt.leaseChanges + 1 := by
  rw [leaseDecide_of hopen hruns htick, leaseGranted_free (c := leaseOpened c) hfree hclaim]
  exact ⟨leaseSelected_view (view := Cell.holder) (fun _ _ _ _ => rfl) (fun _ _ => rfl) ..,
    leaseSelected_view (view := Cell.lc) (fun _ _ _ _ => rfl) (fun _ _ => rfl) .., leaseSelected_view (view := fun c => c.cnt.leaseChanges) (fun _ _ _ _ => rfl) (fun _ _ => rfl) ..⟩

/-! What an executed record does to the gates (R167 to R173) -/

section
variable {β : Type} {view : Cell → β}

theorem reload_view (hview : ∀ c a p k n, view { c with gates := { c.gates with active := a, pending := p, commits := k }, cnt := { c.cnt with lateCommit := n } } = view c)
    (c : Cell) (launch : Int) (duty : Nat) : view (reload c launch duty) = view c := hview ..

theorem discardCarry_view (hview : ∀ c k e q l n, view { c with gates := { c.gates with carry := k }, events := e, evtSeq := q, lostDue := l, cnt := { c.cnt with eventLost := n } } = view c) (c : Cell) (tick : Int) : view (discardCarry c tick) = view c :=
  ite_view rfl ((cellEvent_view (fun c e q l n => hview c c.gates.carry e q l n) ..).trans (hview c 0 c.events c.evtSeq c.lostDue c.cnt.eventLost))

theorem armEdge_view (hview : ∀ c a, view { c with edgeArms := a } = view c) (c : Cell) (src dest : GateState) (iarm : Int) (at_ : Int × Int) (index : Nat)
    (main : Bool) : view (armEdge c src dest iarm at_ index main) = view c :=
  ite_view rfl (hview ..)

theorem injectTrigger_view (hview : ∀ c m e q l n, view { c with meas := m, events := e, evtSeq := q, lostDue := l, cnt := { c.cnt with eventLost := n } } = view c)
    (c : Cell) (ov : Bool) (tick : Int) : view (injectTrigger c ov tick) = view c := by
  have hmeas (c : Cell) (m : Meas) : view { c with meas := m } = view c := hview c m c.events c.evtSeq c.lostDue c.cnt.eventLost
  unfold injectTrigger
  dsimp only
  refine ite_view (hmeas ..) (ite_view ?_ ?_)
  · exact (hmeas ..).trans ((cellEvent_view (fun c e q l n => hview c c.meas e q l n) ..).trans (hmeas ..))
  · exact (hmeas ..).trans (hmeas ..)
end

theorem gateTo_state (c : Cell) (d : GateState) (tick : Int) : (gateTo c d tick).gates.state = d := by
  unfold gateTo
  split
  · next h => exact h.symm
  · rfl

/-- An order moves the outputs to a state, which becomes the base state (R168). -/
def outputsMoved (c : Cell) (r : OrdRec) (was : GateState) (at_ : Int × Int) (d : GateState) : Cell :=
  let c := gateTo (discardCarry c at_.1) d at_.1
  armEdge { c with gates := { c.gates with base := d } } was d r.iarm at_ 0 true

/-- Any order but BLOCK ends a block (R189). -/
def blockEnded (c : Cell) (r : OrdRec) : Cell := if r.act = 4 then c else { c with gates := { c.gates with blocked := false } }

/-- An order acts on the outputs by its command (R168). -/
def orderActed (c : Cell) (r : OrdRec) (was : GateState) (at_ : Int × Int) : Cell :=
  match r.act with
  | 1 => outputsMoved c r was at_ .bypassed
  | 2 => outputsMoved c r was at_ .insPos
  | 3 => outputsMoved c r was at_ .insNeg
  | 4 => { outputsMoved c r was at_ .blocked with gates := { (outputsMoved c r was at_ .blocked).gates with blocked := true } }
  | 5 => runTrim c r true
  | 6 => runTrim c r false
  | _ => discardCarry c at_.1

/-- An executed order makes the cell ACTIVE and is echoed (R169, R186). -/
def orderEchoed (c : Cell) (r : OrdRec) (fillSrc : Bool) : Cell :=
  { c with mode := .active, executed := true
           run := { c.run with echo := r.seq, src := if fillSrc then .fill else .holder, fill := fillSrc, inject := r.flags.getLsbD 3 }
           cnt := if fillSrc then { c.cnt with fill := wrapInc c.cnt.fill } else c.cnt }

theorem runRecord_of (c : Cell) (r : OrdRec) (fillSrc : Bool) : runRecord c r fillSrc =
    let d := orderEchoed (orderActed (blockEnded (reload c (placeOf c r).1 r.duty) r) r c.gates.state (placeOf c r)) r fillSrc
    if r.flags.getLsbD 3 then injectTrigger d false (placeOf c r).1 else d := by
  unfold runRecord
  generalize placeOf c r = p
  obtain ⟨t, fine⟩ := p
  rfl

theorem runRecord_view {β : Type} {view : Cell → β} (hview : ∀ c m e q l n, view { c with meas := m, events := e, evtSeq := q, lostDue := l, cnt := { c.cnt with eventLost := n } } = view c)
    (c : Cell) (r : OrdRec) (fillSrc : Bool) : view (runRecord c r fillSrc)
      = view (orderEchoed (orderActed (blockEnded (reload c (placeOf c r).1 r.duty) r) r c.gates.state (placeOf c r)) r fillSrc) := by
  rw [runRecord_of]
  exact ite_view (injectTrigger_view hview ..) rfl

/-- The gates of an executed record are what its command makes of them. -/
theorem runRecord_gates (c : Cell) (r : OrdRec) (fillSrc : Bool) : (runRecord c r fillSrc).gates
    = (orderActed (blockEnded (reload c (placeOf c r).1 r.duty) r) r c.gates.state (placeOf c r)).gates :=
  runRecord_view (view := Cell.gates) (fun _ _ _ _ _ _ => rfl) ..

theorem runRecord_echoed (c : Cell) (r : OrdRec) (fillSrc : Bool) : (runRecord c r fillSrc).executed = true ∧ (runRecord c r fillSrc).mode = .active
    ∧ (runRecord c r fillSrc).run.echo = r.seq ∧ (runRecord c r fillSrc).run.src = if fillSrc then .fill else .holder :=
  ⟨runRecord_view (view := Cell.executed) (fun _ _ _ _ _ _ => rfl) .., runRecord_view (view := Cell.mode) (fun _ _ _ _ _ _ => rfl) ..,
    runRecord_view (view := fun c => c.run.echo) (fun _ _ _ _ _ _ => rfl) .., runRecord_view (view := fun c => c.run.src) (fun _ _ _ _ _ _ => rfl) ..⟩

theorem outputsMoved_view {β : Type} {view : Cell → β} (hview : ∀ c a, view { c with edgeArms := a } = view c) (c : Cell) (r : OrdRec) (was : GateState)
    (at_ : Int × Int) (d : GateState) : view (outputsMoved c r was at_ d) =
      view { gateTo (discardCarry c at_.1) d at_.1 with gates := { (gateTo (discardCarry c at_.1) d at_.1).gates with base := d } } :=
  armEdge_view hview ..

theorem outputsMoved_state (c : Cell) (r : OrdRec) (was : GateState) (at_ : Int × Int) (d : GateState) : (outputsMoved c r was at_ d).gates.state = d :=
  (outputsMoved_view (view := fun c => c.gates.state) (fun _ _ => rfl) ..).trans (gateTo_state ..)

theorem outputsMoved_blocked_g (c : Cell) (r : OrdRec) (was : GateState) (at_ : Int × Int) : (outputsMoved c r was at_ .blocked).gates.g = 0 :=
  outputsMoved_view (view := fun c => c.gates.g) (fun _ _ => rfl) ..

/-- A trim order starts from BYPASSED, and returns to it (R168, R172). -/
theorem runTrim_bypassed (c : Cell) (r : OrdRec) (pos : Bool) : (runTrim c r pos).gates.state = .bypassed ∧ (runTrim c r pos).gates.base = .bypassed := by
  unfold runTrim
  split
  next t fine _ =>
  extract_lets take c0 carry n w0 wmax c1 w dest c2 g2 based k g3 lead c3 c4
  have hstate : based.gates.state = .bypassed := gateTo_state ..
  have harmed {β : Type} {view : Cell → β} (hv : ∀ c a, view { c with edgeArms := a } = view c) : view c4 = view c3 := armEdge_view hv ..
  have hend {β : Type} {view : Cell → β} (hv : ∀ c a, view { c with edgeArms := a } = view c) :
      view (if c4.diagMode = 2 then armEdge c4 dest .bypassed r.iarm (lead + w, fine) 1 false else c4) = view c3 :=
    ite_view ((armEdge_view hv ..).trans (harmed hv)) (harmed hv)
  exact ⟨ite_view (view := fun c : Cell => c.gates.state) hstate ((hend (view := fun c => c.gates.state) fun _ _ => rfl).trans hstate),
    ite_view (view := fun c : Cell => c.gates.base) rfl (hend (view := fun c => c.gates.base) fun _ _ => rfl)⟩

section
variable {c : Cell} {r : OrdRec}

theorem runRecord_nop (h : r.act = 0) (fillSrc : Bool) : (runRecord c r fillSrc).gates.state = c.gates.state ∧ (runRecord c r fillSrc).gates.g = c.gates.g := by
  have hkept {β : Type} {view : Gates → β} (hv : ∀ g b k, view { g with blocked := b, carry := k } = view g) (d : Cell) (p : Int × Int) (was : GateState) :
      view (orderActed (blockEnded d r) r was p).gates = view d.gates := by
    have hended : view (blockEnded d r).gates = view d.gates := ite_view (view := fun c : Cell => view c.gates) rfl (hv d.gates false d.gates.carry)
    unfold orderActed
    rw [h]
    exact (discardCarry_view (view := fun c => view c.gates) (fun c k _ _ _ _ => hv c.gates c.gates.blocked k) ..).trans hended
  rw [runRecord_gates]
  exact ⟨hkept (fun _ _ _ => rfl) .., hkept (fun _ _ _ => rfl) ..⟩

theorem runRecord_bypasses (h : r.act = 1) (fillSrc : Bool) : (runRecord c r fillSrc).gates.state = .bypassed := by
  rw [runRecord_gates]
  unfold orderActed
  rw [h]
  exact outputsMoved_state ..

theorem runRecord_insertsPos (h : r.act = 2) (fillSrc : Bool) : (runRecord c r fillSrc).gates.state = .insPos := by
  rw [runRecord_gates]
  unfold orderActed
  rw [h]
  exact outputsMoved_state ..

theorem runRecord_insertsNeg (h : r.act = 3) (fillSrc : Bool) : (runRecord c r fillSrc).gates.state = .insNeg := by
  rw [runRecord_gates]
  unfold orderActed
  rw [h]
  exact outputsMoved_state ..

theorem runRecord_blocks (h : r.act = 4) (fillSrc : Bool) : (runRecord c r fillSrc).gates.state = .blocked ∧ (runRecord c r fillSrc).gates.g = 0
    ∧ (runRecord c r fillSrc).gates.blocked = true := by
  rw [runRecord_gates]
  unfold orderActed
  rw [h]
  exact ⟨outputsMoved_state .., outputsMoved_blocked_g .., rfl⟩

theorem runRecord_trims (h : r.act = 5 ∨ r.act = 6) (fillSrc : Bool) : (runRecord c r fillSrc).gates.state = .bypassed
    ∧ (runRecord c r fillSrc).gates.base = .bypassed := by
  rw [runRecord_gates]
  unfold orderActed
  rcases h with h | h
  · rw [h]
    exact runTrim_bypassed ..
  · rw [h]
    exact runTrim_bypassed ..
end

/-! Which order executes (R166, R190, R193) -/

section
variable {c : Cell} (hopen : c.executed = false) (hnode : c.variant ≠ .node) (hlive : outputsLive c = true) (hstage : stageOk c = true) (hqual : timeQual c = true)
include hopen hnode hlive hstage hqual

theorem orderExecute_withheld (hfault : faulted c = true) (hsafe : c.mode = .safeBypass) (v : Int) : orderExecute v c = { c with withheld := true } := by
  unfold orderExecute
  rw [hopen, if_neg (by decide), if_neg hnode, hlive, hstage, hqual, if_neg (by decide), hsafe, hfault]
  rfl

variable (hclear : faulted c = false) (hpre : c.preempt = none)
include hclear hpre

theorem orderExecute_selected {r : OrdRec} (hsel : c.sel = some r) (hforced : c.forced = none) (hfill : c.mode = .safeBypass → c.selFill = false) (v : Int) :
    orderExecute v c = runRecord (noteUndo c (placeOf c r).1) r c.selFill := by
  have hown : ¬ (c.selFill && decide (c.mode = .safeBypass)) = true := by
    rw [Bool.and_eq_true, decide_eq_true_eq]
    rintro ⟨hf, hm⟩
    exact absurd ((hfill hm).symm.trans hf) (by decide)
  unfold orderExecute
  rw [hopen, if_neg (by decide), if_neg hnode, hlive, hstage, hqual, if_neg (by decide), hclear, Bool.and_false, if_neg (by decide)]
  dsimp only
  rw [if_neg hown, hsel, hforced, hpre]
  rfl

theorem orderExecute_forced {q : OrdRec} (hsel : c.sel = none) (hforced : c.forced = some q) (v : Int) :
    orderExecute v c = forceBlock (noteUndo c (placeOf c q).1) q := by
  unfold orderExecute
  rw [hopen, if_neg (by decide), if_neg hnode, hlive, hstage, hqual, if_neg (by decide), hclear, Bool.and_false, if_neg (by decide)]
  dsimp only
  rw [hsel, ite_self, hforced, hpre]
  rfl
end

theorem orderExecute_nothing {c : Cell} (hsel : c.sel = none) (hforced : c.forced = none) (v : Int) :
    orderExecute v c = c ∨ orderExecute v c = { c with withheld := true } := by
  unfold orderExecute
  rw [hsel]
  split
  · exact .inl rfl
  · split
    · exact .inl rfl
    · split
      · exact .inl rfl
      · split
        · exact .inr rfl
        · dsimp only
          rw [ite_self, hforced]
          exact .inl rfl

theorem becomeBlocked_view {β : Type} {view : Cell → β} (hview : ∀ c g, view { c with gates := g } = view c) (c : Cell) (tick : Int) :
    view (becomeBlocked c tick) = view c :=
  ite_view (hview ..) ((hview ..).trans (hview ..))

theorem becomeBlocked_blocked (c : Cell) (tick : Int) : (becomeBlocked c tick).gates.blocked = true := by
  unfold becomeBlocked
  exact ite_view (view := fun c : Cell => c.gates.blocked) rfl rfl

/-- A block turns every gate off unless a latch, an over-voltage or the safe pattern stands above it (R182). -/
theorem becomeBlocked_off {c : Cell} (hlatched : c.gates.latched = false) (hov : c.gates.ov = false) (hlive : outputsLive c = true) (tick : Int) :
    (becomeBlocked c tick).gates.state = .blocked ∧ (becomeBlocked c tick).gates.g = 0 := by
  have hgo : becomeBlocked c tick = gatesOff { c with gates := { c.gates with blocked := true } } tick := by
    refine if_neg (c := (c.gates.latched || c.gates.ov || !outputsLive c) = true) ?_
    rw [hlatched, hov, hlive]
    decide
  rw [hgo]
  exact ⟨rfl, rfl⟩

/-- The cell that a forced block finds: its gate set reloaded, its carry discarded (R173, R174). -/
def blockFound (c : Cell) (q : OrdRec) : Cell := discardCarry (reload c (placeOf c q).1 q.duty) (placeOf c q).1

theorem blockFound_view {β : Type} {view : Cell → β} (hview : ∀ c a p k v e q l n m, view { c with
      gates := { c.gates with active := a, pending := p, commits := k, carry := v }, events := e, evtSeq := q, lostDue := l, cnt := { c.cnt with eventLost := n, lateCommit := m } } = view c) (c : Cell) (q : OrdRec) :
    view (blockFound c q) = view c :=
  (discardCarry_view (fun c v e q l n => hview c c.gates.active c.gates.pending c.gates.commits v e q l n c.cnt.lateCommit) ..).trans
    (reload_view (fun c a p k n => hview c a p k c.gates.carry c.events c.evtSeq c.lostDue c.cnt.eventLost n) ..)

theorem forceBlock_of (c : Cell) (q : OrdRec) : forceBlock c q =
    { becomeBlocked (blockFound c q) (placeOf c q).1 with
      executed := true, run := { (becomeBlocked (blockFound c q) (placeOf c q).1).run with echo := 0, src := .safe }
      mode := if (becomeBlocked (blockFound c q) (placeOf c q).1).mode = .safeBypass && !(c.sel.isSome && !c.selFill) then .safeBypass else .active } := by
  unfold forceBlock blockFound
  generalize placeOf c q = p
  obtain ⟨t, fine⟩ := p
  rfl

theorem forceBlock_blocks (c : Cell) (q : OrdRec) : (forceBlock c q).executed = true ∧ (forceBlock c q).gates.blocked = true ∧ (forceBlock c q).run.echo = 0
    ∧ (forceBlock c q).run.src = .safe := by
  rw [forceBlock_of]
  exact ⟨rfl, becomeBlocked_blocked .., rfl, rfl⟩

theorem forceBlock_off {c : Cell} (hlatched : c.gates.latched = false) (hov : c.gates.ov = false) (hlive : outputsLive c = true) (q : OrdRec) :
    (forceBlock c q).gates.state = .blocked ∧ (forceBlock c q).gates.g = 0 := by
  rw [forceBlock_of]
  refine becomeBlocked_off ?_ ?_ ?_ _
  · exact (blockFound_view (view := fun c => c.gates.latched) (fun _ _ _ _ _ _ _ _ _ _ => rfl) ..).trans hlatched
  · exact (blockFound_view (view := fun c => c.gates.ov) (fun _ _ _ _ _ _ _ _ _ _ => rfl) ..).trans hov
  · exact (blockFound_view (view := outputsLive) (fun _ _ _ _ _ _ _ _ _ _ => rfl) ..).trans hlive

/-! Placed edges (R171, R172) -/

/-- A placed transition of a trim pulse (R172). -/
def isTrim : GateEdge → Bool
  | .trim .. => true
  | .turnOn .. => false

theorem find?_isTrim {p : GateEdge → Bool} (h : ∀ e, p e = isTrim e) (es : List GateEdge) : es.find? p = es.find? isTrim := by rw [funext h]

theorem trimEdgeFire_of {c : Cell} {a : Int} {d : GateState} {b : Bool} (h : c.gates.edges.find? isTrim = some (.trim a d b)) : trimEdgeFire c =
    if c.gates.state = .blocked then { c with gates := { c.gates with edges := c.gates.edges.erase (.trim a d b) } }
    else gateTo { c with gates := { c.gates with edges := c.gates.edges.erase (.trim a d b) } } d a := by
  unfold trimEdgeFire
  split
  · next heq =>
    cases (heq.symm.trans (find?_isTrim (fun e => by cases e <;> rfl) _)).trans h
    rfl
  · next hno => exact absurd ((find?_isTrim (fun e => by cases e <;> rfl) _).trans h) (hno a d b)

theorem trimEdgeFire_moves {c : Cell} {a : Int} {d : GateState} {b : Bool} (h : c.gates.edges.find? isTrim = some (.trim a d b)) (hstate : c.gates.state ≠ .blocked) :
    (trimEdgeFire c).gates.state = d ∧ (trimEdgeFire c).mode = c.mode := by
  rw [trimEdgeFire_of h]
  rw [if_neg hstate]
  exact ⟨gateTo_state .., gateTo_view (view := Cell.mode) (fun _ _ => rfl) ..⟩

/-- Turning on the gates of a list one by one sets their bits and keeps the others. -/
theorem foldl_turnOn_bit (is : List Nat) (m : BitVec 4) (k : Nat) :
    (is.foldl (fun m i => m ||| (1#4 <<< i)) m).getLsbD k = (m.getLsbD k || (decide (k < 4) && decide (k ∈ is))) := by
  induction is generalizing m with
  | nil => simp
  | cons i is ih =>
    rw [List.foldl_cons, ih, BitVec.getLsbD_or, Bool.or_assoc]
    congr 1
    by_cases hk : k < 4
    · by_cases hi : k = i
      · subst hi
        simp [hk]
      · have hbit : (1#4 <<< i).getLsbD k = false := by
          rw [BitVec.getLsbD_shiftLeft]
          by_cases hle : k < i
          · simp [hle]
          · have hne : k - i ≠ 0 := by omega
            simp [hne]
        simp [hbit, hi]
    · have hge (x : BitVec 4) : x.getLsbD k = false := BitVec.getLsbD_of_ge x k (by omega)
      simp [hk, hge]

/-- The gates whose dead time ends at a tick. -/
def turnedOn (es : List GateEdge) (t : Int) : List Nat :=
  es.filterMap fun e => match e with | .turnOn u i => if u = t then some i else none | _ => none

theorem mem_turnedOn {es : List GateEdge} {t : Int} {i : Nat} : i ∈ turnedOn es t ↔ GateEdge.turnOn t i ∈ es := by
  rw [turnedOn, List.mem_filterMap]
  constructor
  · rintro ⟨e, he, hi⟩
    cases e with
    | turnOn u j =>
      dsimp only at hi
      split at hi
      · next hu => rw [hu, Option.some.inj hi] at he; exact he
      · exact absurd hi (by simp)
    | trim => exact absurd hi (by simp)
  · exact fun h => ⟨_, h, if_pos rfl⟩

theorem deadtimeFire_of {c : Cell} {t : Int} (h : nextTurnOn c.gates.edges = some t) : (deadtimeFire c).gates =
    { noteLevels (cp c 0x1C) c.gates ((turnedOn c.gates.edges t).foldl (fun m i => m ||| (1#4 <<< i)) c.gates.g &&& ~~~(faultMask c.gates)) t with
      edges := c.gates.edges.filter fun e => match e with | .turnOn u _ => u != t | _ => true } := by
  unfold deadtimeFire
  rw [h]
  rfl

section
variable {c : Cell} {t : Int} (h : nextTurnOn c.gates.edges = some t)
include h

theorem deadtimeFire_bit (i : Nat) : (deadtimeFire c).gates.g.getLsbD i =
    ((c.gates.g.getLsbD i || (decide (i < 4) && decide (i ∈ turnedOn c.gates.edges t))) && (decide (i < 4) && !(faultMask c.gates).getLsbD i)) := by
  rw [deadtimeFire_of h]
  show ((turnedOn c.gates.edges t).foldl (fun m i => m ||| (1#4 <<< i)) c.gates.g &&& ~~~(faultMask c.gates)).getLsbD i = _
  rw [BitVec.getLsbD_and, foldl_turnOn_bit, BitVec.getLsbD_not]

theorem deadtimeFire_turnsOn {i : Nat} (hi : i < 4) (hmem : GateEdge.turnOn t i ∈ c.gates.edges) (hfault : (faultMask c.gates).getLsbD i = false) :
    (deadtimeFire c).gates.g.getLsbD i = true := by
  rw [deadtimeFire_bit h, decide_eq_true hi, decide_eq_true (mem_turnedOn.mpr hmem), hfault]
  exact Bool.and_eq_true_iff.mpr ⟨Bool.or_true _, rfl⟩

theorem deadtimeFire_keepsOff {i : Nat} (hfault : (faultMask c.gates).getLsbD i = true) : (deadtimeFire c).gates.g.getLsbD i = false := by
  rw [deadtimeFire_bit h, hfault, Bool.not_true, Bool.and_false, Bool.and_false]

theorem deadtimeFire_done (i : Nat) : GateEdge.turnOn t i ∉ (deadtimeFire c).gates.edges := by
  rw [deadtimeFire_of h]
  intro hmem
  have hne := (List.mem_filter.mp hmem).2
  simp at hne
end

end Sys2Proof.Machine
end

section
/-! PROOF. The end of a cycle, the hold limit and the protection of the cell controller (R169, R176 to R184, R188, R305). -/

namespace Sys2Proof.Machine

/-! The end of a cycle (R169, R188, R305) -/

/-- An unrenewed lease runs down by a cycle (R305). -/
def leaseAged (c : Cell) : Cell :=
  if c.holder != .none && !c.renewed then
    if c.lc - 1 = 0 then resteer { c with lc := 0, holder := .none, cnt := { c.cnt with leaseChanges := wrapInc c.cnt.leaseChanges } }
    else { c with lc := c.lc - 1 }
  else c

/-- A cycle without an order discards the carry (R173). -/
def carryClosed (c : Cell) : Cell := if !c.executed && c.variant != .node then discardCarry c (steerLink c).clen else c

/-- A cycle without an order counts as a hold (R188). -/
def holdCounted (idle : Bool) (c : Cell) : Cell :=
  if idle && receives c then { c with holdCount := c.holdCount + 1, cnt := { c.cnt with hold := wrapInc c.cnt.hold } } else { c with holdCount := 0 }

/-- A cycle with a late order counts (R166). -/
def lateCounted (late : Bool) (c : Cell) : Cell := if late then { c with cnt := { c.cnt with lateOrder := wrapInc c.cnt.lateOrder } } else c

/-- An ACTIVE cell without an order goes to HOLD (R188). -/
def holdEntered (idle : Bool) (c : Cell) : Cell := if idle && c.mode = .active && !c.gates.blocked then { c with mode := .hold } else c

/-- A link's late order of the current cycle (R166). -/
def orderLate (c : Cell) : Bool := c.la.late.any (· = cellCyc c) || c.lb.late.any (· = cellCyc c)

/-- What the cycle's report says (R135 to R137, R169), once its counts are made. -/
def cycleReport (cy : Cycle) (late idle : Bool) (c : Cell) : Report :=
  let has (x : CLink) : Bool := x.frames.any fun f => f.cycle = cy
  let safeSrc := (c.preempt.isSome && (c.sel.isSome || c.forced.isSome)) || c.withheld || (c.mode = .safeBypass && faulted c && idle)
  { c.run with
    cycle := cy, late := late, la := has c.la, lb := has c.lb
    echo := if idle then 0 else c.run.echo
    src := if idle then (if safeSrc then .safe else .nothing) else c.run.src
    fill := !idle && c.run.fill
    inject := !idle && c.run.inject
    edge := if c.run.edge = -2048 then -2048 else c.run.edge }

/-- The counts and the state at the end of a cycle, its lease aged (R169, R188). -/
def cycleCounted (c : Cell) : Cell := holdEntered (!c.executed) (lateCounted (orderLate c) (holdCounted (!c.executed) (carryClosed c)))

theorem cycleEnd_of {c : Cell} (h : c.decided = true) : cycleEnd c = { cycleCounted (leaseAged c) with
    report := cycleReport (cellCyc (leaseAged c)) (orderLate (leaseAged c)) (!(leaseAged c).executed) (cycleCounted (leaseAged c))
    run := {}, sel := none, selFill := false, forced := none } := by
  have hdecide : leaseDecide true c = c := if_pos (by rw [h]; rfl)
  unfold cycleEnd
  rw [hdecide]
  rfl

section
variable {β : Type} {view : Cell → β}

theorem leaseAged_view (hview : ∀ c l h s n, view { c with lc := l, holder := h, steerNext := s, cnt := { c.cnt with leaseChanges := n } } = view c) (c : Cell) :
    view (leaseAged c) = view c := by
  refine ite_view (ite_view ?_ (hview c _ c.holder c.steerNext c.cnt.leaseChanges)) rfl
  exact (resteer_view (fun c s => hview c c.lc c.holder s c.cnt.leaseChanges) _).trans (hview c 0 .none c.steerNext _)

theorem carryClosed_view (hview : ∀ c k e q l n, view { c with gates := { c.gates with carry := k }, events := e, evtSeq := q, lostDue := l, cnt := { c.cnt with eventLost := n } } = view c)
    (c : Cell) : view (carryClosed c) = view c := ite_view (discardCarry_view hview ..) rfl

theorem holdCounted_view (hview : ∀ c k n, view { c with holdCount := k, cnt := { c.cnt with hold := n } } = view c) (idle : Bool) (c : Cell) :
    view (holdCounted idle c) = view c := ite_view (hview ..) (hview c 0 c.cnt.hold)

theorem lateCounted_view (hview : ∀ c n, view { c with cnt := { c.cnt with lateOrder := n } } = view c) (late : Bool) (c : Cell) :
    view (lateCounted late c) = view c := ite_view (hview ..) rfl

theorem holdEntered_view (hview : ∀ c m, view { c with mode := m } = view c) (idle : Bool) (c : Cell) : view (holdEntered idle c) = view c :=
  ite_view (hview ..) rfl

theorem cycleCounted_view (hview : ∀ c k e q l n h i j m, view { c with gates := { c.gates with carry := k }, events := e, evtSeq := q, lostDue := l, holdCount := h, mode := m, cnt := { c.cnt with eventLost := n, hold := i, lateOrder := j } } = view c)
    (c : Cell) : view (cycleCounted c) = view c := by
  have hmode (c : Cell) (m : CellMode) : view { c with mode := m } = view c :=
    hview c c.gates.carry c.events c.evtSeq c.lostDue c.cnt.eventLost c.holdCount c.cnt.hold c.cnt.lateOrder m
  have hlate (c : Cell) (n : Word) : view { c with cnt := { c.cnt with lateOrder := n } } = view c :=
    hview c c.gates.carry c.events c.evtSeq c.lostDue c.cnt.eventLost c.holdCount c.cnt.hold n c.mode
  have hhold (c : Cell) (k : Nat) (n : Word) : view { c with holdCount := k, cnt := { c.cnt with hold := n } } = view c :=
    hview c c.gates.carry c.events c.evtSeq c.lostDue c.cnt.eventLost k n c.cnt.lateOrder c.mode
  exact (holdEntered_view hmode ..).trans ((lateCounted_view hlate ..).trans ((holdCounted_view hhold ..).trans
    (carryClosed_view (fun c k e q l n => hview c k e q l n c.holdCount c.cnt.hold c.cnt.lateOrder c.mode) _)))
end

theorem holdCounted_idle {c : Cell} (h : receives c = true) : holdCounted true c = { c with holdCount := c.holdCount + 1, cnt := { c.cnt with hold := wrapInc c.cnt.hold } } :=
  if_pos (by rw [h]; rfl)

theorem holdEntered_idle {c : Cell} (hmode : c.mode = .active) (hblocked : c.gates.blocked = false) : holdEntered true c = { c with mode := .hold } :=
  if_pos (by rw [hmode, hblocked]; rfl)

section
variable {c : Cell}

theorem cycleCounted_idle (hidle : c.executed = false) (hrecv : receives c = true) : (cycleCounted c).holdCount = c.holdCount + 1 ∧ (cycleCounted c).cnt.hold = c.cnt.hold + 1 := by
  have hcarry {β : Type} {view : Cell → β} (hv : ∀ c k e q l n, view { c with gates := { c.gates with carry := k }, events := e, evtSeq := q, lostDue := l, cnt := { c.cnt with eventLost := n } } = view c) :
      view (carryClosed c) = view c := carryClosed_view hv c
  have hcounted : cycleCounted c = holdEntered true (lateCounted (orderLate c) (holdCounted true (carryClosed c))) := by
    unfold cycleCounted
    rw [hidle]
    rfl
  have hr : receives (carryClosed c) = true := (hcarry (view := receives) fun _ _ _ _ _ _ => rfl).trans hrecv
  rw [hcounted, holdCounted_idle hr]
  constructor
  · refine (holdEntered_view (view := Cell.holdCount) (fun _ _ => rfl) ..).trans ((lateCounted_view (view := Cell.holdCount) (fun _ _ => rfl) ..).trans ?_)
    exact congrArg (· + 1) (hcarry (view := Cell.holdCount) fun _ _ _ _ _ _ => rfl)
  · refine (holdEntered_view (view := fun c => c.cnt.hold) (fun _ _ => rfl) ..).trans ((lateCounted_view (view := fun c => c.cnt.hold) (fun _ _ => rfl) ..).trans ?_)
    exact congrArg (· + 1) (hcarry (view := fun c => c.cnt.hold) fun _ _ _ _ _ _ => rfl)

theorem cycleCounted_holds (hidle : c.executed = false) (hmode : c.mode = .active) (hblocked : c.gates.blocked = false) : (cycleCounted c).mode = .hold := by
  have hkept {β : Type} {view : Cell → β} (hv : ∀ c k e q l n h i j, view { c with gates := { c.gates with carry := k }, events := e, evtSeq := q, lostDue := l, holdCount := h, cnt := { c.cnt with eventLost := n, hold := i, lateOrder := j } } = view c) :
      view (lateCounted (orderLate c) (holdCounted true (carryClosed c))) = view c :=
    (lateCounted_view (fun c n => hv c c.gates.carry c.events c.evtSeq c.lostDue c.cnt.eventLost c.holdCount c.cnt.hold n) ..).trans
      ((holdCounted_view (fun c k n => hv c c.gates.carry c.events c.evtSeq c.lostDue c.cnt.eventLost k n c.cnt.lateOrder) ..).trans
        (carryClosed_view (fun c k e q l n => hv c k e q l n c.holdCount c.cnt.hold c.cnt.lateOrder) c))
  unfold cycleCounted
  rw [hidle]
  exact congrArg Cell.mode (holdEntered_idle ((hkept (view := Cell.mode) fun _ _ _ _ _ _ _ _ _ => rfl).trans hmode)
    ((hkept (view := fun c => c.gates.blocked) fun _ _ _ _ _ _ _ _ _ => rfl).trans hblocked))

theorem cycleCounted_busy (hbusy : c.executed = true) : (cycleCounted c).holdCount = 0 ∧ (cycleCounted c).mode = c.mode := by
  have hcounted : cycleCounted c = lateCounted (orderLate c) { c with holdCount := 0 } := by
    have hidle : (!c.executed) = false := by rw [hbusy]; rfl
    have hcarry : carryClosed c = c := if_neg (by rw [hidle, Bool.false_and]; decide)
    unfold cycleCounted
    rw [hcarry, hidle]
    rfl
  rw [hcounted]
  exact ⟨lateCounted_view (view := Cell.holdCount) (fun _ _ => rfl) .., lateCounted_view (view := Cell.mode) (fun _ _ => rfl) ..⟩
end

section
variable {c : Cell} (hdecided : c.decided = true)
include hdecided

theorem cycleEnd_cycle : (cycleEnd c).report.cycle = cellCyc c := by
  rw [cycleEnd_of hdecided]
  exact leaseAged_view (view := cellCyc) (fun _ _ _ _ _ => rfl) c

theorem cycleEnd_idle (hidle : c.executed = false) (hrecv : receives c = true) : (cycleEnd c).holdCount = c.holdCount + 1
    ∧ (cycleEnd c).cnt.hold = c.cnt.hold + 1 ∧ (cycleEnd c).report.echo = 0 ∧ (c.withheld = true → (cycleEnd c).report.src = .safe)
    ∧ (c.mode = .active → c.gates.blocked = false → (cycleEnd c).mode = .hold) := by
  have hi : (leaseAged c).executed = false := (leaseAged_view (view := Cell.executed) (fun _ _ _ _ _ => rfl) c).trans hidle
  have hr : receives (leaseAged c) = true := (leaseAged_view (view := receives) (fun _ _ _ _ _ => rfl) c).trans hrecv
  obtain ⟨hcount, hhold⟩ := cycleCounted_idle hi hr
  rw [cycleEnd_of hdecided, hi]
  refine ⟨hcount.trans ?_, hhold.trans ?_, rfl, fun hw => ?_, fun hm hb => cycleCounted_holds hi ?_ ?_⟩
  · exact congrArg (· + 1) (leaseAged_view (view := Cell.holdCount) (fun _ _ _ _ _ => rfl) c)
  · exact congrArg (· + 1) (leaseAged_view (view := fun c => c.cnt.hold) (fun _ _ _ _ _ => rfl) c)
  · have hwith : (cycleCounted (leaseAged c)).withheld = true :=
      (cycleCounted_view (view := Cell.withheld) (fun _ _ _ _ _ _ _ _ _ _ => rfl) _).trans ((leaseAged_view (view := Cell.withheld) (fun _ _ _ _ _ => rfl) c).trans hw)
    refine if_pos (c := (_ || (cycleCounted (leaseAged c)).withheld || _) = true) ?_
    rw [hwith, Bool.or_true, Bool.true_or]
  · exact (leaseAged_view (view := Cell.mode) (fun _ _ _ _ _ => rfl) c).trans hm
  · exact (leaseAged_view (view := fun c => c.gates.blocked) (fun _ _ _ _ _ => rfl) c).trans hb

theorem cycleEnd_busy (hbusy : c.executed = true) : (cycleEnd c).holdCount = 0 ∧ (cycleEnd c).report.echo = c.run.echo ∧ (cycleEnd c).mode = c.mode := by
  have hb : (leaseAged c).executed = true := (leaseAged_view (view := Cell.executed) (fun _ _ _ _ _ => rfl) c).trans hbusy
  obtain ⟨hcount, hmode⟩ := cycleCounted_busy hb
  rw [cycleEnd_of hdecided, hb]
  refine ⟨hcount, ?_, hmode.trans (leaseAged_view (view := Cell.mode) (fun _ _ _ _ _ => rfl) c)⟩
  exact (cycleCounted_view (view := fun c => c.run.echo) (fun _ _ _ _ _ _ _ _ _ _ => rfl) _).trans (leaseAged_view (view := fun c => c.run.echo) (fun _ _ _ _ _ => rfl) c)

theorem cycleEnd_lease : (cycleEnd c).holder = (leaseAged c).holder ∧ (cycleEnd c).lc = (leaseAged c).lc := by
  rw [cycleEnd_of hdecided]
  exact ⟨cycleCounted_view (view := Cell.holder) (fun _ _ _ _ _ _ _ _ _ _ => rfl) _, cycleCounted_view (view := Cell.lc) (fun _ _ _ _ _ _ _ _ _ _ => rfl) _⟩

variable (hheld : c.holder ≠ .none) (hrenewed : c.renewed = false)
include hheld hrenewed

theorem cycleEnd_leaseEnds (hlast : c.lc = 1) : (cycleEnd c).holder = .none := by
  rw [(cycleEnd_lease hdecided).1, leaseAged, hrenewed, bne_iff_ne.mpr hheld, if_pos (by decide), if_pos (by rw [hlast])]
  rfl

theorem cycleEnd_leaseRuns (hmore : 2 ≤ c.lc) : (cycleEnd c).holder = c.holder ∧ (cycleEnd c).lc = c.lc - 1 := by
  obtain ⟨hholder, hlc⟩ := cycleEnd_lease hdecided
  rw [hholder, hlc, leaseAged, hrenewed, bne_iff_ne.mpr hheld, if_pos (by decide), if_neg (by omega)]
  exact ⟨rfl, rfl⟩
end

/-! The hold limit (R188) -/

theorem holdLimitHit_reached {c : Cell} (hmode : c.mode = .hold) (hblocked : c.gates.blocked = false) (hcount : cp c 0x12 ≤ c.holdCount) : (holdLimitHit c).mode = .safeBypass ∧ (holdLimitHit c).gates.state = .bypassed
    ∧ ∃ e ∈ (holdLimitHit c).events, e.code = 0x20 := by
  have hgo : (c.mode = .hold && c.holdCount ≥ cp c 0x12 && !c.gates.blocked) = true := by
    rw [hmode, hblocked, decide_eq_true hcount]
    rfl
  rw [holdLimitHit, if_pos hgo]
  exact ⟨cellEvent_view (view := Cell.mode) (fun _ _ _ _ _ => rfl) .., (cellEvent_view (view := fun c => c.gates.state) (fun _ _ _ _ _ => rfl) ..).trans (gateTo_state ..),
    cellEvent_has ..⟩

theorem holdLimitHit_below {c : Cell} (hcount : c.holdCount < cp c 0x12) : holdLimitHit c = c := by
  refine if_neg ?_
  rw [decide_eq_false (show ¬ c.holdCount ≥ cp c 0x12 from Nat.not_le.mpr hcount), Bool.and_false, Bool.false_and]
  decide

/-! Over-voltage (R176, R177, R182) -/

/-- A live cell is in SAFE_BYPASS once protection acted (R186). -/
theorem toSafeBypass_live {c : Cell} (h : outputsLive c = true) : (toSafeBypass c).mode = .safeBypass := by
  unfold toSafeBypass
  split
  · rfl
  · next hm =>
    have hlive : ((c.mode = .ready ∨ c.mode = .active) ∨ c.mode = .hold) ∨ c.mode = .safeBypass := by simpa [outputsLive] using h
    exact hlive.resolve_left fun h => hm (by simpa using h)

theorem injectTrigger_ov (c : Cell) (tick : Int) : (injectTrigger c true tick).meas.injOv = true := by
  unfold injectTrigger
  dsimp only
  exact ite_view (view := fun c : Cell => c.meas.injOv) (Bool.or_true _) (ite_view (view := fun c : Cell => c.meas.injOv) (Bool.or_true _) (Bool.or_true _))

/-- The gate unit after a transition, but for the levels and their times. -/
theorem gateTo_gates_view {β : Type} {view : Gates → β} (hview : ∀ g s e l a b k w, view { g with
      state := s, edges := e, g := l, onTicks := a, onSince := b, blankTo := k, switched := w } = view g) (c : Cell) (d : GateState) (tick : Int) :
    view (gateTo c d tick).gates = view c.gates :=
  ite_view (view := fun c : Cell => view c.gates) (hview c.gates _ _ _ _ _ _ _) (hview c.gates _ _ _ _ _ _ _)

/-- A transition turns no gate on at once. -/
theorem gateTo_levels (c : Cell) (d : GateState) (tick : Int) : ∃ m, (gateTo c d tick).gates.g = c.gates.g &&& m := by
  unfold gateTo
  split
  · exact ⟨0, (BitVec.and_zero).symm⟩
  · exact ⟨_, rfl⟩

/-- The guard comparator's trip, held and counted (R176). -/
def guardTripped (c : Cell) : Cell :=
  { c with gates := { c.gates with ov := true, ovHeld := true }, cnt := { c.cnt with ov := wrapInc c.cnt.ov }
           thermal := { c.thermal with ovTotal := min 65535 (c.thermal.ovTotal + 1) } }

/-- The outputs of a live cell go to BYPASSED (R182). -/
def guardBypassed (c : Cell) (tick : Int) : Cell := if outputsLive c then { gateTo (cutTrim c) .bypassed tick with preempt := some tick } else c

theorem guardBypassed_view {β : Type} {view : Cell → β} (hview : ∀ c g p, view { c with gates := g, preempt := p } = view c) (c : Cell) (tick : Int) :
    view (guardBypassed c tick) = view c :=
  ite_view ((hview _ (gateTo (cutTrim c) .bypassed tick).gates _).trans ((gateTo_view (fun c g => hview c g c.preempt) ..).trans (hview c _ c.preempt))) rfl

theorem guardBypassed_gates_view {β : Type} {view : Gates → β} (hview : ∀ g s e l a b k w, view { g with
      state := s, edges := e, g := l, onTicks := a, onSince := b, blankTo := k, switched := w } = view g) (c : Cell) (tick : Int) :
    view (guardBypassed c tick).gates = view c.gates :=
  ite_view (view := fun c : Cell => view c.gates) ((gateTo_gates_view hview ..).trans
    (hview c.gates c.gates.state _ c.gates.g c.gates.onTicks c.gates.onSince c.gates.blankTo c.gates.switched)) rfl

section
variable {c : Cell} {tick vcap : Int} (hnode : c.variant ≠ .node) (hrecv : receives c = true)
include hnode hrecv

theorem ov1_of (hset : cp c 0x18 ≠ 0) (hfree : c.gates.ovHeld = false) (hover : (cp c 0x18 : Int) * 1000 < vcap) :
    ov1 tick vcap c = injectTrigger (toSafeBypass (guardBypassed (guardTripped c) tick)) true tick := by
  refine if_neg ?_
  rw [decide_eq_false hnode, hrecv, decide_eq_false hset, hfree, decide_eq_false (Int.not_le.mpr hover)]
  decide

theorem ov1_trips (hset : cp c 0x18 ≠ 0) (hfree : c.gates.ovHeld = false) (hover : (cp c 0x18 : Int) * 1000 < vcap) :
    (ov1 tick vcap c).gates.ov = true ∧ (ov1 tick vcap c).gates.ovHeld = true ∧ (ov1 tick vcap c).cnt.ov = c.cnt.ov + 1 ∧ (ov1 tick vcap c).meas.injOv = true
      ∧ (outputsLive c = true → (ov1 tick vcap c).gates.state = .bypassed ∧ (ov1 tick vcap c).mode = .safeBypass) := by
  have hkept {β : Type} {view : Cell → β} (hv : ∀ c m e q l n d, view { c with meas := m, events := e, evtSeq := q, lostDue := l, cnt := { c.cnt with eventLost := n }, mode := d } = view c) :
      view (injectTrigger (toSafeBypass (guardBypassed (guardTripped c) tick)) true tick) = view (guardBypassed (guardTripped c) tick) :=
    (injectTrigger_view (fun c m e q l n => hv c m e q l n c.mode) ..).trans
      (toSafeBypass_view (fun c d => hv c c.meas c.events c.evtSeq c.lostDue c.cnt.eventLost d) _)
  rw [ov1_of hnode hrecv hset hfree hover]
  refine ⟨?_, ?_, ?_, injectTrigger_ov .., fun hlive => ⟨?_, ?_⟩⟩
  · exact (hkept (view := fun c => c.gates.ov) fun _ _ _ _ _ _ _ => rfl).trans (guardBypassed_gates_view (view := Gates.ov) (fun _ _ _ _ _ _ _ _ => rfl) ..)
  · exact (hkept (view := fun c => c.gates.ovHeld) fun _ _ _ _ _ _ _ => rfl).trans (guardBypassed_gates_view (view := Gates.ovHeld) (fun _ _ _ _ _ _ _ _ => rfl) ..)
  · exact (hkept (view := fun c => c.cnt.ov) fun _ _ _ _ _ _ _ => rfl).trans (guardBypassed_view (view := fun c => c.cnt.ov) (fun _ _ _ => rfl) ..)
  · rw [hkept (view := fun c => c.gates.state) fun _ _ _ _ _ _ _ => rfl, guardBypassed, if_pos (show outputsLive (guardTripped c) = true from hlive)]
    exact gateTo_state ..
  · refine (injectTrigger_view (view := Cell.mode) (fun _ _ _ _ _ _ => rfl) ..).trans (toSafeBypass_live ?_)
    exact (guardBypassed_view (view := outputsLive) (fun _ _ _ => rfl) ..).trans hlive

end

/-! The latch (R177) -/

/-- The latch comparator drives BYP and latches it (R177). -/
def latchTripped (c : Cell) (tick : Int) : Cell :=
  { gateTo (cutTrim c) .bypassed tick with
    gates := { (gateTo (cutTrim c) .bypassed tick).gates with byp := true, latched := true }, preempt := some tick
    thermal := { c.thermal with due := true, latchTotal := min 65535 (c.thermal.latchTotal + 1) }, mode := .bypassLatched }

theorem receives_modes {c : Cell} (h : receives c = true) : c.mode ≠ .unpowered ∧ c.mode ≠ .fuseLoad ∧ c.mode ≠ .eepromLoad ∧ c.mode ≠ .frozen := by
  rw [receives] at h
  refine ⟨?_, ?_, ?_, ?_⟩ <;> (intro hm; rw [hm] at h; exact absurd h (by decide))

theorem ov2_of {c : Cell} {tick vcap : Int} (hnode : c.variant ≠ .node) (hrecv : receives c = true) (hfree : c.gates.latched = false) (hset : cp c 0x19 ≠ 0)
    (hover : (cp c 0x19 : Int) * 1000 < vcap) : ov2 tick vcap c = cellEvent (latchTripped c tick) 0x02 tick (c.meas.injResult * 2 ^ 44) := by
  obtain ⟨hpower, hfuse, heeprom, hfrozen⟩ := receives_modes hrecv
  unfold ov2
  rw [if_neg (by rw [decide_eq_false hnode, decide_eq_false hpower, decide_eq_false hfuse, decide_eq_false heeprom, hfree, decide_eq_false hset,
    decide_eq_false (Int.not_le.mpr hover)]; decide)]
  exact (if_neg (show ¬ (gateTo (cutTrim c) .bypassed tick).mode = .frozen from hfrozen)).trans rfl

/-! Desaturation (R179) -/

/-- A desaturation fault turns its pair off and keeps it off (R179). -/
def pairTripped (c : Cell) (pairB : Bool) (tick : Int) : Cell :=
  let g := { c.gates with offA := c.gates.offA || !pairB, offB := c.gates.offB || pairB, dsat := true }
  let g := noteLevels (cp c 0x1C) g (g.g &&& ~~~(pairMask pairB)) tick
  { c with gates := { g with edges := g.edges.filter fun e => match e with | .turnOn _ i => !(pairMask pairB).getLsbD i | .trim .. => false }
           cnt := { c.cnt with dsat := wrapInc c.cnt.dsat }, thermal := { c.thermal with dsatTotal := min 65535 (c.thermal.dsatTotal + 1) } }

/-- The tick at which protection decided the outputs of a live cell (R182). -/
def preemptNoted (live : Bool) (c : Cell) (tick : Int) : Cell := if live then { c with preempt := some tick } else c

/-- The other pair of a live cell that is not blocked takes the cell to BYPASSED (R182). -/
def pairBypassed (live : Bool) (c : Cell) (tick : Int) : Cell :=
  if live && !(preemptNoted live c tick).gates.blocked then gateTo (preemptNoted live c tick) .bypassed tick else preemptNoted live c tick

theorem dsatHit_of {c : Cell} {input : Nat} {tick : Int} (hnode : c.variant ≠ .node) (hrecv : receives c = true) (hinput : input < 4)
    (hhalf : c.variant = .half → input < 2) (hcounts : dsatCounts c input tick = true) : dsatHit input tick c =
      toSafeBypass (pairBypassed (outputsLive (pairTripped c (2 ≤ input) tick)) (cellEvent (pairTripped c (2 ≤ input) tick) 0x03 tick (2 ^ (60 + input))) tick) := by
  have hh : (decide (c.variant = .half) && decide (2 ≤ input)) = false := by
    rw [Bool.and_eq_false_iff, decide_eq_false_iff_not, decide_eq_false_iff_not]
    rcases Classical.em (c.variant = .half) with h | h
    · exact .inr (by have := hhalf h; omega)
    · exact .inl h
  unfold dsatHit
  rw [if_neg (by rw [decide_eq_false hnode, hrecv, hh, decide_eq_false (by omega : ¬ 4 ≤ input), hcounts]; decide)]
  rfl

theorem dsatHit_blanked {c : Cell} {input : Nat} {tick : Int} (h : dsatCounts c input tick = false) : dsatHit input tick c = c := by
  refine if_pos ?_
  rw [h, Bool.not_false, Bool.or_true]

theorem dsatCounts_blanked {c : Cell} {input : Nat} {tick b : Int} (h : c.gates.blankTo.getD input none = some b) (hearly : tick < b + cp c 0x1D) :
    dsatCounts c input tick = false := by
  rw [dsatCounts, h]
  exact decide_eq_false (Int.not_le.mpr hearly)

theorem pairBypassed_view {β : Type} {view : Cell → β} (hview : ∀ c g p, view { c with gates := g, preempt := p } = view c) (live : Bool) (c : Cell) (tick : Int) :
    view (pairBypassed live c tick) = view c := by
  have hpre : view (preemptNoted live c tick) = view c := ite_view (hview c c.gates _) rfl
  exact ite_view ((gateTo_view (fun c g => hview c g c.preempt) ..).trans hpre) hpre

theorem pairBypassed_gates_view {β : Type} {view : Gates → β} (hview : ∀ g s e l a b k w, view { g with
      state := s, edges := e, g := l, onTicks := a, onSince := b, blankTo := k, switched := w } = view g) (live : Bool) (c : Cell) (tick : Int) :
    view (pairBypassed live c tick).gates = view c.gates := by
  have hpre : view (preemptNoted live c tick).gates = view c.gates := ite_view (view := fun c : Cell => view c.gates) rfl rfl
  exact ite_view (view := fun c : Cell => view c.gates) ((gateTo_gates_view hview ..).trans hpre) hpre

theorem pairBypassed_levels (live : Bool) (c : Cell) (tick : Int) : ∃ m, (pairBypassed live c tick).gates.g = c.gates.g &&& m := by
  have hpre : (preemptNoted live c tick).gates.g = c.gates.g := ite_view (view := fun c : Cell => c.gates.g) rfl rfl
  unfold pairBypassed
  split
  · obtain ⟨m, hm⟩ := gateTo_levels (preemptNoted live c tick) .bypassed tick
    exact ⟨m, hm.trans (by rw [hpre])⟩
  · exact ⟨BitVec.allOnes 4, by rw [hpre, BitVec.and_allOnes]⟩

theorem masked_off (g p m : BitVec 4) : g &&& ~~~p &&& m &&& p = 0 := by
  ext i hi
  rw [BitVec.getElem_and, BitVec.getElem_and, BitVec.getElem_and, BitVec.getElem_not]
  cases p[i] <;> simp

theorem dsatHit_trips {c : Cell} {input : Nat} {tick : Int} (hnode : c.variant ≠ .node) (hrecv : receives c = true) (hinput : input < 4)
    (hhalf : c.variant = .half → input < 2) (hcounts : dsatCounts c input tick = true) : (dsatHit input tick c).gates.dsat = true
      ∧ (input < 2 → (dsatHit input tick c).gates.offA = true) ∧ (2 ≤ input → (dsatHit input tick c).gates.offB = true)
      ∧ (dsatHit input tick c).gates.g &&& pairMask (decide (2 ≤ input)) = 0 ∧ (dsatHit input tick c).cnt.dsat = c.cnt.dsat + 1
      ∧ ∃ e ∈ (dsatHit input tick c).events, e.code = 0x03 := by
  rw [dsatHit_of hnode hrecv hinput hhalf hcounts]
  generalize outputsLive (pairTripped c (2 ≤ input) tick) = live
  generalize hp : pairTripped c (2 ≤ input) tick = p
  have hevent : (cellEvent p 0x03 tick (2 ^ (60 + input))).gates = p.gates := cellEvent_view (view := Cell.gates) (fun _ _ _ _ _ => rfl) ..
  have hkept {β : Type} {view : Gates → β} (hv : ∀ g s e l a b k w, view { g with
      state := s, edges := e, g := l, onTicks := a, onSince := b, blankTo := k, switched := w } = view g) :
      view (toSafeBypass (pairBypassed live (cellEvent p 0x03 tick (2 ^ (60 + input))) tick)).gates = view p.gates := by
    rw [toSafeBypass_view (view := Cell.gates) (fun _ _ => rfl), pairBypassed_gates_view hv, hevent]
  have hother {β : Type} {view : Cell → β} (hv : ∀ c g q m, view { c with gates := g, preempt := q, mode := m } = view c) :
      view (toSafeBypass (pairBypassed live (cellEvent p 0x03 tick (2 ^ (60 + input))) tick)) = view (cellEvent p 0x03 tick (2 ^ (60 + input))) :=
    (toSafeBypass_view (fun c m => hv c c.gates c.preempt m) _).trans (pairBypassed_view (fun c g q => hv c g q c.mode) ..)
  refine ⟨?_, fun hlow => ?_, fun hhigh => ?_, ?_, ?_, ?_⟩
  · rw [hkept (view := Gates.dsat) fun _ _ _ _ _ _ _ _ => rfl, ← hp]
    rfl
  · rw [hkept (view := Gates.offA) fun _ _ _ _ _ _ _ _ => rfl, ← hp, decide_eq_false (by omega : ¬ 2 ≤ input)]
    exact Bool.or_true _
  · rw [hkept (view := Gates.offB) fun _ _ _ _ _ _ _ _ => rfl, ← hp, decide_eq_true hhigh]
    exact Bool.or_true _
  · obtain ⟨m, hm⟩ := pairBypassed_levels live (cellEvent p 0x03 tick (2 ^ (60 + input))) tick
    rw [toSafeBypass_view (view := fun c => c.gates.g) (fun _ _ => rfl), hm, hevent, ← hp]
    exact masked_off ..
  · rw [hother (view := fun c => c.cnt.dsat) fun _ _ _ _ => rfl, cellEvent_view (view := fun c => c.cnt.dsat) (fun _ _ _ _ _ => rfl), ← hp]
    rfl
  · rw [hother (view := Cell.events) fun _ _ _ _ => rfl]
    exact cellEvent_has ..

/-! Supply (R180, R183, R184) -/

/-- The supply inputs and the stage they make (R183). -/
def supplied (v4 v8 gdpg : Bool) (c : Cell) : Cell := { c with vstg4 := v4, vstg8 := v8, gdpg := gdpg, stage := stageOf v4 v8 gdpg }

/-- The first fall to STAGE0 a minute after the last write asks for an entry (R239). -/
def fallNoted (new : Nat) (c : Cell) : Cell :=
  if new = 0 && !c.thermal.fell && 60 ≤ (c.thermal.uptime - c.thermal.lastWrite).toNat then { c with thermal := { c.thermal with due := true, fell := true } } else c

/-- A fall out of STAGE2 puts the safe pattern on the outputs (R184). -/
def stageFallen (old new : Nat) (tick : Int) (c : Cell) : Cell :=
  if old = 2 && new < 2 && receives c && c.variant != .node && c.mode != .bypassLatched then
    { safePattern c tick with mode := if outputsLive c then .configured else c.mode, preempt := if outputsLive c then some tick else c.preempt }
  else c

theorem setSupply_of {c : Cell} (h : c.mode ≠ .unpowered) (v4 v8 gdpg : Bool) (tick : Int) : setSupply v4 v8 gdpg tick c =
    if stageOf v4 v8 gdpg = c.stage || c.mode = .frozen then supplied v4 v8 gdpg c
    else settle tick (stageFallen c.stage (stageOf v4 v8 gdpg) tick (cellEvent (fallNoted (stageOf v4 v8 gdpg) (supplied v4 v8 gdpg c)) 0x30 tick
      (c.stage * 2 ^ 62 + stageOf v4 v8 gdpg * 2 ^ 60 + b2n gdpg * 2 ^ 59))) := if_neg h

theorem stageFallen_view {β : Type} {view : Cell → β} (hview : ∀ c g m p, view { c with gates := g, mode := m, preempt := p } = view c) (old new : Nat) (tick : Int)
    (c : Cell) : view (stageFallen old new tick c) = view c := by
  refine ite_view ?_ rfl
  exact (hview _ (safePattern c tick).gates _ _).trans (hview c _ c.mode c.preempt)

theorem fallNoted_view {β : Type} {view : Cell → β} (hview : ∀ c t, view { c with thermal := t } = view c) (new : Nat) (c : Cell) :
    view (fallNoted new c) = view c := ite_view (hview ..) rfl

theorem setSupply_view {β : Type} {view : Cell → β} (hview : ∀ c g m p e q l n t, view { c with
      gates := g, mode := m, preempt := p, events := e, evtSeq := q, lostDue := l, thermal := t, cnt := { c.cnt with eventLost := n } } = view c)
    {c : Cell} (h : c.mode ≠ .unpowered) (v4 v8 gdpg : Bool) (tick : Int) : view (setSupply v4 v8 gdpg tick c) = view (supplied v4 v8 gdpg c) := by
  rw [setSupply_of h]
  refine ite_view rfl ?_
  refine (settle_view (fun c m g => hview c g m c.preempt c.events c.evtSeq c.lostDue c.cnt.eventLost c.thermal) ..).trans ?_
  refine (stageFallen_view (fun c g m p => hview c g m p c.events c.evtSeq c.lostDue c.cnt.eventLost c.thermal) ..).trans ?_
  refine (cellEvent_view (fun c e q l n => hview c c.gates c.mode c.preempt e q l n c.thermal) ..).trans ?_
  exact fallNoted_view (fun c t => hview c c.gates c.mode c.preempt c.events c.evtSeq c.lostDue c.cnt.eventLost t) ..

/-- The stage follows the supply inputs (R183). -/
theorem setSupply_stage {c : Cell} (h : c.mode ≠ .unpowered) (v4 v8 gdpg : Bool) (tick : Int) : (setSupply v4 v8 gdpg tick c).vstg4 = v4
    ∧ (setSupply v4 v8 gdpg tick c).vstg8 = v8 ∧ (setSupply v4 v8 gdpg tick c).gdpg = gdpg ∧ (setSupply v4 v8 gdpg tick c).stage = stageOf v4 v8 gdpg :=
  ⟨setSupply_view (view := Cell.vstg4) (fun _ _ _ _ _ _ _ _ _ => rfl) h .., setSupply_view (view := Cell.vstg8) (fun _ _ _ _ _ _ _ _ _ => rfl) h ..,
    setSupply_view (view := Cell.gdpg) (fun _ _ _ _ _ _ _ _ _ => rfl) h .., setSupply_view (view := Cell.stage) (fun _ _ _ _ _ _ _ _ _ => rfl) h ..⟩

theorem stageOf_unpowered (v4 v8 : Bool) : stageOf v4 v8 false < 2 := by revert v4 v8; decide

/-- A cell whose stage is below 2 is not made READY (R186). -/
theorem settle_configured {c : Cell} (hmode : c.mode = .configured) (hstage : stageOk c = false) (tick : Int) : settle tick c = c := by
  unfold settle
  extract_lets linked e
  have he : e = c := if_neg (by rw [hmode]; exact Bool.false_ne_true)
  rw [he]
  exact if_neg (by rw [hstage, Bool.and_false, Bool.false_and]; decide)

theorem outputsLive_receives {c : Cell} (h : outputsLive c = true) : receives c = true ∧ c.mode ≠ .bypassLatched := by
  rw [outputsLive] at h
  rw [receives]
  cases hm : c.mode <;> rw [hm] at h <;> revert h <;> decide

section
variable {c : Cell} (hpower : c.mode ≠ .unpowered) (hstage : c.stage = 2) (v4 v8 : Bool) (tick : Int)
include hpower hstage

theorem setSupply_falls (hfrozen : c.mode ≠ .frozen) : setSupply v4 v8 false tick c =
    settle tick (stageFallen c.stage (stageOf v4 v8 false) tick (cellEvent (fallNoted (stageOf v4 v8 false) (supplied v4 v8 false c)) 0x30 tick
      (c.stage * 2 ^ 62 + stageOf v4 v8 false * 2 ^ 60 + b2n false * 2 ^ 59))) := by
  have hlow := stageOf_unpowered v4 v8
  rw [setSupply_of hpower, if_neg]
  rw [decide_eq_false (by omega : ¬ stageOf v4 v8 false = c.stage), decide_eq_false hfrozen]
  decide

theorem setSupply_event (hfrozen : c.mode ≠ .frozen) : ∃ e ∈ (setSupply v4 v8 false tick c).events, e.code = 0x30 := by
  rw [setSupply_falls hpower hstage v4 v8 tick hfrozen, settle_view (view := Cell.events) (fun _ _ _ => rfl), stageFallen_view (view := Cell.events) fun _ _ _ _ => rfl]
  exact cellEvent_has ..

theorem setSupply_configured (hnode : c.variant ≠ .node) (hlive : outputsLive c = true) : (setSupply v4 v8 false tick c).mode = .configured
    ∧ (setSupply v4 v8 false tick c).gates.state = .blocked := by
  have hlow := stageOf_unpowered v4 v8
  have hfrozen : c.mode ≠ .frozen := by
    intro hm
    rw [outputsLive, hm] at hlive
    exact absurd hlive (by decide)
  rw [setSupply_falls hpower hstage v4 v8 tick hfrozen]
  generalize he : cellEvent (fallNoted (stageOf v4 v8 false) (supplied v4 v8 false c)) 0x30 tick
    (c.stage * 2 ^ 62 + stageOf v4 v8 false * 2 ^ 60 + b2n false * 2 ^ 59) = e
  have hkept {β : Type} {view : Cell → β} (hv : ∀ c e q l n t, view { c with events := e, evtSeq := q, lostDue := l, thermal := t, cnt := { c.cnt with eventLost := n } } = view c) :
      view e = view (supplied v4 v8 false c) := by
    rw [← he]
    exact (cellEvent_view (fun c e q l n => hv c e q l n c.thermal) ..).trans (fallNoted_view (fun c t => hv c c.events c.evtSeq c.lostDue c.cnt.eventLost t) ..)
  have hvariant : e.variant ≠ .node := by rw [hkept (view := Cell.variant) fun _ _ _ _ _ _ => rfl]; exact hnode
  have hlive' : outputsLive e = true := (hkept (view := outputsLive) fun _ _ _ _ _ _ => rfl).trans hlive
  obtain ⟨hreceives, hlatch⟩ := outputsLive_receives hlive'
  have hfall : stageFallen c.stage (stageOf v4 v8 false) tick e = { safePattern e tick with mode := .configured, preempt := some tick } := by
    unfold stageFallen
    rw [hlive', if_pos (by rw [decide_eq_true hstage, decide_eq_true hlow, hreceives, bne_iff_ne.mpr hvariant, bne_iff_ne.mpr hlatch]; decide)]
    rfl
  rw [hfall, settle_configured rfl]
  · exact ⟨rfl, rfl⟩
  · show (decide (e.variant = .node) || (decide (e.stage = 2) && decide (cp e 0x14 = 1))) = false
    have hs : e.stage = stageOf v4 v8 false := hkept (view := Cell.stage) fun _ _ _ _ _ _ => rfl
    rw [decide_eq_false hvariant, decide_eq_false (by omega : ¬ e.stage = 2)]
    rfl
end

end Sys2Proof.Machine
end

section
/-! PROOF. Leases, orders, gates and protection of the cell controller, assembled. -/

namespace Sys2Proof.Machine

theorem leaseDecision_results {s : State} {l : Link} {r : OrdRec} (hopen : s.cell.decided = false) (hruns : leaseRuns s.cell = true)
    (hholder : holderLink s.cell.holder = some l) (htick : (decisionTick s.cell).isSome = true) (hrec : validRec s.cell l (decisionTick s.cell) = some r) :
    ∃ t, exec .leaseDecision s = .next t ∧ t.cell.sel = some r ∧ t.cell.selFill = false ∧ t.cell.lc = cp s.cell 0x13 ∧ t.cell.renewed = true
      ∧ t.cell.decided = true ∧ t.cell.holder = s.cell.holder ∧ t.cell.gates = s.cell.gates := by
  obtain ⟨t, hnext, h⟩ := onCell_reaches (s := s) (o := execLeaseDecision s) rfl (leaseDecision_renews (c := cellStart s.cell) hopen hruns hholder htick hrec)
  exact ⟨t, hnext, by rw [h.cell], by rw [h.cell]; rfl, by rw [h.cell]; rfl, by rw [h.cell], by rw [h.cell]; rfl, by rw [h.cell]; rfl, by rw [h.cell]; rfl⟩

theorem ov2_trips {c : Cell} {tick vcap : Int} (hnode : c.variant ≠ .node) (hrecv : receives c = true) (hfree : c.gates.latched = false) (hset : cp c 0x19 ≠ 0)
    (hover : (cp c 0x19 : Int) * 1000 < vcap) : (ov2 tick vcap c).gates.byp = true ∧ (ov2 tick vcap c).gates.latched = true
      ∧ (ov2 tick vcap c).mode = .bypassLatched ∧ (ov2 tick vcap c).gates.state = .bypassed ∧ ∃ e ∈ (ov2 tick vcap c).events, e.code = 0x02 := by
  rw [ov2_of hnode hrecv hfree hset hover]
  exact ⟨cellEvent_view (view := fun c => c.gates.byp) (fun _ _ _ _ _ => rfl) .., cellEvent_view (view := fun c => c.gates.latched) (fun _ _ _ _ _ => rfl) ..,
    cellEvent_view (view := Cell.mode) (fun _ _ _ _ _ => rfl) ..,
    (cellEvent_view (view := fun c => c.gates.state) (fun _ _ _ _ _ => rfl) ..).trans (gateTo_state ..), cellEvent_has ..⟩

/-- A selected record runs on the cell that noted what the order finds. -/
theorem orderExecute_runs {s : State} {r : OrdRec} (hopen : s.cell.executed = false) (hnode : s.cell.variant ≠ .node) (hlive : outputsLive s.cell = true)
    (hstage : stageOk s.cell = true) (hqual : timeQual s.cell = true) (hclear : faulted s.cell = false) (hpre : s.cell.preempt = none)
    (hsel : s.cell.sel = some r) (hforced : s.cell.forced = none) (hfill : s.cell.mode = .safeBypass → s.cell.selFill = false) (v : Int) :
    ∃ t, exec (.orderExecute v) s = .next t ∧ CellReached s t (runRecord (noteUndo (cellStart s.cell) (placeOf (cellStart s.cell) r).1) r s.cell.selFill) :=
  onCell_reaches (s := s) (o := execOrderExecute v s) rfl
    (orderExecute_selected (c := cellStart s.cell) hopen hnode hlive hstage hqual hclear hpre hsel hforced hfill v)

/-- Settles O59: leases, orders, gates and protection of the cell controller. -/
theorem cellOrdersAndProtection : Obligations.CellOrdersAndProtection := by
  unfold Obligations.CellOrdersAndProtection
  refine ⟨fun s l r hopen hruns hholder htick hrec => leaseDecision_results hopen hruns hholder htick hrec, fun s l hopen hruns hfree htick hclaim => ?_,
    fun s r v hopen hnode hlive hstage hqual hsel hforced hpre hfill => ?_, fun s q v hopen hnode hlive hstage hqual hclear hsel hforced hpre => ?_,
    fun s v hsel hforced => ?_, fun s a d b hfind hstate hd => ?_, fun s tk hnext => ?_, fun s hdecided hnode hrecv => ?_, fun s hmode hblocked => ?_,
    fun s tick v hnode hrecv hset hfree hover => ?_, fun s => ?_, fun s tick v hnode hrecv hfree hset hover => ?_, fun s v hnode hrecv => ?_,
    fun s input tick hinput hnode hhalf hrecv => ?_, fun s tick hpower => ?_, fun s hpower => ?_, fun s mv hpower => ?_, fun s mv tick hpower => ?_⟩
  · obtain ⟨t, hgo, h⟩ := onCell_reaches (s := s) (o := execLeaseDecision s) rfl rfl
    obtain ⟨hholder, hlc, hcount⟩ := leaseDecision_grants (c := cellStart s.cell) hopen hruns hfree htick hclaim
    exact ⟨t, hgo, by rw [h.cell]; exact hholder, by rw [h.cell]; exact hlc, by rw [h.cell]; exact hcount⟩
  · cases hfault : faulted s.cell with
    | false =>
      obtain ⟨t, hgo, h⟩ := orderExecute_runs hopen hnode hlive hstage hqual hfault hpre hsel hforced hfill v
      have hgates : t.cell.gates = (runRecord (noteUndo (cellStart s.cell) (placeOf (cellStart s.cell) r).1) r s.cell.selFill).gates := by rw [h.cell]
      obtain ⟨hexec, hmode, hecho, hsrc⟩ := runRecord_echoed (noteUndo (cellStart s.cell) (placeOf (cellStart s.cell) r).1) r s.cell.selFill
      refine ⟨t, hgo, fun _ => ⟨by rw [h.cell]; exact hexec, by rw [h.cell]; exact hmode, by rw [h.cell]; exact hecho, by rw [h.cell]; exact hsrc, ?_⟩, nofun⟩
      rw [hgates]
      exact ⟨fun hact => runRecord_nop hact _, fun hact => runRecord_bypasses hact _, fun hact => runRecord_insertsPos hact _,
        fun hact => runRecord_insertsNeg hact _, fun hact => runRecord_blocks hact _, fun hact => runRecord_trims hact _⟩
    | true =>
      obtain ⟨t, hgo, h⟩ := onCell_reaches (s := s) (o := execOrderExecute v s) rfl rfl
      refine ⟨t, hgo, nofun, fun _ hsafe => ?_⟩
      rw [h.cell, orderExecute_withheld (c := cellStart s.cell) hopen hnode hlive hstage hqual hfault hsafe]
      exact ⟨hopen, rfl, rfl, hsafe⟩
  · obtain ⟨t, hgo, h⟩ := onCell_reaches (s := s) (o := execOrderExecute v s) rfl
      (orderExecute_forced (c := cellStart s.cell) hopen hnode hlive hstage hqual hclear hpre hsel hforced v)
    obtain ⟨hexec, hblocked, hecho, hsrc⟩ := forceBlock_blocks (noteUndo (cellStart s.cell) (placeOf (cellStart s.cell) q).1) q
    have hov : s.cell.gates.ov = false := (Bool.or_eq_false_iff.mp hclear).2
    refine ⟨t, hgo, by rw [h.cell]; exact hexec, by rw [h.cell]; exact hblocked, by rw [h.cell]; exact hecho, by rw [h.cell]; exact hsrc, fun hlatched => ?_⟩
    rw [h.cell]
    exact forceBlock_off (c := noteUndo (cellStart s.cell) (placeOf (cellStart s.cell) q).1) hlatched hov hlive q
  · obtain ⟨t, hgo, h⟩ := onCell_reaches (s := s) (o := execOrderExecute v s) rfl rfl
    refine ⟨t, hgo, ?_⟩
    rw [h.cell]
    rcases orderExecute_nothing (c := cellStart s.cell) hsel hforced v with hc | hc
    · rw [hc]
      exact ⟨rfl, rfl, rfl⟩
    · rw [hc]
      exact ⟨rfl, rfl, rfl⟩
  · obtain ⟨t, hgo, h⟩ := onCell_reaches (s := s) (o := execTrimEdge s) rfl rfl
    rw [find?_isTrim fun e => by cases e <;> rfl] at hfind
    refine ⟨t, hgo, ?_⟩
    rw [h.cell]
    exact trimEdgeFire_moves (c := cellStart s.cell) hfind hstate
  · obtain ⟨t, hgo, h⟩ := onCell_reaches (s := s) (o := execDeadtimeExpire s) rfl rfl
    refine ⟨t, hgo, ?_⟩
    rw [h.cell]
    refine ⟨?_, fun i hi hmem hfault => deadtimeFire_turnsOn (c := cellStart s.cell) hnext hi hmem hfault,
      fun i hfault => deadtimeFire_keepsOff (c := cellStart s.cell) hnext hfault, fun i => deadtimeFire_done (c := cellStart s.cell) hnext i⟩
    exact (congrArg Gates.state (deadtimeFire_of (c := cellStart s.cell) hnext)).trans rfl
  · obtain ⟨t, hgo, h⟩ := onCell_reaches (s := s) (o := execCellCycleEnd s) rfl rfl
    refine ⟨t, hgo, ?_⟩
    rw [h.cell]
    exact ⟨cycleEnd_cycle (c := cellStart s.cell) hdecided, fun hidle => cycleEnd_idle (c := cellStart s.cell) hdecided hidle hrecv,
      fun hbusy => cycleEnd_busy (c := cellStart s.cell) hdecided hbusy, fun hheld hrenewed hlast => cycleEnd_leaseEnds (c := cellStart s.cell) hdecided hheld hrenewed hlast,
      fun hheld hrenewed hmore => cycleEnd_leaseRuns (c := cellStart s.cell) hdecided hheld hrenewed hmore⟩
  · obtain ⟨t, hgo, h⟩ := onCell_reaches (s := s) (o := execHoldLimit s) rfl rfl
    refine ⟨t, hgo, fun hcount => ?_, fun hcount => ?_⟩
    · rw [h.cell]
      exact holdLimitHit_reached (c := cellStart s.cell) hmode hblocked hcount
    · rw [h.cell, holdLimitHit_below (c := cellStart s.cell) hcount]
      exact ⟨hmode, rfl⟩
  · obtain ⟨t, hgo, h⟩ := onCell_reaches (s := s) (o := execOv1Trip tick v s) rfl rfl
    refine ⟨t, hgo, ?_⟩
    rw [h.cell]
    exact ov1_trips (c := cellStart s.cell) hnode hrecv hset hfree hover
  · obtain ⟨t, hgo, h⟩ := onCell_reaches (s := s) (o := execOv1Rearm s) rfl rfl
    exact ⟨t, hgo, by rw [h.cell]; rfl, by rw [h.cell]; rfl⟩
  · obtain ⟨t, hgo, h⟩ := onCell_reaches (s := s) (o := execOv2Trip tick v s) rfl rfl
    refine ⟨t, hgo, ?_⟩
    rw [h.cell]
    exact ov2_trips (c := cellStart s.cell) hnode hrecv hfree hset hover
  · obtain ⟨t, hgo, h⟩ := onCell_reaches (s := s) (o := execUvChange v s) rfl (if_neg (by
      rw [decide_eq_false (show ¬ (cellStart s.cell).variant = .node from hnode), show receives (cellStart s.cell) = true from hrecv]; decide))
    refine ⟨t, hgo, by rw [h.cell]; rfl, by rw [h.cell]; rfl, fun hlow => ?_, fun hhigh => ?_⟩
    · rw [h.cell]
      exact if_pos hlow
    · rw [h.cell]
      have hle : (cp s.cell 0x1B : Int) * 1000 + (cp s.cell 0x1A : Int) * 1000 ≤ v := by rw [← Int.add_mul]; exact hhigh
      have hnot : ¬ v < (cp s.cell 0x1B : Int) * 1000 := by omega
      exact (if_neg hnot).trans (if_pos hle)
  · obtain ⟨t, hgo, h⟩ := onCell_reaches (s := s) (o := execDsatFault input tick s) rfl rfl
    refine ⟨t, hgo, fun hcounts => ?_, fun b hblank hearly => ?_⟩
    · rw [h.cell]
      exact dsatHit_trips (c := cellStart s.cell) hnode hrecv hinput hhalf hcounts
    · rw [h.cell, dsatHit_blanked (c := cellStart s.cell) (dsatCounts_blanked (c := cellStart s.cell) hblank hearly)]
      exact ⟨rfl, rfl, rfl⟩
  · obtain ⟨t, hgo, h⟩ := onCell_reaches (s := s) (o := execGdpgLow tick s) rfl rfl
    obtain ⟨h4, h8, hg, hstage⟩ := setSupply_stage (c := cellStart s.cell) hpower (cellStart s.cell).vstg4 (cellStart s.cell).vstg8 false tick
    refine ⟨t, hgo, ?_⟩
    rw [h.cell]
    exact ⟨hg, hstage, fun htwo hnode hlive => setSupply_configured (c := cellStart s.cell) hpower htwo _ _ tick hnode hlive,
      fun htwo hfrozen => setSupply_event (c := cellStart s.cell) hpower htwo _ _ tick hfrozen⟩
  · obtain ⟨t, hgo, h⟩ := onCell_reaches (s := s) (o := execGdpgHigh s) rfl rfl
    obtain ⟨h4, h8, hg, hstage⟩ := setSupply_stage (c := cellStart s.cell) hpower (cellStart s.cell).vstg4 (cellStart s.cell).vstg8 true 0
    refine ⟨t, hgo, ?_⟩
    rw [h.cell]
    exact ⟨hg, hstage, h8⟩
  · obtain ⟨t, hgo, h⟩ := onCell_reaches (s := s) (o := execVstgRise mv s) rfl rfl
    obtain ⟨h4, h8, hg, hstage⟩ := setSupply_stage (c := cellStart s.cell) hpower ((cellStart s.cell).vstg4 || decide (400 ≤ mv)) ((cellStart s.cell).vstg8 || decide (800 ≤ mv)) (cellStart s.cell).gdpg 0
    refine ⟨t, hgo, ?_⟩
    rw [h.cell]
    exact ⟨h4, h8, by dsimp only; rw [h4, h8]; exact hstage⟩
  · obtain ⟨t, hgo, h⟩ := onCell_reaches (s := s) (o := execVstgFall mv tick s) rfl rfl
    obtain ⟨h4, h8, hg, hstage⟩ := setSupply_stage (c := cellStart s.cell) hpower ((cellStart s.cell).vstg4 && decide (380 ≤ mv)) ((cellStart s.cell).vstg8 && decide (780 ≤ mv)) (cellStart s.cell).gdpg tick
    refine ⟨t, hgo, ?_⟩
    rw [h.cell]
    exact ⟨h4, h8, by dsimp only; rw [h4, h8]; exact hstage⟩

end Sys2Proof.Machine
end

section
/-! PROOF. Measurement of the cell controller: conversions, injected conversions and self-calibration (R199 to R222). -/

namespace Sys2Proof.Machine

/-! The sample instant (R202, R210) -/

/-- What the conversions of a sample instant leave as it is. -/
structure SampleKept (c d : Cell) : Prop where
  cfg : d.meas.cfg = c.meas.cfg
  sampleAt : d.meas.sampleAt = c.meas.sampleAt
  slot : d.meas.slot = c.meas.slot
  lostSlots : d.meas.lostSlots = c.meas.lostSlots
  sets : d.meas.sets = c.meas.sets
  svcUse : d.meas.svcUse = c.meas.svcUse
  holder : d.holder = c.holder
  gates : d.gates = c.gates

theorem samplePower_keeps (quad : List Int) (check : Int) (c : Cell) : SampleKept c (samplePower quad check c) := by
  unfold samplePower
  dsimp only
  split <;> exact ⟨rfl, rfl, rfl, rfl, rfl, rfl, rfl, rfl⟩

theorem samplePower_fresh (quad : List Int) (check : Int) (c : Cell) : (samplePower quad check c).meas.codes = [] ∧ (samplePower quad check c).meas.checks = [] := by
  unfold samplePower
  dsimp only
  split <;> exact ⟨rfl, rfl⟩

theorem sampleNode_keeps (quads : List (List Int)) (checks : List Int) (c : Cell) : SampleKept c (sampleNode quads checks c) :=
  ⟨rfl, rfl, rfl, rfl, rfl, rfl, rfl, rfl⟩

/-- A sample instant begins: CP_MEAS_CFG is taken and the averages start afresh (R202, R242). -/
def sampleBegun (c : Cell) : Cell := { c with meas := { c.meas with cfg := cp c 0x40, sampleAt := cellCyc c, slot := 0, lostSlots := [] } }

/-- The conversions of a sample instant (R202, R223). -/
def sampled (quads : List (List Int)) (checks : List Int) (c : Cell) : Cell :=
  if c.variant = .node then sampleNode quads checks c else samplePower (quads.headD []) (checks.headD 0) c

theorem sampled_keeps (quads : List (List Int)) (checks : List Int) (c : Cell) : SampleKept c (sampled quads checks c) := by
  unfold sampled
  split
  · exact sampleNode_keeps ..
  · exact samplePower_keeps ..

theorem sampleConversion_of {c : Cell} (h : receives c = true) (quads : List (List Int)) (checks : List Int) (vdd : Nat) :
    sampleConversion quads checks vdd c = { sampled quads checks (takeSet (sampleBegun c)) with
      meas := { (sampled quads checks (takeSet (sampleBegun c))).meas with vdd := vdd }
      statusS := liveStatus (sampled quads checks (takeSet (sampleBegun c))), holderS := (sampled quads checks (takeSet (sampleBegun c))).holder } :=
  if_neg (by rw [h]; decide)

/-- A coefficient change completed by S − 5 (R210). -/
def changeInTime (c : Cell) (e : Cycle × Int × Int × Int × Int) : Bool :=
  e.2.1 - cycleDiff (cellCyc c) e.1 * (steerLink c).clen ≤ (cp c 0x08 : Int) - 5

theorem takeSet_view {β : Type} {view : Cell → β} (hview : ∀ c g o v l, view { c with meas := { c.meas with gUse := g, oUse := o, svcUse := v, sets := l } } = view c)
    (c : Cell) : view (takeSet c) = view c := by
  unfold takeSet
  dsimp only
  split
  · rfl
  · exact hview ..

theorem takeSet_late {c : Cell} {e : Cycle × Int × Int × Int × Int} (h : e ∈ (takeSet c).meas.sets) : changeInTime c e = false := by
  unfold takeSet at h
  dsimp only at h
  split at h
  · next hnone => exact Bool.eq_false_iff.mpr (List.find?_eq_none.mp hnone e h)
  · exact (Bool.not_eq_true' _).mp (List.mem_filter.mp h).2

theorem takeSet_nil {c : Cell} (h : c.meas.sets = []) : takeSet c = c := by
  unfold takeSet
  dsimp only
  rw [h]
  rfl

/-- Without a change of the sampling conditions they stand as they are (R225). -/
theorem okAt_unchanged {c : Cell} (h : c.okLog = []) (tick : Int) : okAt c tick = sampleOk c := by
  unfold okAt
  rw [h]
  rfl

/-- Without qualified time no sub-sample of a node is valid (R225). -/
theorem sampleNode_invalid {c : Cell} (hqual : timeQual c = false) (hlog : c.okLog = []) (quads : List (List Int)) (checks : List Int) :
    (sampleNode quads checks c).meas.svalid = 0 := by
  have hok (tick : Int) : okAt c tick = false := by rw [okAt_unchanged hlog, sampleOk, hqual, Bool.false_and]
  have hnone : (List.range 8).filter (fun j : Nat => okAt c ((cp c 0x08 : Int) - (7 - j) * (cpN c / 8 : Nat)) && (quads.getD j []).length = 4 && j < checks.length) = [] := by
    rw [List.filter_eq_nil_iff]
    intro j _
    rw [hok, Bool.false_and, Bool.false_and]
    decide
  show BitVec.ofNat 8 (maskOf _) = 0
  rw [hnone]
  rfl

section
variable {c : Cell} (hrecv : receives c = true) (quads : List (List Int)) (checks : List Int) (vdd : Nat)
include hrecv

theorem sampleConversion_takes : (sampleConversion quads checks vdd c).meas.vdd = vdd ∧ (sampleConversion quads checks vdd c).holderS = c.holder
    ∧ (sampleConversion quads checks vdd c).meas.cfg = cp c 0x40 ∧ (sampleConversion quads checks vdd c).meas.sampleAt = cellCyc c
    ∧ (sampleConversion quads checks vdd c).meas.slot = 0 ∧ (sampleConversion quads checks vdd c).meas.lostSlots = []
    ∧ (sampleConversion quads checks vdd c).gates = c.gates := by
  have hkept := sampled_keeps quads checks (takeSet (sampleBegun c))
  rw [sampleConversion_of hrecv]
  exact ⟨rfl, hkept.holder.trans (takeSet_view (view := Cell.holder) (fun _ _ _ _ _ => rfl) _), hkept.cfg.trans (takeSet_view (view := fun c => c.meas.cfg) (fun _ _ _ _ _ => rfl) _),
    hkept.sampleAt.trans (takeSet_view (view := fun c => c.meas.sampleAt) (fun _ _ _ _ _ => rfl) _), hkept.slot.trans (takeSet_view (view := fun c => c.meas.slot) (fun _ _ _ _ _ => rfl) _),
    hkept.lostSlots.trans (takeSet_view (view := fun c => c.meas.lostSlots) (fun _ _ _ _ _ => rfl) _), hkept.gates.trans (takeSet_view (view := Cell.gates) (fun _ _ _ _ _ => rfl) _)⟩

theorem sampleConversion_late {e : Cycle × Int × Int × Int × Int} (h : e ∈ (sampleConversion quads checks vdd c).meas.sets) :
    (cp c 0x08 : Int) - 5 < e.2.1 - cycleDiff (cellCyc c) e.1 * (steerLink c).clen := by
  rw [sampleConversion_of hrecv] at h
  have hsets : e ∈ (takeSet (sampleBegun c)).meas.sets := by
    rw [← (sampled_keeps quads checks (takeSet (sampleBegun c))).sets]
    exact h
  have hlate : changeInTime (sampleBegun c) e = false := takeSet_late hsets
  exact Int.not_le.mp (of_decide_eq_false hlate)

theorem sampleConversion_svcUse (h : c.meas.sets = []) : (sampleConversion quads checks vdd c).meas.svcUse = c.meas.svcUse := by
  have hnil : takeSet (sampleBegun c) = sampleBegun c := takeSet_nil h
  rw [sampleConversion_of hrecv, hnil]
  exact (sampled_keeps quads checks (sampleBegun c)).svcUse

theorem sampleConversion_fresh (h : c.variant ≠ .node) : (sampleConversion quads checks vdd c).meas.codes = [] ∧ (sampleConversion quads checks vdd c).meas.checks = [] := by
  have hv : (takeSet (sampleBegun c)).variant ≠ .node := by rw [takeSet_view (view := Cell.variant) fun _ _ _ _ _ => rfl]; exact h
  rw [sampleConversion_of hrecv, sampled, if_neg hv]
  exact samplePower_fresh ..

theorem sampleConversion_invalid (h : c.variant = .node) (hqual : timeQual c = false) (hlog : c.okLog = []) : (sampleConversion quads checks vdd c).meas.svalid = 0 := by
  have hv : (takeSet (sampleBegun c)).variant = .node := (takeSet_view (view := Cell.variant) (fun _ _ _ _ _ => rfl) _).trans h
  have hq : timeQual (takeSet (sampleBegun c)) = false := (takeSet_view (view := timeQual) (fun _ _ _ _ _ => rfl) _).trans hqual
  have hl : (takeSet (sampleBegun c)).okLog = [] := (takeSet_view (view := Cell.okLog) (fun _ _ _ _ _ => rfl) _).trans hlog
  rw [sampleConversion_of hrecv, sampled, if_pos hv]
  generalize takeSet (sampleBegun c) = x at hq hl
  exact sampleNode_invalid hq hl quads checks
end

/-! The slots between two sample instants (R203, R211, R221) -/

theorem averagingSlot_takes {c : Cell} {j : Nat} (hrecv : receives c = true) (hnode : c.variant ≠ .node) (hcal : c.meas.calRun = false) (hslot : c.meas.slot < j)
    (hj : j < slotsJ c) (hfree : j ∉ c.meas.lostSlots) (hlost : ∀ i, c.meas.slot < i → i < j → i ∈ c.meas.lostSlots) (code : Int) :
    (averagingSlot code c).meas = { c.meas with codes := c.meas.codes ++ [code], slot := j } := by
  have hfind : (List.range (slotsJ c)).find? (fun j => c.meas.slot < j && !c.meas.lostSlots.contains j) = some j := by
    rw [List.find?_range_eq_some]
    refine ⟨?_, List.mem_range.mpr hj, fun i hi => ?_⟩
    · rw [decide_eq_true hslot, List.contains_eq_mem, decide_eq_false hfree]
      rfl
    · by_cases hs : c.meas.slot < i
      · rw [List.contains_eq_mem, decide_eq_true (hlost i hs hi), Bool.not_true, Bool.and_false]
        rfl
      · rw [decide_eq_false hs]
        rfl
  unfold averagingSlot
  dsimp only
  rw [if_neg (by rw [hrecv, decide_eq_false hnode]; decide), hcal, if_neg (by decide), hfind]

theorem averagingSlot_checks {c : Cell} (hrecv : receives c = true) (hnode : c.variant ≠ .node) (hcal : c.meas.calRun = true)
    (hroom : 1250 * (c.meas.checks.length + 1) < cpN c) (code : Int) : (averagingSlot code c).meas = { c.meas with checks := c.meas.checks ++ [code] } := by
  unfold averagingSlot
  dsimp only
  rw [if_neg (by rw [hrecv, decide_eq_false hnode]; decide), if_pos hcal, if_pos hroom]

/-- What the housekeeping slot reads on a channel (R221). -/
def houseRead (c : Cell) (code : Int) (ch : Nat) : Meas :=
  let m := c.meas
  let v := vIn m code 1
  let mv (x : F64) : Int := (fvRound (B64.dec x) 1000 1).getD 0
  let uv (x : F64) : Int := (fvRound (B64.dec x) 1000000 1).getD 0
  match ch with
  | 2 => { m with tempNtc := ntcTemp c code }
  | 3 => { m with tempDie := Config.dieTemp code }
  | 4 => { m with gdSupply := (mv (B64.mul v (f32to64 c.board.gdScale))).toNat }
  | 5 => { m with aux := unsigned 18 code }
  | 6 => { m with refCheck := uv (B64.sub (B64.div v (k64 2048 1000)) (B64.ofInt 1)) }
  | 7 => { m with gndCheck := uv v }
  | _ => m

theorem houseRead_slot (c : Cell) (code : Int) (ch : Nat) : (houseRead c code ch).slot = c.meas.slot := by
  unfold houseRead
  dsimp only
  split <;> rfl

/-- A drift of the reference is reported once (R219). -/
def driftNoted (ch : Nat) (done : Int) (c : Cell) : Cell :=
  if ch = 6 && c.meas.refCheck.natAbs > 1000 then
    if c.meas.drift then c
    else cellEvent { c with meas := { c.meas with drift := true } } 0x43 done (unsigned 32 c.meas.refCheck * 2 ^ 32)
  else if ch = 6 then { c with meas := { c.meas with drift := false } }
  else c

/-- The housekeeping slot is taken (R203). -/
def houseTaken (c : Cell) : Cell := { c with meas := { c.meas with slot := slotsJ c } }

/-- The end of the housekeeping slot (R203). -/
def houseDone (c : Cell) : Int := (cp c 0x08 : Int) + 625 * slotsJ c + 64 - cycleDiff (cellCyc c) c.meas.sampleAt * (steerLink c).clen

theorem tempWarn_view {β : Type} {view : Meas → β} (hview : ∀ m w, view { m with tempWarn := w } = view m) (c : Cell) :
    view (tempWarn c).meas = view c.meas := hview ..

theorem driftNoted_view {β : Type} {view : Meas → β} (hview : ∀ m b, view { m with drift := b } = view m) (ch : Nat) (done : Int) (c : Cell) :
    view (driftNoted ch done c).meas = view c.meas := by
  refine ite_view (view := fun c : Cell => view c.meas) (ite_view (view := fun c : Cell => view c.meas) rfl ?_) (ite_view (view := fun c : Cell => view c.meas) (hview ..) rfl)
  exact (congrArg view (cellEvent_view (view := Cell.meas) (fun _ _ _ _ _ => rfl) ..)).trans (hview ..)

/-- The channel that the housekeeping slot reads (R221). -/
def houseChannel (c : Cell) : Nat := if bit c.meas.cfg c.meas.chan && 1 ≤ c.meas.chan then c.meas.chan else nextChannel c.meas.cfg c.meas.chan

/-- The housekeeping slot has read a channel (R221). -/
def houseKept (c : Cell) (code : Int) (ch : Nat) : Cell :=
  tempWarn { houseTaken c with meas := { houseRead (houseTaken c) code ch with chan := nextChannel c.meas.cfg ch } }

theorem housekeeping_shape (code : Int) (c : Cell) : housekeeping code c =
    if !receives c || c.meas.calRun || slotsJ c ≤ c.meas.slot || c.meas.lostSlots.contains (slotsJ c) then c
    else if !(bit c.meas.cfg (houseChannel c) && 1 ≤ houseChannel c) then houseTaken c
    else driftNoted (houseChannel c) (houseDone c) (houseKept c code (houseChannel c)) := by
  unfold housekeeping houseKept driftNoted houseRead
  rfl

section
variable {c : Cell} (hrecv : receives c = true) (hcal : c.meas.calRun = false) (hslot : c.meas.slot < slotsJ c) (hfree : slotsJ c ∉ c.meas.lostSlots)
  (hchan : 1 ≤ c.meas.chan) (hbit : bit c.meas.cfg c.meas.chan = true)
include hrecv hcal hslot hfree hchan hbit

theorem housekeeping_of (code : Int) : housekeeping code c = driftNoted c.meas.chan (houseDone c) (houseKept c code c.meas.chan) := by
  have hgo : ¬ (!receives c || c.meas.calRun || slotsJ c ≤ c.meas.slot || c.meas.lostSlots.contains (slotsJ c)) = true := by
    rw [hrecv, hcal, decide_eq_false (Nat.not_le.mpr hslot), List.contains_eq_mem, decide_eq_false hfree]
    decide
  have hon : (bit c.meas.cfg c.meas.chan && 1 ≤ c.meas.chan) = true := by rw [hbit, decide_eq_true hchan]; rfl
  have hch : houseChannel c = c.meas.chan := if_pos hon
  rw [housekeeping_shape, if_neg hgo, hch, hon]
  exact if_neg (by decide)

theorem housekeeping_reads {β : Type} {view : Meas → β} (hview : ∀ m w b, view { m with tempWarn := w, drift := b } = view m) (code : Int) :
    view (housekeeping code c).meas = view { houseRead (houseTaken c) code c.meas.chan with chan := nextChannel c.meas.cfg c.meas.chan } := by
  rw [housekeeping_of hrecv hcal hslot hfree hchan hbit, driftNoted_view fun m b => hview m m.tempWarn b]
  exact tempWarn_view (fun m w => hview m w m.drift) _

theorem housekeeping_chan (code : Int) : (housekeeping code c).meas.chan = nextChannel c.meas.cfg c.meas.chan :=
  housekeeping_reads hrecv hcal hslot hfree hchan hbit (view := Meas.chan) (fun _ _ _ => rfl) code

theorem housekeeping_slot (code : Int) : (housekeeping code c).meas.slot = slotsJ c :=
  (housekeeping_reads hrecv hcal hslot hfree hchan hbit (view := Meas.slot) (fun _ _ _ => rfl) code).trans (houseRead_slot (houseTaken c) code c.meas.chan)

theorem housekeeping_ntc (h : c.meas.chan = 2) (code : Int) : (housekeeping code c).meas.tempNtc = ntcTemp c code := by
  rw [housekeeping_reads hrecv hcal hslot hfree hchan hbit (view := Meas.tempNtc) (fun _ _ _ => rfl) code, h]
  rfl

theorem housekeeping_aux (h : c.meas.chan = 5) (code : Int) : (housekeeping code c).meas.aux = unsigned 18 code := by
  rw [housekeeping_reads hrecv hcal hslot hfree hchan hbit (view := Meas.aux) (fun _ _ _ => rfl) code, h]
  rfl

theorem housekeeping_die (h : c.meas.chan = 3) (code : Int) : (housekeeping code c).meas.tempDie = Config.dieTemp code := by
  rw [housekeeping_reads hrecv hcal hslot hfree hchan hbit (view := Meas.tempDie) (fun _ _ _ => rfl) code, h]
  rfl
end

/-! Injected conversions (R205 to R207) -/

/-- Where the aperture of an injected conversion lies, and whether the quad serves it (R205). -/
def injectionPlaced (c : Cell) (aperture : Nat) : Int × Bool :=
  match c.meas.injAp with
  | some (cy, t, q) => (t - cycleDiff (cellCyc c) cy * (steerLink c).clen, q)
  | none => (aperture, false)

/-- The value of an injected conversion (R207). -/
def injectionValue (c : Cell) (code : Int) (quad : Bool) : Nat :=
  encodeV (if quad then vRep c (sumI c.meas.quad) (max 1 c.meas.quad.length) else B64.mul (vCapOf c false code 1) (svcFactor c.meas)) 16 1000 262143

/-- The result of an injected conversion serves every cause that waits (R206). -/
def injectionServed (c : Cell) (r : Nat) : Cell := { c with meas := { c.meas with injResult := r, injOv := false, injOrd := false, injAp := none } }

/-- The events of an injected conversion, one a cause (R206). -/
def injectionReported (c : Cell) (r : Nat) (ap : Int) : Cell :=
  let det := b2n c.meas.injOv * 2 ^ 63 + b2n c.meas.injOrd * 2 ^ 62 + r * 2 ^ 44 + unsigned 24 ap * 2 ^ 20
  let x := if c.meas.injOv then cellEvent (injectionServed c r) 0x01 ap det else injectionServed c r
  if c.meas.injOrd then cellEvent x 0x40 ap det else x

/-- A self-calibration that waited follows the result (R205, R215). -/
def injectionEnded (c : Cell) (code : Int) (p : Int × Bool) : Cell :=
  let x := injectionReported c (injectionValue c code p.2) p.1
  if x.meas.calAt.isSome && !x.meas.calRun then beginCal (p.1 + (if p.2 then 295 else 164)) x else x

theorem injectedResult_of {c : Cell} (h : c.meas.injOv = true ∨ c.meas.injOrd = true) (code : Int) (aperture : Nat) :
    injectedResult code aperture c = injectionEnded c code (injectionPlaced c aperture) := by
  have hgo : ¬ (!(c.meas.injOv || c.meas.injOrd)) = true := by
    rw [Bool.or_eq_true_iff.mpr h]
    decide
  unfold injectedResult
  extract_lets m
  refine (if_neg hgo).trans ?_
  split
  next ap quad hp =>
  have hplaced : injectionPlaced c aperture = (ap, quad) := hp
  rw [hplaced]
  rfl

section
variable {β : Type} {view : Cell → β}

theorem beginCal_view (hview : ∀ c r a k s o, view { c with okLog := o, meas := { c.meas with calRun := r, calAt := a, checks := k, standIn := s } } = view c) (tick : Int) (c : Cell) :
    view (beginCal tick c) = view c :=
  (noteOk_view (fun c o => hview c c.meas.calRun c.meas.calAt c.meas.checks c.meas.standIn o) tick _ c).trans (hview c _ _ _ _ c.okLog)

theorem injectionReported_view (hview : ∀ c e q l n, view { c with events := e, evtSeq := q, lostDue := l, cnt := { c.cnt with eventLost := n } } = view c) (c : Cell) (r : Nat) (ap : Int) :
    view (injectionReported c r ap) = view (injectionServed c r) := by
  have hov (det : Nat) : view (if c.meas.injOv then cellEvent (injectionServed c r) 0x01 ap det else injectionServed c r) = view (injectionServed c r) :=
    ite_view (cellEvent_view hview ..) rfl
  exact ite_view ((cellEvent_view hview ..).trans (hov _)) (hov _)
end

theorem injectionReported_ov {c : Cell} (h : c.meas.injOv = true) (r : Nat) (ap : Int) : ∃ e ∈ (injectionReported c r ap).events, e.code = 0x01 := by
  obtain ⟨pre, e, he, hcode⟩ := cellEvent_last (injectionServed c r) 0x01 ap
    (b2n c.meas.injOv * 2 ^ 63 + b2n c.meas.injOrd * 2 ^ 62 + r * 2 ^ 44 + unsigned 24 ap * 2 ^ 20)
  refine ⟨e, ?_, hcode⟩
  unfold injectionReported
  dsimp only
  rw [if_pos h]
  split
  · exact cellEvent_keeps_last he ..
  · rw [he]
    exact List.mem_append_right _ (List.mem_singleton.mpr rfl)

theorem injectionReported_ord {c : Cell} (h : c.meas.injOrd = true) (r : Nat) (ap : Int) : ∃ e ∈ (injectionReported c r ap).events, e.code = 0x40 := by
  unfold injectionReported
  dsimp only
  rw [if_pos h]
  exact cellEvent_has ..

section
variable {c : Cell} (h : c.meas.injOv = true ∨ c.meas.injOrd = true) (code : Int) (aperture : Nat)
include h

theorem injectedResult_view {β : Type} {view : Cell → β} (hview : ∀ c r a k s o, view { c with okLog := o, meas := { c.meas with calRun := r, calAt := a, checks := k, standIn := s } } = view c) :
    view (injectedResult code aperture c) = view (injectionReported c (injectionValue c code (injectionPlaced c aperture).2) (injectionPlaced c aperture).1) := by
  rw [injectedResult_of h]
  exact ite_view (beginCal_view hview ..) rfl

theorem injectedResult_served : (injectedResult code aperture c).meas.injOv = false ∧ (injectedResult code aperture c).meas.injOrd = false
    ∧ (injectedResult code aperture c).meas.injAp = none :=
  ⟨(injectedResult_view h code aperture (view := fun c => c.meas.injOv) fun _ _ _ _ _ _ => rfl).trans (injectionReported_view (view := fun c => c.meas.injOv) (fun _ _ _ _ _ => rfl) ..),
    (injectedResult_view h code aperture (view := fun c => c.meas.injOrd) fun _ _ _ _ _ _ => rfl).trans (injectionReported_view (view := fun c => c.meas.injOrd) (fun _ _ _ _ _ => rfl) ..),
    (injectedResult_view h code aperture (view := fun c => c.meas.injAp) fun _ _ _ _ _ _ => rfl).trans (injectionReported_view (view := fun c => c.meas.injAp) (fun _ _ _ _ _ => rfl) ..)⟩

theorem injectedResult_value : (injectedResult code aperture c).meas.injResult = injectionValue c code (injectionPlaced c aperture).2 :=
  (injectedResult_view h code aperture (view := fun c => c.meas.injResult) fun _ _ _ _ _ _ => rfl).trans
    (injectionReported_view (view := fun c => c.meas.injResult) (fun _ _ _ _ _ => rfl) ..)

theorem injectedResult_quad {cy : Cycle} {k : Int} (hquad : c.meas.injAp = some (cy, k, true)) : (injectedResult code aperture c).meas.injResult =
    encodeV (vRep c (sumI c.meas.quad) (max 1 c.meas.quad.length)) 16 1000 262143 := by
  rw [injectedResult_value h, injectionPlaced, hquad]
  rfl

theorem injectedResult_own (hown : ∀ cy k, c.meas.injAp ≠ some (cy, k, true)) : (injectedResult code aperture c).meas.injResult =
    encodeV (B64.mul (vCapOf c false code 1) (svcFactor c.meas)) 16 1000 262143 := by
  have hplaced : (injectionPlaced c aperture).2 = false := by
    unfold injectionPlaced
    split
    · next cy k q hap =>
      cases q with
      | false => rfl
      | true => exact absurd hap (hown cy k)
    · rfl
  rw [injectedResult_value h, hplaced]
  rfl
end

/-! Self-calibration (R214 to R218) -/

/-- A record whose CAL_PERMIT is used up (R218). -/
def permitUsed (c : Cell) (tick : Int) (r : OrdRec) : OrdRec := if permits c tick r then { r with flags := r.flags &&& 0xEF#8 } else r

theorem usePermits_recs (c : Cell) (tick : Int) (l : Link) : (getLink (usePermits c tick) l).recs = (getLink c l).recs.map (permitUsed c tick) := by
  cases l <;> rfl

theorem permits_used (c : Cell) (tick : Int) (r : OrdRec) : permits c tick (permitUsed c tick r) = false := by
  unfold permitUsed
  split
  · have hflag : (r.flags &&& 0xEF#8).getLsbD 4 = false := by rw [BitVec.getLsbD_and]; exact Bool.and_false _
    unfold permits
    rw [hflag, Bool.and_false, Bool.false_and]
  · next h => exact Bool.eq_false_iff.mpr h

/-- Time and lease as the permits of a tick see them. -/
theorem permits_usePermits (c : Cell) (tick : Int) : permits (usePermits c tick) tick = permits c tick := by
  obtain ⟨hcyc, hlen⟩ : cellCyc (usePermits c tick) = cellCyc c ∧ (steerLink (usePermits c tick)).clen = (steerLink c).clen := by
    unfold cellCyc steerLink
    show (getLink (usePermits c tick) c.steer).cyc = _ ∧ (getLink (usePermits c tick) c.steer).clen = _
    cases c.steer <;> exact ⟨rfl, rfl⟩
  unfold permits
  rw [hcyc, hlen]

/-- No permit of a tick is left once they are used up (R218). -/
theorem usePermits_spent (c : Cell) (tick : Int) : calPermitted (usePermits c tick) tick = false := by
  have hnone (l : Link) : (getLink (usePermits c tick) l).recs.any (permits (usePermits c tick) tick) = false := by
    rw [usePermits_recs, permits_usePermits, List.any_eq_false]
    intro r hr
    obtain ⟨q, -, rfl⟩ := List.mem_map.mp hr
    exact Bool.eq_false_iff.mp (permits_used c tick q)
  unfold calPermitted
  rw [List.any_eq_false]
  intro l _
  rw [hnone, Bool.and_false]
  decide

theorem cellCyc_usePermits (c : Cell) (tick : Int) : cellCyc (usePermits c tick) = cellCyc c := by
  unfold cellCyc steerLink
  show (getLink (usePermits c tick) c.steer).cyc = _
  cases c.steer <;> rfl

section
variable {c : Cell} {tick : Int} (hrecv : receives c = true) (hcal : c.meas.calRun = false) (hpermit : calPermitted c tick = true)
include hrecv hcal hpermit

theorem selfCalStart_of : selfCalStart tick c = if c.meas.injOv || c.meas.injOrd then { usePermits c tick with meas := { c.meas with calAt := some (cellCyc (usePermits c tick), tick) } }
    else beginCal tick (usePermits c tick) := by
  refine if_neg ?_
  rw [hrecv, hcal, hpermit]
  decide

theorem selfCalStart_spent : calPermitted (selfCalStart tick c) tick = false := by
  rw [selfCalStart_of hrecv hcal hpermit]
  exact ite_view (view := fun c => calPermitted c tick) (usePermits_spent c tick)
    ((beginCal_view (view := fun c => calPermitted c tick) (fun _ _ _ _ _ _ => rfl) ..).trans (usePermits_spent c tick))

theorem selfCalStart_waits (h : c.meas.injOv = true ∨ c.meas.injOrd = true) : (selfCalStart tick c).meas.calAt = some (cellCyc c, tick) ∧ (selfCalStart tick c).meas.calRun = false := by
  rw [selfCalStart_of hrecv hcal hpermit, if_pos (Bool.or_eq_true_iff.mpr h), cellCyc_usePermits]
  exact ⟨rfl, hcal⟩

theorem selfCalStart_runs (hov : c.meas.injOv = false) (hord : c.meas.injOrd = false) : (selfCalStart tick c).meas.calAt = some (cellCyc c, tick)
    ∧ (selfCalStart tick c).meas.calRun = true ∧ (selfCalStart tick c).meas.checks = [] := by
  have hmeas : (beginCal tick (usePermits c tick)).meas = { c.meas with calRun := true, calAt := some (cellCyc (usePermits c tick), tick), checks := [], standIn := false } :=
    noteOk_view (view := Cell.meas) (fun _ _ => rfl) ..
  rw [selfCalStart_of hrecv hcal hpermit, hov, hord, if_neg (by decide), hmeas, cellCyc_usePermits]
  exact ⟨rfl, rfl, rfl⟩
end

end Sys2Proof.Machine
end

section
/-! PROOF. The end of a self-calibration, edges, wear history and test access of the cell controller, and the measurement assembled (R216 to R240, R638). -/

namespace Sys2Proof.Machine

/-! The end of a self-calibration (R216, R217) -/

/-- A self-calibration that ended (R217). -/
def calClosed (c : Cell) : Meas := { c.meas with calRun := false, calAt := none, standIn := quadBegun c (calEnd c) }

section
variable {c : Cell} {gnd ref : List Int} (hcal : c.meas.calRun = true) (hend : calEnd c < (steerLink c).clen) (hgnd : gnd.length = 256) (href : ref.length = 256)
include hcal hend hgnd href

theorem selfCalEnd_view {β : Type} {view : Cell → β} (hview : ∀ c o, view { c with okLog := o } = view c) : view (selfCalEnd gnd ref c) =
    view (if (Config.selfCalGain gnd ref).natAbs ≤ 131000 && (Config.selfCalOffset gnd).natAbs ≤ 131071 && (Config.selfCalGain gnd ref - c.meas.gCal).natAbs ≤ 5000 then
      changeSet { c with meas := { calClosed c with gCal := Config.selfCalGain gnd ref, oCal := Config.selfCalOffset gnd, calAge := some 0 } } (cellCyc c) (calEnd c)
    else cellEvent { c with meas := calClosed c } 0x41 (calEnd c) (unsigned 32 (Config.selfCalGain gnd ref) * 2 ^ 32 + unsigned 32 (Config.selfCalOffset gnd))) := by
  have hgo : ¬ (!calEnds c || decide (gnd.length ≠ 256) || decide (ref.length ≠ 256)) = true := by
    rw [calEnds, hcal, decide_eq_true hend, hgnd, href]
    decide
  unfold selfCalEnd
  dsimp only
  rw [if_neg hgo]
  exact noteOk_view hview ..

theorem selfCalEnd_ends : (selfCalEnd gnd ref c).meas.calRun = false := by
  rw [selfCalEnd_view hcal hend hgnd href (view := fun c => c.meas.calRun) fun _ _ => rfl]
  exact ite_view (view := fun c : Cell => c.meas.calRun) rfl (cellEvent_view (view := fun c => c.meas.calRun) (fun _ _ _ _ _ => rfl) ..)

theorem selfCalEnd_takes (hgain : (Config.selfCalGain gnd ref).natAbs ≤ 131000) (hofs : (Config.selfCalOffset gnd).natAbs ≤ 131071)
    (hnear : (Config.selfCalGain gnd ref - c.meas.gCal).natAbs ≤ 5000) : (selfCalEnd gnd ref c).meas.gCal = Config.selfCalGain gnd ref
      ∧ (selfCalEnd gnd ref c).meas.oCal = Config.selfCalOffset gnd ∧ (selfCalEnd gnd ref c).meas.calAge = some 0 := by
  have hview {β : Type} {view : Meas → β} : view (selfCalEnd gnd ref c).meas = _ :=
    (selfCalEnd_view hcal hend hgnd href (view := fun c => view c.meas) fun _ _ => rfl).trans
      (congrArg (fun c : Cell => view c.meas) (if_pos (by rw [decide_eq_true hgain, decide_eq_true hofs, decide_eq_true hnear]; rfl)))
  exact ⟨hview (view := Meas.gCal), hview (view := Meas.oCal), hview (view := Meas.calAge)⟩

theorem selfCalEnd_refuses (hfar : 5000 < (Config.selfCalGain gnd ref - c.meas.gCal).natAbs) : (selfCalEnd gnd ref c).meas.gCal = c.meas.gCal
    ∧ (selfCalEnd gnd ref c).meas.oCal = c.meas.oCal ∧ ∃ e ∈ (selfCalEnd gnd ref c).events, e.code = 0x41 ∧ e.tick = (calEnd c).toNat := by
  have hbad : ¬ ((Config.selfCalGain gnd ref).natAbs ≤ 131000 && (Config.selfCalOffset gnd).natAbs ≤ 131071 && (Config.selfCalGain gnd ref - c.meas.gCal).natAbs ≤ 5000) = true := by
    rw [decide_eq_false (Nat.not_le.mpr hfar), Bool.and_false]
    decide
  have hview {β : Type} {view : Cell → β} (hv : ∀ c o, view { c with okLog := o } = view c) : view (selfCalEnd gnd ref c) = _ :=
    (selfCalEnd_view hcal hend hgnd href hv).trans (congrArg view (if_neg hbad))
  refine ⟨(hview (view := fun c => c.meas.gCal) fun _ _ => rfl).trans (cellEvent_view (view := fun c => c.meas.gCal) (fun _ _ _ _ _ => rfl) ..),
    (hview (view := fun c => c.meas.oCal) fun _ _ => rfl).trans (cellEvent_view (view := fun c => c.meas.oCal) (fun _ _ _ _ _ => rfl) ..), ?_⟩
  rw [hview (view := Cell.events) fun _ _ => rfl]
  exact ⟨_, List.mem_append_right _ (List.mem_singleton.mpr rfl), rfl, rfl⟩
end

/-! Edges (R228, R230) -/

/-- A MODE 1 timestamp of an edge (R230). -/
def edgeStamped (rising : Bool) (at25 : Int) (c : Cell) : Cell :=
  if c.diagMode = 1 && rising then
    diagPush c 1 (b2n (c.steer = .lb) * 2 ^ 136 + (cellCyc c).toNat * 2 ^ 104 + (unsigned 24 (at25 / 32)) * 2 ^ 80 + (at25 % 32).toNat * 2 ^ 72)
  else c

/-- An edge answers its armed measurement (R228). -/
def edgeAnswered (e : EdgeArm) (dev : Int) (c : Cell) : Cell :=
  if e.main then
    if e.cycle = c.report.cycle && e.cycle != cellCyc c then { c with report := { c.report with edge := edgeCode dev } }
    else { c with run := { c.run with edge := edgeCode dev } }
  else c

section
variable {β : Type} {view : Cell → β}

theorem diagPush_view (hview : ∀ c o l, view { c with diagOut := o, diagLost := l } = view c) (c : Cell) (mode rest : Nat) : view (diagPush c mode rest) = view c :=
  ite_view (hview c _ c.diagLost) (hview c c.diagOut _)

theorem diagDev_view (hview : ∀ c o l, view { c with diagOut := o, diagLost := l } = view c) (c : Cell) (e : EdgeArm) (dev : Nat) : view (diagDev c e dev) = view c :=
  ite_view (diagPush_view hview ..) rfl

theorem edgeStamped_view (hview : ∀ c o l, view { c with diagOut := o, diagLost := l } = view c) (rising : Bool) (at25 : Int) (c : Cell) :
    view (edgeStamped rising at25 c) = view c := ite_view (diagPush_view hview ..) rfl

theorem edgeAnswered_view (hview : ∀ c r q, view { c with report := r, run := q } = view c) (e : EdgeArm) (dev : Int) (c : Cell) : view (edgeAnswered e dev c) = view c :=
  ite_view (ite_view (hview c _ c.run) (hview c c.report _)) rfl

theorem tsenseEdge_view (hview : ∀ c o l, view { c with diagOut := o, diagLost := l } = view c) {c : Cell} {rising : Bool} {at25 : Int} {e : EdgeArm}
    (h : (c.edgeArms.find? fun e => (e.te - at25).natAbs ≤ 8192 && e.rising.all (· == rising)) = some e) : view (tsenseEdge rising at25 c) =
      view (edgeAnswered e (at25 - e.te) { edgeStamped rising at25 c with edgeArms := c.edgeArms.erase e }) := by
  have harms : (edgeStamped rising at25 c).edgeArms = c.edgeArms := edgeStamped_view (view := Cell.edgeArms) (fun _ _ _ => rfl) ..
  unfold tsenseEdge
  extract_lets d
  have hd : d.edgeArms = c.edgeArms := harms
  rw [hd, h]
  exact diagDev_view hview ..
end

/-- The times of the measured cycle, as a stamped edge leaves them. -/
theorem edgeStamped_cycles (rising : Bool) (at25 : Int) (c : Cell) : cellCyc (edgeStamped rising at25 c) = cellCyc c
    ∧ (edgeStamped rising at25 c).report.cycle = c.report.cycle :=
  ⟨edgeStamped_view (view := cellCyc) (fun _ _ _ => rfl) .., edgeStamped_view (view := fun c => c.report.cycle) (fun _ _ _ => rfl) ..⟩

theorem edgeAnswered_run {e : EdgeArm} {c : Cell} (hmain : e.main = true) (hcycle : e.cycle = cellCyc c) (dev : Int) : (edgeAnswered e dev c).run.edge = edgeCode dev := by
  unfold edgeAnswered
  rw [if_pos hmain, if_neg (by rw [hcycle, bne_self_eq_false, Bool.and_false]; decide)]

theorem edgeAnswered_report {e : EdgeArm} {c : Cell} (hmain : e.main = true) (hcycle : e.cycle = c.report.cycle) (hlater : e.cycle ≠ cellCyc c) (dev : Int) :
    (edgeAnswered e dev c).report.edge = edgeCode dev := by
  unfold edgeAnswered
  rw [if_pos hmain, if_pos (by rw [decide_eq_true hcycle, bne_iff_ne.mpr hlater]; rfl)]

section
variable {c : Cell} {rising : Bool} {at25 : Int} {e : EdgeArm} (h : (c.edgeArms.find? fun e => (e.te - at25).natAbs ≤ 8192 && e.rising.all (· == rising)) = some e)
include h

theorem tsenseEdge_arms : (tsenseEdge rising at25 c).edgeArms = c.edgeArms.erase e :=
  (tsenseEdge_view (view := Cell.edgeArms) (fun _ _ _ => rfl) h).trans (edgeAnswered_view (view := Cell.edgeArms) (fun _ _ _ => rfl) ..)

theorem tsenseEdge_gates : (tsenseEdge rising at25 c).gates = c.gates :=
  (tsenseEdge_view (view := Cell.gates) (fun _ _ _ => rfl) h).trans
    ((edgeAnswered_view (view := Cell.gates) (fun _ _ _ => rfl) ..).trans (edgeStamped_view (view := Cell.gates) (fun _ _ _ => rfl) ..))

theorem tsenseEdge_run (hmain : e.main = true) (hcycle : e.cycle = cellCyc c) : (tsenseEdge rising at25 c).run.edge = edgeCode (at25 - e.te) := by
  obtain ⟨hcyc, -⟩ := edgeStamped_cycles rising at25 c
  rw [tsenseEdge_view (view := fun c => c.run.edge) (fun _ _ _ => rfl) h]
  generalize edgeStamped rising at25 c = d at hcyc
  exact edgeAnswered_run (c := { d with edgeArms := c.edgeArms.erase e }) hmain (hcycle.trans hcyc.symm) _

theorem tsenseEdge_report (hmain : e.main = true) (hcycle : e.cycle = c.report.cycle) (hlater : e.cycle ≠ cellCyc c) :
    (tsenseEdge rising at25 c).report.edge = edgeCode (at25 - e.te) := by
  obtain ⟨hcyc, hreport⟩ := edgeStamped_cycles rising at25 c
  rw [tsenseEdge_view (view := fun c => c.report.edge) (fun _ _ _ => rfl) h]
  generalize edgeStamped rising at25 c = d at hcyc hreport
  refine edgeAnswered_report (c := { d with edgeArms := c.edgeArms.erase e }) hmain (hcycle.trans hreport.symm) (fun he => hlater (he.trans ?_)) _
  exact hcyc
end

/-! Wear history (R239, R240) -/

/-- The sequence number of the next entry (R237). -/
def wearSeq (t : Thermal) : Word := if t.hasEntry then t.seq + 1 else t.seq

theorem wearWrite_of {c : Cell} (hrecv : receives c = true) (hslots : c.thermal.slots ≠ 0) (hstopped : c.thermal.stopped = false) (hfree : c.thermal.writing = none)
    (hdue : c.thermal.due = true ∨ c.thermal.period ≤ (c.thermal.uptime - c.thermal.lastWrite).toNat) : wearWrite c =
      { c with thermal := { c.thermal with writing := some (goodSlot c.thermal c.thermal.next, wearEntry c.thermal (wearSeq c.thermal)), lastWrite := c.thermal.uptime
                                           due := false, fell := false, period := if c.variant = .node then paramReset 0x70 else cp c 0x70 }
               writes := ⟨.eeprom, 0x200 + 64 * goodSlot c.thermal c.thermal.next, wearEntry c.thermal (wearSeq c.thermal)⟩ :: c.writes } := by
  have hnow : (decide ((c.thermal.uptime - c.thermal.lastWrite).toNat ≥ c.thermal.period) || c.thermal.due) = true := by
    rw [Bool.or_eq_true, decide_eq_true_eq]
    exact hdue.symm
  refine if_neg (c := (!receives c || decide (c.thermal.slots = 0) || c.thermal.stopped || c.thermal.writing.isSome
    || !(decide ((c.thermal.uptime - c.thermal.lastWrite).toNat ≥ c.thermal.period) || c.thermal.due)) = true) ?_
  rw [hnow, hrecv, decide_eq_false hslots, hstopped, hfree]
  decide

theorem wearDone_good {c : Cell} {i : Nat} {bs : List Byte} (h : c.thermal.writing = some (i, bs)) : wearDone (some bs) c =
    { c with thermal := { c.thermal with writing := none, fails := 0, hasEntry := true, seq := BitVec.ofNat 32 (beAt bs 0 4), next := (i + 1) % max 1 c.thermal.slots } } := by
  unfold wearDone
  extract_lets t
  have ht : t.writing = some (i, bs) := h
  rw [ht]
  exact if_pos rfl

/-- A slot that does not read back is bad; the fourth failure in a row stops the history (R239). -/
def slotFailed (c : Cell) (i : Nat) : Cell :=
  cellEvent { c with thermal := { c.thermal with bad := i :: c.thermal.bad, fails := c.thermal.fails + 1, stopped := decide (c.thermal.fails + 1 ≥ 4) } }
    0x71 0 (i % 65536 * 2 ^ 48 + (c.thermal.fails + 1) % 256 * 2 ^ 40 + b2n (decide (c.thermal.fails + 1 ≥ 4)) * 2 ^ 39)

theorem wearDone_bad_view {β : Type} {view : Cell → β} (hview : ∀ c w l, view { c with thermal := { c.thermal with writing := w }, writes := l } = view c) {c : Cell} {i : Nat}
    {bs : List Byte} (h : c.thermal.writing = some (i, bs)) : view (wearDone none c) = view (slotFailed c i) := by
  unfold wearDone
  extract_lets t
  have ht : t.writing = some (i, bs) := h
  rw [ht]
  exact (congrArg view (if_neg nofun)).trans (ite_view (hview (slotFailed c i) none (slotFailed c i).writes) (hview (slotFailed c i) _ _))

theorem wearDone_bad {c : Cell} {i : Nat} {bs : List Byte} (h : c.thermal.writing = some (i, bs)) : i ∈ (wearDone none c).thermal.bad
    ∧ (wearDone none c).thermal.fails = c.thermal.fails + 1 ∧ ((wearDone none c).thermal.stopped = true ↔ 3 ≤ c.thermal.fails)
    ∧ ∃ e ∈ (wearDone none c).events, e.code = 0x71 := by
  have hfailed {β : Type} {view : Thermal → β} : view (slotFailed c i).thermal = _ := cellEvent_view (view := fun c => view c.thermal) (fun _ _ _ _ _ => rfl) ..
  refine ⟨?_, ?_, ?_, ?_⟩
  · rw [wearDone_bad_view (view := fun c => c.thermal.bad) (fun _ _ _ => rfl) h, hfailed (view := Thermal.bad)]
    exact List.mem_cons_self
  · exact (wearDone_bad_view (view := fun c => c.thermal.fails) (fun _ _ _ => rfl) h).trans (hfailed (view := Thermal.fails))
  · rw [wearDone_bad_view (view := fun c => c.thermal.stopped) (fun _ _ _ => rfl) h, hfailed (view := Thermal.stopped), decide_eq_true_eq]
    omega
  · rw [wearDone_bad_view (view := Cell.events) (fun _ _ _ => rfl) h]
    exact cellEvent_has ..

/-! Test access (R638) -/

theorem cPrbsUpdate_listening {c : Cell} (hpower : c.mode ≠ .unpowered) (ha : c.la.mode = .listen) (hb : c.lb.mode = .listen) (v : BitVec 16) :
    cPrbsUpdate v c = { c with prbs := v &&& 0xF800#16, prbsLock := false } :=
  if_neg (by rw [decide_eq_false hpower, decide_eq_true ha, decide_eq_true hb]; decide)

theorem cPrbsUpdate_joined {c : Cell} (ha : c.la.mode ≠ .listen) (v : BitVec 16) : cPrbsUpdate v c = c :=
  if_pos (by rw [decide_eq_false ha, Bool.false_and, Bool.not_false, Bool.or_true])

/-- A word address of test access. -/
theorem wordAddress {a : BitVec 20} (h : a.toNat % 4 = 0) : a.toNat / 4 * 4 = a.toNat := by omega

theorem cMemCapture_address {c : Cell} (m : Stores) {a : BitVec 20} (hpower : c.mode ≠ .unpowered) (h : a.toNat % 4 = 0) : (cMemCapture m (some a) c).memAddr = a + 4 := by
  unfold cMemCapture
  rw [if_neg hpower]
  show BitVec.ofNat 20 (a.toNat / 4 * 4 + 4) = a + 4
  rw [wordAddress h, BitVec.ofNat_add, BitVec.ofNat_toNat, BitVec.setWidth_eq]
  rfl

theorem cMemCapture_word {c : Cell} (m : Stores) {a : BitVec 20} (hpower : c.mode ≠ .unpowered) (h : a.toNat % 4 = 0) (hnv : fld a.toNat 19 16 = 2)
    (hofs : fld a.toNat 15 0 < 0x8000) : (cMemCapture m (some a) c).tdo.toNat = leNat (rdBytes m .nv (fld a.toNat 15 0) 4) := by
  have hlt : leNat (rdBytes m .nv (fld a.toNat 15 0) 4) < 2 ^ 32 := by
    have hlen := leNat_lt (rdBytes m .nv (fld a.toNat 15 0) 4)
    rwa [rdBytes_length] at hlen
  unfold cMemCapture
  rw [if_neg hpower]
  dsimp only [Option.getD_some]
  rw [wordAddress h, hnv]
  show (BitVec.ofNat 32 (leNat (if fld a.toNat 15 0 < 0x8000 then rdBytes m .nv (fld a.toNat 15 0) 4 else zeros 4))).toNat = _
  rw [if_pos hofs, BitVec.toNat_ofNat, Nat.mod_eq_of_lt hlt]

theorem cMemCapture_writes {c : Cell} (m : Stores) (a : Option (BitVec 20)) : (cMemCapture m a c).writes = c.writes :=
  ite_view (view := Cell.writes) rfl rfl

theorem cMemUpdate_of {c : Cell} (m : Stores) {a : BitVec 20} (hpower : c.mode ≠ .unpowered) (h : a.toNat % 4 = 0) (hnv : fld a.toNat 19 16 = 2)
    (hofs : fld a.toNat 15 0 ≤ 0x1FF) (v : BitVec 32) : cMemUpdate m (some a) v c =
      if credEmpty m then { c with memAddr := a, writes := ⟨.nv, fld a.toNat 15 0, toLE 4 v.toNat⟩ :: c.writes } else { c with memAddr := a } := by
  unfold cMemUpdate
  rw [if_neg hpower]
  dsimp only [Option.getD_some]
  rw [wordAddress h, decide_eq_true hnv, decide_eq_true hofs, BitVec.ofNat_toNat, BitVec.setWidth_eq]
  rfl

/-- One write of a cell command reaches its memory and nothing else (R638). -/
theorem CellReached.wrote {s t : State} {c : Cell} (h : CellReached s t c) {i : MemId} {a : Nat} {bs : List Byte} (hw : c.writes = [⟨i, a, bs⟩]) (hm : memWf s.mem = true)
    (hi : ∀ n, i = .window n → n < 4) : (∀ j, (hj : j < bs.length) → rdByte t.mem i (a + j) = bs[j])
      ∧ ∀ k, (∀ n, k = .window n → n < 4) → OtherBytesKept s.mem t.mem i a bs.length k := by
  have hmem : t.mem = applyWrite s.mem ⟨i, a, bs⟩ := by rw [h.mem, hw]; rfl
  rw [hmem]
  exact writesReadBack s.mem i a bs hm hi

end Sys2Proof.Machine
end

section
/-! PROOF. Measurement and test access of the cell controller, assembled. -/

namespace Sys2Proof.Machine

theorem housekeepingSlot_results {s : State} (hrecv : receives s.cell = true) (hcal : s.cell.meas.calRun = false) (hslot : s.cell.meas.slot < slotsJ s.cell)
    (hfree : slotsJ s.cell ∉ s.cell.meas.lostSlots) (hchan : 1 ≤ s.cell.meas.chan) (hbit : bit s.cell.meas.cfg s.cell.meas.chan = true) (x : Int) :
    ∃ t, exec (.housekeepingSlot x) s = .next t ∧ t.cell.meas.chan = nextChannel s.cell.meas.cfg s.cell.meas.chan ∧ t.cell.meas.slot = slotsJ s.cell
      ∧ (s.cell.meas.chan = 2 → t.cell.meas.tempNtc = ntcTemp s.cell x)
      ∧ (s.cell.meas.chan = 5 → t.cell.meas.aux = unsigned 18 x) ∧ (s.cell.meas.chan = 3 → t.cell.meas.tempDie = Config.dieTemp x) := by
  obtain ⟨t, hnext, h⟩ := onCell_reaches (s := s) (o := execHousekeepingSlot x s) rfl rfl
  have hm : t.cell.meas = (housekeeping x (cellStart s.cell)).meas := by rw [h.cell]
  refine ⟨t, hnext, ?_⟩
  rw [hm]
  exact ⟨housekeeping_chan (c := cellStart s.cell) hrecv hcal hslot hfree hchan hbit x, housekeeping_slot (c := cellStart s.cell) hrecv hcal hslot hfree hchan hbit x,
    fun h2 => housekeeping_ntc (c := cellStart s.cell) hrecv hcal hslot hfree hchan hbit h2 x, fun h5 => housekeeping_aux (c := cellStart s.cell) hrecv hcal hslot hfree hchan hbit h5 x,
    fun h3 => housekeeping_die (c := cellStart s.cell) hrecv hcal hslot hfree hchan hbit h3 x⟩

theorem injectedResult_results {s : State} (hcause : s.cell.meas.injOv = true ∨ s.cell.meas.injOrd = true) (x : Int) (a : Nat) :
    ∃ t, exec (.injectedResult x a) s = .next t ∧ t.cell.meas.injOv = false ∧ t.cell.meas.injOrd = false ∧ t.cell.meas.injAp = none
      ∧ (∀ cy k, s.cell.meas.injAp = some (cy, k, true) →
          t.cell.meas.injResult = encodeV (vRep s.cell (sumI s.cell.meas.quad) (max 1 s.cell.meas.quad.length)) 16 1000 262143)
      ∧ ((∀ cy k, s.cell.meas.injAp ≠ some (cy, k, true)) →
          t.cell.meas.injResult = encodeV (B64.mul (vCapOf s.cell false x 1) (svcFactor s.cell.meas)) 16 1000 262143)
      ∧ (s.cell.meas.injOv = true → ∃ e ∈ t.cell.events, e.code = 0x01) ∧ (s.cell.meas.injOrd = true → ∃ e ∈ t.cell.events, e.code = 0x40) := by
  obtain ⟨t, hnext, h⟩ := onCell_reaches (s := s) (o := execInjectedResult x a s) rfl rfl
  have hm : t.cell.meas = (injectedResult x a (cellStart s.cell)).meas := by rw [h.cell]
  have he : t.cell.events = (injectedResult x a (cellStart s.cell)).events := by rw [h.cell]
  obtain ⟨hov, hord, hap⟩ := injectedResult_served (c := cellStart s.cell) hcause x a
  refine ⟨t, hnext, ?_⟩
  rw [hm, he, injectedResult_view (c := cellStart s.cell) hcause x a (view := Cell.events) fun _ _ _ _ _ _ => rfl]
  exact ⟨hov, hord, hap, fun cy k hquad => injectedResult_quad (c := cellStart s.cell) hcause x a hquad, fun hown => injectedResult_own (c := cellStart s.cell) hcause x a hown,
    fun h1 => injectionReported_ov (c := cellStart s.cell) h1 _ _, fun h2 => injectionReported_ord (c := cellStart s.cell) h2 _ _⟩

theorem wearEntryWrite_results {s : State} (hmem : memWf s.mem = true) (hrecv : receives s.cell = true) (hslots : s.cell.thermal.slots ≠ 0)
    (hstopped : s.cell.thermal.stopped = false) (hfree : s.cell.thermal.writing = none)
    (hdue : s.cell.thermal.due = true ∨ s.cell.thermal.period ≤ (s.cell.thermal.uptime - s.cell.thermal.lastWrite).toNat) :
    ∃ t i bs, exec .wearEntryWrite s = .next t ∧ t.cell.thermal.writing = some (i, bs) ∧ i = goodSlot s.cell.thermal s.cell.thermal.next
      ∧ t.cell.thermal.lastWrite = s.cell.thermal.uptime ∧ t.cell.thermal.due = false
      ∧ t.cell.thermal.period = (if s.cell.variant = .node then 3600 else cp s.cell 0x70)
      ∧ (∀ j, (h : j < bs.length) → rdByte t.mem .eeprom (0x200 + 64 * i + j) = bs[j])
      ∧ (∀ k, (∀ n, k = .window n → n < 4) → OtherBytesKept s.mem t.mem .eeprom (0x200 + 64 * i) bs.length k) := by
  obtain ⟨t, hnext, h⟩ := onCell_reaches (s := s) (o := execWearEntryWrite s) rfl (wearWrite_of (c := cellStart s.cell) hrecv hslots hstopped hfree hdue)
  obtain ⟨hin, hout⟩ := h.wrote rfl hmem nofun
  exact ⟨t, _, _, hnext, by rw [h.cell]; rfl, rfl, by rw [h.cell]; rfl, by rw [h.cell], by rw [h.cell]; rfl, hin, hout⟩

theorem cMemDataUpdate_results {s : State} {a : BitVec 20} (v : BitVec 32) (hmem : memWf s.mem = true) (hpower : s.cell.mode ≠ .unpowered) (ha : a.toNat % 4 = 0)
    (hnv : fld a.toNat 19 16 = 2) (hofs : fld a.toNat 15 0 ≤ 0x1FF) :
    ∃ t, exec (.cMemDataUpdate (some a) v) s = .next t ∧ t.cell.memAddr = a
      ∧ (credEmpty s.mem = true → (∀ j, j < 4 → rdByte t.mem .nv (fld a.toNat 15 0 + j) = (toLE 4 v.toNat).getD j 0)
          ∧ ∀ k, (∀ n, k = .window n → n < 4) → OtherBytesKept s.mem t.mem .nv (fld a.toNat 15 0) 4 k)
      ∧ (credEmpty s.mem = false → t.mem = s.mem) := by
  cases hcred : credEmpty s.mem with
  | true =>
    obtain ⟨t, hnext, h⟩ := onCell_reaches (s := s) (o := execCMemDataUpdate (some a) v s) rfl
      ((cMemUpdate_of (c := cellStart s.cell) s.mem hpower ha hnv hofs v).trans (if_pos hcred))
    obtain ⟨hin, hout⟩ := h.wrote rfl hmem nofun
    rw [toLE_length] at hout
    refine ⟨t, hnext, by rw [h.cell], fun _ => ⟨fun j hj => ?_, hout⟩, nofun⟩
    have hj' : j < (toLE 4 v.toNat).length := by rw [toLE_length]; exact hj
    rw [hin j hj', List.getD_eq_getElem _ _ hj']
  | false =>
    obtain ⟨t, hnext, h⟩ := onCell_reaches (s := s) (o := execCMemDataUpdate (some a) v s) rfl
      ((cMemUpdate_of (c := cellStart s.cell) s.mem hpower ha hnv hofs v).trans (if_neg (Bool.eq_false_iff.mp hcred)))
    exact ⟨t, hnext, by rw [h.cell], nofun, fun _ => h.mem⟩

/-- Settles O60: measurement and test access of the cell controller. -/
theorem cellMeasurementAndTest : Obligations.CellMeasurementAndTest := by
  unfold Obligations.CellMeasurementAndTest
  refine ⟨fun s q c v hrecv => ?_, fun s x hrecv hnode => ?_, fun s x hrecv hcal hslot hfree hchan hbit => housekeepingSlot_results hrecv hcal hslot hfree hchan hbit x,
    fun s x a hcause => injectedResult_results hcause x a, fun s tick hrecv hcal hpermit => ?_, fun s g r hcal hend hg hr => ?_, fun s rising x e hfind => ?_,
    fun s hmem hrecv hslots hstopped hfree hdue => wearEntryWrite_results hmem hrecv hslots hstopped hfree hdue, fun s i bs hwriting => ⟨?_, ?_⟩, fun s v hpower => ?_,
    fun s hpower => ?_, fun s a hpower ha => ?_, fun s a v hmem hpower ha hnv hofs => cMemDataUpdate_results v hmem hpower ha hnv hofs⟩
  · obtain ⟨t, hnext, h⟩ := onCell_reaches (s := s) (o := execSampleConversion q c v s) rfl rfl
    obtain ⟨hvdd, hholder, hcfg, hat, hslot, hlost, hgates⟩ := sampleConversion_takes (c := cellStart s.cell) hrecv q c v
    refine ⟨t, hnext, ?_⟩
    rw [h.cell]
    exact ⟨hvdd, hholder, hcfg, hat, hslot, hlost, fun e he => sampleConversion_late (c := cellStart s.cell) hrecv q c v he,
      fun hnil => sampleConversion_svcUse (c := cellStart s.cell) hrecv q c v hnil, fun hv => sampleConversion_fresh (c := cellStart s.cell) hrecv q c v hv,
      fun hv hqual hlog => sampleConversion_invalid (c := cellStart s.cell) hrecv q c v hv hqual hlog, hgates⟩
  · obtain ⟨t, hnext, h⟩ := onCell_reaches (s := s) (o := execAveragingSlot x s) rfl rfl
    refine ⟨t, hnext, ?_⟩
    rw [h.cell]
    exact ⟨fun j hcal hslot hj hfree hlost => averagingSlot_takes (c := cellStart s.cell) hrecv hnode hcal hslot hj hfree hlost x,
      fun hcal hroom => averagingSlot_checks (c := cellStart s.cell) hrecv hnode hcal hroom x⟩
  · obtain ⟨t, hnext, h⟩ := onCell_reaches (s := s) (o := execSelfCalStart tick s) rfl rfl
    have hm : t.cell.meas = (selfCalStart tick (cellStart s.cell)).meas := by rw [h.cell]
    have hspent : calPermitted t.cell tick = false := by rw [h.cell]; exact selfCalStart_spent (c := cellStart s.cell) hrecv hcal hpermit
    refine ⟨t, hnext, ?_, hspent, fun hov hord => ?_, fun hcause => ?_⟩
    · rw [hm]
      cases hov : s.cell.meas.injOv with
      | true => exact (selfCalStart_waits (c := cellStart s.cell) hrecv hcal hpermit (.inl hov)).1
      | false =>
        cases hord : s.cell.meas.injOrd with
        | true => exact (selfCalStart_waits (c := cellStart s.cell) hrecv hcal hpermit (.inr hord)).1
        | false => exact (selfCalStart_runs (c := cellStart s.cell) hrecv hcal hpermit hov hord).1
    · rw [hm]
      exact (selfCalStart_runs (c := cellStart s.cell) hrecv hcal hpermit hov hord).2
    · rw [hm]
      exact (selfCalStart_waits (c := cellStart s.cell) hrecv hcal hpermit hcause).2
  · obtain ⟨t, hnext, h⟩ := onCell_reaches (s := s) (o := execSelfCalEnd g r s) rfl rfl
    refine ⟨t, hnext, ?_⟩
    rw [h.cell]
    exact ⟨selfCalEnd_ends (c := cellStart s.cell) hcal hend hg hr, fun hgain hofs hnear => selfCalEnd_takes (c := cellStart s.cell) hcal hend hg hr hgain hofs hnear,
      fun hfar => selfCalEnd_refuses (c := cellStart s.cell) hcal hend hg hr hfar⟩
  · obtain ⟨t, hnext, h⟩ := onCell_reaches (s := s) (o := execTsenseEdge rising x s) rfl rfl
    refine ⟨t, hnext, ?_⟩
    rw [h.cell]
    exact ⟨tsenseEdge_arms (c := cellStart s.cell) hfind, fun hmain hcycle => tsenseEdge_run (c := cellStart s.cell) hfind hmain hcycle,
      fun hmain hcycle hlater => tsenseEdge_report (c := cellStart s.cell) hfind hmain hcycle hlater, tsenseEdge_gates (c := cellStart s.cell) hfind⟩
  · obtain ⟨t, hnext, h⟩ := onCell_reaches (s := s) (o := execEepromWriteDone (some bs) s) rfl (wearDone_good (c := cellStart s.cell) hwriting)
    exact ⟨t, hnext, by rw [h.cell], by rw [h.cell], by rw [h.cell], by rw [h.cell], h.mem⟩
  · obtain ⟨t, hnext, h⟩ := onCell_reaches (s := s) (o := execEepromWriteDone none s) rfl rfl
    refine ⟨t, hnext, ?_⟩
    rw [h.cell]
    exact wearDone_bad (c := cellStart s.cell) hwriting
  · obtain ⟨t, hnext, h⟩ := onCell_reaches (s := s) (o := execCPrbsUpdate v s) rfl rfl
    refine ⟨t, hnext, fun ha hb => ?_, fun ha => ?_⟩
    · rw [h.cell, cPrbsUpdate_listening (c := cellStart s.cell) hpower ha hb]
      exact ⟨rfl, rfl⟩
    · rw [h.cell, cPrbsUpdate_joined (c := cellStart s.cell) ha]
      rfl
  · obtain ⟨t, hnext, h⟩ := onCell_reaches (s := s) (o := execCPrbsErrRead s) rfl (if_neg hpower)
    exact ⟨t, hnext, by rw [h.cell]; rfl, by rw [h.cell], by rw [h.cell]; rfl⟩
  · obtain ⟨t, hnext, h⟩ := onCell_reaches (s := s) (o := execCMemDataCapture (some a) s) rfl rfl
    refine ⟨t, hnext, ?_, ?_, fun hnv hofs => ?_⟩
    · rw [h.cell]
      exact cMemCapture_address (c := cellStart s.cell) s.mem hpower ha
    · rw [h.mem, cMemCapture_writes]
      rfl
    · rw [h.cell]
      exact cMemCapture_word (c := cellStart s.cell) s.mem hpower ha hnv hofs

end Sys2Proof.Machine
end

section
/-! PROOF. Frames that a cell receives: their checks, and what an accepted one leaves (R74, R110, R120 to R124, R147 to R149, R155 to R158). -/

namespace Sys2Proof.Machine

/-! What handling an accepted frame keeps -/

/-- The marks of an accepted frame on a link, and the arm current, are kept. -/
structure TakenKept (l : Link) (c d : Cell) : Prop where
  last : (getLink d l).last = (getLink c l).last
  treeId : (getLink d l).treeId = (getLink c l).treeId
  seen : (getLink d l).seen = (getLink c l).seen
  thermal : d.thermal = c.thermal

namespace TakenKept

theorem refl (l : Link) (c : Cell) : TakenKept l c c := ⟨rfl, rfl, rfl, rfl⟩

theorem trans {l : Link} {c d e : Cell} (h : TakenKept l d e) (h' : TakenKept l c d) : TakenKept l c e :=
  ⟨h.last.trans h'.last, h.treeId.trans h'.treeId, h.seen.trans h'.seen, h.thermal.trans h'.thermal⟩

theorem ite {l : Link} {c d e : Cell} {p : Prop} [Decidable p] (hd : TakenKept l c d) (he : TakenKept l c e) : TakenKept l c (if p then d else e) := by
  split
  · exact hd
  · exact he

theorem of_links {l : Link} {c d : Cell} (ha : d.la = c.la) (hb : d.lb = c.lb) (ht : d.thermal = c.thermal) : TakenKept l c d := by
  have hl := getLink_of ha hb l
  exact ⟨by rw [hl], by rw [hl], by rw [hl], ht⟩

theorem modLink {l : Link} (c : Cell) {f : CLink → CLink} (hf : ∀ x, (f x).last = x.last ∧ (f x).treeId = x.treeId ∧ (f x).seen = x.seen) :
    TakenKept l c (modLink c l f) := by
  obtain ⟨hlast, htree, hseen⟩ := hf (getLink c l)
  exact ⟨by rw [getLink_modLink, hlast], by rw [getLink_modLink, htree], by rw [getLink_modLink, hseen], modLink_view (view := Cell.thermal) (fun _ _ _ => rfl) ..⟩

theorem cellEvent (l : Link) (c : Cell) (code : Nat) (tick : Int) (detail : Nat) : TakenKept l c (cellEvent c code tick detail) :=
  of_links (cellEvent_view (view := Cell.la) (fun _ _ _ _ _ => rfl) ..) (cellEvent_view (view := Cell.lb) (fun _ _ _ _ _ => rfl) ..)
    (cellEvent_view (view := Cell.thermal) (fun _ _ _ _ _ => rfl) ..)

theorem resteer (l : Link) (c : Cell) : TakenKept l c (resteer c) := of_links rfl rfl rfl

theorem settle (l : Link) (tick : Int) (c : Cell) : TakenKept l c (settle tick c) :=
  of_links (settle_view (view := Cell.la) (fun _ _ _ => rfl) ..) (settle_view (view := Cell.lb) (fun _ _ _ => rfl) ..)
    (settle_view (view := Cell.thermal) (fun _ _ _ => rfl) ..)

theorem bump (l : Link) (c : Cell) (f : LinkCounters → LinkCounters) : TakenKept l c (bump c l f) :=
  modLink c fun _ => ⟨rfl, rfl, rfl⟩

theorem recordEvent (l : Link) (c : Cell) (code reason : Nat) (cycle : Cycle) (tick : Int) : TakenKept l c (recordEvent c l code reason cycle tick) := by
  unfold Machine.recordEvent
  exact ite (refl ..) (trans (modLink _ fun _ => ⟨rfl, rfl, rfl⟩) (cellEvent ..))

theorem mgmtReject (l : Link) (c : Cell) : TakenKept l c (mgmtReject c l) := modLink c fun _ => ⟨rfl, rfl, rfl⟩

end TakenKept

theorem ownRecord_takenKept (c : Cell) (f : FrameCtx) (h : Header) (rec : List Byte) (fcsTick : Int) : TakenKept f.link c (ownRecord c f h rec fcsTick) := by
  unfold ownRecord
  extract_lets l n cmd launch flags x rel err nodeNop put mk unread res odd d e
  have herr (c : Cell) (r : Nat) : TakenKept l c (err c r) := (TakenKept.recordEvent ..).trans (.bump ..)
  have hput (c : Cell) (r : OrdRec) : TakenKept l c (put c r) := .ite (.modLink c fun _ => ⟨rfl, rfl, rfl⟩) (.refl ..)
  split
  · exact (TakenKept.recordEvent ..).trans (.bump ..)
  split
  · exact .ite ((hput ..).trans (herr ..)) (.refl ..)
  split
  · exact hput ..
  have hd : TakenKept l c d := .ite (herr ..) (.ite (herr ..) (.refl ..))
  have he : TakenKept l c e := TakenKept.trans (.ite (herr ..) (.refl ..)) hd
  refine TakenKept.trans (.ite (.ite (.refl ..) (herr ..)) (.ite ?_ (hput ..))) he
  exact .modLink e fun _ => ⟨rfl, rfl, rfl⟩

theorem linkTime_takenKept (c : Cell) (f : FrameCtx) (h : Header) (seen : DownSeen) : TakenKept f.link c (linkTime c f h seen) := by
  unfold linkTime
  extract_lets l x start diff pred d small lens cyc place jumped counts counted timed measured
  have hlens (x : CLink) : (lens x).last = x.last ∧ (lens x).treeId = x.treeId ∧ (lens x).seen = x.seen := by
    refine ⟨ite_view (view := CLink.last) rfl rfl, ite_view (view := CLink.treeId) rfl rfl, ite_view (view := CLink.seen) rfl rfl⟩
  have hplace (c : Cell) : TakenKept l c (modLink c l place) :=
    .modLink c fun _ => hlens _
  have hcounted : TakenKept l c counted := TakenKept.trans (d := jumped) (.of_links rfl rfl rfl) (.cellEvent l c ..)
  have htimed : TakenKept l c timed := .ite (.ite (.modLink c fun _ => hlens _) ((hplace counted).trans hcounted)) (.ite (.modLink c fun _ => hlens _) (hplace c))
  have hmeasured : TakenKept l c measured := by
    refine TakenKept.trans (.modLink timed fun y => ⟨?_, ?_, ?_⟩) htimed
    · exact ite_view (view := CLink.last) rfl rfl
    · exact ite_view (view := CLink.treeId) rfl rfl
    · exact ite_view (view := CLink.seen) rfl rfl
  exact (TakenKept.resteer l measured).trans hmeasured

theorem mgmtArea_absent (m : Stores) (fresh : Nat) (f : FrameCtx) (c : Cell) (bs : List Byte) : TakenKept f.link c (mgmtArea m fresh f c false bs) := by
  show TakenKept f.link c (if f.joinOpen && !([] : List MRec).any fun r => r.mtype = 0x12 then mgmtReject c f.link else c)
  exact .ite (.mgmtReject ..) (.refl ..)

/-- A frame that passed every check leaves its marks on the link (R120, R122). -/
def frameMarked (h : Header) (x : CLink) : CLink :=
  { x with last := some h.cycle, treeId := some h.treeId, seen := true
           frames := ({ cycle := h.cycle, suspended := h.suspended, blocked := h.blocked } :: x.frames).take 4 }

/-- Under the tree key the arm current is taken (R110, R122). -/
def currentTaken (keyed : Bool) (h : Header) (c : Cell) : Cell := if keyed then { c with thermal := { c.thermal with iarm := h.iarm } } else c

theorem acceptFrame_takenKept (m : Stores) (fresh : Nat) (c : Cell) (l : Link) (seen : DownSeen) (bs : List Byte) {h : Header} (keyed : Bool) (hm : h.mgmt = false) :
    TakenKept l (currentTaken keyed h (modLink c l (frameMarked h))) (acceptFrame m fresh c l seen bs h keyed) := by
  unfold acceptFrame
  rw [hm]
  extract_lets f marked thermal current timed managed x acted
  have hmanaged : TakenKept l current managed := TakenKept.trans (d := timed) (mgmtArea_absent m fresh f timed _) (linkTime_takenKept current f h seen)
  have hacted : TakenKept l managed acted := by
    refine .ite ?_ (.refl ..)
    split
    · exact .ite (ownRecord_takenKept managed f h _ seen.fcsTick) (.refl ..)
    · exact .refl ..
  exact (TakenKept.settle ..).trans (hacted.trans hmanaged)

theorem acceptFrame_takes (m : Stores) (fresh : Nat) (c : Cell) (l : Link) (seen : DownSeen) (bs : List Byte) {h : Header} (keyed : Bool) (hm : h.mgmt = false) :
    (getLink (acceptFrame m fresh c l seen bs h keyed) l).last = some h.cycle ∧ (getLink (acceptFrame m fresh c l seen bs h keyed) l).treeId = some h.treeId
      ∧ (getLink (acceptFrame m fresh c l seen bs h keyed) l).seen = true
      ∧ (acceptFrame m fresh c l seen bs h keyed).thermal.iarm = if keyed then h.iarm else c.thermal.iarm := by
  have hkept := acceptFrame_takenKept m fresh c l seen bs keyed hm
  have hlink : getLink (currentTaken keyed h (modLink c l (frameMarked h))) l = frameMarked h (getLink c l) :=
    ite_view (view := (getLink · l)) ((getLink_of rfl rfl l).trans (getLink_modLink ..)) (getLink_modLink ..)
  refine ⟨?_, ?_, ?_, ?_⟩
  · rw [hkept.last, hlink]
    rfl
  · rw [hkept.treeId, hlink]
    rfl
  · rw [hkept.seen, hlink]
    rfl
  · rw [hkept.thermal]
    cases keyed with
    | true => rfl
    | false => exact congrArg Thermal.iarm (modLink_view (view := Cell.thermal) (fun _ _ _ => rfl) ..)

/-! The checks of a frame (R74, R120) -/

/-- The tag of a frame under the key in use (R118, R120). -/
def frameTagged (x : CLink) (typeCode : BitVec 32) (bs : List Byte) (h : Header) : Bool :=
  let ivf := if typeCode = tcFirst then iv 0x01 h.treeId.toNat 96 0 h.cycle else iv 0x02 h.treeId.toNat 97 0 h.cycle
  match frameKey x h.cycle h.keyPhase with
  | some k => (gmac k ivf (bs.take 592)).toNat = beAt bs 592 16
  | none => false

/-- The checks that follow a frame's CRC (R120 to R122). -/
def frameJudged (m : Stores) (fresh : Nat) (l : Link) (seen : DownSeen) (c : Cell) (bs : List Byte) (h : Header) : Cell :=
  let x := getLink c l
  let keyed := !(heldKeys x h.cycle).isEmpty
  if keyed && !frameTagged x seen.typeCode bs h then bump c l fun k => { k with tagFail := wrapInc k.tagFail }
  else if h.reserved || h.port > 51 then bump c l fun k => { k with malformed := wrapInc k.malformed }
  else if x.treeId.any (· != h.treeId) && x.mode != .listen then linkToListen (bump c l fun k => { k with malformed := wrapInc k.malformed }) l
  else
    let diff := cycleDiff h.cycle x.cyc
    let later := x.last.all fun p => 0 < cycleDiff h.cycle p
    if keyed then
      if x.last = some h.cycle then c
      else if !(diff = 0 || diff = 1) || !later then bump c l fun k => { k with replay := wrapInc k.replay }
      else acceptFrame m fresh c l seen bs h true
    else
      let moved := x.treeId.any (· != h.treeId)
      let c := if moved then modLink c l fun x => { x with qual := false, first := none, last := none } else c
      if later || moved then acceptFrame m fresh c l seen bs h false else c

/-- A frame without a tree identifier or a last cycle behind it passes on to handling (R121, R122). -/
theorem frameJudged_accepts (m : Stores) (fresh : Nat) {l : Link} {seen : DownSeen} {c : Cell} (bs : List Byte) {h : Header} (hreserved : h.reserved = false) (hport : h.port ≤ 51)
    (htree : (getLink c l).treeId = none) (hlast : (getLink c l).last = none) (htag : heldKeys (getLink c l) h.cycle = []
      ∨ frameTagged (getLink c l) seen.typeCode bs h = true ∧ h.cycle = (getLink c l).cyc) :
    frameJudged m fresh l seen c bs h = acceptFrame m fresh c l seen bs h (!(heldKeys (getLink c l) h.cycle).isEmpty) := by
  have hhead : ¬ (h.reserved || h.port > 51) = true := by
    rw [hreserved, decide_eq_false (Nat.not_lt.mpr hport)]
    decide
  have hpass : ¬ (!(heldKeys (getLink c l) h.cycle).isEmpty && !frameTagged (getLink c l) seen.typeCode bs h) = true := by
    rcases htag with hnone | ⟨hok, -⟩
    · rw [hnone]
      exact Bool.false_ne_true
    · rw [hok, Bool.not_true, Bool.and_false]
      decide
  unfold frameJudged
  dsimp only
  rw [if_neg hpass, if_neg hhead, htree, hlast]
  cases hkeyed : !(heldKeys (getLink c l) h.cycle).isEmpty with
  | false => rfl
  | true =>
    have hcycle : h.cycle = (getLink c l).cyc := by
      rcases htag with hnone | ⟨-, hcycle⟩
      · rw [hnone] at hkeyed
        exact absurd hkeyed (by decide)
      · exact hcycle
    have hnear : cycleDiff h.cycle (getLink c l).cyc = 0 := by rw [hcycle]; exact cycleDiff_self _
    rw [hnear]
    rfl

/-- A frame of a known type goes on to be destuffed (R74). -/
theorem frame_known {f : DownSeen} (htype : f.typeCode = tcFirst ∨ f.typeCode = tcRepeat) :
    ¬ (decide (f.typeCode ≠ tcFirst) && decide (f.typeCode ≠ tcRepeat)) = true := by
  rw [Bool.and_eq_true, decide_eq_true_eq, decide_eq_true_eq]
  rintro ⟨hfirst, hrepeat⟩
  exact htype.elim hfirst hrepeat

section
variable {c : Cell} {l : Link} {f : DownSeen} (hrecv : receives c = true) (hsignal : (getLink c l).signal = true) (m : Stores) (fresh : Nat)
include hrecv hsignal

theorem frameReceive_unknown (hfirst : f.typeCode ≠ tcFirst) (hrepeat : f.typeCode ≠ tcRepeat) (hurgent : f.typeCode ≠ tcUrgent) :
    frameReceive m fresh l f c = bump c l fun k => { k with typeUnknown := wrapInc k.typeUnknown } := by
  unfold frameReceive
  dsimp only
  rw [if_neg (by rw [hrecv, hsignal]; decide), if_pos (by rw [decide_eq_true hfirst, decide_eq_true hrepeat]; rfl), if_neg hurgent]

variable (htype : f.typeCode = tcFirst ∨ f.typeCode = tcRepeat)
include htype

theorem frameReceive_violated (hbits : destuff (typeRun f.typeCode) f.bits = none) :
    frameReceive m fresh l f c = bump c l fun k => { k with lineViolation := wrapInc k.lineViolation } := by
  unfold frameReceive
  rw [hbits]
  exact (if_neg (by rw [hrecv, hsignal]; decide)).trans (if_neg (frame_known htype))

theorem frameReceive_cut {bits : List Bool} (hbits : destuff (typeRun f.typeCode) f.bits = some bits) (hcut : f.cut = true) :
    frameReceive m fresh l f c = bump c l fun k => { k with frameAbandoned := wrapInc k.frameAbandoned } := by
  unfold frameReceive
  rw [hbits]
  exact (if_neg (by rw [hrecv, hsignal]; decide)).trans ((if_neg (frame_known htype)).trans (if_pos hcut))
section
variable {bits : List Bool} {bs : List Byte} {h : Header} (hbits : destuff (typeRun f.typeCode) f.bits = some bits) (hcut : f.cut = false)
  (hbs : bs = descrambleFrame (f.typeCode = tcRepeat) bits) (hlen : bs.length = 612) (hcrc : beAt bs 608 4 = crc32c (bs.take 608)) (hhead : h = parseHeader bs)
include hbits hcut hbs hlen hcrc hhead

/-- A frame whose CRC is right goes on to the checks of its header and tag (R120). -/
theorem frameReceive_judges : frameReceive m fresh l f c = frameJudged m fresh l f c bs h := by
  have hgood : ¬ (decide (bs.length ≠ 612) || decide (beAt bs 608 4 ≠ crc32c (bs.take 608))) = true := by
    rw [decide_eq_false (not_not.mpr hlen), decide_eq_false (not_not.mpr hcrc)]
    decide
  subst hhead hbs
  unfold frameReceive
  rw [hbits]
  refine (if_neg (by rw [hrecv, hsignal]; decide)).trans ((if_neg (frame_known htype)).trans ((if_neg (Bool.eq_false_iff.mp hcut)).trans ((if_neg hgood).trans ?_)))
  rfl
end

end

theorem frameTagged_of {x : CLink} {typeCode : BitVec 32} {bs : List Byte} {h : Header} {k : CellKey} (hheld : heldKeys x h.cycle = [k]) (hphase : k.phase = h.keyPhase)
    (htag : (gmac k.key (if typeCode = tcFirst then iv 0x01 h.treeId.toNat 96 0 h.cycle else iv 0x02 h.treeId.toNat 97 0 h.cycle) (bs.take 592)).toNat = beAt bs 592 16) :
    frameTagged x typeCode bs h = true := by
  have hkey : frameKey x h.cycle h.keyPhase = some k.key := by
    rw [frameKey, hheld, List.head?_cons, Option.filter_some, if_pos (decide_eq_true hphase)]
    rfl
  unfold frameTagged
  dsimp only
  rw [hkey]
  exact decide_eq_true htag

/-! The urgent block frame (R147 to R149, R189 to R191) -/

/-- An authentic urgent block acts on a power cell (R149, R191). -/
def urgentActed (c : Cell) (tick : Int) : Cell :=
  if c.gates.blocked && !(c.mode = .safeBypass && !faulted c) then { c with preempt := if outputsLive c then some tick else c.preempt }
  else { becomeBlocked c tick with
    mode := if (becomeBlocked c tick).mode = .safeBypass && !faulted (becomeBlocked c tick) then .active else (becomeBlocked c tick).mode
    preempt := if outputsLive (becomeBlocked c tick) then some tick else (becomeBlocked c tick).preempt }

theorem urgentReceive_of {c : Cell} {l : Link} {bits raw : List Bool} {k : CellKey} {v : Nat} {x : CLink} (hrecv : receives c = true) (hx : x = getLink c l)
    (hsignal : x.signal = true) (hbits : destuff (typeRun tcUrgent) bits = some raw) (hlen : 31 ≤ raw.length) (hv : v = bitsNat (scramble fixedSeed (raw.take 31)))
    (hcyc : fld v 30 24 = fld x.cyc.toNat 6 0) (hheld : heldKeys x x.cyc = [k])
    (htag : leftTag 24 (gmac k.key (iv 0x03 (x.treeId.getD 0).toNat 0 0 x.cyc) [BitVec.ofNat 8 (x.treeId.getD 0).toNat, BitVec.ofNat 8 (fld v 30 24)]) = fld v 23 0)
    (hnode : c.variant ≠ .node) (tick : Int) : urgentReceive l bits tick c = urgentActed (yieldOrder c tick) tick := by
  subst hx hv
  have hback : ((getLink c l).cyc.toNat + 128 - fld (bitsNat (scramble fixedSeed (raw.take 31))) 30 24) % 128 = 0 := by
    have hfld : fld (getLink c l).cyc.toNat 6 0 = (getLink c l).cyc.toNat % 128 := rfl
    omega
  unfold urgentReceive
  rw [hbits]
  refine (if_neg (by rw [hrecv, hsignal]; decide)).trans ((if_neg (Nat.not_lt.mpr hlen)).trans ?_)
  dsimp only
  rw [hheld, hback, List.isEmpty_cons, if_neg (by decide), if_neg (by decide)]
  dsimp only
  rw [BitVec.sub_zero, List.any_cons, decide_eq_true htag, Bool.true_or, if_neg (by decide), if_neg hnode]
  rfl

theorem yieldOrder_none {c : Cell} (h : c.undo = none) (tick : Int) : yieldOrder c tick = c := by
  unfold yieldOrder
  rw [h]

theorem yieldOrder_yields {c : Cell} {u : Undo} {tick : Int} (h : c.undo = some u) (htick : u.tick = tick) (hexec : c.executed = true) :
    (yieldOrder c tick).executed = false ∧ (yieldOrder c tick).cnt = u.cnt ∧ (yieldOrder c tick).run = {} := by
  unfold yieldOrder
  rw [h]
  dsimp only
  rw [if_pos (by rw [hexec, decide_eq_true htick]; rfl)]
  exact ⟨rfl, rfl, rfl⟩

theorem urgentActed_view {β : Type} {view : Cell → β} (hview : ∀ c g m p, view { c with gates := g, mode := m, preempt := p } = view c) (c : Cell) (tick : Int) :
    view (urgentActed c tick) = view c := by
  refine ite_view (hview c c.gates c.mode _) ?_
  refine (hview _ (becomeBlocked c tick).gates _ _).trans ?_
  exact becomeBlocked_view (fun c g => hview c g c.mode c.preempt) c tick

section
variable {c : Cell} (hlive : outputsLive c = true) (tick : Int)

theorem outputsLive_becomeBlocked (c : Cell) (tick : Int) : outputsLive (becomeBlocked c tick) = outputsLive c :=
  becomeBlocked_view (view := outputsLive) (fun _ _ => rfl) c tick

include hlive in
theorem urgentActed_preempt : (urgentActed c tick).preempt = some tick := by
  refine ite_view (view := Cell.preempt) (if_pos hlive) ?_
  rw [outputsLive_becomeBlocked]
  exact if_pos hlive

include hlive in
theorem urgentActed_blocks (hfree : c.gates.blocked = false) (hlatched : c.gates.latched = false) (hov : c.gates.ov = false) :
    (urgentActed c tick).gates.blocked = true ∧ (urgentActed c tick).gates.g = 0 ∧ (urgentActed c tick).gates.state = .blocked := by
  obtain ⟨hstate, hg⟩ := becomeBlocked_off hlatched hov hlive tick
  unfold urgentActed
  rw [hfree, Bool.false_and, if_neg (by decide)]
  exact ⟨becomeBlocked_blocked c tick, hg, hstate⟩

theorem faulted_becomeBlocked (c : Cell) (tick : Int) : faulted (becomeBlocked c tick) = faulted c := by
  unfold becomeBlocked
  exact ite_view (view := faulted) rfl rfl

theorem urgentActed_ends (hmode : c.mode = .safeBypass) (hclear : faulted c = false) : (urgentActed c tick).mode = .active := by
  have hm : (becomeBlocked c tick).mode = .safeBypass := (becomeBlocked_view (view := Cell.mode) (fun _ _ => rfl) c tick).trans hmode
  unfold urgentActed
  rw [if_neg (by rw [hmode, hclear, Bool.not_false, Bool.and_true, decide_eq_true rfl, Bool.not_true, Bool.and_false]; decide)]
  exact if_pos (by rw [hm, faulted_becomeBlocked, hclear]; rfl)
end

end Sys2Proof.Machine
end

section
/-! PROOF. Bursts that a cell sends, its joining and its cycle start (R29, R80, R86, R96 to R104, R110, R123, R133, R143, R158). -/

namespace Sys2Proof.Machine

/-! Bursts (R78 to R80, R103) -/

/-- The burst that is sent on a link (R78 to R80). -/
def cellBurst (c : Cell) (l : Link) (kind index si : Nat) (start : Int) (body : List Byte) : CellTx :=
  let line := burstHead (kind = 2) ++ burstLine (getLink c l).cyc si body
  { link := l, kind := kind, index := index, cycle := (getLink c l).cyc, start := start, body := body, line := line, on := start + 160
    off := start + min (16 * (16 + line.length : Nat)) (16 * (burstBits (c.variant = .node) kind + 9 : Nat)) }

theorem sendBurst_tx {c : Cell} (h : c.tx = []) (l : Link) (kind index si : Nat) (start : Int) (body : List Byte) :
    (sendBurst c l kind index si start body).tx = [cellBurst c l kind index si start body] := by
  show _ :: c.tx = _
  rw [h]
  rfl

theorem sendBurst_link_view {β : Type} {view : CLink → β} (hview : ∀ x e, view { x with enable := e } = view x) (c : Cell) (l : Link) (kind index si : Nat) (start : Int)
    (body : List Byte) : view (getLink (sendBurst c l kind index si start body) l) = view (getLink c l) := by
  have hlink : getLink (sendBurst c l kind index si start body) l = _ := (getLink_of rfl rfl l).trans (getLink_modLink c l _)
  rw [hlink, hview]

theorem cellBurst_off (c : Cell) (l : Link) (kind index si : Nat) (start : Int) (body : List Byte) :
    (cellBurst c l kind index si start body).off ≤ start + 16 * (burstBits (c.variant = .node) kind + 9 : Nat) := by
  refine Int.add_le_add_left ?_ start
  exact_mod_cast Nat.min_le_right ..

/-- The body of a slot burst (R133, R141). -/
def slotBody (c : Cell) (x : CLink) (n : Nat) (k : Key) : List Byte :=
  let pay := if c.variant = .node then nodePayload c x.cyc else reportPayload c x.cyc
  withCrc16 (pay ++ toBE 4 (leftTag 32 (gmac k (iv 0x11 (x.treeId.getD 0).toNat n 0 x.cyc) pay)))

/-- The start of a slot burst (R80). -/
def slotStart (c : Cell) (x : CLink) (n : Nat) : Int := ((windowOpen c x + n * (if c.variant = .node then 320 else 112) : Nat) : Int) * 32 - x.upOfs

theorem slotBurst_of {c : Cell} {l : Link} {n w : Nat} {f : Cycle} {k : Key} (hsend : maySend c l = true) (hslot : (getLink c l).slot = some (n, w, f))
    (hkey : (getLink c l).session = some k) (hfrom : reached (getLink c l).cyc f = true) (hkeep : ∀ g, (getLink c l).giveUp = some g → reached (getLink c l).cyc g = false)
    (hframes : ∀ g, g ∈ (getLink c l).frames → g.cycle = (getLink c l).cyc → g.suspended = false) :
    slotBurst l c = sendBurst c l 0 n n (slotStart c (getLink c l) n) (slotBody c (getLink c l) n k) := by
  have hgive : (getLink c l).giveUp.any (fun g => reached (getLink c l).cyc g) = false := by
    cases hg : (getLink c l).giveUp with
    | none => rfl
    | some g => exact hkeep g hg
  have hrun : (getLink c l).frames.any (fun g => g.cycle = (getLink c l).cyc && g.suspended) = false := by
    rw [List.any_eq_false]
    intro g hg
    by_cases hc : g.cycle = (getLink c l).cyc
    · rw [hframes g hg hc, Bool.and_false]
      decide
    · rw [decide_eq_false hc, Bool.false_and]
      decide
  unfold slotBurst
  dsimp only
  rw [if_neg (by rw [hsend]; decide), hslot, hkey]
  dsimp only
  rw [if_neg (by rw [hfrom, hgive, hrun]; decide)]
  rfl

/-! Management bursts (R81, R143, R144) -/

section
variable {β : Type} {view : Cell → β}

theorem setLink_view (hview : ∀ c a b, view { c with la := a, lb := b } = view c) (c : Cell) (l : Link) (x : CLink) : view (setLink c l x) = view c := by
  cases l with
  | la => exact hview c x c.lb
  | lb => exact hview c c.la x

theorem mgmtItem_view (hview : ∀ c a b o n, view { c with la := a, lb := b, diagOut := o, diagLost := n } = view c) (m : Stores) (c : Cell) (l : Link) :
    view (mgmtItem m c l).2.2.2 = view c := by
  have hlink (c : Cell) (x : CLink) : view (setLink c l x) = view c := setLink_view (fun c a b => hview c a b c.diagOut c.diagLost) c l x
  unfold mgmtItem
  dsimp only
  split
  · exact hlink ..
  · split
    · exact hlink ..
    · split
      · exact hview c c.la c.lb _ _
      · split
        · exact hlink ..
        · rfl
end

theorem getLink_setLink (c : Cell) (l : Link) (x : CLink) : getLink (setLink c l x) l = x := by cases l <;> rfl

theorem mgmtItem_cyc (m : Stores) (c : Cell) (l : Link) : (getLink (mgmtItem m c l).2.2.2 l).cyc = (getLink c l).cyc := by
  unfold mgmtItem
  dsimp only
  split
  · rw [getLink_setLink]
  · split
    · rw [getLink_setLink]
    · split
      · cases l <;> rfl
      · split
        · rw [getLink_setLink]
        · rfl

/-- The start of a management burst (R81). -/
def mgmtStart (c : Cell) (x : CLink) (i : Nat) : Int :=
  ((windowOpen c x + (if c.variant = .node then 7680 else 7168) + i * 152 : Nat) : Int) * 32 - x.upOfs

theorem mgmtBurst_of (m : Stores) {c : Cell} {l : Link} {i : Nat} {e : Cycle × Nat × Nat} (hsend : maySend c l = true) (he : e ∈ (getLink c l).subs)
    (hfirst : 0 ≤ cycleDiff (getLink c l).cyc e.1) (hlast : cycleDiff (getLink c l).cyc e.1 < e.2.2) (hbit : bit e.2.1 i = true) (hi : i < 8)
    (hmode : (getLink c l).mode ≠ .listen) : ∃ body, mgmtBurst m l i c = sendBurst (mgmtItem m c l).2.2.2 l 1 i (64 + i) (mgmtStart c (getLink c l) i) body := by
  have hgranted : ((getLink c l).subs.any fun s => 0 ≤ cycleDiff (getLink c l).cyc s.1 && cycleDiff (getLink c l).cyc s.1 < s.2.2 && bit s.2.1 i) = true :=
    List.any_eq_true.mpr ⟨e, he, by rw [decide_eq_true hfirst, decide_eq_true hlast, hbit]; rfl⟩
  unfold mgmtBurst
  dsimp only
  rw [if_neg (by rw [hsend, hgranted, decide_eq_false (Nat.not_le.mpr hi), decide_eq_false hmode]; decide)]
  exact ⟨_, rfl⟩

/-! Joining (R96 to R100) -/

/-- A link that has sent its join burst (R97). -/
def joinAsked (x : CLink) (nonce : BitVec 64) : CLink := { x with mode := .joining, pick := none, asked := some x.cyc, nonce := nonce, attempt := min 255 (x.attempt + 1) }

theorem joinBurst_of {fresh : Nat} {c : Cell} {l : Link} {j n : Nat} (hsend : maySend c l = true) (hqual : (getLink c l).qual = true) (hmode : (getLink c l).mode = .listen)
    (hpick : (getLink c l).pick = some 0) (hwindow : (getLink c l).window = some ((getLink c l).cyc, j, n)) (hnak : (getLink c l).nakWait = none)
    (hasked : (getLink c l).asked = none) (hprbs : prbsRuns c = false) : ∃ body, joinBurst fresh l c =
      sendBurst { setLink c l (joinAsked (getLink c l) (Config.freeValue fresh 2)) with
        mode := if (setLink c l (joinAsked (getLink c l) (Config.freeValue fresh 2))).mode = .listen then .joining else (setLink c l (joinAsked (getLink c l) (Config.freeValue fresh 2))).mode }
        l 2 0 72 (((getLink c l).joinJ0 : Int) * 32 - (getLink c l).upOfs) body := by
  unfold joinBurst
  refine ⟨_, if_neg ?_⟩
  rw [hwindow, hsend, hqual, hmode, hpick, hnak, hasked, hprbs]
  dsimp only
  rw [decide_eq_true (rfl : (getLink c l).cyc = (getLink c l).cyc)]
  decide

theorem backedOff (c : Cell) (l : Link) : getLink (modLink (linkToListen c l) l fun x => { x with backoff := min 10 (x.backoff + 1) }) l =
    { listened (getLink c l) with backoff := min 10 ((getLink c l).backoff + 1) } := by
  rw [getLink_modLink, getLink_linkToListen]
  rfl

theorem joinAckTimeout_of {c : Cell} {l : Link} {cy : Cycle} (hasked : (getLink c l).asked = some cy) (hlate : 8 ≤ cycleDiff (getLink c l).cyc cy) :
    joinAckTimeout l c = modLink (linkToListen c l) l fun x => { x with backoff := min 10 (x.backoff + 1) } := by
  unfold joinAckTimeout
  dsimp only
  rw [hasked]
  exact if_neg (Int.not_lt.mpr hlate)

theorem joinAbandon_of {c : Cell} {l : Link} {e : CellExchange} (hexch : (getLink c l).exch = some e) (hidle : 80 ≤ e.idle) (hslot : (getLink c l).slot = none) :
    joinAbandon l c = modLink (linkToListen c l) l fun x => { x with backoff := min 10 (x.backoff + 1) } := by
  refine if_pos ?_
  rw [hexch, hslot]
  exact Bool.and_eq_true_iff.mpr ⟨decide_eq_true hidle, rfl⟩

/-! Babble (R103, R104) -/

/-- The trips of the last 256 cycles (R104). -/
def recentTrips (x : CLink) : List Cycle := x.trips.filter fun t => cycleDiff x.cyc t < 256

/-- A transmitter whose burst-enable stayed on is tripped; the third trip latches it off (R103, R104). -/
def tripped (x : CLink) (limit : Nat) (on : Int) : CLink :=
  modCnt { x with trips := x.cyc :: recentTrips x, latched := x.latched || 3 ≤ (x.cyc :: recentTrips x).length, enable := some (limit, on, on + 16 * limit) }
    fun k => { k with babble := wrapInc k.babble }

section
variable {c : Cell} {l : Link} {held limit : Nat} {on off : Int} (henable : (getLink c l).enable = some (limit, on, off))
include henable

theorem babble_trips (hrecv : receives c = true) (hprbs : prbsRuns c = false) (hlong : limit ≤ held) : babble l held c = setLink c l (tripped (getLink c l) limit on) := by
  unfold babble
  dsimp only
  rw [henable]
  exact if_neg (by rw [hrecv, hprbs, decide_eq_false (Nat.not_lt.mpr hlong)]; exact Bool.false_ne_true)

theorem babble_short (hshort : held < limit) : babble l held c = c := by
  unfold babble
  dsimp only
  rw [henable]
  exact if_pos (by rw [decide_eq_true hshort, Bool.or_true, Bool.true_or])
end

theorem getLink_setLink_other (c : Cell) (l : Link) (x : CLink) : getLink (setLink c l x) (otherLink l) = getLink c (otherLink l) := by cases l <;> rfl

/-! The cycle start (R110, R158, R231 to R233) -/

section
variable {β : Type} {view : Cell → β}

theorem foldl_keeps_cell {α : Type} {f : Cell → α → Cell} (h : ∀ c x, view (f c x) = view c) (l : List α) (c : Cell) : view (l.foldl f c) = view c := by
  induction l generalizing c with
  | nil => rfl
  | cons x r ih => rw [List.foldl_cons, ih, h]

theorem rfCount_view (hview : ∀ c t, view { c with thermal := t } = view c) (c : Cell) (r : F32) (k : Nat) : view (rfCount c r k) = view c := by
  unfold rfCount
  split
  · rfl
  · exact hview ..

theorem fourPoint_view (hview : ∀ c t, view { c with thermal := t } = view c) (n : Nat) (c : Cell) : view (fourPoint n c) = view c := by
  induction n generalizing c with
  | zero => rfl
  | succ n ih =>
    unfold fourPoint
    split
    · exact ite_view ((ih _).trans ((rfCount_view hview ..).trans (hview ..))) rfl
    · rfl

theorem turningPoint_view (hview : ∀ c t, view { c with thermal := t } = view c) (c : Cell) (v : F32) : view (turningPoint c v) = view c := by
  unfold turningPoint
  refine (fourPoint_view hview ..).trans ((hview ..).trans (ite_view ?_ rfl))
  split
  · exact (rfCount_view hview ..).trans (hview ..)
  · rfl

theorem rainflow_view (hview : ∀ c t, view { c with thermal := t } = view c) (c : Cell) (tj : F32) : view (rainflow c tj) = view c := by
  unfold rainflow
  dsimp only
  split
  · exact hview ..
  · exact ite_view (hview ..) (ite_view ((turningPoint_view hview ..).trans (hview ..)) rfl)

theorem thermalUpdate_view (hview : ∀ c g t, view { c with gates := g, thermal := t } = view c) (c : Cell) (len : Nat) : view (thermalUpdate c len) = view c := by
  have hgates (c : Cell) (g : Gates) : view { c with gates := g } = view c := hview c g c.thermal
  unfold thermalUpdate
  extract_lets closed n z ntc tjs top modelled updated
  have hclosed : view closed = view c := hgates ..
  have hupdated : view updated = view c := (hview closed _ _).trans hclosed
  refine ite_view ((hgates ..).trans hclosed) (ite_view ?_ hupdated)
  exact (rainflow_view (fun c t => hview c c.gates t) ..).trans hupdated

theorem applyStaged_view (hview : ∀ c p s w t, view { c with params := p, staged := s, windowWritten := w, tableCrc := t } = view c) (c : Cell) (cycle : Cycle) :
    view (applyStaged c cycle) = view c := by
  unfold applyStaged
  extract_lets due valued staged
  have hstaged : view staged = view c := hview c valued.params _ _ c.tableCrc
  exact ite_view rfl (ite_view ((hview staged staged.params staged.staged staged.windowWritten _).trans hstaged) hstaged)
end

theorem linkCycle_cyc (n : Nat) (x : CLink) : (linkCycle n x).1.cyc = x.cyc + 1 := rfl

/-- A link that coasts for the second cycle loses its qualification (R158). -/
theorem linkCycle_qual {x : CLink} (hframes : ∀ f, f ∈ x.frames → f.cycle ≠ x.cyc) (hcoast : 1 ≤ x.coast) (n : Nat) : (linkCycle n x).1.qual = false := by
  have hnone : x.frames.any (fun f => f.cycle = x.cyc) = false := by
    rw [List.any_eq_false]
    intro f hf
    rw [decide_eq_true_eq]
    exact hframes f hf
  have hover : decide (x.coast + 1 ≥ 2) = true := decide_eq_true (by omega)
  show (x.qual && !(decide ((if x.frames.any (fun f => f.cycle = x.cyc) then 0 else x.coast + 1) ≥ 2) && x.qual)) = false
  rw [hnone, if_neg (by decide), hover, Bool.true_and, Bool.and_not_self]

/-- The links enter their next cycle (R158). -/
def linksCycled (c : Cell) : Cell := { c with la := (linkCycle (cpN c) c.la).1, lb := (linkCycle (cpN c) c.lb).1 }

/-- Links whose slot is given up leave (R647). -/
def linksLeft (la lb : Bool) (c : Cell) : Cell :=
  let c := if la then linkToListen c .la else c
  if lb then linkToListen c .lb else c

/-- Armed edges whose window ended bring no edge (R229, R230). -/
def edgesEnded (len : Nat) (c : Cell) : Cell := c.edgeArms.foldl (fun c e => if e.te - (len : Int) * 32 < -8192 then diagDev c e 0x80000000 else c) c

/-- The order of the cycle before is cleared and the ages move on (R110). -/
def orderCleared (len : Nat) (c : Cell) : Cell :=
  let t := c.thermal
  let sub := t.subTicks + len
  let sec := sub / 1250000000
  let shift (e : GateEdge) : GateEdge := match e with
    | .turnOn k g => .turnOn (k - len) g
    | .trim k d l => .trim (k - len) d l
  { c with
    decided := false, renewed := false, executed := false, preempt := none, undo := none, withheld := false
    steerPref := cp c 0x06
    sel := none, selFill := false, forced := none
    thermal := { t with subTicks := sub % 1250000000, uptime := t.uptime + BitVec.ofNat 32 sec
                        uptimeTotal := t.uptimeTotal + BitVec.ofNat 32 sec }
    bypassCycles := if c.bypass then satInc c.bypassCycles else c.bypassCycles
    gates := { c.gates with edges := c.gates.edges.map shift, blankTo := c.gates.blankTo.map fun b => b.map (· - (len : Int)) }
    edgeArms := (c.edgeArms.map fun e => { e with te := e.te - (len : Int) * 32 }).filter fun e => -8192 ≤ e.te
    meas := { c.meas with calAge := c.meas.calAge.map (· + 1) } }

/-- The links of a cell at its cycle start (R158, R647). -/
def linksStarted (c : Cell) : Cell :=
  let x := thermalUpdate c (steerLink c).clen
  linksLeft (linkCycle (cpN x) x.la).2 (linkCycle (cpN x) x.lb).2 (linksCycled x)

theorem cellCycleStart_of {c : Cell} (h : receives c = true) : cellCycleStart c =
    settle 0 (resteer (orderCleared (steerLink c).clen (edgesEnded (steerLink c).clen (applyStaged (linksStarted c) (cellCyc (linksStarted c)))))) := by
  unfold cellCycleStart
  refine (if_neg (by rw [h]; decide)).trans ?_
  rfl

section
variable {c : Cell} (hrecv : receives c = true)
include hrecv

theorem cellCycleStart_cleared : (cellCycleStart c).executed = false ∧ (cellCycleStart c).decided = false ∧ (cellCycleStart c).sel = none ∧ (cellCycleStart c).preempt = none := by
  rw [cellCycleStart_of hrecv]
  exact ⟨settle_view (view := Cell.executed) (fun _ _ _ => rfl) .., settle_view (view := Cell.decided) (fun _ _ _ => rfl) .., settle_view (view := Cell.sel) (fun _ _ _ => rfl) ..,
    settle_view (view := Cell.preempt) (fun _ _ _ => rfl) ..⟩

theorem cellCycleStart_link (l : Link) : getLink (cellCycleStart c) l = getLink (linksStarted c) l := by
  have hlink {x y : Cell} (ha : x.la = y.la) (hb : x.lb = y.lb) : getLink x l = getLink y l := getLink_of ha hb l
  rw [cellCycleStart_of hrecv, settle_view (view := (getLink · l)) fun _ _ _ => hlink rfl rfl]
  refine (hlink rfl rfl).trans ((foldl_keeps_cell (view := (getLink · l)) (fun c e => ?_) _ _).trans (applyStaged_view (view := (getLink · l)) (fun _ _ _ _ _ => hlink rfl rfl) ..))
  exact ite_view (view := (getLink · l)) (diagDev_view (view := (getLink · l)) (fun _ _ _ => hlink rfl rfl) ..) rfl
end

theorem eq_otherLink {k l : Link} (h : k ≠ l) : k = otherLink l := by
  revert h
  cases k <;> cases l <;> decide

theorem linkToListen_link_view {β : Type} {view : CLink → β} (hview : ∀ x, view (listened x) = view x) (c : Cell) (l k : Link) :
    view (getLink (linkToListen c l) k) = view (getLink c k) := by
  by_cases h : k = l
  · rw [h, getLink_linkToListen, hview]
  · have ho := eq_otherLink h
    rw [ho, getLink_linkToListen_other]

theorem linkToListen_qual {c : Cell} {k : Link} (h : (getLink c k).qual = false) (l : Link) : (getLink (linkToListen c l) k).qual = false := by
  by_cases hl : k = l
  · rw [hl, getLink_linkToListen]
    rfl
  · have ho := eq_otherLink hl
    rw [ho, getLink_linkToListen_other, ← ho, h]

theorem linksLeft_cyc (la lb : Bool) (c : Cell) (k : Link) : (getLink (linksLeft la lb c) k).cyc = (getLink c k).cyc := by
  have hlisten (c : Cell) (l : Link) : (getLink (linkToListen c l) k).cyc = (getLink c k).cyc := linkToListen_link_view (fun _ => rfl) c l k
  have ha : (getLink (if la then linkToListen c .la else c) k).cyc = (getLink c k).cyc := ite_view (view := fun c => (getLink c k).cyc) (hlisten ..) rfl
  exact ite_view (view := fun c => (getLink c k).cyc) ((hlisten ..).trans ha) ha

theorem linksLeft_qual (la lb : Bool) {c : Cell} {k : Link} (h : (getLink c k).qual = false) : (getLink (linksLeft la lb c) k).qual = false := by
  have ha : (getLink (if la then linkToListen c .la else c) k).qual = false := ite_view (view := fun c => (getLink c k).qual) (linkToListen_qual h _) h
  exact ite_view (view := fun c => (getLink c k).qual) (linkToListen_qual ha _) ha

/-- The links as the thermal model leaves them: untouched. -/
theorem linksCycled_link (c : Cell) (len : Nat) : (linksCycled (thermalUpdate c len)).la = (linkCycle (cpN c) c.la).1 ∧ (linksCycled (thermalUpdate c len)).lb = (linkCycle (cpN c) c.lb).1 := by
  have hla : (thermalUpdate c len).la = c.la := thermalUpdate_view (view := Cell.la) (fun _ _ _ => rfl) c len
  have hlb : (thermalUpdate c len).lb = c.lb := thermalUpdate_view (view := Cell.lb) (fun _ _ _ => rfl) c len
  have hn : cpN (thermalUpdate c len) = cpN c := thermalUpdate_view (view := cpN) (fun _ _ _ => rfl) c len
  unfold linksCycled
  rw [hla, hlb, hn]
  exact ⟨rfl, rfl⟩

section
variable {c : Cell} (hrecv : receives c = true)
include hrecv

theorem cellCycleStart_cyc : (cellCycleStart c).la.cyc = c.la.cyc + 1 ∧ (cellCycleStart c).lb.cyc = c.lb.cyc + 1 := by
  obtain ⟨hla, hlb⟩ := linksCycled_link c (steerLink c).clen
  constructor
  · show (getLink (cellCycleStart c) .la).cyc = _
    rw [cellCycleStart_link hrecv, linksStarted, linksLeft_cyc]
    show (linksCycled (thermalUpdate c (steerLink c).clen)).la.cyc = _
    rw [hla, linkCycle_cyc]
  · show (getLink (cellCycleStart c) .lb).cyc = _
    rw [cellCycleStart_link hrecv, linksStarted, linksLeft_cyc]
    show (linksCycled (thermalUpdate c (steerLink c).clen)).lb.cyc = _
    rw [hlb, linkCycle_cyc]

theorem cellCycleStart_unqualifies (hframes : ∀ f, f ∈ c.la.frames → f.cycle ≠ c.la.cyc) (hcoast : 1 ≤ c.la.coast) : (cellCycleStart c).la.qual = false := by
  obtain ⟨hla, -⟩ := linksCycled_link c (steerLink c).clen
  have hq : (getLink (linksCycled (thermalUpdate c (steerLink c).clen)) .la).qual = false := by
    show (linksCycled (thermalUpdate c (steerLink c).clen)).la.qual = false
    rw [hla]
    exact linkCycle_qual hframes hcoast _
  show (getLink (cellCycleStart c) .la).qual = false
  rw [cellCycleStart_link hrecv, linksStarted]
  exact linksLeft_qual _ _ hq
end

end Sys2Proof.Machine
end

section
/-! PROOF. Frames and bursts of the cell controller, assembled. -/

namespace Sys2Proof.Machine

theorem frameReceive_results {s : State} {l : Link} {f : DownSeen} (hrecv : receives s.cell = true) (hsignal : (getLink s.cell l).signal = true) :
    ∃ t, exec (.frameReceive l f) s = .next t
      ∧ (f.typeCode ≠ tcFirst → f.typeCode ≠ tcRepeat → f.typeCode ≠ tcUrgent →
          (getLink t.cell l).cnt.typeUnknown = (getLink s.cell l).cnt.typeUnknown + 1 ∧ t.cell.gates = s.cell.gates ∧ t.cell.mode = s.cell.mode)
      ∧ (f.typeCode = tcFirst ∨ f.typeCode = tcRepeat →
          (destuff (typeRun f.typeCode) f.bits = none →
            (getLink t.cell l).cnt.lineViolation = (getLink s.cell l).cnt.lineViolation + 1 ∧ t.cell.gates = s.cell.gates)
          ∧ (∀ bits, destuff (typeRun f.typeCode) f.bits = some bits → f.cut = true →
            (getLink t.cell l).cnt.frameAbandoned = (getLink s.cell l).cnt.frameAbandoned + 1 ∧ t.cell.gates = s.cell.gates)
          ∧ ∀ bits bs h, destuff (typeRun f.typeCode) f.bits = some bits → f.cut = false → bs = descrambleFrame (f.typeCode = tcRepeat) bits →
            bs.length = 612 → beAt bs 608 4 = crc32c (bs.take 608) → h = parseHeader bs → h.reserved = false → h.port ≤ 51 → h.mgmt = false →
            (getLink s.cell l).treeId = none → (getLink s.cell l).last = none →
            ((getLink s.cell l).keys = [] →
              (getLink t.cell l).last = some h.cycle ∧ (getLink t.cell l).treeId = some h.treeId ∧ (getLink t.cell l).seen = true
                ∧ t.cell.thermal.iarm = s.cell.thermal.iarm)
            ∧ ∀ k, heldKeys (getLink s.cell l) h.cycle = [k] → k.phase = h.keyPhase → h.cycle = (getLink s.cell l).cyc →
              (gmac k.key (if f.typeCode = tcFirst then iv 0x01 h.treeId.toNat 96 0 h.cycle else iv 0x02 h.treeId.toNat 97 0 h.cycle)
                (bs.take 592)).toNat = beAt bs 592 16 →
              (getLink t.cell l).last = some h.cycle ∧ (getLink t.cell l).treeId = some h.treeId ∧ (getLink t.cell l).seen = true
                ∧ t.cell.thermal.iarm = h.iarm) := by
  obtain ⟨t, hnext, h⟩ := noted_reaches (s := s) (o := execFrameReceive l f s) rfl
  have hc : getLink (cellStart s.cell) l = getLink s.cell l := getLink_of rfl rfl l
  have hsig : (getLink (cellStart s.cell) l).signal = true := by rw [hc]; exact hsignal
  have hlink : getLink t.cell l = getLink (frameReceive s.mem s.fresh l f (cellStart s.cell)) l :=
    h.noted (view := (getLink · l)) fun _ _ _ => getLink_of rfl rfl l
  have hgates : t.cell.gates = (frameReceive s.mem s.fresh l f (cellStart s.cell)).gates := h.noted (view := Cell.gates) fun _ _ _ => rfl
  have hmode : t.cell.mode = (frameReceive s.mem s.fresh l f (cellStart s.cell)).mode := h.noted (view := Cell.mode) fun _ _ _ => rfl
  have hthermal : t.cell.thermal = (frameReceive s.mem s.fresh l f (cellStart s.cell)).thermal := h.noted (view := Cell.thermal) fun _ _ _ => rfl
  have hbump (g : LinkCounters → LinkCounters) : getLink (bump (cellStart s.cell) l g) l = modCnt (getLink s.cell l) g := by rw [bump, getLink_modLink, hc]
  have hkept (g : LinkCounters → LinkCounters) : (bump (cellStart s.cell) l g).gates = s.cell.gates := modLink_view (view := Cell.gates) (fun _ _ _ => rfl) ..
  refine ⟨t, hnext, fun hfirst hrepeat hurgent => ?_, fun htype => ⟨fun hbits => ?_, fun bits hbits hcut => ?_,
    fun bits bs hd hbits hcut hbs hlen hcrc hhead hreserved hport hmgmt htree hlast => ?_⟩⟩
  · rw [hlink, hgates, hmode, frameReceive_unknown (c := cellStart s.cell) hrecv hsig s.mem s.fresh hfirst hrepeat hurgent, hbump]
    exact ⟨rfl, hkept _, modLink_view (view := Cell.mode) (fun _ _ _ => rfl) ..⟩
  · rw [hlink, hgates, frameReceive_violated (c := cellStart s.cell) hrecv hsig s.mem s.fresh htype hbits, hbump]
    exact ⟨rfl, hkept _⟩
  · rw [hlink, hgates, frameReceive_cut (c := cellStart s.cell) hrecv hsig s.mem s.fresh htype hbits hcut, hbump]
    exact ⟨rfl, hkept _⟩
  · rw [hlink, hthermal, frameReceive_judges (c := cellStart s.cell) hrecv hsig s.mem s.fresh htype hbits hcut hbs hlen hcrc hhead]
    rw [← hc] at htree hlast
    refine ⟨fun hkeys => ?_, fun k hheld hphase hcycle htag => ?_⟩
    · have hheld : heldKeys (getLink (cellStart s.cell) l) hd.cycle = [] := by rw [hc, heldKeys, hkeys]; rfl
      rw [frameJudged_accepts s.mem s.fresh bs hreserved hport htree hlast (.inl hheld), hheld]
      exact acceptFrame_takes s.mem s.fresh (cellStart s.cell) l f bs false hmgmt
    · rw [← hc] at hheld hcycle
      rw [frameJudged_accepts s.mem s.fresh bs hreserved hport htree hlast (.inr ⟨frameTagged_of hheld hphase htag, hcycle⟩), hheld]
      exact acceptFrame_takes s.mem s.fresh (cellStart s.cell) l f bs true hmgmt

theorem getLink_cellStart (c : Cell) (l : Link) : getLink (cellStart c) l = getLink c l := getLink_of rfl rfl l

theorem maySend_cellStart {c : Cell} {l : Link} (h : maySend c l = true) : maySend (cellStart c) l = true := by cases l <;> exact h

/-- A command that acted on the cell leaves its links as the action left them. -/
theorem CellReached.link {s t : State} {c : Cell} (h : CellReached s t c) (l : Link) : getLink t.cell l = getLink c l := by
  rw [h.cell]
  exact getLink_of rfl rfl l

theorem urgentBlockReceive_results {s : State} {l : Link} {bits raw : List Bool} {k : CellKey} {v : Nat} {x : CLink} (tick : Int) (hrecv : receives s.cell = true)
    (hx : x = getLink s.cell l) (hsignal : x.signal = true) (hbits : destuff (typeRun tcUrgent) bits = some raw) (hlen : 31 ≤ raw.length)
    (hv : v = bitsNat (scramble fixedSeed (raw.take 31))) (hcyc : fld v 30 24 = fld x.cyc.toNat 6 0) (hheld : heldKeys x x.cyc = [k])
    (htag : leftTag 24 (gmac k.key (iv 0x03 (x.treeId.getD 0).toNat 0 0 x.cyc) [BitVec.ofNat 8 (x.treeId.getD 0).toNat, BitVec.ofNat 8 (fld v 30 24)]) = fld v 23 0)
    (hnode : s.cell.variant ≠ .node) :
    ∃ t, exec (.urgentBlockReceive l bits tick) s = .next t
      ∧ (s.cell.undo = none → outputsLive s.cell = true → t.cell.preempt = some tick
          ∧ (s.cell.gates.blocked = false → s.cell.gates.latched = false → s.cell.gates.ov = false →
              t.cell.gates.blocked = true ∧ t.cell.gates.g = 0 ∧ t.cell.gates.state = .blocked)
          ∧ (s.cell.mode = .safeBypass → faulted s.cell = false → t.cell.mode = .active))
      ∧ (∀ u, s.cell.undo = some u → u.tick = tick → s.cell.executed = true → t.cell.executed = false ∧ t.cell.cnt = u.cnt
          ∧ t.cell.run = ({} : Report)) := by
  obtain ⟨t, hnext, h⟩ := onCell_reaches (s := s) (o := execUrgentBlockReceive l bits tick s) rfl
    (urgentReceive_of (c := cellStart s.cell) hrecv (hx.trans (getLink_cellStart s.cell l).symm) hsignal hbits hlen hv hcyc hheld htag hnode tick)
  refine ⟨t, hnext, fun hundo hlive => ?_, fun u hundo htick hexec => ?_⟩
  · rw [h.cell, yieldOrder_none (c := cellStart s.cell) hundo]
    exact ⟨urgentActed_preempt (c := cellStart s.cell) hlive tick, urgentActed_blocks (c := cellStart s.cell) hlive tick,
      urgentActed_ends (c := cellStart s.cell) tick⟩
  · obtain ⟨hexecuted, hcnt, hrun⟩ := yieldOrder_yields (c := cellStart s.cell) hundo htick hexec
    rw [h.cell]
    exact ⟨(urgentActed_view (view := Cell.executed) (fun _ _ _ _ => rfl) ..).trans hexecuted, (urgentActed_view (view := Cell.cnt) (fun _ _ _ _ => rfl) ..).trans hcnt,
      (urgentActed_view (view := Cell.run) (fun _ _ _ _ => rfl) ..).trans hrun⟩

theorem slotBurstSend_results {s : State} {l : Link} {n w : Nat} {f : Cycle} {k : Key} (hsend : maySend s.cell l = true) (hslot : (getLink s.cell l).slot = some (n, w, f))
    (hkey : (getLink s.cell l).session = some k) (hfrom : reached (getLink s.cell l).cyc f = true)
    (hkeep : ∀ g, (getLink s.cell l).giveUp = some g → reached (getLink s.cell l).cyc g = false)
    (hframes : ∀ g, g ∈ (getLink s.cell l).frames → g.cycle = (getLink s.cell l).cyc → g.suspended = false) :
    ∃ t b, exec (.slotBurstSend l) s = .next t ∧ t.cell.tx = [b] ∧ b.link = l ∧ b.kind = 0 ∧ b.index = n ∧ b.cycle = (getLink s.cell l).cyc
      ∧ b.start = ((windowOpen s.cell (getLink s.cell l) + n * (if s.cell.variant = .node then 320 else 112) : Nat) : Int) * 32 - (getLink s.cell l).upOfs
      ∧ b.on = b.start + 160 ∧ b.off ≤ b.start + 16 * (burstBits (s.cell.variant = .node) 0 + 9 : Nat)
      ∧ b.line = burstHead false ++ burstLine (getLink s.cell l).cyc n b.body
      ∧ t.cell = { modLink s.cell l (fun y => { y with enable := (getLink t.cell l).enable }) with tx := [b], writes := [] } := by
  have hc := getLink_cellStart s.cell l
  rw [← hc] at hslot hkey hfrom hkeep hframes
  obtain ⟨t, hnext, h⟩ := onCell_reaches (s := s) (o := execSlotBurstSend l s) rfl (slotBurst_of (maySend_cellStart hsend) hslot hkey hfrom hkeep hframes)
  rw [hc] at h
  have htx := sendBurst_tx (c := cellStart s.cell) rfl l 0 n n (slotStart (cellStart s.cell) (getLink s.cell l) n) (slotBody (cellStart s.cell) (getLink s.cell l) n k)
  refine ⟨t, _, hnext, by rw [h.cell]; exact htx, rfl, rfl, rfl, by rw [← hc]; rfl, rfl, rfl, cellBurst_off (cellStart s.cell) .., by rw [← hc]; rfl, ?_⟩
  rw [h.link, h.cell]
  cases l <;> rfl

theorem mgmtBurstSend_results {s : State} {l : Link} {i : Nat} {e : Cycle × Nat × Nat} (hsend : maySend s.cell l = true) (he : e ∈ (getLink s.cell l).subs)
    (hfirst : 0 ≤ cycleDiff (getLink s.cell l).cyc e.1) (hlast : cycleDiff (getLink s.cell l).cyc e.1 < e.2.2) (hbit : bit e.2.1 i = true) (hi : i < 8)
    (hmode : (getLink s.cell l).mode ≠ .listen) :
    ∃ t b, exec (.mgmtBurstSend l i) s = .next t ∧ t.cell.tx = [b] ∧ b.link = l ∧ b.kind = 1 ∧ b.index = i ∧ b.cycle = (getLink s.cell l).cyc
      ∧ b.start = ((windowOpen s.cell (getLink s.cell l) + (if s.cell.variant = .node then 7680 else 7168) + i * 152 : Nat) : Int) * 32 - (getLink s.cell l).upOfs
      ∧ b.line = burstHead false ++ burstLine (getLink s.cell l).cyc (64 + i) b.body ∧ t.cell.gates = s.cell.gates := by
  have hc := getLink_cellStart s.cell l
  rw [← hc] at he hfirst hlast hmode
  obtain ⟨body, hsent⟩ := mgmtBurst_of s.mem (maySend_cellStart hsend) he hfirst hlast hbit hi hmode
  rw [hc] at hsent
  obtain ⟨t, hnext, h⟩ := onCell_reaches (s := s) (o := execMgmtBurstSend l i s) rfl hsent
  have hcyc : (getLink (mgmtItem s.mem (cellStart s.cell) l).2.2.2 l).cyc = (getLink s.cell l).cyc := (mgmtItem_cyc ..).trans (by rw [hc])
  have htx : (mgmtItem s.mem (cellStart s.cell) l).2.2.2.tx = [] := mgmtItem_view (view := Cell.tx) (fun _ _ _ _ _ => rfl) ..
  have hgates : (mgmtItem s.mem (cellStart s.cell) l).2.2.2.gates = s.cell.gates := mgmtItem_view (view := Cell.gates) (fun _ _ _ _ _ => rfl) ..
  refine ⟨t, _, hnext, by rw [h.cell]; exact sendBurst_tx htx l 1 i (64 + i) (mgmtStart (cellStart s.cell) (getLink s.cell l) i) body, rfl, rfl, rfl, hcyc, rfl, ?_, ?_⟩
  · rw [← hcyc]
    rfl
  · rw [h.cell, ← hgates]
    exact modLink_view (view := Cell.gates) (fun _ _ _ => rfl) ..

theorem joinBurstSend_results {s : State} {l : Link} {j n : Nat} {x : CLink} (hsend : maySend s.cell l = true) (hx : x = getLink s.cell l) (hqual : x.qual = true)
    (hmode : x.mode = .listen) (hpick : x.pick = some 0) (hwindow : x.window = some (x.cyc, j, n)) (hnak : x.nakWait = none) (hasked : x.asked = none)
    (hprbs : prbsRuns s.cell = false) :
    ∃ t b, exec (.joinBurstSend l) s = .next t ∧ t.cell.tx = [b] ∧ b.kind = 2 ∧ b.start = (x.joinJ0 : Int) * 32 - x.upOfs
      ∧ (getLink t.cell l).mode = .joining ∧ (getLink t.cell l).asked = some x.cyc ∧ (getLink t.cell l).attempt = min 255 (x.attempt + 1) := by
  have hc := getLink_cellStart s.cell l
  subst hx
  rw [← hc] at hqual hmode hpick hwindow hnak hasked
  obtain ⟨body, hsent⟩ := joinBurst_of (fresh := s.fresh) (c := cellStart s.cell) (maySend_cellStart hsend) hqual hmode hpick hwindow hnak hasked hprbs
  obtain ⟨t, hnext, h⟩ := onCell_reaches (s := s) (o := execJoinBurstSend l s) rfl hsent
  have hlink {β : Type} {view : CLink → β} (hview : ∀ x e, view { x with enable := e } = view x) :
      view (getLink t.cell l) = view (joinAsked (getLink (cellStart s.cell) l) (Config.freeValue s.fresh 2)) := by
    rw [h.link, sendBurst_link_view hview]
    exact congrArg view ((getLink_of rfl rfl l).trans (getLink_setLink ..))
  rw [hc] at hlink
  refine ⟨t, _, hnext, by rw [h.cell]; exact sendBurst_tx (setLink_view (view := Cell.tx) (fun _ _ _ => rfl) ..) l 2 0 72 _ body, rfl, by rw [hc]; rfl,
    hlink (view := CLink.mode) fun _ _ => rfl, hlink (view := CLink.asked) fun _ _ => rfl, hlink (view := CLink.attempt) fun _ _ => rfl⟩

theorem joinAckTimeout_results {s : State} {l : Link} {cy : Cycle} (hasked : (getLink s.cell l).asked = some cy) (hlate : 8 ≤ cycleDiff (getLink s.cell l).cyc cy) :
    ∃ t, exec (.joinAckTimeout l) s = .next t ∧ (getLink t.cell l).mode = .listen ∧ (getLink t.cell l).asked = none
      ∧ (getLink t.cell l).backoff = min 10 ((getLink s.cell l).backoff + 1) := by
  have hc := getLink_cellStart s.cell l
  rw [← hc] at hasked hlate
  obtain ⟨t, hnext, h⟩ := onCell_reaches (s := s) (o := execJoinAckTimeout l s) rfl (joinAckTimeout_of hasked hlate)
  refine ⟨t, hnext, ?_⟩
  rw [h.link, backedOff, hc]
  exact ⟨rfl, rfl, rfl⟩

theorem joinNakWaitEnd_results {s : State} {l : Link} (hwait : (getLink s.cell l).nakWait = some 0) :
    ∃ t, exec (.joinNakWaitEnd l) s = .next t ∧ (getLink t.cell l).nakWait = none ∧ (getLink t.cell l).mode = (getLink s.cell l).mode := by
  obtain ⟨t, hnext, h⟩ := onCell_reaches (s := s) (o := execJoinNakWaitEnd l s) rfl rfl
  refine ⟨t, hnext, ?_⟩
  rw [h.link, joinNakWaitEnd, getLink_modLink, getLink_cellStart]
  exact ⟨if_pos hwait, rfl⟩

theorem joinExchangeAbandon_results {s : State} {l : Link} {e : CellExchange} (hexch : (getLink s.cell l).exch = some e) (hidle : 80 ≤ e.idle)
    (hslot : (getLink s.cell l).slot = none) :
    ∃ t, exec (.joinExchangeAbandon l) s = .next t ∧ (getLink t.cell l).mode = .listen ∧ (getLink t.cell l).exch = none
      ∧ (getLink t.cell l).session = none ∧ (getLink t.cell l).backoff = min 10 ((getLink s.cell l).backoff + 1) := by
  have hc := getLink_cellStart s.cell l
  rw [← hc] at hexch hslot
  obtain ⟨t, hnext, h⟩ := onCell_reaches (s := s) (o := execJoinExchangeAbandon l s) rfl (joinAbandon_of hexch hidle hslot)
  refine ⟨t, hnext, ?_⟩
  rw [h.link, backedOff, hc]
  exact ⟨rfl, rfl, rfl, rfl⟩

theorem linkSilenceListen_results {s : State} {l : Link} (hsilent : 64 ≤ (getLink s.cell l).silent) :
    ∃ t, exec (.linkSilenceListen l) s = .next t ∧ (getLink t.cell l).mode = .listen ∧ (getLink t.cell l).session = none
      ∧ (getLink t.cell l).keys = [] ∧ (getLink t.cell l).qual = false ∧ getLink t.cell (otherLink l) = getLink s.cell (otherLink l) := by
  obtain ⟨t, hnext, h⟩ := noted_reaches (s := s) (o := execLinkSilenceListen l s) rfl
  have hlistens : linkSilence l (cellStart s.cell) = linkToListen (cellStart s.cell) l := if_pos (by rw [getLink_cellStart]; exact hsilent)
  have hlink (k : Link) : getLink t.cell k = getLink (linkToListen (cellStart s.cell) l) k := by
    rw [← hlistens]
    exact h.noted (view := (getLink · k)) fun _ _ _ => getLink_of rfl rfl k
  refine ⟨t, hnext, ?_⟩
  rw [hlink, hlink, getLink_linkToListen, getLink_linkToListen_other, getLink_cellStart, getLink_cellStart]
  exact ⟨rfl, rfl, rfl, rfl, rfl⟩

theorem babbleTrip_results {s : State} {l : Link} {held limit : Nat} {on off : Int} {x : CLink} (hrecv : receives s.cell = true) (hprbs : prbsRuns s.cell = false)
    (hx : x = getLink s.cell l) (henable : x.enable = some (limit, on, off)) :
    ∃ t, exec (.babbleTrip ⟨l, held⟩) s = .next t ∧ getLink t.cell (otherLink l) = getLink s.cell (otherLink l)
      ∧ (limit ≤ held → (getLink t.cell l).cnt.babble = x.cnt.babble + 1 ∧ (getLink t.cell l).enable = some (limit, on, on + 16 * limit)
          ∧ (2 ≤ (x.trips.filter fun c => cycleDiff x.cyc c < 256).length → (getLink t.cell l).latched = true)
          ∧ (x.trips = [] → (getLink t.cell l).latched = x.latched))
      ∧ (held < limit → getLink t.cell l = x) := by
  have hc := getLink_cellStart s.cell
  subst hx
  rw [← hc] at henable
  obtain ⟨t, hnext, h⟩ := onCell_reaches (s := s) (o := execBabbleTrip ⟨l, held⟩ s) rfl rfl
  refine ⟨t, hnext, ?_⟩
  rw [h.link, h.link, ← hc l, ← hc (otherLink l)]
  rcases Nat.lt_or_ge held limit with hshort | hlong
  · rw [babble_short henable hshort]
    exact ⟨rfl, fun hlong => absurd hlong (Nat.not_le.mpr hshort), fun _ => rfl⟩
  · rw [babble_trips henable hrecv hprbs hlong, getLink_setLink, getLink_setLink_other]
    refine ⟨rfl, fun _ => ⟨rfl, rfl, fun htwice => ?_, fun hnone => ?_⟩, fun hshort => absurd hshort (Nat.not_lt.mpr hlong)⟩
    · have hthird : 3 ≤ ((getLink (cellStart s.cell) l).cyc :: recentTrips (getLink (cellStart s.cell) l)).length := Nat.succ_le_succ htwice
      show (_ || decide _) = true
      rw [decide_eq_true hthird, Bool.or_true]
    · have hfirst : ¬ 3 ≤ ((getLink (cellStart s.cell) l).cyc :: recentTrips (getLink (cellStart s.cell) l)).length := by
        rw [recentTrips, hnone]
        exact Nat.not_le.mpr (by decide : 1 < 3)
      show (_ || decide _) = _
      rw [decide_eq_false hfirst, Bool.or_false]

theorem cellCycleStart_results {s : State} (hrecv : receives s.cell = true) :
    ∃ t, exec .cellCycleStart s = .next t ∧ t.cell.la.cyc = s.cell.la.cyc + 1 ∧ t.cell.lb.cyc = s.cell.lb.cyc + 1 ∧ t.cell.executed = false
      ∧ t.cell.decided = false ∧ t.cell.sel = none ∧ t.cell.preempt = none
      ∧ ((∀ f, f ∈ s.cell.la.frames → f.cycle ≠ s.cell.la.cyc) → 1 ≤ s.cell.la.coast → t.cell.la.qual = false) := by
  obtain ⟨t, hnext, h⟩ := noted_reaches (s := s) (o := execCellCycleStart s) rfl
  obtain ⟨hla, hlb⟩ := cellCycleStart_cyc (c := cellStart s.cell) hrecv
  obtain ⟨hexecuted, hdecided, hsel, hpreempt⟩ := cellCycleStart_cleared (c := cellStart s.cell) hrecv
  exact ⟨t, hnext, (h.noted (view := fun c : Cell => c.la.cyc) fun _ _ _ => rfl).trans hla, (h.noted (view := fun c : Cell => c.lb.cyc) fun _ _ _ => rfl).trans hlb,
    (h.noted (view := Cell.executed) fun _ _ _ => rfl).trans hexecuted, (h.noted (view := Cell.decided) fun _ _ _ => rfl).trans hdecided,
    (h.noted (view := Cell.sel) fun _ _ _ => rfl).trans hsel, (h.noted (view := Cell.preempt) fun _ _ _ => rfl).trans hpreempt,
    fun hframes hcoast => (h.noted (view := fun c : Cell => c.la.qual) fun _ _ _ => rfl).trans (cellCycleStart_unqualifies (c := cellStart s.cell) hrecv hframes hcoast)⟩

/-- Settles O58: the frames a cell receives, the bursts it sends, and its joining. -/
theorem cellFramesAndBursts : Obligations.CellFramesAndBursts := by
  unfold Obligations.CellFramesAndBursts
  refine ⟨fun s l f hrecv hsignal => frameReceive_results hrecv hsignal,
    fun s l bits raw k v x tick hrecv hx hsignal hbits hlen hv hcyc hheld htag hnode =>
      urgentBlockReceive_results tick hrecv hx hsignal hbits hlen hv hcyc hheld htag hnode,
    fun s l n w f k x hsend hx hslot hkey hfrom hkeep hframes => ?_, fun s l i e x hsend hx he hfirst hlast hbit hi hmode => ?_,
    fun s l j n x hsend hx hqual hmode hpick hwindow hnak hasked hprbs => joinBurstSend_results hsend hx hqual hmode hpick hwindow hnak hasked hprbs,
    fun s l cy hasked hlate => joinAckTimeout_results hasked hlate, fun s l hwait => joinNakWaitEnd_results hwait,
    fun s l e hexch hidle hslot => joinExchangeAbandon_results hexch hidle hslot, fun s l hsilent => linkSilenceListen_results hsilent,
    fun s l held limit on off x hrecv hprbs hx henable => babbleTrip_results hrecv hprbs hx henable, fun s hrecv => cellCycleStart_results hrecv⟩
  · subst hx
    exact slotBurstSend_results hsend hslot hkey hfrom hkeep hframes
  · subst hx
    exact mgmtBurstSend_results hsend he hfirst hlast hbit hi hmode

end Sys2Proof.Machine
end

section
/-! PROOF. What the parts of an ACE step leave of the arm, of the other arms and of the director (R243 to R279). -/

namespace Sys2Proof.Machine

/-! The relation: nothing is written, the other arms and the background blocks stay, the configuration changes with a bank alone -/

/-- A part of arm `a`'s step led from `d` to `t` and kept `view` of the arm. -/
structure StepKept {β : Type} (view : Arm → β) (a : Nat) (t d : Director) : Prop where
  writes : t.writes = d.writes
  bg : t.bg = d.bg
  other : ∀ b, b ≠ a → arm t b = arm d b
  bank : (arm d a).pBank = none → (arm t a).pBank = none ∧ t.cfg = d.cfg
  arm : view (arm t a) = view (arm d a)

namespace StepKept
variable {β : Type} {view : Arm → β} {a : Nat} {e t d : Director}

theorem refl (d : Director) : StepKept view a d d := ⟨rfl, rfl, fun _ _ => rfl, fun h => ⟨h, rfl⟩, rfl⟩

theorem trans (h : StepKept view a e t) (h' : StepKept view a t d) : StepKept view a e d where
  writes := h.writes.trans h'.writes
  bg := h.bg.trans h'.bg
  other b hb := (h.other b hb).trans (h'.other b hb)
  bank hnone := by
    obtain ⟨hmid, hcfg⟩ := h'.bank hnone
    obtain ⟨hend, hcfg'⟩ := h.bank hmid
    exact ⟨hend, hcfg'.trans hcfg⟩
  arm := h.arm.trans h'.arm

theorem ite {p : Prop} [Decidable p] {u : Director} (h : StepKept view a t d) (h' : StepKept view a u d) : StepKept view a (if p then t else u) d := by
  split
  · exact h
  · exact h'

theorem foldl {α : Type} {f : Director → α → Director} (h : ∀ d x, StepKept view a (f d x) d) (l : List α) (d : Director) : StepKept view a (l.foldl f d) d := by
  induction l generalizing d with
  | nil => exact refl d
  | cons x r ih => exact (ih _).trans (h d x)

/-- What depends on the view alone is kept with it. -/
theorem weaken {γ : Type} (g : β → γ) (h : StepKept view a t d) : StepKept (fun x => g (view x)) a t d where
  writes := h.writes
  bg := h.bg
  other := h.other
  bank := h.bank
  arm := congrArg g h.arm

theorem of_arms (hwrites : t.writes = d.writes) (hbg : t.bg = d.bg) (harms : t.arms = d.arms) (hcfg : t.cfg = d.cfg) : StepKept view a t d := by
  have harm (b : Nat) : Machine.arm t b = Machine.arm d b := by rw [Machine.arm, harms, Machine.arm]
  exact ⟨hwrites, hbg, fun b _ => harm b, fun h => ⟨by rw [harm, h], hcfg⟩, by rw [harm]⟩

theorem modArm {f : Arm → Arm} (d : Director) (hbank : ∀ x, (f x).pBank = x.pBank) (hview : ∀ x, view (f x) = view x) : StepKept view a (modArm d a f) d where
  writes := rfl
  bg := rfl
  other b hb := arm_modArm_other d hb f
  bank h := by
    rw [arm_modArm, hbank]
    exact ⟨h, rfl⟩
  arm := by rw [arm_modArm, hview]

theorem raise (d : Director) (source detail : Nat) (data : List Byte) : StepKept view a (raise d source detail data) d :=
  of_arms (raise_view (view := Director.writes) (fun _ _ => rfl) ..) (raise_bg ..) (raise_arms ..) (raise_cfg ..)

theorem raiseLim (d : Director) (key source detail : Nat) (data : List Byte) : StepKept view a (raiseLim d key source detail data) d :=
  .ite ((raise ..).trans (of_arms rfl rfl rfl rfl)) (refl d)

theorem decide_ (d : Director) (mb : Option Nat) (status : Nat) (payload : List Byte) : StepKept view a (decide_ d mb status payload) d := by
  cases mb with
  | none => exact refl d
  | some n => exact of_arms rfl rfl rfl rfl

theorem modRec (d : Director) (id : Nat) (f : CellRec → CellRec) : StepKept view a (modRec d id f) d := of_arms rfl rfl rfl rfl

/-! Mode changes and BLOCK requests (R61, R265, R272, R277) -/

theorem endInjection (hview : ∀ x i, view { x with inj := i } = view x) (d : Director) : StepKept view a (endInjection d a) d := by
  unfold Machine.endInjection
  split
  · exact refl d
  · exact (raise ..).trans (modArm d (fun _ => rfl) fun x => hview x none)

theorem changeMode (hview : ∀ x i m r, view { x with inj := i, mode := m, ramp := r } = view x) (d : Director) (m : ArmMode) (cause : Nat) :
    StepKept view a (changeMode d a m cause) d :=
  .ite (refl d) (.trans (raise ..) (.trans (modArm _ (fun _ => rfl) fun x => hview x x.inj _ _) (endInjection (fun x i => hview x i x.mode x.ramp) d)))

theorem enterBlocked (hview : ∀ x i m r o, view { x with inj := i, mode := m, ramp := r, outs := o } = view x) (d : Director) (cause : Nat) :
    StepKept view a (enterBlocked d a cause) d :=
  .trans (modArm _ (fun _ => rfl) fun x => hview x x.inj x.mode x.ramp _) (changeMode (fun x i m r => hview x i m r x.outs) d _ cause)

theorem blockRequest (hview : ∀ x i m r o, view { x with inj := i, mode := m, ramp := r, outs := o } = view x) (d : Director) (cause tick : Nat) :
    StepKept view a (blockRequest d a cause tick) d :=
  (of_arms (urgentArms_view (view := Director.writes) (fun _ _ _ _ _ => rfl) ..) (urgentArms_view (view := Director.bg) (fun _ _ _ _ _ => rfl) ..)
    (urgentArms_view (view := Director.arms) (fun _ _ _ _ _ => rfl) ..) (urgentArms_view (view := Director.cfg) (fun _ _ _ _ _ => rfl) ..)).trans (enterBlocked hview d cause)

/-! The Skeund frames of a step (R310, R312) -/

theorem countStuff (d : Director) (lg block n : Nat) : StepKept view a (countStuff d lg block n) d :=
  .ite (.trans (raiseLim ..) (of_arms rfl rfl rfl rfl)) (of_arms rfl rfl rfl rfl)

theorem sendBlock (d : Director) (k : Cycle) (block : Nat) (bytes : List Byte) : StepKept view a (sendBlock d k block bytes) d := by
  refine .ite (refl d) (foldl (fun d j => ?_) _ d)
  exact .trans (countStuff ..) (of_arms rfl rfl rfl rfl)

theorem converterSend (d : Director) (n : Nat) (k : Cycle) : StepKept view a (converterSend d n k) d := by
  unfold Machine.converterSend
  extract_lets empty led sent src
  have hled : StepKept view a led d := sendBlock ..
  have hsent : StepKept view a sent led := foldl (fun _ _ => sendBlock ..) _ _
  exact .ite (refl d) (.trans (t := sent) (of_arms rfl rfl rfl rfl) (hsent.trans hled))

theorem armSend (d : Director) (n : Nat) (k : Cycle) : StepKept view a (armSend d n k) d := .ite (refl d) (sendBlock ..)

end StepKept

/-! What the parts keep of the arm: where it stands before the law, and what the law gave -/

/-- The role of an arm and what it rests on. -/
def standing (x : Arm) : Cycle × Nat × Role := (x.seq, x.held, x.role)

/-- The same, with its mode and the mode command that waits. -/
def posture (x : Arm) : (Cycle × Nat × Role) × ArmMode × Option PendMode := (standing x, x.mode, x.pMode)

/-- The same as `standing`, with the input and the insertion of the step. -/
def applied (x : Arm) : (Cycle × Nat × Role) × List F32 × List F32 × Nat × Nat := (standing x, x.u, x.uApplied, x.nIns, x.w)

section
variable {a : Nat} {t d : Director}

theorem StepKept.standing (h : StepKept posture a t d) : StepKept standing a t d := h.weaken Prod.fst

theorem StepKept.mode (h : StepKept posture a t d) : (Machine.arm t a).mode = (Machine.arm d a).mode := (h.weaken (·.2.1)).arm

theorem StepKept.pMode (h : StepKept posture a t d) : (Machine.arm t a).pMode = (Machine.arm d a).pMode := (h.weaken (·.2.2)).arm

end

/-! Phase 1 after the role -/

section
variable (d : Director) (a : Nat) (k : Cycle)

theorem mirrorLoad_kept : StepKept standing a (mirrorLoad d a) d := by
  unfold mirrorLoad
  split
  · exact .refl d
  · refine .ite (.refl d) ?_
    extract_lets bs v fl c um loaded
    have hloaded : StepKept standing a loaded d := .modArm d (fun _ => rfl) fun _ => rfl
    exact .trans (.foldl (fun _ _ => .modRec ..) _ _) hloaded

theorem mirrorLoad_other (h : (arm d a).row ≠ 3) : mirrorLoad d a = d := by
  unfold mirrorLoad
  split
  · rfl
  · exact if_pos (by rw [decide_eq_true h]; rfl)

theorem setCommands_kept : StepKept posture a (setCommands d a k) d := by
  unfold setCommands
  extract_lets ready x moved excluded
  have hmoved : StepKept posture a moved d := by
    refine .foldl (fun d _ => ?_) _ _
    exact .trans (.decide_ ..) (.modArm d (fun _ => rfl) fun _ => rfl)
  have hexcluded : StepKept posture a excluded moved := by
    refine .foldl (fun d _ => ?_) _ _
    exact .trans (.decide_ ..) (.ite (.refl d) (.modArm d (fun _ => rfl) fun _ => rfl))
  exact .trans (.modArm excluded (fun _ => rfl) fun _ => rfl) (hexcluded.trans hmoved)

theorem injectStop_kept : StepKept posture a (injectStop d a k) d := by
  unfold injectStop
  split
  · refine .ite ?_ (.refl d)
    refine .trans (.decide_ ..) (.trans (.modArm _ (fun _ => rfl) fun _ => rfl) (.trans (.endInjection (fun _ _ => rfl) _) ?_))
    split
    · exact .decide_ ..
    · exact .refl d
  · exact .refl d

theorem loadX0_kept : StepKept posture a (loadX0 d a) d := .modArm d (fun _ => rfl) fun _ => rfl

theorem newDims_kept : StepKept posture a (newDims d a) d := .trans (.modArm _ (fun _ => rfl) fun _ => rfl) (loadX0_kept d a)

theorem cutRamp_kept (old : Cfg) : StepKept posture a (cutRamp old d a) d := by
  unfold cutRamp
  extract_lets len
  split
  · exact .ite (.trans (.raise ..) (.modArm d (fun _ => rfl) fun _ => rfl)) (.refl d)
  · exact .refl d

/-- The bank that waited for an arm is taken from it. -/
def bankTaken (d : Director) (a : Nat) : Director := modArm d a fun x => { x with pBank := none }

/-- What follows once the waiting bank of an arm is taken: the one part of a step that may change the configuration (R273). -/
theorem StepKept.of_bank {d n t : Director} {a : Nat} (h : StepKept posture a t n) (hn : ∃ c, n = { bankTaken d a with cfg := c })
    (hbank : (Machine.arm d a).pBank ≠ none) : StepKept posture a t d := by
  obtain ⟨c, rfl⟩ := hn
  have hother (b : Nat) (hb : b ≠ a) : Machine.arm (bankTaken d a) b = Machine.arm d b := arm_modArm_other d hb _
  have harm : posture (Machine.arm (bankTaken d a) a) = posture (Machine.arm d a) := by rw [bankTaken, arm_modArm]; rfl
  exact ⟨h.writes, h.bg, fun b hb => (h.other b hb).trans (hother b hb), fun hnone => absurd hnone hbank, h.arm.trans harm⟩

theorem swapBank_kept : StepKept posture a (swapBank d a k).1 d := by
  unfold swapBank
  split
  · exact .refl d
  · next b bs hsome =>
    have hbank : (arm d a).pBank ≠ none := by rw [hsome]; exact Option.some_ne_none _
    split
    · exact .refl d
    · extract_lets taken n
      have hn : ∃ c, n = { bankTaken d a with cfg := c } := ⟨_, rfl⟩
      have htaken : ∃ c, taken = { bankTaken d a with cfg := c } := ⟨_, rfl⟩
      split
      · exact .of_bank (newDims_kept n a) hn hbank
      · split
        · exact .of_bank (cutRamp_kept n a _) hn hbank
        · split
          · exact .of_bank (.trans (.raise ..) (.modArm taken (fun _ => rfl) fun _ => rfl)) htaken hbank
          · exact .of_bank (.refl n) hn hbank

theorem swapBank_none (h : (arm d a).pBank = none) : swapBank d a k = (d, false) := by
  unfold swapBank
  rw [h]

theorem modeCommand_kept (prevGood : Bool) (ovr : Option Nat) : StepKept standing a (modeCommand d a k prevGood ovr) d := by
  unfold modeCommand
  split
  · exact .refl d
  · refine .ite (.refl d) ?_
    extract_lets x done stop goto
    have hdone (d : Director) (st cause : Nat) : StepKept standing a (done d st cause) d := .trans (.decide_ ..) (.modArm d (fun _ => rfl) fun _ => rfl)
    have hmode (d : Director) (m : ArmMode) : StepKept standing a (changeMode d a m 0) d := .changeMode (fun _ _ _ _ => rfl) d m 0
    have hreset (m : ArmMode) : StepKept standing a (done (changeMode (modArm (loadX0 d a) a fun x => { x with numeric := false }) a m 0) stOK 0) d :=
      (hdone ..).trans ((hmode ..).trans (.trans (.modArm _ (fun _ => rfl) fun _ => rfl) (loadX0_kept d a).standing))
    have hgoto (m : ArmMode) {f : Arm → Arm} (hbank : ∀ x, (f x).pBank = x.pBank) (hview : ∀ x, standing (f x) = standing x) : StepKept standing a (goto m f) d :=
      (hdone ..).trans ((hmode ..).trans (.modArm d hbank hview))
    refine .ite (hdone ..) (.ite (.ite (hdone ..) ?_) ?_)
    · split
      · exact hreset .off
      · exact hreset .precharge
      · exact .ite (hdone ..) (hgoto _ (fun _ => rfl) fun _ => rfl)
      · exact hdone ..
    · split
      · exact hgoto _ (fun _ => rfl) fun _ => rfl
      · exact hgoto _ (fun _ => rfl) fun _ => rfl
      · exact .ite (hgoto _ (fun _ => rfl) fun _ => rfl) (hdone ..)
      · exact hgoto _ (fun _ => rfl) fun _ => rfl
      · exact hgoto _ (fun _ => rfl) fun _ => rfl
      · exact hgoto _ (fun _ => rfl) fun _ => rfl
      · exact hgoto _ (fun _ => rfl) fun _ => rfl
      · exact .refl d
      · exact .refl d
      · exact hdone ..

theorem modeCommand_none (prevGood : Bool) (ovr : Option Nat) (h : (arm d a).pMode = none) : modeCommand d a k prevGood ovr = d := by
  unfold modeCommand
  rw [h]

theorem usability_kept : StepKept posture a (usability d a k) d := by
  unfold usability
  extract_lets mm
  refine .foldl (fun d p => ?_) _ _
  dsimp only
  refine .ite (.refl d) (.ite (.modRec ..) (.ite (.refl d) (.ite ?_ (.modRec ..))))
  exact .trans (.raise ..) (.trans (.modRec ..) (.modRec ..))

theorem moveRefs_kept : StepKept posture a (moveRefs d a) d := .modArm d (fun _ => rfl) fun _ => rfl

theorem classify_kept : StepKept posture a (classify d a) d := by
  unfold classify
  extract_lets x
  split
  extract_lets cs
  clear_value cs
  exact .modArm d (fun _ => rfl) fun _ => rfl

/-- Phase 1 after the role and the mirror leaves what the role rests on. -/
theorem gather_kept (prevGood : Bool) (ovr : Option Nat) : StepKept standing a (gather d a k prevGood ovr).1 d := by
  unfold gather
  extract_lets d1
  have h1 : StepKept posture a d1 d := (injectStop_kept ..).trans (setCommands_kept ..)
  have h2 := (swapBank_kept d1 a k).trans h1
  split
  next d2 pre hswap =>
  rw [hswap] at h2
  extract_lets d3 c d4
  have h3 : StepKept standing a d3 d := .trans (.ite (.refl d2) (modeCommand_kept ..)) h2.standing
  have h4 : StepKept standing a d4 d3 := .ite (.modArm d3 (fun _ => rfl) fun _ => rfl) (.refl d3)
  exact (classify_kept ..).standing.trans ((usability_kept ..).standing.trans ((moveRefs_kept ..).standing.trans (h4.trans h3)))

/-- Without a mode command and a bank it leaves the mode as well. -/
theorem gather_idle (prevGood : Bool) (ovr : Option Nat) (hmode : (arm d a).pMode = none) (hbank : (arm d a).pBank = none) :
    StepKept posture a (gather d a k prevGood ovr).1 d := by
  unfold gather
  extract_lets d1
  have h1 : StepKept posture a d1 d := (injectStop_kept ..).trans (setCommands_kept ..)
  obtain ⟨hbank1, -⟩ := h1.bank hbank
  have hnone := swapBank_none d1 a k hbank1
  split
  next d2 pre hswap =>
  obtain ⟨rfl, rfl⟩ := Prod.mk.inj (hnone.symm.trans hswap)
  rw [modeCommand_none d1 a k prevGood ovr (h1.pMode.trans hmode)]
  extract_lets d3 c d4
  have h3 : StepKept posture a d3 d := .trans (.ite (.refl d1) (.refl d1)) h1
  clear_value d3 c
  have h4 : StepKept posture a d4 d3 := .ite (.modArm d3 (fun _ => rfl) fun _ => rfl) (.refl d3)
  exact (classify_kept ..).trans ((usability_kept ..).trans ((moveRefs_kept ..).trans (h4.trans h3)))

end

end Sys2Proof.Machine
end

section
/-! PROOF. The phases of an ACE step from the role to the results (R243 to R279, R321, R322). -/

namespace Sys2Proof.Machine

/-! The role (R321, R322, R326) -/

/-- An arm whose isolation commands of the step have acted. -/
def isolationsRun (d : Director) (a : Nat) (k : Cycle) : Director :=
  ((arm d a).pIsolate.filter fun p => due p.apply k).foldl (fun d p => modArm d a fun x => { x with isolate := p.flag }) d

/-- The leases counted and the twin's absence with them (R321). -/
def leasesCounted (d : Director) (a : Nat) (k : Cycle) : Director :=
  modArm (isolationsRun d a k) a fun x => { x with
    held := heldCount (isolationsRun d a k) a k, sinceLost := if (isolationsRun d a k).sk.twinAlive then 0 else (arm (isolationsRun d a k) a).sinceLost + 1 }

/-- The row that decides the role (R322). -/
def rowFound (d : Director) (a : Nat) (k : Cycle) : Role × Nat := roleRow (leasesCounted d a k) a k (heldCount (isolationsRun d a k) a k)

/-- The role of the step, before anything follows from it. -/
def roleSet (d : Director) (a : Nat) (k : Cycle) : Director :=
  modArm (leasesCounted d a k) a fun x => { x with role := (rowFound d a k).1, row := (rowFound d a k).2 }

/-- The row with what the role rests on. -/
def stance (x : Arm) : ((Cycle × Nat × Role) × ArmMode × Option PendMode) × Nat := (posture x, x.row)

theorem isolationsRun_kept {β : Type} {view : Arm → β} (hview : ∀ x i, view { x with isolate := i } = view x) (d : Director) (a : Nat) (k : Cycle) :
    StepKept view a (isolationsRun d a k) d := by
  refine .foldl (fun d p => ?_) _ _
  exact .modArm d (fun _ => rfl) fun x => hview x p.flag

theorem roleSet_kept {β : Type} {view : Arm → β} (hview : ∀ x i h n r w, view { x with isolate := i, held := h, sinceLost := n, role := r, row := w } = view x)
    (d : Director) (a : Nat) (k : Cycle) : StepKept view a (roleSet d a k) d := by
  have hruns : StepKept view a (isolationsRun d a k) d := isolationsRun_kept (fun x i => hview x i x.held x.sinceLost x.role x.row) d a k
  have hcounted : StepKept view a (leasesCounted d a k) (isolationsRun d a k) := .modArm _ (fun _ => rfl) fun x => hview x x.isolate _ _ x.role x.row
  exact .trans (.modArm _ (fun _ => rfl) fun x => hview x x.isolate x.held x.sinceLost _ _) (hcounted.trans hruns)

/-- What follows from the role of a step leaves the role; in an arm that does not operate, the mode too. -/
theorem roleSelect_kept (d : Director) (a : Nat) (k : Cycle) : StepKept standing a (roleSelect d a k) (roleSet d a k)
    ∧ (operating (arm d a).mode = false → StepKept stance a (roleSelect d a k) (roleSet d a k)) := by
  unfold roleSelect
  extract_lets iso d1 h old lost d2
  have hrow : roleRow d2 a k h = rowFound d a k := rfl
  split
  next r row hfound =>
  rw [hrow] at hfound
  extract_lets d3 d4 d5 d6 oc reply released failed x handed y alone counted told marked taken
  have hset : d3 = roleSet d a k := by
    unfold roleSet
    rw [hfound]
    rfl
  have hreply (d : Director) (mb : Option Nat) (st : Nat) (hh : Cycle) : StepKept stance a (reply d mb st hh) d := .decide_ ..
  have hreleased (d : Director) : StepKept stance a (modArm d a fun x => { x with yielding := none, pHandover := none }) d := .modArm d (fun _ => rfl) fun _ => rfl
  have h4 : StepKept stance a d4 d3 := .ite (.refl d3) (.trans (.raise ..) (.modArm d3 (fun _ => rfl) fun _ => rfl))
  have h5 : StepKept stance a d5 d4 := .foldl (fun _ _ => .decide_ ..) _ _
  have h6 : StepKept stance a d6 d5 := .modArm d5 (fun _ => rfl) fun _ => rfl
  have hhanded : StepKept stance a handed d6 := by
    simp only [handed]
    split
    · refine .ite ((hreply ..).trans (hreleased d6)) (.ite ((hreply ..).trans (.trans (.raise ..) ?_)) (.refl d6))
      exact .trans (.modArm released (fun _ => rfl) fun _ => rfl) (hreleased d6)
    · refine .ite (.ite (.modArm d6 (fun _ => rfl) fun _ => rfl) ((hreply ..).trans (.modArm d6 (fun _ => rfl) fun _ => rfl))) (.refl d6)
    · exact .refl d6
  have hcounted : StepKept stance a counted handed := .modArm handed (fun _ => rfl) fun _ => rfl
  have htold : StepKept stance a told handed := .ite (.ite hcounted (.trans (.raise ..) hcounted)) (.refl handed)
  have hmarked : StepKept stance a marked (roleSet d a k) :=
    hset ▸ .trans (.modArm told (fun _ => rfl) fun _ => rfl) (htold.trans (hhanded.trans (h6.trans (h5.trans h4))))
  have hstanding : StepKept standing a marked (roleSet d a k) := hmarked.weaken (·.1.1)
  refine ⟨.ite (.trans (.blockRequest (fun _ _ _ _ _ => rfl) ..) (.trans (.raise ..) (.trans (.modArm marked (fun _ => rfl) fun _ => rfl) hstanding))) hstanding, fun hidle => ?_⟩
  have hy : y.mode = (arm d a).mode := by
    have hhands : StepKept Arm.mode a handed d3 := (hhanded.trans (h6.trans (h5.trans h4))).weaken (·.1.2.1)
    exact hhands.arm.trans (hset ▸ (roleSet_kept (view := Arm.mode) (fun _ _ _ _ _ _ => rfl) d a k).arm)
  rw [if_neg (by rw [hy, hidle, Bool.and_false]; exact Bool.false_ne_true)]
  exact hmarked

section
variable {d : Director} {a : Nat} {k : Cycle} (hcommands : (arm d a).pIsolate = [])
include hcommands

theorem isolationsRun_none : isolationsRun d a k = d := by
  rw [isolationsRun, hcommands]
  rfl

theorem roleSet_held : (arm (roleSet d a k) a).held = heldCount d a k := by
  rw [roleSet, arm_modArm, leasesCounted, isolationsRun_none hcommands, arm_modArm]

theorem rowFound_of : rowFound d a k = roleRow (leasesCounted d a k) a k (heldCount d a k) ∧ (arm (leasesCounted d a k) a).isolate = (arm d a).isolate
    ∧ anyProven (leasesCounted d a k) a = anyProven d a := by
  rw [rowFound, leasesCounted, isolationsRun_none hcommands, arm_modArm]
  exact ⟨rfl, rfl, rfl⟩

theorem roleSet_isolated (h : (arm d a).isolate = true ∨ anyProven d a = false) :
    (arm (roleSet d a k) a).role = .isolated ∧ (arm (roleSet d a k) a).row = 1 := by
  obtain ⟨hrow, hisolate, hproven⟩ := rowFound_of (k := k) hcommands
  have hfound : rowFound d a k = (.isolated, 1) := by
    rw [hrow, roleRow]
    refine if_pos ?_
    rw [hisolate, hproven]
    rcases h with h | h
    · rw [h, Bool.true_or]
    · rw [h, Bool.not_false, Bool.or_true]
  rw [roleSet, arm_modArm, hfound]
  exact ⟨rfl, rfl⟩

theorem roleSet_authority (hisolated : (arm d a).isolate = false) (hany : anyProven d a = true) (hquorum : quorum (cfg d) a ≤ heldCount d a k) (hheld : 0 < heldCount d a k) :
    (arm (roleSet d a k) a).role = .authority := by
  obtain ⟨hrow, hisolate, hproven⟩ := rowFound_of (k := k) hcommands
  have hcfg : cfg (leasesCounted d a k) = cfg d := by rw [leasesCounted, isolationsRun_none hcommands]; rfl
  have hfound : rowFound d a k = (.authority, 2) := by
    rw [hrow, roleRow]
    refine (if_neg ?_).trans (if_pos ?_)
    · rw [hisolate, hproven, hisolated, hany]
      decide
    · rw [hcfg, Bool.and_eq_true, decide_eq_true_eq, decide_eq_true_eq]
      exact ⟨hquorum, hheld⟩
  rw [roleSet, arm_modArm, hfound]

end

/-! Phase 2 and the automatic changes (R252 to R256, R282) -/

section
variable (d : Director) (a : Nat) (k : Cycle)

theorem innovate_kept : StepKept posture a (innovate d a k) d := by
  unfold innovate
  extract_lets c n step
  refine .foldl (fun d i => ?_) _ _
  unfold step
  refine .ite (.modArm d (fun _ => rfl) fun _ => rfl) ?_
  split
  next yv fr sub hy =>
  extract_lets x o y yh sameRun run y0 moved frozen bad nu o' d1 d2 d3 d4
  have h1 : StepKept posture a d1 d := .modArm d (fun _ => rfl) fun _ => rfl
  have h2 : StepKept posture a d2 d1 := .ite (.modArm d1 (fun _ => rfl) fun _ => rfl) (.refl d1)
  have h3 : StepKept posture a d3 d2 := .ite (.trans (.raise ..) (.modArm d2 (fun _ => rfl) fun _ => rfl)) (.refl d2)
  have h4 : StepKept posture a d4 d3 := .modArm d3 (fun _ => rfl) fun _ => rfl
  have h := h3.trans (h2.trans h1)
  exact .ite (.ite (.trans (.raise ..) (h4.trans h)) (h4.trans h)) h

theorem redundancy_kept : StepKept standing a (redundancy d a) d := by
  unfold redundancy
  extract_lets c x lim d1 run d2 d3
  have h1 : StepKept standing a d1 d := .ite (.raise ..) (.refl d)
  have h2 : StepKept standing a d2 d1 := .modArm d1 (fun _ => rfl) fun _ => rfl
  have h3 : StepKept standing a d3 d2 := .trans (.raise ..) (.modArm d2 (fun _ => rfl) fun _ => rfl)
  refine .ite (.modArm d (fun _ => rfl) fun _ => rfl) (.ite (.ite ?_ ?_) (h2.trans h1))
  · exact .trans (.blockRequest (fun _ _ _ _ _ => rfl) ..) (h3.trans (h2.trans h1))
  · exact .trans (.enterBlocked (fun _ _ _ _ _ => rfl) ..) (h2.trans h1)

theorem redundancy_idle (h : operating (arm d a).mode = false) : StepKept posture a (redundancy d a) d := by
  unfold redundancy
  extract_lets c x lim
  rw [if_pos (by rw [h]; rfl)]
  exact .modArm d (fun _ => rfl) fun _ => rfl

theorem fallback_kept {β : Type} {view : Arm → β} (hview : ∀ x i m r o u n, view { x with
    inj := i, mode := m, ramp := r, outs := o, uMan := u, cnt := { x.cnt with fallback := n } } = view x) : StepKept view a (fallback d a) d := by
  have hblock (x : Arm) (i : Option Injection) (m : ArmMode) (r : Option (List F32 × Nat)) (o : Table OutState) :
      view { x with inj := i, mode := m, ramp := r, outs := o } = view x := hview x i m r o x.uMan x.cnt.fallback
  unfold fallback
  extract_lets c x nl counted told
  have hcounted : StepKept view a counted d := .modArm d (fun _ => rfl) fun x => hview x x.inj x.mode x.ramp x.outs x.uMan _
  have htold : StepKept view a told d := .trans (.raise ..) hcounted
  refine .ite (.ite (.trans (.raise ..) ?_) (.ite ?_ ?_)) (.refl d)
  · exact .trans (.changeMode (fun x i m r => hblock x i m r x.outs) ..) (.trans (.modArm counted (fun _ => rfl) fun x => hview x x.inj x.mode x.ramp x.outs _ x.cnt.fallback) hcounted)
  · exact .trans (.blockRequest hblock ..) htold
  · exact .trans (.enterBlocked hblock ..) htold

theorem fallback_other (h : (arm d a).mode ≠ .auto) : fallback d a = d :=
  if_neg (by rw [decide_eq_false h, Bool.false_and]; exact Bool.false_ne_true)

/-- Phase 2 with its automatic changes leaves what the role rests on. -/
theorem innovation_kept (prevGood : Bool) (ovr : Option Nat) : StepKept standing a (innovation d a k prevGood ovr).1 d := by
  unfold innovation
  extract_lets d1 m0 d2 m1 d3 ovr'
  have h1 : StepKept standing a d1 d := (innovate_kept ..).standing
  have h2 : StepKept standing a d2 d1 := redundancy_kept ..
  have h3 : StepKept standing a d3 d2 := fallback_kept _ _ fun _ _ _ _ _ _ _ => rfl
  exact .ite ((modeCommand_kept ..).trans (h3.trans (h2.trans h1))) (h3.trans (h2.trans h1))

theorem not_auto {m : ArmMode} (h : operating m = false) : m ≠ .auto := by
  rintro rfl
  exact absurd h (by decide)

/-- In an arm that does not operate and has no mode command it leaves the mode. -/
theorem innovation_idle (prevGood : Bool) (ovr : Option Nat) (hmode : operating (arm d a).mode = false) (hnone : (arm d a).pMode = none) :
    StepKept posture a (innovation d a k prevGood ovr).1 d := by
  unfold innovation
  extract_lets d1 m0 d2 m1 d3 ovr'
  have h1 : StepKept posture a d1 d := innovate_kept ..
  have h2 : StepKept posture a d2 d := (redundancy_idle _ _ (by rw [h1.mode]; exact hmode)).trans h1
  have h3 : d3 = d2 := fallback_other _ _ (by rw [h2.mode]; exact not_auto hmode)
  have h3' : StepKept posture a d3 d := h3 ▸ h2
  rw [modeCommand_none _ _ _ _ _ (h3'.pMode.trans hnone)]
  exact .ite h3' h3'

/-! Phases 3 to 5 (R258 to R262, R271 to R274) -/

theorem predictI_kept : StepKept posture a (predictI d a) d := by
  unfold predictI
  extract_lets c x i o ip
  split
  next fld sat hsat =>
  extract_lets d1
  have h1 : StepKept posture a d1 d := .modArm d (fun _ => rfl) fun _ => rfl
  exact .ite (.trans (.raiseLim ..) (.trans (.modArm d1 (fun _ => rfl) fun _ => rfl) h1)) h1

theorem predict_kept : StepKept posture a (predict d a k) d := by
  unfold predict
  extract_lets c x s n nom d1 av vb
  have h1 : StepKept posture a d1 d := by
    refine .foldl (fun d p => ?_) _ _
    extract_lets id r cc u est qp hat
    exact .ite (.refl d) (.modRec ..)
  exact .trans (.modArm d1 (fun _ => rfl) fun _ => rfl) h1

theorem manualCommands_kept : StepKept posture a (manualCommands d a k) d := by
  unfold manualCommands
  extract_lets d1
  have h1 : StepKept posture a d1 d := by
    refine .foldl (fun d p => ?_) _ _
    exact .ite (.trans (.decide_ ..) (.modArm d (fun _ => rfl) fun _ => rfl)) (.decide_ ..)
  exact .trans (.modArm d1 (fun _ => rfl) fun _ => rfl) h1

theorem transfer_kept (r : List F32) : StepKept standing a (transfer d a k r) d := by
  unfold transfer
  split
  · next p hp =>
    extract_lets x c uSrc d1 d2 d3
    refine .ite (.refl d) ?_
    split
    next x' er lim hlim =>
    extract_lets d4
    have h1 : StepKept standing a d1 d := .modArm d (fun _ => rfl) fun _ => rfl
    have h2 : StepKept standing a d2 d1 := .modArm d1 (fun _ => rfl) fun _ => rfl
    have h3 : StepKept standing a d3 d := .changeMode (fun _ _ _ _ => rfl) ..
    have h4 : StepKept standing a d4 d3 := .modArm d3 (fun _ => rfl) fun _ => rfl
    exact .ite (.trans (.decide_ ..) (.trans (.raise ..) (h2.trans h1))) (.trans (.decide_ ..) (h4.trans h3))
  · exact .refl d

theorem transfer_none (r : List F32) (h : (arm d a).pMode = none) : transfer d a k r = d := by
  unfold transfer
  rw [h]

theorem presetSwap_kept (r : List F32) : StepKept posture a (presetSwap d a r) d := by
  unfold presetSwap
  refine .ite (.refl d) ?_
  extract_lets x
  split
  next x' er lim hlim =>
  exact .modArm d (fun _ => rfl) fun _ => rfl

theorem injectStart_kept : StepKept posture a (injectStart d a k) d := by
  unfold injectStart
  split
  · exact .ite (.trans (.decide_ ..) (.modArm d (fun _ => rfl) fun _ => rfl)) (.refl d)
  · exact .refl d

theorem select_kept (raw : List F32) : StepKept standing a (select d a raw) d := by
  unfold select
  extract_lets c m x idle off base s base' cl u d1
  have h1 : StepKept standing a d1 d := by
    refine .foldl (fun d v => ?_) _ _
    exact .ite (.trans (.raiseLim ..) (.modArm d (fun _ => rfl) fun _ => rfl)) (.refl d)
  refine .ite (.modArm d (fun _ => rfl) fun _ => rfl) ?_
  split
  next ni w wr pos ap os tc hconvert =>
  extract_lets d2 d3
  have h2 : StepKept standing a d2 d1 := .ite (.trans (.raiseLim ..) (.modArm d1 (fun _ => rfl) fun _ => rfl)) (.refl d1)
  have h3 : StepKept standing a d3 d2 := .ite (.trans (.raiseLim ..) (.modArm d2 (fun _ => rfl) fun _ => rfl)) (.refl d2)
  exact .trans (.modArm d3 (fun _ => rfl) fun _ => rfl) (h3.trans (h2.trans h1))

/-- The idle input of an arm (R264). -/
def idleInput (c : Cfg) (a : Nat) : List F32 := (List.range (dimM c a)).map fun i => parmF (armS c a) 16 i 0

theorem select_idle (raw : List F32) (h : operating (arm d a).mode = false) :
    applied (arm (select d a raw) a) = (standing (arm d a), idleInput (cfg d) a, idleInput (cfg d) a, 0, 0) := by
  unfold select
  extract_lets c m x idle
  rw [if_pos (by rw [h]; rfl), arm_modArm]
  rfl

end

end Sys2Proof.Machine
end

section
/-! PROOF. The ends of an ACE step: phases 6 to 8, the steps that commit nothing, and the step as a whole (R54, R55, R243, R256, R257, R297). -/

namespace Sys2Proof.Machine

/-! Phases 6 and 7, the ramp and the injection (R247, R264, R272, R277) -/

section
variable (d : Director) (a : Nat) (k : Cycle)

theorem rampStep_kept : StepKept applied a (rampStep d a) d := by
  unfold rampStep
  split
  · extract_lets br zero d1
    have h1 : StepKept applied a d1 d := .ite (.raise ..) (.refl d)
    exact .trans (.modArm d1 (fun _ => rfl) fun _ => rfl) h1
  · exact .refl d

theorem injectStep_kept {β : Type} {view : Arm → β} (hview : ∀ x i, view { x with inj := i } = view x) (lost : Bool) : StepKept view a (injectStep d a lost) d := by
  unfold injectStep
  split
  · extract_lets i d1
    have h1 : StepKept view a d1 d := .modArm d (fun _ => rfl) fun x => hview x _
    exact .ite (.trans (.endInjection hview d1) h1) h1
  · exact .refl d

theorem update_kept (held : List F32) : StepKept applied a (update d a held) d := by
  unfold update
  extract_lets c x n nu xp is qOf cl x2 d1 d2 d3 tick
  have h1 : StepKept applied a d1 d := by
    refine .foldl (fun d v => ?_) _ _
    exact .ite (.trans (.raiseLim ..) (.modArm d (fun _ => rfl) fun _ => rfl)) (.refl d)
  have h2 : StepKept applied a d2 d1 := .modArm d1 (fun _ => rfl) fun _ => rfl
  have h3 : StepKept applied a d3 d2 := .trans (.raise ..) (.modArm d2 (fun _ => rfl) fun _ => rfl)
  have hfailed : StepKept applied a d3 d := h3.trans (h2.trans h1)
  exact .ite (.trans (.modArm d1 (fun _ => rfl) fun _ => rfl) h1)
    (.ite (.trans (.blockRequest (fun _ _ _ _ _ => rfl) ..) hfailed) (.trans (.enterBlocked (fun _ _ _ _ _ => rfl) ..) hfailed))

/-! Phases 3 to 8 (R245) -/

/-- Phases 3 to 5 until the law runs. -/
def transferred (d : Director) (a : Nat) (k : Cycle) (pre : Bool) : Director :=
  let r := injectedRef (cfg d) (arm d a) k
  let d := manualCommands (transfer (predict (predictI d a) a k) a k r) a k
  injectStart (if pre then presetSwap d a r else d) a k

theorem transferred_kept (pre : Bool) : StepKept standing a (transferred d a k pre) d := by
  unfold transferred
  extract_lets r d1
  have h0 : StepKept standing a (predict (predictI d a) a k) d := ((predict_kept ..).trans (predictI_kept ..)).standing
  have h1 : StepKept standing a d1 d := (manualCommands_kept ..).standing.trans ((transfer_kept ..).trans h0)
  exact (injectStart_kept ..).standing.trans (.ite ((presetSwap_kept ..).standing.trans h1) h1)

theorem transferred_idle (pre : Bool) (h : (arm d a).pMode = none) : StepKept posture a (transferred d a k pre) d := by
  unfold transferred
  have h0 : StepKept posture a (predict (predictI d a) a k) d := (predict_kept ..).trans (predictI_kept ..)
  extract_lets r d1
  have h1 : StepKept posture a d1 d := by
    simp only [d1]
    rw [transfer_none _ _ _ _ (h0.pMode.trans h)]
    exact (manualCommands_kept ..).trans h0
  exact (injectStart_kept ..).trans (.ite ((presetSwap_kept ..).trans h1) h1)

/-- The law's input and its conversion stand until the end of phase 8. -/
theorem evaluate_kept (pre : Bool) : ∃ raw, StepKept applied a (evaluate d a k pre) (select (transferred d a k pre) a raw) := by
  unfold evaluate
  extract_lets r d1 held d2 d3 d4 off d5 pr d6 d7
  refine ⟨lawU (cfg d4) a (arm d4 a).xhat r, ?_⟩
  have h6 : StepKept applied a d6 d5 := .ite (rampStep_kept ..) (.refl d5)
  have h7 : StepKept applied a d7 d6 := .trans (injectStep_kept _ _ (fun _ _ => rfl) _) (update_kept ..)
  exact .trans (.modArm d7 (fun _ => rfl) fun _ => rfl) (h7.trans h6)

theorem settleModes_kept {β : Type} {view : Arm → β} (pos : Nat) (m : ArmMode) (cmd : Option PendMode) (cause : Option Nat) :
    StepKept view a (settleModes d a pos m cmd cause) d := by
  have hone (d : Director) (x : Nat) : StepKept view a (oneModeEvent d a pos m x) d := by
    unfold oneModeEvent
    extract_lets evs mine src filtered
    have hfiltered : StepKept view a filtered d := .of_arms rfl rfl rfl rfl
    exact .ite (.refl d) (.ite hfiltered (.trans (.raise ..) hfiltered))
  unfold settleModes
  split
  · exact .refl d
  · extract_lets d1
    refine .trans (hone ..) ?_
    simp only [d1]
    split
    · exact .decide_ ..
    · exact .refl d

/-! The calibration snapshot (R297) -/

theorem calBlock_kept {β : Type} {view : Arm → β} (hview : ∀ x b t n, view { x with est := { x.est with block := b, took := t }, cnt := { x.cnt with calSkip := n } } = view x) :
    StepKept view a (calBlock d a k) d := by
  unfold calBlock
  extract_lets x set b
  have hset (d : Director) (b : Option Nat) : StepKept view a (set d b) d := .modArm d (fun _ => rfl) fun x => hview x b false x.cnt.calSkip
  refine .ite (hset ..) (.ite (.refl d) ((hset ..).trans (.ite ?_ (.refl d))))
  exact .modArm d (fun _ => rfl) fun x => hview x x.est.block x.est.took _

/-- What a completed step leaves in its arm. -/
def completed (x : Arm) : ((Cycle × Nat × Role) × List F32 × List F32 × Nat × Nat) × Bool × Cycle × Nat := (applied x, x.stepped, x.cycle, x.tAce)

theorem calSnapshot_kept : StepKept completed a (calSnapshot d a k) d := by
  unfold calSnapshot
  extract_lets d1 c x took src node s g cells div okDiv same okOut okCells okFly codes y full snap d2 d3
  have h1 : StepKept completed a d1 d := calBlock_kept _ _ _ fun _ _ _ _ => rfl
  have h2 : StepKept completed a d2 d1 := .ite (.trans (.raiseLim ..) (.modArm d1 (fun _ => rfl) fun _ => rfl)) (.refl d1)
  have h3 : StepKept completed a d3 d1 := .ite (.trans (.modArm d2 (fun _ => rfl) fun _ => rfl) h2) (.modArm d1 (fun _ => rfl) fun _ => rfl)
  exact .ite h1 (h3.trans h1)

/-- The step is committed: the arm has the results of cycle `k` (R243). -/
def stepClosed (d : Director) (a : Nat) (k : Cycle) : Director :=
  modArm d a fun x => { x with stepped := true, cycle := k, tAce := tAce (cfg d) a, flagHist := (k, armFlags d a k) :: x.flagHist.take 1 }

/-- A step without a fault runs its phases from the role on; an arm that does not operate and has no mode command keeps its mode until the law. -/
theorem aceRun_run : ∃ e pre pos m cmd cause, aceRun d a .none =
      calSnapshot (stepClosed (settleModes (evaluate e a (stepCycle d) pre) a pos m cmd cause) a (stepCycle d)) a (stepCycle d)
    ∧ StepKept standing a e (roleSet d a (stepCycle d))
    ∧ (operating (arm d a).mode = false → (arm d a).pMode = none → (arm d a).pBank = none → (arm (roleSet d a (stepCycle d)) a).row ≠ 3 →
        StepKept posture a e (roleSet d a (stepCycle d))) := by
  unfold aceRun
  extract_lets k oc counted prevGood pos cmd m0 d1 ovr d2 m
  obtain ⟨hstanding, hidle⟩ := roleSelect_kept d a k
  have h2 : StepKept standing a d2 (roleSet d a k) := (mirrorLoad_kept ..).trans hstanding
  split
  · next hfault => cases hfault
  · next hfault => cases hfault
  split
  next d3 pre hgather =>
  have h3 : StepKept standing a d3 d2 := by
    have h := gather_kept d2 a k prevGood ovr
    rwa [hgather] at h
  split
  next d4 ovr2 hinnovation =>
  have h4 : StepKept standing a d4 d3 := by
    have h := innovation_kept d3 a k prevGood ovr
    rwa [hinnovation] at h
  refine ⟨d4, pre, pos, m, cmd, _, rfl, h4.trans (h3.trans h2), fun hmode hnone hbank hrow => ?_⟩
  have hset : StepKept (fun x => (x.mode, x.pMode)) a (roleSet d a k) d := roleSet_kept (fun _ _ _ _ _ _ => rfl) d a k
  have hstance := hidle hmode
  have hposture : StepKept posture a d1 (roleSet d a k) := hstance.weaken Prod.fst
  have hmode1 : (arm d1 a).mode = (arm d a).mode := hposture.mode.trans (hset.weaken Prod.fst).arm
  have hnone1 : (arm d1 a).pMode = none := (hposture.pMode.trans (hset.weaken Prod.snd).arm).trans hnone
  obtain ⟨hbankset, -⟩ := hset.bank hbank
  obtain ⟨hbank1, -⟩ := hposture.bank hbankset
  have hrow1 : StepKept Arm.row a d1 (roleSet d a k) := hstance.weaken Prod.snd
  have hload : d2 = d1 := mirrorLoad_other d1 a (by rw [hrow1.arm]; exact hrow)
  have hgathered : StepKept posture a d3 d1 := by
    have h := gather_idle d1 a k prevGood ovr hnone1 hbank1
    rwa [← hload, hgather, hload] at h
  have hinnovated : StepKept posture a d4 d3 := by
    have h := innovation_idle d3 a k prevGood ovr (by rw [hgathered.mode, hmode1, hmode]) (by rw [hgathered.pMode, hnone1])
    rwa [hinnovation] at h
  exact hinnovated.trans (hgathered.trans hposture)

theorem stepClosed_kept : StepKept applied a (stepClosed d a k) d := .modArm d (fun _ => rfl) fun _ => rfl

theorem stepClosed_completed : completed (arm (stepClosed d a k) a) = (applied (arm d a), true, k, tAce (cfg d) a) := by
  rw [stepClosed, arm_modArm]
  rfl

end

section
variable (d : Director) (a : Nat)

/-- What a step that completes leaves in its arm, and what it rests on (R243, R245, R321). -/
theorem aceRun_completes : StepKept standing a (aceRun d a .none) (roleSet d a (stepCycle d)) ∧ (arm (aceRun d a .none) a).stepped = true
    ∧ (arm (aceRun d a .none) a).cycle = stepCycle d ∧ ((arm d a).pBank = none → (arm (aceRun d a .none) a).tAce = tAce (cfg d) a) := by
  obtain ⟨e, pre, pos, m, cmd, cause, hrun, he, -⟩ := aceRun_run d a
  obtain ⟨raw, hevaluated⟩ := evaluate_kept e a (stepCycle d) pre
  have hset : StepKept Arm.seq a (roleSet d a (stepCycle d)) d := roleSet_kept (fun _ _ _ _ _ _ => rfl) d a _
  have hselected : StepKept standing a (select (transferred e a (stepCycle d) pre) a raw) (roleSet d a (stepCycle d)) :=
    (select_kept ..).trans ((transferred_kept ..).trans he)
  have hsettled : StepKept standing a (settleModes (evaluate e a (stepCycle d) pre) a pos m cmd cause) (roleSet d a (stepCycle d)) :=
    (settleModes_kept ..).trans ((hevaluated.weaken Prod.fst).trans hselected)
  rw [hrun]
  generalize settleModes (evaluate e a (stepCycle d) pre) a pos m cmd cause = x at hsettled
  have hsnap := calSnapshot_kept (stepClosed x a (stepCycle d)) a (stepCycle d)
  have hcompleted := hsnap.arm.trans (stepClosed_completed x a (stepCycle d))
  refine ⟨(hsnap.weaken (·.1.1)).trans (((stepClosed_kept ..).weaken Prod.fst).trans hsettled), congrArg (·.2.1) hcompleted, congrArg (·.2.2.1) hcompleted, fun hbank => ?_⟩
  obtain ⟨hbankset, hcfgset⟩ := hset.bank hbank
  obtain ⟨-, hcfg⟩ := hsettled.bank hbankset
  have hsame : cfg x = cfg d := by rw [cfg, hcfg, hcfgset]; rfl
  rw [← hsame]
  exact congrArg (·.2.2.2) hcompleted

/-- An arm that does not operate, and that no command or bank moves, applies its idle input (R264). -/
theorem aceRun_idles (hmode : operating (arm d a).mode = false) (hnone : (arm d a).pMode = none) (hbank : (arm d a).pBank = none)
    (hrow : (arm (roleSet d a (stepCycle d)) a).row ≠ 3) :
    (arm (aceRun d a .none) a).u = idleInput (cfg d) a ∧ (arm (aceRun d a .none) a).uApplied = idleInput (cfg d) a ∧ (arm (aceRun d a .none) a).nIns = 0
      ∧ (arm (aceRun d a .none) a).w = 0 := by
  obtain ⟨e, pre, pos, m, cmd, cause, hrun, -, hidle⟩ := aceRun_run d a
  obtain ⟨raw, hevaluated⟩ := evaluate_kept e a (stepCycle d) pre
  have hset : StepKept Arm.mode a (roleSet d a (stepCycle d)) d := roleSet_kept (fun _ _ _ _ _ _ => rfl) d a _
  have hwait : StepKept Arm.pMode a (roleSet d a (stepCycle d)) d := roleSet_kept (fun _ _ _ _ _ _ => rfl) d a _
  have he := hidle hmode hnone hbank hrow
  have hewait : (arm e a).pMode = none := (he.pMode.trans hwait.arm).trans hnone
  have hlaw : StepKept posture a (transferred e a (stepCycle d) pre) (roleSet d a (stepCycle d)) := (transferred_idle e a (stepCycle d) pre hewait).trans he
  obtain ⟨hbankset, hcfgset⟩ := hset.bank hbank
  obtain ⟨-, hcfg⟩ := hlaw.bank hbankset
  have hsame : cfg (transferred e a (stepCycle d) pre) = cfg d := by rw [cfg, hcfg, hcfgset]; rfl
  have hidles := select_idle (transferred e a (stepCycle d) pre) a raw (by rw [hlaw.mode, hset.arm, hmode])
  rw [hsame] at hidles
  have hend : StepKept applied a (aceRun d a .none) (select (transferred e a (stepCycle d) pre) a raw) := by
    rw [hrun]
    exact ((calSnapshot_kept ..).weaken Prod.fst).trans ((stepClosed_kept ..).trans ((settleModes_kept ..).trans hevaluated))
  have happlied := hend.arm.trans hidles
  simp only [applied, Prod.mk.injEq] at happlied
  exact happlied.2

end

end Sys2Proof.Machine
end

section
/-! PROOF. Control steps settled: a completed step and the steps that hardware abandons (R54, R55, R256, R257, R264, R321, R322). -/

namespace Sys2Proof.Machine

/-! A step that commits nothing -/

/-- An assigned output loses a cycle (R257). -/
def outputLost (d : Director) (a i : Nat) : Director :=
  if ySrc (cfg d) a i = 0 then d else
  let first := (tget {} i (arm d a).outs).loss = 0
  let d := modArm d a fun x => { x with outs := tmod {} i (fun o => { o with loss := o.loss + 1, fresh := false, nu := 0 }) x.outs }
  let d := modCntA d a fun t => { t with lost := incTab i t.lost }
  if first then raise d (56 + a) 0x04 (b1 i) else d

theorem lostStep_eq (d : Director) (a : Nat) : lostStep d a = (List.range (dimP (cfg d) a)).foldl (fun d i => outputLost d a i) d := rfl

section
variable {d : Director} {a : Nat}

theorem outputLost_kept {β : Type} {view : Arm → β} (hview : ∀ x o l, view { x with outs := o, cnt := { x.cnt with lost := l } } = view x) (d : Director) (a i : Nat) :
    StepKept view a (outputLost d a i) d := by
  unfold outputLost
  extract_lets first d1 d2
  have h1 : StepKept view a d1 d := .modArm d (fun _ => rfl) fun x => hview x _ x.cnt.lost
  have h2 : StepKept view a d2 d := .trans (.modArm d1 (fun _ => rfl) fun x => hview x x.outs _) h1
  exact .ite (.refl d) (.ite (.trans (.raise ..) h2) h2)

theorem lostStep_kept {β : Type} {view : Arm → β} (hview : ∀ x o l, view { x with outs := o, cnt := { x.cnt with lost := l } } = view x) (d : Director) (a : Nat) :
    StepKept view a (lostStep d a) d := .foldl (fun d i => outputLost_kept hview d a i) _ _

theorem outputLost_outs {i : Nat} (h : ySrc (cfg d) a i ≠ 0) :
    (arm (outputLost d a i) a).outs = tmod {} i (fun o => { o with loss := o.loss + 1, fresh := false, nu := 0 }) (arm d a).outs := by
  have houts (d : Director) (data : List Byte) : (arm (raise d (56 + a) 0x04 data) a).outs = (arm d a).outs := by rw [raise_arm]
  unfold outputLost
  extract_lets first d1 d2
  have h1 : (arm d1 a).outs = tmod {} i (fun o => { o with loss := o.loss + 1, fresh := false, nu := 0 }) (arm d a).outs := congrArg Arm.outs (arm_modArm ..)
  have h2 : StepKept Arm.outs a d2 d1 := .modArm d1 (fun _ => rfl) fun _ => rfl
  rw [if_neg h]
  exact ite_keeps (view := fun d => (arm d a).outs) ((houts ..).trans (h2.arm.trans h1)) (h2.arm.trans h1)

theorem outputLost_other {i j : Nat} (h : j ≠ i) : tget {} j (arm (outputLost d a i) a).outs = tget {} j (arm d a).outs := by
  by_cases hsrc : ySrc (cfg d) a i = 0
  · rw [outputLost, if_pos hsrc]
  · rw [outputLost_outs hsrc, tget_tmod_other _ h]

theorem outputLost_cfg (d : Director) (a i : Nat) : cfg (outputLost d a i) = cfg d := by
  refine ite_keeps (view := cfg) rfl (ite_keeps (view := cfg) ?_ rfl)
  rw [cfg, raise_cfg]
  rfl

theorem outputsLost_absent {j : Nat} {l : List Nat} (h : j ∉ l) (d : Director) :
    tget {} j (arm (l.foldl (fun d i => outputLost d a i) d) a).outs = tget {} j (arm d a).outs := by
  induction l generalizing d with
  | nil => rfl
  | cons i r ih =>
    rw [List.mem_cons, not_or] at h
    obtain ⟨hne, hrest⟩ := h
    rw [List.foldl_cons, ih hrest, outputLost_other hne]

theorem outputsLost_present {j : Nat} {l : List Nat} (hnodup : l.Nodup) (h : j ∈ l) (d : Director) (hsrc : ySrc (cfg d) a j ≠ 0) :
    tget {} j (arm (l.foldl (fun d i => outputLost d a i) d) a).outs = { tget {} j (arm d a).outs with loss := (tget {} j (arm d a).outs).loss + 1, fresh := false, nu := 0 } := by
  induction l generalizing d with
  | nil => exact absurd h List.not_mem_nil
  | cons i r ih =>
    obtain ⟨hnot, hrest⟩ := List.nodup_cons.mp hnodup
    rw [List.foldl_cons]
    rcases List.mem_cons.mp h with rfl | hin
    · rw [outputsLost_absent hnot, outputLost_outs hsrc, tget_tmod_same]
    · have hne : j ≠ i := fun heq => hnot (heq ▸ hin)
      rw [ih hrest hin _ (by rw [outputLost_cfg]; exact hsrc), outputLost_other hne]

/-- Every assigned output loses one cycle (R257). -/
theorem lostStep_out {i : Nat} (hi : i < dimP (cfg d) a) (hsrc : ySrc (cfg d) a i ≠ 0) :
    (tget {} i (arm (lostStep d a) a).outs).loss = (tget {} i (arm d a).outs).loss + 1 ∧ (tget {} i (arm (lostStep d a) a).outs).fresh = false := by
  rw [lostStep_eq, outputsLost_present List.nodup_range (List.mem_range.mpr hi) d hsrc]
  exact ⟨rfl, rfl⟩

/-- The frames of the step's order cycle carry NOP (R54, R55). -/
def nopOrdered (d : Director) (a : Nat) (k oc : Cycle) (why : NopCause) : Director :=
  modArm d a fun x => { x with nop := some (oc, why), probeHist := (k, []) :: x.probeHist.take 1 }

theorem nopOrdered_kept {β : Type} {view : Arm → β} (hview : ∀ x n p, view { x with nop := n, probeHist := p } = view x) (d : Director) (a : Nat) (k oc : Cycle) (why : NopCause) :
    StepKept view a (nopOrdered d a k oc why) d := .modArm d (fun _ => rfl) fun x => hview x _ _

theorem lostRun_eq (d : Director) (a : Nat) (k oc : Cycle) (why : NopCause) :
    lostRun d a k oc why = injectStep (calBlock (fallback (lostStep (nopOrdered d a k oc why) a) a) a k) a true := rfl

/-- What an abandoned step leaves as it is: the estimate, the applied input and the counters of its causes. -/
def uncommitted (x : Arm) : Option (Cycle × NopCause) × Word × Word × List F32 × List F32 × List F32 :=
  (x.nop, x.cnt.overrun, x.cnt.abandoned, x.xhat, x.u, x.uApplied)

theorem lostRun_kept (d : Director) (a : Nat) (k oc : Cycle) (why : NopCause) : StepKept uncommitted a (lostRun d a k oc why) (nopOrdered d a k oc why) := by
  rw [lostRun_eq]
  exact .trans (injectStep_kept _ _ (fun _ _ => rfl) _) (.trans (calBlock_kept _ _ _ fun _ _ _ _ => rfl) (.trans (fallback_kept _ _ fun _ _ _ _ _ _ _ => rfl)
    (lostStep_kept (fun _ _ _ => rfl) ..)))

section
variable (k oc : Cycle) (why : NopCause) (hmode : (arm d a).mode ≠ .auto)
include hmode

/-- Outside AUTO no fallback follows (R256): the mode stays, and every assigned output has lost a cycle. -/
theorem lostRun_manual : (arm (lostRun d a k oc why) a).mode = (arm d a).mode ∧ (arm (lostRun d a k oc why) a).outs = (arm (lostStep (nopOrdered d a k oc why) a) a).outs := by
  have hordered : (arm (nopOrdered d a k oc why) a).mode = (arm d a).mode := (nopOrdered_kept (fun _ _ _ => rfl) ..).arm
  have hlost : (arm (lostStep (nopOrdered d a k oc why) a) a).mode = (arm d a).mode := (lostStep_kept (view := Arm.mode) (fun _ _ _ => rfl) ..).arm.trans hordered
  rw [lostRun_eq, fallback_other _ _ (by rw [hlost]; exact hmode)]
  have hend : StepKept (fun x => (x.mode, x.outs)) a (injectStep (calBlock (lostStep (nopOrdered d a k oc why) a) a k) a true) (lostStep (nopOrdered d a k oc why) a) :=
    .trans (injectStep_kept _ _ (fun _ _ => rfl) _) (calBlock_kept _ _ _ fun _ _ _ _ => rfl)
  exact ⟨(hend.weaken Prod.fst).arm.trans hlost, (hend.weaken Prod.snd).arm⟩

theorem lostRun_out {i : Nat} (hi : i < dimP (cfg d) a) (hsrc : ySrc (cfg d) a i ≠ 0) :
    (tget {} i (arm (lostRun d a k oc why) a).outs).loss = (tget {} i (arm d a).outs).loss + 1 ∧ (tget {} i (arm (lostRun d a k oc why) a).outs).fresh = false := by
  obtain ⟨-, houts⟩ := lostRun_manual k oc why hmode
  have hordered : (arm (nopOrdered d a k oc why) a).outs = (arm d a).outs := (nopOrdered_kept (fun _ _ _ => rfl) ..).arm
  rw [houts, ← hordered]
  exact lostStep_out (d := nopOrdered d a k oc why) hi hsrc

end
end

/-- A step counted as overrun (R54), or as abandoned with its uncorrectable word (R55, R585). -/
def overrunCounted (d : Director) (a : Nat) : Director := raise (modCntA d a fun t => { t with overrun := satInc t.overrun }) (56 + a) 0x01 []
def abandonCounted (d : Director) (a addr : Nat) : Director :=
  sramUe (raise (modCntA d a fun t => { t with abandoned := satInc t.abandoned }) (56 + a) 0x02 []) addr 0x01

theorem overrunCounted_arm (d : Director) (a : Nat) :
    arm (overrunCounted d a) a = { arm d a with cnt := { (arm d a).cnt with overrun := satInc (arm d a).cnt.overrun } } := by
  rw [overrunCounted, raise_arm, modCntA, arm_modArm]

theorem overrunCounted_arm_other (d : Director) {a b : Nat} (h : b ≠ a) : arm (overrunCounted d a) b = arm d b := by
  rw [overrunCounted, raise_arm, modCntA, arm_modArm_other _ h]

theorem sramUe_arm (d : Director) (addr detail b : Nat) : arm (sramUe d addr detail) b = arm d b := by
  rw [sramUe, raise_arm]
  rfl

theorem sramUe_count (d : Director) (addr detail : Nat) : (sramUe d addr detail).bg.sramUe = satInc d.bg.sramUe := by
  rw [sramUe, raise_bg]

theorem abandonCounted_arm (d : Director) (a addr : Nat) :
    arm (abandonCounted d a addr) a = { arm d a with cnt := { (arm d a).cnt with abandoned := satInc (arm d a).cnt.abandoned } } := by
  rw [abandonCounted, sramUe_arm, raise_arm, modCntA, arm_modArm]

theorem abandonCounted_arm_other (d : Director) {a b : Nat} (h : b ≠ a) (addr : Nat) : arm (abandonCounted d a addr) b = arm d b := by
  rw [abandonCounted, sramUe_arm, raise_arm, modCntA, arm_modArm_other _ h]

theorem aceRun_overrun (d : Director) (a : Nat) : aceRun d a .overrun = lostRun (overrunCounted d a) a (stepCycle d) (stepOrder d) .overrun := by
  unfold aceRun overrunCounted
  rfl

theorem aceRun_uncorrectable (d : Director) (a x : Nat) :
    aceRun d a (.uncorrectable x) = lostRun (abandonCounted d a x) a (stepCycle d) (stepOrder d) .abandoned := by
  unfold aceRun abandonCounted
  rfl

/-! The step as a command -/

/-- The sequencer of the arm takes the cycle of its step (R32). -/
def sequenced (d : Director) (a : Nat) : Director := modArm d a fun x => { x with seq := stepCycle d }

/-- The Skeund frames that follow a step (R310). -/
def stepSent (d : Director) (a : Nat) (k : Cycle) (fault : PhaseFault) : Director :=
  if fault = .none then armSend (converterSend d a k) a k else converterSend d a k

theorem stepSent_kept {β : Type} {view : Arm → β} (d : Director) (a : Nat) (k : Cycle) (fault : PhaseFault) : StepKept view a (stepSent d a k fault) d :=
  .ite (.trans (.armSend ..) (.converterSend ..)) (.converterSend ..)

/-- The leases held depend on the configuration, the bursts and the side alone (R321). -/
theorem heldCount_of {e d : Director} (hcfg : e.cfg = d.cfg) (hcells : e.cells = d.cells) (hboot : e.boot = d.boot) (a : Nat) (k : Cycle) : heldCount e a k = heldCount d a k := by
  unfold heldCount cellRec holderCode cfg
  rw [hcfg, hcells, hboot]

theorem anyProven_of {e d : Director} (hcfg : e.cfg = d.cfg) (hcells : e.cells = d.cells) (a : Nat) : anyProven e a = anyProven d a := by
  unfold anyProven cellRec cfg
  rw [hcfg, hcells]

theorem sequenced_cycles (d : Director) (a : Nat) : stepCycle (sequenced (dirStart d) a) = stepCycle d ∧ stepOrder (sequenced (dirStart d) a) = stepOrder d := ⟨rfl, rfl⟩

theorem sequenced_arm (d : Director) (a : Nat) : arm (sequenced (dirStart d) a) a = { arm d a with seq := stepCycle d } := by
  have hstart : stepCycle (dirStart d) = stepCycle d := rfl
  have harm : arm (dirStart d) a = arm d a := rfl
  rw [sequenced, arm_modArm, hstart, harm]

theorem sequenced_arm_other (d : Director) {a b : Nat} (h : b ≠ a) : arm (sequenced (dirStart d) a) b = arm d b := arm_modArm_other (dirStart d) h _

theorem aceStep_reaches {s : State} {a : Nat} (ha : a < 6) (hworks : works s.dir = true) (hrun : s.dir.time.running = true)
    (hcells : armCells (cfg s.dir) a ≠ [] ∨ awaited (arm s.dir a) = true) (fault : PhaseFault) :
    ∃ t, exec (.aceStep a fault) s = .next t
      ∧ Reached s t (stepSent (aceRun (sequenced (dirStart s.dir) a) a fault) a (stepCycle s.dir) fault) := by
  refine unit_reaches (o := execAceStep a fault s) rfl (decide_eq_true ha) ((if_pos ?_).trans rfl)
  have hstep : (!(armCells (cfg s.dir) a).isEmpty || awaited (arm s.dir a)) = true := by
    rcases hcells with h | h
    · rw [List.isEmpty_eq_false_iff.mpr h]
      rfl
    · rw [h, Bool.or_true]
  show (works s.dir && s.dir.time.running && (!(armCells (cfg s.dir) a).isEmpty || awaited (arm s.dir a))) = true
  rw [hworks, hrun, hstep]
  rfl

section
variable {s : State} {a : Nat} (ha : a < 6) (hworks : works s.dir = true) (hrun : s.dir.time.running = true)
  (hcells : armCells (cfg s.dir) a ≠ [] ∨ awaited (arm s.dir a) = true)
include ha hworks hrun hcells

theorem aceStep_completes : ∃ t, exec (.aceStep a .none) s = .next t ∧ (arm t.dir a).stepped = true ∧ (arm t.dir a).cycle = stepCycle s.dir
    ∧ (arm t.dir a).seq = stepCycle s.dir ∧ t.mem = s.mem
    ∧ ((arm s.dir a).pBank = none → (arm t.dir a).tAce = tAce (cfg s.dir) a)
    ∧ ((arm s.dir a).pIsolate = [] → (arm t.dir a).held = heldCount s.dir a (stepCycle s.dir)
        ∧ ((arm s.dir a).isolate = true ∨ anyProven s.dir a = false → (arm t.dir a).role = .isolated)
        ∧ ((arm s.dir a).isolate = false → anyProven s.dir a = true → quorum (cfg s.dir) a ≤ heldCount s.dir a (stepCycle s.dir) →
            0 < heldCount s.dir a (stepCycle s.dir) → (arm t.dir a).role = .authority))
    ∧ ((arm s.dir a).pIsolate = [] → (arm s.dir a).isolate = true → (arm s.dir a).pMode = none → (arm s.dir a).pBank = none →
        operating (arm s.dir a).mode = false →
        (arm t.dir a).u = (List.range (dimM (cfg s.dir) a)).map (fun i => parmF (armS (cfg s.dir) a) 16 i 0)
        ∧ (arm t.dir a).uApplied = (arm t.dir a).u ∧ (arm t.dir a).nIns = 0 ∧ (arm t.dir a).w = 0) := by
  obtain ⟨t, hnext, h⟩ := aceStep_reaches ha hworks hrun hcells .none
  generalize hsequenced : sequenced (dirStart s.dir) a = e at h
  have he : arm e a = { arm s.dir a with seq := stepCycle s.dir } := by rw [← hsequenced, sequenced_arm]
  have hk : stepCycle e = stepCycle s.dir := by rw [← hsequenced]; rfl
  have hcount : heldCount e a (stepCycle s.dir) = heldCount s.dir a (stepCycle s.dir) := by rw [← hsequenced]; exact heldCount_of rfl rfl rfl ..
  have hproven : anyProven e a = anyProven s.dir a := by rw [← hsequenced]; exact anyProven_of rfl rfl _
  have hcfg : cfg e = cfg s.dir := by rw [← hsequenced]; rfl
  have hwrites : e.writes = [] := by rw [← hsequenced]; rfl
  obtain ⟨hstanding, hstepped, hcycle, htAce⟩ := aceRun_completes e a
  have hidles := aceRun_idles e a
  rw [hk] at hstanding hcycle hidles
  have hset : StepKept Arm.seq a (roleSet e a (stepCycle s.dir)) e := roleSet_kept (fun _ _ _ _ _ _ => rfl) ..
  have hsent {β : Type} (view : Arm → β) : view (arm t.dir a) = view (arm (aceRun e a .none) a) := by
    rw [h.arm]
    exact (stepSent_kept ..).arm
  have hroles : StepKept Arm.role a (aceRun e a .none) (roleSet e a (stepCycle s.dir)) := hstanding.weaken (·.2.2)
  have hrole : (arm t.dir a).role = (arm (roleSet e a (stepCycle s.dir)) a).role := (hsent Arm.role).trans hroles.arm
  have hpend : (arm e a).pIsolate = (arm s.dir a).pIsolate := by rw [he]
  refine ⟨t, hnext, (hsent Arm.stepped).trans hstepped, (hsent Arm.cycle).trans hcycle, ?_, h.mem_of_quiet ?_, fun hbank => ?_, fun hnone => ⟨?_, fun hout => ?_, fun hin hany hquorum hheld => ?_⟩,
    fun hnone hout hwait hbank hmode => ?_⟩
  · have hseq : StepKept Arm.seq a (aceRun e a .none) (roleSet e a (stepCycle s.dir)) := hstanding.weaken Prod.fst
    rw [hsent Arm.seq, hseq.arm, hset.arm, he]
  · exact (stepSent_kept (view := Arm.seq) ..).writes.trans (hstanding.writes.trans (hset.writes.trans hwrites))
  · rw [hsent Arm.tAce, htAce (by rw [he]; exact hbank), hcfg]
  · have hheld : StepKept Arm.held a (aceRun e a .none) (roleSet e a (stepCycle s.dir)) := hstanding.weaken (·.2.1)
    rw [hsent Arm.held, hheld.arm, roleSet_held (hpend.trans hnone), hcount]
  · obtain ⟨hisolated, -⟩ := roleSet_isolated (k := stepCycle s.dir) (hpend.trans hnone) (by rw [hproven, he]; exact hout)
    rw [hrole, hisolated]
  · rw [hrole]
    exact roleSet_authority (hpend.trans hnone) (by rw [he]; exact hin) (by rw [hproven, hany]) (by rw [hcfg, hcount]; exact hquorum) (by rw [hcount]; exact hheld)
  · obtain ⟨-, hrow⟩ := roleSet_isolated (k := stepCycle s.dir) (hpend.trans hnone) (.inl (by rw [he]; exact hout))
    obtain ⟨hu, huApplied, hnIns, hw⟩ := hidles (by rw [he]; exact hmode) (by rw [he]; exact hwait) (by rw [he]; exact hbank) (by rw [hrow]; decide)
    rw [hcfg] at hu huApplied
    rw [hsent Arm.u, hsent Arm.uApplied, hsent Arm.nIns, hsent Arm.w, hu, huApplied, hnIns, hw]
    exact ⟨rfl, rfl, rfl, rfl⟩

/-- A step that commits nothing, from the director `n` that has counted its cause (R54, R55, R257). -/
theorem aceStep_loses {fault : PhaseFault} {why : NopCause} {n : Director}
    (hlost : aceRun (sequenced (dirStart s.dir) a) a fault = lostRun n a (stepCycle s.dir) (stepOrder s.dir) why) :
    ∃ t, exec (.aceStep a fault) s = .next t ∧ t.dir.bg = n.bg ∧ (∀ b, b ≠ a → arm t.dir b = arm n b)
      ∧ uncommitted (arm t.dir a) = uncommitted { arm n a with nop := some (stepOrder s.dir, why) }
      ∧ ((arm n a).mode ≠ .auto → (arm t.dir a).mode = (arm n a).mode
          ∧ ∀ i, i < dimP (cfg n) a → ySrc (cfg n) a i ≠ 0 →
              (tget {} i (arm t.dir a).outs).loss = (tget {} i (arm n a).outs).loss + 1 ∧ (tget {} i (arm t.dir a).outs).fresh = false) := by
  obtain ⟨t, hnext, h⟩ := aceStep_reaches ha hworks hrun hcells fault
  rw [hlost] at h
  have hkept := lostRun_kept n a (stepCycle s.dir) (stepOrder s.dir) why
  have hordered : StepKept Arm.u a (nopOrdered n a (stepCycle s.dir) (stepOrder s.dir) why) n := nopOrdered_kept (fun _ _ _ => rfl) ..
  have hnop : uncommitted (arm (nopOrdered n a (stepCycle s.dir) (stepOrder s.dir) why) a) = uncommitted { arm n a with nop := some (stepOrder s.dir, why) } := by
    rw [nopOrdered, arm_modArm]
    rfl
  have hsent {β : Type} (view : Arm → β) : view (arm t.dir a) = view (arm (lostRun n a (stepCycle s.dir) (stepOrder s.dir) why) a) := by
    rw [h.arm]
    exact (stepSent_kept ..).arm
  have hend := stepSent_kept (view := Arm.u) (lostRun n a (stepCycle s.dir) (stepOrder s.dir) why) a (stepCycle s.dir) fault
  refine ⟨t, hnext, ?_, fun b hb => ?_, (hsent uncommitted).trans (hkept.arm.trans hnop), fun hmode => ⟨?_, fun i hi hsrc => ?_⟩⟩
  · rw [h.bg, hend.bg, hkept.bg, hordered.bg]
  · rw [h.arm, hend.other b hb, hkept.other b hb, hordered.other b hb]
  · obtain ⟨hstays, -⟩ := lostRun_manual (stepCycle s.dir) (stepOrder s.dir) why hmode
    exact (hsent Arm.mode).trans hstays
  · rw [hsent Arm.outs]
    exact lostRun_out (stepCycle s.dir) (stepOrder s.dir) why hmode hi hsrc

theorem aceStep_overruns : ∃ t, exec (.aceStep a .overrun) s = .next t ∧ (arm t.dir a).nop = some (stepOrder s.dir, .overrun)
    ∧ (arm t.dir a).cnt.overrun = satInc (arm s.dir a).cnt.overrun ∧ (arm t.dir a).xhat = (arm s.dir a).xhat
    ∧ (arm t.dir a).u = (arm s.dir a).u ∧ (arm t.dir a).uApplied = (arm s.dir a).uApplied
    ∧ ((arm s.dir a).mode ≠ .auto → (arm t.dir a).mode = (arm s.dir a).mode
        ∧ ∀ i, i < dimP (cfg s.dir) a → ySrc (cfg s.dir) a i ≠ 0 →
            (tget {} i (arm t.dir a).outs).loss = (tget {} i (arm s.dir a).outs).loss + 1 ∧ (tget {} i (arm t.dir a).outs).fresh = false)
    ∧ ∀ b, b ≠ a → arm t.dir b = arm s.dir b := by
  obtain ⟨hcycle, horder⟩ := sequenced_cycles s.dir a
  obtain ⟨t, hnext, -, hother, huncommitted, hmanual⟩ := aceStep_loses ha hworks hrun hcells
    (by rw [aceRun_overrun, hcycle, horder] : aceRun (sequenced (dirStart s.dir) a) a .overrun = lostRun (overrunCounted (sequenced (dirStart s.dir) a) a) a _ _ .overrun)
  have hcfg : cfg (overrunCounted (sequenced (dirStart s.dir) a) a) = cfg s.dir := congrArg CfgState.parsed (raise_cfg ..)
  rw [overrunCounted_arm, sequenced_arm] at huncommitted hmanual
  rw [hcfg] at hmanual
  simp only [uncommitted, Prod.mk.injEq] at huncommitted
  obtain ⟨hnop, hcount, -, hxhat, hu, huApplied⟩ := huncommitted
  exact ⟨t, hnext, hnop, hcount, hxhat, hu, huApplied, hmanual, fun b hb => by rw [hother b hb, overrunCounted_arm_other _ hb, sequenced_arm_other _ hb]⟩

theorem aceStep_abandons (x : Nat) : ∃ t, exec (.aceStep a (.uncorrectable x)) s = .next t ∧ (arm t.dir a).nop = some (stepOrder s.dir, .abandoned)
    ∧ (arm t.dir a).cnt.abandoned = satInc (arm s.dir a).cnt.abandoned ∧ t.dir.bg.sramUe = satInc s.dir.bg.sramUe
    ∧ (arm t.dir a).xhat = (arm s.dir a).xhat ∧ (arm t.dir a).u = (arm s.dir a).u ∧ (arm t.dir a).uApplied = (arm s.dir a).uApplied
    ∧ ((arm s.dir a).mode ≠ .auto → (arm t.dir a).mode = (arm s.dir a).mode) ∧ ∀ b, b ≠ a → arm t.dir b = arm s.dir b := by
  obtain ⟨hcycle, horder⟩ := sequenced_cycles s.dir a
  obtain ⟨t, hnext, hbg, hother, huncommitted, hmanual⟩ := aceStep_loses ha hworks hrun hcells (by rw [aceRun_uncorrectable, hcycle, horder] :
    aceRun (sequenced (dirStart s.dir) a) a (.uncorrectable x) = lostRun (abandonCounted (sequenced (dirStart s.dir) a) a x) a _ _ .abandoned)
  have hue : t.dir.bg.sramUe = satInc s.dir.bg.sramUe := by
    rw [hbg, abandonCounted, sramUe_count, raise_bg]
    rfl
  rw [abandonCounted_arm, sequenced_arm] at huncommitted hmanual
  simp only [uncommitted, Prod.mk.injEq] at huncommitted
  obtain ⟨hnop, -, hcount, hxhat, hu, huApplied⟩ := huncommitted
  refine ⟨t, hnext, hnop, hcount, hue, hxhat, hu, huApplied, fun hmode => ?_, fun b hb => by rw [hother b hb, abandonCounted_arm_other _ hb, sequenced_arm_other _ hb]⟩
  obtain ⟨hstays, -⟩ := hmanual hmode
  exact hstays

end

/-- Settles O33: a control step completes with its role and its results, and one that hardware abandons commits nothing. -/
theorem controlSteps : Obligations.ControlSteps := by
  unfold Obligations.ControlSteps
  exact ⟨fun s a ha hworks hrun hcells => aceStep_completes ha hworks hrun hcells, fun s a ha hworks hrun hcells => aceStep_overruns ha hworks hrun hcells,
    fun s a x ha hworks hrun hcells => aceStep_abandons ha hworks hrun hcells x⟩

end Sys2Proof.Machine
end
